-- ==== Sys2Proof/Word.lean ====
section
/-! DEFINITION. The word types of the model. Registers, memory words, packet words and FP encodings are bit vectors;
addresses, counts, times and unit numbers are natural numbers. -/

namespace Sys2Proof

/-- One byte. -/
abbrev Byte := BitVec 8

/-- A 32-bit word: scalar registers, vector lanes, FP32 values, 32-bit registers. -/
abbrev W32 := BitVec 32

/-- A 64-bit word: the data of one coded word (R138, R322), a 64-bit register, a packet word. -/
abbrev W64 := BitVec 64

/-- A sparse table: keys strictly rising, no entry equal to what an unlisted key reads as (the canonical form
`Table.wf` of Machine/Ops.lean). -/
abbrev Table (α : Type) := List (Nat × α)

end Sys2Proof
end

