-- ==== Sys2Proof/Config.lean ====
section
/-! DEFINITION. What a build of the module fixes (R2, R317, R378, R460) and the free values: constants with no body, which no
proof can evaluate (log entries 6, 7, 9, 12 to 14, 24, 51, 65, 82, 96, 97). -/

namespace Sys2Proof

/-- The three build variants (R2). -/
inductive Variant where
  | bt3204
  | bt2406
  | bt1608
deriving DecidableEq, Repr

/-- Populated channels on each floor, `c_f` (R246, R317). -/
def Variant.chansPerFloor : Variant → Nat
  | .bt3204 => 64
  | .bt2406 => 48
  | .bt1608 => 32

/-- Populated stacks on each floor (R317). -/
def Variant.stacksPerFloor : Variant → Nat
  | .bt3204 => 4
  | .bt2406 => 3
  | .bt1608 => 2

/-- Port dies (R2). -/
def Variant.portDies : Variant → Nat
  | .bt3204 => 4
  | .bt2406 => 6
  | .bt1608 => 8

/-- Weapex links (R2). -/
def Variant.links (v : Variant) : Nat := 8 * v.portDies

/-- Bytes of the HBM region (R685). -/
def Variant.hbmBytes : Variant → Nat
  | .bt3204 => 0x12000000000
  | .bt2406 => 0xD800000000
  | .bt1608 => 0x9000000000

/-- Base of the Exchange window (R477). -/
def Variant.exchBase : Variant → Nat
  | .bt3204 => 0x11F00000000
  | .bt2406 => 0xD700000000
  | .bt1608 => 0x8F00000000

/-- Hash segments (R245). -/
def Variant.segments : Variant → Nat
  | .bt3204 => 768
  | .bt2406 => 576
  | .bt1608 => 384

/-- Part number code of the identity record (R658). -/
def Variant.partCode : Variant → Nat
  | .bt3204 => 0x3204
  | .bt2406 => 0x2406
  | .bt1608 => 0x1608

/-- Bit of `compat` in a firmware image (R644). -/
def Variant.compatBit : Variant → Nat
  | .bt3204 => 0
  | .bt2406 => 1
  | .bt1608 => 2

/-- The four special functions of the vector unit (R88). -/
inductive SpecialFn where
  | exp2
  | log2
  | rcp
  | rsqrt
deriving DecidableEq, Repr

/-- Free value: which result within the 2 ulp of R88 a special function returns for an input, one fixed choice per
function and input (R88, R100); see `Machine.specialDelta`. Log entry 9. -/
opaque Config.specialPick : SpecialFn → W32 → Nat

/-- Free values that the spec leaves open, one for each draw (R204's fail_desc of a halted chain and others named in log entry
7); `State.freeCtr` counts the draws. -/
opaque Config.freeValue : Nat → Nat

/-- Free value: the check bits that the (72,64) code gives a word. R495 states what the code corrects and detects, and not its bits. Log
entry 82. -/
opaque Config.checkBits : W64 → Byte

/-- Free value: the slot that a module holds at its parent in a tree, modulo 8: own ID, tree, parent. R430 sends it in up packets, and no command
or register tells it to the module. Log entry 24. -/
opaque Config.parentSlot (own tree parent : Nat) : Nat

/-- Free value: the unit number that fault records of unit kinds 10 (power stage or converter) and 11 (sensor) give a unit. R523
names the kinds and states no numbers for them. The model's own number of the unit comes second: a rail's of R588, 1,000 plus
a converter's, 2,000 plus 16 times a bond zone's die plus the zone; for a sensor 64 times its thermal unit's plus its own. Log
entry 51. -/
opaque Config.logUnit (kind n : Nat) : Nat

/-- Free value: the place of a counter, by its number in the model, among the entries of a telemetry snapshot (R632, R633 state no
order). Counters of one rank keep the model's order. Log entry 65. -/
opaque Config.telemRank : Nat → Nat

/-- Free value: what an HBM byte that nothing has written since reads as, after the loss number `gen` (from 1) of HBM contents
(R542). Log entry 6. -/
opaque Config.freeHbm : Nat → Nat → Byte

/-- Free value: whether the controller of a channel issues a refresh-management command (odd) after the given number of accesses. R321 leaves
the counts to the stack's parameters. Log entry 97. -/
opaque Config.refreshDue (chan accesses : Nat) : Nat

/-- Free value: the slice of its floor that lies beside the floor-side port of a physical sector, modulo 64 (R299 names it and states no
numbering). Log entry 96. -/
opaque Config.holdSlice : Nat → Nat

/-- Free value: the set, modulo 768, in which a slice puts a further hold line beside `k` others. Log entry 96. -/
opaque Config.holdSet (slice k : Nat) : Nat

/-- Free value: the steering correction that the Keeper's proportional-integral law gives for an offset and the last
adjustment (R620 states no gains). Log entry 12. -/
opaque Config.steer : Nat → Int → Int

/-- FIPS 204 ML-DSA-87 verification (R645): public key, message, signature. Uninterpreted: the spec names the
algorithm and does not define it. Log entry 13. -/
opaque Config.mldsaVerify : List Byte → List Byte → List Byte → Bool

/-- FIPS 204 ML-DSA-87 key generation from the 32-byte seed (R652): the public key. Log entry 13. -/
opaque Config.mldsaPublicKey : List Byte → List Byte

/-- FIPS 204 ML-DSA-87 signature by the identity key (R652, R656), with the signing randomness as a counter. Log entry 13. -/
opaque Config.mldsaSign : List Byte → List Byte → Nat → List Byte

/-- The public key inside a DER X.509 certificate (R653); the spec names the format only. Log entry 13. -/
opaque Config.certPublicKey : List Byte → List Byte

/-- The contents of the boot ROM (R643, R654), fixed at manufacture and not stated. Log entry 13. -/
opaque Config.bootRom : List Byte

/-- Free value: the fields of SPDM responses that DSP0274 defines and the spec does not. Log entry 14. -/
opaque Config.spdmBody : Nat → List Byte → List Byte

end Sys2Proof
end

