-- ==== Sys2Proof/Syntax.lean ====
section
/-! DEFINITION. The commands: one constructor of `Instr` per row of spec/opcode_table.json, with the operands the row's rules
give it. What reaches the block from outside (bytes of host memory, sensor readings, test results, decoder outcomes, packets,
flits) is an operand; `WellFormed` says which values an operand may take. -/

namespace Sys2Proof

/-- Outcome of one decode of a coded word (R495): clean, corrected, or uncorrectable. -/
inductive Dec where
  | clean
  | corrected
  | uncorrectable
deriving DecidableEq, Repr

/-- A new error that the reading of a scratchpad meets: a correctable or an uncorrectable word (R172, R173), a copy of the word's fresh
bit that the two others outvote (R140), or a parity error of a near-cache tag (R163). -/
inductive SpdFind where
  | corrected
  | uncorrectable
  | freshCopy
  | tagParity
deriving DecidableEq, Repr

/-- An error and the word that meets it; for a tag, its place in the tag store, `4 × set + way`. -/
structure SpdErr where
  word : Nat
  find : SpdFind
deriving DecidableEq, Repr

/-- What a read of one 256 B sector from HBM meets (R323, R336): words corrected and the DQ lane of each correction, words
uncorrectable; of the on-die ECC, clean words reported as corrected, words decoded clean or corrected that it reports as
uncorrectable, and its severity at the first uncorrectable word as HBMC_CH_ERR codes it; and for a Twin compare whether the line
epoch comes uncorrectable (R330). -/
structure HbmIn where
  ce : List Nat
  lanes : List Nat
  ue : List Nat
  odCe : Nat
  odUe : Nat
  sev : Nat
  epochUe : Bool
deriving DecidableEq, Repr

/-- Nothing met on a read. -/
def HbmIn.quiet : HbmIn := ⟨[], [], [], 0, 0, 0, false⟩

/-- What one access of a slice meets. Of the array decoders: words of the sector corrected and words found uncorrectable, by index, 0 to 31
(R269, R270), whether the line's metadata comes uncorrectable (R256), and the words found uncorrectable in each dirty sector of the victim
that it writes back (R270). Of the channel, where it reads HBM at once: what the reads of copy A and copy B meet (R323, R329). -/
structure SliceDec where
  ce : List Nat
  ue : List Nat
  metaUe : Bool
  wb : List (Nat × List Nat)
  a : HbmIn
  b : HbmIn
deriving DecidableEq, Repr

/-- Nothing met in an access. -/
def SliceDec.quiet : SliceDec := ⟨[], [], false, [], .quiet, .quiet⟩

/-- Which side makes a register write (R461): the host over BAR0, or the Keeper. -/
inductive Writer where
  | host
  | keeper
deriving DecidableEq, Repr

/-- One stage's region in a placement (R25): base logical tile, rows, columns. -/
structure StagePlan where
  base : Nat
  h : Nat
  w : Nat
deriving DecidableEq, Repr

/-- One tensor's place (R27, R29, R473): module address, Near or Spread hash, Near group, floor (of a Near or Floor tensor),
kennel window (64 none), persistence as TENSOR_DECL codes it. -/
structure TensorPlan where
  addr : Nat
  near : Bool
  group : Nat
  floor : Nat
  kennel : Nat
  pers : Nat
deriving DecidableEq, Repr

/-- One hash segment's mapping in a placement (R245, R277): segment, kind, near floor, chan_base, and its mirror when it is a
copy A segment of a Twin (R325, R350). -/
structure SegPlan where
  seg : Nat
  near : Bool
  floor : Nat
  base : Nat
  mirror : Option Nat
deriving DecidableEq, Repr

/-- One slice's mode for Floor tensors (R252, R701). -/
structure ModePlan where
  slice : Nat
  mode : Nat
  splitWays : Nat
deriving DecidableEq, Repr

/-- A placement of a job (R25 to R30). -/
structure Plan where
  stages : List StagePlan
  tensors : List TensorPlan
  segs : List SegPlan
  modes : List ModePlan
deriving DecidableEq, Repr, Inhabited

/-- What the host's memory answers a command: the bytes a read of the buffer it names returns (`none`: the read fails,
R468), whether a write to its buffer succeeds, and whether a load of an instruction region that
the command makes reads poison (R503). `met`: what the next reads of committed memory by the Keeper and by the snapshot engine
meet at the slices and channels from now on, by address of the sector (R270, R323, R699). -/
structure CmdIn where
  read : Option (List Byte)
  wrOk : Bool
  imagePoison : Bool
  met : List (Nat × SliceDec)
deriving DecidableEq, Repr

/-- A host command as submitted (R463): its queue, the fields of word 0, the reserved bits of word 0 ([15:10] and [47:32] as
one number), the parameter words, and what the host's memory answers it. -/
structure Entry where
  sq : Nat
  fence : Bool
  noIrq : Bool
  rsv : Nat
  cmdId : Nat
  job : Nat
  w1 : W64
  w2 : W64
  w3 : W64
  w4 : W64
  w5 : W64
  w6 : W64
  w7 : W64
  inp : CmdIn
deriving DecidableEq, Repr

/-- A submission entry as read from the ring: 8 words (R463), and what the host's memory will answer the command. -/
structure RawEntry where
  words : List W64
  inp : CmdIn
deriving DecidableEq, Repr

/-- How a bring-up step is started (R530): a GO written to BOOT_STEP, or a BRINGUP_STEP command. -/
inductive StepSrc where
  | boot
  | cmd (e : Entry)
deriving DecidableEq, Repr

/-- The outcome of training one HBM channel (R320, R321): the best rate it reaches as HBMC_CFG.rate codes it (`none`: fails at
every rate), lanes repaired per pseudo-channel, and the suspect lanes left unrepaired, 0 to 63. -/
structure ChanTrain where
  chan : Nat
  rate : Option Nat
  rep0 : Nat
  rep1 : Nat
  unrep : List Nat
deriving DecidableEq, Repr

/-- The outcome of training or retraining one link (R393, R394): link, lanes that pass (bits 3 to 0), polarity inverted,
order reversed, peer's link, module ID and its valid
bit, and the peer's next sequence number and last one received in order. -/
structure LinkTrain where
  link : Nat
  lanes : Nat
  pol : Nat
  rev : Bool
  peerLink : Nat
  peerModule : Nat
  peerValid : Bool
  peerSeq : Nat
  peerAck : Nat
deriving DecidableEq, Repr

/-- Kinds of RAIL_FAULT (R563): which rail left its band or lost its last phase. -/
inductive RailEvent where
  | rail (n : Nat)
deriving DecidableEq, Repr

/-- One rail's sample for PWRM_CUR (R572, R591): entry, mean and peak current, voltage. -/
structure RailSample where
  n : Nat
  avg : Nat
  peak : Nat
  mv : Nat
deriving DecidableEq, Repr

/-- What a cage module's memory reads as (R677). -/
structure CageType where
  readable : Bool
  compatible : Bool
  passive : Bool
  power : Nat
deriving DecidableEq, Repr

/-- The readings of one THERMAL_POLL (R593, R597) in units of 0.25 °C: the sensors of each deck, floor and port die, and the stages of each
power-stage group (`none`: a stage's sensor fails its self-check). -/
structure ThermalIn where
  deck : List (List Nat)
  floor : List (List Nat)
  port : List (List Nat)
  stage : List (List (Option Int))
deriving DecidableEq, Repr

/-- A PTP Announce (R622): clock identity, domain, and the best-master data set in comparison order. -/
structure Announce where
  clock : Nat
  dom : Nat
  data : List Nat
deriving DecidableEq, Repr

/-- A PTP delay measurement (R622): the four times. -/
structure DelayIn where
  t1 : Int
  t2 : Int
  t3 : Int
  t4 : Int
deriving DecidableEq, Repr

/-- The redundant tables of R506. -/
inductive TableKind where
  | tileMap
  | hashMap
  | twin
  | perm
  | route
  | window
deriving DecidableEq, Repr

/-- An SPDM request at the DOE mailbox (R656, R657): version byte, code, two parameters and the bytes after the header. -/
structure SpdmMsg where
  version : Nat
  code : Nat
  p1 : Nat
  p2 : Nat
  body : List Byte
deriving DecidableEq, Repr

/-- A scalar register number. -/
abbrev Reg := BitVec 5

/-- An 18-bit immediate (R108). -/
abbrev Imm := BitVec 18

/-- The fields of a vector slot in its compute form (R107). -/
structure VC where
  vd : BitVec 4
  va : BitVec 4
  vb : BitVec 4
  vc : BitVec 4
  typ : BitVec 2
  rnd : BitVec 2
  sat : BitVec 2
  mask : BitVec 2
deriving DecidableEq, Repr

/-- The fields of a vector slot in its memory form (R107). -/
structure VM where
  vreg : BitVec 4
  rs : BitVec 5
  off : BitVec 15
  mask : BitVec 2
  nfmt : BitVec 3
  rnd : BitVec 2
  sat : BitVec 2
deriving DecidableEq, Repr

/-- A bond (R232, R534): kind 0 shaft down, 1 shaft up, 2 gateway, 3 slice group; the unit, group and bond. -/
structure BondRef where
  kind : Nat
  unit : Nat
  group : Nat
  bond : Nat
deriving DecidableEq, Repr

/-- A router of the mesh: die, physical row and column, and the gateway, if the packet comes to it through one. -/
structure Hop where
  die : Nat
  row : Nat
  col : Nat
  gate : Option Nat
deriving DecidableEq, Repr

/-- What a packet or flit group meets on the mesh or a shaft on its way (R225, R231): its header or control word comes uncorrectable,
words corrected, data words (by place in the 256-byte block or the packet) that come uncorrectable, the bond to which the syndrome monitor
attributes the corrections (R234), and for a mesh packet whose header is uncorrectable the router that finds it, if not the
destination's. A guest tile's shaft traffic also crosses the mesh (R237): `meshCe` and `meshUe` are what it meets there, and it is lost
there when `place` names a router. -/
structure Transit where
  lost : Bool
  ce : Nat
  ue : List Nat
  bond : Option BondRef
  place : Option Hop
  meshCe : Nat
  meshUe : List Nat
deriving DecidableEq, Repr

/-- A path without errors. -/
def Transit.clean : Transit := ⟨false, 0, [], none, none, 0, []⟩

/-- What a check of a redundant table finds in its three copies (R506, R509): those whose CRC passes, and the contents of each as a
number, equal contents alike. -/
structure CopyRead where
  crc : List Bool
  id : List Nat
deriving DecidableEq, Repr

/-- A fault that starts a discard or joins one (R501): source code, class (1 Absorbed, 2 Job-fatal), unit kind and unit, and
the Job-fatal cause. -/
structure FaultIn where
  source : Nat
  unitKind : Nat
  unit : Nat
deriving DecidableEq, Repr

/-- The pack header (R430). -/
structure PackHdr where
  tree : Nat
  kind : Nat
  up : Bool
  rop : Nat
  dtype : Nat
  countM1 : Nat
  child : Nat
  status : Nat
  opSeq : Nat
  members : Nat
  aux : Nat
deriving DecidableEq, Repr

/-- The management header (R538). -/
structure MgmtHdr where
  kind : Nat
  link : Nat
  idValid : Bool
  part : Nat
  status : Nat
deriving DecidableEq, Repr

/-- A packet: the header of R396, its data bytes, the data words marked as poisoned, and the pack or management header of
its body. `typ` is the code of R397. -/
structure Packet where
  typ : Nat
  collar : Nat
  dst : Nat
  src : Nat
  wkind : Nat
  winIdx : Nat
  gen : Nat
  doorbell : Bool
  etype : Nat
  ret : Bool
  offset : Nat
  lenM1 : Nat
  epoch : Nat
  tile : Nat
  birth : Nat
  reqTile : Nat
  reqEngine : Nat
  reqTag : Nat
  reqKind : Nat
  reqPort : Nat
  code : Nat
  unprot : Bool
  data : List Byte
  poison : List Nat
  pack : Option PackHdr
  mgmt : Option MgmtHdr
deriving DecidableEq, Repr

/-- The parent's answer to a delay measurement on the pack lane (R442): the link it arrives on, the packet, and the parent's receive time, for
which the packet has no field. -/
structure DelayReply where
  link : Nat
  pkt : Packet
  t2 : Int
deriving DecidableEq, Repr


/-- A flit as it arrives (R382, R383): the link header, the 30 body words, the poison mask and the CRC word. -/
structure Flit where
  seq : Nat
  ackSeq : Nat
  nak : Bool
  ctl : Bool
  vl : Nat
  rpool : Bool
  sop : Bool
  eop : Bool
  crVl : Nat
  crRpool : Bool
  crTotal : Nat
  body : List W64
  poison : BitVec 30
  crc : W32
deriving DecidableEq, Repr

/-- What the FEC of R381 reports for a flit: symbols corrected, whether the flit overlaps a codeword flagged uncorrectable, the lanes concerned, how
many flagged codewords it overlaps that no earlier flit did, and the symbol errors of each lane that came with it (R395). -/
structure FecIn where
  ceSym : Nat
  flagged : Bool
  lanes : Nat
  ueCw : Nat
  laneSym : List Nat
deriving DecidableEq, Repr

/-- The commands of the block, one per row of spec/opcode_table.json, in the table's order. -/
inductive Instr where
  /-- NOP (R470). Host command that does nothing and completes at once. -/
  | nop (e : Entry)
  /-- SESSION_OPEN (R470). Admin command that binds the named queues to a new session and returns its number. -/
  | sessionOpen (e : Entry)
  /-- SESSION_CLOSE (R470). Admin command that closes the session's job and frees its queues. -/
  | sessionClose (e : Entry)
  /-- JOB_OPEN (R15). Opens a job, sets the epoch quota and rebuilds the tile map from the merged defect map. -/
  | jobOpen (e : Entry)
  /-- JOB_CLOSE (R470). Discards any running pass, aborts held pass commands, closes windows, bulk-clears tiles and resets slice modes and pages. -/
  | jobClose (e : Entry)
  /-- STAGE_LOAD (R471). Checks a stage image and its declaration and loads the stage, or refuses it with STAGE_INVALID or JOB_SEALED. -/
  | stageLoad (e : Entry)
  /-- TENSOR_DECL (R27). Declares a tensor's size, class and persistence for the job and returns its index. -/
  | tensorDecl (e : Entry)
  /-- PLACE (R25). Binds stages and tensors, seals the job and loads instruction regions, or reports PLACE_NOFIT with a shortfall record. -/
  | place (e : Entry)
  /-- PLACE_QUERY (R473). Writes the placement reply into a host buffer. -/
  | placeQuery (e : Entry)
  /-- PASS_LAUNCH (R23). Launches a pass with a new epoch, or holds it behind the uncommitted pass or the energy account. -/
  | passLaunch (e : Entry)
  /-- PASS_COMMIT (R302). Names the commit mode of a pass, held until the pass ends; completes at the commit instant. -/
  | passCommit (e : Entry)
  /-- EXCH_DECLARE (R477). Places the Exchange window at the top of HBM with the given segment size. -/
  | exchDeclare (e : Entry)
  /-- EXCH_DIR (R477). Sets the direction of a run of Exchange segments. -/
  | exchDir (e : Entry)
  /-- KEEP_DECLARE (R470). Declares a keep area in HBM and returns its module address. -/
  | keepDeclare (e : Entry)
  /-- KEEP_RELEASE (R470). Releases a keep area. -/
  | keepRelease (e : Entry)
  /-- MWIN_OPEN (R406). Opens a module window at the next generation after any reopening delay. -/
  | mwinOpen (e : Entry)
  /-- MWIN_CLOSE (R409). Moves a module window to Closing; completes when it is Closed. -/
  | mwinClose (e : Entry)
  /-- TILEWIN_OPEN (R165). Opens a tile window of a logical tile at the next generation. -/
  | tilewinOpen (e : Entry)
  /-- TILEWIN_CLOSE (R168). Moves a tile window to Closing; completes when it is Closed. -/
  | tilewinClose (e : Entry)
  /-- ROUTE_SET (R405). Loads routing entries and completes when every route change has fenced. -/
  | routeSet (e : Entry)
  /-- TREE_SET (R427). Loads one pack-tree entry, or refuses it with TREE_INVALID. -/
  | treeSet (e : Entry)
  /-- TREE_DISABLE (R440). Disables a pack tree and ends any active operation with TIMEOUT. -/
  | treeDisable (e : Entry)
  /-- PACK_OP_BARRIER (R434). Starts a barrier on a pack tree from the host. -/
  | packOpBarrier (e : Entry)
  /-- PACK_OP_REDUCTION (R435). Starts a reduction of host values on a pack tree. -/
  | packOpReduction (e : Entry)
  /-- PACK_OP_BROADCAST (R433). Starts a broadcast at the root, or completes at once with REFUSED elsewhere. -/
  | packOpBroadcast (e : Entry)
  /-- SNAPSHOT (R446). Arms a snapshot slot with an ID and plan; completes after promotion. -/
  | snapshot (e : Entry)
  /-- FABRIC_RESET (R451). At the root, broadcasts a fabric reset and performs the local compute reset. -/
  | fabricReset (e : Entry)
  /-- STEP_S0 (R531). Bring-up step enabling the hot-swap path and starting the bus converters. -/
  | stepS0 (src : StepSrc) (vin conv : Nat)
  /-- STEP_S1 (R647). Boot ROM self-check, Keeper memory coding, identity record read, key derivation and opening of BAR4. -/
  | stepS1 (src : StepSrc) (romOk : Bool)
  /-- STEP_S2 (R648). Copies and verifies the firmware image and starts the Keeper. -/
  | stepS2 (src : StepSrc)
  /-- STEP_S3 (R533). Reads the fuse map and checks its digest. -/
  | stepS3 (src : StepSrc) (fuses : List Byte)
  /-- STEP_S4 (R562). Brings up the voltage domains in order. -/
  | stepS4 (src : StepSrc) (domains : List Bool)
  /-- STEP_S5 (R531). Locks the PLLs. -/
  | stepS5 (src : StepSrc) (locked : Bool)
  /-- STEP_S6 (R535). Runs BIST and the bond test and merges the defect map. -/
  | stepS6 (src : StepSrc) (findings : List W32) (fatal : Option W32)
  /-- STEP_S7 (R320). Trains every populated HBM channel and sets the module rate. -/
  | stepS7 (src : StepSrc) (chans : List ChanTrain) (heightOk : Bool)
  /-- STEP_S8 (R537). Fresh-initialises floor metadata and writes empty hash and permission tables. -/
  | stepS8 (src : StepSrc) (ok : Bool)
  /-- STEP_S9 (R15). Builds the tile map, sets bypasses and writes the redundant tables. -/
  | stepS9 (src : StepSrc) (ok : Bool)
  /-- STEP_S10 (R393). Trains every enabled link. -/
  | stepS10 (src : StepSrc) (links : List LinkTrain)
  /-- STEP_S11 (R540). Sets the module ID and sends JOIN on every Up link. -/
  | stepS11 (src : StepSrc)
  /-- STEP_S12 (R532). Declares the module ready for job commands. -/
  | stepS12 (src : StepSrc)
  /-- STEP_LIMIT_EXPIRY (R531). A bring-up step reaches its time limit and fails with TIMEOUT, or succeeds with warnings for S10 and S11. -/
  | stepLimitExpiry
  /-- COMPUTE_RESET_LOCAL (R543). PARTITION_RESET of the compute partition: discard, in-doubt notices and the reset timeline. -/
  | computeResetLocal (e : Entry)
  /-- LINK_RESET (R545). PARTITION_RESET of the link partition: RETIRE to peers, port-die reset, table rewrite and retraining. -/
  | linkReset (e : Entry)
  /-- RETIRE (R484). Prepares the module for removal: refuses jobs, closes windows, retires links and enters self-refresh. -/
  | retire (e : Entry)
  /-- RETRAIN_LINK (R547). RETRAIN of a link; completes when it is Up or Down. -/
  | retrainLink (e : Entry)
  /-- RETRAIN_CHANNEL (R547). RETRAIN of an HBM channel at the next pass boundary; may end with CHANNEL_LOST. -/
  | retrainChannel (e : Entry)
  /-- LEASH_SET (R367). Sets a collar's reservations and latency targets, or refuses them with OVERCOMMIT. -/
  | leashSet (e : Entry)
  /-- KENNEL_SET (R263). Changes a tensor's kennel persistence, droppable and quota at the next pass boundary. -/
  | kennelSet (e : Entry)
  /-- COLLAR_CFG (R370). Writes KEEP_COLLAR_CFG. -/
  | collarCfg (e : Entry)
  /-- PWR_POLICY (R566). Sets the host power cap and the highest operating point permitted. -/
  | pwrPolicy (e : Entry)
  /-- PWR_WAKE_TOL (R578). Sets the tolerable wake latency and returns the idle state chosen. -/
  | pwrWakeTol (e : Entry)
  /-- THERMAL_CFG (R601). Sets the Heel grace time. -/
  | thermalCfg (e : Entry)
  /-- TIME_CFG (R622). Configures PTP mode, PPS out and the PTP domain. -/
  | timeCfg (e : Entry)
  /-- TELEM_SNAPSHOT (R632). Schedules a latch of every selected counter at a timebase instant. -/
  | telemSnapshot (e : Entry)
  /-- COUNTER_CFG (R630). Applies a list of counter selections, or none if any entry is invalid. -/
  | counterCfg (e : Entry)
  /-- LOG_READ (R524). Writes the oldest unread fault-log records to a host buffer. -/
  | logRead (e : Entry)
  /-- EVENT_MASK (R476). Enables or masks notice kinds. -/
  | eventMask (e : Entry)
  /-- MEASURE_READ (R655). Writes all measurements, taken at one instant, to a host buffer. -/
  | measureRead (e : Entry)
  /-- IDENTITY_READ (R658). Returns the 512-byte module identity record. -/
  | identityRead (e : Entry)
  /-- FW_STAGE (R650). Copies and verifies the image in BAR4 and keeps it staged. -/
  | fwStage (e : Entry)
  /-- FW_ACTIVATE (R651). Restarts the Keeper into the staged image, falling back to the previous image on failure. -/
  | fwActivate (e : Entry)
  /-- SQ_TAIL_WRITE (R465). Host write of a submission tail, making new entries available for fetch. -/
  | sqTailWrite (q v : Nat)
  /-- CQ_HEAD_WRITE (R465). Host write of a completion head, freeing ring space for held completions. -/
  | cqHeadWrite (q v : Nat)
  /-- QUEUE_ENABLE (R487). Setting CMDQ_QCFG enable starts a queue. -/
  | queueEnable (q : Nat)
  /-- QUEUE_DISABLE (R487). Clearing enable stops a queue once its commands have completed. -/
  | queueDisable (q : Nat)
  /-- COMMAND_FETCH (R466). The Keeper fetches the next submission entry of a queue in round-robin order and starts it. -/
  | commandFetch (q : Nat) (r : Option RawEntry)
  /-- HOST_DMA_TIMEOUT (R468). A module access to host memory gets no completion within 50 ms, and the command completes with HOST_DMA. -/
  | hostDmaTimeout (q : Nat) (c : Option Nat)
  /-- BAR2_READ (R482). A host read through the Exchange window returns committed contents. -/
  | bar2Read (off len : Nat) (met : List SliceDec)
  /-- BAR2_WRITE (R481). A host write through the Exchange window, checked against the owner table and applied in order. -/
  | bar2Write (off : Nat) (data : List Byte) (met : List SliceDec)
  /-- BAR4_WRITE (R460). A host write into the firmware staging BAR, dropped during S2 or FW_STAGE. -/
  | bar4Write (off : Nat) (data : List Byte)
  /-- REGISTER_WRITE (R461). A write to a register that has no behaviour of its own, including RW1C clears and dropped writes to Keeper-only blocks. -/
  | registerWrite (off size : Nat) (v : W64) (by_ : Writer)
  /-- PCIE_LINK_DOWN (R485). Loss of the PCIe link while powered: the current pass runs out, nothing more launches and every queue is disabled. -/
  | pcieLinkDown
  /-- PCIE_LINK_UP (R485). The PCIe link returns, and the host may re-enable the queues. -/
  | pcieLinkUp
  /-- FUNCTION_LEVEL_RESET (R485). FLR acts as SESSION_CLOSE on every session and disables every queue. -/
  | functionLevelReset
  /-- PERST_ASSERT (R675). PERST# resets the PCIe endpoint and disables every queue. -/
  | perstAssert
  /-- POWER_APPLIED (R541). 50 V reaches the module with the EN loop closed, powering the always-on partition. -/
  | powerApplied
  /-- EN_LOOP_OPEN (R670). The EN loop opens and the module loses power, as at a surprise removal. -/
  | enLoopOpen
  /-- PWR_OFF_HIGH (R679). PWR_OFF held high for 1 ms opens the hot-swap path and keeps the module unpowered. -/
  | pwrOffHigh
  /-- PWR_OFF_FALL (R679). A falling edge of PWR_OFF with the EN loop closed powers the module as at insertion. -/
  | pwrOffFall
  /-- INPUT_WARN (R559). The input stays outside 40 to 60 V but within 38 to 62 V for 1 ms, and input_warn is set. -/
  | inputWarn (mv : Nat)
  /-- INPUT_TRIP (R559). Under-voltage, over-voltage or over-current persists, and the hot-swap path opens. -/
  | inputTrip (mv : Nat) (ma : Nat)
  /-- INPUT_RESTORE (R559). The input has been back within 40 to 60 V for 100 ms, and the module powers on. -/
  | inputRestore (mv : Nat)
  /-- CONVERTER_FAULT (R560). A bus converter leaves regulation or reports a fault, is disconnected, and the cap and guard limit are set by the count remaining. -/
  | converterFault (n : Nat)
  /-- RAIL_FAULT (R563). A rail leaves ±5 % for 100 µs or loses its last phase, with the outcome set by the rail. -/
  | railFault (r : RailEvent)
  /-- PHASE_FAIL (R568). A power-stage phase fails, and the die's phase limit is lowered. -/
  | phaseFail (rail : Nat)
  /-- BOND_ZONE_OVERCURRENT (R569). A power-bond zone stays above 125 % or 150 % of its share for 1 s. -/
  | bondZoneOvercurrent (d z : Nat) (over150 : Bool)
  /-- REGL_CELL_FAIL (R571). A regulator cell is disconnected, and the macro's state follows the cells remaining. -/
  | reglCellFail (m cell : Nat)
  /-- PWRM_UPDATE (R572). Every 1 ms, rail currents and voltages are averaged into PWRM_CUR and the converters are polled. -/
  | pwrmUpdate (rails : List RailSample) (conv : List Nat) (vin : Nat)
  /-- GUARD_ACT (R573). A guard window reaches 98 % or 100 % of its limit, and tiles skip or stop issue. -/
  | guardAct (stop : Bool)
  /-- GUARD_RELEASE (R573). Both guard windows fall to 95 %, and issue resumes. -/
  | guardRelease
  /-- ENERGY_ACCOUNT_UPDATE (R574). Every 1 ms, the account gains the refill rate and loses the measured energy. -/
  | energyAccountUpdate (mj : Nat)
  /-- BAY_IDLE_GATE (R576). A bay whose placed tiles have been idle for idle_us is gated. -/
  | bayIdleGate (d b : Nat)
  /-- BAY_POWER_UP_TEST (R577). A gated bay that is needed tests the slope budget every 1 µs and powers up at full rate or stays deferred. -/
  | bayPowerUpTest (d b : Nat) (slope : Int)
  /-- BAY_HALF_RATE_START (R577). After 50 µs of deferral, the bay powers up at half step rate and its class-3 neighbours skip issue. -/
  | bayHalfRateStart (d b : Nat)
  /-- BAY_UP (R577). A bay power-up completes, and its tiles start issue 1 µs later. -/
  | bayUp (d b : Nat)
  /-- IDLE_ENTRY (R578). After its entry delay with the partition idle, the module enters the chosen idle state. -/
  | idleEntry
  /-- IDLE_WAKE (R579). A command, BAR2 access, window packet or tolerance change wakes the compute partition. -/
  | idleWake
  /-- SELF_REFRESH_ENTRY (R335). Once its queues are empty and its writes have reached the stack, a controller puts the stack into self-refresh. -/
  | selfRefreshEntry (h : Nat)
  /-- CAGE_INSERT (R677). A cage module is detected, its type is read and power is granted or held low. -/
  | cageInsert (c : Nat) (media : CageType)
  /-- CAGE_REMOVE (R677). A cage module is removed, and its links go Down. -/
  | cageRemove (c : Nat)
  /-- THERMAL_POLL (R598). Every 1 ms, the Keeper reads every sensor and forms measured, inferred and governing temperatures. -/
  | thermalPoll (r : ThermalIn)
  /-- GRACE_EXPIRY (R604). The grace timer expires with a unit still at caution, and its Muzzle levels rise by 1. -/
  | graceExpiry
  /-- MUZZLE_STEP (R604). Every further 100 ms at caution, Muzzle levels rise by 1 up to 3. -/
  | muzzleStep
  /-- MUZZLE_FALL (R605). Once the units are 5 °C below caution, Muzzle levels fall by 1 each second. -/
  | muzzleFall
  /-- HW_TRIP (R606). A hardware comparator confirms a die sensor above trip, and the compute partition halts. -/
  | hwTrip (n sensor temp : Nat)
  /-- HBM_TEMP_POLL (R333). Every 1 ms, a controller reads stack temperature and power and applies the refresh and bandwidth steps. -/
  | hbmTempPoll (h : Nat) (temp : Option Nat)
  /-- PTP_SYNC (R620). A PTP Sync and Follow_Up give a sample that steers the timebase. -/
  | ptpSync (src : Nat) (master rx corr : Int) (dom : Nat)
  /-- PTP_ANNOUNCE (R622). A PTP Announce is received for grandmaster selection. -/
  | ptpAnnounce (a : Announce)
  /-- PTP_DELAY_RESP (R622). A PTP delay response is received for path-delay measurement. -/
  | ptpDelayResp (d : DelayIn)
  /-- PPS_IN_EDGE (R623). A rising PPS-in edge is stamped and may give a sample. -/
  | ppsInEdge
  /-- PPS_OUT_PULSE (R623). PPS out rises at each whole second while Locked or in Holdover. -/
  | ppsOutPulse
  /-- TIME_SOURCE_LOSS (R618). A time source times out, and the timebase enters Holdover or changes source. -/
  | timeSourceLoss (src : Nat)
  /-- TIME_PACKET_SEND (R442). Every 1 ms, the root of the time tree sends a time packet down. -/
  | timePacketSend
  /-- TIME_PACKET (R624). A time packet arrives, and the module takes or rejects a sample and forwards it. -/
  | timePacket (l : Nat) (p : Packet)
  /-- TIME_DELAY_MEASURE (R442). Once each second, a child measures its time-tree edge delay. -/
  | timeDelayMeasure (r : Option DelayReply)
  /-- TELEM_LATCH (R632). The timebase reaches the snapshot instant, and the selected counters are latched and written out. -/
  | telemLatch
  /-- KEEPER_WATCHDOG_EXPIRY (R520). The Keeper watchdog expires, and the Keeper core restarts alone. -/
  | keeperWatchdogExpiry (ce : Nat) (measOk : Bool)
  /-- KEEPER_MEM_UE (R520). An uncorrectable Keeper memory word restarts the Keeper at once. -/
  | keeperMemUe (ce : Nat) (measOk : Bool)
  /-- KEEPER_RESTART_DONE (R521). The restarted Keeper resumes, completes interrupted commands and posts a notice. -/
  | keeperRestartDone
  /-- FUSE_ADVANCE (R649). After S12, the Keeper begins blowing security-version and revocation fuses. -/
  | fuseAdvance
  /-- FUSE_BLOWN (R649). One fuse finishes blowing, measurement 3 updates and the next fuse begins. -/
  | fuseBlown
  /-- TABLE_CHECK (R509). A die checks the CRCs and contents of its redundant table copies and rewrites, or holds. -/
  | tableCheck (t : TableKind) (inst : Nat) (c : CopyRead)
  /-- GET_VERSION (R656). SPDM request for version. -/
  | getVersion (m : SpdmMsg)
  /-- GET_CAPABILITIES (R656). SPDM request for capabilities. -/
  | getCapabilities (m : SpdmMsg)
  /-- NEGOTIATE_ALGORITHMS (R656). SPDM algorithm negotiation. -/
  | negotiateAlgorithms (m : SpdmMsg)
  /-- GET_DIGESTS (R656). SPDM request for certificate digests. -/
  | getDigests (m : SpdmMsg)
  /-- GET_CERTIFICATE (R656). SPDM request for the slot 0 certificate chain. -/
  | getCertificate (m : SpdmMsg)
  /-- CHALLENGE (R656). SPDM challenge, signed by ATTS. -/
  | challenge (m : SpdmMsg)
  /-- GET_MEASUREMENTS (R656). SPDM request for signed measurements. -/
  | getMeasurements (m : SpdmMsg)
  /-- DOE_DISCOVERY (R656). DOE discovery request on the mailbox. -/
  | doeDiscovery (index : Nat)
  /-- DOE_ABORT (R657). DOE Abort discards the transcript in progress. -/
  | doeAbort
  /-- MATRIX_SEQUENCE_START (R66). The matrix slot copies a descriptor, checks it and accepts or queues the sequence. -/
  | matrixSequenceStart (t : Nat) (errs : List SpdErr)
  /-- CHAIN_START (R184). A fetch slot START reads a chain head, checks it and places the extent entries. -/
  | chainStart (t : Nat) (errs : List SpdErr)
  /-- FENCE (R106). A fetch slot FENCE issues only when its engine has no chain. -/
  | fence (t : Nat) (errs : List SpdErr)
  /-- ADD (R109). Scalar add. -/
  | add (t : Nat) (sd sa sb : Reg) (errs : List SpdErr)
  /-- SUB (R109). Scalar subtract. -/
  | sub (t : Nat) (sd sa sb : Reg) (errs : List SpdErr)
  /-- AND (R109). Scalar bitwise and. -/
  | and (t : Nat) (sd sa sb : Reg) (errs : List SpdErr)
  /-- OR (R109). Scalar bitwise or. -/
  | or (t : Nat) (sd sa sb : Reg) (errs : List SpdErr)
  /-- XOR (R109). Scalar bitwise xor. -/
  | xor (t : Nat) (sd sa sb : Reg) (errs : List SpdErr)
  /-- SHL (R109). Scalar shift left. -/
  | shl (t : Nat) (sd sa sb : Reg) (errs : List SpdErr)
  /-- SHR (R109). Scalar logical shift right. -/
  | shr (t : Nat) (sd sa sb : Reg) (errs : List SpdErr)
  /-- SRA (R109). Scalar arithmetic shift right. -/
  | sra (t : Nat) (sd sa sb : Reg) (errs : List SpdErr)
  /-- MUL (R109). Scalar multiply, low 32 bits. -/
  | mul (t : Nat) (sd sa sb : Reg) (errs : List SpdErr)
  /-- SLT (R109). Scalar signed set-less-than. -/
  | slt (t : Nat) (sd sa sb : Reg) (errs : List SpdErr)
  /-- SLTU (R109). Scalar unsigned set-less-than. -/
  | sltu (t : Nat) (sd sa sb : Reg) (errs : List SpdErr)
  /-- ADDI (R109). Scalar add of a sign-extended immediate. -/
  | addi (t : Nat) (sd sa : Reg) (imm : Imm) (errs : List SpdErr)
  /-- ORI (R109). Scalar or of a zero-extended immediate. -/
  | ori (t : Nat) (sd sa : Reg) (imm : Imm) (errs : List SpdErr)
  /-- LUI (R109). Scalar load of the upper immediate. -/
  | lui (t : Nat) (sd : Reg) (imm : Imm) (errs : List SpdErr)
  /-- LW (R112). Scalar load of a scratchpad word. -/
  | lw (t : Nat) (sd sa : Reg) (imm : Imm) (errs : List SpdErr)
  /-- SW (R112). Scalar store of a word through the gather buffer. -/
  | sw (t : Nat) (sa sb : Reg) (imm : Imm) (errs : List SpdErr)
  /-- BRZ (R111). Branch if the register is zero. -/
  | brz (t : Nat) (sa : Reg) (imm : Imm) (errs : List SpdErr)
  /-- BRNZ (R111). Branch if the register is not zero. -/
  | brnz (t : Nat) (sa : Reg) (imm : Imm) (errs : List SpdErr)
  /-- JMP (R111). Unconditional branch. -/
  | jmp (t : Nat) (imm : Imm) (errs : List SpdErr)
  /-- LOOP (R111). Starts a hardware loop level. -/
  | loop (t : Nat) (sa : Reg) (imm : Imm) (errs : List SpdErr)
  /-- WAIT (R109). Issues only when its scoreboard or unit condition holds. -/
  | wait (t : Nat) (imm : Imm) (errs : List SpdErr)
  /-- CSRR (R113). Reads a tile register into a scalar register, latching TILE_CYCLES. -/
  | csrr (t : Nat) (sd : Reg) (imm : Imm) (errs : List SpdErr)
  /-- CSRW (R113). Writes TILE_FP_CTRL, TILE_FP_FLAGS or TILE_SR_STATE, or faults with CSR. -/
  | csrw (t : Nat) (sa : Reg) (imm : Imm) (errs : List SpdErr)
  /-- END (R128). Ends the tile program once every scoreboard entry has retired. -/
  | end_ (t : Nat) (errs : List SpdErr)
  /-- VADD (R114). Vector add. -/
  | vadd (t : Nat) (v : VC) (errs : List SpdErr)
  /-- VSUB (R114). Vector subtract. -/
  | vsub (t : Nat) (v : VC) (errs : List SpdErr)
  /-- VMUL (R114). Vector multiply. -/
  | vmul (t : Nat) (v : VC) (errs : List SpdErr)
  /-- VFMA (R114). Vector fused multiply-add. -/
  | vfma (t : Nat) (v : VC) (errs : List SpdErr)
  /-- VMIN (R114). Vector minimum. -/
  | vmin (t : Nat) (v : VC) (errs : List SpdErr)
  /-- VMAX (R114). Vector maximum. -/
  | vmax (t : Nat) (v : VC) (errs : List SpdErr)
  /-- VAND (R114). Vector bitwise and. -/
  | vand (t : Nat) (v : VC) (errs : List SpdErr)
  /-- VOR (R114). Vector bitwise or. -/
  | vor (t : Nat) (v : VC) (errs : List SpdErr)
  /-- VXOR (R114). Vector bitwise xor. -/
  | vxor (t : Nat) (v : VC) (errs : List SpdErr)
  /-- VSHL (R114). Vector shift left. -/
  | vshl (t : Nat) (v : VC) (errs : List SpdErr)
  /-- VSHR (R114). Vector logical shift right. -/
  | vshr (t : Nat) (v : VC) (errs : List SpdErr)
  /-- VSRA (R114). Vector arithmetic shift right. -/
  | vsra (t : Nat) (v : VC) (errs : List SpdErr)
  /-- VCEQ (R704). Vector quiet equality compare into a mask. -/
  | vceq (t : Nat) (v : VC) (errs : List SpdErr)
  /-- VCLT (R704). Vector signalling less-than compare into a mask. -/
  | vclt (t : Nat) (v : VC) (errs : List SpdErr)
  /-- VCLE (R704). Vector signalling less-or-equal compare into a mask. -/
  | vcle (t : Nat) (v : VC) (errs : List SpdErr)
  /-- VSEL (R114). Vector select by mask. -/
  | vsel (t : Nat) (v : VC) (errs : List SpdErr)
  /-- VEXP2 (R88). Vector base-2 exponential. -/
  | vexp2 (t : Nat) (v : VC) (errs : List SpdErr)
  /-- VLOG2 (R88). Vector base-2 logarithm. -/
  | vlog2 (t : Nat) (v : VC) (errs : List SpdErr)
  /-- VRCP (R88). Vector reciprocal. -/
  | vrcp (t : Nat) (v : VC) (errs : List SpdErr)
  /-- VRSQRT (R88). Vector reciprocal square root. -/
  | vrsqrt (t : Nat) (v : VC) (errs : List SpdErr)
  /-- VCVTF (R91). Vector INT32 to FP32 conversion. -/
  | vcvtf (t : Nat) (v : VC) (errs : List SpdErr)
  /-- VCVTI (R92). Vector FP32 to INT32 saturating conversion. -/
  | vcvti (t : Nat) (v : VC) (errs : List SpdErr)
  /-- VPKB (R114). Vector pack of FP32 pairs to BF16. -/
  | vpkb (t : Nat) (v : VC) (errs : List SpdErr)
  /-- VUPK (R114). Vector unpack of BF16 to FP32. -/
  | vupk (t : Nat) (v : VC) (errs : List SpdErr)
  /-- VMXP (R115). Vector MX pack of two 32-value blocks. -/
  | vmxp (t : Nat) (v : VC) (errs : List SpdErr)
  /-- VRSUM (R704). Vector tree reduction sum into lane 0. -/
  | vrsum (t : Nat) (v : VC) (errs : List SpdErr)
  /-- VBCS (R114). Broadcasts a scalar register to every lane. -/
  | vbcs (t : Nat) (v : VC) (errs : List SpdErr)
  /-- VMOVS (R114). Copies one vector lane into a scalar register. -/
  | vmovs (t : Nat) (v : VC) (errs : List SpdErr)
  /-- VLD (R116). Vector load of 256 bytes. -/
  | vld (t : Nat) (v : VM) (errs : List SpdErr)
  /-- VST (R116). Vector store of 256 bytes. -/
  | vst (t : Nat) (v : VM) (errs : List SpdErr)
  /-- VLDW (R116). Vector load with exact widening. -/
  | vldw (t : Nat) (v : VM) (errs : List SpdErr)
  /-- VSTN (R116). Vector store with narrowing. -/
  | vstn (t : Nat) (v : VM) (errs : List SpdErr)
  /-- BLOCK_START (R58). The array starts the next block of a sequence when its spacing allows, checking sparse metadata as steps reach it. -/
  | blockStart (t : Nat) (errs : List SpdErr)
  /-- ROW_DRAIN (R57). A row leaves the array, passes or fails its tally check and is written to the scratchpad. -/
  | rowDrain (t : Nat) (upset : List W32) (errs : List SpdErr)
  /-- SCOREBOARD_RETIRE (R119). A scoreboard entry retires once its last read is served or its writes have landed. -/
  | scoreboardRetire (t k : Nat)
  /-- TILE_WATCHDOG_EXPIRY (R130). A scoreboard entry makes no progress for the watchdog limit, raising WDOG or STALL. -/
  | tileWatchdogExpiry (t k : Nat)
  /-- TILE_RUN (R131). Setting TILE_CTRL run starts issue at the entry address. -/
  | tileRun (t entry : Nat)
  /-- TILE_STOP (R131). Clearing run stops issue at the next bundle boundary. -/
  | tileStop (t : Nat)
  /-- TILE_RESET (R131). TILE_CTRL reset clears the tile's units, registers and scoreboard, keeping the scratchpad and records. -/
  | tileReset (t : Nat)
  /-- BULK_CLEAR (R152). TILE_SPD_CLEAR go sets fresh bits over a range, or is rejected while Run or out of range. -/
  | bulkClear (t base lenM1 : Nat)
  /-- BULK_CLEAR_DONE (R152). A bulk clear finishes and clear_busy falls. -/
  | bulkClearDone (t : Nat)
  /-- CONFLICT_COUNTER_CLEAR (R177). confl_clr clears all 32 bank conflict counters. -/
  | conflictCounterClear (t : Nat)
  /-- NEAR_CACHE_INVALIDATE (R177). nc_inv invalidates the tile's near cache. -/
  | nearCacheInvalidate (t : Nat)
  /-- SCENT_CLEAR (R215). TILE_SCENT_CTRL clear empties all eight Scent slots. -/
  | scentClear (t : Nat)
  /-- GATHER_TIMEOUT (R148). A gather entry 16 cycles old is merged by read-modify-write. -/
  | gatherTimeout (t ix : Nat) (errs : List SpdErr)
  /-- SPD_CE_WRITEBACK (R172). A corrected scratchpad word is written back at rank 8. -/
  | spdCeWriteback (t word : Nat)
  /-- SPD_SCRUB (R175). Scrub reads non-fresh scratchpad words and flags uncorrectable ones. -/
  | spdScrub (t word : Nat) (dec : Dec)
  /-- MESH_READ_REQUEST (R146). A PULL read request arrives at a target tile and is served or refused. -/
  | meshReadRequest (ix : Nat) (tr : Transit) (errs : List SpdErr)
  /-- MESH_WRITE (R146). A PUSH or guest write arrives at its destination and lands or is refused. -/
  | meshWrite (ix : Nat) (tr : Transit) (errs : List SpdErr)
  /-- TILE_WINDOW_PACKET (R166). A Deposit or Signal reaches a tile and passes or fails the window check. -/
  | tileWindowPacket (ix : Nat) (tr : Transit) (errs : List SpdErr)
  /-- TILE_WIN_CLOSE_DONE (R168). Every accepted packet has landed, and the window becomes Closed. -/
  | tileWinCloseDone (t n : Nat)
  /-- WIN_REOPEN_DELAY_END (R165). The 10 ms since a generation was closed pass, and a delayed OPEN takes effect. -/
  | winReopenDelayEnd (ix : Nat)
  /-- LOAD (R188). Fetch descriptor copying module memory into the own scratchpad. -/
  | load (t n : Nat) (errs : List SpdErr)
  /-- STORE (R188). Fetch descriptor copying the own scratchpad into module memory. -/
  | store (t n : Nat) (errs : List SpdErr)
  /-- FOLD (R284). Fetch descriptor folding own scratchpad data into module memory. -/
  | fold (t n : Nat) (errs : List SpdErr)
  /-- PULL (R188). Fetch descriptor copying another tile's scratchpad into the own scratchpad. -/
  | pull (t n : Nat) (errs : List SpdErr)
  /-- PUSH (R188). Fetch descriptor copying into another tile's buffer region. -/
  | push (t n : Nat) (errs : List SpdErr)
  /-- DEPOSIT (R188). Fetch descriptor sending a remote window Deposit packets. -/
  | deposit (t n : Nat) (errs : List SpdErr) (trs : List Transit)
  /-- RFOLD (R284). Fetch descriptor folding into a remote module window. -/
  | rfold (t n : Nat) (errs : List SpdErr) (trs : List Transit)
  /-- SIGNAL (R299). Fetch descriptor placing a remote Signal record in a hold line until commit. -/
  | signal (t n : Nat) (errs : List SpdErr) (trs : List Transit)
  /-- CALL (R190). Fetch descriptor asking a peer's engine to return window data. -/
  | call (t n : Nat) (errs : List SpdErr) (trs : List Transit)
  /-- SETFLAG (R201). Fetch descriptor writing an 8-byte flag in module memory. -/
  | setflag (t n : Nat) (errs : List SpdErr)
  /-- FETCH_NOP (R188). Descriptor that moves nothing and fences the chain when wait is set. -/
  | fetchNop (t n : Nat) (errs : List SpdErr)
  /-- FETCH_REPLY (R198). A reply, acknowledgement or refusal returns to a fetch engine and its data lands. -/
  | fetchReply (ix : Nat) (tr : Transit) (errs : List SpdErr)
  /-- SCENT_PROBE_REPLY (R209). A probe reply returns and the engine writes zeros or reads the block late. -/
  | scentProbeReply (ix : Nat) (tr : Transit) (errs : List SpdErr)
  /-- NEAR_CACHE_FILL (R160). A near-cache line fill lands and waiting requests are served. -/
  | nearCacheFill (ix : Nat) (tr : Transit) (errs : List SpdErr)
  /-- SLICE_READ (R258). A slice serves a read: hit, miss allocation with victim write-back, or bypass. -/
  | sliceRead (n ix : Nat) (tr : Transit) (here : List Nat) (dec : SliceDec)
  /-- SLICE_WRITE (R294). A slice applies a write under its epoch entry, or unprotected or committed on arrival. -/
  | sliceWrite (n ix : Nat) (tr : Transit) (here : List Nat) (dec : SliceDec)
  /-- SLICE_FOLD (R294). A slice adds a Fold into its entry's side-line. -/
  | sliceFold (n ix : Nat) (tr : Transit) (here : List Nat) (dec : SliceDec)
  /-- SCENT_PROBE (R257). A slice answers a Scent probe from the sector's zero flag. -/
  | scentProbe (n ix : Nat) (tr : Transit) (here : List Nat)
  /-- HBM_FILL_DONE (R323). A sector fill returns from HBM, is decoded and fills the slice, or fails over to copy B. -/
  | hbmFillDone (n ix : Nat) (here : List Nat) (h : HbmIn) (b : HbmIn)
  /-- CORRECTED_SECTOR_SEND (R269). 8 floor cycles after a redo notice, the slice sends the corrected sector. -/
  | correctedSectorSend (n ix : Nat)
  /-- MERGE_TIMEOUT (R266). A merge entry 64 floor cycles old is merged by read-modify-write. -/
  | mergeTimeout (n ix : Nat)
  /-- FLOOR_SCRUB (R271). Floor scrub reads a sector in idle accesses and corrects or handles poison. -/
  | floorScrub (n set way sector : Nat) (dec : SliceDec)
  /-- HBM_SCRUB (R332). Patrol scrub reads an HBM line, rewriting corrected or poisoned words. -/
  | hbmScrub (n line : Nat) (a b : List HbmIn)
  /-- COMMIT_DRAIN (R306). In idle accesses, a slice folds side-lines into bases, drops undo lines and frees the Committed entry. -/
  | commitDrain (n : Nat) (met : List SliceDec)
  /-- SLICE_MODE_SET (R252). SLICE_CFG write changes the slice mode, writing back or freshening ways. -/
  | sliceModeSet (n mode splitWays : Nat)
  /-- KENNEL_ENABLE (R263). Enabling a kennel window applies the pin cap, which may turn Pinned into Sticky. -/
  | kennelEnable (n : Nat) (range ctrl : W64)
  /-- FLOOR_HASH_WRITE (R251). A hash-map write updates all three copies and their CRCs. -/
  | floorHashWrite (f g : Nat) (v : W64)
  /-- FLOOR_PERM_WRITE (R251). A permission-table write updates all three copies and their CRCs. -/
  | floorPermWrite (f w : Nat) (v : W64)
  /-- FLOOR_TWIN_WRITE (R325). A Twin entry write updates the redundant copies. -/
  | floorTwinWrite (f g : Nat) (v : W64)
  /-- PORT_ROUTE_WRITE (R400). A routing-table write updates the three copies and may start a route change. -/
  | portRouteWrite (p n : Nat) (v : W64)
  /-- BOND_SCAN_START (R238). DECK_BOND_SCAN start begins a full scan now. -/
  | bondScanStart (d : Nat)
  /-- BOND_SCAN_STEP (R234). The background scan tests a bond in a borrowed cycle. -/
  | bondScanStep (d : Nat) (b : BondRef) (failed : Bool)
  /-- COMMIT_INSTANT (R304). The pass commits: entries become Committed, notices and held Signals are sent, and a held launch may start. -/
  | commitInstant
  /-- DISCARD (R308). A discard begins: run is cleared in every tile and engines drain. -/
  | discard (f : FaultIn)
  /-- DISCARD_ENGINES_IDLE (R308). Every engine is Idle, and abort notices go out while slices begin their drop walks. -/
  | discardEnginesIdle
  /-- DROP_WALK_DONE (R309). A slice finishes its drop walk and frees the entry; a receiver then acknowledges the abort. -/
  | dropWalkDone (n : Nat) (k : Nat)
  /-- DISCARD_ACKS_COMPLETE (R308). Every abort is acknowledged, and the scratchpad actions, remaps and spare takeovers are applied. -/
  | discardAcksComplete (poison : Bool) (ue : List (Nat × Nat))
  /-- REPLAY_LAUNCH (R308). After the reloads, the pass launches again under the next epoch, or ends with its fault. -/
  | replayLaunch (poison : Bool)
  /-- ABORT_ACK_TIMEOUT (R308). An abort notice unacknowledged for 1 ms makes the discard Job-fatal. -/
  | abortAckTimeout
  /-- LINK_FLIT_RECEIVE (R386). A flit is received, checked and accepted or discarded; acks, naks and credits are processed. -/
  | linkFlitReceive (l : Nat) (f : Flit) (fec : FecIn)
  /-- NAK_REPEAT (R386). Every 2 µs until the expected flit arrives, the receiver repeats its nak. -/
  | nakRepeat (l : Nat)
  /-- CONTROL_FLIT_SEND (R386). With no data to send for 200 ns, a control flit is sent. -/
  | controlFlitSend (l : Nat)
  /-- LINK_ENABLE (R392). Setting LINK_CTRL enable moves the link to Training. -/
  | linkEnable (l : Nat)
  /-- LINK_DISABLE (R392). Clearing enable disables the link. -/
  | linkDisable (l : Nat)
  /-- LINK_RETRAIN_REQUEST (R394). LINK_CTRL retrain moves the link to Retraining. -/
  | linkRetrainRequest (l : Nat)
  /-- LINK_TRAINING_DONE (R393). Training ends, and the link is Up at its width or Down. -/
  | linkTrainingDone (l : Nat) (r : LinkTrain)
  /-- LINK_LOSS_OF_LOCK (R392). An active lane loses lock, and the link enters Retraining. -/
  | linkLossOfLock (l lanes : Nat)
  /-- LINK_RETRAIN_DONE (R394). A retrain succeeds, leaving out bad lanes, and traffic resumes with its sequence state. -/
  | linkRetrainDone (l : Nat) (r : LinkTrain)
  /-- RETRAIN_LIMIT_EXPIRY (R392). A retrain exceeds retrain_lim_ms, and the link goes Down. -/
  | retrainLimitExpiry (l : Nat)
  /-- NO_SIGNAL_TIMEOUT (R394). No lane detects a signal for 100 µs, and the link goes Down. -/
  | noSignalTimeout (l : Nat)
  /-- AUTO_RESTORE (R392). Every 1 s, a Down link with auto_restore trains again. -/
  | autoRestore (l : Nat)
  /-- LINK_CREDIT_STALL (R390). A pool waits 10 ms without credit, and a credit stall is recorded. -/
  | linkCreditStall (l vl : Nat)
  /-- PORT_BRIDGE_FAIL (R379). A port bridge fails, and all eight of its links go Down. -/
  | portBridgeFail (p : Nat)
  /-- FENCE_HOLD_END (R405). life_us passes since the fence flit, and held packets leave on the new link. -/
  | fenceHoldEnd (ix : Nat)
  /-- RESP_TIMEOUT (R404). A request has no RESP within 2 × life_us and is in doubt. -/
  | respTimeout (ix : Nat)
  /-- RESEND_AFTER_LIFE (R515). An in-doubt held Signal or notice is sent again once life_us has passed since its birth. -/
  | resendAfterLife (ix : Nat)
  /-- SIGNAL_RECORD_EXPIRY (R515). An accepted-Signal record of a module window expires after 2 × life_us. -/
  | signalRecordExpiry (w ix : Nat)
  /-- DEPOSIT_ARRIVAL (R407). A DEPOSIT packet reaches a port die and is forwarded, expired, checked and landed or refused. -/
  | depositArrival (l : Nat) (p : Packet)
  /-- FOLD_ARRIVAL (R408). A FOLD packet is checked and folded into the window or refused. -/
  | foldArrival (l : Nat) (p : Packet)
  /-- SIGNAL_ARRIVAL (R408). A SIGNAL packet is checked, deduplicated, written as committed and may ring the doorbell. -/
  | signalArrival (l : Nat) (p : Packet)
  /-- CALL_ARRIVAL (R411). A CALL packet is checked and queued for a port fetch engine. -/
  | callArrival (l : Nat) (p : Packet)
  /-- CALL_SERVE (R411). A port fetch engine reads committed window contents and Deposits them to the return window. -/
  | callServe (p : Nat) (met : List SliceDec)
  /-- RESP_ARRIVAL (R399). A RESP returns to its requester, with status and unprotected mark. -/
  | respArrival (l : Nat) (p : Packet)
  /-- NOTICE_COMMIT (R305). A commit notice moves the named entry to Committed in every slice. -/
  | noticeCommit (l : Nat) (p : Packet)
  /-- NOTICE_ABORT (R514). An abort notice records the epoch filter, waits for accepted packets and starts the drop walks. -/
  | noticeAbort (l : Nat) (p : Packet)
  /-- NOTICE_ABORT_ACK (R308). An abort acknowledgement reaches the discarding module. -/
  | noticeAbortAck (l : Nat) (p : Packet)
  /-- NOTICE_UNPROTECTED (R300). An unprotected notice marks the receiver's pass non-replayable. -/
  | noticeUnprotected (l : Nat) (p : Packet)
  /-- NOTICE_IN_DOUBT (R404). An in-doubt notice makes the source discard and replay its pass, or fail an epoch-0 request. -/
  | noticeInDoubt (l : Nat) (p : Packet)
  /-- JOIN (R539). A JOIN management packet is answered with JOIN_ACK and sets the peer fields. -/
  | join (l : Nat) (p : Packet)
  /-- JOIN_ACK (R540). A JOIN_ACK is received, succeeding or failing the join on DUP_ID. -/
  | joinAck (l : Nat) (p : Packet)
  /-- MGMT_RETIRE (R539). A RETIRE management packet makes the receiver fence its routes and answer RETIRE_ACK. -/
  | mgmtRetire (l : Nat) (p : Packet)
  /-- RETIRE_ACK (R539). A RETIRE_ACK is received by the retiring module. -/
  | retireAck (l : Nat) (p : Packet)
  /-- PACK_UP (R434). An up pack packet arrives and, when every input is in, is combined and sent up or turned down at the root. -/
  | packUp (l : Nat) (p : Packet)
  /-- PACK_DOWN (R434). A down pack packet is forwarded to the children and completes the operation locally. -/
  | packDown (l : Nat) (p : Packet)
  /-- FABRIC_RESET_PACKET (R451). A fabric-reset packet is forwarded and the module discards, stops snapshots and compute-resets. -/
  | fabricResetPacket (l : Nat) (p : Packet)
  /-- PACK_TIMEOUT (R439). An operation incomplete after timeout_us raises PACK_TIMEOUT and a notice. -/
  | packTimeout (tree : Nat)
  /-- SNAPSHOT_FREEZE (R446). After the barrier and commit drains, the slot becomes Open and the chunk drain starts. -/
  | snapshotFreeze (slot : Nat)
  /-- WRITE_BACK_ACK (R328). HBM acknowledges a sector write-back, so a Twin sector may leave dirty once both copies are acknowledged. -/
  | writeBackAck (n ix : Nat) (copyB : Bool)
  /-- CHANNEL_RETRAIN_DONE (R337). A channel retraining for lane repair, half rate or RETRAIN ends with the channel up or retired. -/
  | channelRetrainDone (r : ChanTrain)
  /-- COMPUTE_RESET_DONE (R544). The compute reset timeline reaches its end and the partition returns to service. -/
  | computeResetDone
  /-- MWIN_CLOSED (R409). The last accepted packet of a Closing module window lands and the window becomes Closed. -/
  | mwinClosed (w : Nat)
  /-- IN_DOUBT_HOLD_END (R404). life_us passes since the birth of the newest in-doubt request, and the held abort notices of step 3 go out. -/
  | inDoubtHoldEnd
  /-- UNSUPPORTED_SPDM_REQUEST (R656). An SPDM request that the table excludes arrives at the DOE mailbox and receives ERROR UnsupportedRequest. -/
  | unsupportedSpdmRequest (m : SpdmMsg)
  /-- CLOCK_BOND_LOSS (R233). A shaft receiver loses its forwarded clock bond and switches to the second clock bond within one cycle. -/
  | clockBondLoss (d sector : Nat) (up : Bool)
deriving DecidableEq, Repr

end Sys2Proof
end

