-- ==== Sys2Proof/WellFormed.lean ====
section
/-! DEFINITION. Well-formed commands: every operand within the range that its row gives it. `exec` gives a command that is not well-formed a meaning
too; the check says which commands a sender can form. -/

namespace Sys2Proof

/-- A submission entry's fields fit their places (R463). -/
def Entry.wf (e : Entry) : Bool := decide (e.sq < 16) && decide (e.rsv < 2 ^ 22) && decide (e.cmdId < 2 ^ 16) && decide (e.job < 2 ^ 16)

/-- A step starts from a GO or from a well-formed command. -/
def StepSrc.wf : StepSrc → Bool
  | .boot => true
  | .cmd e => e.wf

/-- A bond of R232: its kind, unit, group and number are in range. -/
def BondRef.wf (b : BondRef) : Bool := decide (b.kind < 4) && decide (b.unit < 160) && decide (b.group < 156) && decide (b.bond < 32)

/-- Tiles, slices and links that a module can have (R12, R243, R378); a packet comes over a link, or from the port die `l - 64` of the module
itself. -/
def tileOk (t : Nat) : Bool := decide (t < 25600)
def sliceOk (n : Nat) : Bool := decide (n < 512)
def linkOk (l : Nat) : Bool := decide (l < 64)
def lineOk (l : Nat) : Bool := decide (l < 72)

/-- The check. -/
def Instr.wf : Instr → Bool
  | .nop e => e.wf
  | .sessionOpen e => e.wf
  | .sessionClose e => e.wf
  | .jobOpen e => e.wf
  | .jobClose e => e.wf
  | .stageLoad e => e.wf
  | .tensorDecl e => e.wf
  | .place e => e.wf
  | .placeQuery e => e.wf
  | .passLaunch e => e.wf
  | .passCommit e => e.wf
  | .exchDeclare e => e.wf
  | .exchDir e => e.wf
  | .keepDeclare e => e.wf
  | .keepRelease e => e.wf
  | .mwinOpen e => e.wf
  | .mwinClose e => e.wf
  | .tilewinOpen e => e.wf
  | .tilewinClose e => e.wf
  | .routeSet e => e.wf
  | .treeSet e => e.wf
  | .treeDisable e => e.wf
  | .packOpBarrier e => e.wf
  | .packOpReduction e => e.wf
  | .packOpBroadcast e => e.wf
  | .snapshot e => e.wf
  | .fabricReset e => e.wf
  | .stepS0 src _ conv => src.wf && decide (conv < 16)
  | .stepS1 src _ => src.wf
  | .stepS2 src => src.wf
  | .stepS3 src _ => src.wf
  | .stepS4 src _ => src.wf
  | .stepS5 src _ => src.wf
  | .stepS6 src _ _ => src.wf
  | .stepS7 src _ _ => src.wf
  | .stepS8 src _ => src.wf
  | .stepS9 src _ => src.wf
  | .stepS10 src _ => src.wf
  | .stepS11 src => src.wf
  | .stepS12 src => src.wf
  | .stepLimitExpiry => true
  | .computeResetLocal e => e.wf
  | .linkReset e => e.wf
  | .retire e => e.wf
  | .retrainLink e => e.wf
  | .retrainChannel e => e.wf
  | .leashSet e => e.wf
  | .kennelSet e => e.wf
  | .collarCfg e => e.wf
  | .pwrPolicy e => e.wf
  | .pwrWakeTol e => e.wf
  | .thermalCfg e => e.wf
  | .timeCfg e => e.wf
  | .telemSnapshot e => e.wf
  | .counterCfg e => e.wf
  | .logRead e => e.wf
  | .eventMask e => e.wf
  | .measureRead e => e.wf
  | .identityRead e => e.wf
  | .fwStage e => e.wf
  | .fwActivate e => e.wf
  | .sqTailWrite q v => decide (q < 16) && decide (v < 4096)
  | .cqHeadWrite q v => decide (q < 16) && decide (v < 4096)
  | .queueEnable q => decide (q < 16)
  | .queueDisable q => decide (q < 16)
  | .commandFetch q _ => decide (q < 16)
  | .hostDmaTimeout q _ => decide (q < 16)
  | .bar2Read _ _ _ => true
  | .bar2Write _ _ _ => true
  | .bar4Write _ _ => true
  | .registerWrite off size _ _ => decide (off < 2 ^ 26) && (decide (size = 4) || decide (size = 8))
  | .pcieLinkDown => true
  | .pcieLinkUp => true
  | .functionLevelReset => true
  | .perstAssert => true
  | .powerApplied => true
  | .enLoopOpen => true
  | .pwrOffHigh => true
  | .pwrOffFall => true
  | .inputWarn _ => true
  | .inputTrip _ _ => true
  | .inputRestore _ => true
  | .converterFault i => decide (i < 4)
  | .railFault _ => true
  | .phaseFail rail => decide (rail < 24)
  | .bondZoneOvercurrent d z _ => decide (d < 8) && decide (z < 16)
  | .reglCellFail m cell => decide (m < 97) && decide (cell < 4)
  | .pwrmUpdate _ _ _ => true
  | .guardAct _ => true
  | .guardRelease => true
  | .energyAccountUpdate _ => true
  | .bayIdleGate d b => decide (d < 8) && decide (b < 20)
  | .bayPowerUpTest d b _ => decide (d < 8) && decide (b < 20)
  | .bayHalfRateStart d b => decide (d < 8) && decide (b < 20)
  | .bayUp d b => decide (d < 8) && decide (b < 20)
  | .idleEntry => true
  | .idleWake => true
  | .selfRefreshEntry h => decide (h < 32)
  | .cageInsert c _ => decide (c < 32)
  | .cageRemove c => decide (c < 32)
  | .thermalPoll _ => true
  | .graceExpiry => true
  | .muzzleStep => true
  | .muzzleFall => true
  | .hwTrip n _ _ => decide (n < 24)
  | .hbmTempPoll h _ => decide (h < 32)
  | .ptpSync _ _ _ _ dom => decide (dom < 256)
  | .ptpAnnounce a => decide (a.dom < 256)
  | .ptpDelayResp _ => true
  | .ppsInEdge => true
  | .ppsOutPulse => true
  | .timeSourceLoss src => decide (1 ≤ src) && decide (src ≤ 3)
  | .timePacketSend => true
  | .timePacket l _ => lineOk l
  | .timeDelayMeasure _ => true
  | .telemLatch => true
  | .keeperWatchdogExpiry _ _ => true
  | .keeperMemUe _ _ => true
  | .keeperRestartDone => true
  | .fuseAdvance => true
  | .fuseBlown => true
  | .tableCheck _ inst c => decide (inst < 16) && decide (c.crc.length = 3) && decide (c.id.length = 3)
  | .getVersion _ => true
  | .getCapabilities _ => true
  | .negotiateAlgorithms _ => true
  | .getDigests _ => true
  | .getCertificate _ => true
  | .challenge _ => true
  | .getMeasurements _ => true
  | .doeDiscovery _ => true
  | .doeAbort => true
  | .matrixSequenceStart t _ => tileOk t
  | .chainStart t _ => tileOk t
  | .fence t _ => tileOk t
  | .add t _ _ _ _ => tileOk t
  | .sub t _ _ _ _ => tileOk t
  | .and t _ _ _ _ => tileOk t
  | .or t _ _ _ _ => tileOk t
  | .xor t _ _ _ _ => tileOk t
  | .shl t _ _ _ _ => tileOk t
  | .shr t _ _ _ _ => tileOk t
  | .sra t _ _ _ _ => tileOk t
  | .mul t _ _ _ _ => tileOk t
  | .slt t _ _ _ _ => tileOk t
  | .sltu t _ _ _ _ => tileOk t
  | .addi t _ _ _ _ => tileOk t
  | .ori t _ _ _ _ => tileOk t
  | .lui t _ _ _ => tileOk t
  | .lw t _ _ _ _ => tileOk t
  | .sw t _ _ _ _ => tileOk t
  | .brz t _ _ _ => tileOk t
  | .brnz t _ _ _ => tileOk t
  | .jmp t _ _ => tileOk t
  | .loop t _ _ _ => tileOk t
  | .wait t _ _ => tileOk t
  | .csrr t _ _ _ => tileOk t
  | .csrw t _ _ _ => tileOk t
  | .end_ t _ => tileOk t
  | .vadd t _ _ => tileOk t
  | .vsub t _ _ => tileOk t
  | .vmul t _ _ => tileOk t
  | .vfma t _ _ => tileOk t
  | .vmin t _ _ => tileOk t
  | .vmax t _ _ => tileOk t
  | .vand t _ _ => tileOk t
  | .vor t _ _ => tileOk t
  | .vxor t _ _ => tileOk t
  | .vshl t _ _ => tileOk t
  | .vshr t _ _ => tileOk t
  | .vsra t _ _ => tileOk t
  | .vceq t _ _ => tileOk t
  | .vclt t _ _ => tileOk t
  | .vcle t _ _ => tileOk t
  | .vsel t _ _ => tileOk t
  | .vexp2 t _ _ => tileOk t
  | .vlog2 t _ _ => tileOk t
  | .vrcp t _ _ => tileOk t
  | .vrsqrt t _ _ => tileOk t
  | .vcvtf t _ _ => tileOk t
  | .vcvti t _ _ => tileOk t
  | .vpkb t _ _ => tileOk t
  | .vupk t _ _ => tileOk t
  | .vmxp t _ _ => tileOk t
  | .vrsum t _ _ => tileOk t
  | .vbcs t _ _ => tileOk t
  | .vmovs t _ _ => tileOk t
  | .vld t _ _ => tileOk t
  | .vst t _ _ => tileOk t
  | .vldw t _ _ => tileOk t
  | .vstn t _ _ => tileOk t
  | .blockStart t _ => tileOk t
  | .rowDrain t _ _ => tileOk t
  | .scoreboardRetire t k => tileOk t && decide (k < 16)
  | .tileWatchdogExpiry t k => tileOk t && decide (k < 16)
  | .tileRun t entry => tileOk t && decide (entry < 2 ^ 14)
  | .tileStop t => tileOk t
  | .tileReset t => tileOk t
  | .bulkClear t base lenM1 => tileOk t && decide (base < 1024) && decide (lenM1 < 1024)
  | .bulkClearDone t => tileOk t
  | .conflictCounterClear t => tileOk t
  | .nearCacheInvalidate t => tileOk t
  | .scentClear t => tileOk t
  | .gatherTimeout t i _ => tileOk t && decide (i < 4)
  | .spdCeWriteback t word => tileOk t && decide (word < 32768)
  | .spdScrub t word _ => tileOk t && decide (word < 32768)
  | .meshReadRequest _ _ _ => true
  | .meshWrite _ _ _ => true
  | .tileWindowPacket _ _ _ => true
  | .tileWinCloseDone t n => tileOk t && decide (n < 4)
  | .winReopenDelayEnd _ => true
  | .load t n _ => tileOk t && decide (n < 2)
  | .store t n _ => tileOk t && decide (n < 2)
  | .fold t n _ => tileOk t && decide (n < 2)
  | .pull t n _ => tileOk t && decide (n < 2)
  | .push t n _ => tileOk t && decide (n < 2)
  | .deposit t n _ _ => tileOk t && decide (n < 2)
  | .rfold t n _ _ => tileOk t && decide (n < 2)
  | .signal t n _ _ => tileOk t && decide (n < 2)
  | .call t n _ _ => tileOk t && decide (n < 2)
  | .setflag t n _ => tileOk t && decide (n < 2)
  | .fetchNop t n _ => tileOk t && decide (n < 2)
  | .fetchReply _ _ _ => true
  | .scentProbeReply _ _ _ => true
  | .nearCacheFill _ _ _ => true
  | .sliceRead n _ _ _ _ => sliceOk n
  | .sliceWrite n _ _ _ _ => sliceOk n
  | .sliceFold n _ _ _ _ => sliceOk n
  | .scentProbe n _ _ _ => sliceOk n
  | .hbmFillDone n _ _ _ _ => sliceOk n
  | .correctedSectorSend n _ => sliceOk n
  | .mergeTimeout n _ => sliceOk n
  | .floorScrub n set way sector _ => sliceOk n && decide (set < 768) && decide (way < 16) && decide (sector < 8)
  | .hbmScrub n _ _ _ => sliceOk n
  | .commitDrain n _ => sliceOk n
  | .sliceModeSet n mode splitWays => sliceOk n && decide (mode < 4) && decide (splitWays < 4)
  | .kennelEnable n _ _ => decide (n < 64)
  | .floorHashWrite f g _ => decide (f < 8) && decide (g < 768)
  | .floorPermWrite f w _ => decide (f < 8) && decide (w < 18624)
  | .floorTwinWrite f g _ => decide (f < 8) && decide (g < 768)
  | .portRouteWrite p n _ => decide (p < 8) && decide (n < 4096)
  | .bondScanStart d => decide (d < 8)
  | .bondScanStep d b _ => decide (d < 8) && b.wf
  | .commitInstant => true
  | .discard _ => true
  | .discardEnginesIdle => true
  | .dropWalkDone n k => sliceOk n && decide (1 ≤ k) && decide (k < 16)
  | .discardAcksComplete _ ue => ue.all fun k => decide (k.1 < 25600) && decide (k.2 < 32768)
  | .replayLaunch _ => true
  | .abortAckTimeout => true
  | .linkFlitReceive l _ _ => linkOk l
  | .nakRepeat l => linkOk l
  | .controlFlitSend l => linkOk l
  | .linkEnable l => linkOk l
  | .linkDisable l => linkOk l
  | .linkRetrainRequest l => linkOk l
  | .linkTrainingDone l _ => linkOk l
  | .linkLossOfLock l lanes => linkOk l && decide (lanes < 16)
  | .linkRetrainDone l _ => linkOk l
  | .retrainLimitExpiry l => linkOk l
  | .noSignalTimeout l => linkOk l
  | .autoRestore l => linkOk l
  | .linkCreditStall l vl => linkOk l && decide (vl < 9)
  | .portBridgeFail p => decide (p < 8)
  | .fenceHoldEnd _ => true
  | .respTimeout _ => true
  | .resendAfterLife _ => true
  | .signalRecordExpiry w _ => decide (w < 1024)
  | .depositArrival l _ => lineOk l
  | .foldArrival l _ => lineOk l
  | .signalArrival l _ => lineOk l
  | .callArrival l _ => lineOk l
  | .callServe p _ => decide (p < 8)
  | .respArrival l _ => lineOk l
  | .noticeCommit l _ => lineOk l
  | .noticeAbort l _ => lineOk l
  | .noticeAbortAck l _ => lineOk l
  | .noticeUnprotected l _ => lineOk l
  | .noticeInDoubt l _ => lineOk l
  | .join l _ => linkOk l
  | .joinAck l _ => linkOk l
  | .mgmtRetire l _ => linkOk l
  | .retireAck l _ => linkOk l
  | .packUp l _ => lineOk l
  | .packDown l _ => lineOk l
  | .fabricResetPacket l _ => lineOk l
  | .packTimeout tree => decide (tree < 16)
  | .snapshotFreeze slot => decide (slot < 2)
  | .writeBackAck n _ _ => sliceOk n
  | .channelRetrainDone r => sliceOk r.chan
  | .computeResetDone => true
  | .mwinClosed w => decide (w < 1024)
  | .inDoubtHoldEnd => true
  | .unsupportedSpdmRequest _ => true
  | .clockBondLoss d sector _ => decide (d < 8) && decide (sector < 160)

end Sys2Proof
end

