-- ==== Sys2Proof/Decode.lean ====
section
/-! DEFINITION. The decoder of table words. Every row of the opcode table has an empty list of bit fields: no row gives bits, so no word spells a
command. (The bits that commands carry themselves, those of a submission entry, of a bundle or of a packet, are read where they arrive:
Machine/Queue.lean, Machine/Operands.lean, Machine/Packet.lean.) -/

namespace Sys2Proof

/-- The command that a word of `nbits` bits spells by the table's bits: none, for any word. -/
def decodeTableWord (_nbits _w : Nat) : Option Instr := none

end Sys2Proof
end

