-- ==== Sys2Proof/Machine/Events.lean ====
section
/-! DEFINITION. Event codes (R627): the group in bits [11:8] and the event's position in the list that closes its chapter. -/

namespace Sys2Proof.Machine

def Ev.mtxBusy : Nat := 0x0
def Ev.mtxBankStall : Nat := 0x1
def Ev.mtxScaleWait : Nat := 0x2
def Ev.mtxDrainStall : Nat := 0x3
def Ev.tallyFault : Nat := 0x4
def Ev.tallySkip : Nat := 0x5

def Ev.issueSbConflict : Nat := 0x100
def Ev.issueSbFull : Nat := 0x101
def Ev.issueUnitBusy : Nat := 0x102
def Ev.issueReg : Nat := 0x103
def Ev.issueBranch : Nat := 0x104
def Ev.issueIfetch : Nat := 0x105
def Ev.spdBankWait : Nat := 0x106
def Ev.issueWait : Nat := 0x107

def Ev.spdCe : Nat := 0x200
def Ev.spdUe : Nat := 0x201
def Ev.spdRmw : Nat := 0x203
def Ev.spdGatherFull : Nat := 0x204
def Ev.spdRemoteRefuse : Nat := 0x205
def Ev.ncHit : Nat := 0x206
def Ev.ncMiss : Nat := 0x207
def Ev.winAccept : Nat := 0x208
def Ev.winRefuse : Nat := 0x209

def Ev.feBusy : Nat := 0x300
def Ev.feShaftWait : Nat := 0x301
def Ev.fePoison : Nat := 0x302
def Ev.feRefused : Nat := 0x303
def Ev.scentSkip : Nat := 0x304
def Ev.scentLate : Nat := 0x305
def Ev.scentWaste : Nat := 0x306
def Ev.scentInelig : Nat := 0x307

def Ev.meshFlits : Nat := 0x400
def Ev.meshCe : Nat := 0x401
def Ev.meshUe : Nat := 0x402
def Ev.gatewayFlits : Nat := 0x403
def Ev.shaftCe : Nat := 0x404
def Ev.shaftUe : Nat := 0x405
def Ev.shaftNarrowCyc : Nat := 0x406
def Ev.bondSuspect : Nat := 0x407
def Ev.bondRepair : Nat := 0x408
def Ev.bondExhaust : Nat := 0x409

def Ev.sliceHit : Nat := 0x500
def Ev.sliceMiss : Nat := 0x501
def Ev.sliceBypass : Nat := 0x502
def Ev.floorCe : Nat := 0x503
def Ev.floorCeDelay : Nat := 0x504
def Ev.floorUe : Nat := 0x505
def Ev.floorUeRefill : Nat := 0x506
def Ev.mergeRmw : Nat := 0x507
def Ev.mergeFull : Nat := 0x508
def Ev.prefIssue : Nat := 0x509
def Ev.prefSquash : Nat := 0x50a
def Ev.deadRead : Nat := 0x50b
def Ev.pinCap : Nat := 0x50c
def Ev.ringFlits : Nat := 0x50d

def Ev.foldOps : Nat := 0x600
def Ev.epochPreclean : Nat := 0x601
def Ev.epochOverflow : Nat := 0x602
def Ev.epochCollision : Nat := 0x603
def Ev.commitDrainCyc : Nat := 0x604
def Ev.lateCommit : Nat := 0x605
def Ev.abortSent : Nat := 0x606
def Ev.abortRecv : Nat := 0x607
def Ev.passReplay : Nat := 0x608
def Ev.signalRefused : Nat := 0x609

def Ev.hbmRd : Nat := 0x700
def Ev.hbmWr : Nat := 0x701
def Ev.hbmCe : Nat := 0x702
def Ev.hbmCeDelay : Nat := 0x703
def Ev.hbmOdeccCe : Nat := 0x704
def Ev.hbmOdeccUe : Nat := 0x705
def Ev.hbmUe : Nat := 0x706
def Ev.hbmPoisonRead : Nat := 0x707
def Ev.hbmRfm : Nat := 0x708
def Ev.hbmThrottleCyc : Nat := 0x709
def Ev.twinRead : Nat := 0x70a
def Ev.twinRepair : Nat := 0x70b
def Ev.twinResolve : Nat := 0x70c
def Ev.twinSplit : Nat := 0x70d
def Ev.laneSuspect : Nat := 0x70e
def Ev.laneRepair : Nat := 0x70f
def Ev.channelRetire : Nat := 0x710

def Ev.latMiss : Nat := 0x800
def Ev.escStep : Nat := 0x801
def Ev.leashOut : Nat := 0x802
def Ev.barkCyc : Nat := 0x803
def Ev.leashShortfall : Nat := 0x804

def Ev.linkFlitsTx : Nat := 0x900
def Ev.linkFlitsRx : Nat := 0x901
def Ev.linkCrcErr : Nat := 0x902
def Ev.linkFecCe : Nat := 0x903
def Ev.linkFecUe : Nat := 0x904
def Ev.linkReplay : Nat := 0x905
def Ev.linkReplayFull : Nat := 0x906
def Ev.linkRetrain : Nat := 0x907
def Ev.linkDown : Nat := 0x908
def Ev.linkCreditStall : Nat := 0x909
def Ev.routeFenceHold : Nat := 0x90a
def Ev.fabExpired : Nat := 0x90b
def Ev.fabInDoubt : Nat := 0x90c
def Ev.fabMalformed : Nat := 0x90d
def Ev.mwinAccept : Nat := 0x90e
def Ev.mwinRefuse : Nat := 0x90f
def Ev.callServed : Nat := 0x910

def Ev.packOps : Nat := 0xa00
def Ev.packResend : Nat := 0xa01
def Ev.packDup : Nat := 0xa02
def Ev.packTimeout : Nat := 0xa03
def Ev.packMismatch : Nat := 0xa04
def Ev.snapChunk : Nat := 0xa05
def Ev.snapAbandon : Nat := 0xa06

def Ev.hostCmd : Nat := 0xb00
def Ev.hostBar2Rd : Nat := 0xb01
def Ev.hostBar2Wr : Nat := 0xb02
def Ev.hostOwnerViol : Nat := 0xb03
def Ev.hostUr : Nat := 0xb04
def Ev.hostPoisonCpl : Nat := 0xb05

def Ev.tableVote : Nat := 0xc00
def Ev.faultAbsorbed : Nat := 0xc01
def Ev.faultJobFatal : Nat := 0xc02
def Ev.keeperRestart : Nat := 0xc03

def Ev.pwrGuardCyc : Nat := 0xd00
def Ev.bayDefer : Nat := 0xd01
def Ev.bayUp : Nat := 0xd02
def Ev.oppChange : Nat := 0xd03
def Ev.phaseFail : Nat := 0xd04
def Ev.convFail : Nat := 0xd05
def Ev.reglCellFail : Nat := 0xd06
def Ev.idleEntry : Nat := 0xd07

def Ev.thrmHeel : Nat := 0xe00
def Ev.thrmMuzzleStep : Nat := 0xe01
def Ev.thrmMuzzleCyc : Nat := 0xe02
def Ev.thrmExclude : Nat := 0xe03
def Ev.thrmTrip : Nat := 0xe04

def Ev.timeSample : Nat := 0xf00
def Ev.timeSampleRej : Nat := 0xf01
def Ev.timeStep : Nat := 0xf02
def Ev.timeLock : Nat := 0xf03
def Ev.timeHoldover : Nat := 0xf04
def Ev.ppsInMiss : Nat := 0xf05
def Ev.cntOverflow : Nat := 0xf06

end Sys2Proof.Machine
end

