-- ==== Sys2Proof/Machine/RegMap.lean ====
section
/-! DEFINITION. The register map of R687, R688 and R690: the address of every register of BAR0, the place of every field, and
the masks and reset value of every register (each from the field table of the rule named). A register address is its BAR0
offset. The counters of R641 and R642 are not in this table: they are `State.counters`. -/

namespace Sys2Proof.Machine

/-- A field of a register: the register's BAR0 offset, the field's lowest bit and its width. -/
structure Fld where
  addr : Nat
  lo : Nat
  w : Nat
deriving DecidableEq, Repr

/-- A family of registers of one block: instance `i` of the block, index `n` within it. `rw` marks RW fields, `w1c` RW1C
fields; every other bit is RO, WO or RSV. -/
structure RegDef where
  base : Nat
  insts : Nat
  stride : Nat
  off : Nat
  step : Nat
  count : Nat
  bits : Nat
  rw : Nat
  w1c : Nat
  reset : Nat
deriving DecidableEq, Repr

/-- KEEP_FAULT_STAT (R525). -/
def R.keepFaultStat : Nat := 0x200
/-- KEEP_LOG_STAT (R526). -/
def R.keepLogStat : Nat := 0x208
/-- KEEP_WDOG (R527). -/
def R.keepWdog : Nat := 0x210
/-- KEEP_MEM_ERR (R528). -/
def R.keepMemErr : Nat := 0x218
/-- KEEP_PASS_STAT (R316). -/
def R.keepPassStat : Nat := 0x300
/-- KEEP_COLLAR_CFG (R370). -/
def R.keepCollarCfg : Nat := 0x400
/-- KEEP_LEASH_SHORT (R371). -/
def R.keepLeashShort : Nat := 0x408
/-- KEEP_BARK_LINK (R372). -/
def R.keepBarkLink (n : Nat) : Nat := 0x410 + 0x8 * n
/-- KEEP_BARK_PACK (R373). -/
def R.keepBarkPack : Nat := 0x420
/-- KEEP_LAT_TGT (R374). -/
def R.keepLatTgt (n : Nat) : Nat := 0x800 + 0x8 * n
/-- KEEP_LEASH (R375). -/
def R.keepLeash (n : Nat) : Nat := 0x1000 + 0x8 * n
/-- CMDQ_SQ_BASE (R486). -/
def R.cmdqSqBase (n : Nat) : Nat := 0x2000 + 0x40 * n
/-- CMDQ_CQ_BASE (R486). -/
def R.cmdqCqBase (n : Nat) : Nat := 0x2008 + 0x40 * n
/-- CMDQ_QCFG (R487). -/
def R.cmdqQcfg (n : Nat) : Nat := 0x2010 + 0x40 * n
/-- CMDQ_SQ_TAIL (R488). -/
def R.cmdqSqTail (n : Nat) : Nat := 0x2018 + 0x40 * n
/-- CMDQ_CQ_HEAD (R488). -/
def R.cmdqCqHead (n : Nat) : Nat := 0x2020 + 0x40 * n
/-- CMDQ_EVT_CFG (R489). -/
def R.cmdqEvtCfg : Nat := 0x2400
/-- CMDQ_EVT_LOST (R490). -/
def R.cmdqEvtLost : Nat := 0x2408
/-- HOSTW_EXCH (R491). -/
def R.hostwExch : Nat := 0x3000
/-- HOSTW_VIOL (R493). -/
def R.hostwViol : Nat := 0x3008
/-- HOSTW_ERR (R494). -/
def R.hostwErr : Nat := 0x3010
/-- HOSTW_SEG_DIR (R492). -/
def R.hostwSegDir (n : Nat) : Nat := 0x4000 + 0x8 * n
/-- BOOT_STEP (R549). -/
def R.bootStep : Nat := 0x5000
/-- BOOT_STATUS (R550). -/
def R.bootStatus : Nat := 0x5008
/-- BOOT_WARN (R551). -/
def R.bootWarn : Nat := 0x5010
/-- BOOT_DISC_0 (R552). -/
def R.bootDisc0 : Nat := 0x5018
/-- BOOT_DISC_1 (R552). -/
def R.bootDisc1 : Nat := 0x5020
/-- BOOT_DEFECT (R553). -/
def R.bootDefect : Nat := 0x5028
/-- BOOT_PART (R554). -/
def R.bootPart : Nat := 0x5030
/-- FUSE_STAT (R555). -/
def R.fuseStat : Nat := 0x5100
/-- TEST_STAT (R556). -/
def R.testStat : Nat := 0x5200
/-- TIME_NOW (R634). -/
def R.timeNow : Nat := 0x5300
/-- TIME_CFG (R635). -/
def R.timeCfg : Nat := 0x5308
/-- TIME_STAT (R636). -/
def R.timeStat : Nat := 0x5310
/-- TIME_OFFSET (R637). -/
def R.timeOffset : Nat := 0x5318
/-- TIME_ADJ (R638). -/
def R.timeAdj : Nat := 0x5320
/-- TIME_PPS_IN (R639). -/
def R.timePpsIn : Nat := 0x5328
/-- TIME_GM (R640). -/
def R.timeGm : Nat := 0x5330
/-- ATTS_FW_STAT (R660). -/
def R.attsFwStat : Nat := 0x5400
/-- ATTS_FW_VER (R661). -/
def R.attsFwVer : Nat := 0x5408
/-- ATTS_ID_STAT (R662). -/
def R.attsIdStat : Nat := 0x5410
/-- ATTS_SPDM_STAT (R663). -/
def R.attsSpdmStat : Nat := 0x5418
/-- KENL_RANGE (R282). -/
def R.kenlRange (n : Nat) : Nat := 0x6000 + 0x10 * n
/-- KENL_CTRL (R283). -/
def R.kenlCtrl (n : Nat) : Nat := 0x6008 + 0x10 * n
/-- REGL_STAT (R592). -/
def R.reglStat (n : Nat) : Nat := 0x6400 + 0x8 * n
/-- PACK_CFG (R452). -/
def R.packCfg : Nat := 0x7000
/-- PACK_TREE_CTRL (R453). -/
def R.packTreeCtrl (n : Nat) : Nat := 0x7100 + 0x40 * n
/-- PACK_TREE_KIDS_0 (R454). -/
def R.packTreeKids0 (n : Nat) : Nat := 0x7108 + 0x40 * n
/-- PACK_TREE_KIDS_1 (R454). -/
def R.packTreeKids1 (n : Nat) : Nat := 0x7110 + 0x40 * n
/-- PACK_TREE_MBOX (R455). -/
def R.packTreeMbox (n : Nat) : Nat := 0x7118 + 0x40 * n
/-- PACK_TREE_STAT (R456). -/
def R.packTreeStat (n : Nat) : Nat := 0x7120 + 0x40 * n
/-- PACK_SNAP_STAT (R457). -/
def R.packSnapStat (n : Nat) : Nat := 0x7800 + 0x10 * n
/-- PACK_SNAP_ID (R458). -/
def R.packSnapId (n : Nat) : Nat := 0x7808 + 0x10 * n
/-- PWRM_STAT (R580). -/
def R.pwrmStat : Nat := 0x8000
/-- PWRM_CAP (R581). -/
def R.pwrmCap : Nat := 0x8008
/-- PWRM_ACCT (R582). -/
def R.pwrmAcct : Nat := 0x8010
/-- PWRM_OPP (R583). -/
def R.pwrmOpp : Nat := 0x8018
/-- PWRM_WAKE_TOL (R584). -/
def R.pwrmWakeTol : Nat := 0x8020
/-- PWRM_GUARD (R585). -/
def R.pwrmGuard : Nat := 0x8028
/-- PWRM_CONV_STAT (R586). -/
def R.pwrmConvStat : Nat := 0x8030
/-- PWRM_BAY_CFG (R587). -/
def R.pwrmBayCfg : Nat := 0x8038
/-- PWRM_PHASE_STAT (R588). -/
def R.pwrmPhaseStat (n : Nat) : Nat := 0x8100 + 0x8 * n
/-- PWRM_BAY (R589). -/
def R.pwrmBay (n : Nat) : Nat := 0x8200 + 0x8 * n
/-- PWRM_BOND (R590). -/
def R.pwrmBond (n : Nat) : Nat := 0x8300 + 0x8 * n
/-- PWRM_CUR (R591). -/
def R.pwrmCur (n : Nat) : Nat := 0x9000 + 0x8 * n
/-- THRM_CFG (R608). -/
def R.thrmCfg : Nat := 0xa000
/-- THRM_STAT (R609). -/
def R.thrmStat : Nat := 0xa008
/-- THRM_UNIT (R610). -/
def R.thrmUnit (n : Nat) : Nat := 0xa100 + 0x8 * n
/-- THRM_EXCL (R611). -/
def R.thrmExcl (n : Nat) : Nat := 0xa400 + 0x8 * n
/-- THRM_FCAL (R612). -/
def R.thrmFcal (n : Nat) : Nat := 0xa500 + 0x8 * n
/-- THRM_TRIP (R613). -/
def R.thrmTrip : Nat := 0xa600
/-- WIN_CTRL (R423). -/
def R.winCtrl (n : Nat) : Nat := 0x10000 + 0x10 * n
/-- WIN_LEN (R424). -/
def R.winLen (n : Nat) : Nat := 0x10008 + 0x10 * n
/-- WIN_DB_LAST (R425). -/
def R.winDbLast : Nat := 0x14000
/-- HBMC_CFG (R341). -/
def R.hbmcCfg (i : Nat) : Nat := 0x18000 + 0x400 * i
/-- HBMC_TEMP (R342). -/
def R.hbmcTemp (i : Nat) : Nat := 0x18008 + 0x400 * i
/-- HBMC_TCAL (R343). -/
def R.hbmcTcal (i : Nat) : Nat := 0x18010 + 0x400 * i
/-- HBMC_SCRUB (R344). -/
def R.hbmcScrub (i : Nat) : Nat := 0x18018 + 0x400 * i
/-- HBMC_CH_STAT (R345). -/
def R.hbmcChStat (i n : Nat) : Nat := 0x18100 + 0x400 * i + 0x8 * n
/-- HBMC_CH_ERR (R346). -/
def R.hbmcChErr (i n : Nat) : Nat := 0x18200 + 0x400 * i + 0x8 * n
/-- HBMC_CH_ESC (R377). -/
def R.hbmcChEsc (i n : Nat) : Nat := 0x18300 + 0x400 * i + 0x8 * n
/-- LINK_CTRL (R419). -/
def R.linkCtrl (i : Nat) : Nat := 0x20000 + 0x200 * i
/-- LINK_STAT (R420). -/
def R.linkStat (i : Nat) : Nat := 0x20008 + 0x200 * i
/-- LINK_ERR (R421). -/
def R.linkErr (i : Nat) : Nat := 0x20010 + 0x200 * i
/-- LINK_ERRCNT (R422). -/
def R.linkErrcnt (i : Nat) : Nat := 0x20018 + 0x200 * i
/-- SLICE_CFG (R279). -/
def R.sliceCfg (i : Nat) : Nat := 0x80000 + 0x400 * i
/-- SLICE_STAT (R280). -/
def R.sliceStat (i : Nat) : Nat := 0x80008 + 0x400 * i
/-- SLICE_ERR (R281). -/
def R.sliceErr (i : Nat) : Nat := 0x80010 + 0x400 * i
/-- SLICE_ESC (R376). -/
def R.sliceEsc (i : Nat) : Nat := 0x80018 + 0x400 * i
/-- SLICE_ETAB (R315). -/
def R.sliceEtab (i n : Nat) : Nat := 0x80108 + 0x400 * i + 0x8 * n
/-- DECK_BOND_SCAN (R238). -/
def R.deckBondScan (i : Nat) : Nat := 0x100000 + 0x20000 * i
/-- DECK_BOND_LOG (R239). -/
def R.deckBondLog (i : Nat) : Nat := 0x100008 + 0x20000 * i
/-- DECK_LINK_ERR (R240). -/
def R.deckLinkErr (i : Nat) : Nat := 0x100010 + 0x20000 * i
/-- DECK_MAP_STAT (R529). -/
def R.deckMapStat (i : Nat) : Nat := 0x100018 + 0x20000 * i
/-- DECK_SHAFT_STAT (R241). -/
def R.deckShaftStat (i n : Nat) : Nat := 0x110000 + 0x20000 * i + 0x10 * n
/-- PORT_CFG (R415). -/
def R.portCfg (i : Nat) : Nat := 0x200000 + 0x20000 * i
/-- PORT_SELF (R416). -/
def R.portSelf (i : Nat) : Nat := 0x200008 + 0x20000 * i
/-- PORT_MAP_STAT (R417). -/
def R.portMapStat (i : Nat) : Nat := 0x200010 + 0x20000 * i
/-- PORT_ROUTE (R418). -/
def R.portRoute (i n : Nat) : Nat := 0x210000 + 0x20000 * i + 0x8 * n
/-- FLOOR_DBG (R274). -/
def R.floorDbg (i : Nat) : Nat := 0x400000 + 0x100000 * i
/-- FLOOR_SCRUB (R275). -/
def R.floorScrub (i : Nat) : Nat := 0x400008 + 0x100000 * i
/-- FLOOR_MAP_STAT (R276). -/
def R.floorMapStat (i : Nat) : Nat := 0x400010 + 0x100000 * i
/-- FLOOR_EPOCH_CFG (R313). -/
def R.floorEpochCfg (i : Nat) : Nat := 0x400018 + 0x100000 * i
/-- FLOOR_EPOCH_STAT (R314). -/
def R.floorEpochStat (i : Nat) : Nat := 0x400020 + 0x100000 * i
/-- FLOOR_TWIN_LOG (R347). -/
def R.floorTwinLog (i : Nat) : Nat := 0x400028 + 0x100000 * i
/-- FLOOR_TWIN_EP (R348). -/
def R.floorTwinEp (i : Nat) : Nat := 0x400030 + 0x100000 * i
/-- FLOOR_SPLIT_STAT (R349). -/
def R.floorSplitStat (i : Nat) : Nat := 0x400038 + 0x100000 * i
/-- FLOOR_HASH (R277). -/
def R.floorHash (i n : Nat) : Nat := 0x410000 + 0x100000 * i + 0x8 * n
/-- FLOOR_TWIN (R350). -/
def R.floorTwin (i n : Nat) : Nat := 0x430000 + 0x100000 * i + 0x8 * n
/-- FLOOR_PERM (R278). -/
def R.floorPerm (i n : Nat) : Nat := 0x4a0000 + 0x100000 * i + 0x8 * n
/-- TILE_CTRL (R131). -/
def R.tileCtrl (i : Nat) : Nat := 0xc00000 + 0x800 * i
/-- TILE_STAT (R132). -/
def R.tileStat (i : Nat) : Nat := 0xc00008 + 0x800 * i
/-- TILE_FAULT (R133). -/
def R.tileFault (i : Nat) : Nat := 0xc00010 + 0x800 * i
/-- TILE_FAULT_ADDR (R134). -/
def R.tileFaultAddr (i : Nat) : Nat := 0xc00018 + 0x800 * i
/-- TILE_WDOG (R135). -/
def R.tileWdog (i : Nat) : Nat := 0xc00020 + 0x800 * i
/-- TILE_ID (R136). -/
def R.tileId (i : Nat) : Nat := 0xc00028 + 0x800 * i
/-- TILE_CYCLES (R137). -/
def R.tileCycles (i : Nat) : Nat := 0xc00030 + 0x800 * i
/-- TILE_TALLY_TOL (R73). -/
def R.tileTallyTol (i : Nat) : Nat := 0xc00100 + 0x800 * i
/-- TILE_TALLY_LOG (R74). -/
def R.tileTallyLog (i : Nat) : Nat := 0xc00108 + 0x800 * i
/-- TILE_MTX_STAT (R75). -/
def R.tileMtxStat (i : Nat) : Nat := 0xc00110 + 0x800 * i
/-- TILE_FP_CTRL (R101). -/
def R.tileFpCtrl (i : Nat) : Nat := 0xc00120 + 0x800 * i
/-- TILE_FP_FLAGS (R102). -/
def R.tileFpFlags (i : Nat) : Nat := 0xc00128 + 0x800 * i
/-- TILE_SR_STATE (R103). -/
def R.tileSrState (i : Nat) : Nat := 0xc00130 + 0x800 * i
/-- TILE_SPD_PART (R176). -/
def R.tileSpdPart (i n : Nat) : Nat := 0xc00200 + 0x800 * i + 0x8 * n
/-- TILE_SPD_CTRL (R177). -/
def R.tileSpdCtrl (i : Nat) : Nat := 0xc00240 + 0x800 * i
/-- TILE_SPD_CLEAR (R178). -/
def R.tileSpdClear (i : Nat) : Nat := 0xc00248 + 0x800 * i
/-- TILE_SPD_STAT (R179). -/
def R.tileSpdStat (i : Nat) : Nat := 0xc00250 + 0x800 * i
/-- TILE_SPD_ERR (R180). -/
def R.tileSpdErr (i : Nat) : Nat := 0xc00258 + 0x800 * i
/-- TILE_WIN (R181). -/
def R.tileWin (i n : Nat) : Nat := 0xc00280 + 0x800 * i + 0x8 * n
/-- TILE_SPD_CONFL (R182). -/
def R.tileSpdConfl (i n : Nat) : Nat := 0xc00300 + 0x800 * i + 0x8 * n
/-- TILE_FE_STAT (R213). -/
def R.tileFeStat (i n : Nat) : Nat := 0xc00400 + 0x800 * i + 0x8 * n
/-- TILE_FE_LAST (R214). -/
def R.tileFeLast (i n : Nat) : Nat := 0xc00410 + 0x800 * i + 0x8 * n
/-- TILE_SCENT_CTRL (R215). -/
def R.tileScentCtrl (i : Nat) : Nat := 0xc00420 + 0x800 * i
/-- TILE_SCENT_STAT (R216). -/
def R.tileScentStat (i : Nat) : Nat := 0xc00428 + 0x800 * i

/-! Fields, named by register and field as the field tables of the rules name them. -/

def F.keepFaultStatState : Fld := ⟨R.keepFaultStat, 0, 2⟩
def F.keepFaultStatJobFatal : Fld := ⟨R.keepFaultStat, 2, 1⟩
def F.keepFaultStatFatalCause : Fld := ⟨R.keepFaultStat, 3, 4⟩
def F.keepFaultStatHoldTable : Fld := ⟨R.keepFaultStat, 8, 3⟩
def F.keepFaultStatMfatalCause : Fld := ⟨R.keepFaultStat, 16, 3⟩
def F.keepLogStatNextIndex : Fld := ⟨R.keepLogStat, 0, 16⟩
def F.keepLogStatUnread : Fld := ⟨R.keepLogStat, 16, 13⟩
def F.keepLogStatLost : Fld := ⟨R.keepLogStat, 32, 16⟩
def F.keepWdogLimitMs : Fld := ⟨R.keepWdog, 0, 8⟩
def F.keepWdogRecent : Fld := ⟨R.keepWdog, 8, 4⟩
def F.keepWdogTotal : Fld := ⟨R.keepWdog, 12, 20⟩
def F.keepMemErrCeValid : Fld := ⟨R.keepMemErr, 0, 1⟩
def F.keepMemErrUeValid : Fld := ⟨R.keepMemErr, 1, 1⟩
def F.keepMemErrCeCount : Fld := ⟨R.keepMemErr, 32, 16⟩
def F.keepPassStatState : Fld := ⟨R.keepPassStat, 0, 3⟩
def F.keepPassStatNonrep : Fld := ⟨R.keepPassStat, 3, 1⟩
def F.keepPassStatNonrepCause : Fld := ⟨R.keepPassStat, 4, 3⟩
def F.keepPassStatFabric : Fld := ⟨R.keepPassStat, 7, 1⟩
def F.keepPassStatReplays : Fld := ⟨R.keepPassStat, 8, 3⟩
def F.keepPassStatEpoch : Fld := ⟨R.keepPassStat, 32, 32⟩
def F.keepCollarCfgHostCollar : Fld := ⟨R.keepCollarCfg, 0, 4⟩
def F.keepCollarCfgEscEn : Fld := ⟨R.keepCollarCfg, 4, 1⟩
def F.keepCollarCfgBarkEn : Fld := ⟨R.keepCollarCfg, 5, 1⟩
def F.keepLeashShortValid : Fld := ⟨R.keepLeashShort, 0, 1⟩
def F.keepLeashShortMulti : Fld := ⟨R.keepLeashShort, 1, 1⟩
def F.keepLeashShortClass : Fld := ⟨R.keepLeashShort, 2, 3⟩
def F.keepLeashShortDir : Fld := ⟨R.keepLeashShort, 5, 1⟩
def F.keepLeashShortInstance : Fld := ⟨R.keepLeashShort, 6, 12⟩
def F.keepLeashShortCount : Fld := ⟨R.keepLeashShort, 18, 12⟩
def F.keepLeashShortReduced : Fld := ⟨R.keepLeashShort, 32, 16⟩
def F.keepLeashShortZeroed : Fld := ⟨R.keepLeashShort, 48, 16⟩
def F.keepBarkLinkLevelI (n : Nat) : Fld := ⟨R.keepBarkLink n, 0, 64⟩
def F.keepBarkPackLevelP : Fld := ⟨R.keepBarkPack, 0, 16⟩
def F.keepLatTgtSliceNs (n : Nat) : Fld := ⟨R.keepLatTgt n, 0, 16⟩
def F.keepLatTgtHbmNs (n : Nat) : Fld := ⟨R.keepLatTgt n, 16, 16⟩
def F.keepLeashMbps (n : Nat) : Fld := ⟨R.keepLeash n, 0, 21⟩
def F.keepLeashScaled (n : Nat) : Fld := ⟨R.keepLeash n, 21, 1⟩
def F.cmdqSqBaseAddr (n : Nat) : Fld := ⟨R.cmdqSqBase n, 12, 52⟩
def F.cmdqCqBaseAddr (n : Nat) : Fld := ⟨R.cmdqCqBase n, 12, 52⟩
def F.cmdqQcfgEnable (n : Nat) : Fld := ⟨R.cmdqQcfg n, 0, 1⟩
def F.cmdqQcfgLog2Size (n : Nat) : Fld := ⟨R.cmdqQcfg n, 1, 4⟩
def F.cmdqQcfgVector (n : Nat) : Fld := ⟨R.cmdqQcfg n, 5, 6⟩
def F.cmdqQcfgBusy (n : Nat) : Fld := ⟨R.cmdqQcfg n, 11, 1⟩
def F.cmdqQcfgErr (n : Nat) : Fld := ⟨R.cmdqQcfg n, 12, 1⟩
def F.cmdqQcfgSession (n : Nat) : Fld := ⟨R.cmdqQcfg n, 16, 4⟩
def F.cmdqQcfgOwned (n : Nat) : Fld := ⟨R.cmdqQcfg n, 20, 1⟩
def F.cmdqSqTailIndex (n : Nat) : Fld := ⟨R.cmdqSqTail n, 0, 12⟩
def F.cmdqCqHeadIndex (n : Nat) : Fld := ⟨R.cmdqCqHead n, 0, 12⟩
def F.cmdqEvtCfgVector : Fld := ⟨R.cmdqEvtCfg, 0, 6⟩
def F.cmdqEvtLostCount : Fld := ⟨R.cmdqEvtLost, 0, 16⟩
def F.hostwExchDeclared : Fld := ⟨R.hostwExch, 0, 1⟩
def F.hostwExchSegLog2 : Fld := ⟨R.hostwExch, 1, 5⟩
def F.hostwExchNSeg : Fld := ⟨R.hostwExch, 6, 14⟩
def F.hostwExchBase : Fld := ⟨R.hostwExch, 20, 44⟩
def F.hostwViolValid : Fld := ⟨R.hostwViol, 0, 1⟩
def F.hostwViolMulti : Fld := ⟨R.hostwViol, 1, 1⟩
def F.hostwViolFlag : Fld := ⟨R.hostwViol, 2, 1⟩
def F.hostwViolSegment : Fld := ⟨R.hostwViol, 3, 13⟩
def F.hostwViolOffset : Fld := ⟨R.hostwViol, 16, 32⟩
def F.hostwViolOwner : Fld := ⟨R.hostwViol, 48, 2⟩
def F.hostwErrValid : Fld := ⟨R.hostwErr, 0, 1⟩
def F.hostwErrMulti : Fld := ⟨R.hostwErr, 1, 1⟩
def F.hostwErrKind : Fld := ⟨R.hostwErr, 2, 3⟩
def F.hostwErrBar : Fld := ⟨R.hostwErr, 5, 2⟩
def F.hostwErrOffset : Fld := ⟨R.hostwErr, 8, 56⟩
def F.hostwSegDirDirI (n : Nat) : Fld := ⟨R.hostwSegDir n, 0, 64⟩
def F.bootStepStep : Fld := ⟨R.bootStep, 0, 4⟩
def F.bootStepGo : Fld := ⟨R.bootStep, 4, 1⟩
def F.bootStepModuleId : Fld := ⟨R.bootStep, 8, 14⟩
def F.bootStatusStep : Fld := ⟨R.bootStatus, 0, 4⟩
def F.bootStatusState : Fld := ⟨R.bootStatus, 4, 2⟩
def F.bootStatusResult : Fld := ⟨R.bootStatus, 6, 8⟩
def F.bootStatusDoneUpto : Fld := ⟨R.bootStatus, 14, 4⟩
def F.bootStatusDoneValid : Fld := ⟨R.bootStatus, 18, 1⟩
def F.bootStatusReady : Fld := ⟨R.bootStatus, 19, 1⟩
def F.bootWarnConvMissing : Fld := ⟨R.bootWarn, 0, 1⟩
def F.bootWarnFuseDigest : Fld := ⟨R.bootWarn, 1, 1⟩
def F.bootWarnReturn : Fld := ⟨R.bootWarn, 2, 1⟩
def F.bootWarnExhausted : Fld := ⟨R.bootWarn, 3, 1⟩
def F.bootWarnHbmRate : Fld := ⟨R.bootWarn, 4, 1⟩
def F.bootWarnHbmRetired : Fld := ⟨R.bootWarn, 5, 1⟩
def F.bootWarnShortSector : Fld := ⟨R.bootWarn, 6, 1⟩
def F.bootWarnLinkDown : Fld := ⟨R.bootWarn, 7, 1⟩
def F.bootWarnLinkNarrow : Fld := ⟨R.bootWarn, 8, 1⟩
def F.bootWarnJoinPartial : Fld := ⟨R.bootWarn, 9, 1⟩
def F.bootDisc0DeckI : Fld := ⟨R.bootDisc0, 0, 32⟩
def F.bootDisc0FloorI : Fld := ⟨R.bootDisc0, 32, 32⟩
def F.bootDisc1PortP : Fld := ⟨R.bootDisc1, 0, 32⟩
def F.bootDefectUsableTiles : Fld := ⟨R.bootDefect, 0, 15⟩
def F.bootDefectBare : Fld := ⟨R.bootDefect, 15, 11⟩
def F.bootDefectShort : Fld := ⟨R.bootDefect, 26, 11⟩
def F.bootDefectSlicesOut : Fld := ⟨R.bootDefect, 37, 9⟩
def F.bootDefectReturn : Fld := ⟨R.bootDefect, 46, 1⟩
def F.bootPartCompute : Fld := ⟨R.bootPart, 0, 2⟩
def F.bootPartLink : Fld := ⟨R.bootPart, 2, 2⟩
def F.bootPartHbmKept : Fld := ⟨R.bootPart, 4, 1⟩
def F.bootPartFabric : Fld := ⟨R.bootPart, 5, 1⟩
def F.fuseStatReadDone : Fld := ⟨R.fuseStat, 0, 1⟩
def F.fuseStatDigestOk : Fld := ⟨R.fuseStat, 1, 1⟩
def F.fuseStatEntries : Fld := ⟨R.fuseStat, 2, 11⟩
def F.fuseStatVersion : Fld := ⟨R.fuseStat, 13, 4⟩
def F.fuseStatIgnored : Fld := ⟨R.fuseStat, 17, 11⟩
def F.testStatDone : Fld := ⟨R.testStat, 0, 1⟩
def F.testStatFatal : Fld := ⟨R.testStat, 1, 1⟩
def F.testStatFindings : Fld := ⟨R.testStat, 2, 11⟩
def F.testStatFatalUnit : Fld := ⟨R.testStat, 32, 32⟩
def F.timeNowNs : Fld := ⟨R.timeNow, 0, 64⟩
def F.timeCfgPtp : Fld := ⟨R.timeCfg, 0, 2⟩
def F.timeCfgPpsOut : Fld := ⟨R.timeCfg, 2, 1⟩
def F.timeCfgDomain : Fld := ⟨R.timeCfg, 3, 7⟩
def F.timeStatState : Fld := ⟨R.timeStat, 0, 2⟩
def F.timeStatSource : Fld := ⟨R.timeStat, 2, 2⟩
def F.timeStatStepped : Fld := ⟨R.timeStat, 4, 1⟩
def F.timeStatGmValid : Fld := ⟨R.timeStat, 5, 1⟩
def F.timeStatHoldoverS : Fld := ⟨R.timeStat, 32, 32⟩
def F.timeOffsetTheta : Fld := ⟨R.timeOffset, 0, 32⟩
def F.timeOffsetThetaMon : Fld := ⟨R.timeOffset, 32, 32⟩
def F.timeAdjFreq : Fld := ⟨R.timeAdj, 0, 32⟩
def F.timePpsInStamp : Fld := ⟨R.timePpsIn, 0, 64⟩
def F.timeGmClockId : Fld := ⟨R.timeGm, 0, 64⟩
def F.attsFwStatRunning : Fld := ⟨R.attsFwStat, 0, 1⟩
def F.attsFwStatStaged : Fld := ⟨R.attsFwStat, 1, 1⟩
def F.attsFwStatAdvancing : Fld := ⟨R.attsFwStat, 2, 1⟩
def F.attsFwStatKeyIndex : Fld := ⟨R.attsFwStat, 4, 2⟩
def F.attsFwStatRevoked : Fld := ⟨R.attsFwStat, 6, 4⟩
def F.attsFwStatSvn : Fld := ⟨R.attsFwStat, 10, 7⟩
def F.attsFwStatFused : Fld := ⟨R.attsFwStat, 17, 7⟩
def F.attsFwStatStagedSvn : Fld := ⟨R.attsFwStat, 24, 7⟩
def F.attsFwVerVersion : Fld := ⟨R.attsFwVer, 0, 64⟩
def F.attsIdStatRecordOk : Fld := ⟨R.attsIdStat, 0, 1⟩
def F.attsIdStatChainOk : Fld := ⟨R.attsIdStat, 1, 1⟩
def F.attsIdStatKeyMatch : Fld := ⟨R.attsIdStat, 2, 1⟩
def F.attsIdStatPart : Fld := ⟨R.attsIdStat, 16, 16⟩
def F.attsSpdmStatState : Fld := ⟨R.attsSpdmStat, 0, 2⟩
def F.attsSpdmStatSigned : Fld := ⟨R.attsSpdmStat, 32, 16⟩
def F.attsSpdmStatErrors : Fld := ⟨R.attsSpdmStat, 48, 16⟩
def F.kenlRangeBase (n : Nat) : Fld := ⟨R.kenlRange n, 0, 27⟩
def F.kenlRangeLast (n : Nat) : Fld := ⟨R.kenlRange n, 27, 27⟩
def F.kenlCtrlEnable (n : Nat) : Fld := ⟨R.kenlCtrl n, 0, 1⟩
def F.kenlCtrlPers (n : Nat) : Fld := ⟨R.kenlCtrl n, 1, 2⟩
def F.kenlCtrlDroppable (n : Nat) : Fld := ⟨R.kenlCtrl n, 3, 1⟩
def F.kenlCtrlQuota (n : Nat) : Fld := ⟨R.kenlCtrl n, 4, 4⟩
def F.kenlCtrlPersEff (n : Nat) : Fld := ⟨R.kenlCtrl n, 8, 2⟩
def F.reglStatCellsOk (n : Nat) : Fld := ⟨R.reglStat n, 0, 4⟩
def F.reglStatState (n : Nat) : Fld := ⟨R.reglStat n, 4, 2⟩
def F.reglStatLoadPct (n : Nat) : Fld := ⟨R.reglStat n, 6, 7⟩
def F.packCfgTimeoutUs : Fld := ⟨R.packCfg, 0, 16⟩
def F.packCfgTimeEn : Fld := ⟨R.packCfg, 16, 1⟩
def F.packTreeCtrlEnable (n : Nat) : Fld := ⟨R.packTreeCtrl n, 0, 1⟩
def F.packTreeCtrlHasParent (n : Nat) : Fld := ⟨R.packTreeCtrl n, 1, 1⟩
def F.packTreeCtrlParent (n : Nat) : Fld := ⟨R.packTreeCtrl n, 2, 14⟩
def F.packTreeCtrlHome (n : Nat) : Fld := ⟨R.packTreeCtrl n, 16, 3⟩
def F.packTreeCtrlNChild (n : Nat) : Fld := ⟨R.packTreeCtrl n, 19, 4⟩
def F.packTreeCtrlCommit (n : Nat) : Fld := ⟨R.packTreeCtrl n, 23, 1⟩
def F.packTreeCtrlTime (n : Nat) : Fld := ⟨R.packTreeCtrl n, 24, 1⟩
def F.packTreeKids0Kid0 (n : Nat) : Fld := ⟨R.packTreeKids0 n, 0, 15⟩
def F.packTreeKids0Kid1 (n : Nat) : Fld := ⟨R.packTreeKids0 n, 16, 15⟩
def F.packTreeKids0Kid2 (n : Nat) : Fld := ⟨R.packTreeKids0 n, 32, 15⟩
def F.packTreeKids0Kid3 (n : Nat) : Fld := ⟨R.packTreeKids0 n, 48, 15⟩
def F.packTreeKids1Kid4 (n : Nat) : Fld := ⟨R.packTreeKids1 n, 0, 15⟩
def F.packTreeKids1Kid5 (n : Nat) : Fld := ⟨R.packTreeKids1 n, 16, 15⟩
def F.packTreeKids1Kid6 (n : Nat) : Fld := ⟨R.packTreeKids1 n, 32, 15⟩
def F.packTreeKids1Kid7 (n : Nat) : Fld := ⟨R.packTreeKids1 n, 48, 15⟩
def F.packTreeMboxMboxEn (n : Nat) : Fld := ⟨R.packTreeMbox n, 0, 1⟩
def F.packTreeMboxBase (n : Nat) : Fld := ⟨R.packTreeMbox n, 10, 38⟩
def F.packTreeStatState (n : Nat) : Fld := ⟨R.packTreeStat n, 0, 2⟩
def F.packTreeStatKind (n : Nat) : Fld := ⟨R.packTreeStat n, 2, 4⟩
def F.packTreeStatOpSeq (n : Nat) : Fld := ⟨R.packTreeStat n, 6, 16⟩
def F.packTreeStatLastStatus (n : Nat) : Fld := ⟨R.packTreeStat n, 22, 4⟩
def F.packTreeStatKidsIn (n : Nat) : Fld := ⟨R.packTreeStat n, 26, 8⟩
def F.packTreeStatLocalIn (n : Nat) : Fld := ⟨R.packTreeStat n, 34, 1⟩
def F.packSnapStatState (n : Nat) : Fld := ⟨R.packSnapStat n, 0, 3⟩
def F.packSnapStatCause (n : Nat) : Fld := ⟨R.packSnapStat n, 3, 3⟩
def F.packSnapStatChunks (n : Nat) : Fld := ⟨R.packSnapStat n, 8, 24⟩
def F.packSnapStatEpoch (n : Nat) : Fld := ⟨R.packSnapStat n, 32, 32⟩
def F.packSnapIdSnapId (n : Nat) : Fld := ⟨R.packSnapId n, 0, 64⟩
def F.pwrmStatSupplyOk : Fld := ⟨R.pwrmStat, 0, 1⟩
def F.pwrmStatInputWarn : Fld := ⟨R.pwrmStat, 1, 1⟩
def F.pwrmStatConvOk : Fld := ⟨R.pwrmStat, 2, 3⟩
def F.pwrmStatGuardActive : Fld := ⟨R.pwrmStat, 5, 1⟩
def F.pwrmStatRailFault : Fld := ⟨R.pwrmStat, 8, 8⟩
def F.pwrmStatVin : Fld := ⟨R.pwrmStat, 32, 16⟩
def F.pwrmCapCapW : Fld := ⟨R.pwrmCap, 0, 13⟩
def F.pwrmCapMaxOpp : Fld := ⟨R.pwrmCap, 13, 2⟩
def F.pwrmCapEffCapW : Fld := ⟨R.pwrmCap, 16, 13⟩
def F.pwrmCapRefillW : Fld := ⟨R.pwrmCap, 32, 13⟩
def F.pwrmAcctBalance : Fld := ⟨R.pwrmAcct, 0, 32⟩
def F.pwrmAcctF : Fld := ⟨R.pwrmAcct, 32, 16⟩
def F.pwrmOppCurD : Fld := ⟨R.pwrmOpp, 0, 16⟩
def F.pwrmOppPhaseLimD : Fld := ⟨R.pwrmOpp, 16, 16⟩
def F.pwrmWakeTolTolUs : Fld := ⟨R.pwrmWakeTol, 0, 32⟩
def F.pwrmWakeTolChosen : Fld := ⟨R.pwrmWakeTol, 32, 3⟩
def F.pwrmWakeTolCurrent : Fld := ⟨R.pwrmWakeTol, 35, 3⟩
def F.pwrmGuardShortW : Fld := ⟨R.pwrmGuard, 0, 13⟩
def F.pwrmGuardLongW : Fld := ⟨R.pwrmGuard, 13, 13⟩
def F.pwrmGuardAction : Fld := ⟨R.pwrmGuard, 26, 2⟩
def F.pwrmConvStatConv0 : Fld := ⟨R.pwrmConvStat, 0, 13⟩
def F.pwrmConvStatConv1 : Fld := ⟨R.pwrmConvStat, 16, 13⟩
def F.pwrmConvStatConv2 : Fld := ⟨R.pwrmConvStat, 32, 13⟩
def F.pwrmConvStatConv3 : Fld := ⟨R.pwrmConvStat, 48, 13⟩
def F.pwrmBayCfgIdleUs : Fld := ⟨R.pwrmBayCfg, 0, 10⟩
def F.pwrmPhaseStatInstalled (n : Nat) : Fld := ⟨R.pwrmPhaseStat n, 0, 4⟩
def F.pwrmPhaseStatFailed (n : Nat) : Fld := ⟨R.pwrmPhaseStat n, 4, 4⟩
def F.pwrmPhaseStatLost (n : Nat) : Fld := ⟨R.pwrmPhaseStat n, 8, 1⟩
def F.pwrmBayGated (n : Nat) : Fld := ⟨R.pwrmBay n, 0, 20⟩
def F.pwrmBayBayUp (n : Nat) : Fld := ⟨R.pwrmBay n, 20, 5⟩
def F.pwrmBayUpBusy (n : Nat) : Fld := ⟨R.pwrmBay n, 25, 1⟩
def F.pwrmBayDeferred (n : Nat) : Fld := ⟨R.pwrmBay n, 26, 1⟩
def F.pwrmBayHalfRate (n : Nat) : Fld := ⟨R.pwrmBay n, 27, 1⟩
def F.pwrmBondOver125 (n : Nat) : Fld := ⟨R.pwrmBond n, 0, 16⟩
def F.pwrmBondOver150 (n : Nat) : Fld := ⟨R.pwrmBond n, 16, 16⟩
def F.pwrmCurAvg (n : Nat) : Fld := ⟨R.pwrmCur n, 0, 16⟩
def F.pwrmCurPeak (n : Nat) : Fld := ⟨R.pwrmCur n, 16, 16⟩
def F.pwrmCurMv (n : Nat) : Fld := ⟨R.pwrmCur n, 32, 17⟩
def F.thrmCfgGraceMs : Fld := ⟨R.thrmCfg, 0, 11⟩
def F.thrmStatHeel : Fld := ⟨R.thrmStat, 0, 1⟩
def F.thrmStatMuzzle : Fld := ⟨R.thrmStat, 1, 1⟩
def F.thrmStatHotKind : Fld := ⟨R.thrmStat, 2, 3⟩
def F.thrmStatHotIndex : Fld := ⟨R.thrmStat, 5, 5⟩
def F.thrmStatHotTemp : Fld := ⟨R.thrmStat, 10, 8⟩
def F.thrmStatGraceLeft : Fld := ⟨R.thrmStat, 18, 11⟩
def F.thrmStatRefillLvl : Fld := ⟨R.thrmStat, 29, 2⟩
def F.thrmUnitMeasured (n : Nat) : Fld := ⟨R.thrmUnit n, 0, 8⟩
def F.thrmUnitDerived (n : Nat) : Fld := ⟨R.thrmUnit n, 8, 8⟩
def F.thrmUnitGoverning (n : Nat) : Fld := ⟨R.thrmUnit n, 16, 8⟩
def F.thrmUnitExcluded (n : Nat) : Fld := ⟨R.thrmUnit n, 24, 6⟩
def F.thrmUnitGuard (n : Nat) : Fld := ⟨R.thrmUnit n, 30, 1⟩
def F.thrmUnitLevel (n : Nat) : Fld := ⟨R.thrmUnit n, 32, 2⟩
def F.thrmExclExcl (n : Nat) : Fld := ⟨R.thrmExcl n, 0, 64⟩
def F.thrmFcalGD (n : Nat) : Fld := ⟨R.thrmFcal n, 0, 8⟩
def F.thrmFcalGS (n : Nat) : Fld := ⟨R.thrmFcal n, 8, 8⟩
def F.thrmFcalRVia (n : Nat) : Fld := ⟨R.thrmFcal n, 16, 8⟩
def F.thrmTripValid : Fld := ⟨R.thrmTrip, 0, 1⟩
def F.thrmTripKind : Fld := ⟨R.thrmTrip, 1, 3⟩
def F.thrmTripIndex : Fld := ⟨R.thrmTrip, 4, 5⟩
def F.thrmTripSensor : Fld := ⟨R.thrmTrip, 9, 6⟩
def F.thrmTripTemp : Fld := ⟨R.thrmTrip, 15, 8⟩
def F.thrmTripSource : Fld := ⟨R.thrmTrip, 23, 1⟩
def F.thrmTripTime : Fld := ⟨R.thrmTrip, 32, 32⟩
def F.winCtrlState (n : Nat) : Fld := ⟨R.winCtrl n, 0, 2⟩
def F.winCtrlCmd (n : Nat) : Fld := ⟨R.winCtrl n, 2, 2⟩
def F.winCtrlOpDep (n : Nat) : Fld := ⟨R.winCtrl n, 4, 1⟩
def F.winCtrlOpFold (n : Nat) : Fld := ⟨R.winCtrl n, 5, 1⟩
def F.winCtrlOpSig (n : Nat) : Fld := ⟨R.winCtrl n, 6, 1⟩
def F.winCtrlOpCall (n : Nat) : Fld := ⟨R.winCtrl n, 7, 1⟩
def F.winCtrlGen (n : Nat) : Fld := ⟨R.winCtrl n, 8, 8⟩
def F.winCtrlBase (n : Nat) : Fld := ⟨R.winCtrl n, 16, 40⟩
def F.winCtrlDbEn (n : Nat) : Fld := ⟨R.winCtrl n, 56, 1⟩
def F.winCtrlDbVec (n : Nat) : Fld := ⟨R.winCtrl n, 57, 6⟩
def F.winLenLenM1 (n : Nat) : Fld := ⟨R.winLen n, 0, 32⟩
def F.winLenSrcLo (n : Nat) : Fld := ⟨R.winLen n, 32, 14⟩
def F.winLenSrcHi (n : Nat) : Fld := ⟨R.winLen n, 46, 14⟩
def F.winDbLastValid : Fld := ⟨R.winDbLast, 0, 1⟩
def F.winDbLastMulti : Fld := ⟨R.winDbLast, 1, 1⟩
def F.winDbLastWindow : Fld := ⟨R.winDbLast, 2, 10⟩
def F.winDbLastSrcModule : Fld := ⟨R.winDbLast, 12, 14⟩
def F.hbmcCfgRate (i : Nat) : Fld := ⟨R.hbmcCfg i, 0, 2⟩
def F.hbmcCfgRateTarget (i : Nat) : Fld := ⟨R.hbmcCfg i, 2, 2⟩
def F.hbmcCfgPopulated (i : Nat) : Fld := ⟨R.hbmcCfg i, 4, 1⟩
def F.hbmcCfgHalfRate (i : Nat) : Fld := ⟨R.hbmcCfg i, 5, 1⟩
def F.hbmcCfgRfmEn (i : Nat) : Fld := ⟨R.hbmcCfg i, 6, 1⟩
def F.hbmcTempReported (i : Nat) : Fld := ⟨R.hbmcTemp i, 0, 8⟩
def F.hbmcTempEstimated (i : Nat) : Fld := ⟨R.hbmcTemp i, 8, 8⟩
def F.hbmcTempGoverning (i : Nat) : Fld := ⟨R.hbmcTemp i, 16, 8⟩
def F.hbmcTempRefiHalf (i : Nat) : Fld := ⟨R.hbmcTemp i, 24, 1⟩
def F.hbmcTempThrottle (i : Nat) : Fld := ⟨R.hbmcTemp i, 25, 2⟩
def F.hbmcTcalK (i : Nat) : Fld := ⟨R.hbmcTcal i, 0, 10⟩
def F.hbmcTcalPower (i : Nat) : Fld := ⟨R.hbmcTcal i, 10, 16⟩
def F.hbmcScrubEnable (i : Nat) : Fld := ⟨R.hbmcScrub i, 0, 1⟩
def F.hbmcScrubPeriodH (i : Nat) : Fld := ⟨R.hbmcScrub i, 1, 8⟩
def F.hbmcScrubTwinCmp (i : Nat) : Fld := ⟨R.hbmcScrub i, 9, 1⟩
def F.hbmcChStatState (i n : Nat) : Fld := ⟨R.hbmcChStat i n, 0, 2⟩
def F.hbmcChStatRetireCause (i n : Nat) : Fld := ⟨R.hbmcChStat i n, 2, 3⟩
def F.hbmcChStatLanePending (i n : Nat) : Fld := ⟨R.hbmcChStat i n, 5, 1⟩
def F.hbmcChStatLanesRepPc0 (i n : Nat) : Fld := ⟨R.hbmcChStat i n, 6, 4⟩
def F.hbmcChStatLanesRepPc1 (i n : Nat) : Fld := ⟨R.hbmcChStat i n, 10, 4⟩
def F.hbmcChStatLaneUnrep (i n : Nat) : Fld := ⟨R.hbmcChStat i n, 14, 1⟩
def F.hbmcChStatCeCount (i n : Nat) : Fld := ⟨R.hbmcChStat i n, 32, 16⟩
def F.hbmcChErrUeValid (i n : Nat) : Fld := ⟨R.hbmcChErr i n, 0, 1⟩
def F.hbmcChErrUeMulti (i n : Nat) : Fld := ⟨R.hbmcChErr i n, 1, 1⟩
def F.hbmcChErrSrc (i n : Nat) : Fld := ⟨R.hbmcChErr i n, 2, 3⟩
def F.hbmcChErrSev (i n : Nat) : Fld := ⟨R.hbmcChErr i n, 5, 2⟩
def F.hbmcChErrPc (i n : Nat) : Fld := ⟨R.hbmcChErr i n, 7, 1⟩
def F.hbmcChErrLine (i n : Nat) : Fld := ⟨R.hbmcChErr i n, 8, 21⟩
def F.hbmcChErrSector (i n : Nat) : Fld := ⟨R.hbmcChErr i n, 29, 3⟩
def F.hbmcChErrEpoch (i n : Nat) : Fld := ⟨R.hbmcChErr i n, 32, 32⟩
def F.hbmcChEscStepsC (i n : Nat) : Fld := ⟨R.hbmcChEsc i n, 0, 48⟩
def F.linkCtrlEnable (i : Nat) : Fld := ⟨R.linkCtrl i, 0, 1⟩
def F.linkCtrlRetrain (i : Nat) : Fld := ⟨R.linkCtrl i, 1, 1⟩
def F.linkCtrlRetrainLimMs (i : Nat) : Fld := ⟨R.linkCtrl i, 2, 5⟩
def F.linkCtrlAutoRestore (i : Nat) : Fld := ⟨R.linkCtrl i, 7, 1⟩
def F.linkCtrlMinWidth (i : Nat) : Fld := ⟨R.linkCtrl i, 8, 2⟩
def F.linkStatState (i : Nat) : Fld := ⟨R.linkStat i, 0, 3⟩
def F.linkStatWidth (i : Nat) : Fld := ⟨R.linkStat i, 3, 2⟩
def F.linkStatLanesGood (i : Nat) : Fld := ⟨R.linkStat i, 5, 4⟩
def F.linkStatPolInv (i : Nat) : Fld := ⟨R.linkStat i, 9, 4⟩
def F.linkStatReversed (i : Nat) : Fld := ⟨R.linkStat i, 13, 1⟩
def F.linkStatMedia (i : Nat) : Fld := ⟨R.linkStat i, 14, 1⟩
def F.linkStatPeerLink (i : Nat) : Fld := ⟨R.linkStat i, 15, 6⟩
def F.linkStatPeerModule (i : Nat) : Fld := ⟨R.linkStat i, 21, 14⟩
def F.linkStatPeerValid (i : Nat) : Fld := ⟨R.linkStat i, 35, 1⟩
def F.linkStatTxSeq (i : Nat) : Fld := ⟨R.linkStat i, 36, 12⟩
def F.linkStatAckSeq (i : Nat) : Fld := ⟨R.linkStat i, 48, 12⟩
def F.linkErrValid (i : Nat) : Fld := ⟨R.linkErr i, 0, 1⟩
def F.linkErrMulti (i : Nat) : Fld := ⟨R.linkErr i, 1, 1⟩
def F.linkErrKind (i : Nat) : Fld := ⟨R.linkErr i, 2, 3⟩
def F.linkErrSeq (i : Nat) : Fld := ⟨R.linkErr i, 5, 12⟩
def F.linkErrLanes (i : Nat) : Fld := ⟨R.linkErr i, 17, 4⟩
def F.linkErrTime (i : Nat) : Fld := ⟨R.linkErr i, 32, 32⟩
def F.linkErrcntFecCeSym (i : Nat) : Fld := ⟨R.linkErrcnt i, 0, 32⟩
def F.linkErrcntFecUeCw (i : Nat) : Fld := ⟨R.linkErrcnt i, 32, 12⟩
def F.linkErrcntReplays (i : Nat) : Fld := ⟨R.linkErrcnt i, 44, 12⟩
def F.linkErrcntRetrains (i : Nat) : Fld := ⟨R.linkErrcnt i, 56, 8⟩
def F.sliceCfgMode (i : Nat) : Fld := ⟨R.sliceCfg i, 0, 2⟩
def F.sliceCfgSplitWays (i : Nat) : Fld := ⟨R.sliceCfg i, 2, 2⟩
def F.sliceCfgPrefEn (i : Nat) : Fld := ⟨R.sliceCfg i, 4, 1⟩
def F.sliceCfgPrefDepth (i : Nat) : Fld := ⟨R.sliceCfg i, 5, 5⟩
def F.sliceStatMode (i : Nat) : Fld := ⟨R.sliceStat i, 0, 2⟩
def F.sliceStatPopulated (i : Nat) : Fld := ⟨R.sliceStat i, 2, 1⟩
def F.sliceStatRemoved (i : Nat) : Fld := ⟨R.sliceStat i, 3, 1⟩
def F.sliceStatFills (i : Nat) : Fld := ⟨R.sliceStat i, 4, 6⟩
def F.sliceStatMergeUsed (i : Nat) : Fld := ⟨R.sliceStat i, 10, 5⟩
def F.sliceStatPinnedMax (i : Nat) : Fld := ⟨R.sliceStat i, 15, 4⟩
def F.sliceErrCeValid (i : Nat) : Fld := ⟨R.sliceErr i, 0, 1⟩
def F.sliceErrUeValid (i : Nat) : Fld := ⟨R.sliceErr i, 1, 1⟩
def F.sliceErrUeMulti (i : Nat) : Fld := ⟨R.sliceErr i, 2, 1⟩
def F.sliceErrUeSrc (i : Nat) : Fld := ⟨R.sliceErr i, 5, 3⟩
def F.sliceErrUeSet (i : Nat) : Fld := ⟨R.sliceErr i, 8, 10⟩
def F.sliceErrUeWay (i : Nat) : Fld := ⟨R.sliceErr i, 18, 4⟩
def F.sliceErrUeSector (i : Nat) : Fld := ⟨R.sliceErr i, 22, 3⟩
def F.sliceErrCeCount (i : Nat) : Fld := ⟨R.sliceErr i, 32, 16⟩
def F.sliceEscStepsC (i : Nat) : Fld := ⟨R.sliceEsc i, 0, 48⟩
def F.sliceEtabState (i n : Nat) : Fld := ⟨R.sliceEtab i n, 0, 2⟩
def F.sliceEtabLocal (i n : Nat) : Fld := ⟨R.sliceEtab i n, 2, 1⟩
def F.sliceEtabUnprot (i n : Nat) : Fld := ⟨R.sliceEtab i n, 3, 1⟩
def F.sliceEtabModuleId (i n : Nat) : Fld := ⟨R.sliceEtab i n, 4, 14⟩
def F.sliceEtabLines (i n : Nat) : Fld := ⟨R.sliceEtab i n, 18, 14⟩
def F.sliceEtabEpoch (i n : Nat) : Fld := ⟨R.sliceEtab i n, 32, 32⟩
def F.deckBondScanEnable (i : Nat) : Fld := ⟨R.deckBondScan i, 0, 1⟩
def F.deckBondScanStart (i : Nat) : Fld := ⟨R.deckBondScan i, 1, 1⟩
def F.deckBondScanBusy (i : Nat) : Fld := ⟨R.deckBondScan i, 2, 1⟩
def F.deckBondScanPeriodH (i : Nat) : Fld := ⟨R.deckBondScan i, 3, 9⟩
def F.deckBondScanBudgetLog2 (i : Nat) : Fld := ⟨R.deckBondScan i, 12, 4⟩
def F.deckBondLogValid (i : Nat) : Fld := ⟨R.deckBondLog i, 0, 1⟩
def F.deckBondLogMulti (i : Nat) : Fld := ⟨R.deckBondLog i, 1, 1⟩
def F.deckBondLogKind (i : Nat) : Fld := ⟨R.deckBondLog i, 2, 2⟩
def F.deckBondLogUnit (i : Nat) : Fld := ⟨R.deckBondLog i, 4, 8⟩
def F.deckBondLogGroup (i : Nat) : Fld := ⟨R.deckBondLog i, 12, 8⟩
def F.deckBondLogBond (i : Nat) : Fld := ⟨R.deckBondLog i, 20, 5⟩
def F.deckBondLogAction (i : Nat) : Fld := ⟨R.deckBondLog i, 25, 3⟩
def F.deckBondLogSource (i : Nat) : Fld := ⟨R.deckBondLog i, 28, 1⟩
def F.deckBondLogEpoch (i : Nat) : Fld := ⟨R.deckBondLog i, 32, 32⟩
def F.deckLinkErrUeValid (i : Nat) : Fld := ⟨R.deckLinkErr i, 0, 1⟩
def F.deckLinkErrUeMulti (i : Nat) : Fld := ⟨R.deckLinkErr i, 1, 1⟩
def F.deckLinkErrPath (i : Nat) : Fld := ⟨R.deckLinkErr i, 2, 2⟩
def F.deckLinkErrWhat (i : Nat) : Fld := ⟨R.deckLinkErr i, 4, 2⟩
def F.deckLinkErrUnit (i : Nat) : Fld := ⟨R.deckLinkErr i, 6, 8⟩
def F.deckLinkErrRow (i : Nat) : Fld := ⟨R.deckLinkErr i, 14, 6⟩
def F.deckLinkErrCol (i : Nat) : Fld := ⟨R.deckLinkErr i, 20, 7⟩
def F.deckLinkErrEpoch (i : Nat) : Fld := ⟨R.deckLinkErr i, 32, 32⟩
def F.deckMapStatCrcOk (i : Nat) : Fld := ⟨R.deckMapStat i, 0, 3⟩
def F.deckMapStatDiffer (i : Nat) : Fld := ⟨R.deckMapStat i, 3, 1⟩
def F.deckShaftStatDownState (i n : Nat) : Fld := ⟨R.deckShaftStat i n, 0, 2⟩
def F.deckShaftStatUpState (i n : Nat) : Fld := ⟨R.deckShaftStat i n, 2, 2⟩
def F.deckShaftStatHasGuest (i n : Nat) : Fld := ⟨R.deckShaftStat i n, 4, 1⟩
def F.deckShaftStatPartner (i n : Nat) : Fld := ⟨R.deckShaftStat i n, 5, 8⟩
def F.deckShaftStatSparesUsed (i n : Nat) : Fld := ⟨R.deckShaftStat i n, 13, 8⟩
def F.deckShaftStatRepairPending (i n : Nat) : Fld := ⟨R.deckShaftStat i n, 21, 1⟩
def F.deckShaftStatCeCount (i n : Nat) : Fld := ⟨R.deckShaftStat i n, 32, 16⟩
def F.portCfgLifeUs (i : Nat) : Fld := ⟨R.portCfg i, 0, 10⟩
def F.portSelfModuleId (i : Nat) : Fld := ⟨R.portSelf i, 0, 14⟩
def F.portSelfValid (i : Nat) : Fld := ⟨R.portSelf i, 14, 1⟩
def F.portSelfFloor (i : Nat) : Fld := ⟨R.portSelf i, 15, 3⟩
def F.portSelfPopulated (i : Nat) : Fld := ⟨R.portSelf i, 18, 1⟩
def F.portMapStatCrcOk (i : Nat) : Fld := ⟨R.portMapStat i, 0, 3⟩
def F.portMapStatDiffer (i : Nat) : Fld := ⟨R.portMapStat i, 3, 1⟩
def F.portRouteE0 (i n : Nat) : Fld := ⟨R.portRoute i n, 0, 14⟩
def F.portRouteS0 (i n : Nat) : Fld := ⟨R.portRoute i n, 14, 2⟩
def F.portRouteE1 (i n : Nat) : Fld := ⟨R.portRoute i n, 16, 14⟩
def F.portRouteS1 (i n : Nat) : Fld := ⟨R.portRoute i n, 30, 2⟩
def F.portRouteE2 (i n : Nat) : Fld := ⟨R.portRoute i n, 32, 14⟩
def F.portRouteS2 (i n : Nat) : Fld := ⟨R.portRoute i n, 46, 2⟩
def F.portRouteE3 (i n : Nat) : Fld := ⟨R.portRoute i n, 48, 14⟩
def F.portRouteS3 (i n : Nat) : Fld := ⟨R.portRoute i n, 62, 2⟩
def F.floorDbgDeadTrap (i : Nat) : Fld := ⟨R.floorDbg i, 0, 1⟩
def F.floorScrubPeriodMin (i : Nat) : Fld := ⟨R.floorScrub i, 0, 8⟩
def F.floorScrubEnable (i : Nat) : Fld := ⟨R.floorScrub i, 8, 1⟩
def F.floorMapStatCrcOk (i : Nat) : Fld := ⟨R.floorMapStat i, 0, 3⟩
def F.floorMapStatDiffer (i : Nat) : Fld := ⟨R.floorMapStat i, 3, 1⟩
def F.floorEpochCfgQuota (i : Nat) : Fld := ⟨R.floorEpochCfg i, 0, 4⟩
def F.floorEpochStatValid (i : Nat) : Fld := ⟨R.floorEpochStat i, 0, 1⟩
def F.floorEpochStatMulti (i : Nat) : Fld := ⟨R.floorEpochStat i, 1, 1⟩
def F.floorEpochStatKind (i : Nat) : Fld := ⟨R.floorEpochStat i, 2, 2⟩
def F.floorEpochStatSlice (i : Nat) : Fld := ⟨R.floorEpochStat i, 4, 6⟩
def F.floorEpochStatSrcModule (i : Nat) : Fld := ⟨R.floorEpochStat i, 10, 14⟩
def F.floorEpochStatSrcEpoch (i : Nat) : Fld := ⟨R.floorEpochStat i, 32, 32⟩
def F.floorTwinLogValid (i : Nat) : Fld := ⟨R.floorTwinLog i, 0, 1⟩
def F.floorTwinLogMulti (i : Nat) : Fld := ⟨R.floorTwinLog i, 1, 1⟩
def F.floorTwinLogKind (i : Nat) : Fld := ⟨R.floorTwinLog i, 2, 2⟩
def F.floorTwinLogSlice (i : Nat) : Fld := ⟨R.floorTwinLog i, 4, 6⟩
def F.floorTwinLogLine (i : Nat) : Fld := ⟨R.floorTwinLog i, 10, 21⟩
def F.floorTwinLogSector (i : Nat) : Fld := ⟨R.floorTwinLog i, 31, 3⟩
def F.floorTwinLogWinner (i : Nat) : Fld := ⟨R.floorTwinLog i, 34, 1⟩
def F.floorTwinEpEpochA (i : Nat) : Fld := ⟨R.floorTwinEp i, 0, 32⟩
def F.floorTwinEpEpochB (i : Nat) : Fld := ⟨R.floorTwinEp i, 32, 32⟩
def F.floorSplitStatUsed (i : Nat) : Fld := ⟨R.floorSplitStat i, 0, 7⟩
def F.floorSplitStatOverflow (i : Nat) : Fld := ⟨R.floorSplitStat i, 7, 1⟩
def F.floorHashKind (i n : Nat) : Fld := ⟨R.floorHash i n, 0, 2⟩
def F.floorHashNearFloor (i n : Nat) : Fld := ⟨R.floorHash i n, 2, 3⟩
def F.floorHashChanBase (i n : Nat) : Fld := ⟨R.floorHash i n, 8, 12⟩
def F.floorTwinTwin (i n : Nat) : Fld := ⟨R.floorTwin i n, 0, 1⟩
def F.floorTwinMirror (i n : Nat) : Fld := ⟨R.floorTwin i n, 1, 10⟩
def F.floorPermRightI (i n : Nat) : Fld := ⟨R.floorPerm i n, 0, 64⟩
def F.tileCtrlRun (i : Nat) : Fld := ⟨R.tileCtrl i, 0, 1⟩
def F.tileCtrlReset (i : Nat) : Fld := ⟨R.tileCtrl i, 1, 1⟩
def F.tileCtrlEntry (i : Nat) : Fld := ⟨R.tileCtrl i, 4, 14⟩
def F.tileStatState (i : Nat) : Fld := ⟨R.tileStat i, 0, 2⟩
def F.tileStatSbUsed (i : Nat) : Fld := ⟨R.tileStat i, 2, 5⟩
def F.tileStatFe0Busy (i : Nat) : Fld := ⟨R.tileStat i, 7, 1⟩
def F.tileStatFe1Busy (i : Nat) : Fld := ⟨R.tileStat i, 8, 1⟩
def F.tileStatLoopLvl (i : Nat) : Fld := ⟨R.tileStat i, 9, 1⟩
def F.tileStatPc (i : Nat) : Fld := ⟨R.tileStat i, 14, 14⟩
def F.tileFaultValid (i : Nat) : Fld := ⟨R.tileFault i, 0, 1⟩
def F.tileFaultMulti (i : Nat) : Fld := ⟨R.tileFault i, 1, 1⟩
def F.tileFaultCause (i : Nat) : Fld := ⟨R.tileFault i, 2, 5⟩
def F.tileFaultSlot (i : Nat) : Fld := ⟨R.tileFault i, 8, 3⟩
def F.tileFaultUnit (i : Nat) : Fld := ⟨R.tileFault i, 11, 2⟩
def F.tileFaultPc (i : Nat) : Fld := ⟨R.tileFault i, 14, 14⟩
def F.tileFaultEpoch (i : Nat) : Fld := ⟨R.tileFault i, 32, 32⟩
def F.tileFaultAddrAddr (i : Nat) : Fld := ⟨R.tileFaultAddr i, 0, 18⟩
def F.tileWdogLimitLog2 (i : Nat) : Fld := ⟨R.tileWdog i, 0, 5⟩
def F.tileIdX (i : Nat) : Fld := ⟨R.tileId i, 0, 8⟩
def F.tileIdY (i : Nat) : Fld := ⟨R.tileId i, 8, 8⟩
def F.tileIdWM1 (i : Nat) : Fld := ⟨R.tileId i, 16, 8⟩
def F.tileIdHM1 (i : Nat) : Fld := ⟨R.tileId i, 24, 8⟩
def F.tileIdTile (i : Nat) : Fld := ⟨R.tileId i, 32, 15⟩
def F.tileCyclesCycles (i : Nat) : Fld := ⟨R.tileCycles i, 0, 64⟩
def F.tileTallyTolRelShift (i : Nat) : Fld := ⟨R.tileTallyTol i, 0, 5⟩
def F.tileTallyTolFloorExp (i : Nat) : Fld := ⟨R.tileTallyTol i, 8, 8⟩
def F.tileTallyTolEnable (i : Nat) : Fld := ⟨R.tileTallyTol i, 16, 1⟩
def F.tileTallyLogValid (i : Nat) : Fld := ⟨R.tileTallyLog i, 0, 1⟩
def F.tileTallyLogMulti (i : Nat) : Fld := ⟨R.tileTallyLog i, 1, 1⟩
def F.tileTallyLogRow (i : Nat) : Fld := ⟨R.tileTallyLog i, 2, 3⟩
def F.tileTallyLogBlockM (i : Nat) : Fld := ⟨R.tileTallyLog i, 8, 8⟩
def F.tileTallyLogBlockN (i : Nat) : Fld := ⟨R.tileTallyLog i, 16, 8⟩
def F.tileTallyLogEpoch (i : Nat) : Fld := ⟨R.tileTallyLog i, 32, 32⟩
def F.tileMtxStatState (i : Nat) : Fld := ⟨R.tileMtxStat i, 0, 2⟩
def F.tileMtxStatQueued (i : Nat) : Fld := ⟨R.tileMtxStat i, 2, 1⟩
def F.tileMtxStatAccSet (i : Nat) : Fld := ⟨R.tileMtxStat i, 3, 1⟩
def F.tileMtxStatCurM (i : Nat) : Fld := ⟨R.tileMtxStat i, 8, 8⟩
def F.tileMtxStatCurN (i : Nat) : Fld := ⟨R.tileMtxStat i, 16, 8⟩
def F.tileFpCtrlCvtRound (i : Nat) : Fld := ⟨R.tileFpCtrl i, 0, 2⟩
def F.tileFpCtrlCvtSat (i : Nat) : Fld := ⟨R.tileFpCtrl i, 2, 1⟩
def F.tileFpFlagsAll (i : Nat) : Fld := ⟨R.tileFpFlags i, 0, 6⟩
def F.tileSrStateState (i : Nat) : Fld := ⟨R.tileSrState i, 0, 32⟩
def F.tileSpdPartKind (i n : Nat) : Fld := ⟨R.tileSpdPart i n, 0, 3⟩
def F.tileSpdPartBase (i n : Nat) : Fld := ⟨R.tileSpdPart i n, 8, 10⟩
def F.tileSpdPartLenM1 (i n : Nat) : Fld := ⟨R.tileSpdPart i n, 18, 10⟩
def F.tileSpdCtrlScrubEn (i : Nat) : Fld := ⟨R.tileSpdCtrl i, 0, 1⟩
def F.tileSpdCtrlConflClr (i : Nat) : Fld := ⟨R.tileSpdCtrl i, 1, 1⟩
def F.tileSpdCtrlNcInv (i : Nat) : Fld := ⟨R.tileSpdCtrl i, 2, 1⟩
def F.tileSpdClearBase (i : Nat) : Fld := ⟨R.tileSpdClear i, 0, 10⟩
def F.tileSpdClearLenM1 (i : Nat) : Fld := ⟨R.tileSpdClear i, 10, 10⟩
def F.tileSpdClearGo (i : Nat) : Fld := ⟨R.tileSpdClear i, 20, 1⟩
def F.tileSpdStatClearBusy (i : Nat) : Fld := ⟨R.tileSpdStat i, 0, 1⟩
def F.tileSpdStatClearRej (i : Nat) : Fld := ⟨R.tileSpdStat i, 1, 1⟩
def F.tileSpdStatGatherUsed (i : Nat) : Fld := ⟨R.tileSpdStat i, 2, 3⟩
def F.tileSpdErrCeValid (i : Nat) : Fld := ⟨R.tileSpdErr i, 0, 1⟩
def F.tileSpdErrUeValid (i : Nat) : Fld := ⟨R.tileSpdErr i, 1, 1⟩
def F.tileSpdErrUeMulti (i : Nat) : Fld := ⟨R.tileSpdErr i, 2, 1⟩
def F.tileSpdErrUeAddr (i : Nat) : Fld := ⟨R.tileSpdErr i, 8, 18⟩
def F.tileSpdErrUeSrc (i : Nat) : Fld := ⟨R.tileSpdErr i, 26, 3⟩
def F.tileSpdErrCeCount (i : Nat) : Fld := ⟨R.tileSpdErr i, 32, 16⟩
def F.tileWinState (i n : Nat) : Fld := ⟨R.tileWin i n, 0, 2⟩
def F.tileWinCmd (i n : Nat) : Fld := ⟨R.tileWin i n, 2, 2⟩
def F.tileWinOpDep (i n : Nat) : Fld := ⟨R.tileWin i n, 4, 1⟩
def F.tileWinOpSig (i n : Nat) : Fld := ⟨R.tileWin i n, 5, 1⟩
def F.tileWinGen (i n : Nat) : Fld := ⟨R.tileWin i n, 8, 8⟩
def F.tileWinBase (i n : Nat) : Fld := ⟨R.tileWin i n, 16, 10⟩
def F.tileWinLenM1 (i n : Nat) : Fld := ⟨R.tileWin i n, 26, 10⟩
def F.tileWinSrcLo (i n : Nat) : Fld := ⟨R.tileWin i n, 36, 14⟩
def F.tileWinSrcHi (i n : Nat) : Fld := ⟨R.tileWin i n, 50, 14⟩
def F.tileSpdConflCount (i n : Nat) : Fld := ⟨R.tileSpdConfl i n, 0, 32⟩
def F.tileFeStatState (i n : Nat) : Fld := ⟨R.tileFeStat i n, 0, 2⟩
def F.tileFeStatQueued (i n : Nat) : Fld := ⟨R.tileFeStat i n, 2, 1⟩
def F.tileFeStatCurDesc (i n : Nat) : Fld := ⟨R.tileFeStat i n, 8, 8⟩
def F.tileFeStatHead (i n : Nat) : Fld := ⟨R.tileFeStat i n, 16, 12⟩
def F.tileFeStatOutstanding (i n : Nat) : Fld := ⟨R.tileFeStat i n, 28, 7⟩
def F.tileFeLastRecord (i n : Nat) : Fld := ⟨R.tileFeLast i n, 0, 64⟩
def F.tileScentCtrlEnable (i : Nat) : Fld := ⟨R.tileScentCtrl i, 0, 1⟩
def F.tileScentCtrlClear (i : Nat) : Fld := ⟨R.tileScentCtrl i, 1, 1⟩
def F.tileScentStatSlotValid (i : Nat) : Fld := ⟨R.tileScentStat i, 0, 8⟩

/-- The registers of KEEP: KEEP_FAULT_STAT R525, KEEP_LOG_STAT R526, KEEP_WDOG R527, KEEP_MEM_ERR R528, KEEP_PASS_STAT R316, KEEP_COLLAR_CFG R370, KEEP_LEASH_SHORT R371, KEEP_BARK_LINK R372, KEEP_BARK_PACK R373, KEEP_LAT_TGT R374, KEEP_LEASH R375. -/
def regsKeep : List RegDef := [
  ⟨0x0, 1, 0x2000, 0x200, 0x0, 1, 32, 0x0, 0x0, 0x0⟩,
  ⟨0x0, 1, 0x2000, 0x208, 0x0, 1, 64, 0x0, 0x0, 0x0⟩,
  ⟨0x0, 1, 0x2000, 0x210, 0x0, 1, 32, 0xff, 0x0, 0x64⟩,
  ⟨0x0, 1, 0x2000, 0x218, 0x0, 1, 64, 0x0, 0x3, 0x0⟩,
  ⟨0x0, 1, 0x2000, 0x300, 0x0, 1, 64, 0x0, 0x0, 0x0⟩,
  ⟨0x0, 1, 0x2000, 0x400, 0x0, 1, 32, 0x3f, 0x0, 0x38⟩,
  ⟨0x0, 1, 0x2000, 0x408, 0x0, 1, 64, 0x0, 0x3, 0x0⟩,
  ⟨0x0, 1, 0x2000, 0x410, 0x8, 2, 64, 0x0, 0x0, 0x0⟩,
  ⟨0x0, 1, 0x2000, 0x420, 0x0, 1, 32, 0x0, 0x0, 0x0⟩,
  ⟨0x0, 1, 0x2000, 0x800, 0x8, 2, 32, 0x0, 0x0, 0x0⟩,
  ⟨0x0, 1, 0x2000, 0x810, 0x8, 14, 32, 0xffffffff, 0x0, 0x0⟩,
  ⟨0x0, 1, 0x2000, 0x1000, 0x8, 16, 32, 0x0, 0x0, 0x0⟩,
  ⟨0x1080, 14, 0x40, 0x0, 0x8, 5, 32, 0x1fffff, 0x0, 0x0⟩,
  ⟨0x1080, 14, 0x40, 0x28, 0x8, 3, 32, 0x0, 0x0, 0x0⟩]

/-- The registers of CMDQ: CMDQ_SQ_BASE R486, CMDQ_CQ_BASE R486, CMDQ_QCFG R487, CMDQ_SQ_TAIL R488, CMDQ_CQ_HEAD R488, CMDQ_EVT_CFG R489, CMDQ_EVT_LOST R490. -/
def regsCmdq : List RegDef := [
  ⟨0x2000, 1, 0x1000, 0x0, 0x40, 16, 64, 0xfffffffffffff000, 0x0, 0x0⟩,
  ⟨0x2000, 1, 0x1000, 0x8, 0x40, 16, 64, 0xfffffffffffff000, 0x0, 0x0⟩,
  ⟨0x2000, 1, 0x1000, 0x10, 0x40, 16, 32, 0x7ff, 0x1000, 0x8⟩,
  ⟨0x2000, 1, 0x1000, 0x18, 0x40, 16, 32, 0xfff, 0x0, 0x0⟩,
  ⟨0x2000, 1, 0x1000, 0x20, 0x40, 16, 32, 0xfff, 0x0, 0x0⟩,
  ⟨0x2000, 1, 0x1000, 0x400, 0x0, 1, 32, 0x3f, 0x0, 0x0⟩,
  ⟨0x2000, 1, 0x1000, 0x408, 0x0, 1, 32, 0x0, 0xffff, 0x0⟩]

/-- The registers of HOSTW: HOSTW_EXCH R491, HOSTW_VIOL R493, HOSTW_ERR R494, HOSTW_SEG_DIR R492. -/
def regsHostw : List RegDef := [
  ⟨0x3000, 1, 0x2000, 0x0, 0x0, 1, 64, 0x0, 0x0, 0x0⟩,
  ⟨0x3000, 1, 0x2000, 0x8, 0x0, 1, 64, 0x0, 0x3, 0x0⟩,
  ⟨0x3000, 1, 0x2000, 0x10, 0x0, 1, 64, 0x0, 0x3, 0x0⟩,
  ⟨0x3000, 1, 0x2000, 0x1000, 0x8, 256, 64, 0x0, 0x0, 0x0⟩]

/-- The registers of BOOT: BOOT_STEP R549, BOOT_STATUS R550, BOOT_WARN R551, BOOT_DISC_0 R552, BOOT_DISC_1 R552, BOOT_DEFECT R553, BOOT_PART R554. -/
def regsBoot : List RegDef := [
  ⟨0x5000, 1, 0x100, 0x0, 0x0, 1, 32, 0x3fff0f, 0x0, 0x0⟩,
  ⟨0x5000, 1, 0x100, 0x8, 0x0, 1, 32, 0x0, 0x0, 0x0⟩,
  ⟨0x5000, 1, 0x100, 0x10, 0x0, 1, 32, 0x0, 0x3ff, 0x0⟩,
  ⟨0x5000, 1, 0x100, 0x18, 0x0, 1, 64, 0x0, 0x0, 0x0⟩,
  ⟨0x5000, 1, 0x100, 0x20, 0x0, 1, 32, 0x0, 0x0, 0x0⟩,
  ⟨0x5000, 1, 0x100, 0x28, 0x0, 1, 64, 0x0, 0x0, 0x0⟩,
  ⟨0x5000, 1, 0x100, 0x30, 0x0, 1, 32, 0x0, 0x0, 0x0⟩]

/-- The registers of FUSE: FUSE_STAT R555. -/
def regsFuse : List RegDef := [
  ⟨0x5100, 1, 0x100, 0x0, 0x0, 1, 32, 0x0, 0x0, 0x0⟩]

/-- The registers of TEST: TEST_STAT R556. -/
def regsTest : List RegDef := [
  ⟨0x5200, 1, 0x100, 0x0, 0x0, 1, 64, 0x0, 0x0, 0x0⟩]

/-- The registers of TIME: TIME_NOW R634, TIME_CFG R635, TIME_STAT R636, TIME_OFFSET R637, TIME_ADJ R638, TIME_PPS_IN R639, TIME_GM R640. -/
def regsTime : List RegDef := [
  ⟨0x5300, 1, 0x100, 0x0, 0x0, 1, 64, 0x0, 0x0, 0x0⟩,
  ⟨0x5300, 1, 0x100, 0x8, 0x0, 1, 32, 0x3ff, 0x0, 0x0⟩,
  ⟨0x5300, 1, 0x100, 0x10, 0x0, 1, 64, 0x0, 0x0, 0x0⟩,
  ⟨0x5300, 1, 0x100, 0x18, 0x0, 1, 64, 0x0, 0x0, 0x0⟩,
  ⟨0x5300, 1, 0x100, 0x20, 0x0, 1, 32, 0xffffffff, 0x0, 0x0⟩,
  ⟨0x5300, 1, 0x100, 0x28, 0x0, 1, 64, 0x0, 0x0, 0x0⟩,
  ⟨0x5300, 1, 0x100, 0x30, 0x0, 1, 64, 0x0, 0x0, 0x0⟩]

/-- The registers of ATTS: ATTS_FW_STAT R660, ATTS_FW_VER R661, ATTS_ID_STAT R662, ATTS_SPDM_STAT R663. -/
def regsAtts : List RegDef := [
  ⟨0x5400, 1, 0x100, 0x0, 0x0, 1, 64, 0x0, 0x0, 0x0⟩,
  ⟨0x5400, 1, 0x100, 0x8, 0x0, 1, 64, 0x0, 0x0, 0x0⟩,
  ⟨0x5400, 1, 0x100, 0x10, 0x0, 1, 32, 0x0, 0x0, 0x0⟩,
  ⟨0x5400, 1, 0x100, 0x18, 0x0, 1, 64, 0x0, 0x0, 0x0⟩]

/-- The registers of KENL: KENL_RANGE R282, KENL_CTRL R283. -/
def regsKenl : List RegDef := [
  ⟨0x6000, 1, 0x400, 0x0, 0x10, 64, 64, 0x3fffffffffffff, 0x0, 0x0⟩,
  ⟨0x6000, 1, 0x400, 0x8, 0x10, 64, 32, 0xff, 0x0, 0x102⟩]

/-- The registers of REGL: REGL_STAT R592. -/
def regsRegl : List RegDef := [
  ⟨0x6400, 1, 0x400, 0x0, 0x8, 97, 32, 0x0, 0x0, 0xf⟩]

/-- The registers of PACK: PACK_CFG R452, PACK_TREE_CTRL R453, PACK_TREE_KIDS_0 R454, PACK_TREE_KIDS_1 R454, PACK_TREE_MBOX R455, PACK_TREE_STAT R456, PACK_SNAP_STAT R457, PACK_SNAP_ID R458. -/
def regsPack : List RegDef := [
  ⟨0x7000, 1, 0x1000, 0x0, 0x0, 1, 32, 0x1ffff, 0x0, 0x103e8⟩,
  ⟨0x7000, 1, 0x1000, 0x100, 0x40, 16, 32, 0x187ffff, 0x0, 0x0⟩,
  ⟨0x7000, 1, 0x1000, 0x108, 0x40, 16, 64, 0x7fff7fff7fff7fff, 0x0, 0x0⟩,
  ⟨0x7000, 1, 0x1000, 0x110, 0x40, 16, 64, 0x7fff7fff7fff7fff, 0x0, 0x0⟩,
  ⟨0x7000, 1, 0x1000, 0x118, 0x40, 16, 64, 0xfffffffffc01, 0x0, 0x0⟩,
  ⟨0x7000, 1, 0x1000, 0x120, 0x40, 16, 64, 0x0, 0x0, 0x0⟩,
  ⟨0x7000, 1, 0x1000, 0x800, 0x10, 2, 64, 0x0, 0x0, 0x0⟩,
  ⟨0x7000, 1, 0x1000, 0x808, 0x10, 2, 64, 0x0, 0x0, 0x0⟩]

/-- The registers of PWRM: PWRM_STAT R580, PWRM_CAP R581, PWRM_ACCT R582, PWRM_OPP R583, PWRM_WAKE_TOL R584, PWRM_GUARD R585, PWRM_CONV_STAT R586, PWRM_BAY_CFG R587, PWRM_PHASE_STAT R588, PWRM_BAY R589, PWRM_BOND R590, PWRM_CUR R591. -/
def regsPwrm : List RegDef := [
  ⟨0x8000, 1, 0x2000, 0x0, 0x0, 1, 64, 0x0, 0x2, 0xff00⟩,
  ⟨0x8000, 1, 0x2000, 0x8, 0x0, 1, 64, 0x7fff, 0x0, 0xfa00fa00fa0⟩,
  ⟨0x8000, 1, 0x2000, 0x10, 0x0, 1, 64, 0x0, 0x0, 0x10000000000⟩,
  ⟨0x8000, 1, 0x2000, 0x18, 0x0, 1, 32, 0x0, 0x0, 0xffff⟩,
  ⟨0x8000, 1, 0x2000, 0x20, 0x0, 1, 64, 0xffffffff, 0x0, 0x100000001⟩,
  ⟨0x8000, 1, 0x2000, 0x28, 0x0, 1, 32, 0x0, 0x0, 0x1f412c0⟩,
  ⟨0x8000, 1, 0x2000, 0x30, 0x0, 1, 64, 0x0, 0x0, 0x0⟩,
  ⟨0x8000, 1, 0x2000, 0x38, 0x0, 1, 32, 0x3ff, 0x0, 0xc8⟩,
  ⟨0x8000, 1, 0x2000, 0x100, 0x8, 24, 32, 0x0, 0x0, 0x0⟩,
  ⟨0x8000, 1, 0x2000, 0x200, 0x8, 8, 64, 0x0, 0x0, 0xfffff⟩,
  ⟨0x8000, 1, 0x2000, 0x300, 0x8, 8, 32, 0x0, 0xffffffff, 0x0⟩,
  ⟨0x8000, 1, 0x2000, 0x1000, 0x8, 148, 64, 0x0, 0x0, 0x0⟩]

/-- The registers of THRM: THRM_CFG R608, THRM_STAT R609, THRM_UNIT R610, THRM_EXCL R611, THRM_FCAL R612, THRM_TRIP R613. -/
def regsThrm : List RegDef := [
  ⟨0xa000, 1, 0x1000, 0x0, 0x0, 1, 32, 0x7ff, 0x0, 0xfa⟩,
  ⟨0xa000, 1, 0x1000, 0x8, 0x0, 1, 64, 0x0, 0x0, 0x0⟩,
  ⟨0xa000, 1, 0x1000, 0x100, 0x8, 88, 64, 0x0, 0x0, 0x0⟩,
  ⟨0xa000, 1, 0x1000, 0x400, 0x8, 24, 64, 0x0, 0x0, 0x0⟩,
  ⟨0xa000, 1, 0x1000, 0x500, 0x8, 8, 32, 0xffffff, 0x0, 0x321050⟩,
  ⟨0xa000, 1, 0x1000, 0x600, 0x0, 1, 64, 0x0, 0x1, 0x0⟩]

/-- The registers of WIN: WIN_CTRL R423, WIN_LEN R424, WIN_DB_LAST R425. -/
def regsWin : List RegDef := [
  ⟨0x10000, 1, 0x8000, 0x0, 0x10, 1024, 64, 0x7fffffffffff00f0, 0x0, 0x0⟩,
  ⟨0x10000, 1, 0x8000, 0x8, 0x10, 1024, 64, 0xfffffffffffffff, 0x0, 0x0⟩,
  ⟨0x10000, 1, 0x8000, 0x4000, 0x0, 1, 32, 0x0, 0x3, 0x0⟩]

/-- The registers of HBMC: HBMC_CFG R341, HBMC_TEMP R342, HBMC_TCAL R343, HBMC_SCRUB R344, HBMC_CH_STAT R345, HBMC_CH_ERR R346, HBMC_CH_ESC R377. -/
def regsHbmc : List RegDef := [
  ⟨0x18000, 32, 0x400, 0x0, 0x0, 1, 32, 0x4c, 0x0, 0x4f⟩,
  ⟨0x18000, 32, 0x400, 0x8, 0x0, 1, 32, 0x0, 0x0, 0x0⟩,
  ⟨0x18000, 32, 0x400, 0x10, 0x0, 1, 32, 0x3ff, 0x0, 0x23⟩,
  ⟨0x18000, 32, 0x400, 0x18, 0x0, 1, 32, 0x3ff, 0x0, 0x231⟩,
  ⟨0x18000, 32, 0x400, 0x100, 0x8, 16, 64, 0x0, 0x0, 0x0⟩,
  ⟨0x18000, 32, 0x400, 0x200, 0x8, 16, 64, 0x0, 0x3, 0x0⟩,
  ⟨0x18000, 32, 0x400, 0x300, 0x8, 16, 64, 0x0, 0x0, 0x0⟩]

/-- The registers of LINK: LINK_CTRL R419, LINK_STAT R420, LINK_ERR R421, LINK_ERRCNT R422. -/
def regsLink : List RegDef := [
  ⟨0x20000, 64, 0x200, 0x0, 0x0, 1, 32, 0x3fd, 0x0, 0x89⟩,
  ⟨0x20000, 64, 0x200, 0x8, 0x0, 1, 64, 0x0, 0x0, 0x0⟩,
  ⟨0x20000, 64, 0x200, 0x10, 0x0, 1, 64, 0x0, 0x3, 0x0⟩,
  ⟨0x20000, 64, 0x200, 0x18, 0x0, 1, 64, 0x0, 0x0, 0x0⟩]

/-- The registers of SLICE: SLICE_CFG R279, SLICE_STAT R280, SLICE_ERR R281, SLICE_ESC R376, SLICE_ETAB R315. -/
def regsSlice : List RegDef := [
  ⟨0x80000, 512, 0x400, 0x0, 0x0, 1, 32, 0x3ff, 0x0, 0x210⟩,
  ⟨0x80000, 512, 0x400, 0x8, 0x0, 1, 32, 0x0, 0x0, 0x0⟩,
  ⟨0x80000, 512, 0x400, 0x10, 0x0, 1, 64, 0x0, 0x7, 0x0⟩,
  ⟨0x80000, 512, 0x400, 0x18, 0x0, 1, 64, 0x0, 0x0, 0x0⟩,
  ⟨0x80000, 512, 0x400, 0x108, 0x8, 15, 64, 0x0, 0x0, 0x0⟩]

/-- The registers of DECK: DECK_BOND_SCAN R238, DECK_BOND_LOG R239, DECK_LINK_ERR R240, DECK_MAP_STAT R529, DECK_SHAFT_STAT R241. -/
def regsDeck : List RegDef := [
  ⟨0x100000, 8, 0x20000, 0x0, 0x0, 1, 32, 0xfff9, 0x0, 0xa0c1⟩,
  ⟨0x100000, 8, 0x20000, 0x8, 0x0, 1, 64, 0x0, 0x3, 0x0⟩,
  ⟨0x100000, 8, 0x20000, 0x10, 0x0, 1, 64, 0x0, 0x3, 0x0⟩,
  ⟨0x100000, 8, 0x20000, 0x18, 0x0, 1, 32, 0x0, 0x8, 0x7⟩,
  ⟨0x100000, 8, 0x20000, 0x10000, 0x10, 160, 64, 0x0, 0x0, 0x0⟩]

/-- The registers of PORT: PORT_CFG R415, PORT_SELF R416, PORT_MAP_STAT R417, PORT_ROUTE R418. -/
def regsPort : List RegDef := [
  ⟨0x200000, 8, 0x20000, 0x0, 0x0, 1, 32, 0x3ff, 0x0, 0x1f4⟩,
  ⟨0x200000, 8, 0x20000, 0x8, 0x0, 1, 32, 0x7fff, 0x0, 0x0⟩,
  ⟨0x200000, 8, 0x20000, 0x10, 0x0, 1, 32, 0x0, 0x8, 0x7⟩,
  ⟨0x200000, 8, 0x20000, 0x10000, 0x8, 4096, 64, 0x3fff3fff3fff3fff, 0x0, 0x0⟩]

/-- The registers of FLOOR: FLOOR_DBG R274, FLOOR_SCRUB R275, FLOOR_MAP_STAT R276, FLOOR_EPOCH_CFG R313, FLOOR_EPOCH_STAT R314, FLOOR_TWIN_LOG R347, FLOOR_TWIN_EP R348, FLOOR_SPLIT_STAT R349, FLOOR_HASH R277, FLOOR_TWIN R350, FLOOR_PERM R278. -/
def regsFloor : List RegDef := [
  ⟨0x400000, 8, 0x100000, 0x0, 0x0, 1, 32, 0x1, 0x0, 0x0⟩,
  ⟨0x400000, 8, 0x100000, 0x8, 0x0, 1, 32, 0x1ff, 0x0, 0x13c⟩,
  ⟨0x400000, 8, 0x100000, 0x10, 0x0, 1, 32, 0x0, 0x8, 0x7⟩,
  ⟨0x400000, 8, 0x100000, 0x18, 0x0, 1, 32, 0xf, 0x0, 0x4⟩,
  ⟨0x400000, 8, 0x100000, 0x20, 0x0, 1, 64, 0x0, 0x3, 0x0⟩,
  ⟨0x400000, 8, 0x100000, 0x28, 0x0, 1, 64, 0x0, 0x3, 0x0⟩,
  ⟨0x400000, 8, 0x100000, 0x30, 0x0, 1, 64, 0x0, 0x0, 0x0⟩,
  ⟨0x400000, 8, 0x100000, 0x38, 0x0, 1, 32, 0x0, 0x80, 0x0⟩,
  ⟨0x400000, 8, 0x100000, 0x10000, 0x8, 768, 64, 0xfff1f, 0x0, 0x0⟩,
  ⟨0x400000, 8, 0x100000, 0x30000, 0x8, 768, 64, 0x7ff, 0x0, 0x0⟩,
  ⟨0x400000, 8, 0x100000, 0xa0000, 0x8, 18624, 64, 0xffffffffffffffff, 0x0, 0x0⟩]

/-- The registers of TILE: TILE_CTRL R131, TILE_STAT R132, TILE_FAULT R133, TILE_FAULT_ADDR R134, TILE_WDOG R135, TILE_ID R136, TILE_CYCLES R137, TILE_TALLY_TOL R73, TILE_TALLY_LOG R74, TILE_MTX_STAT R75, TILE_FP_CTRL R101, TILE_FP_FLAGS R102, TILE_SR_STATE R103, TILE_SPD_PART R176, TILE_SPD_CTRL R177, TILE_SPD_CLEAR R178, TILE_SPD_STAT R179, TILE_SPD_ERR R180, TILE_WIN R181, TILE_SPD_CONFL R182, TILE_FE_STAT R213, TILE_FE_LAST R214, TILE_SCENT_CTRL R215, TILE_SCENT_STAT R216. -/
def regsTile : List RegDef := [
  ⟨0xc00000, 25600, 0x800, 0x0, 0x0, 1, 32, 0x3fff1, 0x0, 0x0⟩,
  ⟨0xc00000, 25600, 0x800, 0x8, 0x0, 1, 32, 0x0, 0x0, 0x0⟩,
  ⟨0xc00000, 25600, 0x800, 0x10, 0x0, 1, 64, 0x0, 0x3, 0x0⟩,
  ⟨0xc00000, 25600, 0x800, 0x18, 0x0, 1, 32, 0x0, 0x0, 0x0⟩,
  ⟨0xc00000, 25600, 0x800, 0x20, 0x0, 1, 32, 0x1f, 0x0, 0x16⟩,
  ⟨0xc00000, 25600, 0x800, 0x28, 0x0, 1, 64, 0x0, 0x0, 0x0⟩,
  ⟨0xc00000, 25600, 0x800, 0x30, 0x0, 1, 64, 0x0, 0x0, 0x0⟩,
  ⟨0xc00000, 25600, 0x800, 0x100, 0x0, 1, 32, 0x1ff1f, 0x0, 0x1000a⟩,
  ⟨0xc00000, 25600, 0x800, 0x108, 0x0, 1, 64, 0x0, 0x3, 0x0⟩,
  ⟨0xc00000, 25600, 0x800, 0x110, 0x0, 1, 32, 0x0, 0x0, 0x0⟩,
  ⟨0xc00000, 25600, 0x800, 0x120, 0x0, 1, 32, 0x7, 0x0, 0x4⟩,
  ⟨0xc00000, 25600, 0x800, 0x128, 0x0, 1, 32, 0x0, 0x3f, 0x0⟩,
  ⟨0xc00000, 25600, 0x800, 0x130, 0x0, 1, 32, 0xffffffff, 0x0, 0x9e3779b9⟩,
  ⟨0xc00000, 25600, 0x800, 0x200, 0x8, 8, 64, 0xfffff07, 0x0, 0x0⟩,
  ⟨0xc00000, 25600, 0x800, 0x240, 0x0, 1, 32, 0x1, 0x0, 0x1⟩,
  ⟨0xc00000, 25600, 0x800, 0x248, 0x0, 1, 32, 0xfffff, 0x0, 0x0⟩,
  ⟨0xc00000, 25600, 0x800, 0x250, 0x0, 1, 32, 0x0, 0x2, 0x0⟩,
  ⟨0xc00000, 25600, 0x800, 0x258, 0x0, 1, 64, 0x0, 0x7, 0x0⟩,
  ⟨0xc00000, 25600, 0x800, 0x280, 0x8, 4, 64, 0xffffffffffff0030, 0x0, 0x0⟩,
  ⟨0xc00000, 25600, 0x800, 0x300, 0x8, 32, 32, 0x0, 0x0, 0x0⟩,
  ⟨0xc00000, 25600, 0x800, 0x400, 0x8, 2, 64, 0x0, 0x0, 0x0⟩,
  ⟨0xc00000, 25600, 0x800, 0x410, 0x8, 2, 64, 0x0, 0x0, 0x0⟩,
  ⟨0xc00000, 25600, 0x800, 0x420, 0x0, 1, 32, 0x1, 0x0, 0x1⟩,
  ⟨0xc00000, 25600, 0x800, 0x428, 0x0, 1, 32, 0x0, 0x0, 0x0⟩]

/-- Every register of R690 but the counters. -/
def regDefs : List RegDef :=
  regsKeep ++ regsCmdq ++ regsHostw ++ regsBoot ++ regsFuse ++ regsTest ++ regsTime ++ regsAtts ++ regsKenl ++ regsRegl ++ regsPack ++ regsPwrm ++ regsThrm ++ regsWin ++ regsHbmc ++ regsLink ++ regsSlice ++ regsDeck ++ regsPort ++ regsFloor ++ regsTile

/-- The offset `a` names a register of the family `d`. -/
def RegDef.covers (d : RegDef) (a : Nat) : Bool :=
  let first := d.base + d.off
  let last := first + d.stride * (d.insts - 1) + d.step * (d.count - 1)
  decide (first ≤ a) && decide (a ≤ last) &&
    (let r := (a - first) % (if d.insts ≤ 1 then last + 1 else d.stride)
     if d.count ≤ 1 then decide (r = 0) else decide (r % d.step = 0) && decide (r / d.step < d.count)
       && decide ((a - first) / (if d.insts ≤ 1 then last + 1 else d.stride) < d.insts))

/-- The register family at an offset; none where the offset holds no register. -/
def regDefAt (a : Nat) : Option RegDef := regDefs.find? (·.covers a)

/-- A port site's floor (R378). -/
def portFloor : Nat → Nat
  | 0 => 0 | 1 => 7 | 2 => 3 | 3 => 4 | 4 => 1 | 5 => 6 | 6 => 5 | _ => 2

/-- Bits that the build fixes: HBMC_CFG.populated (R317, R341), SLICE_STAT.populated and the mode 2 of an unpopulated slice (R317, R279,
R280), PORT_SELF.floor and populated (R378, R416), PWRM_PHASE_STAT.installed (R561, R588). -/
def buildBits (v : Variant) (a : Nat) : Nat :=
  if 0x18000 ≤ a ∧ a < 0x20000 ∧ (a - 0x18000) % 0x400 = 0 then
    (if (a - 0x18000) / 0x400 % 4 < v.stacksPerFloor then 0x10 else 0)
  else if 0x80000 ≤ a ∧ a < 0x100000 ∧ (a - 0x80000) % 0x400 = 0 then
    (if (a - 0x80000) / 0x400 % 64 < v.chansPerFloor then 0 else 2)
  else if 0x80000 ≤ a ∧ a < 0x100000 ∧ (a - 0x80000) % 0x400 = 8 then
    (if (a - 0x80000) / 0x400 % 64 < v.chansPerFloor then 0x4 else 2)
  else if 0x200000 ≤ a ∧ a < 0x300000 ∧ (a - 0x200000) % 0x20000 = 8 then
    (portFloor ((a - 0x200000) / 0x20000) * 0x8000) +
      (if (a - 0x200000) / 0x20000 < v.portDies then 0x40000 else 0)
  else if 0x8100 ≤ a ∧ a < 0x81C0 then (if a < 0x8140 then 11 else 2)
  else 0

/-- The reset value of the register at an offset; 0 where it holds none (R461). -/
def regReset (v : Variant) (a : Nat) : W64 :=
  match regDefAt a with
  | some d => BitVec.ofNat 64 (d.reset + buildBits v a)
  | none => 0

end Sys2Proof.Machine
end

