-- ==== Sys2Proof/Machine/State.lean ====
section
/-! DEFINITION. The state of the block: plain data holding every piece of state spec/ gives the module, and the state at reset.
Registers live in `State.regs` (Machine/RegMap.lean) unless a docstring here says where else. A `Table` lists only what differs
from the default its docstring names. -/

namespace Sys2Proof.Machine

/-- A byte on its way between memories, with the poison mark of the word it comes from (R174, R206). -/
structure PB where
  b : Byte
  p : Bool
deriving DecidableEq, Repr

/-! ## Tiles -/

/-- An active hardware loop level (R111): first and last bundle of the body, and iterations still to start. -/
structure LoopLvl where
  first : Nat
  last : Nat
  left : Nat
deriving DecidableEq, Repr

/-- A scoreboard entry (R117): range, access (1 read, 2 write, 3 both), owner (0 array, 1 and 2 engines), the serial number
of the sequence or chain that placed it, the range's role in a sequence (0 A, 1 B, 2 A scales, 3 B scales, 4 C; 0 read and 1
write extent of a chain), and the bundle that placed it. -/
structure SbEntry where
  base : Nat
  lenM1 : Nat
  acc : Nat
  owner : Nat
  serial : Nat
  role : Nat
  pc : Nat
deriving DecidableEq, Repr

/-- A gather-buffer entry (R147): word, byte mask, bytes, whether a byte came poisoned, the owner of its first byte (3 the
scalar or vector unit) and the serial number of the chain. -/
structure Gather where
  word : Nat
  mask : BitVec 8
  bytes : W64
  pois : Bool
  owner : Nat
  serial : Nat
deriving DecidableEq, Repr

/-- A near-cache tag (R159): line address divided by 128, and last-use order. -/
structure NearLine where
  line : Nat
  age : Nat
deriving DecidableEq, Repr

/-- A matrix sequence (R66): its descriptor as copied, serial number, the next block to start, and the bundle and launch. -/
structure Seq where
  desc : List W64
  serial : Nat
  mb : Nat
  nb : Nat
  pc : Nat
deriving DecidableEq, Repr

/-- A block whose rows have not all left (R57): its sequence's descriptor and serial, its place, the accumulator set, the
rows still to leave (the last to leave first in the list): each row's 16 results and tally value. -/
structure Block where
  desc : List W64
  serial : Nat
  mb : Nat
  nb : Nat
  set : Nat
  pc : Nat
  rows : List (List W32)
deriving DecidableEq, Repr

/-- The matrix array (R40 to R75): running and queued sequence, blocks not yet drained (oldest first), accumulator set and place
of the newest block, serial number of the next sequence, and whether the array is halted. -/
structure Mtx where
  running : Option Seq
  queued : Option Seq
  blocks : List Block
  set : Nat
  curM : Nat
  curN : Nat
  serial : Nat
  halted : Bool
deriving DecidableEq, Repr

/-- A descriptor begun and not complete (R198): index, its 64 bytes as words, source bytes received in walk order (for a
transform that needs them all), and whether a failure came back. -/
structure DescSt where
  idx : Nat
  words : List W64
  got : List (Nat × PB)
  failed : Bool
deriving DecidableEq, Repr

/-- A fetch chain (R183, R204): `halted` by a tile fault (R129), `stopped` by a discard (R308). -/
structure Chain where
  serial : Nat
  head : Nat
  nDesc : Nat
  hasRd : Bool
  hasWr : Bool
  rdBase : Nat
  rdLenM1 : Nat
  wrBase : Nat
  wrLenM1 : Nat
  cmplAddr : Nat
  cmplEn : Bool
  next : Nat
  descs : List DescSt
  status : Nat
  failDesc : Nat
  done : Nat
  poison : Bool
  mxNan : Bool
  sparseLoss : Bool
  halted : Bool
  stopped : Bool
  pc : Nat
deriving DecidableEq, Repr

/-- A fetch engine (R106): running and queued chains. -/
structure Engine where
  running : Option Chain
  queued : Option Chain
deriving DecidableEq, Repr

/-- A Scent slot (R207): the zero bits of the first 1,024 blocks of its last LOAD. -/
structure Scent where
  bits : List Bool
deriving DecidableEq, Repr

/-- The state of a tile outside its register page. `mem` holds the bytes of words that are not fresh, canonically over 0;
`live` lists the words whose fresh bit is clear, `poison` the words marked as poisoned; `gather` is oldest first; `ceWb` the
corrected words not yet written back (R172); `done` the slots of the bundle at `pc` that have issued; `movs` the VMOVS result
that lands when the bundle is complete; `vocc` an operation of occupancy 2 that still holds the vector unit (R705); `clocked` run
has been set since the last reset (R137); `headWords` the chain head that the bundle's START names, as read at its cycle of issue; `branch` the target a branch of the bundle takes; `ended` marks END issued;
`ueSeen` the scratchpad words that returned an uncorrectable error and the launch in which they did (R175). -/
structure TileSt where
  sregs : Table W32
  vregs : Table W32
  masks : Table W64
  pc : Nat
  loops : List LoopLvl
  done : Nat
  movs : Option (Nat × W32)
  headWords : Option (List W64)
  branch : Option Nat
  ended : Bool
  vocc : Bool
  clocked : Bool
  sb : List SbEntry
  cycHi : Option W32
  mem : List Host.Cell
  live : Table Bool
  poison : Table Bool
  gather : List Gather
  ceWb : List Nat
  near : Table NearLine
  nearAge : Nat
  mtx : Mtx
  fe0 : Engine
  fe1 : Engine
  serial : Nat
  scent : Table Scent
  ueSeen : List (Nat × Nat)
  reload : List Nat
deriving DecidableEq, Repr

/-- An idle array. -/
def Mtx.reset : Mtx := ⟨none, none, [], 0, 0, 0, 0, false⟩

/-- A tile with nothing running, every register 0 (R127) and every scratchpad word fresh (DESIGN CHOICE for power-on, log
entry 6; R542 and R153 for the resets the spec describes). -/
def TileSt.reset : TileSt :=
  { sregs := [], vregs := [], masks := [], pc := 0, loops := [], done := 0, movs := none, headWords := none, branch := none, ended := false,
    vocc := false, clocked := false, sb := [], cycHi := none, mem := [], live := [], poison := [], gather := [], ceWb := [], near := [], nearAge := 0,
    mtx := .reset, fe0 := ⟨none, none⟩, fe1 := ⟨none, none⟩, serial := 0, scent := [], ueSeen := [],
    reload := [] }

/-! ## Requests in flight -/

/-- Who made a request: a tile's engine, a port die's fetch engine, the Keeper, the host through BAR2, a peer's packet at a
port die. -/
inductive Source where
  | tile (t n : Nat)
  | port (p : Nat)
  | keeper
  | host
  | peer (m : Nat)
deriving DecidableEq, Repr

/-- What a request asks; a near-cache lookup that waits for its line is a `nearFill` at `waitFill`, and `remote` stands for a
packet whose RESP is awaited. -/
inductive ReqKind where
  | memRead
  | memWrite
  | memFold
  | probe
  | meshRead
  | meshWrite
  | nearFill
  | remote
deriving DecidableEq, Repr

/-- Where a request is: not sent yet, for want of a request index (R197) or of a near-cache fill (R160); on its way to its target, held there (a miss waiting for its fill, R259; a sector waiting for its
correction, R269), answered and on its way back, or lost with its packet (R225, R231). -/
inductive Stage where
  | unsent
  | toTarget
  | waitFill
  | waitCorr
  | reply
  | lost
deriving DecidableEq, Repr

/-- A piece of a request: offset in the descriptor's walk, offset from the request's address, bytes. -/
structure Seg where
  walk : Nat
  off : Nat
  len : Nat
deriving DecidableEq, Repr

/-- A request in flight. `tgt` is the slice or the tile it is for; `data` the bytes of its segments in order (to write, or as
read); `tag` the engine's request index (R197, R228), while it is outstanding; `mod` and `epoch` its epoch mark (R290); `status` the reply's status (R205); `zero` a probe's answer or "every byte
was zero"; `here` it waits at the input of its slice (R358); `down` it has come down its shaft or over the ring; `coll` its collision has been dealt with
(R298); `time` its entry into the queue (R364). -/
structure Req where
  id : Nat
  kind : ReqKind
  src : Source
  chain : Nat
  desc : Nat
  tgt : Nat
  addr : Nat
  segs : List Seg
  data : List PB
  collar : Nat
  tag : Nat
  mod : Nat
  epoch : Nat
  etype : Nat
  lastUse : Bool
  late : Bool
  stage : Stage
  status : Nat
  zero : Bool
  unprot : Bool
  here : Bool
  down : Bool
  coll : Bool
  time : Nat
deriving DecidableEq, Repr

/-! ## Floor slices and HBM -/

/-- A 256 B sector of a slice (R243, R255): metadata, its 32 words (an empty list stands for zeros), the words marked as
poisoned, the order of its drop mark, a last-use mark that waits for a commit (R264), and whether its line's metadata was lost, so
that it reads as poison until it is written whole (R256). -/
structure Sector where
  valid : Bool
  dirty : Bool
  fresh : Bool
  zero : Bool
  drop : Bool
  side : Bool
  etag : Nat
  twin : Nat
  words : List W64
  poison : List Nat
  mark : Nat
  pendDrop : Bool
  lost : Bool
deriving DecidableEq, Repr

/-- A sector with nothing in it. -/
def Sector.none_ : Sector := ⟨false, false, false, false, false, false, 0, 0, [], [], 0, false, false⟩

/-- What a way holds: nothing, a cache line, an explicit line, a side-line, an undo line (R256, R294, R295), a hold line, whose records lie in
`State.heldSigs` (R299). -/
inductive LineKind where
  | empty
  | cache
  | expl
  | side
  | undo
  | hold
deriving DecidableEq, Repr

/-- A line (R243, R256): channel-local line number (for an undo line or an explicit line, 2²¹ plus the way of the explicit line),
kennel window (64 none), recency stamp, the entry of a side-line or hold line and the Fold type of a side-line, and whether run-ahead filled
it and nothing has used it yet. -/
structure Line where
  kind : LineKind
  line : Nat
  kennel : Nat
  age : Int
  entry : Nat
  etype : Nat
  pf : Bool
  secs : List Sector
deriving DecidableEq, Repr

/-- An empty way. In an explicit way it stands for a fresh line (R252). -/
def Line.none_ : Line := ⟨.empty, 0, 64, 0, 0, 0, false, []⟩

/-- A merge-buffer entry (R266): set and line, sector, word, byte mask, bytes, poison. -/
structure MergeEnt where
  set : Nat
  line : Nat
  sector : Nat
  word : Nat
  mask : BitVec 8
  bytes : List Byte
  pois : Bool
deriving DecidableEq, Repr

/-- An outstanding fill (R259): line, sector, segment, whether it allocates, is run-ahead, or reads copy B, and the requests
that wait in arrival order; its start, collar, whether a narrow write needs it, and whether it waits at the channel's controller (R358). -/
structure Fill where
  line : Nat
  sector : Nat
  seg : Nat
  alloc : Bool
  pref : Bool
  reqs : List Nat
  time : Nat
  collar : Nat
  narrow : Bool
  here : Bool
deriving DecidableEq, Repr

/-- A Twin write-back in progress (R328): line, sector, segment, the words and marks that it writes, which copies are still to be
acknowledged, whether every word of a split sector has been written whole since (R331), its collar (R352) and its start. -/
structure TwinWb where
  line : Nat
  sector : Nat
  seg : Nat
  words : List W64
  poison : List Nat
  waitA : Bool
  waitB : Bool
  whole : Bool
  collar : Nat
  time : Nat
deriving DecidableEq, Repr

/-- A slice outside its registers: lines by `16 × set + way`, merge buffer (oldest first), fills, streams (newest demand miss and
last line fetched ahead, most recent first), dead table (oldest first), Twin write-backs, and the recency and mark counter. -/
structure SliceSt where
  lines : Table Line
  merge : List MergeEnt
  fills : List Fill
  streams : List (Nat × Nat)
  dead : List Nat
  wbs : List TwinWb
  stamp : Int
deriving DecidableEq, Repr

/-- An empty slice. -/
def SliceSt.reset : SliceSt := ⟨[], [], [], [], [], [], 0⟩

/-- A correction attributed to a DQ lane (R336) or an uncorrectable word (R338): channel, lane or word, time. -/
structure ChanHit where
  chan : Nat
  what : Nat
  time : Nat
deriving DecidableEq, Repr

/-- A split Twin sector (R331): floor, primary slice, line, sector. -/
structure Split where
  floor : Nat
  slice : Nat
  line : Nat
  sector : Nat
deriving DecidableEq, Repr

/-! ## Host interface -/

/-- A completion entry before it is written to its ring (R464): command or notice, its status and result, and whether the
posting raises the queue's vector. -/
structure Completion where
  cmdId : Nat
  status : Nat
  result : W64
  notice : Bool
  irq : Bool
deriving DecidableEq, Repr

/-- A queue pair (R462, R465): next submission entry to fetch, next completion entry to write, the phase bit of the present
turn of the completion ring, completions held for room, commands started and not complete, whether a failed fetch stopped
the queue (R468), and whether it runs (R487: a cleared enable takes effect when its commands have completed). -/
structure Queue where
  head : Nat
  tail : Nat
  phase : Bool
  held : List Completion
  out : Nat
  stopped : Bool
  run : Bool
deriving DecidableEq, Repr

/-- A queue at reset. -/
def Queue.reset : Queue := ⟨0, 0, true, [], 0, false, false⟩

/-- Why a command waits. -/
inductive Wait where
  | launch (pass : Nat) (collar : Nat) (reload : Bool)
  | commit (pass : Nat) (fabric : Bool) (tree : Nat)
  | mwinOpen (w : Nat)
  | mwinClose (w : Nat)
  | tilewinOpen (t n : Nat)
  | tilewinClose (t n : Nat)
  | routeSet (old : List (Nat × List Nat))
  | computeReset
  | linkReset
  | retrainLink (l : Nat)
  | retrainChan (c : Nat)
  | telem
  | jobClose
  | sessionClose (session : Nat)
  | retire (wins : List Nat)
  | activate
  | kennel
deriving DecidableEq, Repr

/-- A command that has started and not completed. -/
structure Waiting where
  e : Entry
  why : Wait
deriving DecidableEq, Repr

/-- A fault-log record (R523), its fields. -/
structure LogRec where
  time : Nat
  source : Nat
  cls : Nat
  unitKind : Nat
  unit : Nat
  action : Nat
  cause : Nat
  epoch : Nat
  pass : Nat
  detail : W64
deriving DecidableEq, Repr

/-! ## Jobs -/

/-- A tensor reference of a stage (R471): index and access. -/
structure TensorRef where
  tensor : Nat
  acc : Nat
deriving DecidableEq, Repr

/-- A stream of a stage (R471): consumer stage and bytes per pass. -/
structure StreamRef where
  consumer : Nat
  bytes : Nat
deriving DecidableEq, Repr

/-- A loaded stage (R19, R471, R470): its declaration, its image, and the settings STAGE_LOAD gave it. -/
structure StageSt where
  tiles : Nat
  h : Nat
  w : Nat
  entry : Nat
  down : Nat
  up : Nat
  energy : Nat
  parts : List W64
  refs : List TensorRef
  streams : List StreamRef
  image : List Byte
  tally : Nat
  fpCtrl : Nat
  seed : W32
  region : Option StagePlan
deriving DecidableEq, Repr

/-- A declared tensor (R27, R470, R473): size, class, persistence asked for, droppable; its place once placed; the persistence
in effect; and whether its mirror is degraded (R340). -/
structure TensorSt where
  bytes : Nat
  cls : Nat
  pers : Nat
  droppable : Bool
  place : Option TensorPlan
  persEff : Nat
  degraded : Bool
deriving DecidableEq, Repr

/-- The open job (R469): handle, session, stages, tensors, the seal, the hints with which it was placed and their outcome,
whether resident regions have been loaded, and energy of one pass. -/
structure Job where
  handle : Nat
  session : Nat
  stages : List StageSt
  tensors : List TensorSt
  sealed : Bool
  met : List Bool
  segs : List SegPlan
  loaded : Bool
  closing : Bool
deriving DecidableEq, Repr

/-! ## Fabric -/

/-- A flit still to be sent, or sent and not acknowledged (R382, R385, R387): lane, response pool, packet marks, body words,
poison mask, the packet it belongs to, and the port die whose routing table sent it on (R400). -/
structure TxFlit where
  vl : Nat
  rpool : Bool
  sop : Bool
  eop : Bool
  body : List W64
  poison : Nat
  pkt : Packet
  die : Nat
deriving DecidableEq, Repr

/-- The words of a packet as received so far on one pool (R385): pool, words, indices of poisoned words, flits. -/
structure RxPart where
  pool : Nat
  words : List W64
  poison : List Nat
  flits : Nat
deriving DecidableEq, Repr

/-- A link header as sent (R383). -/
structure LinkHdr where
  seq : Nat
  ackSeq : Nat
  nak : Bool
  ctl : Bool
  vl : Nat
  rpool : Bool
  sop : Bool
  eop : Bool
  crVl : Nat
  crRpool : Bool
  crTotal : Nat
  words : Nat
deriving DecidableEq, Repr

/-- A link outside its registers (R386 to R390): flits not yet sent, the replay buffer with sequence numbers, per pool (lanes 0 to
7, then the response pool) flits sent, flits that the far end has freed, buffers used and buffers freed here; the next expected
sequence number, whether a discarded flit is awaited again, naks in a row that carry one ack_seq, packets in reception,
destinations of packets sent since the link came Up (16,384 times the port die whose table sent them there, plus the module), flagged codewords in
the current ms, why the link
retrains (a host's RETRAIN may widen it, R395) and since when, symbol errors of each lane in the current ms and the lanes where they were too
many (R395); the header of the flit sent last and the place of the pool whose credits the next one names (R383). -/
structure LinkSt where
  wait : List TxFlit
  replay : List (Nat × TxFlit)
  sent : List Nat
  freed : List Nat
  used : List Nat
  freedTx : List Nat
  rxNext : Nat
  gap : Bool
  naks : Nat
  part : List RxPart
  dests : List Nat
  ueMs : Nat × Nat
  widen : Bool
  since : Nat
  symMs : Nat × List Nat
  noisy : Nat
  hdr : Option LinkHdr
  turn : Nat
deriving DecidableEq, Repr

/-- A link at reset. -/
def LinkSt.reset : LinkSt :=
  ⟨[], [], List.replicate 9 0, List.replicate 9 0, List.replicate 9 0, List.replicate 9 0, 0, false, 0, [], [], (0, 0), false, 0, (0, []), 0, none, 0⟩

/-- A packet received whole and not yet served (R407): the link, or 64 plus the port die for a packet of the module to itself. -/
structure InPkt where
  link : Nat
  pkt : Packet
  flits : Nat
deriving DecidableEq, Repr

/-- A packet of this module whose RESP is awaited (R399): its request when a tile engine made it, its time of sending, and, while it
still waits for a free request index (R197), what it will meet on its way down the shaft. -/
structure Await where
  pkt : Packet
  req : Option Nat
  time : Nat
  waiting : Option Transit
deriving DecidableEq, Repr

/-- A fence hold (R405): the port die whose route changes, destination, old link, packets held in order. -/
structure Fence where
  die : Nat
  dst : Nat
  link : Nat
  pkts : List Packet
deriving DecidableEq, Repr

/-- A Call at a port die (R411): its packet, the engine that serves it (8: none yet), the request index of the
return Deposit that is unanswered, and those still to be sent. -/
structure CallJob where
  port : Nat
  pkt : Packet
  eng : Nat
  tag : Nat
  left : List Packet
deriving DecidableEq, Repr

/-- An accepted Signal of a module window (R515). -/
structure SigRec where
  win : Nat
  src : Nat
  epoch : Nat
  offset : Nat
deriving DecidableEq, Repr

/-- A generation of a window closed less than 10 ms ago (R165, R406): window (module window `n`, or 1024 plus 4 times the logical tile
plus the tile window), generation, time of closing. -/
structure WinClosed where
  key : Nat
  gen : Nat
  time : Nat
deriving DecidableEq, Repr

/-- A delayed OPEN (R165, R406) and its command, if it came from one. -/
structure WinDelay where
  key : Nat
  e : Option Entry
deriving DecidableEq, Repr

/-- An accepted packet that is landing (R408): its number (the `chain` of its requests), the link that it came over (64 and above: none),
packet, requests unanswered, unprotected mark, first bad status. -/
structure Landing where
  id : Nat
  link : Nat
  pkt : Packet
  out : Nat
  unprot : Bool
  status : Nat
deriving DecidableEq, Repr

/-- The fabric side of the module outside its registers. `awaits`: packets whose RESP is awaited; `resend`: held Signals and notices in
doubt (R515) and pack packets (R431); `tilePkts`: packets on their way to their tiles, each with the link whose receive buffer it drains (R366, R407); `aborts`: newest aborted epoch by
sending module (R514); `abortWalk`: abort notices whose walks are not complete; `dests`: modules written to by the current pass
(R414); `doubt`: epochs of in-doubt requests of this module, the discard they call for (R404); `bridges`: failed port bridges;
`landings`: accepted packets that are landing; `leaving`: links whose
peer retires (R539), and those whose RETIRE is not answered yet; `retireWait`: links whose RETIRE_ACK is awaited; `raised`: pages that an
Open or Closing window has raised from right 2 to 3 (R406); `held`: packets that wait while the routing table is in Hold, each with the
port die that sends it (R510). -/
structure FabricSt where
  inbox : List InPkt
  awaits : List Await
  resend : List Packet
  fences : List Fence
  calls : List CallJob
  sigRecs : List SigRec
  winClosed : List WinClosed
  winDelays : List WinDelay
  tilePkts : List (Nat × Packet)
  aborts : Table Nat
  abortWalk : List (Nat × Nat)
  dests : List Nat
  doubt : List Nat
  bridges : List Nat
  landings : List Landing
  leaving : List Nat
  retireAcks : List Nat
  retireWait : List Nat
  raised : List Nat
  held : List (Nat × Packet)
deriving DecidableEq, Repr

/-- Nothing in flight. -/
def FabricSt.reset : FabricSt := ⟨[], [], [], [], [], [], [], [], [], [], [], [], [], [], [], [], [], [], [], []⟩

/-! ## Pack lane -/

/-- Who started a pack operation on this module (R433): the host, the tree's mailbox, the Keeper for the commit of a pass (R443), a snapshot begin or a
promotion of a snapshot slot, a fabric reset. -/
inductive PackBy where
  | host (e : Entry)
  | mailbox
  | commit (first : Nat)
  | snapBegin (slot : Nat)
  | promote (slot : Nat)
  | reset
deriving DecidableEq, Repr

/-- A pack operation started on this module (R432). -/
structure PackOp where
  kind : Nat
  rop : Nat
  dtype : Nat
  countM1 : Nat
  aux : Nat
  values : List W64
  by_ : PackBy
deriving DecidableEq, Repr

/-- A tree outside its registers (R432, R434): next op_seq, the operation active here, starts that wait behind it, up packets that
arrived for the current or later operations, down packets of later operations (R431), the op_seq whose up packet has left, the op_seq of a fabric
reset taken since the tree was loaded, the measured
delay of the edge to the parent and the link that it was measured over, and the time at which a measurement in progress was sent (R442, R624). -/
structure TreeSt where
  opSeq : Nat
  op : Option PackOp
  starts : List PackOp
  ups : List Packet
  downs : List Packet
  lastUp : Option Nat
  resetSeq : Option Nat
  delay : Int
  route : Option Nat
  sentAt : Option Nat
deriving DecidableEq, Repr

/-- A tree as loaded. -/
def TreeSt.reset : TreeSt := ⟨0, none, [], [], [], none, none, 0, none, none⟩

/-- A SHA3-512 computation: state and the bytes that do not fill a block. -/
structure Sponge where
  lanes : List W64
  buf : List Byte
deriving DecidableEq, Repr

/-- A snapshot in progress (R445, R446): tree, plan, next chunk to send, RESPs awaited of each chunk sent, digest, time and epoch at the
freeze, whether the record has been sent, its command, and whether a reset stops it at the end of the chunk in progress (R449). -/
structure SnapSt where
  tree : Nat
  plan : List W64
  next : Nat
  out : List (Nat × Nat)
  digest : Sponge
  time : Nat
  barrier : Bool
  record : Bool
  promoting : Bool
  status : Nat
  e : Option Entry
  stopping : Bool
deriving DecidableEq, Repr

/-! ## Passes -/

/-- A held Signal (R299): the packet it becomes at commit, and the slice, set and way of the hold line that keeps its record. -/
structure HeldSig where
  pkt : Packet
  slice : Nat
  set : Nat
  way : Nat
deriving DecidableEq, Repr

/-- The uncommitted pass (R22 to R24, R302, R308): the host's number, launch collar, its PASS_LAUNCH command (and whether its
completion has been posted), the PASS_COMMIT matched to it, its arrival at the commit barrier and a barrier completion recorded
while it replays (R444), the step of R308 that a discard has reached (0: none), the fault that ends it (Job-fatal cause, or a
program fault's cause and tile), whether a replay follows the discard, the modules it wrote to and those whose abort
acknowledgement is awaited, the launches so far, the tiles that took STALL or POISON faults in this number, the tiles to remap,
whether Heel was seen (R601), whether it was discarded after its arrival (R302), and the epoch of its first launch, which tells it
from other passes. -/
structure Pass where
  number : Nat
  collar : Nat
  launch : Entry
  posted : Bool
  commit : Option Entry
  fabric : Bool
  tree : Nat
  arrived : Bool
  barrier : Bool
  step : Nat
  fatal : Option Nat
  program : Option (Nat × Nat)
  replay : Bool
  aborted : Bool
  wrote : List Nat
  acks : List Nat
  launches : Nat
  stalls : List Nat
  poisons : Nat
  remaps : List Nat
  heel : Bool
  late : Bool
  first : Nat
deriving DecidableEq, Repr

/-! ## Deck, faults, platform -/

/-- A bond found failing (R234 to R237): die, bond, its state (0 suspect, waiting for a pass boundary; 1 on its spare; 2 bad in an
exhausted group), what found it (DECK_BOND_LOG's source) and the epoch then. -/
structure BondFault where
  die : Nat
  bond : BondRef
  st : Nat
  src : Nat
  epoch : Nat
deriving DecidableEq, Repr

/-- Corrections that a receiver's monitor attributed to a bond (R234): die, bond, corrections, time. -/
structure BondHit where
  die : Nat
  bond : BondRef
  n : Nat
  time : Nat
deriving DecidableEq, Repr

/-- Deck dies outside the registers (R233 to R237): bonds found failing, retired gateways by die, physical sectors whose clock bond was
lost, by direction, exhausted groups whose action waits, corrections of the last ms by bond, the bond that each die's scan tests
next, by its number in the order of the scan, and the coded control words (R228) that went with the flits of the last transfer over each
shaft, by `2 × (160 × die + sector)`, plus 1 for upward. -/
structure DeckSt where
  bonds : List BondFault
  gatesOut : List (Nat × Nat)
  clockLost : List (Nat × Nat × Bool)
  exhausted : List (Nat × BondRef)
  hits : List BondHit
  scan : Table Nat
  ctl : Table (List (BitVec 72))
deriving DecidableEq, Repr

/-- What waits for a pass boundary (R513): tiles to remap, channels to retrain, slices to remove, a leash table. -/
structure Boundary where
  remaps : List Nat
  lanes : List Nat
  slices : List Nat
  leashes : List (Nat × List Nat)
deriving DecidableEq, Repr

/-- A compute reset in progress (R541 to R546): HBM kept, fabric form, and whether a Module-fatal fault came meanwhile. -/
structure ResetSt where
  keep : Bool
  fabric : Bool
  halt : Bool
deriving DecidableEq, Repr

/-- Bring-up outside the BOOT, FUSE and TEST registers (R530 to R540): fuse map entries and start-up findings (both as R533 codes
them), the merged map, who started the running step, links that wait for a JOIN_ACK, a compute reset in progress, and the phase of a link reset (0 none, 1 RETIRE_ACKs awaited, 2 links train) with the time at which
phase 1 ends. -/
structure BootSt where
  fuse : List W32
  test : List W32
  merged : List W32
  src : Option StepSrc
  running : Bool
  joinWait : List Nat
  reset : Option ResetSt
  linkPhase : Nat
  linkAt : Nat
deriving DecidableEq, Repr

/-- A measurement (R654): what its digest is taken of (for index 6 the stage images in order, for index 7 the registers that differ from
their reset values), updates, time of the last. -/
structure Meas where
  parts : List (List Byte)
  regs : Table W64
  count : Nat
  time : Nat
deriving DecidableEq, Repr

/-- Firmware and identity (R643 to R657): BAR4 contents, the running, staged and previous images, the identity seed and key digests in the
security fuses (revocation and the version count are ATTS_FW_STAT.revoked and fused), the EEPROM, measurements, the SPDM transcript,
the response the DOE mailbox holds, signatures made, a restart into the staged image in progress, and a transcript that a restart cut. -/
structure FwSt where
  bar4 : List Host.Cell
  image : List Byte
  staged : List Byte
  prev : List Byte
  seed : List Byte
  keys : List (List Byte)
  eeprom : List Host.Cell
  meas : Table Meas
  transcript : List Byte
  response : List Byte
  signs : Nat
  activating : Bool
  resync : Bool
deriving DecidableEq, Repr

/-- Timebase outside the TIME registers (R617 to R624, R632): samples in a row within the lock band, the last PPS-in edge while pulses
arrive, the grandmaster selected, the measured PTP path delay, the deck dies' clock phases, the time at which the present Holdover began,
the instant of a pending TELEM_SNAPSHOT, and what was latched for it during a Keeper restart. -/
structure TimeSt where
  run : Nat
  pps : Option Nat
  master : Option Announce
  delayPtp : Int
  phase : List Nat
  holdAt : Nat
  telemAt : Nat
  shadow : Option (List Byte)
deriving DecidableEq, Repr

/-- Thermal state outside the registers: per sensor the polls of 1 ms in disagreement (R595), stage sensors excluded (R597), governing
temperatures of the stacks in units of 10⁻⁷ °C (R333), units 5 °C or more below caution at the last poll (R605), polls in a row with every unit
3 °C or more below (R602), whether the grace timer runs (R601), and the units that raised a Muzzle level (R604, R605). -/
structure ThermSt where
  disagree : Table Nat
  stageOut : List (Nat × Nat)
  hbm : Table Nat
  below : List Nat
  clear : Nat
  grace : Bool
  raised : List Nat
deriving DecidableEq, Repr

/-- Power outside the registers (R541, R559 to R579, R669 to R679): enable loop closed, PWR_OFF, always-on rails powered, PERST#, the time
at which the PPS output falls, hot-swap path on, path opened by the input (R559), rails of R563's first row in fault, bays that wait for power by deck, cages and those
with full power (R677), port dies whose links have no power (R563, R606), the idle
state to which a wake in progress leads (R579), and the input energy since the launch (R575). -/
structure PowerSt where
  enLoop : Bool
  pwrOff : Bool
  powered : Bool
  perst : Bool
  ppsOut : Nat
  hotSwap : Bool
  tripped : Bool
  rails : List Nat
  upping : List (Nat × Nat)
  cages : Table (Option CageType)
  granted : List Nat
  darkPorts : List Nat
  waking : Option Nat
  passMj : Nat
deriving DecidableEq, Repr

/-- Host-side state outside the registers (R462 to R484): queues, commands that wait, what the module has written to host memory,
MSI-X messages sent by vector, event mask, open sessions and their queues, keep areas, PCIe link up, retired, the bytes
that a BAR returned last with the status (0 success, 1 Unsupported Request, 2 Completer Abort) and the EP bit of their completion
(R483), the next job handle, the queue whose turn it is (R466), whether AER has logged an Unsupported Request (R459, R483), and what reads of committed memory by the Keeper and
the snapshot engine are to meet (log entry 98). -/
structure HostSt where
  queues : Table Queue
  waits : List Waiting
  mem : List Host.Cell
  msix : Table Nat
  mask : Nat
  sessions : List (Nat × List Nat)
  keeps : List (Nat × Nat)
  linkUp : Bool
  retiring : Bool
  retired : Bool
  readData : List Byte
  nextHandle : Nat
  turn : Nat
  readStatus : Nat
  readEp : Bool
  aer : Bool
  met : List (Nat × SliceDec)
  timeHigh : Nat
deriving DecidableEq, Repr

/-! ## The whole -/

/-- An event counter (R626, R641, R642): selection and count. Its reset value selects nothing. -/
structure Counter where
  event : Nat
  chain : Bool
  allInst : Bool
  instance_ : Nat
  overflow : Bool
  resetSeen : Bool
  count : Nat
deriving DecidableEq, Repr

/-- A counter at reset (R641). -/
def Counter.reset : Counter := ⟨0xFFF, false, false, 0, false, false, 0⟩

/-- Keeper state outside the registers (R520 to R523): restarting, times of restarts in the last 10 minutes, log ring (newest
last, at most 4,096), and records read; `copies`: of each redundant table of a die, whose key is `tabKey`, which of its three copies pass their CRC,
as the last write or check of the table left them (all three where nothing is listed; R276, R417, R506). -/
structure KeepSt where
  restarting : Bool
  restarts : List Nat
  log : List LogRec
  hold : Option (TableKind × Nat)
  copies : Table (List Bool)
deriving DecidableEq, Repr

/-- The state of the module. `hbmGen` counts the losses of HBM contents (R542, log entry 6); `caps` lists degraded instances of leashed resources (R368) with their capacity plus 1 (0: nominal);
`lat` the measured latencies of R365 in units of 1/256 ns; `credits` what the count of a leash at an arbiter lacks of its cap, in 1/1,000 of a byte, with
the time of its last change, where it is not full (R360); `turns` the sources that an arbiter has served on a collar, the latest last (R358); `acts` the
accesses of a channel, from which its controller knows when refresh management is due (R321). -/
structure State where
  pending : List Instr
  variant : Variant
  regs : Table W64
  counters : Table Counter
  freeCtr : Nat
  tiles : Table TileSt
  reqs : List Req
  nextReq : Nat
  job : Option Job
  pass : Option Pass
  epochCtr : Nat
  commitEpoch : Nat
  heldSigs : List HeldSig
  slices : Table SliceSt
  hbm : List Host.Cell
  hbmMark : Table Bool
  hbmGen : Nat
  splits : List Split
  laneHits : List ChanHit
  ueHits : List ChanHit
  selfRef : List Nat
  badPos : Table (List Nat)
  newFails : List (Nat × Nat)
  bypass : List (Nat × Nat)
  caps : Table Nat
  lat : Table Nat
  credits : Table (Nat × Nat)
  turns : Table (List Source)
  acts : Table Nat
  links : Table LinkSt
  fab : FabricSt
  trees : Table TreeSt
  snaps : Table (Option SnapSt)
  deck : DeckSt
  bound : Boundary
  boot : BootSt
  fw : FwSt
  time : TimeSt
  therm : ThermSt
  power : PowerSt
  host : HostSt
  keep : KeepSt
deriving DecidableEq, Repr

/-- The state right after reset. -/
def State.reset : State :=
  { pending := [], variant := .bt3204, regs := [], counters := [], freeCtr := 0, tiles := [], reqs := [], nextReq := 0,
    job := none, pass := none, epochCtr := 1, commitEpoch := 0, heldSigs := [],
    slices := [], hbm := [], hbmMark := [], hbmGen := 0, splits := [], laneHits := [], ueHits := [], selfRef := [],
    badPos := [], newFails := [], bypass := [], caps := [], lat := [], credits := [], turns := [], acts := [], links := [], fab := .reset, trees := [], snaps := [],
    deck := ⟨[], [], [], [], [], [], []⟩, bound := ⟨[], [], [], []⟩, boot := ⟨[], [], [], none, false, [], none, 0, 0⟩,
    fw := ⟨[], [], [], [], [], [], [], [], [], [], 0, false, false⟩,
    time := ⟨0, none, none, 0, [], 0, 0, none⟩, therm := ⟨[], [], [], [], 0, false, []⟩,
    power := ⟨false, false, false, false, 0, false, false, [], [], [], [], [], none, 0⟩,
    host := ⟨[], [], [], [], 0xFFFF, [], [], false, false, false, [], 1, 0, 0, false, false, [], 0⟩,
    keep := ⟨false, [], [], none, []⟩ }

/-- Reasons for a machine stop. No meaning of the model answers one: the spec gives every command an effect (errors are
completions, records and registers), so a fault here would be a gap of the model. -/
inductive Fault where
  /-- Raised by no meaning. It would be safe: a stop where the hardware goes on. -/
  | none_
deriving DecidableEq, Repr

/-- Reasons to refuse a command. -/
inductive Refusal where
  /-- Raised by a dispatch arm that has no meaning yet, and by no meaning. Safe: nothing can be proved of the command. -/
  | notModelled (mnemonic : String)
deriving DecidableEq, Repr

end Sys2Proof.Machine
end

