-- ==== Sys2Proof/Machine/Table.lean ====
section
/-! DEFINITION. Sparse tables in one canonical form: keys strictly rising, and no entry equal to what an unlisted key reads as.
Equal contents are therefore equal data. `d` is what an unlisted key reads as. -/

namespace Sys2Proof.Machine

/-- Read of a table. -/
def tget {α : Type} (d : Nat → α) : List (Nat × α) → Nat → α
  | [], k => d k
  | (j, v) :: t, k => if k = j then v else tget d t k

/-- Write of a table, keeping its canonical form. -/
def tset {α : Type} [DecidableEq α] (d : Nat → α) : List (Nat × α) → Nat → α → List (Nat × α)
  | [], k, v => if v = d k then [] else [(k, v)]
  | (j, w) :: t, k, v =>
    if k < j then
      let m := (j, w) :: t.filter fun p => decide (p.1 ≠ k)
      if v = d k then m else (k, v) :: m
    else if k = j then tset d t k v
    else (j, w) :: tset d t k v

/-- The canonical form. -/
def twf {α : Type} [DecidableEq α] (d : Nat → α) : List (Nat × α) → Bool
  | [] => true
  | (j, v) :: t => decide (v ≠ d j) && (match t with | [] => true | (k, _) :: _ => decide (j < k)) && twf d t

/-- Apply a list of writes. -/
def tsets {α : Type} [DecidableEq α] (d : Nat → α) (m : List (Nat × α)) (ws : List (Nat × α)) : List (Nat × α) :=
  ws.foldl (fun m p => tset d m p.1 p.2) m

/-- Drop every entry of a key range (its keys read the default again). -/
def tclear {α : Type} (lo hi : Nat) (m : List (Nat × α)) : List (Nat × α) :=
  m.filter fun p => !(decide (lo ≤ p.1) && decide (p.1 ≤ hi))

/-- The default of a table of bytes: 0. -/
def zeroByte : Nat → Byte := fun _ => 0

/-- The default of a table of marks: unmarked. -/
def unmarked : Nat → Bool := fun _ => false

/-- Read of a byte of memory. -/
def mget (m : List (Nat × Byte)) (a : Nat) : Byte := tget zeroByte m a

/-- Write of a byte of memory. -/
def mset (m : List (Nat × Byte)) (a : Nat) (b : Byte) : List (Nat × Byte) := tset zeroByte m a b

/-- `n` bytes from an address. -/
def mgets (m : List (Nat × Byte)) (a n : Nat) : List Byte := (List.range n).map fun i => mget m (a + i)

/-- Write bytes from an address on. -/
def msets (m : List (Nat × Byte)) (a : Nat) : List Byte → List (Nat × Byte)
  | [] => m
  | b :: bs => msets (mset m a b) (a + 1) bs

/-- Little-endian number of a list of bytes. -/
def leNat : List Byte → Nat
  | [] => 0
  | b :: bs => b.toNat + 256 * leNat bs

/-- `n` little-endian bytes of a number. -/
def leBytes : Nat → Nat → List Byte
  | 0, _ => []
  | n + 1, v => BitVec.ofNat 8 v :: leBytes n (v / 256)

/-- The 64-bit words of a list of bytes. -/
def leWords (n : Nat) (bs : List Byte) : List W64 :=
  (List.range n).map fun i => BitVec.ofNat 64 (leNat ((bs.drop (8 * i)).take 8))

/-- A bit field of a number: `w` bits from bit `lo`. -/
def bf (v lo w : Nat) : Nat := v / 2 ^ lo % 2 ^ w

/-- A bit of a number. -/
def bit (v i : Nat) : Bool := decide (v / 2 ^ i % 2 = 1)

/-- A number with the field of `w` bits from bit `lo` replaced. -/
def bfSet (v lo w f : Nat) : Nat := v - bf v lo w * 2 ^ lo + f % 2 ^ w * 2 ^ lo

/-- 1 for true. -/
def b2n (b : Bool) : Nat := if b then 1 else 0

/-- Round a number down to a multiple. -/
def alignDown (a n : Nat) : Nat := a / n * n

end Sys2Proof.Machine
end

