-- ==== Sys2Proof/Machine/Ops.lean ====
section
/-! DEFINITION. The named operations over the state: registers and their fields, event counters, first-event records, tiles. -/

namespace Sys2Proof.Machine

/-! ## Registers -/

/-- Read of a register. -/
def State.reg (s : State) (a : Nat) : W64 := tget (regReset s.variant) s.regs a

/-- Write of a register. -/
def State.setReg (s : State) (a : Nat) (v : W64) : State := { s with regs := tset (regReset s.variant) s.regs a v }

/-- Read of a field. -/
def State.rd (s : State) (f : Fld) : Nat := bf (s.reg f.addr).toNat f.lo f.w

/-- Write of a field. -/
def State.wr (s : State) (f : Fld) (v : Nat) : State :=
  s.setReg f.addr (BitVec.ofNat 64 (bfSet (s.reg f.addr).toNat f.lo f.w v))

/-- A one-bit field is set. -/
def State.on (s : State) (f : Fld) : Bool := decide (s.rd f = 1)

/-- Add to a field that saturates. -/
def State.satAdd (s : State) (f : Fld) (n : Nat) : State := s.wr f (min (s.rd f + n) (2 ^ f.w - 1))

/-- Add to a field that wraps. -/
def State.incr (s : State) (f : Fld) (n : Nat) : State := s.wr f (s.rd f + n)

/-- Several field writes in order. -/
def State.wrs (s : State) (ws : List (Fld × Nat)) : State := ws.foldl (fun s p => s.wr p.1 p.2) s

/-- A first-event record (R691): the first event since `valid` was cleared writes the record; a later one sets `multi`, which only a
write of 1 clears. -/
def State.record (s : State) (valid multi : Fld) (ws : List (Fld × Nat)) : State :=
  if s.on valid then s.wr multi 1 else (s.wrs ws).wr valid 1

/-- Registers of an address range at their reset values. -/
def State.resetRegs (s : State) (lo hi : Nat) : State := { s with regs := tclear lo hi s.regs }

/-! ## Event counters (R626 to R629) -/

/-- Where an event occurs. -/
inductive EvUnit where
  | module
  | tile (t : Nat)
  | slice (i : Nat)
  | link (l : Nat)
deriving DecidableEq, Repr

/-- Keys of the counters in `State.counters`. -/
def ctrModule (n : Nat) : Nat := n
def ctrTile (t k : Nat) : Nat := 64 + 4 * t + k
def ctrSlice (i k : Nat) : Nat := 102464 + 4 * i + k
def ctrLink (l k : Nat) : Nat := 104512 + 4 * l + k

/-- First key of a unit's own four counters. -/
def EvUnit.base : EvUnit → Option Nat
  | .module => none
  | .tile t => some (ctrTile t 0)
  | .slice i => some (ctrSlice i 0)
  | .link l => some (ctrLink l 0)

/-- Instance number of a unit for a module counter. -/
def EvUnit.index : EvUnit → Option Nat
  | .module => none
  | .tile t => some t
  | .slice i => some i
  | .link l => some l

/-- An event of group `ev / 256` counts at units of this kind (R627, R628). -/
def EvUnit.inScope (u : EvUnit) (ev : Nat) : Bool :=
  match u with
  | .module => false
  | .tile _ => decide (ev / 256 < 4)
  | .slice _ => decide (5 ≤ ev / 256) && decide (ev / 256 ≤ 8)
  | .link _ => decide (ev / 256 = 9)

/-- The counter of key `k` counts the event `ev` of unit `u` (R628). An event with no instance counts at a module counter
whatever its instance field (DEDUCED, log entry 11). -/
def ctrHits (k : Nat) (c : Counter) (ev : Nat) (u : EvUnit) : Bool :=
  decide (c.event = ev) &&
    (if k < 64 then c.allInst || (match u.index with | some i => decide (c.instance_ = i) | none => true)
     else u.inScope ev && (match u.base with | some b => decide (b ≤ k) && decide (k < b + 4) | none => false))

/-- One pass over the counters in key order: `prev` is the key and the carries of the counter below (R629). Answers the
counters and the number of unchained wraps. -/
def bumpGo (ev : Nat) (u : EvUnit) (n : Nat) : Nat × Nat → Table Counter → Table Counter × Nat
  | _, [] => ([], 0)
  | prev, (k, c) :: rest =>
    let chained := c.chain && decide (k % 2 = 1)
    let add := if chained then (if prev.1 + 1 = k then prev.2 else 0) else if ctrHits k c ev u then n else 0
    let total := c.count + add
    let carries := total / 2 ^ 32
    let upper := match rest with
      | (j, d) :: _ => decide (j = k + 1) && d.chain && decide (j % 2 = 1)
      | [] => false
    let wrap := decide (0 < carries) && !chained && !upper
    let r := bumpGo ev u n (k, carries) rest
    ((k, { c with count := total % 2 ^ 32, overflow := c.overflow || wrap }) :: r.1, r.2 + (if wrap then carries else 0))

/-- Count an event, and the wraps it causes as CNT_OVERFLOW (R629). `fuel` bounds the wraps of counters of wraps. -/
def bumpFuel : Nat → Nat → EvUnit → Nat → Table Counter → Table Counter
  | 0, _, _, _, cs => cs
  | fuel + 1, ev, u, n, cs =>
    let r := bumpGo ev u n (0, 0) cs
    if r.2 = 0 then r.1 else bumpFuel fuel Ev.cntOverflow .module r.2 r.1

/-- Count `n` occurrences of an event at a unit. -/
def State.bump (s : State) (ev : Nat) (u : EvUnit) (n : Nat) : State :=
  { s with counters := bumpFuel 65 ev u n s.counters }

/-- A counter. -/
def State.counter (s : State) (k : Nat) : Counter := tget (fun _ => Counter.reset) s.counters k

/-- Replace a counter. -/
def State.setCounter (s : State) (k : Nat) (c : Counter) : State :=
  { s with counters := tset (fun _ => Counter.reset) s.counters k c }

/-- R631: counts of a key range are cleared, keeping their selections, and reset_seen is set on those that select an event. -/
def State.clearCounts (s : State) (lo hi : Nat) : State :=
  { s with counters := s.counters.map fun p =>
      if lo ≤ p.1 ∧ p.1 ≤ hi then (p.1, { p.2 with count := 0, resetSeen := true }) else p }

/-- A counter's selection register (R641). -/
def Counter.sel (c : Counter) : W64 :=
  BitVec.ofNat 64 (c.event + b2n c.chain * 2 ^ 12 + b2n c.allInst * 2 ^ 13 + c.instance_ % 2 ^ 15 * 2 ^ 14
    + b2n c.overflow * 2 ^ 29 + b2n c.resetSeen * 2 ^ 30)

/-- A counter's count register (R642): its odd partner's count above it when that partner is chained. -/
def State.ctrCount (s : State) (k : Nat) : W64 :=
  let up := s.counter (k + 1)
  BitVec.ofNat 64 ((s.counter k).count + (if k % 2 = 0 ∧ up.chain then up.count * 2 ^ 32 else 0))

/-! ## Tiles -/

/-- A tile. -/
def State.tile (s : State) (t : Nat) : TileSt := tget (fun _ => TileSt.reset) s.tiles t

/-- Replace a tile. -/
def State.setTile (s : State) (t : Nat) (x : TileSt) : State := { s with tiles := tset (fun _ => TileSt.reset) s.tiles t x }

/-- Change a tile. -/
def State.modTile (s : State) (t : Nat) (f : TileSt → TileSt) : State := s.setTile t (f (s.tile t))

/-- Tile states of TILE_STAT (R132). -/
def stIdle : Nat := 0
def stRun : Nat := 1
def stHalt : Nat := 2
def stDone : Nat := 3

/-- A tile is in state Run. -/
def State.running (s : State) (t : Nat) : Bool := decide (s.rd (F.tileStatState t) = stRun)

/-- The epoch of the current launch (R316). -/
def State.epoch (s : State) : Nat := s.rd F.keepPassStatEpoch

/-- The timebase (R634). -/
def State.now (s : State) : Nat := s.rd F.timeNowNs

/-- This module's ID (R416), as every port die holds it. -/
def State.moduleId (s : State) : Nat := s.rd (F.portSelfModuleId 0)

/-- A free value, and the state that has drawn it (log entry 7). -/
def State.free (s : State) : Nat × State := (Config.freeValue s.freeCtr, { s with freeCtr := s.freeCtr + 1 })

/-- A next free request number. -/
def State.addReqs (s : State) (rs : List Req) : State :=
  rs.foldl (fun s r => { s with reqs := s.reqs ++ [{ r with id := s.nextReq }], nextReq := s.nextReq + 1 }) s

/-- A request in flight. -/
def State.req (s : State) (i : Nat) : Option Req := s.reqs.find? (fun r => decide (r.id = i))

/-- Replace a request in flight. -/
def State.setReq (s : State) (r : Req) : State := { s with reqs := s.reqs.map fun q => if q.id = r.id then r else q }

/-- Remove a request. -/
def State.dropReq (s : State) (i : Nat) : State := { s with reqs := s.reqs.filter fun q => decide (q.id ≠ i) }

/-! ## Hold (R510) -/

/-- A table of a floor die is in Hold: requests at its slices wait. -/
def State.floorHeld (s : State) (f : Nat) : Bool :=
  match s.keep.hold with
  | some (.hashMap, i) | some (.twin, i) | some (.perm, i) => decide (i = f)
  | _ => false

/-- A tile map is in Hold: packets to tiles wait. -/
def State.mapHeld (s : State) : Bool := match s.keep.hold with | some (.tileMap, _) => true | _ => false

/-- A routing table is in Hold: packets wait for their routes. -/
def State.routeHeld (s : State) : Bool := match s.keep.hold with | some (.route, _) => true | _ => false

end Sys2Proof.Machine
end

