-- ==== Sys2Proof/Machine/Energy.lean ====
section
/-! DEFINITION. Operating points (R565 to R568), the energy account (R574, R575), bays (R576). -/

namespace Sys2Proof.Machine

/-! ## Operating points -/

/-- Point of a deck die in effect: 0 P0 to 3 P3. -/
def State.dieOpp (s : State) (d : Nat) : Nat := bf (s.rd F.pwrmOppCurD) (2 * d) 2

/-- Fastest point that the limits in force on a die allow (R566): max_opp, the phase and bond limit, the Muzzle level. -/
def State.oppLimit (s : State) (d : Nat) : Nat :=
  max (s.rd F.pwrmCapMaxOpp) (max (bf (s.rd F.pwrmOppPhaseLimD) (2 * d) 2) (s.rd (F.thrmUnitLevel d)))

/-! ## The energy account. Energies in mJ. -/

/-- Capacity C. -/
def State.acctCap (s : State) : Nat := 20 * s.rd F.pwrmCapEffCapW

/-- Balance A. -/
def State.acctBal (s : State) : Int :=
  let v := s.rd F.pwrmAcctBalance
  if v < 2 ^ 31 then v else (v : Int) - 2 ^ 32

/-- Set the balance. -/
def State.setBal (s : State) (a : Int) : State := s.wr F.pwrmAcctBalance (a % 2 ^ 32).toNat

/-- Uncorrected sum of the energy estimates of the job's stages, `E₀`. -/
def State.estimate (s : State) : Nat := match s.job with | some j => (j.stages.map (·.energy)).sum | none => 0

/-- The account covers a launch on a collar (R575). -/
def State.energyOk (s : State) (collar : Nat) : Bool :=
  let c : Int := s.acctCap
  let r : Int := s.acctCap / 10
  let e : Int := s.rd F.pwrmAcctF * s.estimate
  if 8 ≤ collar then decide (256 * r + min e (256 * (c - r)) ≤ 256 * s.acctBal) else decide (min e (256 * c) ≤ 256 * s.acctBal)

/-- The correction `f` follows the energy measured over a pass (R575), in units of 1/256 with a free rounding (log entry 28). With
no estimate the quotient has no value: free within the clamp (log entry 7). -/
def State.energyEnd (s : State) : State :=
  let f := s.rd F.pwrmAcctF
  let e := s.estimate
  let x := 7 * f * e + 256 * s.power.passMj
  if e = 0 then let (v, s) := s.free; s.wr F.pwrmAcctF (128 + v % 897)
  else
    let (c, s) : Nat × State := if x % (8 * e) = 0 then (0, s) else let (v, s) := s.free; (v % 2, s)
    s.wr F.pwrmAcctF (max 128 (min 1024 (x / (8 * e) + c)))

/-- The refill rate follows the effective cap and the Muzzle levels (R603). -/
def State.refill (s : State) : State :=
  let m := (List.range 8).foldl (fun m d => max m (s.rd (F.thrmUnitLevel d))) (s.rd F.thrmStatRefillLvl)
  s.wr F.pwrmCapRefillW (s.rd F.pwrmCapEffCapW * (100 - 15 * m) / 100)

/-! ## Bays -/

/-- Deck die and bay of a logical tile. -/
def bayOf (t : Nat) : Nat × Nat := (2 * (t / 160 / 40) + t % 160 / 80, t / 160 % 40 / 2)

/-- A bay is gated. -/
def State.bayGated (s : State) (b : Nat × Nat) : Bool := bit (s.rd (F.pwrmBayGated b.1)) b.2

/-- Gate a bay, or end its gating. -/
def State.setGated (s : State) (b : Nat × Nat) (g : Bool) : State :=
  s.wr (F.pwrmBayGated b.1) (bfSet (s.rd (F.pwrmBayGated b.1)) b.2 1 (b2n g))

/-- Change the power state. -/
def State.modPower (s : State) (f : PowerSt → PowerSt) : State := { s with power := f s.power }

/-- A tile's bay is needed (R576): a gated one waits for power. -/
def State.needBay (s : State) (t : Nat) : State :=
  let b := bayOf t
  if !s.bayGated b ∨ s.power.upping.contains b then s
  else s.modPower fun p => { p with upping := p.upping ++ [b] }

end Sys2Proof.Machine
end

