-- ==== Sys2Proof/Machine/Float.lean ====
section
/-! DEFINITION. Number formats and arithmetic (spec/03_numerics.md): decoding of every format, one exact rounding, the vector
unit's operations and conversions, the four special functions, MX scales and packing, the matrix array's accumulation.
Every finite value is held exactly as `m × 2^e`. -/

namespace Sys2Proof.Machine

/-- A decoded value: NaN (with its signalling mark), infinity, or the exact finite value `(-1)^neg × m × 2^e`. -/
inductive FVal where
  | nan (sig : Bool)
  | inf (neg : Bool)
  | fin (neg : Bool) (m : Nat) (e : Int)
deriving DecidableEq, Repr

/-- Which special encodings a format has (R76, R79): IEEE infinities and NaNs, E4M3's single NaN, E5M2's quiet-only NaNs, or
none. -/
inductive Specials where
  | ieee
  | e4m3
  | e5m2
  | none
deriving DecidableEq, Repr

/-- A binary floating-point format: exponent bits, mantissa bits, bias, special encodings. -/
structure Fmt where
  eb : Nat
  mb : Nat
  bias : Nat
  sp : Specials
deriving DecidableEq, Repr

/-! The formats of R76. -/
def fmtFp32 : Fmt := ⟨8, 23, 127, .ieee⟩
/-- Binary64, for pack-lane reductions (R435). -/
def fmtFp64 : Fmt := ⟨11, 52, 1023, .ieee⟩
def fmtBf16 : Fmt := ⟨8, 7, 127, .ieee⟩
def fmtFp16 : Fmt := ⟨5, 10, 15, .ieee⟩
def fmtE4m3 : Fmt := ⟨4, 3, 7, .e4m3⟩
def fmtE5m2 : Fmt := ⟨5, 2, 15, .e5m2⟩
def fmtE3m2 : Fmt := ⟨3, 2, 3, .none⟩
def fmtE2m3 : Fmt := ⟨2, 3, 1, .none⟩
def fmtE2m1 : Fmt := ⟨2, 1, 1, .none⟩

/-- Exponent of the format's largest finite power of two (R97's emax for the MX element formats). -/
def Fmt.emax (f : Fmt) : Int :=
  match f.sp with
  | .ieee | .e5m2 => (2 ^ f.eb - 2 : Int) - f.bias
  | .e4m3 | .none => (2 ^ f.eb - 1 : Int) - f.bias

/-- Largest mantissa field at the largest exponent. -/
def Fmt.topMant (f : Fmt) : Nat :=
  match f.sp with
  | .e4m3 => 2 ^ f.mb - 2
  | _ => 2 ^ f.mb - 1

/-- Encoding of the largest finite magnitude (R76). -/
def Fmt.maxBits (f : Fmt) : Nat := (f.emax + f.bias).toNat * 2 ^ f.mb + f.topMant

/-- The sign bit's weight. -/
def Fmt.signBit (f : Fmt) : Nat := 2 ^ (f.eb + f.mb)

/-- Canonical NaN of a format as a conversion target (R87, R92). -/
def Fmt.nanBits (f : Fmt) : Nat :=
  match f.sp with
  | .ieee => (2 ^ f.eb - 1) * 2 ^ f.mb + 2 ^ (f.mb - 1)
  | .e5m2 => 0x7E
  | .e4m3 => 0x7F
  | .none => 0

/-- Encoding of infinity, where the format has one. -/
def Fmt.infBits (f : Fmt) : Nat := (2 ^ f.eb - 1) * 2 ^ f.mb

/-- The value of an encoding (R76). -/
def Fmt.decode (f : Fmt) (bits : Nat) : FVal :=
  let neg := decide (bits / f.signBit % 2 = 1)
  let ef := bits / 2 ^ f.mb % 2 ^ f.eb
  let mf := bits % 2 ^ f.mb
  let top := decide (ef = 2 ^ f.eb - 1)
  let finite :=
    if ef = 0 then FVal.fin neg mf (1 - (f.bias : Int) - f.mb)
    else FVal.fin neg (2 ^ f.mb + mf) ((ef : Int) - f.bias - f.mb)
  match f.sp with
  | .none => finite
  | .e4m3 => if top && decide (mf = 2 ^ f.mb - 1) then .nan false else finite
  | .e5m2 => if top then (if mf = 0 then .inf neg else .nan false) else finite
  | .ieee => if top then (if mf = 0 then .inf neg else .nan (decide (mf < 2 ^ (f.mb - 1)))) else finite

/-- Rounding modes (R91): to nearest even, stochastic with its random value, toward zero. -/
inductive Round where
  | rne
  | sr (rho : Nat)
  | rtz
deriving DecidableEq, Repr

/-! Exception flags as bits of TILE_FP_FLAGS (R102). -/
def flInvalid : Nat := 1
def flDivZero : Nat := 2
def flOverflow : Nat := 4
def flUnderflow : Nat := 8
def flInexact : Nat := 16
def flMxNan : Nat := 32

/-- A result with the flags it raises. -/
structure FRes where
  bits : Nat
  flags : Nat
deriving DecidableEq, Repr

/-- Divide `m` by `2^s`, rounding by the mode (R91, R93): the quotient and whether it is inexact. -/
def roundShift (r : Round) (m s : Nat) : Nat × Bool :=
  let q := m / 2 ^ s
  let rem := m % 2 ^ s
  let up := match r with
    | .rtz => false
    | .rne => decide (2 ^ s < 2 * rem) || (decide (2 * rem = 2 ^ s) && decide (q % 2 = 1))
    | .sr rho => decide (2 ^ 16 ≤ rem * 2 ^ 16 / 2 ^ s + rho)
  (if up then q + 1 else q, decide (rem ≠ 0))

/-- Exponent of the unit in the last place of the format at a value of leading exponent `x`. -/
def Fmt.ulpExp (f : Fmt) (x : Int) : Int := max x (1 - (f.bias : Int)) - f.mb

/-- Round an exact nonzero magnitude to the format's precision with an unbounded exponent range (R92): significand, exponent
and inexactness. -/
def Fmt.roundMag (f : Fmt) (r : Round) (m : Nat) (e : Int) : Nat × Int × Bool :=
  let q := f.ulpExp (Nat.log2 m + e)
  if q ≤ e then (m * 2 ^ (e - q).toNat, q, false)
  else
    let (k, ix) := roundShift r m (q - e).toNat
    (k, q, ix)

/-- Encoding of a rounded magnitude that is not too large. -/
def Fmt.encodeMag (f : Fmt) (k : Nat) (q : Int) : Nat :=
  if k < 2 ^ f.mb then k
  else if k < 2 ^ (f.mb + 1) then (q + f.mb + f.bias).toNat * 2 ^ f.mb + (k - 2 ^ f.mb)
  else (q + f.mb + 1 + f.bias).toNat * 2 ^ f.mb + (k / 2 - 2 ^ f.mb)

/-- A rounded magnitude exceeds the format's largest finite value (R92). -/
def Fmt.tooLarge (f : Fmt) (k : Nat) (q : Int) : Bool :=
  let top := 2 ^ f.mb + f.topMant
  let qt := f.emax - f.mb
  if q ≤ qt then decide (top * 2 ^ (qt - q).toNat < k) else decide (top < k * 2 ^ (q - qt).toNat)

/-- Narrow a value to a format (R91, R92): saturating or not, with the flags raised. -/
def Fmt.convert (f : Fmt) (r : Round) (sat : Bool) (v : FVal) : FRes :=
  let sgn (neg : Bool) (b : Nat) := if neg then b + f.signBit else b
  let overBits (neg : Bool) : Nat :=
    if sat then sgn neg f.maxBits
    else match f.sp with
      | .ieee | .e5m2 => sgn neg f.infBits
      | .e4m3 => sgn neg 0x7F
      | .none => sgn neg f.maxBits
  match v with
  | .nan _ => ⟨f.nanBits, flInvalid⟩
  | .inf neg => ⟨overBits neg, 0⟩
  | .fin neg m e =>
    if m = 0 then ⟨sgn neg 0, 0⟩
    else
      let (k, q, ix) := f.roundMag r m e
      if f.tooLarge k q then
        ⟨if r = .rtz then sgn neg f.maxBits else overBits neg, flOverflow + flInexact⟩
      else
        let tiny := decide ((Nat.log2 m : Int) + e < 1 - (f.bias : Int))
        ⟨sgn neg (f.encodeMag k q), (if ix then flInexact else 0) + (if ix && tiny then flUnderflow else 0)⟩

/-- The FP32 (or BF16) result of an arithmetic operation of the vector unit: one rounding to nearest even (R85, R86); NaN is
canonical and overflow gives an infinity (R87). `fl` are flags already raised. -/
def Fmt.result (f : Fmt) (v : FVal) (fl : Nat) : FRes :=
  match v with
  | .nan _ => ⟨f.nanBits, fl⟩
  | _ => let r := f.convert .rne false v; ⟨r.bits, fl ||| r.flags⟩

/-- A value is a NaN. -/
def FVal.isNan : FVal → Bool
  | .nan _ => true
  | _ => false

/-- Flag of a signalling NaN among the operands (R87). -/
def sigFlag (vs : List FVal) : Nat := if vs.any (· == .nan true) then flInvalid else 0

/-- The signed significand of a finite value at exponent `e`, for `e` at most its own. -/
def FVal.intAt (neg : Bool) (m : Nat) (x e : Int) : Int :=
  let k : Int := m * 2 ^ (x - e).toNat
  if neg then -k else k

/-- Exact finite value from a signed significand; `z` is the sign of a zero. -/
def FVal.ofInt (z : Bool) (n e : Int) : FVal :=
  if n = 0 then .fin z 0 0 else .fin (decide (n < 0)) n.natAbs e

/-- Exact sum (R85): an exact zero sum of opposite signs is +0. -/
def FVal.add (a b : FVal) : FVal × Nat :=
  match a, b with
  | .nan _, _ | _, .nan _ => (.nan false, sigFlag [a, b])
  | .inf s, .inf t => if s = t then (.inf s, 0) else (.nan false, flInvalid)
  | .inf s, .fin _ _ _ => (.inf s, 0)
  | .fin _ _ _, .inf t => (.inf t, 0)
  | .fin s m e, .fin t n g =>
    let x := min e g
    let sum := FVal.intAt s m e x + FVal.intAt t n g x
    (FVal.ofInt (s && t && decide (m = 0) && decide (n = 0)) sum x, 0)

/-- Negation (the operand of a subtraction). -/
def FVal.neg : FVal → FVal
  | .nan s => .nan s
  | .inf s => .inf (!s)
  | .fin s m e => .fin (!s) m e

/-- Exact product (R80, R85): infinity times zero is invalid. -/
def FVal.mul (a b : FVal) : FVal × Nat :=
  match a, b with
  | .nan _, _ | _, .nan _ => (.nan false, sigFlag [a, b])
  | .inf s, .inf t => (.inf (s != t), 0)
  | .inf s, .fin t n _ => if n = 0 then (.nan false, flInvalid) else (.inf (s != t), 0)
  | .fin s m _, .inf t => if m = 0 then (.nan false, flInvalid) else (.inf (s != t), 0)
  | .fin s m e, .fin t n g => (.fin (s != t) (m * n) (e + g), 0)

/-- Fused multiply-add, exact before its one rounding (R85). A product of zero and infinity with a quiet NaN addend raises invalid as well: R85
names IEEE 754, which leaves this one to the implementation (DESIGN CHOICE, log entry 94). -/
def FVal.fma (a b c : FVal) : FVal × Nat :=
  let p := FVal.mul a b
  match c with
  | .nan _ => (.nan false, sigFlag [a, b, c] ||| p.2)
  | _ => let r := FVal.add p.1 c; (r.1, p.2 ||| r.2)

/-- Comparison of two values that are not NaN; −0 equals +0. -/
def FVal.lt (a b : FVal) : Bool :=
  match a, b with
  | .nan _, _ | _, .nan _ => false
  | .inf s, .inf t => s && !t
  | .inf s, .fin _ _ _ => s
  | .fin _ _ _, .inf t => !t
  | .fin s m e, .fin t n g => let x := min e g; decide (FVal.intAt s m e x < FVal.intAt t n g x)

/-- Equality of two values that are not NaN. -/
def FVal.eq (a b : FVal) : Bool := !a.isNan && !b.isNan && !FVal.lt a b && !FVal.lt b a

/-- The sign of a value. -/
def FVal.isNeg : FVal → Bool
  | .nan _ => false
  | .inf s => s
  | .fin s _ _ => s

/-- Minimum or maximum (R85): the operand that is not NaN, and −0 below +0. -/
def FVal.minMax (isMax : Bool) (a b : FVal) : FVal × Nat :=
  let fl := sigFlag [a, b]
  if a.isNan then (if b.isNan then .nan false else b, fl)
  else if b.isNan then (a, fl)
  else
    let aLess := FVal.lt a b || (FVal.eq a b && a.isNeg && !b.isNeg)
    (if aLess != isMax then a else b, fl)

/-- Round a value to an integer under a mode: the integer and whether it is inexact. -/
def roundInt (r : Round) (neg : Bool) (m : Nat) (e : Int) : Int × Bool :=
  let (k, ix) := if 0 ≤ e then (m * 2 ^ e.toNat, false) else roundShift r m (-e).toNat
  (if neg then -(k : Int) else k, ix)

/-- Conversion of a value to a signed integer of `w` bits (R92): saturating; NaN gives 0. -/
def toInt (w : Nat) (r : Round) (v : FVal) : FRes :=
  let enc (n : Int) : Nat := (n % (2 ^ w : Int)).toNat
  let hi : Int := 2 ^ (w - 1) - 1
  let lo : Int := -(2 ^ (w - 1))
  match v with
  | .nan _ => ⟨0, flInvalid⟩
  | .inf neg => ⟨enc (if neg then lo else hi), flInvalid⟩
  | .fin neg m e =>
    let (n, ix) := roundInt r neg m e
    if n < lo then ⟨enc lo, flInvalid⟩
    else if hi < n then ⟨enc hi, flInvalid⟩
    else ⟨enc n, if ix then flInexact else 0⟩

/-- A signed integer as a value. -/
def FVal.ofSigned (n : Int) : FVal := FVal.ofInt false n 0

/-- A word's value as a signed integer. -/
def sint (w : Nat) (n : Nat) : Int := if n % 2 ^ w < 2 ^ (w - 1) then ((n % 2 ^ w : Nat) : Int) else ((n % 2 ^ w : Nat) : Int) - 2 ^ w

/-! Special functions (R88). Each result is computed to half an ulp below the exact value, and the result within 2 ulp that
the unit returns is the free value `Config.specialPick` (log entry 9). -/

/-- Integer square root, bit by bit. -/
def isqrtGo : Nat → Nat → Nat → Nat
  | 0, _, r => r
  | b + 1, n, r => let c := r + 2 ^ b; isqrtGo b n (if c * c ≤ n then c else r)

/-- Integer square root of a number below `2^(2b)`. -/
def isqrt (b n : Nat) : Nat := isqrtGo b n 0

/-- `2^f` for the fraction `f / 2^w` in fixed point of `p` bits: the product of the roots `2^(2^-i)` that `f` selects. -/
def exp2Go (p : Nat) : Nat → Nat → Nat → Nat → Nat
  | 0, _, _, acc => acc
  | w + 1, root, f, acc =>
    let root' := isqrt (p + 2) (root * 2 ^ p)
    exp2Go p w root' (f % 2 ^ w) (if f / 2 ^ w % 2 = 1 then acc * root' / 2 ^ p else acc)

/-- Fixed-point precision of the special functions. -/
def spP : Nat := 240

/-- `2^(f / 2^w)` with `spP` fraction bits, for `f < 2^w`. -/
def exp2Frac (w f : Nat) : Nat := exp2Go spP w (2 * 2 ^ spP) f (2 ^ spP)

/-- Fraction bits of log₂ of `x / 2^spP` in [1, 2), by squaring. -/
def log2Go : Nat → Nat → Nat → Nat
  | 0, _, acc => acc
  | b + 1, x, acc =>
    let y := x * x / 2 ^ spP
    if 2 * 2 ^ spP ≤ y then log2Go b (y / 2) (2 * acc + 1) else log2Go b y (2 * acc)

/-- Fraction bits computed for log₂. -/
def lgB : Nat := 120

/-- The result a special function returns for an exact positive magnitude whose half-ulp floor is `t2 × 2^(q-1)`: the free
choice if it is a result within 2 ulp, else the truncated value. Overflow gives an infinity. -/
def specialResult (fn : SpecialFn) (x : W32) (neg : Bool) (t2 : Nat) (exact : Bool) (q : Int) : FRes :=
  let h := t2 + Config.specialPick fn x % 9 - 4
  let okLow := decide (t2 < h + 4) || (exact && decide (t2 ≤ h + 4))
  let repr := (fmtFp32.roundMag .rtz h (q - 1)).2.2 = false
  let k := if okLow && decide (h ≠ 0 → repr) then h else t2 / 2 * 2
  let r := fmtFp32.convert .rtz false (.fin neg k (q - 1))
  if r.flags &&& flOverflow ≠ 0 then ⟨fmtFp32.infBits + (if neg then fmtFp32.signBit else 0), flOverflow⟩ else ⟨r.bits, 0⟩

/-- exp2 (R88). -/
def spExp2 (x : W32) : FRes :=
  match fmtFp32.decode x.toNat with
  | .nan s => ⟨fmtFp32.nanBits, if s then flInvalid else 0⟩
  | .inf neg => ⟨if neg then 0 else fmtFp32.infBits, 0⟩
  | .fin neg m e =>
    let big (k : Nat) := if 0 ≤ e then decide (k * 1 ≤ m * 2 ^ e.toNat) else decide (k * 2 ^ (-e).toNat ≤ m)
    let above (k : Nat) := if 0 ≤ e then decide (k < m * 2 ^ e.toNat) else decide (k * 2 ^ (-e).toNat < m)
    if !neg && big 128 then ⟨fmtFp32.infBits, flOverflow⟩
    else if neg && above 150 then ⟨0, 0⟩
    else
      let w := (-e).toNat
      let n : Int := FVal.intAt neg m e (min e 0)
      let ip : Int := if 0 ≤ e then n else n / (2 ^ w : Int)
      let fp : Nat := if 0 ≤ e then 0 else (n % (2 ^ w : Int)).toNat
      if fp = 0 ∧ -149 ≤ ip then fmtFp32.convert .rtz false (.fin false 1 ip)
      else
        let y := exp2Frac w fp
        let q := fmtFp32.ulpExp ip
        let sh := (spP : Int) - ip + (q - 1)
        specialResult .exp2 x false (y / 2 ^ sh.toNat) (decide (fp = 0)) q

/-- log2 (R88). -/
def spLog2 (x : W32) : FRes :=
  match fmtFp32.decode x.toNat with
  | .nan s => ⟨fmtFp32.nanBits, if s then flInvalid else 0⟩
  | .inf neg => if neg then ⟨fmtFp32.nanBits, flInvalid⟩ else ⟨fmtFp32.infBits, 0⟩
  | .fin neg m e =>
    if m = 0 then ⟨fmtFp32.infBits + fmtFp32.signBit, flDivZero⟩
    else if neg then ⟨fmtFp32.nanBits, flInvalid⟩
    else
      let l := Nat.log2 m
      let ip : Int := l + e
      let fr := log2Go lgB (m * 2 ^ (spP - l)) 0
      let v : Int := ip * 2 ^ lgB + fr
      if v = 0 then ⟨0, 0⟩
      else
        let exact := decide (fr = 0)
        let a := if v < 0 then (-v).toNat - (if exact then 0 else 1) else v.toNat
        let q := fmtFp32.ulpExp ((Nat.log2 a : Int) - lgB)
        specialResult .log2 x (decide (v < 0)) (a / 2 ^ (lgB + (q - 1)).toNat) exact q

/-- rcp (R88). -/
def spRcp (x : W32) : FRes :=
  match fmtFp32.decode x.toNat with
  | .nan s => ⟨fmtFp32.nanBits, if s then flInvalid else 0⟩
  | .inf neg => ⟨if neg then fmtFp32.signBit else 0, 0⟩
  | .fin neg m e =>
    if m = 0 then ⟨fmtFp32.infBits + (if neg then fmtFp32.signBit else 0), flDivZero⟩
    else
      -- 1/(m 2^e): its leading exponent is -e - log2 m, or one less where m is no power of two
      let l := Nat.log2 m
      let ip : Int := -e - l - (if m = 2 ^ l then 0 else 1)
      let q := fmtFp32.ulpExp ip
      let sh := -e - (q - 1)
      specialResult .rcp x neg (2 ^ sh.toNat / m) (decide (2 ^ sh.toNat % m = 0)) q

/-- rsqrt (R88). -/
def spRsqrt (x : W32) : FRes :=
  match fmtFp32.decode x.toNat with
  | .nan s => ⟨fmtFp32.nanBits, if s then flInvalid else 0⟩
  | .inf neg => if neg then ⟨fmtFp32.nanBits, flInvalid⟩ else ⟨0, 0⟩
  | .fin neg m e =>
    if m = 0 then ⟨fmtFp32.infBits + (if neg then fmtFp32.signBit else 0), flDivZero⟩
    else if neg then ⟨fmtFp32.nanBits, flInvalid⟩
    else
      -- x = m' 2^(2g); 1/sqrt x = 2^(-g) / sqrt m'
      let g : Int := e / 2
      let m' := if e % 2 = 0 then m else 2 * m
      let p := 100
      let y := isqrt (2 * p + 2) (2 ^ (4 * p) / m')
      let exact := decide (y * y * m' = 2 ^ (4 * p))
      let ip : Int := (Nat.log2 y : Int) - 2 * p - g
      let q := fmtFp32.ulpExp ip
      specialResult .rsqrt x false (y / 2 ^ (2 * (p : Int) + g + (q - 1)).toNat) exact q

/-! Stochastic rounding's generator (R93 to R95). -/

/-- The random value of element slot `l` (R94). -/
def srRho (state : W32) (l : Nat) : Nat :=
  let v := (state ^^^ BitVec.ofNat 32 (l * 0x2545F491)) * 0x85944171#32
  (v >>> 16).toNat

/-- The generator's next state (R94). -/
def srNext (st : W32) : W32 :=
  let a := st ^^^ (st <<< 13)
  let b := a ^^^ (a >>> 17)
  b ^^^ (b <<< 5)

/-- What a write to TILE_SR_STATE loads (R95). -/
def srLoad (v : W32) : W32 := if v = 0 then 0x9E3779B9#32 else v

/-! MX packing and unpacking (R97, R98). -/

/-- The element formats by their R67 code, 2 to 7. Code 7 is MXINT8 and has no floating-point format. -/
def mxFmt : Nat → Fmt
  | 2 => fmtE4m3
  | 3 => fmtE5m2
  | 4 => fmtE3m2
  | 5 => fmtE2m3
  | _ => fmtE2m1

/-- R97's emax. -/
def mxEmax (code : Nat) : Int := if code = 7 then 0 else (mxFmt code).emax

/-- Leading exponent of a finite nonzero value. -/
def FVal.lead : FVal → Int
  | .fin _ m e => (Nat.log2 m : Int) + e
  | _ => 0

/-- A finite value is zero. -/
def FVal.isZero : FVal → Bool
  | .fin _ m _ => decide (m = 0)
  | _ => false

/-- One value scaled by a power of two. -/
def FVal.scale (k : Int) : FVal → FVal
  | .fin s m e => .fin s m (e + k)
  | v => v

/-- Encoding of one MX element (R97 step 4), always saturating. -/
def mxElem (code : Nat) (r : Round) (v : FVal) : FRes :=
  if code = 7 then toIntSat r v else (mxFmt code).convert r true v
where
  /-- MXINT8: two's complement in units of 2⁻⁶ (R77), saturating with the overflow and inexact flags of R92. -/
  toIntSat (r : Round) (v : FVal) : FRes :=
    let x := toInt 8 r (FVal.scale 6 v)
    if x.flags &&& flInvalid ≠ 0 then ⟨x.bits, flOverflow + flInexact⟩ else x

/-- A pack of values into one MX block (R97): the scale and each element with its flags. `rs` gives each element's rounding. -/
def mxPack (code : Nat) (rs : List Round) (vs : List FVal) : Nat × List FRes :=
  if vs.any (fun v => match v with | .fin _ _ _ => false | _ => true) then
    (0xFF, vs.map fun _ => ⟨0, flInvalid⟩)
  else if vs.all (·.isZero) then (0, vs.map fun _ => ⟨0, 0⟩)
  else
    let top := (vs.filter (!·.isZero)).map (·.lead)
    let lg := top.foldl max (top.headD 0)
    let e := max 0 (min 254 (lg - mxEmax code + 127))
    (e.toNat, (vs.zip rs).map fun p => mxElem code p.2 (FVal.scale (127 - e) p.1))

/-- The value of an MX element (R76, R77, R79). -/
def mxValue (code : Nat) (bits : Nat) : FVal :=
  if code = 7 then FVal.ofInt false (sint 8 bits) (-6) else (mxFmt code).decode bits

/-- MX unpack of one element to FP32 (R98). -/
def mxUnpack (code scale bits : Nat) : Nat :=
  if scale = 0xFF then fmtFp32.nanBits
  else (fmtFp32.result (FVal.scale ((scale : Int) - 127) (mxValue code bits)) 0).bits

/-! The matrix array (R45, R55, R80 to R83). -/

/-- The value of a matrix operand element by its R67 format code. -/
def elemValue (code bits : Nat) : FVal :=
  match code with
  | 0 => fmtE4m3.decode bits
  | 1 => fmtE5m2.decode bits
  | 8 => fmtBf16.decode bits
  | 9 => fmtFp16.decode bits
  | 10 => FVal.ofSigned (sint 8 bits)
  | c => mxValue c bits

/-- An exact running sum of products (R45, R82): an exact dyadic number, with marks for NaN, for infinities of either sign,
and for "every product so far is −0". -/
structure Dot where
  n : Int
  e : Int
  nan : Bool
  pinf : Bool
  ninf : Bool
  allNegZero : Bool
deriving DecidableEq, Repr

/-- The empty sum. -/
def Dot.zero : Dot := ⟨0, 0, false, false, false, true⟩

/-- Add an exact value to a sum. -/
def Dot.addVal (d : Dot) (v : FVal) : Dot :=
  match v with
  | .nan _ => { d with nan := true }
  | .inf s => { d with pinf := d.pinf || !s, ninf := d.ninf || s, allNegZero := false }
  | .fin s m e =>
    let x := min d.e e
    { d with n := d.n * 2 ^ (d.e - x).toNat + FVal.intAt s m e x, e := x, allNegZero := d.allNegZero && s && decide (m = 0) }

/-- Add the exact product of two elements (R80, R82). -/
def Dot.addProd (d : Dot) (a b : FVal) : Dot := d.addVal (FVal.mul a b).1

/-- The contribution of a sum, scaled by `2^k`, rounded once into an FP32 accumulator (R45, R55, R81, R82). -/
def accFp32 (acc : Nat) (d : Dot) (k : Int) : Nat :=
  let a := fmtFp32.decode acc
  if d.nan || (d.pinf && d.ninf) || a.isNan then fmtFp32.nanBits
  else if d.pinf || d.ninf then
    (fmtFp32.result (FVal.add a (.inf d.ninf)).1 0).bits
  else
    let v := FVal.ofInt d.allNegZero d.n (d.e + k)
    (fmtFp32.result (FVal.add a v).1 0).bits

end Sys2Proof.Machine
end

