-- ==== Sys2Proof/Machine/Spd.lean ====
section
/-! DEFINITION. The tile scratchpad (spec/05_scratchpad.md): words, fresh bits, poison marks, the gather buffer, regions. -/

namespace Sys2Proof.Machine

/-- Bytes of a scratchpad (R138). -/
def spdSize : Nat := 0x40000

/-! ## Words -/

/-- A word's fresh bit (R151). -/
def TileSt.fresh (x : TileSt) (w : Nat) : Bool := !tget unmarked x.live w

/-- A word that reads uncorrectable: marked as poisoned and not fresh (R151, R174). -/
def TileSt.bad (x : TileSt) (w : Nat) : Bool := tget unmarked x.live w && tget unmarked x.poison w

/-- The 8 bytes of a word; a fresh word reads zero. -/
def TileSt.wordBytes (x : TileSt) (w : Nat) : List Byte := mgets x.mem (8 * w) 8

/-- Store a whole word with its mark; the fresh bit clears (R151, R173, R174). A pending corrected write-back is overtaken
(R172). -/
def TileSt.putWord (x : TileSt) (w : Nat) (bs : List Byte) (p : Bool) : TileSt :=
  { x with mem := msets x.mem (8 * w) bs, live := tset unmarked x.live w true, poison := tset unmarked x.poison w p,
           ceWb := x.ceWb.filter fun v => decide (v ≠ w) }

/-- Set the fresh bits of a word range (R152): the cells' contents are never seen again (R151). A narrow write that still waits in the
gather buffer for a word of the range counts as landed before the clear and is lost (R153; DESIGN CHOICE, log entry 18). -/
def TileSt.freshen (x : TileSt) (w n : Nat) : TileSt :=
  { x with mem := tclear (8 * w) (8 * (w + n) - 1) x.mem, live := tclear w (w + n - 1) x.live,
           poison := tclear w (w + n - 1) x.poison, ceWb := x.ceWb.filter fun v => !(decide (w ≤ v) && decide (v < w + n)),
           gather := x.gather.filter fun g => !(decide (w ≤ g.word) && decide (g.word < w + n)) }

/-! ## Errors found by reads (R172, R173, R180) -/

/-- Count a correction (R172, R180). -/
def State.spdCeCount (s : State) (t : Nat) : State :=
  ((s.bump Ev.spdCe (.tile t) 1).wr (F.tileSpdErrCeValid t) 1).satAdd (F.tileSpdErrCeCount t) 1

/-- Note a corrected word, which is then written back. -/
def State.spdCe (s : State) (t w : Nat) : State :=
  (s.spdCeCount t).modTile t fun x => if x.ceWb.contains w then x else { x with ceWb := x.ceWb ++ [w] }

/-- Note an uncorrectable word with its source code (R180), and, while a pass runs, the launch in which the word was met
(R175). The word stays uncorrectable until it is written. -/
def State.spdUe (s : State) (t w src : Nat) : State :=
  let s := (s.bump Ev.spdUe (.tile t) 1).record (F.tileSpdErrUeValid t) (F.tileSpdErrUeMulti t)
    [(F.tileSpdErrUeAddr t, 8 * w), (F.tileSpdErrUeSrc t, src)]
  let launch := match s.pass with | some p => p.launches | none => 0
  s.modTile t fun x => { x with poison := tset unmarked x.poison w true,
                                ueSeen := if x.ueSeen.contains (w, launch) then x.ueSeen else x.ueSeen ++ [(w, launch)] }

/-- The fresh bit of a word is read: the majority of its three copies counts, and an outvoted copy is rewritten and counted (R140, R501). -/
def State.freshRead (s : State) (t w : Nat) (errs : List SpdErr) : State :=
  if errs.contains ⟨w, .freshCopy⟩ then s.spdCeCount t else s

/-- The decoder's report on a word read: errors the operand brings, and the mark of a poisoned word. The cells of a fresh word have
neither (R151). -/
def State.spdDecode (s : State) (t w src : Nat) (errs : List SpdErr) : State :=
  let x := s.tile t
  let s := s.freshRead t w errs
  if x.fresh w then s
  else if x.bad w || errs.contains ⟨w, .uncorrectable⟩ then s.spdUe t w src
  else if errs.contains ⟨w, .corrected⟩ then s.spdCe t w
  else s

/-! ## The gather buffer (R147 to R150) -/

/-- Bytes `i` selected by a mask from `new`, the others from `old`. -/
def mergeBytes (mask : BitVec 8) (new old : List Byte) : List Byte :=
  (List.range 8).map fun i => if mask.getLsbD i then new.getD i 0 else old.getD i 0

/-- Write one gather entry to its bank (R148, R149): as a whole word when its mask is full or the word is fresh, otherwise by a
read-modify-write, whose read may meet an error (source 3) and then leaves the word poisoned (R173). -/
def State.gatherPut (s : State) (t : Nat) (g : Gather) (errs : List SpdErr) : State :=
  let x := s.tile t
  let whole := decide (g.mask = 0xFF) || x.fresh g.word
  let s := if whole then s else (s.spdDecode t g.word 3 errs).bump Ev.spdRmw (.tile t) 1
  let x := s.tile t
  let p := g.pois || (!whole && x.bad g.word)
  s.modTile t fun x => { x.putWord g.word (mergeBytes g.mask (leBytes 8 g.bytes.toNat) (x.wordBytes g.word)) p with
    gather := x.gather.filter fun h => decide (h.word ≠ g.word) }

/-- Write the gather entry of a word, if there is one (R150). -/
def State.gatherFlush (s : State) (t w : Nat) (errs : List SpdErr) : State :=
  match (s.tile t).gather.find? (fun g => decide (g.word = w)) with
  | some g => s.gatherPut t g errs
  | none => s

/-- A narrow write into a word (R147, R148). -/
def State.gatherAdd (s : State) (t w : Nat) (mask : BitVec 8) (bytes : List Byte) (p : Bool) (owner serial : Nat)
    (errs : List SpdErr) : State :=
  match (s.tile t).gather.find? (fun g => decide (g.word = w)) with
  | some g =>
    let g' := { g with mask := g.mask ||| mask, pois := g.pois || p,
                       bytes := BitVec.ofNat 64 (leNat (mergeBytes mask bytes (leBytes 8 g.bytes.toNat))) }
    if g'.mask = 0xFF then s.gatherPut t g' errs
    else s.modTile t fun x => { x with gather := x.gather.map fun h => if h.word = w then g' else h }
  | none =>
    let s := match (s.tile t).gather with
      | g :: _ :: _ :: _ :: _ => (s.gatherPut t g errs).bump Ev.spdGatherFull (.tile t) 1
      | _ => s
    s.modTile t fun x => { x with gather := x.gather ++ [⟨w, mask, BitVec.ofNat 64 (leNat (mergeBytes mask bytes [])), p, owner, serial⟩] }

/-! ## Byte accesses -/

/-- Words that `n` bytes from `a` touch. -/
def wordsOf (a n : Nat) : List Nat := if n = 0 then [] else (List.range ((a + n - 1) / 8 - a / 8 + 1)).map (· + a / 8)

/-- A word waits in the gather buffer for a read-modify-write, which rewrites it: what its array cells hold is met there (R148, R150). -/
def TileSt.rmwWaits (x : TileSt) (w : Nat) : Bool := !x.fresh w && x.gather.any fun g => decide (g.word = w)

/-- A word is read: its gather entry writes first (R150), and the decoder's report follows. An error that the read-modify-write met is not
met again. -/
def State.readWord (s : State) (t w src : Nat) (errs : List SpdErr) : State :=
  let left := if (s.tile t).rmwWaits w then errs.filter fun e => decide (e.word ≠ w) else errs
  (s.gatherFlush t w errs).spdDecode t w src left

/-- Read `n` bytes with their words' marks. -/
def State.spdRead (s : State) (t a n src : Nat) (errs : List SpdErr) : State × List PB :=
  let s := (wordsOf a n).foldl (fun s w => s.readWord t w src errs) s
  let x := s.tile t
  (s, (List.range n).map fun i => ⟨mget x.mem (a + i), x.bad ((a + i) / 8)⟩)

/-- Any byte of a read is poisoned. -/
def anyPois (bs : List PB) : Bool := bs.any (·.p)

/-- One word's share of a write of bytes: the mask, the 8 bytes, and the mark. -/
def wordPart (a : Nat) (bs : List PB) (w : Nat) : BitVec 8 × List Byte × Bool :=
  let idx := (List.range 8).map fun i => 8 * w + i
  let inR (k : Nat) := decide (a ≤ k) && decide (k < a + bs.length)
  (BitVec.ofNat 8 (leNat [BitVec.ofNat 8 ((List.range 8).foldl (fun m i => if inR (8 * w + i) then m + 2 ^ i else m) 0)]),
   idx.map fun k => if inR k then (bs.getD (k - a) ⟨0, false⟩).b else 0,
   idx.any fun k => inR k && (bs.getD (k - a) ⟨0, false⟩).p)

/-- Write bytes: whole words in one bank cycle, replacing a gather entry (R150); parts of words through the gather buffer. -/
def State.spdWrite (s : State) (t a : Nat) (bs : List PB) (owner serial : Nat) (errs : List SpdErr) : State :=
  (wordsOf a bs.length).foldl (fun s w =>
    let part := wordPart a bs w
    if part.1 = 0xFF then
      s.modTile t fun x => { x.putWord w part.2.1 part.2.2 with gather := x.gather.filter fun g => decide (g.word ≠ w) }
    else s.gatherAdd t w part.1 part.2.1 part.2.2 owner serial errs) s

/-! ## Regions (R143 to R146) -/

/-- Region kinds of TILE_SPD_PART (R176); 0 is unassigned. -/
def kInstr : Nat := 1
def kBuffer : Nat := 2
def kResident : Nat := 3
def kWindow : Nat := 4
def kNear : Nat := 5

/-- The descriptors of a tile's partition: kind, first byte, bytes. -/
def State.parts (s : State) (t : Nat) : List (Nat × Nat × Nat) :=
  (List.range 8).map fun n => (s.rd (F.tileSpdPartKind t n), 256 * s.rd (F.tileSpdPartBase t n), 256 * (s.rd (F.tileSpdPartLenM1 t n) + 1))

/-- Kind of the region that holds a byte. -/
def kindIn (ps : List (Nat × Nat × Nat)) (a : Nat) : Nat :=
  match ps.find? (fun p => decide (p.1 ≠ 0) && decide (p.2.1 ≤ a) && decide (a < p.2.1 + p.2.2)) with
  | some p => p.1
  | none => 0

/-- The instruction or resident region that holds a byte, by its descriptor. -/
def State.loadedRegion (s : State) (t a : Nat) : Option Nat :=
  (List.range 8).find? fun i =>
    let p := (s.parts t).getD i (0, 0, 0)
    (decide (p.1 = kInstr) || decide (p.1 = kResident)) && decide (p.2.1 ≤ a) && decide (a < p.2.1 + p.2.2)

/-- Every byte of a range lies in the scratchpad and in a region whose kind is allowed. Regions are whole 256 B units. -/
def State.spdAllowed (s : State) (t a n : Nat) (kinds : List Nat) : Bool :=
  decide (a + n ≤ spdSize) &&
    (List.range ((a + n - 1) / 256 - a / 256 + 1)).all fun i => kinds.contains (kindIn (s.parts t) (256 * (a / 256 + i)))

/-- Kinds that the tile's own units may read (R145). -/
def ownRead : List Nat := [kInstr, kBuffer, kResident, kWindow]
/-- Kinds that the tile's own units may write. -/
def ownWrite : List Nat := [kBuffer]
/-- Kinds that other tiles may read over the mesh. -/
def meshRead : List Nat := [kBuffer, kResident, kWindow]
/-- Kinds that other tiles may write over the mesh. -/
def meshWriteK : List Nat := [kBuffer]

/-- The instruction region: first byte and bytes. -/
def State.instrRegion (s : State) (t : Nat) : Nat × Nat :=
  match (s.parts t).find? (fun p => decide (p.1 = kInstr)) with
  | some p => p.2
  | none => (0, 0)

/-- An address lies in the instruction region. -/
def State.inInstr (s : State) (t a n : Nat) : Bool :=
  let r := s.instrRegion t
  decide (r.1 ≤ a) && decide (a + n ≤ r.1 + r.2)

/-- One window region of the tile holds the range (R164). -/
def State.inWindowRegion (s : State) (t a n : Nat) : Bool :=
  (s.parts t).any fun p => decide (p.1 = kWindow) && decide (p.2.1 ≤ a) && decide (a + n ≤ p.2.1 + p.2.2)

/-- The near-cache region: first byte and bytes (R159). -/
def State.nearRegion (s : State) (t : Nat) : Nat × Nat :=
  match (s.parts t).find? (fun p => decide (p.1 = kNear)) with
  | some p => p.2
  | none => (0, 0)

end Sys2Proof.Machine
end

