-- ==== Sys2Proof/Machine/TileFault.lean ====
section
/-! DEFINITION. The end of a fetch chain (R204, R205) and the taking of a tile fault (R129, R130, R133, R134). -/

namespace Sys2Proof.Machine

/-! ## Fetch engines -/

/-- An engine of a tile. -/
def TileSt.engine (x : TileSt) (n : Nat) : Engine := if n = 0 then x.fe0 else x.fe1

/-- Replace an engine. -/
def TileSt.setEngine (x : TileSt) (n : Nat) (e : Engine) : TileSt := if n = 0 then { x with fe0 := e } else { x with fe1 := e }

/-- The running chain of an engine. -/
def State.chain (s : State) (t n : Nat) : Option Chain := ((s.tile t).engine n).running

/-- Change the running chain of an engine. -/
def State.modChain (s : State) (t n : Nat) (f : Chain → Chain) : State :=
  s.modTile t fun x => x.setEngine n { x.engine n with running := (x.engine n).running.map f }

/-- The completion record of a chain (R204). -/
def Chain.record (c : Chain) (epoch : Nat) : W64 :=
  BitVec.ofNat 64 (c.status % 16 + b2n c.poison * 2 ^ 4 + b2n c.mxNan * 2 ^ 5 + b2n c.sparseLoss * 2 ^ 6 + b2n c.halted * 2 ^ 7
    + c.failDesc % 256 * 2 ^ 8 + c.done % 256 * 2 ^ 16 + epoch % 2 ^ 32 * 2 ^ 32)

/-- Status HALTED of R205. -/
def stHALTED : Nat := 6

/-- A chain has nothing in progress and begins nothing more. -/
def Chain.over (c : Chain) : Bool :=
  c.descs.isEmpty && (decide (c.next = c.nDesc) || decide (c.status ≠ 0) || c.halted || c.stopped)

/-- How a chain ends: its status and fail_desc. A chain that a tile fault stopped is HALTED with an index that is open; of one that a discard
cut short in a tile without a fault R205 states neither (free values, log entry 7). -/
def State.chainEnd (s : State) (c : Chain) : State × Nat × Nat :=
  if c.status ≠ 0 then (s, c.status, c.failDesc)
  else if c.halted then let (fd, s) := s.free; (s, stHALTED, fd)
  else if c.stopped && decide (c.next < c.nDesc) then
    let (st, s) := s.free
    let (fd, s) := s.free
    (s, st, fd)
  else (s, 0, 0xFF)

/-- A chain that is over ends: its record is written where R145 permits it, and the engine's queued chain runs (R204, R205). The
Bool: the record's write is not permitted. -/
def State.endChain (s : State) (t n : Nat) : State × Bool :=
  match s.chain t n with
  | none => (s, false)
  | some c =>
    if !c.over then (s, false)
    else
      let (s, st, fd) := s.chainEnd c
      let c := { c with status := st, failDesc := fd }
      let rec_ := c.record s.epoch
      let may := s.spdAllowed t c.cmplAddr 8 ownWrite
      let s := if c.cmplEn && may then
          s.spdWrite t c.cmplAddr ((leBytes 8 rec_.toNat).map fun b => ⟨b, false⟩) (n + 1) c.serial [] else s
      let s := s.setReg (R.tileFeLast t n) rec_
      (s.modTile t fun x => x.setEngine n ⟨(x.engine n).queued, none⟩, c.cmplEn && !may)

/-! ## Tile faults -/

/-! Causes of R130. -/
def cTALLY : Nat := 1
def cCTRL : Nat := 2
def cWDOG : Nat := 3
def cPOISON : Nat := 4
def cSTALL : Nat := 5
def cMSEQ : Nat := 6
def cREGION : Nat := 7
def cFETCH : Nat := 8
def cALIGN : Nat := 9
def cRANGE : Nat := 10
def cOPCODE : Nat := 11
def cBUNDLE : Nat := 12
def cCSR : Nat := 13
def cBUS : Nat := 14

/-- A fault to be taken: cause, slot and address (R130, R133, R134). -/
structure TFault where
  cause : Nat
  slot : Nat
  addr : Nat
deriving DecidableEq, Repr

/-- The array stops, its accumulators and its queued sequence are discarded (R72). -/
def Mtx.halt (m : Mtx) : Mtx := { m with running := none, queued := none, blocks := [], halted := true }

/-- An engine starts no further descriptor and no queued chain (R129). -/
def Engine.halt (e : Engine) : Engine := ⟨e.running.map fun c => { c with halted := true }, none⟩

/-- An engine starts no further descriptor and no queued chain, at a discard (R205, R308). -/
def Engine.stop (e : Engine) : Engine := ⟨e.running.map fun c => { c with stopped := true }, none⟩

/-- A further fault only sets multi (R129, R700). -/
def State.tileMulti (s : State) (t : Nat) : State := s.wr (F.tileFaultMulti t) 1

/-- A chain that is over as the tile halts ends; a record that may not be written is a further fault. -/
def State.endHalted (s : State) (t n : Nat) : State :=
  let r := s.endChain t n
  if r.2 then r.1.tileMulti t else r.1

/-- A tile takes a fault (R129): TILE_FAULT and TILE_FAULT_ADDR record the first (R133, R134), the array and the engines halt,
and the tile enters Halt. -/
def State.tileFault (s : State) (t : Nat) (f : TFault) (unit pc : Nat) : State :=
  let s := s.record (F.tileFaultValid t) (F.tileFaultMulti t)
    [(F.tileFaultCause t, f.cause), (F.tileFaultSlot t, f.slot), (F.tileFaultUnit t, unit), (F.tileFaultPc t, pc / 16),
     (F.tileFaultEpoch t, s.epoch), (F.tileFaultAddrAddr t, f.addr)]
  let s := s.wr (F.tileStatState t) stHalt
  let s := s.modTile t fun x => { x with mtx := x.mtx.halt, fe0 := x.fe0.halt, fe1 := x.fe1.halt }
  (s.endHalted t 0).endHalted t 1

/-- A chain that is over ends; where R145 does not permit its record, the write is not made and the tile takes a fault with
cause RANGE (R146; log entry 84). -/
def State.tryEndChain (s : State) (t n : Nat) : State :=
  match s.chain t n with
  | none => s
  | some c =>
    let r := s.endChain t n
    if r.2 then (r.1.modTile t fun x => x.setEngine n ⟨none, none⟩).tileFault t ⟨cRANGE, 4, c.cmplAddr⟩ (n + 1) c.pc else r.1

/-! ## Scoreboard -/

/-- Two byte ranges share a byte. -/
def overlap (a n b m : Nat) : Bool := decide (a < b + m) && decide (b < a + n)

/-- Access codes of a range: 1 read, 2 write, 3 both. -/
def writes (acc : Nat) : Bool := decide (2 ≤ acc)

/-- The tile's last entry has retired after END: it enters Done (R128). -/
def State.tryDone (s : State) (t : Nat) : State :=
  let x := s.tile t
  if x.ended && x.sb.isEmpty && s.running t then s.wr (F.tileStatState t) stDone else s

end Sys2Proof.Machine
end

