-- ==== Sys2Proof/Machine/Operands.lean ====
section
/-! DEFINITION. Operand forms of tile programs: bundles and slots (R104 to R108), sequence descriptors (R66, R67), chain heads
(R183) and fetch descriptors (R187 to R190), each read from its bits. -/

namespace Sys2Proof.Machine

/-! ## Bundles -/

/-- A bundle's four slots as numbers (R104). -/
structure Bundle where
  m : Nat
  f : Nat
  v : Nat
  s : Nat
deriving DecidableEq, Repr

/-- The slots of 16 bytes. -/
def Bundle.ofBytes (bs : List Byte) : Bundle :=
  let n := leNat bs
  ⟨bf n 0 16, bf n 16 24, bf n 40 48, bf n 88 40⟩

/-! Matrix slot (R105). -/
def Bundle.mGo (b : Bundle) : Bool := bit b.m 0
def Bundle.mByReg (b : Bundle) : Bool := bit b.m 1
def Bundle.mDesc (b : Bundle) : Nat := bf b.m 2 12

/-! Fetch slot (R106). -/
def Bundle.fGo (b : Bundle) : Bool := bit b.f 0
def Bundle.fEngine (b : Bundle) : Nat := bf b.f 1 1
def Bundle.fOp (b : Bundle) : Nat := bf b.f 2 2
def Bundle.fDesc (b : Bundle) : Nat := bf b.f 4 12

/-! Scalar slot (R108). -/
def Bundle.sOp (b : Bundle) : Nat := bf b.s 0 7
def Bundle.sd (b : Bundle) : Nat := bf b.s 7 5
def Bundle.sa (b : Bundle) : Nat := bf b.s 12 5
def Bundle.sb (b : Bundle) : Nat := bf b.s 17 5
def Bundle.imm (b : Bundle) : Nat := bf b.s 22 18

/-! Vector slot (R107). -/
def Bundle.vOp (b : Bundle) : Nat := bf b.v 0 6
/-- The compute form. -/
def Bundle.vc (b : Bundle) : VC :=
  ⟨.ofNat 4 (bf b.v 6 4), .ofNat 4 (bf b.v 10 4), .ofNat 4 (bf b.v 14 4), .ofNat 4 (bf b.v 18 4), .ofNat 2 (bf b.v 22 2),
   .ofNat 2 (bf b.v 24 2), .ofNat 2 (bf b.v 26 2), .ofNat 2 (bf b.v 28 2)⟩
/-- The memory form. -/
def Bundle.vm (b : Bundle) : VM :=
  ⟨.ofNat 4 (bf b.v 6 4), .ofNat 5 (bf b.v 10 5), .ofNat 15 (bf b.v 15 15), .ofNat 2 (bf b.v 30 2), .ofNat 3 (bf b.v 32 3),
   .ofNat 2 (bf b.v 35 2), .ofNat 2 (bf b.v 37 2)⟩

/-- The slots that act, by R133's slot number. -/
def Bundle.acting (b : Bundle) : List Nat :=
  [0, 1, 2, 3].filter fun k => match k with
    | 0 => b.mGo
    | 1 => b.fGo
    | 2 => decide (b.vOp ≠ 0)
    | _ => decide (b.sOp ≠ 0)

/-- The type values an operation of the vector slot allows (R114, R704). -/
def vTypes (op : Nat) : List Nat :=
  if op ≤ 3 then [0, 1, 2] else if op = 4 then [0, 1] else if op ≤ 6 then [0, 1, 2] else if op ≤ 12 then [2]
  else if op ≤ 16 then [0, 1, 2] else if op ≤ 25 then [0] else if op = 26 then [0, 2] else if op = 27 then [0, 1, 2] else [0, 1]

/-- A vector slot raises OPCODE at decode (R107, R108, R114, R704). -/
def Bundle.vBad (b : Bundle) : Bool :=
  let op := b.vOp
  let v := b.vc
  if op = 0 then false
  else if op ≤ 28 then
    !(vTypes op).contains v.typ.toNat || decide (v.sat = 3)
      || (decide (13 ≤ op) && decide (op ≤ 15) && decide (v.vd.toNat % 4 = 0))
      || (decide (op = 25) && !(decide (2 ≤ v.vb.toNat) && decide (v.vb.toNat ≤ 7)))
      || (decide (op = 27) && decide (1 < v.vb.toNat))
      || (decide (op = 28) && decide (3 < v.vb.toNat))
  else if 32 ≤ op ∧ op ≤ 35 then decide (4 < b.vm.nfmt.toNat) || decide (b.vm.sat = 3)
  else true

/-- A scalar slot raises OPCODE at decode (R108, R109, R111). -/
def Bundle.sBad (b : Bundle) (loops : Nat) : Bool :=
  decide (24 < b.sOp) || (decide (b.sOp = 21) && decide (4 < b.imm % 8))
    || (decide (b.sOp = 20) && (decide (b.imm % 1024 = 0) || decide (2 ≤ loops)))

/-- Sign extension of an immediate to 32 bits (R109). -/
def sext18 (i : Nat) : W32 := BitVec.signExtend 32 (BitVec.ofNat 18 i)

/-! ## Matrix sequences -/

/-- A field of a descriptor given as words. -/
def wf (ws : List W64) (word lo w : Nat) : Nat := bf (ws.getD word 0).toNat lo w

/-! Fields of the sequence descriptor (R66). -/
def sqAFmt (d : List W64) : Nat := wf d 0 0 4
def sqBFmt (d : List W64) : Nat := wf d 0 4 4
def sqSparse (d : List W64) : Bool := decide (wf d 0 8 1 = 1)
def sqAdd (d : List W64) : Bool := decide (wf d 0 9 1 = 1)
def sqPairs (d : List W64) : Nat := wf d 0 12 12
def sqN (d : List W64) : Nat := wf d 0 24 8
def sqM (d : List W64) : Nat := wf d 0 32 8
/-- Base, lane stride and block stride of A (word 1) or B (word 2); base, row and column-block stride of C (word 3). -/
def sqTri (d : List W64) (word : Nat) : Nat × Nat × Nat := (wf d word 0 18, wf d word 18 18, wf d word 36 18)
def sqCM (d : List W64) : Nat := wf d 4 0 18
/-- Base and block stride of the A scales (word 5) or the B scales (word 6). -/
def sqPair (d : List W64) (word : Nat) : Nat × Nat := (wf d word 0 18, wf d word 18 18)

/-- The class of a format code (R42, R67): 0 F8, 1 MX8, 2 MX4, 3 MXI, 4 H16, 5 I8; 6 for a reserved code. -/
def fmtClass (c : Nat) : Nat :=
  if c ≤ 1 then 0 else if c ≤ 5 then 1 else if c = 6 then 2 else if c = 7 then 3 else if c ≤ 9 then 4 else if c = 10 then 5 else 6

/-- The class carries MX scales. -/
def isMx (cls : Nat) : Bool := decide (1 ≤ cls) && decide (cls ≤ 3)

/-- Dot width (R42). -/
def dotWidth (cls : Nat) : Nat := if cls = 2 then 8 else if cls = 4 then 2 else 4

/-- Bits of an element in an operand word (R43). -/
def elemBits (cls : Nat) : Nat := if cls = 2 then 4 else if cls = 4 then 16 else 8

/-- Steps in a K-block (R42). -/
def stepsPerKBlock (cls : Nat) (sparse : Bool) : Nat := 32 / (dotWidth cls * if sparse then 2 else 1)

/-- Steps of a block (R66). -/
def sqSteps (d : List W64) : Nat := 2 * sqPairs d

/-- Words in a lane (R71). -/
def sqWords (d : List W64) : Nat := if sqSparse d then 2 * sqPairs d else sqPairs d

/-- Lane offset of A row `r` (R49). -/
def aOff (sparse : Bool) (r : Nat) : Nat := if sparse then 2 * r else r

/-- Lanes of B: number and offset of lane `j` (R49). -/
def bLanes (cls : Nat) (sparse : Bool) : Nat := if sparse then 8 + dotWidth cls / 2 else 16
def bOff (sparse : Bool) (j : Nat) : Nat := if sparse then 8 + 2 * j else 16 + j

/-- A range that a slot names or places: its slot, base, bytes, access, scoreboard role (R117, R120), and whether it is
placed. -/
structure Rng where
  slot : Nat
  base : Nat
  len : Nat
  acc : Nat
  role : Nat
  placed : Bool
deriving DecidableEq, Repr

/-- The ranges of a sequence (R70): the bounding ranges of what R49, R56 and R59 address. -/
def sqRanges (d : List W64) : List Rng :=
  let sp := sqSparse d
  let cls := fmtClass (sqAFmt d)
  let w := sqWords d
  let (ab, al, am) := sqTri d 1
  let (bb, bl, bn) := sqTri d 2
  let (cb, cr, cn) := sqTri d 3
  let kb := sqSteps d / stepsPerKBlock cls sp
  let jl := bLanes cls sp - 1
  let b0 := bb + 8 * bOff sp 0
  let (sa, sam) := sqPair d 5
  let (sb, sbn) := sqPair d 6
  [⟨0, ab, (sqM d - 1) * am + 7 * al + 8 * (aOff sp 7 + w), 1, 0, true⟩,
   ⟨0, b0, bb + (sqN d - 1) * bn + jl * bl + 8 * (bOff sp jl + w) - b0, 1, 1, true⟩]
  ++ (if isMx cls then
       [⟨0, sa, (sqM d - 1) * sam + 8 * kb, 1, 2, true⟩, ⟨0, sb, (sqN d - 1) * sbn + 16 * kb, 1, 3, true⟩] else [])
  ++ [⟨0, cb, (sqM d - 1) * sqCM d + (sqN d - 1) * cn + 7 * cr + 64, if sqAdd d then 3 else 2, 4, true⟩]

/-- A sequence breaks a condition of R71 that is detected at acceptance. -/
def sqBad (d : List W64) : Bool :=
  let cls := fmtClass (sqAFmt d)
  let (ab, al, am) := sqTri d 1
  let (bb, bl, bn) := sqTri d 2
  let (cb, cr, cn) := sqTri d 3
  let (sa, sam) := sqPair d 5
  let (sb, sbn) := sqPair d 6
  let rs := sqRanges d
  decide (cls = 6) || decide (fmtClass (sqBFmt d) ≠ cls)
    || decide (sqPairs d = 0) || decide (sqN d = 0) || decide (sqM d = 0)
    || (isMx cls && decide (sqSteps d % stepsPerKBlock cls (sqSparse d) ≠ 0))
    || [ab, al, am, bb, bl, bn].any (fun v => decide (v % 256 ≠ 0))
    || [cb, cr, cn, sqCM d].any (fun v => decide (v % 64 ≠ 0))
    || (isMx cls && [sa, sam, sb, sbn].any (fun v => decide (v % 8 ≠ 0)))
    || decide (al < 8 * sqWords d) || decide (bl < 8 * sqWords d)
    || rs.any (fun r => decide (spdSize < r.base + r.len))
    || (match rs.reverse with
        | c :: os => os.any fun r => overlap c.base c.len r.base r.len
        | [] => false)

/-! ## Chain heads (R183) -/

def hdN (h : List W64) : Nat := wf h 0 0 8
def hdHasRd (h : List W64) : Bool := decide (wf h 0 8 1 = 1)
def hdHasWr (h : List W64) : Bool := decide (wf h 0 9 1 = 1)
def hdRdBase (h : List W64) : Nat := wf h 0 16 18
def hdRdLen (h : List W64) : Nat := wf h 0 34 18
def hdWrBase (h : List W64) : Nat := wf h 1 0 18
def hdWrLen (h : List W64) : Nat := wf h 1 18 18
def hdCmplAddr (h : List W64) : Nat := wf h 1 36 18
def hdCmplEn (h : List W64) : Bool := decide (wf h 1 54 1 = 1)

/-- The ranges a chain places (R118, R184). -/
def hdRanges (h : List W64) : List Rng :=
  (if hdHasRd h then [⟨1, hdRdBase h, hdRdLen h + 1, 1, 0, true⟩] else [])
  ++ (if hdHasWr h then [⟨1, hdWrBase h, hdWrLen h + 1, 2, 1, true⟩] else [])

/-- A range lies inside another. -/
def inside (a n b m : Nat) : Bool := decide (b ≤ a) && decide (a + n ≤ b + m)

/-- A chain head breaks a condition of R184; `instr` is the instruction region. -/
def hdBad (h : List W64) (head : Nat) (instr : Nat × Nat) : Bool :=
  decide (hdN h = 0)
    || (hdRanges h).any (fun r => decide (spdSize < r.base + r.len))
    || decide (spdSize < head + 64 * (hdN h + 1))
    || (hdCmplEn h && (decide (hdCmplAddr h % 8 ≠ 0)
         || !(hdHasWr h && inside (hdCmplAddr h) 8 (hdWrBase h) (hdWrLen h + 1))))
    || (List.range (hdN h)).any (fun i => !(inside (head + 64 * (1 + i)) 64 instr.1 instr.2
         || (hdHasRd h && inside (head + 64 * (1 + i)) 64 (hdRdBase h) (hdRdLen h + 1))))

/-! ## Fetch descriptors (R187 to R190) -/

def dOp (d : List W64) : Nat := wf d 0 0 4
def dXform (d : List W64) : Nat := wf d 0 4 4
def dWait (d : List W64) : Bool := decide (wf d 0 8 1 = 1)
def dLastUse (d : List W64) : Bool := decide (wf d 0 9 1 = 1)
def dScent (d : List W64) : Bool := decide (wf d 0 10 1 = 1)
def dNear (d : List W64) : Bool := decide (wf d 0 11 1 = 1)
def dCollar (d : List W64) : Nat := wf d 0 12 4
def dEtype (d : List W64) : Nat := wf d 0 16 3
def dDoorbell (d : List W64) : Bool := decide (wf d 0 19 1 = 1)
def dXfmt (d : List W64) : Nat := wf d 0 20 4
def dStair (d : List W64) : Nat := wf d 0 24 2
def dSlot (d : List W64) : Nat := wf d 0 26 3
def dRun (d : List W64) : Nat := wf d 0 32 16 + 1
def dSrc (d : List W64) : Nat := (d.getD 1 0).toNat
def dDst (d : List W64) : Nat := (d.getD 2 0).toNat
def dN1 (d : List W64) : Nat := wf d 3 0 16 + 1
def dN2 (d : List W64) : Nat := wf d 3 16 16 + 1
def dN3 (d : List W64) : Nat := wf d 3 32 16 + 1
def dSide (d : List W64) : Nat := 8 * wf d 3 48 15
/-- Signed strides of source and destination, by dimension 1 to 3. -/
def dSrcS (d : List W64) (k : Nat) : Int :=
  sint 32 (match k with | 1 => wf d 4 0 32 | 2 => wf d 4 32 32 | _ => wf d 5 0 32)
def dDstS (d : List W64) (k : Nat) : Int :=
  sint 32 (match k with | 1 => wf d 5 32 32 | 2 => wf d 6 0 32 | _ => wf d 6 32 32)
/-- The remote window word (R190): word 7, or word 4 for CALL's return window. -/
def dWin (d : List W64) : W64 := d.getD 7 0
def dRetWin (d : List W64) : W64 := d.getD 4 0

/-! Fields of a remote window word (R190). -/
def rwModule (w : W64) : Nat := bf w.toNat 0 14
def rwKind (w : W64) : Nat := bf w.toNat 14 1
def rwGen (w : W64) : Nat := bf w.toNat 16 8
def rwIdx (w : W64) : Nat := if rwKind w = 1 then bf w.toNat 24 2 else bf w.toNat 24 10
def rwTile (w : W64) : Nat := bf w.toNat 34 15

/-! Fields of a tile endpoint (R189). -/
def epOff (e : Nat) : Nat := bf e 0 18
def epX (e : Nat) : Nat := bf e 18 8
def epY (e : Nat) : Nat := bf e 26 8
def epStream (e : Nat) : Nat := bf e 34 4
def epVia (e : Nat) : Bool := bit e 38

end Sys2Proof.Machine
end

