-- ==== Sys2Proof/Machine/Issue.lean ====
section
/-! DEFINITION. The issue of bundles (R104, R110, R111, R117 to R121, R700, R705): the bundle at a tile's pc, its faults at decode,
its waits, its faults at the cycle of issue, and what happens when its last slot has executed. The slots of one bundle execute in
the order matrix, fetch, vector, scalar, each by its own command (log entry 4). -/

namespace Sys2Proof.Machine

/-! ## Scalar registers (R109) -/

/-- Read of a scalar register; s0 reads as 0. -/
def TileSt.sreg (x : TileSt) (n : Nat) : W32 := if n = 0 then 0 else tget (fun _ => 0) x.sregs n

/-- Write of a scalar register; s0 discards it. -/
def TileSt.setSreg (x : TileSt) (n : Nat) (v : W32) : TileSt :=
  if n = 0 then x else { x with sregs := tset (fun _ => 0) x.sregs n v }

/-! ## The bundle at the pc -/

/-- The bundle at a tile's pc. -/
def State.bundle (s : State) (t : Nat) : Bundle := let x := s.tile t; Bundle.ofBytes (mgets x.mem x.pc 16)

/-- The next slot of the bundle to execute. -/
def TileSt.nextSlot (x : TileSt) (b : Bundle) : Option Nat := (b.acting.filter fun k => !bit x.done k).head?

/-- A tile may consider a bundle: state Run, run set, not ended, the compute partition in service (R554) and not idle (R578), its bay powered
(R576), and the guard not stopping issue (R573). -/
def State.canIssue (s : State) (t : Nat) : Bool :=
  s.running t && s.on (F.tileCtrlRun t) && !(s.tile t).ended && decide (s.rd F.bootPartCompute = 1)
    && decide (s.rd F.pwrmWakeTolCurrent = 0) && !s.bayGated (bayOf t) && decide (s.rd F.pwrmGuardAction ≠ 2)

/-- Bundle fetch: a bundle outside the instruction region raises RANGE and one with an uncorrectable word POISON, in slot 5
(R112, R133, R145, R173). -/
def State.fetchFault (s : State) (t : Nat) (errs : List SpdErr) : State × Option TFault :=
  let pc := (s.tile t).pc
  if !s.inInstr t pc 16 then (s, some ⟨cRANGE, 5, pc⟩)
  else
    let (s, bs) := s.spdRead t pc 16 5 errs
    match bs.findIdx? (·.p) with
    | some i => (s, some ⟨cPOISON, 5, (pc + i) / 8 * 8⟩)
    | none => (s, none)

/-! ## What the slots name -/

/-- Scratchpad address of the sequence descriptor that the matrix slot names. -/
def mAddr (x : TileSt) (b : Bundle) : Nat := if b.mByReg then (x.sreg (b.mDesc % 32)).toNat else b.mDesc * 64

/-- The fetch slot acts as a START. -/
def Bundle.fStart (b : Bundle) : Bool := b.fGo && decide (b.fOp ≤ 1)

/-- Scratchpad address of the chain head that a START names. -/
def fAddr (x : TileSt) (b : Bundle) : Nat := if b.fOp = 1 then (x.sreg (b.fDesc % 32)).toNat else b.fDesc * 64

/-- A vector slot in the memory form. -/
def Bundle.vMem (b : Bundle) : Bool := decide (32 ≤ b.vOp) && decide (b.vOp ≤ 35)

/-- Address of a vector memory access (R116): the field off without a sign, and the sum modulo 2³² (DEDUCED, log entry 15). -/
def vAddr (x : TileSt) (v : VM) : Nat := (x.sreg v.rs.toNat + BitVec.ofNat 32 (8 * v.off.toNat)).toNat

/-- Bytes of an element of a VLDW or VSTN format code (R107). -/
def nfmtBytes (n : Nat) : Nat := if n ≤ 1 then 2 else 1

/-- Bytes of a vector memory access (R116). -/
def vLen (op : Nat) (v : VM) : Nat := if op ≤ 33 then 256 else 64 * nfmtBytes v.nfmt.toNat

/-- Address of LW and SW (R109). -/
def sAddr (x : TileSt) (b : Bundle) : Nat := (x.sreg b.sa + sext18 b.imm).toNat

/-- The scalar slot is a memory access. -/
def Bundle.sMem (b : Bundle) : Bool := decide (b.sOp = 15) || decide (b.sOp = 16)

/-- Target of the scalar slot's branch, in bundles from this one (R109), as an integer byte address. -/
def sTarget (x : TileSt) (b : Bundle) : Int := (x.pc : Int) + 16 * sint 18 b.imm

/-- The scalar slot takes a branch or a jump. -/
def sTaken (x : TileSt) (b : Bundle) : Bool :=
  decide (b.sOp = 19) || (decide (b.sOp = 17) && decide (x.sreg b.sa = 0)) || (decide (b.sOp = 18) && decide (x.sreg b.sa ≠ 0))

/-- The descriptor ranges that a matrix slot and a START name (R120). -/
def namedDescs (x : TileSt) (b : Bundle) : List Rng :=
  (if b.mGo then [⟨0, mAddr x b, 64, 1, 5, false⟩] else []) ++ (if b.fStart then [⟨1, fAddr x b, 64, 1, 5, false⟩] else [])

/-- The ranges of the bundle's scalar and vector memory accesses (R120). A vector slot that raises OPCODE names none. -/
def namedAccess (x : TileSt) (b : Bundle) : List Rng :=
  (if b.vMem && !b.vBad then [Rng.mk 2 (vAddr x b.vm) (vLen b.vOp b.vm) (if b.vOp % 2 = 0 then 1 else 2) 5 false] else [])
  ++ (if b.sMem then [Rng.mk 3 (sAddr x b) 4 (if b.sOp = 15 then 1 else 2) 5 false] else [])

/-- A scoreboard entry conflicts with a range (R120). -/
def SbEntry.conflicts (e : SbEntry) (r : Rng) : Bool :=
  overlap e.base (e.lenM1 + 1) r.base r.len && (writes e.acc || writes r.acc)
    && !(decide (r.slot = 0) && decide (r.role = 4) && decide (e.owner = 0) && decide (e.role = 4))

/-- Two ranges of different slots conflict (R120, R121). -/
def Rng.clashes (r q : Rng) : Bool :=
  decide (q.slot ≠ r.slot) && overlap q.base q.len r.base r.len && (writes q.acc || writes r.acc)

/-- The slots whose ranges conflict with one of a higher slot (R121), lowest first: each such pair raises BUNDLE in its lower slot
(DESIGN CHOICE, log entry 71). -/
def clash (rs : List Rng) : List Nat :=
  (List.range 4).filter fun k => rs.any fun r => decide (r.slot = k) && rs.any fun q => decide (k < q.slot) && r.clashes q

/-! ## Faults -/

/-- OPCODE faults (R108, R111, R114): the lowest slot first. -/
def opcodeFaults (x : TileSt) (b : Bundle) : List TFault :=
  (if b.fGo && decide (b.fOp = 3) then [TFault.mk cOPCODE 1 0] else [])
  ++ (if b.vBad then [TFault.mk cOPCODE 2 0] else [])
  ++ (if b.sBad x.loops.length then [TFault.mk cOPCODE 3 0] else [])

/-- A fault put among others in the order of their slots. -/
def TFault.among (f : TFault) : List TFault → List TFault
  | [] => [f]
  | g :: r => if f.slot ≤ g.slot then f :: g :: r else g :: f.among r

/-- Faults at decode (R700) of a bundle whose slots name or place the ranges `rs`: OPCODE, and BUNDLE where ranges conflict (R121); the
lowest slot first. -/
def faultsAt (x : TileSt) (b : Bundle) (rs : List Rng) : List TFault :=
  (clash rs).foldl (fun fs k => (TFault.mk cBUNDLE k 0).among fs) (opcodeFaults x b)

/-- Faults at decode that need no descriptor. -/
def decodeFaults (x : TileSt) (b : Bundle) : List TFault := faultsAt x b (namedDescs x b ++ namedAccess x b)

/-- What reading a 64-byte descriptor finds: its words, or the fault. -/
def State.readDesc (s : State) (t a slot : Nat) (errs : List SpdErr) : State × (List W64 ⊕ TFault) :=
  if !s.spdAllowed t a 64 ownRead then (s, .inr ⟨cRANGE, slot, a % 2 ^ 18⟩)
  else
    let (s, bs) := s.spdRead t a 64 0 errs
    match bs.findIdx? (·.p) with
    | some i => (s, .inr ⟨cPOISON, slot, (a + i) / 8 * 8⟩)
    | none => (s, .inl (leWords 8 (bs.map (·.b))))

/-- What a slot's descriptor gives its bundle: its words once they can be read, which place ranges also where a check then fails
(R120, R700; log entry 71), and the fault of the checks. -/
structure Prep where
  words : Option (List W64)
  fault : Option TFault
deriving DecidableEq, Repr

/-- A slot without a descriptor. -/
def Prep.none_ : Prep := ⟨none, none⟩

/-- A descriptor as read, with what a check of its words finds. -/
def Prep.ofRead (r : List W64 ⊕ TFault) (check : List W64 → Option TFault) : Prep :=
  match r with
  | .inl d => ⟨some d, check d⟩
  | .inr f => ⟨none, some f⟩

/-- A sequence descriptor, checked as R66, R71 and R146 state. -/
def State.prepSeq (s : State) (t a : Nat) (errs : List SpdErr) : State × Prep :=
  if a % 64 ≠ 0 then (s, ⟨none, some ⟨cMSEQ, 0, a % 2 ^ 18⟩⟩)
  else
    let r := s.readDesc t a 0 errs
    (r.1, .ofRead r.2 fun d =>
      if sqBad d then some ⟨cMSEQ, 0, a⟩
      else ((sqRanges d).find? fun r => !s.spdAllowed t r.base r.len (if writes r.acc then ownWrite else ownRead)).map fun r =>
        ⟨cRANGE, 0, r.base⟩)

/-- A chain head, checked as R184 states. -/
def State.prepChain (s : State) (t a : Nat) (errs : List SpdErr) : State × Prep :=
  if a % 64 ≠ 0 ∨ spdSize < a + 64 then (s, ⟨none, some ⟨cFETCH, 1, a % 2 ^ 18⟩⟩)
  else
    let r := s.readDesc t a 1 errs
    (r.1, .ofRead r.2 fun h => if hdBad h a (s.instrRegion t) then some ⟨cFETCH, 1, a⟩ else none)

/-- Faults of the vector slot at the cycle of issue (R116, R146). -/
def State.vFaults (s : State) (t : Nat) (b : Bundle) : List TFault :=
  if !b.vMem then []
  else
    let a := vAddr (s.tile t) b.vm
    if a % 8 ≠ 0 then [⟨cALIGN, 2, a % 2 ^ 18⟩]
    else if !s.spdAllowed t a (vLen b.vOp b.vm) (if b.vOp % 2 = 0 then ownRead else ownWrite) then [⟨cRANGE, 2, a % 2 ^ 18⟩]
    else []

/-- The registers that CSRW may write (R113), by page offset. -/
def csrWritable : List Nat := [0x120, 0x128, 0x130]

/-- Faults of the scalar slot at the cycle of issue (R112, R113, R146). The target of a conditional branch is tested only where the branch is taken
(DESIGN CHOICE, log entry 91). -/
def State.sFaults (s : State) (t : Nat) (b : Bundle) : List TFault :=
  let x := s.tile t
  if b.sMem then
    let a := sAddr x b
    if a % 4 ≠ 0 then [⟨cALIGN, 3, a % 2 ^ 18⟩]
    else if !s.spdAllowed t a 4 (if b.sOp = 15 then ownRead else ownWrite) then [⟨cRANGE, 3, a % 2 ^ 18⟩]
    else []
  else if sTaken x b then
    let g := sTarget x b
    if 0 ≤ g ∧ s.inInstr t g.toNat 16 then [] else [⟨cRANGE, 3, (g % 2 ^ 18).toNat⟩]
  else if b.sOp = 23 && !csrWritable.contains b.imm then [⟨cCSR, 3, 0⟩]
  else []

/-! ## The verdict on a bundle -/

/-- The array, and an engine, have nothing (WAIT, FENCE). -/
def Mtx.idle (m : Mtx) : Bool := m.running.isNone && m.queued.isNone && m.blocks.isEmpty
def Engine.idle (e : Engine) : Bool := e.running.isNone && e.queued.isNone

/-- The WAIT condition of the scalar slot holds (R109). -/
def waitHolds (x : TileSt) (c : Nat) : Bool :=
  match c with
  | 0 => x.sb.isEmpty && x.mtx.idle && x.fe0.idle && x.fe1.idle && !x.vocc
  | 1 => x.sb.all fun e => !writes e.acc
  | 2 => x.mtx.idle
  | 3 => x.fe0.idle
  | _ => x.fe1.idle

/-- What becomes of a bundle in a cycle: held with an issue event, a fault (and whether several), or issued with the sequence
descriptor and the chain head as read. -/
inductive Verdict where
  | hold (ev : Nat)
  | fault (f : TFault) (more : Bool)
  | go (seq : Option (List W64)) (head : Option (List W64))
deriving DecidableEq, Repr

/-- The first fault of a list, ordered by slot. -/
def faultsOr (fs : List TFault) (v : Verdict) : Verdict :=
  match fs with
  | [] => v
  | f :: r => .fault f (!r.isEmpty)

/-- The list of one optional element. -/
def optList {α : Type} : Option α → List α
  | some a => [a]
  | none => []

/-- The vector operation holds its unit for a second cycle (R114's occupancy 2). -/
def Bundle.occ2 (b : Bundle) : Bool := [17, 18, 19, 20, 25, 26].contains b.vOp

/-- The bundle waits for a unit: a sequence place, an engine, a FENCE, or the vector unit (R705). -/
def TileSt.unitBusy (x : TileSt) (b : Bundle) : Bool :=
  (b.mGo && x.mtx.running.isSome && x.mtx.queued.isSome)
    || (b.fStart && (x.engine b.fEngine).running.isSome && (x.engine b.fEngine).queued.isSome)
    || (b.fGo && decide (b.fOp = 2) && !(x.engine b.fEngine).idle)
    || (x.vocc && decide (b.vOp ≠ 0))

/-- A bundle in a cycle (R120, R121, R700, R705). The descriptor and the chain head are read once their own ranges wait for no
entry; the ranges they place then count with the others, for the faults at decode and for the waits. -/
def State.verdict (s : State) (t : Nat) (b : Bundle) (errs : List SpdErr) : State × Verdict :=
  let x := s.tile t
  let named := namedDescs x b ++ namedAccess x b
  if (namedDescs x b).any fun r => x.sb.any fun e => e.conflicts r then
    (s, faultsOr (decodeFaults x b) (.hold Ev.issueSbConflict))
  else
    let (s, sq) := if b.mGo then s.prepSeq t (mAddr x b) errs else (s, .none_)
    let (s, hd) := if b.fStart then s.prepChain t (fAddr x b) errs else (s, .none_)
    let placed := (match sq.words with | some d => sqRanges d | none => []) ++ (match hd.words with | some h => hdRanges h | none => [])
    match faultsAt x b (named ++ placed) with
    | f :: r => (s, .fault f (!r.isEmpty))
    | [] =>
      if (named ++ placed).any fun r => x.sb.any fun e => e.conflicts r then (s, .hold Ev.issueSbConflict)
      else if 16 < x.sb.length + placed.length then (s, .hold Ev.issueSbFull)
      else if x.unitBusy b then (s, .hold Ev.issueUnitBusy)
      else if decide (b.sOp = 21) && !waitHolds x (b.imm % 8) then (s, .hold Ev.issueWait)
      else (s, faultsOr (optList sq.fault ++ optList hd.fault ++ s.vFaults t b ++ s.sFaults t b) (.go sq.words hd.words))

/-! ## Completion of a bundle -/

/-- The loop levels that a branch to `g` leaves active (R111), innermost last. -/
def keepLoops (g : Nat) (ls : List LoopLvl) : List LoopLvl := ls.filter fun l => decide (l.first ≤ g) && decide (g ≤ l.last)

/-- Next pc after the bundle whose last byte position is `pc`, closing loop bodies that end there (R109, R110). Levels are
innermost last; `ls` is in reverse order, innermost first. -/
def closeLoops (pc : Nat) : List LoopLvl → Nat × List LoopLvl
  | [] => (pc + 16, [])
  | l :: ls =>
    if pc = l.last then
      if 1 < l.left then (l.first, { l with left := l.left - 1 } :: ls) else closeLoops pc ls
    else (pc + 16, l :: ls)

/-- The VMOVS result of a bundle lands in its scalar register. -/
def TileSt.landMovs (x : TileSt) : TileSt :=
  match x.movs with
  | some (n, v) => { x.setSreg n v with movs := none }
  | none => x

/-- The scalar slot wrote the register that a VMOVS of the same bundle writes: LW (latency 4) lands after it, MUL and CSRR
(latency 2, as VMOVS) in an order that the rules leave open (R109; log entry 16), every other operation before it. -/
def State.settleMovs (s : State) (t : Nat) (b : Bundle) : State :=
  if (s.tile t).movs.any fun m => decide (b.sd = m.1) && decide (s.rd (F.tileStatState t) ≠ stHalt) then
    if b.sOp = 15 then s.modTile t fun x => { x with movs := none }
    else if b.sOp = 9 ∨ b.sOp = 22 then
      let (v, s) := s.free
      if v % 2 = 0 then s.modTile t fun x => { x with movs := none } else s
    else s
  else s

/-- The bundle is complete: a VMOVS result lands, and the pc moves to the branch target, past a skipped loop body, to a loop's
start or to the next bundle. A LOOP with a count that is itself the last bundle of a loop's body opens its own level and closes none
(DESIGN CHOICE, log entry 102). -/
def TileSt.endBundle (x : TileSt) (b : Bundle) (halted : Bool) : TileSt :=
  let c := (x.sreg b.sa).toNat
  let x := { x.landMovs with done := 0, headWords := none }
  if halted then { x with branch := none }
  else match x.branch with
    | some g => { x with branch := none, pc := g, loops := keepLoops g x.loops }
    | none =>
      if b.sOp = 20 ∧ c ≠ 0 then
        { x with pc := x.pc + 16, loops := x.loops ++ [⟨x.pc + 16, x.pc + 16 * (b.imm % 1024), c⟩] }
      else
        let r := closeLoops (if b.sOp = 20 then x.pc + 16 * (b.imm % 1024) else x.pc) x.loops.reverse
        { x with pc := r.1, loops := r.2.reverse }

/-- A slot has executed: the bundle ends with its last slot. -/
def State.slotDone (s : State) (t k : Nat) (b : Bundle) : State :=
  let s := s.modTile t fun x => { x with done := x.done + 2 ^ k }
  if ((s.tile t).nextSlot b).isNone then
    let s := s.settleMovs t b
    s.modTile t fun x => x.endBundle b (decide (s.rd (F.tileStatState t) = stHalt))
  else s

/-- Take a verdict's fault. -/
def State.takeFault (s : State) (t : Nat) (f : TFault) (more : Bool) : State :=
  let s := s.tileFault t f 0 (s.tile t).pc
  if more then s.tileMulti t else s

/-- A bundle issues: its chain head as read is kept for its START, and an operation of occupancy 2 holds the vector unit in the next
cycle. -/
def TileSt.issued (x : TileSt) (b : Bundle) (head : Option (List W64)) : TileSt := { x with headWords := head, vocc := b.occ2 }

/-- A cycle in which the next bundle does not issue (R705): it counts its event, and the vector unit is free again. -/
def State.heldCycle (s : State) (t ev : Nat) : State := (s.bump ev (.tile t) 1).modTile t fun x => { x with vocc := false }

/-- Execute slot `k` of the bundle at a tile's pc, if it is the next to execute and `is` accepts it (log entries 2 and 4). The
first slot of a bundle takes the verdict on the whole bundle. `act` gets the bundle, its sequence descriptor and its chain
head. -/
def State.issue (s : State) (t k : Nat) (errs : List SpdErr) (is : Bundle → Bool)
    (act : Bundle → Option (List W64) → Option (List W64) → State → State) : State :=
  let x := s.tile t
  let b := s.bundle t
  if x.done ≠ 0 then
    if x.nextSlot b = some k ∧ is b = true then (act b none x.headWords s).slotDone t k b else s
  else if !s.canIssue t then s
  else
    match s.fetchFault t errs with
    | (s, some f) => s.takeFault t f false
    | (s, none) =>
      if decodeFaults x b ≠ [] ∨ (x.nextSlot b = some k ∧ is b = true) then
        match s.verdict t b errs with
        | (s, .hold ev) => s.heldCycle t ev
        | (s, .fault f more) => s.takeFault t f more
        | (s, .go sq hd) => (act b sq hd (s.modTile t fun x => x.issued b hd)).slotDone t k b
      else s

end Sys2Proof.Machine
end

