-- ==== Sys2Proof/Machine/Flags.lean ====
section
/-! DEFINITION. Flag and mode computations of the tile's units: TILE_FP_FLAGS (R89, R102), the conversion modes of R91, the
stochastic generator (R94), and the status registers that are computed from state when read (R75, R132, R179, R213, R216). -/

namespace Sys2Proof.Machine

/-! ## Exception flags (R89) -/

/-- Raise flags of TILE_FP_FLAGS; they stay set. -/
def State.raise (s : State) (t fl : Nat) : State :=
  s.setReg (R.tileFpFlags t) (s.reg (R.tileFpFlags t) ||| BitVec.ofNat 64 (fl % 64))

/-- The union of the flags of results. -/
def orFlags (rs : List FRes) : Nat := rs.foldl (fun a r => a ||| r.flags) 0

/-! ## Conversion modes (R91, R101, R107) -/

/-- The mode code in force: 0 nearest even, 1 stochastic, 2 toward zero. -/
def State.cvtCode (s : State) (t rnd : Nat) : Nat :=
  if rnd = 0 then (let c := s.rd (F.tileFpCtrlCvtRound t); if c = 3 then 0 else c) else rnd - 1

/-- The mode of an element slot; a target that allows no stochastic rounding takes nearest even (R91). -/
def modeOf (code : Nat) (srOk : Bool) (st : W32) (slot : Nat) : Round :=
  if code = 2 then .rtz else if code = 1 ∧ srOk = true then .sr (srRho st slot) else .rne

/-- The overflow behaviour in force: saturating. -/
def State.cvtSat (s : State) (t sat : Nat) : Bool :=
  if sat = 0 then s.on (F.tileFpCtrlCvtSat t) else decide (sat = 1)

/-- The generator state of a tile (R103). -/
def State.srState (s : State) (t : Nat) : W32 := BitVec.ofNat 32 (s.rd (F.tileSrStateState t))

/-- A cycle that used stochastic rounding advances the generator once (R94). An instruction uses it by its mode, also where its mask selects
no lane or no element of it rounds (DESIGN CHOICE, log entry 102). -/
def State.srAdvance (s : State) (t : Nat) (used : Bool) : State :=
  if used then s.wr (F.tileSrStateState t) (srNext (s.srState t)).toNat else s

/-! ## Status registers computed when read -/

/-- A request that holds one of its engine's 64 indices (R197): it has been sent. A near-cache lookup holds none; its line's fill does. -/
def Req.out (r : Req) : Bool := (decide (r.kind ≠ .nearFill) || r.late) && decide (r.stage ≠ .unsent)

/-- Requests of a chain in flight. -/
def State.outstanding (s : State) (t n serial : Nat) : Nat :=
  (s.reqs.filter fun r => r.out && decide (r.src = .tile t n) && decide (r.chain = serial)).length

/-- TILE_STAT (R132). -/
def State.viewStat (s : State) (t : Nat) : Nat :=
  let x := s.tile t
  s.rd (F.tileStatState t) + x.sb.length * 2 ^ 2 + b2n (!x.fe0.idle) * 2 ^ 7 + b2n (!x.fe1.idle) * 2 ^ 8
    + b2n (decide (2 ≤ x.loops.length)) * 2 ^ 9 + x.pc / 16 % 2 ^ 14 * 2 ^ 14

/-- TILE_MTX_STAT (R75). -/
def Mtx.view (m : Mtx) : Nat :=
  (if m.halted then 2 else if m.running.isSome || !m.blocks.isEmpty then 1 else 0) + b2n m.queued.isSome * 2 ^ 2
    + m.set % 2 * 2 ^ 3 + m.curM % 256 * 2 ^ 8 + m.curN % 256 * 2 ^ 16

/-- TILE_FE_STAT_n (R213); with no chain running, every field reads 0. -/
def State.viewFe (s : State) (t n : Nat) : Nat :=
  let e := (s.tile t).engine n
  match e.running with
  | none => 0
  | some c =>
    (if c.status ≠ 0 || c.halted || c.stopped then 2 else 1) + b2n e.queued.isSome * 2 ^ 2 + (c.next - 1) % 256 * 2 ^ 8
      + c.head / 64 % 2 ^ 12 * 2 ^ 16 + s.outstanding t n c.serial % 128 * 2 ^ 28

/-- TILE_SCENT_STAT (R216). -/
def TileSt.viewScent (x : TileSt) : Nat :=
  (List.range 8).foldl (fun a k => a + b2n (x.scent.any fun p => decide (p.1 = k)) * 2 ^ k) 0

/-- A register of a tile's page by its offset, 0 where there is none (R113, R461). -/
def State.tileReg (s : State) (t off : Nat) : W64 :=
  let n (v : Nat) := BitVec.ofNat 64 v
  if 0x800 ≤ off then 0
  else if off = 0x8 then n (s.viewStat t)
  else if off = 0x110 then n (s.tile t).mtx.view
  else if off = 0x250 then n ((s.reg (R.tileSpdStat t)).toNat + (s.tile t).gather.length * 2 ^ 2)
  else if off = 0x400 then n (s.viewFe t 0)
  else if off = 0x408 then n (s.viewFe t 1)
  else if off = 0x428 then n (s.tile t).viewScent
  else if 0x500 ≤ off ∧ off < 0x520 then (s.counter (ctrTile t ((off - 0x500) / 8))).sel
  else if 0x520 ≤ off ∧ off < 0x540 then s.ctrCount (ctrTile t ((off - 0x520) / 8))
  else s.reg (R.tileCtrl t + off)

end Sys2Proof.Machine
end

