-- ==== Sys2Proof/Machine/Scalar.lean ====
section
/-! DEFINITION. The scalar and control slot (R109 to R113). Every operation is one slot of the bundle at the tile's pc, executed
through `State.issue`. -/

namespace Sys2Proof.Machine

/-- Write a scalar register of a tile. -/
def State.setS (s : State) (t n : Nat) (v : W32) : State := s.modTile t fun x => x.setSreg n v

/-- The scalar slot holds operation `op` with these registers. -/
def isRRR (op : Nat) (sd sa sb : Reg) (b : Bundle) : Bool :=
  decide (b.sOp = op) && decide (b.sd = sd.toNat) && decide (b.sa = sa.toNat) && decide (b.sb = sb.toNat)
/-- The scalar slot holds operation `op` with these registers and immediate. -/
def isRRI (op : Nat) (sd sa : Reg) (imm : Imm) (b : Bundle) : Bool :=
  decide (b.sOp = op) && decide (b.sd = sd.toNat) && decide (b.sa = sa.toNat) && decide (b.imm = imm.toNat)
/-- The scalar slot holds operation `op` with this immediate. -/
def isI (op : Nat) (imm : Imm) (b : Bundle) : Bool := decide (b.sOp = op) && decide (b.imm = imm.toNat)

/-- Execute the scalar slot. -/
def State.scalar (s : State) (t : Nat) (errs : List SpdErr) (is : Bundle → Bool) (act : Bundle → State → State) : State :=
  s.issue t 3 errs is fun b _ _ s => act b s

/-- An operation of two registers. -/
def State.alu (s : State) (t op : Nat) (sd sa sb : Reg) (errs : List SpdErr) (f : W32 → W32 → W32) : State :=
  s.scalar t errs (isRRR op sd sa sb) fun _ s =>
    s.setS t sd.toNat (f ((s.tile t).sreg sa.toNat) ((s.tile t).sreg sb.toNat))

/-- An operation of a register and an immediate. -/
def State.alui (s : State) (t op : Nat) (sd sa : Reg) (imm : Imm) (errs : List SpdErr) (f : W32 → W32) : State :=
  s.scalar t errs (isRRI op sd sa imm) fun _ s => s.setS t sd.toNat (f ((s.tile t).sreg sa.toNat))

def execAdd (t : Nat) (sd sa sb : Reg) (errs : List SpdErr) (s : State) : Host.Outcome State Fault Refusal :=
  .next (s.alu t 1 sd sa sb errs fun a b => a + b)

def execSub (t : Nat) (sd sa sb : Reg) (errs : List SpdErr) (s : State) : Host.Outcome State Fault Refusal :=
  .next (s.alu t 2 sd sa sb errs fun a b => a - b)

def execAnd (t : Nat) (sd sa sb : Reg) (errs : List SpdErr) (s : State) : Host.Outcome State Fault Refusal :=
  .next (s.alu t 3 sd sa sb errs fun a b => a &&& b)

def execOr (t : Nat) (sd sa sb : Reg) (errs : List SpdErr) (s : State) : Host.Outcome State Fault Refusal :=
  .next (s.alu t 4 sd sa sb errs fun a b => a ||| b)

def execXor (t : Nat) (sd sa sb : Reg) (errs : List SpdErr) (s : State) : Host.Outcome State Fault Refusal :=
  .next (s.alu t 5 sd sa sb errs fun a b => a ^^^ b)

def execShl (t : Nat) (sd sa sb : Reg) (errs : List SpdErr) (s : State) : Host.Outcome State Fault Refusal :=
  .next (s.alu t 6 sd sa sb errs fun a b => a <<< (b.toNat % 32))

def execShr (t : Nat) (sd sa sb : Reg) (errs : List SpdErr) (s : State) : Host.Outcome State Fault Refusal :=
  .next (s.alu t 7 sd sa sb errs fun a b => a >>> (b.toNat % 32))

def execSra (t : Nat) (sd sa sb : Reg) (errs : List SpdErr) (s : State) : Host.Outcome State Fault Refusal :=
  .next (s.alu t 8 sd sa sb errs fun a b => a.sshiftRight (b.toNat % 32))

def execMul (t : Nat) (sd sa sb : Reg) (errs : List SpdErr) (s : State) : Host.Outcome State Fault Refusal :=
  .next (s.alu t 9 sd sa sb errs fun a b => a * b)

def execSlt (t : Nat) (sd sa sb : Reg) (errs : List SpdErr) (s : State) : Host.Outcome State Fault Refusal :=
  .next (s.alu t 10 sd sa sb errs fun a b => if a.slt b then 1 else 0)

def execSltu (t : Nat) (sd sa sb : Reg) (errs : List SpdErr) (s : State) : Host.Outcome State Fault Refusal :=
  .next (s.alu t 11 sd sa sb errs fun a b => if a.ult b then 1 else 0)

def execAddi (t : Nat) (sd sa : Reg) (imm : Imm) (errs : List SpdErr) (s : State) : Host.Outcome State Fault Refusal :=
  .next (s.alui t 12 sd sa imm errs fun a => a + imm.signExtend 32)

def execOri (t : Nat) (sd sa : Reg) (imm : Imm) (errs : List SpdErr) (s : State) : Host.Outcome State Fault Refusal :=
  .next (s.alui t 13 sd sa imm errs fun a => a ||| imm.zeroExtend 32)

def execLui (t : Nat) (sd : Reg) (imm : Imm) (errs : List SpdErr) (s : State) : Host.Outcome State Fault Refusal :=
  .next (s.scalar t errs (fun b => decide (b.sOp = 14) && decide (b.sd = sd.toNat) && decide (b.imm = imm.toNat))
    fun _ s => s.setS t sd.toNat (imm.zeroExtend 32 <<< 14))

/-- LW: an uncorrectable word is a fault with cause POISON (R173) and writes no register. -/
def execLw (t : Nat) (sd sa : Reg) (imm : Imm) (errs : List SpdErr) (s : State) : Host.Outcome State Fault Refusal :=
  .next (s.scalar t errs (isRRI 15 sd sa imm) fun b s =>
    let a := sAddr (s.tile t) b
    let (s, bs) := s.spdRead t a 4 0 errs
    if anyPois bs then s.tileFault t ⟨cPOISON, 3, a / 8 * 8⟩ 0 (s.tile t).pc
    else s.setS t sd.toNat (BitVec.ofNat 32 (leNat (bs.map (·.b)))))

def execSw (t : Nat) (sa sb : Reg) (imm : Imm) (errs : List SpdErr) (s : State) : Host.Outcome State Fault Refusal :=
  .next (s.scalar t errs
    (fun b => decide (b.sOp = 16) && decide (b.sa = sa.toNat) && decide (b.sb = sb.toNat) && decide (b.imm = imm.toNat))
    fun b s => s.spdWrite t (sAddr (s.tile t) b) ((leBytes 4 ((s.tile t).sreg sb.toNat).toNat).map fun v => ⟨v, false⟩) 3 0 errs)

/-- The branch that the bundle takes, if its condition holds; it costs two cycles in which no bundle issues (R110). -/
def State.branchIf (s : State) (t : Nat) (b : Bundle) : State :=
  let x := s.tile t
  if sTaken x b then (s.setTile t { x with branch := some (sTarget x b).toNat }).bump Ev.issueBranch (.tile t) 2 else s

def execBrz (t : Nat) (sa : Reg) (imm : Imm) (errs : List SpdErr) (s : State) : Host.Outcome State Fault Refusal :=
  .next (s.scalar t errs (fun b => isI 17 imm b && decide (b.sa = sa.toNat)) fun b s => s.branchIf t b)

def execBrnz (t : Nat) (sa : Reg) (imm : Imm) (errs : List SpdErr) (s : State) : Host.Outcome State Fault Refusal :=
  .next (s.scalar t errs (fun b => isI 18 imm b && decide (b.sa = sa.toNat)) fun b s => s.branchIf t b)

def execJmp (t : Nat) (imm : Imm) (errs : List SpdErr) (s : State) : Host.Outcome State Fault Refusal :=
  .next (s.scalar t errs (isI 19 imm) fun b s => s.branchIf t b)

/-- LOOP opens its level when the bundle is complete (`TileSt.endBundle`). -/
def execLoop (t : Nat) (sa : Reg) (imm : Imm) (errs : List SpdErr) (s : State) : Host.Outcome State Fault Refusal :=
  .next (s.scalar t errs (fun b => isI 20 imm b && decide (b.sa = sa.toNat)) fun _ s => s)

/-- WAIT has no effect beyond holding its bundle (`State.verdict`). -/
def execWait (t : Nat) (imm : Imm) (errs : List SpdErr) (s : State) : Host.Outcome State Fault Refusal :=
  .next (s.scalar t errs (isI 21 imm) fun _ s => s)

/-- The 32 bits that a CSRR reads, and the tile's latch of TILE_CYCLES after it (R113). A CSRR or a CSRW acts after the vector slot of its bundle: it
reads, and it replaces, the flags that the slot raises (DESIGN CHOICE, log entry 92). -/
def State.csrRead (s : State) (t off : Nat) : W32 × Option W32 :=
  let x := s.tile t
  if off % 4 ≠ 0 then (0, x.cycHi)
  else
    let v := s.tileReg t (off / 8 * 8)
    let hi := (v >>> 32).setWidth 32
    if off = 0x34 then (x.cycHi.getD hi, none)
    else if off = 0x30 then (v.setWidth 32, some hi)
    else (if off % 8 = 4 then hi else v.setWidth 32, x.cycHi)

def execCsrr (t : Nat) (sd : Reg) (imm : Imm) (errs : List SpdErr) (s : State) : Host.Outcome State Fault Refusal :=
  .next (s.scalar t errs (fun b => isI 22 imm b && decide (b.sd = sd.toNat)) fun _ s =>
    let r := s.csrRead t imm.toNat
    (s.setS t sd.toNat r.1).modTile t fun x => { x with cycHi := r.2 })

/-- The write that CSRW makes (R95, R101 to R103, R113). -/
def State.csrWrite (s : State) (t off : Nat) (v : W32) : State :=
  if off = 0x120 then s.setReg (R.tileFpCtrl t) (BitVec.ofNat 64 (v.toNat % 8))
  else if off = 0x128 then s.setReg (R.tileFpFlags t) (s.reg (R.tileFpFlags t) &&& ~~~ (BitVec.ofNat 64 (v.toNat % 64)))
  else s.setReg (R.tileSrState t) ((srLoad v).zeroExtend 64)

def execCsrw (t : Nat) (sa : Reg) (imm : Imm) (errs : List SpdErr) (s : State) : Host.Outcome State Fault Refusal :=
  .next (s.scalar t errs (fun b => isI 23 imm b && decide (b.sa = sa.toNat)) fun _ s =>
    s.csrWrite t imm.toNat ((s.tile t).sreg sa.toNat))

end Sys2Proof.Machine
end

