-- ==== Sys2Proof/Machine/Vector.lean ====
section
/-! DEFINITION. The vector slot (R114 to R116, R704; arithmetic R85 to R98). A vector register is 64 lanes of 32 bits; register
`v`, lane `l` is entry `64 v + l` of `TileSt.vregs`. -/

namespace Sys2Proof.Machine

/-! ## Registers and masks -/

/-- A lane of a vector register. -/
def TileSt.lane (x : TileSt) (v l : Nat) : W32 := tget (fun _ => 0) x.vregs (64 * v + l)

/-- The 64 lanes of a vector register. -/
def TileSt.vreg (x : TileSt) (v : Nat) : List W32 := (List.range 64).map (x.lane v)

/-- Mask register m1 to m3. -/
def TileSt.mreg (x : TileSt) (m : Nat) : W64 := tget (fun _ => 0) x.masks m

/-- A lane takes part under a mask field: 0 selects all lanes (R107). -/
def TileSt.lanesOn (x : TileSt) (m l : Nat) : Bool := decide (m = 0) || (x.mreg m).getLsbD l

/-- Write lanes of a vector register: those that `sel` selects take the new value (R114). -/
def TileSt.putLanes (x : TileSt) (v : Nat) (sel : Nat → Bool) (new : List W32) : TileSt :=
  { x with vregs := (List.range 64).foldl (fun t l => if sel l then tset (fun _ => 0) t (64 * v + l) (new.getD l 0) else t) x.vregs }

/-- Write a mask register's bits of the lanes that `sel` selects. -/
def TileSt.putMask (x : TileSt) (m : Nat) (sel : Nat → Bool) (new : Nat → Bool) : TileSt :=
  let old := x.mreg m
  let v := BitVec.ofNat 64 ((List.range 64).foldl (fun a l => if (if sel l then new l else old.getLsbD l) then a + 2 ^ l else a) 0)
  { x with masks := tset (fun _ => 0) x.masks m v }

/-! ## Lane results -/

/-- A 32-bit result with its flags. -/
structure LRes where
  v : W32
  fl : Nat
deriving DecidableEq, Repr

/-- A format's result as a lane. -/
def LRes.of (r : FRes) : LRes := ⟨BitVec.ofNat 32 r.bits, r.flags⟩

/-- Both halves of a packed BF16 lane. -/
def LRes.pack (lo hi : FRes) : LRes := ⟨BitVec.ofNat 32 (lo.bits + hi.bits * 2 ^ 16), lo.flags ||| hi.flags⟩

/-- Low and high halves of a lane. -/
def lo16 (a : W32) : Nat := a.toNat % 2 ^ 16
def hi16 (a : W32) : Nat := a.toNat / 2 ^ 16

/-- An operation on values in a format: exact result and flags, then one rounding (R85, R86). -/
def fop2 (f : Fmt) (op : FVal → FVal → FVal × Nat) (a b : Nat) : FRes :=
  let r := op (f.decode a) (f.decode b); f.result r.1 r.2
def fop3 (f : Fmt) (op : FVal → FVal → FVal → FVal × Nat) (a b c : Nat) : FRes :=
  let r := op (f.decode a) (f.decode b) (f.decode c); f.result r.1 r.2

/-- A two-operand operation of a lane by its type field: FP32, packed BF16, INT32 (R107). -/
def lane2 (typ : Nat) (op : FVal → FVal → FVal × Nat) (iop : W32 → W32 → W32) (a b : W32) : LRes :=
  if typ = 0 then .of (fop2 fmtFp32 op a.toNat b.toNat)
  else if typ = 1 then .pack (fop2 fmtBf16 op (lo16 a) (lo16 b)) (fop2 fmtBf16 op (hi16 a) (hi16 b))
  else ⟨iop a b, 0⟩

/-- A fused multiply-add of a lane. -/
def laneFma (typ : Nat) (a b c : W32) : LRes :=
  if typ = 0 then .of (fop3 fmtFp32 FVal.fma a.toNat b.toNat c.toNat)
  else .pack (fop3 fmtBf16 FVal.fma (lo16 a) (lo16 b) (lo16 c)) (fop3 fmtBf16 FVal.fma (hi16 a) (hi16 b) (hi16 c))

/-- A comparison: equal, less than, or less or equal (R704). -/
inductive Cmp where
  | eq
  | lt
  | le
deriving DecidableEq, Repr

/-- A comparison in a format with its flags: VCEQ is quiet, VCLT and VCLE signal for any NaN (R704). -/
def fcmp (c : Cmp) (f : Fmt) (a b : Nat) : Bool × Nat :=
  let x := f.decode a
  let y := f.decode b
  let anyNan := x.isNan || y.isNan
  let fl := match c with
    | .eq => sigFlag [x, y]
    | _ => if anyNan then flInvalid else 0
  (!anyNan && (match c with
    | .eq => FVal.eq x y
    | .lt => FVal.lt x y
    | .le => !FVal.lt y x), fl)

/-- A comparison of a lane by type (R704). -/
def laneCmp (c : Cmp) (typ : Nat) (a b : W32) : Bool × Nat :=
  if typ = 0 then fcmp c fmtFp32 a.toNat b.toNat
  else if typ = 1 then
    let l := fcmp c fmtBf16 (lo16 a) (lo16 b)
    let h := fcmp c fmtBf16 (hi16 a) (hi16 b)
    (l.1 && h.1, l.2 ||| h.2)
  else (match c with
    | .eq => decide (a = b)
    | .lt => a.slt b
    | .le => a.sle b, 0)

/-- Exact widening to FP32; a NaN becomes the canonical NaN (R87). -/
def widen (f : Fmt) (bits : Nat) : FRes :=
  let v := f.decode bits
  fmtFp32.result v (sigFlag [v])

/-! ## The slot -/

/-- The vector slot holds operation `op` in the compute form with these fields. -/
def isVC (op : Nat) (v : VC) (b : Bundle) : Bool := decide (b.vOp = op) && decide (b.vc = v)
/-- The vector slot holds operation `op` in the memory form with these fields. -/
def isVM (op : Nat) (v : VM) (b : Bundle) : Bool := decide (b.vOp = op) && decide (b.vm = v)

/-- Execute the vector slot. -/
def State.vector (s : State) (t : Nat) (errs : List SpdErr) (is : Bundle → Bool) (act : Bundle → State → State) : State :=
  s.issue t 2 errs is fun b _ _ s => act b s

/-- An operation lane by lane under its mask: `f` gives each lane's result; flags come from the lanes that take part. -/
def State.lanes (s : State) (t op : Nat) (v : VC) (errs : List SpdErr) (f : TileSt → Nat → LRes) : State :=
  s.vector t errs (isVC op v) fun _ s =>
    let x := s.tile t
    let rs := (List.range 64).map (f x)
    let sel := x.lanesOn v.mask.toNat
    let fl := (List.range 64).foldl (fun a l => if sel l then a ||| (rs.getD l ⟨0, 0⟩).fl else a) 0
    (s.raise t fl).modTile t fun x => x.putLanes v.vd.toNat sel (rs.map (·.v))

/-- A two-operand operation of va and vb. -/
def State.lanes2 (s : State) (t op : Nat) (v : VC) (errs : List SpdErr) (f : W32 → W32 → LRes) : State :=
  s.lanes t op v errs fun x l => f (x.lane v.va.toNat l) (x.lane v.vb.toNat l)

def execVadd (t : Nat) (v : VC) (errs : List SpdErr) (s : State) : Host.Outcome State Fault Refusal :=
  .next (s.lanes2 t 1 v errs (lane2 v.typ.toNat FVal.add fun a b => a + b))

def execVsub (t : Nat) (v : VC) (errs : List SpdErr) (s : State) : Host.Outcome State Fault Refusal :=
  .next (s.lanes2 t 2 v errs (lane2 v.typ.toNat (fun a b => FVal.add a b.neg) fun a b => a - b))

def execVmul (t : Nat) (v : VC) (errs : List SpdErr) (s : State) : Host.Outcome State Fault Refusal :=
  .next (s.lanes2 t 3 v errs (lane2 v.typ.toNat FVal.mul fun a b => a * b))

def execVfma (t : Nat) (v : VC) (errs : List SpdErr) (s : State) : Host.Outcome State Fault Refusal :=
  .next (s.lanes t 4 v errs fun x l => laneFma v.typ.toNat (x.lane v.va.toNat l) (x.lane v.vb.toNat l) (x.lane v.vc.toNat l))

def execVmin (t : Nat) (v : VC) (errs : List SpdErr) (s : State) : Host.Outcome State Fault Refusal :=
  .next (s.lanes2 t 5 v errs (lane2 v.typ.toNat (FVal.minMax false) fun a b => if a.slt b then a else b))

def execVmax (t : Nat) (v : VC) (errs : List SpdErr) (s : State) : Host.Outcome State Fault Refusal :=
  .next (s.lanes2 t 6 v errs (lane2 v.typ.toNat (FVal.minMax true) fun a b => if a.slt b then b else a))

def execVand (t : Nat) (v : VC) (errs : List SpdErr) (s : State) : Host.Outcome State Fault Refusal :=
  .next (s.lanes2 t 7 v errs fun a b => ⟨a &&& b, 0⟩)

def execVor (t : Nat) (v : VC) (errs : List SpdErr) (s : State) : Host.Outcome State Fault Refusal :=
  .next (s.lanes2 t 8 v errs fun a b => ⟨a ||| b, 0⟩)

def execVxor (t : Nat) (v : VC) (errs : List SpdErr) (s : State) : Host.Outcome State Fault Refusal :=
  .next (s.lanes2 t 9 v errs fun a b => ⟨a ^^^ b, 0⟩)

def execVshl (t : Nat) (v : VC) (errs : List SpdErr) (s : State) : Host.Outcome State Fault Refusal :=
  .next (s.lanes2 t 10 v errs fun a b => ⟨a <<< (b.toNat % 32), 0⟩)

def execVshr (t : Nat) (v : VC) (errs : List SpdErr) (s : State) : Host.Outcome State Fault Refusal :=
  .next (s.lanes2 t 11 v errs fun a b => ⟨a >>> (b.toNat % 32), 0⟩)

def execVsra (t : Nat) (v : VC) (errs : List SpdErr) (s : State) : Host.Outcome State Fault Refusal :=
  .next (s.lanes2 t 12 v errs fun a b => ⟨a.sshiftRight (b.toNat % 32), 0⟩)

/-- A compare (R114, R704): mask m(vd[1:0]); a masked-off lane keeps its bit. -/
def State.compare (s : State) (t op : Nat) (v : VC) (errs : List SpdErr) (c : Cmp) : State :=
  s.vector t errs (isVC op v) fun _ s =>
    let x := s.tile t
    let rs := (List.range 64).map fun l => laneCmp c v.typ.toNat (x.lane v.va.toNat l) (x.lane v.vb.toNat l)
    let sel := x.lanesOn v.mask.toNat
    let fl := (List.range 64).foldl (fun a l => if sel l then a ||| (rs.getD l (false, 0)).2 else a) 0
    (s.raise t fl).modTile t fun x => x.putMask (v.vd.toNat % 4) sel fun l => (rs.getD l (false, 0)).1

def execVceq (t : Nat) (v : VC) (errs : List SpdErr) (s : State) : Host.Outcome State Fault Refusal :=
  .next (s.compare t 13 v errs .eq)

def execVclt (t : Nat) (v : VC) (errs : List SpdErr) (s : State) : Host.Outcome State Fault Refusal :=
  .next (s.compare t 14 v errs .lt)

def execVcle (t : Nat) (v : VC) (errs : List SpdErr) (s : State) : Host.Outcome State Fault Refusal :=
  .next (s.compare t 15 v errs .le)

/-- VSEL: the mask field only selects, and every lane is written (R704). -/
def execVsel (t : Nat) (v : VC) (errs : List SpdErr) (s : State) : Host.Outcome State Fault Refusal :=
  .next (s.vector t errs (isVC 16 v) fun _ s => s.modTile t fun x =>
    x.putLanes v.vd.toNat (fun _ => true) ((List.range 64).map fun l =>
      if x.lanesOn v.mask.toNat l then x.lane v.va.toNat l else x.lane v.vb.toNat l))

def execVexp2 (t : Nat) (v : VC) (errs : List SpdErr) (s : State) : Host.Outcome State Fault Refusal :=
  .next (s.lanes t 17 v errs fun x l => .of (spExp2 (x.lane v.va.toNat l)))

def execVlog2 (t : Nat) (v : VC) (errs : List SpdErr) (s : State) : Host.Outcome State Fault Refusal :=
  .next (s.lanes t 18 v errs fun x l => .of (spLog2 (x.lane v.va.toNat l)))

def execVrcp (t : Nat) (v : VC) (errs : List SpdErr) (s : State) : Host.Outcome State Fault Refusal :=
  .next (s.lanes t 19 v errs fun x l => .of (spRcp (x.lane v.va.toNat l)))

def execVrsqrt (t : Nat) (v : VC) (errs : List SpdErr) (s : State) : Host.Outcome State Fault Refusal :=
  .next (s.lanes t 20 v errs fun x l => .of (spRsqrt (x.lane v.va.toNat l)))

/-- VCVTF: signed integer to FP32 under rnd; stochastic is not allowed (R91). -/
def execVcvtf (t : Nat) (v : VC) (errs : List SpdErr) (s : State) : Host.Outcome State Fault Refusal :=
  let m := modeOf (s.cvtCode t v.rnd.toNat) false 0 0
  .next (s.lanes t 21 v errs fun x l => .of (fmtFp32.convert m true (FVal.ofSigned (x.lane v.va.toNat l).toInt)))

/-- VCVTI: FP32 to a saturating signed integer under rnd (R92). -/
def execVcvti (t : Nat) (v : VC) (errs : List SpdErr) (s : State) : Host.Outcome State Fault Refusal :=
  let m := modeOf (s.cvtCode t v.rnd.toNat) false 0 0
  .next (s.lanes t 22 v errs fun x l => .of (toInt 32 m (fmtFp32.decode (x.lane v.va.toNat l).toNat)))

/-- VPKB: two FP32 lanes to one packed BF16 lane, element slots l and 64 + l (R94, R114). -/
def execVpkb (t : Nat) (v : VC) (errs : List SpdErr) (s : State) : Host.Outcome State Fault Refusal :=
  .next (s.vector t errs (isVC 23 v) fun _ s =>
    let x := s.tile t
    let code := s.cvtCode t v.rnd.toNat
    let st := s.srState t
    let sat := s.cvtSat t v.sat.toNat
    let cv (a : W32) (slot : Nat) := fmtBf16.convert (modeOf code true st slot) sat (fmtFp32.decode a.toNat)
    let rs := (List.range 64).map fun l => LRes.pack (cv (x.lane v.va.toNat l) l) (cv (x.lane v.vb.toNat l) (64 + l))
    let sel := x.lanesOn v.mask.toNat
    let fl := (List.range 64).foldl (fun a l => if sel l then a ||| (rs.getD l ⟨0, 0⟩).fl else a) 0
    ((s.raise t fl).srAdvance t (decide (code = 1))).modTile t fun x => x.putLanes v.vd.toNat sel (rs.map (·.v)))

/-- VUPK: the halves of va widen into vd (low) and vb (high). With vd and vb the same register the high halves stand (DESIGN CHOICE, log entry 93). -/
def execVupk (t : Nat) (v : VC) (errs : List SpdErr) (s : State) : Host.Outcome State Fault Refusal :=
  .next (s.vector t errs (isVC 24 v) fun _ s =>
    let x := s.tile t
    let sel := x.lanesOn v.mask.toNat
    let lo := (List.range 64).map fun l => LRes.of (widen fmtBf16 (lo16 (x.lane v.va.toNat l)))
    let hi := (List.range 64).map fun l => LRes.of (widen fmtBf16 (hi16 (x.lane v.va.toNat l)))
    let fl := (List.range 64).foldl (fun a l => if sel l then a ||| (lo.getD l ⟨0, 0⟩).fl ||| (hi.getD l ⟨0, 0⟩).fl else a) 0
    (s.raise t fl).modTile t fun x => (x.putLanes v.vd.toNat sel (lo.map (·.v))).putLanes v.vb.toNat sel (hi.map (·.v)))

/-- VMXP: two MX blocks of the format whose R67 code is the vb field (R97, R115). -/
def execVmxp (t : Nat) (v : VC) (errs : List SpdErr) (s : State) : Host.Outcome State Fault Refusal :=
  .next (s.vector t errs (isVC 25 v) fun _ s =>
    let x := s.tile t
    let fmt := v.vb.toNat
    let code := s.cvtCode t v.rnd.toNat
    let st := s.srState t
    let blk (k : Nat) := mxPack fmt ((List.range 32).map fun i => modeOf code true st (32 * k + i))
      ((List.range 32).map fun i => fmtFp32.decode (x.lane v.va.toNat (32 * k + i)).toNat)
    let b0 := blk 0
    let b1 := blk 1
    let eb := if fmt = 6 then 4 else 8
    let packed := ((b0.2 ++ b1.2).map (·.bits)).foldr (fun e a => e % 2 ^ eb + a * 2 ^ eb) 0
    let out := ((List.range 63).map fun l => BitVec.ofNat 32 (packed / 2 ^ (32 * l))) ++ [BitVec.ofNat 32 (b0.1 + b1.1 * 256)]
    let nan := decide (b0.1 = 0xFF) || decide (b1.1 = 0xFF)
    let fl := orFlags b0.2 ||| orFlags b1.2 ||| (if nan then flMxNan else 0)
    ((s.raise t fl).srAdvance t (decide (code = 1))).modTile t fun x => x.putLanes v.vd.toNat (fun _ => true) out)

/-- One level of VRSUM's tree: neighbours are added, a lone input passes (R704). -/
def sumLevel (add : W32 → W32 → LRes) : List (Option W32) → List (Option W32) × Nat
  | a :: b :: r =>
    let rest := sumLevel add r
    match a, b with
    | some p, some q => let z := add p q; (some z.v :: rest.1, z.fl ||| rest.2)
    | some p, none => (some p :: rest.1, rest.2)
    | none, o => (o :: rest.1, rest.2)
  | [a] => ([a], 0)
  | [] => ([], 0)

/-- The tree's levels. -/
def sumTree (add : W32 → W32 → LRes) : Nat → List (Option W32) → List (Option W32) × Nat
  | 0, vs => (vs, 0)
  | n + 1, vs => let r := sumLevel add vs; let q := sumTree add n r.1; (q.1, r.2 ||| q.2)

/-- VRSUM. -/
def execVrsum (t : Nat) (v : VC) (errs : List SpdErr) (s : State) : Host.Outcome State Fault Refusal :=
  .next (s.vector t errs (isVC 26 v) fun _ s =>
    let x := s.tile t
    let vs := (List.range 64).map fun l => if x.lanesOn v.mask.toNat l then some (x.lane v.va.toNat l) else none
    let r := sumTree (lane2 v.typ.toNat FVal.add fun a b => a + b) 6 vs
    let top := (r.1.headD none).getD 0
    (s.raise t r.2).modTile t fun x => x.putLanes v.vd.toNat (fun _ => true) (top :: List.replicate 63 0))

/-- VBCS: the scalar register va + 16 × vb[0] in every lane. -/
def execVbcs (t : Nat) (v : VC) (errs : List SpdErr) (s : State) : Host.Outcome State Fault Refusal :=
  .next (s.lanes t 27 v errs fun x _ => ⟨x.sreg (v.va.toNat + 16 * (v.vb.toNat % 2)), 0⟩)

/-- VMOVS: the lane 16 × vb[1:0] + vc of va goes to scalar register vd + 16 × type[0], when the bundle is complete. -/
def execVmovs (t : Nat) (v : VC) (errs : List SpdErr) (s : State) : Host.Outcome State Fault Refusal :=
  .next (s.vector t errs (isVC 28 v) fun _ s => s.modTile t fun x =>
    { x with movs := some (v.vd.toNat + 16 * (v.typ.toNat % 2), x.lane v.va.toNat (16 * (v.vb.toNat % 4) + v.vc.toNat)) })

/-! ## Memory forms (R116) -/

/-- The format of a VLDW or VSTN code; INT8 has none. -/
def nfmtOf : Nat → Option Fmt
  | 0 => some fmtBf16
  | 1 => some fmtFp16
  | 2 => some fmtE4m3
  | 3 => some fmtE5m2
  | _ => none

/-- Exact widening of an element of a VLDW to FP32. -/
def nWiden (n bits : Nat) : FRes :=
  match nfmtOf n with
  | some f => widen f bits
  | none => fmtFp32.result (FVal.ofSigned (sint 8 bits)) 0

/-- Narrowing of an FP32 lane to an element of a VSTN (R91, R92). -/
def nNarrow (n code : Nat) (sat : Bool) (st : W32) (slot : Nat) (a : W32) : FRes :=
  let v := fmtFp32.decode a.toNat
  match nfmtOf n with
  | some f => f.convert (modeOf code (decide (n ≠ 1)) st slot) sat v
  | none => toInt 8 (modeOf code false st slot) v

/-- A vector load: lanes of `eb` bytes through `f` (R116, R173). -/
def State.vload (s : State) (t op : Nat) (v : VM) (errs : List SpdErr) (eb : Nat) (f : Nat → FRes) : State :=
  s.vector t errs (isVM op v) fun b s =>
    let a := vAddr (s.tile t) v
    let (s, bs) := s.spdRead t a (vLen b.vOp v) 0 errs
    match bs.findIdx? (·.p) with
    | some i => s.tileFault t ⟨cPOISON, 2, (a + i) / 8 * 8⟩ 0 (s.tile t).pc
    | none =>
      let rs := (List.range 64).map fun l => f (leNat (((bs.drop (eb * l)).take eb).map (·.b)))
      let sel := (s.tile t).lanesOn v.mask.toNat
      let fl := (List.range 64).foldl (fun c l => if sel l then c ||| (rs.getD l ⟨0, 0⟩).flags else c) 0
      (s.raise t fl).modTile t fun x => x.putLanes v.vreg.toNat sel (rs.map fun r => BitVec.ofNat 32 r.bits)

def execVld (t : Nat) (v : VM) (errs : List SpdErr) (s : State) : Host.Outcome State Fault Refusal :=
  .next (s.vload t 32 v errs 4 fun n => ⟨n, 0⟩)

def execVldw (t : Nat) (v : VM) (errs : List SpdErr) (s : State) : Host.Outcome State Fault Refusal :=
  .next (s.vload t 34 v errs (nfmtBytes v.nfmt.toNat) (nWiden v.nfmt.toNat))

/-- The runs of lanes below a bound that `sel` selects, the last first: first lane and lanes. -/
def laneRuns (sel : Nat → Bool) : Nat → List (Nat × Nat)
  | 0 => []
  | n + 1 =>
    let r := laneRuns sel n
    if sel n then match r with
      | (a, k) :: rest => if a + k = n then (a, k + 1) :: rest else (n, 1) :: r
      | [] => [(n, 1)]
    else r

/-- A vector store of lanes of `eb` bytes: the bytes of the unmasked lanes (R116, R147). -/
def State.vstore (s : State) (t : Nat) (v : VM) (eb : Nat) (es : List Nat) (errs : List SpdErr) : State :=
  let x := s.tile t
  let a := vAddr x v
  ((laneRuns (x.lanesOn v.mask.toNat) 64).reverse).foldl (fun s r =>
    s.spdWrite t (a + eb * r.1) (((es.drop r.1).take r.2).flatMap fun e => (leBytes eb e).map fun b => ⟨b, false⟩) 3 0 errs) s

def execVst (t : Nat) (v : VM) (errs : List SpdErr) (s : State) : Host.Outcome State Fault Refusal :=
  .next (s.vector t errs (isVM 33 v) fun _ s => s.vstore t v 4 (((s.tile t).vreg v.vreg.toNat).map (·.toNat)) errs)

/-- VSTN: 64 lanes narrowed under rnd and sat. -/
def execVstn (t : Nat) (v : VM) (errs : List SpdErr) (s : State) : Host.Outcome State Fault Refusal :=
  .next (s.vector t errs (isVM 35 v) fun _ s =>
    let x := s.tile t
    let n := v.nfmt.toNat
    let code := s.cvtCode t v.rnd.toNat
    let st := s.srState t
    let sat := s.cvtSat t v.sat.toNat
    let rs := (List.range 64).map fun l => nNarrow n code sat st l (x.lane v.vreg.toNat l)
    let sel := x.lanesOn v.mask.toNat
    let fl := (List.range 64).foldl (fun a l => if sel l then a ||| (rs.getD l ⟨0, 0⟩).flags else a) 0
    (((s.raise t fl).srAdvance t (decide (code = 1) && [0, 2, 3].contains n)).vstore t v (nfmtBytes n) (rs.map (·.bits)) errs))

end Sys2Proof.Machine
end

