-- ==== Sys2Proof/Machine/Matrix.lean ====
section
/-! DEFINITION. The matrix array (spec/02_matrix_array.md). A sequence is accepted by its bundle; BLOCK_START reads the operands of
one block and forms its results and tally values; ROW_DRAIN checks and writes one row. At most two blocks have rows to drain, one
per accumulator set (R41). -/

namespace Sys2Proof.Machine

/-- The entries that ranges place (R117). -/
def entriesOf (rs : List Rng) (owner serial pc : Nat) : List SbEntry :=
  rs.map fun r => ⟨r.base, r.len - 1, r.acc, owner, serial, r.role, pc⟩

/-- Accept a sequence: it runs, or waits for the running one (R69, R70). -/
def TileSt.acceptSeq (x : TileSt) (d : List W64) : TileSt :=
  let q : Seq := ⟨d, x.serial, 0, 0, x.pc⟩
  { x with serial := x.serial + 1, sb := x.sb ++ entriesOf (sqRanges d) 0 x.serial x.pc,
           mtx := if x.mtx.running.isNone then { x.mtx with running := some q } else { x.mtx with queued := some q } }

def execMatrixSequenceStart (t : Nat) (errs : List SpdErr) (s : State) : Host.Outcome State Fault Refusal :=
  .next (s.issue t 0 errs (·.mGo) fun _ sq _ s =>
    match sq with
    | some d => s.modTile t fun x => x.acceptSeq d
    | none => s)

/-! ## Operands of a block -/

/-- Elements of `eb` bits, in ascending order from bit 0 of the first byte (R43). -/
def elements (eb : Nat) (bs : List Byte) : List Nat :=
  if eb = 4 then bs.flatMap fun b => [b.toNat % 16, b.toNat / 16]
  else if eb = 16 then (List.range (bs.length / 2)).map fun i => (bs.getD (2 * i) 0).toNat + 256 * (bs.getD (2 * i + 1) 0).toNat
  else bs.map (·.toNat)

/-- One field of 2:4 metadata as a list of group positions (R54). -/
def metaGroups (d field : Nat) : List (Nat × Nat) :=
  (List.range (d / 2)).map fun g => (bf field (4 * g) 2, bf field (4 * g + 2) 2)

/-- Expand a column's kept values to their logical positions, with `z` elsewhere (R54, R61). -/
def expandGroups {α : Type} (z : α) : List (Nat × Nat) → List α → List α
  | [], _ => []
  | (lo, hi) :: gs, v :: w :: vs =>
    ((List.range 4).map fun i => if i = lo then v else if i = hi then w else z) ++ expandGroups z gs vs
  | _ :: gs, vs => List.replicate 4 z ++ expandGroups z gs vs

/-- What the array reads for one block: elements of the 8 rows of A, and of the 16 columns of B at their logical positions with
`none` where a sparse column keeps nothing; the scales by K-block. -/
structure BlockIn where
  a : List (List FVal)
  b : List (List (Option FVal))
  sa : List (List Nat)
  sb : List (List Nat)
deriving DecidableEq, Repr

/-- Scratchpad address of word `w` of row `r`'s lane of A, in block row `mb` (R49). -/
def aWord (d : List W64) (mb r w : Nat) : Nat := let (ab, al, am) := sqTri d 1; ab + mb * am + r * al + 8 * (aOff (sqSparse d) r + w)

/-- Scratchpad address of word `w` of lane `j` of B, in block column `nb` (R49). -/
def bWord (d : List W64) (nb j w : Nat) : Nat := let (bb, bl, bn) := sqTri d 2; bb + nb * bn + j * bl + 8 * (bOff (sqSparse d) j + w)

/-- Scratchpad addresses of the scales of K-block `k` for the rows and for the columns of a block (R56). -/
def saWord (d : List W64) (mb k : Nat) : Nat := (sqPair d 5).1 + mb * (sqPair d 5).2 + 8 * k
def sbWord (d : List W64) (nb k : Nat) : Nat := (sqPair d 6).1 + nb * (sqPair d 6).2 + 16 * k

/-- The words that a block reads in cycle `u` after its start (R49): rows of A, lanes of B, then the scales of a K-block, which the model
reads in the cycle of the K-block's first step (R56 reads them ahead by an amount it leaves open: DESIGN CHOICE, log entry 71). -/
def cycleWords (d : List W64) (mb nb u : Nat) : List Nat :=
  let sp := sqSparse d
  let cls := fmtClass (sqAFmt d)
  let w := sqWords d
  let per := stepsPerKBlock cls sp
  ((List.range 8).filterMap fun r =>
    if u < r then none
    else if sp then (if u - r < w then some (aWord d mb r (u - r)) else none)
    else if (u - r) % 2 = 0 ∧ (u - r) / 2 < w then some (aWord d mb r ((u - r) / 2)) else none)
  ++ (if u % 2 = 0 ∧ u < sqSteps d then
       (List.range (bLanes cls sp)).flatMap fun j => if sp then [bWord d nb j u, bWord d nb j (u + 1)] else [bWord d nb j (u / 2)]
     else [])
  ++ (if isMx cls ∧ u < sqSteps d ∧ u % per = 0 then [saWord d mb (u / per), sbWord d nb (u / per), sbWord d nb (u / per) + 8] else [])

/-- A column's metadata field for a step, as the scratchpad holds it (R54). -/
def TileSt.metaField (x : TileSt) (d : List W64) (nb c k : Nat) : Nat :=
  let dw := dotWidth (fmtClass (sqAFmt d))
  bf (leNat (mgets x.mem (bWord d nb (8 + c / (32 / dw)) k) 8)) (2 * dw * (c % (32 / dw))) (2 * dw)

/-- Address of the metadata word of step `k` that breaks R54, for the first column whose field does. -/
def TileSt.metaBad (x : TileSt) (d : List W64) (nb k : Nat) : Option Nat :=
  let dw := dotWidth (fmtClass (sqAFmt d))
  if sqSparse d && decide (k < sqSteps d) then
    ((List.range 16).find? fun c => (metaGroups dw (x.metaField d nb c k)).any fun g => decide (g.2 ≤ g.1)).map fun c =>
      bWord d nb (8 + c / (32 / dw)) k
  else none

/-- What stops a block: the cycle after its start, the cause and the address of the fault. -/
structure BlockStop where
  cycle : Nat
  cause : Nat
  addr : Nat
deriving DecidableEq, Repr

/-- Read words of one cycle; the first of them that reads poison. -/
def State.readWords (s : State) (t : Nat) (errs : List SpdErr) : List Nat → State × Option Nat
  | [] => (s, none)
  | a :: r =>
    let q := s.spdRead t a 8 0 errs
    let z := State.readWords q.1 t errs r
    (z.1, if anyPois q.2 then some (a / 8 * 8) else z.2)

/-- The reads of a block from cycle `u` on, until one of them is poisoned (R72) or the metadata of the step that then reaches the array breaks
R54. Of several poisoned words of one cycle the fault names the first in the order of `cycleWords`; poison comes before metadata
(DESIGN CHOICE, log entry 71). -/
def State.blockReads (s : State) (t : Nat) (d : List W64) (mb nb : Nat) (errs : List SpdErr) : Nat → Nat → State × Option BlockStop
  | 0, _ => (s, none)
  | n + 1, u =>
    let r := s.readWords t errs (cycleWords d mb nb u)
    match r.2 with
    | some a => (r.1, some ⟨u, cPOISON, a⟩)
    | none =>
      match (r.1.tile t).metaBad d nb u with
      | some a => (r.1, some ⟨u, cMSEQ, a⟩)
      | none => State.blockReads r.1 t d mb nb errs n (u + 1)

/-- The operands of block (mb, nb) of a sequence as the scratchpad holds them (R49, R54, R56). -/
def TileSt.operands (x : TileSt) (d : List W64) (mb nb : Nat) : BlockIn :=
  let sp := sqSparse d
  let cls := fmtClass (sqAFmt d)
  let w := sqWords d
  let eb := elemBits cls
  let dw := dotWidth cls
  let kb := if isMx cls then sqSteps d / stepsPerKBlock cls sp else 0
  let aB := (List.range 8).map fun r => mgets x.mem (aWord d mb r 0) (8 * w)
  let bB := (List.range (bLanes cls sp)).map fun j => mgets x.mem (bWord d nb j 0) (8 * w)
  let aV := aB.map fun bs => (elements eb bs).map (elemValue (sqAFmt d))
  let val (e : Nat) := elemValue (sqBFmt d) e
  -- words of a lane whose index has parity `h`
  let half (bs : List Byte) (h : Nat) := (List.range (w / 2)).flatMap fun m => (bs.drop (8 * (2 * m + h))).take 8
  let groups (c : Nat) := (List.range (sqSteps d)).flatMap fun k => metaGroups dw (x.metaField d nb c k)
  let bV := if sp then
      (List.range 16).map fun c =>
        expandGroups none (groups c) ((elements eb (half (bB.getD (c / 2) []) (c % 2))).map fun e => some (val e))
    else bB.map fun bs => (elements eb bs).map fun e => some (val e)
  ⟨aV, bV, (List.range kb).map fun k => (mgets x.mem (saWord d mb k) 8).map (·.toNat),
    (List.range kb).map fun k => (mgets x.mem (sbWord d nb k) 16).map (·.toNat)⟩

/-- A block reads its operands, in cycles 0 to S + 6 after its start (R57): the state after the reads, the operands, and what stops it. -/
def State.blockIn (s : State) (t : Nat) (d : List W64) (mb nb : Nat) (errs : List SpdErr) : State × BlockIn × Option BlockStop :=
  let r := s.blockReads t d mb nb errs (sqSteps d + 7) 0
  (r.1, (r.1.tile t).operands d mb nb, r.2)

/-! ## Results of a block -/

/-- Cut a list into runs of `n`. -/
def chunks {α : Type} (n k : Nat) (l : List α) : List (List α) := (List.range k).map fun i => (l.drop (n * i)).take n

/-- The exact sum of the products of a run (R45): a position that a sparse column does not keep takes no part. -/
def dotRun (as_ : List FVal) (bs : List (Option FVal)) : Dot :=
  (as_.zip bs).foldl (fun d p => match p.2 with | some v => d.addProd p.1 v | none => d) .zero

/-- An integer value of INT8 arithmetic. -/
def intOf : FVal → Int
  | .fin s m e => FVal.intAt s m e 0
  | _ => 0

/-- An accumulator through the runs of a block: one rounding per step, or per K-block with the scales `ks` (a scale of 0xFF makes
it NaN), or modulo 2³² for I8 (R45, R55, R83). -/
def accumulate (cls : Nat) (runs : List (List FVal × List (Option FVal))) (ks : List (Option Int)) : Nat :=
  if cls = 5 then
    let one (r : List FVal × List (Option FVal)) : Int :=
      (r.1.zip r.2).foldl (fun c p => match p.2 with | some v => c + intOf p.1 * intOf v | none => c) 0
    ((runs.foldl (fun c r => c + one r) 0) % 2 ^ 32).toNat
  else
    (runs.zip ks).foldl (fun c p =>
      let d := dotRun p.1.1 p.1.2
      match p.2 with
      | some k => accFp32 c d k
      | none => accFp32 c { d with nan := true } 0) 0

/-- The value of an exact sum. -/
def Dot.value (d : Dot) : FVal :=
  if d.nan || (d.pinf && d.ninf) then .nan false
  else if d.pinf || d.ninf then .inf d.ninf
  else FVal.ofInt d.allNegZero d.n d.e

/-- A value scaled by an E8M0 scale (R78). -/
def scaled (e : Nat) (v : FVal) : FVal := if e = 0xFF then .nan false else FVal.scale ((e : Int) - 127) v

/-- The tally adder's sum for one K position: over the 16 columns, each element times its column's scale in the MX classes,
where the sum is rounded to FP32 (R61). -/
def tallySum (mx : Bool) (col : List (Option FVal)) (scales : List Nat) : FVal :=
  let z : FVal := .fin false 0 0
  if mx then
    fmtFp32.decode (fmtFp32.result
      (((col.zip scales).foldl (fun d p => d.addVal (scaled p.2 (p.1.getD z))) Dot.zero).value) 0).bits
  else ((col.foldl (fun d v => d.addVal (v.getD z)) Dot.zero).value)

/-- The 8 rows of a block: 16 results and the tally value of each (R45, R55, R61). -/
def blockRows (d : List W64) (i : BlockIn) : List (List W32) :=
  let cls := fmtClass (sqAFmt d)
  let sp := sqSparse d
  let mx := isMx cls
  let perStep := dotWidth cls * if sp then 2 else 1
  let n := if mx then sqSteps d / stepsPerKBlock cls sp else sqSteps d
  let len := if mx then 32 else perStep
  let posK (p : Nat) := p / 32
  let sums := (List.range (perStep * sqSteps d)).map fun p =>
    some (tallySum mx (i.b.map fun c => (c.getD p none)) (i.sb.getD (posK p) []))
  (List.range 8).map fun r =>
    let a := chunks len n (i.a.getD r [])
    let scA (k : Nat) := (i.sa.getD k []).getD r 0
    let results := (List.range 16).map fun c =>
      let scB (k : Nat) := (i.sb.getD k []).getD c 0
      let ks := (List.range n).map fun k =>
        if mx then (if scA k = 0xFF ∨ scB k = 0xFF then none else some (((scA k + scB k : Nat) : Int) - 254)) else some 0
      BitVec.ofNat 32 (accumulate cls (a.zip (chunks len n (i.b.getD c []))) ks)
    let kt := (List.range n).map fun k =>
      if mx then (if scA k = 0xFF then none else some ((scA k : Int) - 127)) else some 0
    results ++ [BitVec.ofNat 32 (accumulate cls (a.zip (chunks len n sums)) kt)]

/-- The array's next block after (mb, nb) (R68); none after the last. -/
def Seq.advance (q : Seq) : Option Seq :=
  if q.nb + 1 < sqN q.desc then some { q with nb := q.nb + 1 }
  else if q.mb + 1 < sqM q.desc then some { q with mb := q.mb + 1, nb := 0 }
  else none

/-- Start the running sequence's next block (R58, R68, R69). Blocks use the two accumulator sets in turn (R41); the first block after a
reset takes set 1, which the spec leaves open (DESIGN CHOICE, log entry 71). -/
def Mtx.start (m : Mtx) (q : Seq) (rows : List (List W32)) : Mtx :=
  let b : Block := ⟨q.desc, q.serial, q.mb, q.nb, 1 - m.set % 2, q.pc, rows⟩
  let m := { m with blocks := m.blocks ++ [b], set := b.set, curM := q.mb, curN := q.nb }
  match q.advance with
  | some q' => { m with running := some q' }
  | none => { m with running := m.queued, queued := none }

/-- The array takes no further block: a block starts while two hold rows only once the older of them is at its last two rows, which
leave and are written before the new block first updates their accumulators (R57, R58). -/
def Mtx.full (m : Mtx) : Bool :=
  match m.blocks with
  | b :: _ :: [] => decide (2 < b.rows.length)
  | _ :: _ :: _ => true
  | _ => false

/-- BLOCK_START: poisoned operands raise POISON (R72) and metadata that breaks R54 raises MSEQ (R71), whichever comes in the earlier cycle;
MTX_BUSY counts the steps that entered row 0 until then. The block has started, and is the newest (R75). -/
def State.blockStart (s : State) (t : Nat) (errs : List SpdErr) : State :=
  let m := (s.tile t).mtx
  match m.running with
  | none => s
  | some q =>
    if m.halted ∨ m.full then s
    else
      let (s, i, p) := s.blockIn t q.desc q.mb q.nb errs
      match p with
      | some e =>
          let s := (s.bump Ev.mtxBusy (.tile t) (min (sqSteps q.desc) (e.cycle + 1))).modTile t fun x => { x with mtx := x.mtx.start q [] }
          s.tileFault t ⟨e.cause, 4, e.addr⟩ 0 q.pc
      | none =>
          (s.bump Ev.mtxBusy (.tile t) (sqSteps q.desc)).modTile t fun x => { x with mtx := x.mtx.start q (blockRows q.desc i) }

def execBlockStart (t : Nat) (errs : List SpdErr) (s : State) : Host.Outcome State Fault Refusal := .next (s.blockStart t errs)

/-! ## Drain and tally check -/

/-- The verdict of a row's tally check (R62, R63). -/
inductive Tally where
  | pass
  | skip
  | fail
deriving DecidableEq, Repr

/-- rel_shift in force (R73). -/
def relShift (v : Nat) : Nat := if v < 4 then 4 else if 24 < v then 24 else v

/-- The tally check of a row: 16 results and the tally value (R62, R63). Every finite FP32 is a multiple of 2⁻¹⁷³. -/
def tallyCheck (int : Bool) (rel floor : Nat) (row : List W32) (tv : W32) : Tally :=
  if int then (if row.foldl (· + ·) 0 = tv then .pass else .fail)
  else
    let vs := row.map fun w => fmtFp32.decode w.toNat
    let fin (v : FVal) : Option Int := match v with | .fin n m e => some (FVal.intAt n m e (-173)) | _ => none
    match (vs ++ [fmtFp32.decode tv.toNat]).mapM fin with
    | none => .skip
    | some ns =>
      let rs := ns.take 16
      let tN := ns.getD 16 0
      let sum := rs.foldl (· + ·) 0
      let abs := rs.foldl (fun a n => a + (n.natAbs : Int)) 0
      let f : Int := if floor = 0 then 0 else 2 ^ (floor + 46)
      if ((tN - sum).natAbs : Int) * 2 ^ rel ≤ abs + f * 2 ^ rel then .pass else .fail

/-- Scratchpad address of a row of a block (R59). -/
def rowAddr (b : Block) (r : Nat) : Nat :=
  let (cb, cr, cn) := sqTri b.desc 3
  cb + b.mb * sqCM b.desc + b.nb * cn + r * cr

/-- Write a row: WRITE replaces, ADD adds to the old values, whose poison passes on (R59, R173). -/
def State.writeRow (s : State) (t : Nat) (b : Block) (r : Nat) (row : List W32) (errs : List SpdErr) : State :=
  let a := rowAddr b r
  let int := decide (fmtClass (sqAFmt b.desc) = 5)
  let (s, old) := if sqAdd b.desc then s.spdRead t a 64 3 errs else (s, [])
  let res := (List.range 16).map fun c =>
    let n := row.getD c 0
    if sqAdd b.desc then
      let o := leNat (((old.drop (4 * c)).take 4).map (·.b))
      if int then BitVec.ofNat 32 (o + n.toNat) else BitVec.ofNat 32 (fop2 fmtFp32 FVal.add o n.toNat).bits
    else n
  let bytes := (List.range 64).map fun i =>
    (⟨BitVec.ofNat 8 ((res.getD (i / 4) 0).toNat / 2 ^ (8 * (i % 4))), (old.getD i ⟨0, false⟩).p⟩ : PB)
  s.spdWrite t a bytes 0 b.serial errs

/-- Drop the row that has left. -/
def Mtx.dropRow (m : Mtx) : Mtx :=
  match m.blocks with
  | [] => m
  | b :: bs => if b.rows.length ≤ 1 then { m with blocks := bs } else { m with blocks := { b with rows := b.rows.dropLast } :: bs }

/-- ROW_DRAIN: the next row of the oldest block leaves. `upset` is what a hardware fault flips in its 17 values. -/
def State.rowDrain (s : State) (t : Nat) (upset : List W32) (errs : List SpdErr) : State :=
  match (s.tile t).mtx.blocks with
  | [] => s
  | b :: _ =>
    let r := b.rows.length - 1
    let row := (List.range 17).map fun i => ((b.rows.getD r []).getD i 0) ^^^ (upset.getD i 0)
    let res := row.take 16
    let v := if s.on (F.tileTallyTolEnable t) then
        some (tallyCheck (decide (fmtClass (sqAFmt b.desc) = 5)) (relShift (s.rd (F.tileTallyTolRelShift t)))
          (s.rd (F.tileTallyTolFloorExp t)) res (row.getD 16 0))
      else none
    if v = some .fail then
      let s := (s.bump Ev.tallyFault (.tile t) 1).record (F.tileTallyLogValid t) (F.tileTallyLogMulti t)
        [(F.tileTallyLogRow t, r), (F.tileTallyLogBlockM t, b.mb), (F.tileTallyLogBlockN t, b.nb), (F.tileTallyLogEpoch t, s.epoch)]
      s.tileFault t ⟨cTALLY, 4, 0⟩ 0 b.pc
    else
      let s := if v = some .skip then s.bump Ev.tallySkip (.tile t) 1 else s
      (s.writeRow t b r res errs).modTile t fun x => { x with mtx := x.mtx.dropRow }

def execRowDrain (t : Nat) (upset : List W32) (errs : List SpdErr) (s : State) : Host.Outcome State Fault Refusal :=
  .next (s.rowDrain t upset errs)

end Sys2Proof.Machine
end

