-- ==== Sys2Proof/Machine/TileCtl.lean ====
section
/-! DEFINITION. Keeper control of a tile (R131, R152, R177, R215), the gather buffer's timeout, scratchpad write-back and scrub
(R148, R172, R175), the tile watchdog (R130, R135) and the idle cycle of a tile. -/

namespace Sys2Proof.Machine

/-- Tiles of the module (R12). -/
def tileCount : Nat := 25600

/-- Apply a change to the state if a condition holds (log entry 2). -/
def State.when (s : State) (c : Bool) (f : State → State) : State := if c then f s else s

/-! ## Run, stop, reset (R131, R137) -/

/-- Setting run starts issue at the entry address; TILE_CYCLES counts from 0. A tile in Halt waits for its reset (R72). -/
def State.tileRun (s : State) (t entry : Nat) : State :=
  let s := (s.wrs [(F.tileCtrlRun t, 1), (F.tileCtrlEntry t, entry)]).needBay t
  let s := (s.setReg (R.tileCycles t) 0).modTile t fun x => { x with clocked := true }
  if s.rd (F.tileStatState t) = stHalt then s
  else
    (s.wr (F.tileStatState t) stRun).modTile t fun x =>
      { x with pc := 16 * (entry % 2 ^ 14), done := 0, movs := none, headWords := none, branch := none, ended := false }

def execTileRun (t entry : Nat) (s : State) : Host.Outcome State Fault Refusal :=
  .next (s.when (decide (t < tileCount)) fun s => s.tileRun t entry)

/-- Clearing run stops issue at the next bundle boundary; the engines go on. The state reads Idle (DEDUCED, log entry 17). -/
def State.tileStop (s : State) (t : Nat) : State :=
  let s := s.wr (F.tileCtrlRun t) 0
  if s.running t then s.wr (F.tileStatState t) stIdle else s

def execTileStop (t : Nat) (s : State) : Host.Outcome State Fault Refusal :=
  .next (s.when (decide (t < tileCount)) fun s => s.tileStop t)

/-- Write every gather entry to its bank. -/
def State.gatherAll (s : State) (t : Nat) (errs : List SpdErr) : State :=
  (s.tile t).gather.foldl (fun s g => s.gatherFlush t g.word errs) s

/-- The units of a tile start over: array, engines, scalar, vector and mask registers, loops and scoreboard, with the registers of its page
that belong to a launch (R72, R127). The scratchpad with its regions and windows, the records of R131, the settings that the Keeper wrote
at STAGE_LOAD and the counters stay (log entry 17). -/
def State.tileClear (s : State) (t : Nat) : State :=
  let s := s.gatherAll t []
  let s := s.modTile t fun x =>
    { TileSt.reset with mem := x.mem, live := x.live, poison := x.poison, ceWb := x.ceWb, near := x.near, nearAge := x.nearAge,
                        serial := x.serial, scent := x.scent, ueSeen := x.ueSeen, reload := x.reload }
  let s := [R.tileCtrl t, R.tileStat t, R.tileCycles t, R.tileFpFlags t, R.tileSrState t].foldl
    (fun s a => s.setReg a (regReset s.variant a)) s
  { s with reqs := s.reqs.filter fun r => !(decide (r.src = .tile t 0) || decide (r.src = .tile t 1)) }

/-- Page offsets of the records that a tile reset keeps (R131). -/
def keptRecords : List Nat := [0x10, 0x18, 0x108, 0x258, 0x410, 0x418]

/-- Registers of a tile's page that a reset puts back: all but the kept records. -/
def State.pageReset (s : State) (t : Nat) : State :=
  { s with regs := s.regs.filter fun p =>
      !(decide (R.tileCtrl t ≤ p.1) && decide (p.1 < R.tileCtrl t + 0x800)) || keptRecords.contains (p.1 - R.tileCtrl t) }

/-- A tile reset (R131): units, registers and scoreboard, with every register of the page but the records that the rule names. The
scratchpad and the counters stay (DEDUCED, log entry 17). -/
def State.tileReset (s : State) (t : Nat) : State := (s.tileClear t).pageReset t

def execTileReset (t : Nat) (s : State) : Host.Outcome State Fault Refusal :=
  .next (s.when (decide (t < tileCount)) fun s => s.tileReset t)

/-! ## Bulk clear and control bits -/

/-- A go written to TILE_SPD_CLEAR (R152): rejected while Run or beyond the scratchpad. Every fresh bit of the range is set at the
start (the instant within the clear is open: DESIGN CHOICE, log entry 18). A go during a clear clears its range too, and one
BULK_CLEAR_DONE ends both (DESIGN CHOICE, log entry 18). -/
def State.bulkClear (s : State) (t base lenM1 : Nat) : State :=
  let s := s.wrs [(F.tileSpdClearBase t, base), (F.tileSpdClearLenM1 t, lenM1)]
  let b := base % 1024
  let n := lenM1 % 1024 + 1
  if s.running t ∨ 1024 < b + n then s.wr (F.tileSpdStatClearRej t) 1
  else (s.wr (F.tileSpdStatClearBusy t) 1).modTile t fun x => x.freshen (32 * b) (32 * n)

def execBulkClear (t base lenM1 : Nat) (s : State) : Host.Outcome State Fault Refusal :=
  .next (s.when (decide (t < tileCount)) fun s => s.bulkClear t base lenM1)

def execBulkClearDone (t : Nat) (s : State) : Host.Outcome State Fault Refusal :=
  .next (s.wr (F.tileSpdStatClearBusy t) 0)

/-- Clear the 32 conflict counters of a tile (R177). -/
def State.conflClear (s : State) (t : Nat) : State := (List.range 32).foldl (fun s n => s.wr (F.tileSpdConflCount t n) 0) s

def execConflictCounterClear (t : Nat) (s : State) : Host.Outcome State Fault Refusal := .next (s.conflClear t)

def execNearCacheInvalidate (t : Nat) (s : State) : Host.Outcome State Fault Refusal :=
  .next (s.modTile t fun x => { x with near := [] })

def execScentClear (t : Nat) (s : State) : Host.Outcome State Fault Refusal :=
  .next (s.modTile t fun x => { x with scent := [] })

/-! ## Gather timeout, write-back, scrub -/

def execGatherTimeout (t i : Nat) (errs : List SpdErr) (s : State) : Host.Outcome State Fault Refusal :=
  .next (match (s.tile t).gather[i]? with
    | some g => s.gatherFlush t g.word errs
    | none => s)

def execSpdCeWriteback (t word : Nat) (s : State) : Host.Outcome State Fault Refusal :=
  .next (s.modTile t fun x => { x with ceWb := x.ceWb.filter fun w => decide (w ≠ word) })

/-- What a decoder finds in a word, as an error of a scratchpad read. -/
def decErrs (d : Dec) (word : Nat) : List SpdErr :=
  match d with
  | .clean => []
  | .corrected => [⟨word, .corrected⟩]
  | .uncorrectable => [⟨word, .uncorrectable⟩]

/-- Scrub of one word (R175): skipped when fresh; a gather entry of the word writes first (R150), whose read then meets the error; an
uncorrectable word of an instruction or resident region asks for a reload at the next launch. -/
def State.spdScrub (s : State) (t word : Nat) (dec : Dec) : State :=
  let waits := (s.tile t).gather.any fun g => decide (g.word = word)
  if !s.on (F.tileSpdCtrlScrubEn t) || (s.tile t).fresh word || !decide (8 * word < spdSize) then s
  else
  let s := s.gatherFlush t word (decErrs dec word)
  let dec := if waits then .clean else dec
  if (s.tile t).bad word || decide (dec = .uncorrectable) then
    (s.spdUe t word 4).modTile t fun x => { x with reload := match s.loadedRegion t (8 * word) with
      | some i => if x.reload.contains i then x.reload else x.reload ++ [i]
      | none => x.reload }
  else if dec = .corrected then s.spdCe t word
  else s

def execSpdScrub (t word : Nat) (dec : Dec) (s : State) : Host.Outcome State Fault Refusal := .next (s.spdScrub t word dec)

/-! ## Watchdog -/

/-- The unit that owns an entry awaits a reply from outside the tile (R130). -/
def State.awaits (s : State) (t : Nat) (e : SbEntry) : Bool :=
  decide (e.owner ≠ 0) && decide (0 < s.outstanding t (e.owner - 1) e.serial)

def execTileWatchdogExpiry (t k : Nat) (s : State) : Host.Outcome State Fault Refusal :=
  .next (match (s.tile t).sb[k]? with
    | some e =>
      if s.running t then s.tileFault t ⟨if s.awaits t e then cSTALL else cWDOG, 4, e.base⟩ e.owner e.pc else s
    | none => s)

/-! ## The idle cycle -/

/-- TILE_CYCLES counts the deck cycles since run was last set, also after it is cleared (R137), but not while the deck is idle or off (R578, R693) or the bay gated. -/
def State.tileCounts (s : State) (t : Nat) : Bool :=
  (s.tile t).clocked && decide (s.rd F.bootPartCompute = 1) && decide (s.rd F.pwrmWakeTolCurrent = 0) && !s.bayGated (bayOf t)

/-- A deck cycle of a tile in which no command acts: TILE_CYCLES counts, faults of the next bundle are taken, a bundle that is held counts
its issue event (R705), and a bundle with no acting slot issues (log entries 1 and 4). The guard's first action skips every second
cycle (R573). -/
def State.tileTick (s : State) (t : Nat) : State :=
  if !s.tileCounts t then s
  else
    let s := s.incr (F.tileCyclesCycles t) 1
    let skip := decide (s.rd F.pwrmGuardAction = 1) && decide (s.rd (F.tileCyclesCycles t) % 2 = 0)
    if !s.canIssue t ∨ skip ∨ (s.tile t).done ≠ 0 then s
    else
      match s.fetchFault t [] with
      | (s, some f) => s.takeFault t f false
      | (s, none) =>
        let b := s.bundle t
        match s.verdict t b [] with
        | (s, .fault f more) => s.takeFault t f more
        | (s, .hold ev) => s.heldCycle t ev
        | (s, .go _ _) =>
          let s := s.modTile t fun x => { x with vocc := false }
          if b.acting.isEmpty then s.modTile t fun x => x.endBundle b false else s

end Sys2Proof.Machine
end

