-- ==== Sys2Proof/Machine/Addr.lean ====
section
/-! DEFINITION. Module addresses (R685): hash map (R245 to R248), permissions (R249, R250), floor aperture (R252, R253), Twin
mirrors (R325, R327), HBM channels (R317, R318), and the logical tiles that a tile endpoint names (R16 to R18). -/

namespace Sys2Proof.Machine

/-- Bytes of a hash segment (R245). -/
def segBytes : Nat := 0x60000000
/-- Base of the floor explicit aperture (R253, R685). -/
def apertureBase : Nat := 0x800000000000
/-- Bytes of an HBM channel (R318). -/
def chanBytes : Nat := 0x90000000

/-- Where an address lies (R246, R247, R253): slice, explicit or cached, set, way of an explicit line, channel-local line (for an
explicit line 2²¹ plus the way), sector, byte in the sector, segment. -/
structure Loc where
  slice : Nat
  expl : Bool
  set : Nat
  way : Nat
  line : Nat
  sector : Nat
  byte : Nat
  seg : Nat
deriving DecidableEq, Repr

/-- A slice's channel is populated (R317). -/
def State.slicePopulated (s : State) (n : Nat) : Bool := decide (n % 64 < s.variant.chansPerFloor)

/-- Mode of a slice in effect: 0 Cache, 1 Split, 2 Scratch; an unpopulated slice is fixed in Scratch (R252, R279). -/
def State.sliceMode (s : State) (n : Nat) : Nat :=
  if !s.slicePopulated n then 2 else let m := s.rd (F.sliceStatMode n); if m = 3 then 0 else m

/-- Explicit ways of a slice (R252). -/
def State.explWays (s : State) (n : Nat) : Nat :=
  match s.sliceMode n with
  | 0 => 0
  | 1 => 4 * (min (s.rd (F.sliceCfgSplitWays n)) 2 + 1)
  | _ => 16

/-- Kind of a segment's mapping: 0 unmapped, 1 Spread, 2 Near (R277). -/
def State.segKind (s : State) (g : Nat) : Nat :=
  if s.variant.segments ≤ g then 0 else let k := s.rd (F.floorHashKind 0 g); if k = 3 then 0 else k

/-- Floor, slot and row of segment line `l` (R246): `c_f` populated channels a floor. -/
def spreadHash (cf l : Nat) : Nat × Nat × Nat :=
  let row := l / (8 * cf)
  let col := l % (8 * cf)
  ((col % 8) ^^^ (row % 8), (col / 8 + row) % cf, row)
def nearHash (cf n l : Nat) : Nat × Nat × Nat := (n, (l % cf + l / cf) % cf, l / cf)

/-- The cached place of channel-local line `ℓ` of a slice. -/
def cachedAt (slice line a seg : Nat) : Loc := ⟨slice, false, line % 768, 0, line, a / 256 % 8, a % 256, seg⟩

/-- Place of an HBM address (R245 to R247). -/
def State.locHbm (s : State) (a : Nat) : Option Loc :=
  let g := a / segBytes
  let cf := s.variant.chansPerFloor
  let l := a % segBytes / 2048
  let base := 512 * s.rd (F.floorHashChanBase 0 g)
  if s.variant.hbmBytes ≤ a then none
  else match s.segKind g with
    | 1 => let h := spreadHash cf l; some (cachedAt (64 * h.1 + h.2.1) (base + h.2.2) a g)
    | 2 => let h := nearHash cf (s.rd (F.floorHashNearFloor 0 g)) l; some (cachedAt (64 * h.1 + h.2.1) (base + h.2.2) a g)
    | _ => none

/-- Slices of a floor whose way `b` is explicit, in slot order (R253). -/
def State.bandSlices (s : State) (f b : Nat) : List Nat :=
  (List.range 64).filterMap fun k => if b < s.explWays (64 * f + k) then some (64 * f + k) else none

/-- Place of an offset of a floor's aperture, from band `b` on (R253). -/
def State.locBand (s : State) (f : Nat) : Nat → Nat → Nat → Option Loc
  | 0, _, _ => none
  | fuel + 1, b, u =>
    let ss := s.bandSlices f b
    let n := ss.length * 0x180000
    if u < n then
      let j := u / 2048
      some ⟨ss.getD (j % ss.length) 0, true, j / ss.length, b, 2 ^ 21 + b, u / 256 % 8, u % 256, 0⟩
    else s.locBand f fuel (b + 1) (u - n)

/-- Place of a module address; none in a hole, an unmapped segment or no region at all. -/
def State.locate (s : State) (a : Nat) : Option Loc :=
  if a < apertureBase then s.locHbm a
  else
    let o := a - apertureBase
    if o < 8 * segBytes then s.locBand (o / segBytes) 16 0 (o % segBytes) else none

/-- A module endpoint of a descriptor may name the address (R189, R196): HBM region or aperture. -/
def State.isModule (s : State) (a : Nat) : Bool :=
  decide (a < s.variant.hbmBytes) || (decide (apertureBase ≤ a) && decide (a < apertureBase + 8 * segBytes))

/-- Page of an address (R249). -/
def pageOf (a : Nat) : Nat := if a < apertureBase then a / 0x200000 else 589824 + (a - apertureBase) / 0x200000

/-- Pages of the permission table (R249): those of HBM, then those of the floor aperture. -/
def pageCount : Nat := 595968

/-- Right of a page (R249, R278). -/
def State.right (s : State) (p : Nat) : Nat := bf (s.reg (R.floorPerm 0 (p / 32))).toNat (2 * (p % 32)) 2

/-- Write the right of a page on every floor. -/
def State.setRight (s : State) (p v : Nat) : State :=
  if pageCount ≤ p then s else (List.range 8).foldl (fun s f => s.setReg (R.floorPerm f (p / 32))
    (BitVec.ofNat 64 (bfSet (s.reg (R.floorPerm f (p / 32))).toNat (2 * (p % 32)) 2 v))) s

/-- Write the right of every page of an address range. -/
def State.setRights (s : State) (a n v : Nat) : State :=
  if n = 0 then s
  else (List.range ((a + n - 1) / 0x200000 - a / 0x200000 + 1)).foldl (fun s i => s.setRight (pageOf (a + 0x200000 * i)) v) s

/-- An access is refused (R250): unmapped, no right, or an aperture hole. -/
def State.refused (s : State) (a : Nat) (write : Bool) : Bool :=
  (s.locate a).isNone || (let r := s.right (pageOf a); if write then decide (r < 2) else decide (r = 0))

/-! ## Twin (R325, R327) -/

/-- Mirror segment of a Twin segment. -/
def State.mirrorOf (s : State) (g : Nat) : Option Nat :=
  if s.on (F.floorTwinTwin 0 g) then some (s.rd (F.floorTwinMirror 0 g)) else none

/-- Channel and channel-local line of copy B of a Twin line of copy A's segment `g` at footprint row `row` (R325): slot as for copy
A on the floor `f xor 4`. -/
def State.copyB (s : State) (slice line g : Nat) : Option (Nat × Nat) :=
  (s.mirrorOf g).map fun m =>
    (((slice / 64) ^^^ 4) * 64 + slice % 64, line - 512 * s.rd (F.floorHashChanBase 0 g) + 512 * s.rd (F.floorHashChanBase 0 m))

/-- Rows of a Spread footprint, `Q` of R327 (R248). -/
def Variant.spreadRows (v : Variant) : Nat := 786432 / (8 * v.chansPerFloor)

/-- Channel-local byte address of the line epoch of a line of segment `g` (R327). -/
def State.epochByte (s : State) (line g : Nat) : Nat :=
  let base := 512 * s.rd (F.floorHashChanBase 0 g)
  let row := line - base
  let q := Variant.spreadRows s.variant
  2048 * (base + q - q / 512 + row / 512) + 4 * (row % 512)

/-! ## Tiles by number (R12 to R18) -/

/-- Columns and rows of the logical plane, in tiles (R12). -/
def planeW : Nat := 160
def planeH : Nat := 160

/-- Logical tile at a plane row and column. -/
def tileAt (row col : Nat) : Nat := planeW * row + col

end Sys2Proof.Machine
end

