-- ==== Sys2Proof/Machine/Xform.lean ====
section
/-! DEFINITION. The walk and the transforms of a fetch descriptor (R191 to R195, R197, R206, R697): pure functions on bytes with
poison marks. -/

namespace Sys2Proof.Machine

/-- The run indices of a walk in order, i1 innermost (R191). -/
def walkIdx (n1 n2 n3 : Nat) : List (Nat × Nat × Nat) :=
  (List.range n3).flatMap fun c => (List.range n2).flatMap fun b => (List.range n1).map fun a => (a, b, c)

/-- Start of a run: base and strides (R191). -/
def runAt (base : Int) (st : Nat → Int) (i : Nat × Nat × Nat) : Int := base + i.1 * st 1 + i.2.1 * st 2 + i.2.2 * st 3

/-- Source runs of a descriptor. -/
def srcRuns (d : List W64) (base : Int) : List Int := (walkIdx (dN1 d) (dN2 d) (dN3 d)).map (runAt base (dSrcS d))

/-- Element bytes under transpose (R187) and compress (R697). -/
def transBytes (etype : Nat) : Nat := 2 ^ etype
def compBytes (etype : Nat) : Nat := if etype = 1 then 2 else 1

/-- Indices of the output runs: those of the source, but for transpose, which turns i1 into the column (R192). -/
def outIdx (d : List W64) : List (Nat × Nat × Nat) :=
  walkIdx (if dXform d = 1 then dRun d / transBytes (dEtype d) else dN1 d) (dN2 d) (dN3 d)

/-- Bytes of an output run (R192, R285). Of a run that is no whole number of elements, widen and narrow leave the last bytes out (R194 checks
nothing there; DESIGN CHOICE, log entry 102). -/
def outLen (d : List W64) : Nat :=
  let n := dRun d
  match dXform d with
  | 1 => dN1 d * transBytes (dEtype d)
  | 2 => 4 * (n / 2)
  | 3 => 2 * (n / 4)
  | 4 => if dXfmt d = 6 then n / 8 else n / 4
  | 5 => if dXfmt d = 6 then 8 * n else 4 * n
  | 6 => n / 2
  | _ => n

/-- Start of each output run, with the staircase skew when the destination is the own scratchpad (R193). -/
def outRuns (d : List W64) (base : Int) : List Int :=
  (outIdx d).map fun i => runAt base (dDstS d) i + 8 * (dStair d : Int) * i.1

/-- Bytes of the side stream of the whole descriptor (R192). -/
def sideLen (d : List W64) : Nat :=
  let runs := dN1 d * dN2 d * dN3 d
  match dXform d with
  | 4 => runs * (dRun d / 128)
  | 5 => runs * (dRun d / (if dXfmt d = 6 then 16 else 32))
  | 6 => runs * ((dRun d / (4 * compBytes (dEtype d)) + 1) / 2)
  | _ => 0

/-- A transform's output: runs in order, side-stream bytes in order, and its reports (R204). -/
structure XOut where
  runs : List (List PB)
  side : List PB
  mxNan : Bool
  loss : Bool
deriving DecidableEq, Repr

/-- Number of a list of bytes, and whether one is poisoned. -/
def pbNat (bs : List PB) : Nat := leNat (bs.map (·.b))

/-- `n` bytes of a number with one mark. -/
def pbOf (n v : Nat) (p : Bool) : List PB := (leBytes n v).map fun b => ⟨b, p⟩

/-- Cut into whole pieces of `n` bytes. -/
def pieces (n : Nat) (bs : List PB) : List (List PB) := chunks n (bs.length / n) bs

/-- Transpose: each group of `n1` runs becomes its columns. -/
def xTranspose (n1 e cols : Nat) (groups : Nat) (runs : List (List PB)) : List (List PB) :=
  (List.range groups).flatMap fun g =>
    let m := (runs.drop (n1 * g)).take n1
    (List.range cols).map fun j => m.flatMap fun r => (r.drop (e * j)).take e

/-- BF16 to FP32, exactly; FP32 to BF16 as R98 states. -/
def xWiden (r : List PB) : List PB := (pieces 2 r).flatMap fun p => pbOf 4 (pbNat p * 2 ^ 16) (anyPois p)
def xNarrow (r : List PB) : List PB :=
  (pieces 4 r).flatMap fun p => pbOf 2 (fmtBf16.convert .rne true (fmtFp32.decode (pbNat p))).bits (anyPois p)

/-- Bytes of MX elements: one each, or two to a byte in MXFP4, the first in the low half. -/
def packElems (fmt : Nat) (p : Bool) : List Nat → List PB
  | a :: b :: r =>
    if fmt = 6 then ⟨BitVec.ofNat 8 (a % 16 + 16 * (b % 16)), p⟩ :: packElems fmt p r
    else ⟨BitVec.ofNat 8 a, p⟩ :: ⟨BitVec.ofNat 8 b, p⟩ :: packElems fmt p r
  | [a] => [⟨BitVec.ofNat 8 a, p⟩]
  | [] => []

/-- One MX block packed: element bytes, scale byte, and whether its scale is 0xFF (R97, R98). -/
def xPackBlock (fmt : Nat) (blk : List PB) : List PB × PB × Bool :=
  let vs := (pieces 4 blk).map fun p => fmtFp32.decode (pbNat p)
  let r := mxPack fmt (List.replicate 32 .rne) vs
  let p := anyPois blk
  (packElems fmt p (r.2.map (·.bits)), ⟨BitVec.ofNat 8 r.1, p⟩, decide (r.1 = 0xFF))

/-- One MX block unpacked with its scale byte. -/
def xUnpackBlock (fmt : Nat) (blk : List PB) (sc : PB) : List PB :=
  if fmt = 6 then blk.flatMap fun x =>
    pbOf 4 (mxUnpack fmt sc.b.toNat (x.b.toNat % 16)) (x.p || sc.p) ++ pbOf 4 (mxUnpack fmt sc.b.toNat (x.b.toNat / 16)) (x.p || sc.p)
  else blk.flatMap fun x => pbOf 4 (mxUnpack fmt sc.b.toNat x.b.toNat) (x.p || sc.p)

/-- Magnitude of an element for compress (R697). -/
def compMag (etype v : Nat) : Nat :=
  match etype with
  | 0 => v % 2 ^ 7
  | 1 => v % 2 ^ 15
  | 3 => (sint 8 v).natAbs
  | _ => v % 2 ^ 5

/-- The two positions of a group that compress keeps, ties to the lower position (R195). -/
def keepTwo (ms : List Nat) : Nat × Nat :=
  let best (skip : Option Nat) : Nat :=
    (List.range 4).foldl (fun a i => if some i = skip then a else if some a = skip ∨ ms.getD a 0 < ms.getD i 0 then i else a) (if skip = some 0 then 1 else 0)
  let a := best none
  let b := best (some a)
  (min a b, max a b)

/-- One group compressed: kept bytes, metadata field with its mark, and whether a non-zero element was lost. -/
def xGroup (etype : Nat) (g : List PB) : List PB × (Nat × Bool) × Bool :=
  let e := compBytes etype
  let es := pieces e g
  let ms := es.map fun x => compMag etype (pbNat x)
  let k := keepTwo ms
  let p := anyPois g
  let kept := (es.getD k.1 [] ++ es.getD k.2 []).map fun x => (⟨x.b, p⟩ : PB)
  (kept, (k.1 + 4 * k.2, p), (List.range 4).any fun i => decide (i ≠ k.1) && decide (i ≠ k.2) && decide (ms.getD i 0 ≠ 0))

/-- Metadata fields as bytes, low nibble first. -/
def nibbles : List (Nat × Bool) → List PB
  | a :: b :: r => ⟨BitVec.ofNat 8 (a.1 + 16 * b.1), a.2 || b.2⟩ :: nibbles r
  | [a] => [⟨BitVec.ofNat 8 a.1, a.2⟩]
  | [] => []

/-- Apply the descriptor's transform to its source runs; `side` is the side stream that unpack reads. -/
def transform (d : List W64) (runs : List (List PB)) (side : List PB) : XOut :=
  match dXform d with
  | 1 =>
    let e := transBytes (dEtype d)
    ⟨xTranspose (dN1 d) e (dRun d / e) (dN2 d * dN3 d) runs, [], false, false⟩
  | 2 => ⟨runs.map xWiden, [], false, false⟩
  | 3 => ⟨runs.map xNarrow, [], false, false⟩
  | 4 =>
    let bs := runs.map fun r => (pieces 128 r).map (xPackBlock (dXfmt d))
    ⟨bs.map fun r => r.flatMap (·.1), bs.flatMap fun r => r.map (·.2.1), bs.any fun r => r.any (·.2.2), false⟩
  | 5 =>
    let n := if dXfmt d = 6 then 16 else 32
    let per := dRun d / n
    ⟨(runs.zip (List.range runs.length)).map fun r =>
      ((pieces n r.1).zip (List.range per)).flatMap fun q => xUnpackBlock (dXfmt d) q.1 (side.getD (per * r.2 + q.2) ⟨0, false⟩),
     [], false, false⟩
  | 6 =>
    let gs := runs.map fun r => (pieces (4 * compBytes (dEtype d)) r).map (xGroup (dEtype d))
    ⟨gs.map fun r => r.flatMap (·.1), gs.flatMap fun r => nibbles (r.map (·.2.1)), false, gs.any fun r => r.any (·.2.2)⟩
  | _ => ⟨runs, [], false, false⟩

/-! ## Requests (R197) -/

/-- A piece of a walk: far address, position in the walk, bytes. -/
structure WPiece where
  addr : Nat
  walk : Nat
  len : Nat
deriving DecidableEq, Repr

/-- Cut a run at multiples of `cut` of its far address. -/
def cutRun (cut : Nat) : Nat → Nat → Nat → Nat → List WPiece
  | 0, _, _, _ => []
  | fuel + 1, addr, walk, len =>
    if len = 0 then []
    else
      let n := min len (cut - addr % cut)
      ⟨addr, walk, n⟩ :: cutRun cut fuel (addr + n) (walk + n) (len - n)

/-- The pieces of all runs: start addresses and bytes of each run. -/
def cutRuns (cut len : Nat) : Nat → List Nat → List WPiece
  | _, [] => []
  | walk, a :: as_ => cutRun cut (len / cut + 2) a walk len ++ cutRuns cut len (walk + len) as_

/-- Combine consecutive pieces of one block of `cut` bytes: the block's address and its segments. -/
def combine (cut : Nat) : List WPiece → List (Nat × List Seg)
  | [] => []
  | p :: ps =>
    let b := alignDown p.addr cut
    let sg : Seg := ⟨p.walk, p.addr % cut, p.len⟩
    match combine cut ps with
    | (b', sgs) :: r => if b' = b then (b, sg :: sgs) :: r else (b, [sg]) :: (b', sgs) :: r
    | [] => [(b, [sg])]

/-- Bytes of a walk that the segments select, from the whole walk's bytes. -/
def segBytesOf (all : List PB) (sgs : List Seg) : List PB := sgs.flatMap fun g => (all.drop g.walk).take g.len

end Sys2Proof.Machine
end

