-- ==== Sys2Proof/Machine/Fetch.lean ====
section
/-! DEFINITION. Fetch chains and descriptors (R183 to R212): starting and fencing a chain, the checks of R196, and the operations
that stay in the module. A descriptor makes all its requests when it begins; an outbound one captures its source then (R199);
an inbound one lands its bytes in walk order when its last reply is back (log entry 19). -/

namespace Sys2Proof.Machine

/-! ## Starting a chain (R106, R183, R184) -/

/-- The engine accepts a chain: it runs, or waits for the running one. On an engine that a fault or a discard stops it begins no descriptor (R129,
R308). -/
def TileSt.acceptChain (x : TileSt) (n : Nat) (h : List W64) (head : Nat) (halted stopped : Bool) : TileSt :=
  let c : Chain :=
    { serial := x.serial, head := head, nDesc := hdN h, hasRd := hdHasRd h, hasWr := hdHasWr h, rdBase := hdRdBase h,
      rdLenM1 := hdRdLen h, wrBase := hdWrBase h, wrLenM1 := hdWrLen h, cmplAddr := hdCmplAddr h, cmplEn := hdCmplEn h,
      next := 0, descs := [], status := 0, failDesc := 0xFF, done := 0, poison := false, mxNan := false, sparseLoss := false,
      halted := halted, stopped := stopped, pc := x.pc }
  let e := x.engine n
  { x with serial := x.serial + 1, sb := x.sb ++ entriesOf (hdRanges h) (n + 1) x.serial x.pc }.setEngine n
    (if e.running.isNone then ⟨some c, e.queued⟩ else if halted || stopped then e else ⟨e.running, some c⟩)

def execChainStart (t : Nat) (errs : List SpdErr) (s : State) : Host.Outcome State Fault Refusal :=
  .next (s.issue t 1 errs (·.fStart) fun b _ hd s =>
    match hd with
    | some h =>
      let halt := decide (s.rd (F.tileStatState t) = stHalt)
      let stop := decide (s.rd F.keepPassStatState = 3)
      let s := s.modTile t fun x => x.acceptChain b.fEngine h (fAddr x b) halt stop
      if halt || stop then s.endHalted t b.fEngine else s
    | none => s)

/-- FENCE has no effect beyond holding its bundle (`State.verdict`). -/
def execFence (t : Nat) (errs : List SpdErr) (s : State) : Host.Outcome State Fault Refusal :=
  .next (s.issue t 1 errs (fun b => b.fGo && decide (b.fOp = 2)) fun _ _ _ s => s)

/-! ## Checks at the start of a descriptor (R189, R192 to R196) -/

/-- Operation codes of R188. -/
def isIn (op : Nat) : Bool := decide (op = 1) || decide (op = 4)
def isOut (op : Nat) : Bool := decide (op = 2) || decide (op = 3) || decide (op = 5) || decide (op = 6) || decide (op = 7)
def isRemote (op : Nat) : Bool := decide (6 ≤ op) && decide (op ≤ 9)
def copies (op : Nat) : Bool := isIn op || isOut op

/-- The transforms an op permits (R192). -/
def xformOk (op x : Nat) : Bool :=
  match x with
  | 0 => true
  | 1 => decide (op = 1) || decide (op = 4) || decide (op = 2) || decide (op = 5)
  | 2 => isIn op
  | 3 => decide (op = 2) || decide (op = 5) || decide (op = 6)
  | 4 => isIn op
  | 5 => decide (op = 2) || decide (op = 5)
  | 6 => isIn op
  | _ => false

/-- Element types an op and transform define (R187, R285, R697). -/
def etypeOk (op x e : Nat) : Bool :=
  if op = 3 ∨ op = 7 then decide (e ≤ 2)
  else match x with
    | 1 => decide (e ≤ 2)
    | 6 => [0, 1, 3, 4].contains e
    | _ => decide (e = 0)

/-- A field that the op does not use is not 0 (R187, R190, R196). scent, and scent_slot with it, may be set for any op (R208). For SIGNAL
len0_m1 is such a field, and its run is the flag's 8 bytes (DEDUCED, log entry 102). -/
def rsvSet (d : List W64) : Bool :=
  let op := dOp d
  let nz (word lo w : Nat) : Bool := decide (wf d word lo w ≠ 0)
  let cp := copies op
  let mx := decide (dXform d = 4) || decide (dXform d = 5)
  nz 0 29 3 || nz 0 48 16 || nz 3 63 1
    || (decide (op ≠ 1) && (dLastUse d || (!dScent d && nz 0 26 3)))
    || (decide (op ≠ 8) && dDoorbell d)
    || (!mx && nz 0 20 4)
    || (decide (op = 0) && (nz 0 12 4 || nz 1 0 64 || nz 2 0 64))
    || (!cp && decide (op ≠ 9) && nz 0 32 16)
    || (!cp && (nz 3 0 48 || nz 5 0 64 || nz 6 0 64))
    || (!cp && decide (op ≠ 9) && nz 4 0 64)
    || (!(mx || decide (dXform d = 6)) && nz 3 48 15)
    || (!isRemote op && nz 7 0 64) || (isRemote op && (nz 7 15 1 || nz 7 49 15)) || (decide (op = 9) && (nz 4 15 1 || nz 4 49 15))
    || (match op with
        | 1 => nz 1 48 16 || nz 2 18 46
        | 2 => nz 1 18 46 || nz 2 48 16
        | 3 => nz 1 18 46 || nz 2 48 16
        | 4 => nz 1 39 25 || nz 2 18 46
        | 5 => nz 1 18 46 || nz 2 39 25
        | 6 => nz 1 18 46 || nz 2 40 24
        | 7 => nz 1 18 46 || nz 2 40 24
        | 8 => nz 2 40 24
        | 9 => nz 1 40 24 || nz 2 40 24
        | 10 => nz 2 48 16
        | _ => false)

/-- The far side of a copy: addresses of its runs. -/
def farRuns (d : List W64) : List Int :=
  match dOp d with
  | 1 => srcRuns d (dSrc d)
  | 4 => srcRuns d (epOff (dSrc d))
  | 5 => outRuns d (epOff (dDst d))
  | 2 | 3 | 6 | 7 => outRuns d (dDst d)
  | _ => []

/-- Bytes of a far run: for a BF16 Fold twice its source (R285). -/
def farLen (d : List W64) : Nat :=
  if isIn (dOp d) then dRun d
  else if (dOp d = 3 ∨ dOp d = 7) ∧ dEtype d = 1 then 2 * dRun d
  else outLen d

/-- The near side of a copy in the own scratchpad: runs and bytes of each. -/
def nearRuns (d : List W64) : List Int × Nat :=
  if isIn (dOp d) then (outRuns d (dDst d), outLen d) else if isOut (dOp d) then (srcRuns d (dSrc d), dRun d) else ([], 0)

/-- A descriptor breaks a rule that raises FETCH before it moves data (R193, R194, R196). -/
def State.descBad (s : State) (d : List W64) : Bool :=
  let op := dOp d
  let x := dXform d
  let n := dRun d
  let mod8 (v : Int) : Bool := decide (v % 8 ≠ 0)
  let modRun (a : Int) (k : Nat) : Bool := decide (a < 0) || !(s.isModule a.toNat && s.isModule (a.toNat + k - 1))
  decide (10 < op) || decide (6 < x) || ((decide (x = 4) || decide (x = 5)) && !(decide (2 ≤ dXfmt d) && decide (dXfmt d ≤ 7)))
    || rsvSet d
    || (decide (op ≠ 0) && decide (dCollar d < 2))
    || !etypeOk op x (dEtype d)
    || ((decide (op = 1) || decide (op = 2) || decide (op = 3)) && (farRuns d).any fun a => modRun a (farLen d))
    || (decide (op = 10) && modRun (dDst d) 8)
    || (dNear d && decide (op ≠ 1))
    || ((decide (op = 3) || decide (op = 7) || decide (op = 6)) &&
         (decide (n % 8 ≠ 0) || decide (farLen d % 8 ≠ 0) || (nearRuns d).1.any mod8 || (farRuns d).any mod8))
    || (decide (op = 8) && mod8 (dDst d))
    || (decide (op = 9) && (decide (n % 8 ≠ 0) || mod8 (dSrc d) || mod8 (dDst d)))
    || !xformOk op x
    || decide (dStair d = 3) || (decide (dStair d ≠ 0) && !isIn op)
    || (decide (x = 1) && (let e := transBytes (dEtype d)
         decide (4096 < dN1 d * n) || decide (n % e ≠ 0) || decide (256 < n / e)))
    || (decide (x = 4) && decide (n % 128 ≠ 0))
    || (decide (x = 5) && decide (n % (if dXfmt d = 6 then 16 else 32) ≠ 0))
    || (decide (x = 6) && decide (n % (4 * compBytes (dEtype d)) ≠ 0))

/-- Lowest and one past the highest byte of runs. -/
def bounds (rs : List Int) (n : Nat) : Int × Int :=
  match rs with
  | [] => (0, 0)
  | r :: _ => (rs.foldl min r, rs.foldl max r + n)

/-- The bounding range of the near side, then the side stream of scales or metadata, breaks a region rule (R145, R146, R196): its
first byte, as the address of a RANGE fault. -/
def State.nearRange (s : State) (t : Nat) (d : List W64) : Option Nat :=
  let (rs, n) := nearRuns d
  let (lo, hi) := bounds rs n
  let sl := sideLen d
  if rs ≠ [] ∧ ¬(0 ≤ lo ∧ s.spdAllowed t lo.toNat (hi - lo).toNat (if isIn (dOp d) then ownWrite else ownRead)) then
    some (lo % 2 ^ 18).toNat
  else if sl ≠ 0 ∧ !s.spdAllowed t (dSide d) sl (if dXform d = 5 then ownRead else ownWrite) then some (dSide d % 2 ^ 18)
  else none

/-- A chain's extents hold every scratchpad byte that the descriptor touches (R118, R194). -/
def Chain.extentsOk (c : Chain) (d : List W64) : Bool :=
  let (rs, n) := nearRuns d
  let rd (a : Int) (k : Nat) : Bool := c.hasRd && decide ((c.rdBase : Int) ≤ a) && decide (a + k ≤ c.rdBase + c.rdLenM1 + 1)
  let wr (a : Int) (k : Nat) : Bool := c.hasWr && decide ((c.wrBase : Int) ≤ a) && decide (a + k ≤ c.wrBase + c.wrLenM1 + 1)
  let sl := sideLen d
  (if isIn (dOp d) then rs.all (fun a => wr a n) else rs.all fun a => rd a n)
    && (decide (sl = 0) || (if dXform d = 5 then rd (dSide d) sl else wr (dSide d) sl))

/-- The logical tile that a tile endpoint names (R16 to R18, R189), or the cause of its fault. -/
def State.target (s : State) (t : Nat) (ep : Nat) : Nat ⊕ Nat :=
  let own : Nat × Nat × Nat := (t - planeW * s.rd (F.tileIdY t) - s.rd (F.tileIdX t), s.rd (F.tileIdHM1 t) + 1, s.rd (F.tileIdWM1 t) + 1)
  let region : Option (Nat × Nat × Nat) :=
    if !epVia ep then some own
    else match s.job with
      | none => none
      | some j =>
        match j.stages.find? (fun g => decide (g.region.any fun p => p.base = own.1)) with
        | none => none
        | some g => match g.streams[epStream ep]? with
          | none => none
          | some st => match j.stages[st.consumer]? with
            | some c => c.region.map fun p => (p.base, p.h, p.w)
            | none => none
  match region with
  | none => .inr cFETCH
  | some (base, h, w) =>
    if w ≤ epX ep ∨ h ≤ epY ep then .inr cREGION
    else
      let n := base + planeW * epY ep + epX ep
      if n % 20 < 21 - (tget (fun _ => []) s.badPos (n / 20)).length then .inl n else .inr cBUS

/-! ## Requests -/

/-- The epoch mark that the module's requests carry (R203, R290): the launch's epoch while a pass runs, else 0. -/
def State.markEpoch (s : State) : Nat := if s.pass.isSome then s.epoch else 0

/-- A request of a tile's descriptor. -/
def State.mkReq (s : State) (t n : Nat) (c : Chain) (d : List W64) (idx : Nat) (kind : ReqKind) (tgt addr : Nat) (segs : List Seg)
    (data : List PB) : Req :=
  { id := 0, kind := kind, src := .tile t n, chain := c.serial, desc := idx, tgt := tgt, addr := addr, segs := segs, data := data,
    collar := dCollar d, tag := 0, mod := s.moduleId, epoch := s.markEpoch, etype := dEtype d, lastUse := dLastUse d, late := false,
    stage := .toTarget, status := 0, zero := false, unprot := false, here := false, down := false, coll := false, time := s.now }

/-- Status BUS_ERROR of R205. -/
def stBUS : Nat := 7

/-- Send a request to module memory: a refused access answers BUS_ERROR (R250). -/
def State.toMemory (s : State) (r : Req) (write : Bool) : Req :=
  if s.refused r.addr write then { r with stage := .reply, status := stBUS, data := [] }
  else { r with tgt := (s.locate r.addr).elim 0 (·.slice) }

/-! ## Request indices (R197, R228) -/

/-- A request of an engine. -/
def Req.from (r : Req) (t n : Nat) : Bool := decide (r.src = .tile t n)

/-- The lowest free request index of an engine; none with 64 requests outstanding. -/
def State.freeTag (s : State) (t n : Nat) : Option Nat :=
  (List.range 64).find? fun k => !(s.reqs.any fun r => r.from t n && r.out && decide (r.tag = k))

/-- Near-cache fills of a tile that are outstanding (R160). -/
def State.nearFills (s : State) (t : Nat) : Nat :=
  (s.reqs.filter fun r => decide (r.kind = .nearFill) && r.late && decide (r.stage ≠ .unsent) && (r.from t 0 || r.from t 1)).length

/-- The index with which an engine sends a request now; none where it must wait. -/
def State.sendTag (s : State) (t n : Nat) (r : Req) : Option Nat :=
  if r.kind = .nearFill ∧ 8 ≤ s.nearFills t then none else s.freeTag t n

/-- A request leaves its engine: one to module memory goes to its slice, a mesh request to its tile. -/
def State.departing (s : State) (r : Req) (k : Nat) : Req :=
  let r := { r with stage := .toTarget, tag := k, here := false, down := false, time := s.now }
  match r.kind with
  | .memWrite | .memFold => s.toMemory r true
  | .memRead | .probe | .nearFill => s.toMemory r false
  | _ => r

/-- An engine makes a request: it leaves at once, or waits behind those that wait. -/
def State.issueReq (s : State) (t n : Nat) (r : Req) : State :=
  let waits := s.reqs.any fun q => q.from t n && decide (q.stage = .unsent)
  s.addReqs [match (if waits then none else s.sendTag t n r) with
    | some k => s.departing r k
    | none => { r with stage := .unsent }]

/-- An engine makes requests in order. -/
def State.issueReqs (s : State) (t n : Nat) (rs : List Req) : State := rs.foldl (fun s r => s.issueReq t n r) s

/-! ## Descriptors in progress -/

/-- Requests of a descriptor that are still out. -/
def State.descReqs (s : State) (t n serial idx : Nat) : List Req :=
  s.reqs.filter fun r => decide (r.src = .tile t n) && decide (r.chain = serial) && decide (r.desc = idx)

/-- Write runs into the own scratchpad in order. -/
def State.landRuns (s : State) (t n serial : Nat) (rs : List (Int × List PB)) (errs : List SpdErr) : State :=
  rs.foldl (fun s r => s.spdWrite t r.1.toNat r.2 (n + 1) serial errs) s

/-- The received bytes of an inbound descriptor as source runs; a byte that did not come is absent. -/
def gotRuns (d : List W64) (got : List (Nat × PB)) : List (List (Nat × PB)) :=
  let g := tsets (fun _ => (⟨0, false⟩ : PB)) [] got
  let have_ := got.map (·.1)
  let total := dN1 d * dN2 d * dN3 d
  (List.range total).map fun r => (List.range (dRun d)).filterMap fun k =>
    let w := r * dRun d + k
    if have_.contains w then some (k, tget (fun _ => ⟨0, false⟩) g w) else none

/-- Bytes of a run with their places, as runPieces without a gap. -/
def runPieces : List (Nat × PB) → List (Nat × List PB)
  | [] => []
  | (k, b) :: r =>
    match runPieces r with
    | (j, bs) :: z => if j = k + 1 then (k, b :: bs) :: z else (k, [b]) :: (j, bs) :: z
    | [] => [(k, [b])]

/-- Land an inbound descriptor: bytes as they came without a transform, so that only the ends of a piece are narrow writes (R147); a
transform's output only when every byte came. -/
def State.landDesc (s : State) (t n : Nat) (c : Chain) (ds : DescSt) (errs : List SpdErr) : State :=
  let d := ds.words
  let runs := gotRuns d ds.got
  if dXform d = 0 then
    s.landRuns t n c.serial (((outRuns d (dDst d)).zip runs).flatMap fun p => (runPieces p.2).map fun b => (p.1 + (b.1 : Int), b.2)) errs
  else if ds.failed then s
  else
    let x := transform d (runs.map fun r => r.map (·.2)) []
    let s := s.landRuns t n c.serial ((outRuns d (dDst d)).zip x.runs) errs
    let s := if x.side.isEmpty then s else s.spdWrite t (dSide d) x.side (n + 1) c.serial errs
    s.modChain t n fun c => { c with mxNan := c.mxNan || x.mxNan, sparseLoss := c.sparseLoss || x.loss }

/-- A Scent slot's zero bits as a LOAD found them (R207, R210): of its first 1,024 blocks of 256 bytes in walk order. -/
def scentBits (d : List W64) (got : List (Nat × PB)) : List Bool :=
  let n := min 1024 (dN1 d * dN2 d * dN3 d * dRun d / 256)
  (List.range n).map fun k =>
    let bs := got.filter fun p => decide (256 * k ≤ p.1) && decide (p.1 < 256 * (k + 1))
    decide (256 ≤ bs.length) && bs.all fun p => decide (p.2.b = 0) && !p.2.p

/-- A LOAD on which Scent acts (R208, R215). -/
def State.scentOn (s : State) (t : Nat) (d : List W64) : Bool :=
  decide (dOp d = 1) && dScent d && !dNear d && decide (dXform d ≤ 2) && decide (dRun d % 256 = 0)
    && (farRuns d).all (fun a => decide (a % 256 = 0)) && s.on (F.tileScentCtrlEnable t)

/-- A descriptor with nothing outstanding is complete (R198). -/
def State.finishDesc (s : State) (t n idx : Nat) (errs : List SpdErr) : State :=
  match s.chain t n with
  | none => s
  | some c =>
    match c.descs.find? (fun d => decide (d.idx = idx)) with
    | none => s
    | some ds =>
      if (s.descReqs t n c.serial idx).isEmpty then
        let s := if isIn (dOp ds.words) then s.landDesc t n c ds errs else s
        let s := if s.scentOn t ds.words then
            s.modTile t fun x => { x with scent := tset (fun _ => Scent.mk []) x.scent (dSlot ds.words) ⟨scentBits ds.words ds.got⟩ }
          else s
        let s := s.modChain t n fun c =>
          { c with descs := c.descs.filter fun d => decide (d.idx ≠ idx), done := c.done + (if ds.failed then 0 else 1) }
        s.tryEndChain t n
      else s

/-- A stopped chain sends no further packet (R205): its requests that have not left are dropped, and their descriptors are incomplete. A
near-cache fill stays, since lookups of the other engine may wait for its line. -/
def State.dropUnsent (s : State) (t n serial : Nat) : State :=
  let mine (r : Req) : Bool := r.from t n && decide (r.chain = serial) && decide (r.stage = .unsent) && decide (r.kind ≠ .nearFill)
  let gone := s.reqs.filter mine
  let s := { s with reqs := s.reqs.filter fun r => !mine r,
                    fab := { s.fab with awaits := s.fab.awaits.filter fun a => !(gone.any fun r => decide (a.req = some r.id)) } }
  s.modChain t n fun c => { c with descs := c.descs.map fun d =>
    { d with failed := d.failed || gone.any fun r => decide (r.desc = d.idx) } }

/-- Descriptors of a chain with nothing outstanding are complete. -/
def State.finishDescs (s : State) (t n : Nat) (errs : List SpdErr) : State :=
  match s.chain t n with
  | some c => (c.descs.map (·.idx)).foldl (fun s i => s.finishDesc t n i errs) s
  | none => s

/-- The engines of a tile stop, at a discard (R205, R308): no further descriptor or packet, and what is outstanding is awaited. -/
def State.stopEngines (s : State) (t : Nat) : State :=
  let s := s.modTile t fun x => { x with fe0 := x.fe0.stop, fe1 := x.fe1.stop }
  [0, 1].foldl (fun s n => match s.chain t n with
    | some c => ((s.dropUnsent t n c.serial).finishDescs t n []).tryEndChain t n
    | none => s) s

/-- A request of a descriptor is answered: its bytes are kept, its status stops the chain, its poison is noted (R204, R205). -/
def State.deliver (s : State) (r : Req) (t n : Nat) (errs : List SpdErr) : State :=
  let s := s.dropReq r.id
  match s.chain t n with
  | none => s
  | some c =>
    if c.serial ≠ r.chain then s
    else
      let pois := anyPois r.data
      let bytes := (r.segs.foldl (fun (acc : List (Nat × PB) × List PB) g =>
        (acc.1 ++ ((List.range g.len).zip acc.2).map (fun p => (g.walk + p.1, p.2)), acc.2.drop g.len)) ([], r.data)).1
      let s := s.modChain t n fun c =>
        { c with status := if c.status = 0 then r.status else c.status,
                 failDesc := if c.status = 0 ∧ r.status ≠ 0 then r.desc else c.failDesc,
                 poison := c.poison || pois,
                 descs := c.descs.map fun d =>
                   if d.idx = r.desc then { d with got := d.got ++ bytes, failed := d.failed || decide (r.status ≠ 0) } else d }
      let s := if pois then s.bump Ev.fePoison (.tile t) 1 else s
      let s := if r.status = 1 then s.bump Ev.feRefused (.tile t) 1 else s
      if r.status ≠ 0 then (s.dropUnsent t n c.serial).finishDescs t n errs else s.finishDesc t n r.desc errs

/-! ## The near cache (R159 to R163) -/

/-- Sets of a tile's near cache. -/
def State.nearSets (s : State) (t : Nat) : Nat := (s.nearRegion t).2 / 512

/-- Tag key of a line: its set and way. -/
def nearKey (set way : Nat) : Nat := 4 * set + way

/-- The way that holds a line, if any. -/
def State.nearFind (s : State) (t line : Nat) : Option Nat :=
  let set := line % s.nearSets t
  (List.range 4).find? fun w =>
    decide ((tget (fun _ => none) ((s.tile t).near.map fun p => (p.1, some p.2.line)) (nearKey set w)) = some line)

/-- Scratchpad address of a way's line. -/
def State.nearAddr (s : State) (t line way : Nat) : Nat := (s.nearRegion t).1 + nearKey (line % s.nearSets t) way * 128

/-- Drop a tag. -/
def State.nearDrop (s : State) (t key : Nat) : State := s.modTile t fun x => { x with near := x.near.filter fun p => decide (p.1 ≠ key) }

/-- A write of the tile's own engines to module addresses drops the lines that cover them (R162). -/
def State.nearInvalidate (s : State) (t a n : Nat) : State :=
  s.modTile t fun x => { x with near := x.near.filter fun p =>
    !(decide (128 * p.2.line < a + n) && decide (a < 128 * (p.2.line + 1))) }

/-- Touch a line: it is the most recently used of its set. -/
def State.nearTouch (s : State) (t key line : Nat) : State :=
  s.modTile t fun x => { x with near := tset (fun _ => NearLine.mk 0 0) x.near key ⟨line, x.nearAge + 1⟩, nearAge := x.nearAge + 1 }

/-- Least recently used way of a set, an empty one first. -/
def TileSt.nearVictim (x : TileSt) (set : Nat) : Nat :=
  let age (w : Nat) : Nat := (tget (fun _ => NearLine.mk 0 0) x.near (nearKey set w)).age
  (List.range 4).foldl (fun v w => if age w < age v then w else v) 0

/-- The tags of a set are read: one with a parity error loses its entry (R163). -/
def State.nearTags (s : State) (t set : Nat) (errs : List SpdErr) : State :=
  (List.range 4).foldl (fun s w => if errs.contains ⟨nearKey set w, .tagParity⟩ then s.nearDrop t (nearKey set w) else s) s

/-- One lookup of at most a line (R160): a hit is served at once, a miss waits for the line's fill, which the first miss starts. Without a
near-cache region every lookup misses and no fill takes a way (DESIGN CHOICE, log entry 102). -/
def State.nearLookup (s : State) (t n : Nat) (c : Chain) (d : List W64) (idx : Nat) (b : Nat × List Seg) (errs : List SpdErr) : State :=
  let line := b.1 / 128
  let s := s.nearTags t (line % s.nearSets t) errs
  let hit := s.nearFind t line
  let (s, served) := match hit with
    | some w =>
      let (s, bs) := s.spdRead t (s.nearAddr t line w) 128 6 errs
      if anyPois bs then (s.nearDrop t (nearKey (line % s.nearSets t) w), none)
      else ((s.nearTouch t (nearKey (line % s.nearSets t) w) line).bump Ev.ncHit (.tile t) 1, some bs)
    | none => (s, none)
  match served with
  | some bs =>
    let r := s.mkReq t n c d idx .nearFill 0 b.1 b.2 (b.2.flatMap fun g => (bs.drop g.off).take g.len)
    s.addReqs [{ r with stage := .reply }]
  | none =>
    let s := if hit.isNone then s.bump Ev.ncMiss (.tile t) 1 else s
    let filling := s.reqs.any fun r => decide (r.kind = .nearFill) && r.late && decide (r.addr = b.1) &&
      (match r.src with | .tile u _ => decide (u = t) | _ => false)
    let look := { s.mkReq t n c d idx .nearFill 0 b.1 b.2 [] with stage := .waitFill }
    let fill := { s.mkReq t n c d 0x100 .nearFill 0 b.1 [⟨0, b.1 % 256, 128⟩] [] with late := true }
    let s := s.addReqs [look]
    if filling then s else s.issueReq t n fill

/-! ## Beginning a descriptor -/

/-- The source bytes of an outbound descriptor after its transform, in far-side order (R192, R206, R285). -/
def outData (d : List W64) (runs : List (List PB)) (side : List PB) : List PB :=
  let x := (transform d runs side).runs
  if dOp d = 3 ∧ dEtype d = 1 then x.flatMap xWiden else x.flatten

/-- Capture the source of an outbound descriptor (R173, R199). -/
def State.capture (s : State) (t n : Nat) (d : List W64) (errs : List SpdErr) : State × List PB :=
  let (rs, k) := nearRuns d
  let (s, runs) := rs.foldl (fun (acc : State × List (List PB)) a =>
    let (s, bs) := acc.1.spdRead t a.toNat k 1 errs
    (s, acc.2 ++ [bs])) (s, [])
  let (s, side) := if dXform d = 5 then s.spdRead t (dSide d) (sideLen d) 1 errs else (s, [])
  let s := if runs.any anyPois || anyPois side then
      (s.bump Ev.fePoison (.tile t) 1).modChain t n fun c => { c with poison := true } else s
  (s, outData d runs side)

/-- Requests of a copy in the module: the far side cut into sectors. -/
def farBlocks (d : List W64) (cut : Nat) : List (Nat × List Seg) :=
  combine cut (cutRuns cut (farLen d) 0 ((farRuns d).map fun a => (a % 2 ^ 48).toNat))

/-- Scent predicts every block of a request zero (R208, R209): the zero bits of its blocks in walk order. -/
def predicted (bits : List Bool) (segs : List Seg) : Bool := segs.all fun g => bits.getD (g.walk / 256) false

/-- A LOAD begins (R191, R197, R209). -/
def State.beginLoad (s : State) (t n : Nat) (c : Chain) (d : List W64) (idx : Nat) (errs : List SpdErr) : State :=
  let act := s.scentOn t d
  if dNear d then (farBlocks d 128).foldl (fun s b => s.nearLookup t n c d idx b errs) s
  else
    let bits := (tget (fun _ => Scent.mk []) (s.tile t).scent (dSlot d)).bits
    s.issueReqs t n ((farBlocks d 256).map fun b =>
      s.mkReq t n c d idx (if act && predicted bits b.2 then .probe else .memRead) 0 b.1 b.2 [])

/-- A STORE or FOLD begins. -/
def State.beginStore (s : State) (t n : Nat) (c : Chain) (d : List W64) (idx : Nat) (errs : List SpdErr) : State :=
  let (s, data) := s.capture t n d errs
  let s := (farRuns d).foldl (fun s a => s.nearInvalidate t a.toNat (farLen d)) s
  s.issueReqs t n ((farBlocks d 256).map fun b =>
    s.mkReq t n c d idx (if dOp d = 3 then .memFold else .memWrite) 0 b.1 b.2 (segBytesOf data b.2))

/-- A PULL or PUSH begins; its target tile is known (R17, R197, R219). -/
def State.beginMesh (s : State) (t n : Nat) (c : Chain) (d : List W64) (idx tgt : Nat) (errs : List SpdErr) : State :=
  let (s, data) := if dOp d = 5 then s.capture t n d errs else (s, [])
  s.issueReqs t n ((farBlocks d 256).map fun b =>
    s.mkReq t n c d idx (if dOp d = 5 then .meshWrite else .meshRead) tgt b.1 b.2 (segBytesOf data b.2))

/-- A SETFLAG begins: 8 bytes of src to module memory. -/
def State.beginSetflag (s : State) (t n : Nat) (c : Chain) (d : List W64) (idx : Nat) : State :=
  let a := dDst d
  let blocks := combine 256 (cutRun 256 3 a 0 8)
  let s := s.nearInvalidate t a 8
  s.issueReqs t n (blocks.map fun b => s.mkReq t n c d idx .memWrite 0 b.1 b.2 (segBytesOf (pbOf 8 (dSrc d) false) b.2))

/-- Descriptor `i` of a chain is begun. One with scent set on which Scent does not act runs as if it were not, and is counted (R208). -/
def State.openDesc (s : State) (t n i : Nat) (d : List W64) : State :=
  let s := s.modChain t n fun c => { c with next := c.next + 1, descs := c.descs ++ [⟨i, d, [], false⟩] }
  if dScent d && !s.scentOn t d && s.on (F.tileScentCtrlEnable t) then s.bump Ev.scentInelig (.tile t) 1 else s

/-- Begin the next descriptor of an engine's chain with one of the ops in `ops` (R185, R196, R198). `act` makes its requests;
faults of the descriptor itself come first, in the order of R196: FETCH, RANGE, extents (R118), then the target's. -/
def State.beginDesc (s : State) (t n : Nat) (ops : List Nat) (errs : List SpdErr)
    (act : State → Chain → List W64 → Nat → Nat → State) : State :=
  match s.chain t n with
  | none => s
  | some c =>
    let i := c.next
    let a := c.head + 64 * (1 + i)
    let r := s.spdRead t a 64 0 errs
    let d := leWords 8 (r.2.map (·.b))
    if c.nDesc ≤ i ∨ c.status ≠ 0 ∨ c.halted ∨ c.stopped ∨ 1 < n then s
    else if !ops.contains (dOp d) || (dWait d && !c.descs.isEmpty) then s
    else
      let s := r.1
      let flt (cause addr : Nat) : State := s.tileFault t ⟨cause, 4, addr⟩ (n + 1) c.pc
      match r.2.findIdx? (·.p) with
      | some k => flt cPOISON ((a + k) / 8 * 8)
      | none =>
        if s.descBad d then flt cFETCH a
        else match s.nearRange t d with
          | some lo => flt cRANGE lo
          | none =>
            if !c.extentsOk d then flt cFETCH a
            else
              let tg := if dOp d = 4 then s.target t (dSrc d) else if dOp d = 5 then s.target t (dDst d) else .inl 0
              match tg with
              | .inr cause => flt cause (if dOp d = 4 then epOff (dSrc d) else epOff (dDst d))
              | .inl tgt =>
                (act (s.openDesc t n i d) c d i tgt).finishDesc t n i errs

def execLoad (t n : Nat) (errs : List SpdErr) (s : State) : Host.Outcome State Fault Refusal :=
  .next (s.beginDesc t n [1] errs fun s c d i _ => s.beginLoad t n c d i errs)

def execStore (t n : Nat) (errs : List SpdErr) (s : State) : Host.Outcome State Fault Refusal :=
  .next (s.beginDesc t n [2] errs fun s c d i _ => s.beginStore t n c d i errs)

def execFold (t n : Nat) (errs : List SpdErr) (s : State) : Host.Outcome State Fault Refusal :=
  .next (s.beginDesc t n [3] errs fun s c d i _ => s.beginStore t n c d i errs)

def execPull (t n : Nat) (errs : List SpdErr) (s : State) : Host.Outcome State Fault Refusal :=
  .next (s.beginDesc t n [4] errs fun s c d i tgt => s.beginMesh t n c d i tgt errs)

def execPush (t n : Nat) (errs : List SpdErr) (s : State) : Host.Outcome State Fault Refusal :=
  .next (s.beginDesc t n [5] errs fun s c d i tgt => s.beginMesh t n c d i tgt errs)

def execSetflag (t n : Nat) (errs : List SpdErr) (s : State) : Host.Outcome State Fault Refusal :=
  .next (s.beginDesc t n [10] errs fun s c d i _ => s.beginSetflag t n c d i)

/-- NOP moves nothing; a reserved op is taken up here and raises FETCH. -/
def execFetchNop (t n : Nat) (errs : List SpdErr) (s : State) : Host.Outcome State Fault Refusal :=
  .next (s.beginDesc t n [0, 11, 12, 13, 14, 15] errs fun s _ _ _ _ => s)

end Sys2Proof.Machine
end

