-- ==== Sys2Proof/Machine/Packet.lean ====
section
/-! DEFINITION. Packets and flits on the wire (R382 to R385, R389, R396 to R398, R430, R538): words of a packet, its flits, the CRC,
and the packet that received words spell. -/

namespace Sys2Proof

open Machine

/-! ## Types (R397), notices (R398) -/

def pDEPOSIT : Nat := 1
def pFOLD : Nat := 2
def pSIGNAL : Nat := 3
def pCALL : Nat := 4
def pRESP : Nat := 5
def pNOTICE : Nat := 6
def pMGMT : Nat := 7
def pPACK : Nat := 8

def nCommit : Nat := 0
def nAbort : Nat := 1
def nAbortAck : Nat := 2
def nUnprot : Nat := 3
def nInDoubt : Nat := 4

/-! ## Statuses (R205) -/

def rOK : Nat := 0
def rREFUSED : Nat := 1
def rWINDOW_CLOSED : Nat := 2
def rWINDOW_DENIED : Nat := 3
def rWINDOW_BOUNDS : Nat := 4
def rUNREACHABLE : Nat := 5
def rBUS_ERROR : Nat := 7

/-- A packet with nothing set. -/
def Packet.blank : Packet :=
  { typ := 0, collar := 0, dst := 0, src := 0, wkind := 0, winIdx := 0, gen := 0, doorbell := false, etype := 0, ret := false,
    offset := 0, lenM1 := 0, epoch := 0, tile := 0, birth := 0, reqTile := 0, reqEngine := 0, reqTag := 0, reqKind := 0,
    reqPort := 0, code := 0, unprot := false, data := [], poison := [], pack := none, mgmt := none }

/-- Virtual lane of a packet (R389). -/
def Packet.vl (p : Packet) : Nat :=
  if p.typ = pDEPOSIT then (if p.collar < 8 then 0 else 1)
  else if p.typ = pFOLD then (if p.collar < 8 then 0 else 2)
  else if p.typ = pMGMT then 5
  else if p.typ = pPACK then 4
  else 3

/-- The pool that holds a packet's flits: lanes 0 to 7, and 8 for the response pool of lane 3. -/
def Packet.pool (p : Packet) : Nat := if p.typ = pRESP then 8 else p.vl

/-- Flit buffers of a pool (R389). -/
def poolSize : Nat → Nat
  | 0 => 256 | 1 => 256 | 2 => 256 | 3 => 48 | 4 => 48 | 5 => 32 | 8 => 64 | _ => 0

/-! ## Words -/

/-- The four header words (R396). -/
def Packet.header (p : Packet) : List W64 :=
  let win := if p.wkind = 1 then p.winIdx % 4 else p.winIdx % 1024
  [BitVec.ofNat 64 (p.typ % 16 + p.collar % 16 * 2 ^ 4 + p.dst % 2 ^ 14 * 2 ^ 8 + p.src % 2 ^ 14 * 2 ^ 22 + p.wkind % 2 * 2 ^ 36
     + win * 2 ^ 37 + p.gen % 256 * 2 ^ 47 + b2n p.doorbell * 2 ^ 55 + p.etype % 4 * 2 ^ 56 + b2n p.ret * 2 ^ 58),
   BitVec.ofNat 64 (p.offset % 2 ^ 40 + p.lenM1 % 2 ^ 16 * 2 ^ 40),
   BitVec.ofNat 64 (p.epoch % 2 ^ 32 + p.tile % 2 ^ 15 * 2 ^ 32 + p.birth % 2 ^ 16 * 2 ^ 47),
   BitVec.ofNat 64 (p.reqTile % 2 ^ 15 + p.reqEngine % 2 * 2 ^ 15 + p.reqTag % 64 * 2 ^ 16 + p.reqKind % 4 * 2 ^ 22
     + p.reqPort % 8 * 2 ^ 24 + p.code % 16 * 2 ^ 32 + b2n p.unprot * 2 ^ 36)]

/-- The pack header (R430). -/
def PackHdr.words (h : PackHdr) : List W64 :=
  [BitVec.ofNat 64 (h.tree % 16 + h.kind % 16 * 2 ^ 4 + b2n (!h.up) * 2 ^ 8 + h.rop % 8 * 2 ^ 9 + h.dtype % 4 * 2 ^ 12
     + h.countM1 % 8 * 2 ^ 14 + h.child % 8 * 2 ^ 17 + h.status % 16 * 2 ^ 20 + h.opSeq % 2 ^ 16 * 2 ^ 32),
   BitVec.ofNat 64 (h.members % 2 ^ 32), BitVec.ofNat 64 h.aux, 0]

/-- The management header (R538). -/
def MgmtHdr.words (h : MgmtHdr) : List W64 :=
  [BitVec.ofNat 64 (h.kind % 256 + h.link % 64 * 2 ^ 8 + b2n h.idValid * 2 ^ 14 + h.part % 2 ^ 16 * 2 ^ 16 + h.status % 16 * 2 ^ 32), 0, 0, 0]

/-- All words of a packet. -/
def Packet.words (p : Packet) : List W64 :=
  p.header ++ (p.pack.elim [] PackHdr.words) ++ (p.mgmt.elim [] MgmtHdr.words) ++ leWords ((p.data.length + 7) / 8) p.data

/-- Body words before the data. -/
def Packet.lead (p : Packet) : Nat := 4 + (if p.pack.isSome then 4 else 0) + (if p.mgmt.isSome then 4 else 0)

/-- Cut a list into pieces of `n`. -/
def cutList {α : Type} (n : Nat) : Nat → List α → List (List α)
  | 0, _ => []
  | fuel + 1, xs => if xs.isEmpty then [] else xs.take n :: cutList n fuel (xs.drop n)

/-- The flits of a packet (R385). -/
def Packet.flits (p : Packet) : List TxFlit :=
  let ws := p.words
  let cs := cutList 30 (ws.length / 30 + 1) ws
  (cs.zip (List.range cs.length)).map fun c =>
    { vl := p.vl, rpool := decide (p.typ = pRESP), sop := decide (c.2 = 0), eop := decide (c.2 + 1 = cs.length), body := c.1,
      poison := (List.range 30).foldl (fun m i =>
        if p.lead ≤ 30 * c.2 + i ∧ p.poison.contains (30 * c.2 + i - p.lead) then m + 2 ^ i else m) 0,
      pkt := p, die := 0 }

/-! ## Reading words back -/

/-- The pack header in words. -/
def PackHdr.ofWords (w : Nat → Nat) : PackHdr :=
  { tree := bf (w 0) 0 4, kind := bf (w 0) 4 4, up := !bit (w 0) 8, rop := bf (w 0) 9 3, dtype := bf (w 0) 12 2, countM1 := bf (w 0) 14 3,
    child := bf (w 0) 17 3, status := bf (w 0) 20 4, opSeq := bf (w 0) 32 16, members := bf (w 1) 0 32, aux := w 2 }

/-- The management header in words. -/
def MgmtHdr.ofWords (w : Nat → Nat) : MgmtHdr :=
  { kind := bf (w 0) 0 8, link := bf (w 0) 8 6, idValid := bit (w 0) 14, part := bf (w 0) 16 16, status := bf (w 0) 32 4 }

/-- The packet in received words; `poison` lists poisoned words. -/
def Packet.ofWords (ws : List W64) (poison : List Nat) : Packet :=
  let w (i : Nat) : Nat := (ws.getD i 0).toNat
  let typ := bf (w 0) 0 4
  let hasP := decide (typ = pPACK)
  let hasM := decide (typ = pMGMT)
  let lead := if hasP || hasM then 8 else 4
  let tail := ws.drop lead
  { typ := typ, collar := bf (w 0) 4 4, dst := bf (w 0) 8 14, src := bf (w 0) 22 14, wkind := bf (w 0) 36 1,
    winIdx := if bf (w 0) 36 1 = 1 then bf (w 0) 37 2 else bf (w 0) 37 10, gen := bf (w 0) 47 8, doorbell := bit (w 0) 55,
    etype := bf (w 0) 56 2, ret := bit (w 0) 58, offset := bf (w 1) 0 40, lenM1 := bf (w 1) 40 16, epoch := bf (w 2) 0 32,
    tile := bf (w 2) 32 15, birth := bf (w 2) 47 16, reqTile := bf (w 3) 0 15, reqEngine := bf (w 3) 15 1,
    reqTag := bf (w 3) 16 6, reqKind := bf (w 3) 22 2, reqPort := bf (w 3) 24 3, code := bf (w 3) 32 4, unprot := bit (w 3) 36,
    data := tail.flatMap fun x => leBytes 8 x.toNat, poison := (poison.filter fun i => decide (lead ≤ i)).map (· - lead),
    pack := if hasP then some (PackHdr.ofWords fun i => w (4 + i)) else none,
    mgmt := if hasM then some (MgmtHdr.ofWords fun i => w (4 + i)) else none }

/-- A packet keeps the types and lengths of R397 and the kinds of R430 and R538. The data bytes of a management packet begin with its header. -/
def Packet.formOk (p : Packet) : Bool :=
  let n := p.data.length
  match p.typ with
  | 1 => decide (8 ≤ n) && decide (n ≤ 2048) && decide (n % 8 = 0) && decide (p.lenM1 + 1 = n)
  | 2 => decide (8 ≤ n) && decide (n ≤ 2048) && decide (n % 8 = 0) && decide (p.lenM1 + 1 = n)
  | 3 => decide (n = 8)
  | 4 => decide (n = 16)
  | 5 => decide (n = 0)
  | 6 => decide (n = 0)
  | 7 => decide (n + 32 ≤ 2048)
  | 8 => match p.pack with
    | some h => if h.kind = 2 then decide (n = 8 * (h.countM1 + 1)) else if h.kind = 3 then decide (n = 256) else decide (n = 0) && decide (1 ≤ h.kind) && decide (h.kind ≤ 7)
    | none => false
  | _ => false

/-! ## CRC-32 (R384) -/

/-- One bit of the reflected IEEE 802.3 polynomial. -/
def crcBit (c : W32) : W32 := if c.getLsbD 0 then (c >>> 1) ^^^ 0xEDB88320 else c >>> 1

/-- CRC-32 of bytes. -/
def crc32 (bs : List Byte) : W32 :=
  ~~~ (bs.foldl (fun c b => crcBit (crcBit (crcBit (crcBit (crcBit (crcBit (crcBit (crcBit (c ^^^ b.setWidth 32))))))))) 0xFFFFFFFF)

/-- The link header of a flit (R383). -/
def Flit.header (f : Flit) : Nat :=
  f.seq % 4096 + f.ackSeq % 4096 * 2 ^ 12 + b2n f.nak * 2 ^ 24 + b2n f.ctl * 2 ^ 25 + f.vl % 8 * 2 ^ 26 + b2n f.rpool * 2 ^ 29
    + b2n f.sop * 2 ^ 30 + b2n f.eop * 2 ^ 31 + f.crVl % 8 * 2 ^ 32 + b2n f.crRpool * 2 ^ 35 + f.crTotal % 1024 * 2 ^ 36
    + f.body.length % 32 * 2 ^ 46

/-- Bytes 0 to 251 of a flit (R382). -/
def Flit.bytes (f : Flit) : List Byte :=
  leBytes 8 f.header ++ (List.range 30).flatMap (fun i => leBytes 8 (f.body.getD i 0).toNat) ++ leBytes 4 f.poison.toNat

/-- The flit's CRC is that of its bytes. -/
def Flit.crcOk (f : Flit) : Bool := decide (f.crc = crc32 f.bytes)

end Sys2Proof
end

