-- ==== Sys2Proof/Machine/Report.lean ====
section
/-! DEFINITION. What the module reports to its host: completion entries (R464, R465), notices (R475, R476), MSI-X messages, and the
fault log (R523). Writes to host memory are recorded in `State.host.mem`. -/

namespace Sys2Proof.Machine

/-! ## Redundant tables (R506) -/

/-- Code of KEEP_FAULT_STAT.hold_table; Twin entries go with the hash map (DEDUCED, log entry 47). -/
def holdCode : TableKind → Nat
  | .tileMap => 0 | .hashMap => 1 | .twin => 1 | .perm => 2 | .route => 3 | .window => 4

/-- The status register of a table's copies in an owning die: deck die, floor die, or port die; a floor die's routing table has instance
8 plus the floor. -/
def mapStat (t : TableKind) (i : Nat) : Nat :=
  match t with
  | .tileMap => R.deckMapStat i
  | .hashMap | .twin | .perm => R.floorMapStat i
  | .route => if i < 8 then R.portMapStat i else R.floorMapStat (i - 8)
  | .window => R.portMapStat i

/-- The tables whose copies that register speaks for (R276, R417): bit i of its crc_ok is set where copy i of each of them passes. -/
def mapTables (t : TableKind) (i : Nat) : List (TableKind × Nat) :=
  let floor (f : Nat) : List (TableKind × Nat) := [(.hashMap, f), (.twin, f), (.perm, f), (.route, 8 + f)]
  let port (p : Nat) : List (TableKind × Nat) := [(.route, p), (.window, p)]
  match t with
  | .tileMap => [(.tileMap, i)]
  | .hashMap | .twin | .perm => floor i
  | .route => if i < 8 then port i else floor (i - 8)
  | .window => port i

/-- Key of a die's table. -/
def tabKey (t : TableKind) (i : Nat) : Nat :=
  16 * (match t with | .tileMap => 0 | .hashMap => 1 | .twin => 2 | .perm => 3 | .route => 4 | .window => 5) + i % 16

/-- Three copies that pass. -/
def allPass : List Bool := [true, true, true]

/-- Which copies of a table pass their CRC. -/
def State.copies (s : State) (t : TableKind) (i : Nat) : List Bool := tget (fun _ => allPass) s.keep.copies (tabKey t i)

/-- crc_ok of the register that speaks for a table. -/
def State.crcMask (s : State) (t : TableKind) (i : Nat) : Nat :=
  let ok (k : Nat) : Nat := b2n ((mapTables t i).all fun x => (s.copies x.1 x.2).getD k false)
  ok 0 + 2 * ok 1 + 4 * ok 2

/-- A write or a check leaves a table's copies so. -/
def State.setCopies (s : State) (t : TableKind) (i : Nat) (ok : List Bool) : State :=
  let s := { s with keep := { s.keep with copies := tset (fun _ => allPass) s.keep.copies (tabKey t i) ok } }
  s.wr ⟨mapStat t i, 0, 3⟩ (s.crcMask t i)

/-! ## Status codes (R474) -/

def sOK : Nat := 0x0000
def sEPOCH_OVERFLOW : Nat := 0x0101
def sHEEL_ACTIVE : Nat := 0x0102
def sHINT_UNMET : Nat := 0x0103
def sPIN_CAP : Nat := 0x0104
def sINVALID_OPCODE : Nat := 0x0201
def sINVALID_FIELD : Nat := 0x0202
def sHOST_DMA : Nat := 0x0203
def sNO_JOB : Nat := 0x0204
def sJOB_LIMIT : Nat := 0x0205
def sSTAGE_INVALID : Nat := 0x0206
def sJOB_SEALED : Nat := 0x0207
def sNOT_PLACED : Nat := 0x0208
def sPLACE_NOFIT : Nat := 0x0209
def sOVERCOMMIT : Nat := 0x020A
def sWINDOW_BOUNDS : Nat := 0x020B
def sWINDOW_STATE : Nat := 0x020C
def sTREE_INVALID : Nat := 0x020D
def sBUSY : Nat := 0x020E
def sNOT_READY : Nat := 0x020F
def sPARTITION_DOWN : Nat := 0x0210
def sRETIRED : Nat := 0x0211
def sSIG_INVALID : Nat := 0x0212
def sROLLBACK : Nat := 0x0213
def sKEEPER_RESTART : Nat := 0x0214
def sPASS_FAULT : Nat := 0x0301
def sJOB_FATAL : Nat := 0x0302
def sCHANNEL_LOST : Nat := 0x0303
def sABORTED : Nat := 0x0304
def sPOISON : Nat := 0x0305
def sMISMATCH : Nat := 0x0306
def sTIMEOUT : Nat := 0x0307
def sREFUSED : Nat := 0x0308
def sWINDOW_CLOSED : Nat := 0x0309
def sWINDOW_DENIED : Nat := 0x030A
def sUNREACHABLE : Nat := 0x030B
def sOWNER_VIOLATION : Nat := 0x030C
def sCHUNK_BOUNDS : Nat := 0x030D

/-! ## Host side -/

/-- Change the host-side state. -/
def State.modHost (s : State) (f : HostSt → HostSt) : State := { s with host := f s.host }

/-- A queue. -/
def State.queue (s : State) (q : Nat) : Queue := tget (fun _ => Queue.reset) s.host.queues q

/-- Replace a queue. -/
def State.setQueue (s : State) (q : Nat) (x : Queue) : State :=
  s.modHost fun h => { h with queues := tset (fun _ => Queue.reset) h.queues q x }

/-- Entries of a queue's rings (R462, R487). -/
def State.ringSize (s : State) (q : Nat) : Nat := 2 ^ (min 12 (max 4 (s.rd (F.cmdqQcfgLog2Size q))))

/-- The module writes host memory. -/
def State.hostWrite (s : State) (a : Nat) (bs : List Byte) : State := s.modHost fun h => { h with mem := msets h.mem a bs }

/-- The module sends an MSI-X message. -/
def State.msix (s : State) (v : Nat) : State :=
  s.modHost fun h => { h with msix := tset (fun _ => 0) h.msix (v % 64) (tget (fun _ => 0) h.msix (v % 64) + 1) }

/-- The completion ring has room: one entry stays unused, so that head and tail tell full from empty (log entry 20). -/
def State.cqRoom (s : State) (q : Nat) : Bool :=
  let n := s.ringSize q
  decide (((s.queue q).tail + 1) % n ≠ s.rd (F.cmdqCqHeadIndex q) % n)

/-- Write a completion entry to its ring (R464) and raise the vector (R475). -/
def State.postNow (s : State) (q : Nat) (c : Completion) : State :=
  let x := s.queue q
  let n := s.ringSize q
  let w0 := c.cmdId % 2 ^ 16 + c.status % 2 ^ 16 * 2 ^ 16 + x.head % 2 ^ 12 * 2 ^ 32 + q % 16 * 2 ^ 44 + b2n c.notice * 2 ^ 48 + b2n x.phase * 2 ^ 63
  let s := s.hostWrite (4096 * s.rd (F.cmdqCqBaseAddr q) + 16 * x.tail) (leBytes 8 w0 ++ leBytes 8 c.result.toNat)
  let s := s.setQueue q { x with tail := (x.tail + 1) % n, phase := if (x.tail + 1) % n = 0 then !x.phase else x.phase }
  if c.irq then s.msix (if c.notice then s.rd F.cmdqEvtCfgVector else s.rd (F.cmdqQcfgVector q)) else s

/-- Post a command's completion, or hold it while the ring is full or the Keeper restarts (R465, R521). A disabled queue takes
none (R485). -/
def State.post (s : State) (q : Nat) (c : Completion) : State :=
  if !(s.queue q).run then s
  else if (s.queue q).held.isEmpty && s.cqRoom q && !s.keep.restarting then s.postNow q c
  else s.setQueue q { s.queue q with held := (s.queue q).held ++ [c] }

/-- Post held completions while there is room (R465). -/
def State.postHeld (s : State) (q : Nat) : State :=
  let go : Nat → State → State := fun n s => (List.range n).foldl (fun s _ =>
    match (s.queue q).held with
    | c :: r => if s.cqRoom q && !s.keep.restarting then (s.setQueue q { s.queue q with held := r }).postNow q c else s
    | [] => s) s
  go (s.queue q).held.length s

/-- A disabled queue stops once its commands have completed (R487). -/
def State.queueRest (s : State) (q : Nat) : State :=
  if s.on (F.cmdqQcfgEnable q) ∨ (s.queue q).out ≠ 0 ∨ !(s.queue q).held.isEmpty then s else s.setQueue q { s.queue q with run := false }

/-- A command completes (R464): its completion is posted and its queue's busy bit follows. One that no queue sent has no completion. -/
def State.complete (s : State) (e : Entry) (status result : Nat) : State :=
  if 16 ≤ e.sq then s else
  let x := s.queue e.sq
  let s := (s.setQueue e.sq { x with out := x.out - 1 }).wr (F.cmdqQcfgBusy e.sq) (b2n (decide (1 < x.out)))
  (s.post e.sq ⟨e.cmdId, status, BitVec.ofNat 64 result, false, !e.noIrq⟩).queueRest e.sq

/-- The module's own request to host address `a` for a command fails (R468, R483, R494). -/
def State.hostFail (s : State) (e : Entry) (a : Nat) : State :=
  (s.record F.hostwErrValid F.hostwErrMulti
    [(F.hostwErrKind, 6), (F.hostwErrBar, 3), (F.hostwErrOffset, a)]).complete e sHOST_DMA 0

/-- A command starts and waits. -/
def State.await (s : State) (e : Entry) (w : Wait) : State := s.modHost fun h => { h with waits := h.waits ++ [⟨e, w⟩] }

/-- The commands that wait for `p` complete with a status and result. -/
def State.finish (s : State) (p : Wait → Bool) (status result : Nat) : State :=
  let ws := s.host.waits.filter fun w => p w.why
  let s := s.modHost fun h => { h with waits := h.waits.filter fun w => !p w.why }
  ws.foldl (fun s w => s.complete w.e status result) s

/-- Post a notice (R476): kinds 1 and 3 always, the others if their mask bit is set; a full ring drops and counts it. During a
Keeper restart it waits as a completion does (R521). -/
def State.notice (s : State) (kind status result : Nat) : State :=
  if !(bit s.host.mask kind || decide (kind = 1) || decide (kind = 3)) || !(s.queue 0).run then s
  else if s.keep.restarting then s.setQueue 0 { s.queue 0 with held := (s.queue 0).held ++ [⟨kind, status, BitVec.ofNat 64 result, true, true⟩] }
  else if s.cqRoom 0 && (s.queue 0).held.isEmpty then s.postNow 0 ⟨kind, status, BitVec.ofNat 64 result, true, true⟩
  else s.satAdd F.cmdqEvtLostCount 1

/-- The Keeper writes a fault record and posts its notice (R523). `detail` is the register that the record copies. -/
def State.faultLog (s : State) (source cls unitKind unit action cause detail : Nat) : State :=
  let r : LogRec :=
    { time := s.now, source := source, cls := cls, unitKind := unitKind, unit := unit, action := action, cause := cause,
      epoch := if s.pass.isSome then s.epoch else 0, pass := match s.pass with | some p => p.number | none => 0, detail := s.reg detail }
  let idx := s.rd F.keepLogStatNextIndex
  let full := decide (4096 ≤ s.rd F.keepLogStatUnread)
  let s := { s with keep := { s.keep with log := if full then s.keep.log.drop 1 ++ [r] else s.keep.log ++ [r] } }
  let s := s.wr F.keepLogStatNextIndex (idx + 1)
  let s := if full then s.satAdd F.keepLogStatLost 1 else s.wr F.keepLogStatUnread (s.rd F.keepLogStatUnread + 1)
  let s := if cls = 1 then s.bump Ev.faultAbsorbed .module 1 else if cls = 2 then s.bump Ev.faultJobFatal .module 1 else s
  s.notice 8 sOK (idx + cls * 2 ^ 16)

/-- A record's 32 bytes (R523). -/
def LogRec.bytes (r : LogRec) : List Byte :=
  leBytes 8 r.time
    ++ leBytes 8 (r.source % 256 + r.cls % 4 * 2 ^ 8 + r.unitKind % 16 * 2 ^ 10 + r.unit % 2 ^ 16 * 2 ^ 14 + r.action % 16 * 2 ^ 30
        + r.cause % 256 * 2 ^ 34)
    ++ leBytes 8 (r.epoch % 2 ^ 32 + r.pass % 2 ^ 32 * 2 ^ 32) ++ leBytes 8 r.detail.toNat

/-! ## Measurements (R654): the digest is taken when the measurement is read -/

/-- A measurement as last updated. -/
def State.meas (s : State) (i : Nat) : Meas := tget (fun _ => (⟨[], [], 0, 0⟩ : Meas)) s.fw.meas i

/-- A measurement is updated. -/
def State.measure (s : State) (i : Nat) (parts : List (List Byte)) (regs : Table W64) : State :=
  { s with fw := { s.fw with meas := tset (fun _ => (⟨[], [], 0, 0⟩ : Meas)) s.fw.meas i ⟨parts, regs, (s.meas i).count + 1, s.now⟩ } }

/-- Measurement 7 is updated (R654): the routing table as port die 0 holds it, and the module windows. The rule names one table where
each port die holds its own (R400); ROUTE_SET, whose completion updates the measurement, writes all of them alike (DEDUCED, log entry 107). -/
def State.measureTables (s : State) : State :=
  s.measure 7 [] (s.regs.filter fun p => (decide (R.portRoute 0 0 ≤ p.1) && decide (p.1 ≤ R.portRoute 0 4095))
    || (decide (R.winCtrl 0 ≤ p.1) && decide (p.1 ≤ R.winLen 1023)))

/-! ## Bring-up steps (R530, R531, R550) -/

/-- Step after the last one that succeeded: the only one that a GO may name. -/
def State.nextStep (s : State) : Nat := if s.on F.bootStatusDoneValid then s.rd F.bootStatusDoneUpto + 1 else 0

/-- A step starts. -/
def State.stepBegin (s : State) (k : Nat) (src : StepSrc) : State :=
  { s.wrs [(F.bootStatusStep, k), (F.bootStatusState, 1)] with boot := { s.boot with running := true, src := some src } }

/-- A GO (R530): ignored while a step runs. -/
def State.stepGo (s : State) (k : Nat) : State :=
  if s.boot.running then s else if k = s.nextStep ∧ k ≤ 12 then s.stepBegin k .boot else s.wr F.bootStatusResult 0x10

/-- The running step ends with a result code: 1 and 2 are success. A BRINGUP_STEP completes with the code, whichever it is (DEDUCED, log
entry 56). -/
def State.stepEnd (s : State) (result : Nat) : State :=
  let k := s.rd F.bootStatusStep
  let src := s.boot.src
  let s := s.wrs [(F.bootStatusState, if result ≤ 2 then 2 else 3), (F.bootStatusResult, result)]
  let s := if 2 < result then s else s.wrs [(F.bootStatusDoneUpto, k), (F.bootStatusDoneValid, 1), (F.bootStatusReady, b2n (decide (k = 12)))]
  let s := { s with boot := { s.boot with running := false, src := none } }
  match src with | some (.cmd e) => s.complete e sOK result | _ => s

/-! ## Non-replayable passes (R300, R301, R316) -/

/-- Causes of nonrep. -/
def nrQUOTA : Nat := 1
def nrENTRIES : Nat := 2
def nrCOLLISION : Nat := 3
def nrUNPROT_ACK : Nat := 4
def nrPACK : Nat := 5

/-- Mark the module's pass non-replayable; the first cause stays (R301). The log notes it once (R501 code 21). -/
def State.markNonrep (s : State) (cause detail : Nat) : State :=
  if s.pass.isNone || s.on F.keepPassStatNonrep then s
  else (s.wrs [(F.keepPassStatNonrep, 1), (F.keepPassStatNonrepCause, cause)]).faultLog 21 1 0 0 0 0 detail

end Sys2Proof.Machine
end

