-- ==== Sys2Proof/Machine/Leash.lean ====
section
/-! DEFINITION. Leash capacities (R359, R368, R369), escalation (R364, R365), levels, tiers, credits and turns at an arbiter (R357, R358, R360,
R361). -/

namespace Sys2Proof.Machine

/-! ## Leashes -/

def lSHAFT : Nat := 0
def lRING : Nat := 1
def lSLICE : Nat := 2
def lHBM : Nat := 3
def lLINK : Nat := 4

/-- Nominal capacity of a class in MB/s (R359); HBM at the trained rate (R319). -/
def State.nominal (s : State) (cls : Nat) : Nat :=
  match cls with
  | 0 => 102400
  | 1 => 2000000
  | 2 => 307200
  | 3 => match s.rd (F.hbmcCfgRate 0) with | 0 => 51200 | 1 => 64000 | 2 => 73600 | _ => 76800
  | _ => 100000

/-- Configured reservation of a collar in a class. -/
def State.leash (s : State) (c cls : Nat) : Nat := s.rd (F.keepLeashMbps (8 * c + cls))

/-- R368: the cuts of collars 15 down to 2 at an instance of the given capacity: collar and effective reservation of each collar
cut. -/
def State.leashCuts (s : State) (cls cap : Nat) : List (Nat × Nat) :=
  let limit := cap * 9 / 10
  let total := ((List.range 14).map fun c => s.leash (c + 2) cls).sum
  ((List.range 14).foldl (fun (acc : Nat × List (Nat × Nat)) k =>
    let c := 15 - k
    let cut := min (s.leash c cls) (acc.1 - limit)
    if cut = 0 then acc else (acc.1 - cut, acc.2 ++ [(c, s.leash c cls - cut)])) (total, [])).2

/-- Key of an instance in `State.caps`. -/
def capKey (cls dir inst : Nat) : Nat := cls * 2 ^ 16 + dir * 2 ^ 15 + inst

/-- The scaled bits of a class follow its degraded instances (R375). -/
def State.leashScaled (s : State) (cls : Nat) : State :=
  let cuts := s.caps.filterMap fun p => if p.1 / 2 ^ 16 = cls ∧ p.2 ≠ 0 then some (s.leashCuts cls (p.2 - 1)) else none
  (List.range 14).foldl (fun s k => s.wr (F.keepLeashScaled (8 * (k + 2) + cls)) (b2n (cuts.any fun l => l.any fun q => decide (q.1 = k + 2)))) s

/-- A recomputation for `count` instances of one in-service capacity, first `inst` in direction `dir`: where it leaves a collar short it is
recorded, counted and posted once (R369, R371). -/
def State.shortfall (s : State) (cls dir inst count cap : Nat) : State :=
  let cuts := s.leashCuts cls cap
  if cuts.isEmpty then s
  else
    let mask (p : Nat → Bool) : Nat := cuts.foldl (fun m q => if p q.2 then m + 2 ^ q.1 else m) 0
    let s := (s.bump Ev.leashShortfall .module 1).record F.keepLeashShortValid F.keepLeashShortMulti
      [(F.keepLeashShortClass, cls), (F.keepLeashShortDir, dir), (F.keepLeashShortInstance, inst), (F.keepLeashShortCount, count),
       (F.keepLeashShortReduced, mask fun e => decide (e ≠ 0)), (F.keepLeashShortZeroed, mask fun e => decide (e = 0))]
    s.notice 4 sOK (s.reg R.keepLeashShort).toNat

/-- One degradation event gives instances of a class, each a direction and a number, a new in-service capacity (R368). Only those whose
capacity changes are recomputed, and they are one notice (R369). -/
def State.setCaps (s : State) (cls : Nat) (insts : List (Nat × Nat)) (cap : Nat) : State :=
  let v := if cap = s.nominal cls then 0 else cap + 1
  let hit := insts.filter fun i => decide (tget (fun _ => 0) s.caps (capKey cls i.1 i.2) ≠ v)
  match hit with
  | [] => s
  | i :: _ =>
    ({ s with caps := hit.foldl (fun t i => tset (fun _ => 0) t (capKey cls i.1 i.2) v) s.caps,
              credits := s.credits.filter fun c => !(hit.any fun i => decide (c.1 / 16 = capKey cls i.1 i.2)) } : State).leashScaled cls
      |>.shortfall cls i.1 i.2 hit.length cap

/-- One instance changes. -/
def State.setCap (s : State) (cls dir inst cap : Nat) : State := s.setCaps cls [(dir, inst)] cap

/-- A new leash table scales what is already degraded (R362, R367): one recomputation for each capacity of a class and direction. -/
def State.rescale (s : State) (cls : Nat) : State :=
  let deg := (s.caps.filter fun p => decide (p.1 / 2 ^ 16 = cls) && decide (p.2 ≠ 0)).map fun p => (p.1 % 2 ^ 16 / 2 ^ 15, p.2, p.1 % 2 ^ 15)
  ((deg.map fun d => (d.1, d.2.1)).eraseDups).foldl (fun s g =>
    let is := deg.filter fun d => decide ((d.1, d.2.1) = g)
    s.shortfall cls g.1 ((is.map fun d => d.2.2).headD 0) is.length (g.2 - 1)) s

/-! ## Escalation (R364, R365) -/

/-- Steps after a request, from steps so far and the measured latency `m` in 1/256 ns: one threshold at a time, with hysteresis. -/
def escStep (target m : Nat) (bulk : Bool) (steps : Nat) : Nat :=
  let up (k pct : Nat) (s : Nat) : Nat := if s = k ∧ target * 256 * pct < m * 100 then k + 1 else s
  let down (k pct : Nat) (s : Nat) : Nat := if s = k + 1 ∧ m * 100 < target * 256 * pct then k else s
  let s := up 2 90 (up 1 75 (up 0 50 steps))
  let s := if bulk then s else up 3 100 s
  down 0 40 (down 1 65 (down 2 80 (down 3 90 s)))

/-- The steps of a collar at an instance, from its key in `State.lat`. -/
def escField (key : Nat) : Fld :=
  let n := key % 8192 / 16
  ⟨if 8192 ≤ key then R.hbmcChEsc (n / 16) (n % 16) else R.sliceEsc n, 3 * (key % 16), 3⟩

/-- An instance completes a request of a collar with latency `x` in ns: `hbm` says a channel, else a slice. `m` is kept in units of 1/256 ns,
and which way the division of R365 rounds is free (log entry 21). -/
def State.latency (s : State) (hbm : Bool) (inst collar x : Nat) : State :=
  let target := if hbm then s.rd (F.keepLatTgtHbmNs collar) else s.rd (F.keepLatTgtSliceNs collar)
  if target = 0 ∨ collar < 2 then s
  else
    let key := (if hbm then 8192 else 0) + 16 * inst + collar
    let m := tget (fun _ => 0) s.lat key
    let (c, s) : Nat × State := if m % 256 = 0 then (0, s) else let (v, s) := s.free; (v % 2, s)
    let m' := m + x - m / 256 - c
    let f := escField key
    let s := { s with lat := tset (fun _ => 0) s.lat key m' }
    let u : EvUnit := .slice inst
    let s := if target < x then s.bump Ev.latMiss u 1 else s
    let st := if s.on F.keepCollarCfgEscEn then escStep target m' (decide (8 ≤ collar)) (s.rd f) else 0
    if st = s.rd f then s else (s.wr f st).bump Ev.escStep u 1

/-- A collar's measured latencies, and with them its escalation steps, start again at the kind of instance whose target differs from that of
an earlier state (R365). -/
def State.latFollow (s old : State) (c : Nat) : State :=
  let new (key : Nat) : Bool :=
    if key < 8192 then decide (s.rd (F.keepLatTgtSliceNs c) ≠ old.rd (F.keepLatTgtSliceNs c)) else decide (s.rd (F.keepLatTgtHbmNs c) ≠ old.rd (F.keepLatTgtHbmNs c))
  let hit (p : Nat × Nat) : Bool := decide (p.1 % 16 = c) && new p.1
  let s := (s.lat.filter hit).foldl (fun s p => s.wr (escField p.1) 0) s
  { s with lat := s.lat.filter fun p => !hit p }

/-- KEEP_COLLAR_CFG.esc_en at 0 makes every escalation step 0 (R370). -/
def State.escFollow (s : State) : State :=
  if s.on F.keepCollarCfgEscEn then s else s.lat.foldl (fun s p => s.wr (escField p.1) 0) s

/-! ## Levels (R357) and barks (R366) -/

/-- Level of a link's receive buffer in KEEP_BARK_LINK (R372). -/
def barkFld (l : Nat) : Fld := ⟨R.keepBarkLink (l / 32), 2 * (l % 32), 2⟩

/-- Level of a port die's combining buffer in KEEP_BARK_PACK (R373). -/
def barkPackFld (p : Nat) : Fld := ⟨R.keepBarkPack, 2 * p, 2⟩

/-- The bark level that a buffer's drain requests have: 0 while barks set no levels (R370). -/
def State.barkOf (s : State) (f : Fld) : Nat := if s.on F.keepCollarCfgBarkEn then s.rd f else 0

/-- Bark level of the requests that drain a link's receive buffer; a port die's own packets (64 and up) drain none. -/
def State.linkBark (s : State) (l : Nat) : Nat := if l < 64 then s.barkOf (barkFld l) else 0

/-- Effective level (R357) of a request of a collar with its escalation steps at the arbiter and the bark level of the buffer that it drains. -/
def effLevel (collar steps bark : Nat) : Nat :=
  let base := if collar = 0 then 10 else if collar = 1 then 9 else if collar < 8 then 4 + min steps 4 else min steps 3
  match bark with | 0 => base | 1 => max base 6 | 2 => max base 8 | _ => 11

/-! ## Leashes at an arbiter (R360, R361) -/

/-- An arbiter that enforces leashes: its class, direction and instance (R359, R371). -/
structure Arbiter where
  cls : Nat
  dir : Nat
  inst : Nat
deriving DecidableEq, Repr

/-- Key of a collar at an arbiter. -/
def Arbiter.key (a : Arbiter) (collar : Nat) : Nat := 16 * capKey a.cls a.dir a.inst + collar

/-- Reservation of a collar in effect at an instance, in MB/s (R368). -/
def State.reserved (s : State) (a : Arbiter) (collar : Nat) : Nat :=
  let m := s.leash collar a.cls
  let v := tget (fun _ => 0) s.caps (capKey a.cls a.dir a.inst)
  if m = 0 ∨ v = 0 then m
  else match (s.leashCuts a.cls (v - 1)).find? (fun q => decide (q.1 = collar)) with | some q => q.2 | none => m

/-- Deck clock of a die in MHz (R565). -/
def State.dieMhz (s : State) (d : Nat) : Nat :=
  match s.dieOpp d with | 0 => 800 | 1 => 700 | 2 => 600 | _ => 400

/-- What a count gains each nanosecond in 1/1,000 of a byte: 1 MB/s is one such unit. On a shaft a collar keeps its share of the cycles of the
deck clock (R361). -/
def State.gain (s : State) (a : Arbiter) (collar : Nat) : Nat :=
  if a.cls = lSHAFT then s.reserved a collar * s.dieMhz (a.inst / 160) / 800 else s.reserved a collar

/-- What a count lacks now of its cap, the bytes of 2 µs; a count starts full (R360). -/
def State.owed (s : State) (a : Arbiter) (collar : Nat) : Nat :=
  let d := tget (fun _ => (0, 0)) s.credits (a.key collar)
  d.1 - s.gain a collar * (s.now - d.2)

/-- The arbiter of a key. -/
def Arbiter.ofKey (k : Nat) : Arbiter := ⟨k / 16 / 2 ^ 16, k / 16 % 2 ^ 16 / 2 ^ 15, k / 16 % 2 ^ 15⟩

/-- What the counts of some arbiters have gained so far stands: their gain is about to change. -/
def State.settle (s : State) (p : Arbiter → Bool) : State :=
  { s with credits := s.credits.map fun c => let a := Arbiter.ofKey c.1; if p a then (c.1, (s.owed a (c.1 % 16), s.now)) else c }

/-- A request of a collar is in-leash: the count covers its bytes (R360). -/
def State.inLeash (s : State) (a : Arbiter) (collar bytes : Nat) : Bool :=
  decide (0 < s.gain a collar) && decide (s.owed a collar + 1000 * bytes ≤ 2000 * s.gain a collar)

/-- An arbiter serves a request of level `lv`: an in-leash one takes its bytes from the count, one of tier 4 counts as LEASH_OUT (R358, R360). -/
def State.grant (s : State) (a : Arbiter) (u : EvUnit) (collar lv bytes : Nat) : State :=
  if s.inLeash a collar bytes then
    { s with credits := tset (fun _ => (0, 0)) s.credits (a.key collar) (s.owed a collar + 1000 * bytes, s.now) }
  else if lv < 9 then s.bump Ev.leashOut u 1
  else s

/-! ## Order of service (R358) -/

/-- What decides the order of requests at an arbiter: tier, level, collar, and how lately the source was served. -/
structure Bid where
  tier : Nat
  lv : Nat
  collar : Nat
  turn : Nat
deriving DecidableEq, Repr

/-- A bid is served before another: by tier, then the higher level, the lower collar, and the source that has waited longer for its turn. -/
def Bid.beats (a b : Bid) : Bool :=
  decide (a.tier < b.tier) || (decide (a.tier = b.tier) &&
    (decide (b.lv < a.lv) || (decide (a.lv = b.lv) &&
      (decide (a.collar < b.collar) || (decide (a.collar = b.collar) && decide (a.turn < b.turn))))))

/-- Tier of R358. -/
def tierOf (lv : Nat) (covered : Bool) : Nat := if lv = 11 then 1 else if 9 ≤ lv then 2 else if covered then 3 else 4

/-- Place of a source in the turns of an arbiter on a collar: 0 for one not served yet. Round-robin is taken as: the source served least
lately (DESIGN CHOICE, log entry 10). -/
def State.turnOf (s : State) (a : Arbiter) (collar : Nat) (src : Source) : Nat :=
  let ts := tget (fun _ => []) s.turns (a.key collar)
  if ts.contains src then ts.idxOf src + 1 else 0

/-- The bid of a request at an arbiter. -/
def State.bid (s : State) (a : Arbiter) (collar lv bytes : Nat) (src : Source) : Bid :=
  ⟨tierOf lv (s.inLeash a collar bytes), lv, collar, s.turnOf a collar src⟩

/-- An arbiter serves a request of a source: the grant, and the source has had its turn. -/
def State.serve (s : State) (a : Arbiter) (u : EvUnit) (collar lv bytes : Nat) (src : Source) : State :=
  let s := s.grant a u collar lv bytes
  { s with turns := tset (fun _ => []) s.turns (a.key collar) ((tget (fun _ => []) s.turns (a.key collar)).filter (fun x => decide (x ≠ src)) ++ [src]) }

/-- The counts of an arbiter's collars, or of a collar everywhere, start full again: a leash or a scaling takes effect (R360, R362). -/
def State.fullCredits (s : State) (p : Nat → Bool) : State := { s with credits := s.credits.filter fun c => !p c.1 }

/-! ## Operating points change (R566) -/

/-- Put a die at a point: what its shafts' counts have gained so far stands (R361). -/
def State.setOpp (s : State) (d p : Nat) : State :=
  if s.dieOpp d = p then s else ((s.settle fun a => decide (a.cls = lSHAFT) && decide (a.inst / 160 = d)).wr F.pwrmOppCurD (bfSet (s.rd F.pwrmOppCurD) (2 * d) 2 p)).bump Ev.oppChange .module 1

/-- The limits may have changed (R566): a lowering takes effect at once; a raising too when `boundary` says that the module stands at a
pass boundary or no pass runs. Before step S5 has succeeded every die stays at its start (R562); no point changes during a Keeper restart (R521). -/
def State.oppFollow (s : State) (boundary : Bool) : State :=
  if !s.on F.bootStatusDoneValid ∨ s.rd F.bootStatusDoneUpto < 5 ∨ s.keep.restarting then s
  else (List.range 8).foldl (fun s d =>
    let l := s.oppLimit d
    if s.dieOpp d < l ∨ boundary then s.setOpp d l else s) s

/-! ## The floor ring (R244) -/

/-- Place of a floor on the ring F0, F1, F3, F5, F7, F6, F4, F2. -/
def ringPos (f : Nat) : Nat := [0, 1, 3, 5, 7, 6, 4, 2].idxOf f

/-- Bridges that a request crosses from a floor to another, with their directions: the shorter way, and at 4 hops the listed one. -/
def ringPath (a b : Nat) : List (Nat × Nat) :=
  let p := ringPos a
  let n := (ringPos b + 8 - p) % 8
  if n ≤ 4 then (List.range n).map fun i => (0, (p + i) % 8) else (List.range (8 - n)).map fun i => (1, (p + 7 - i) % 8)

/-- Bytes of a collar cross the ring from a floor to another: each bridge's transmit arbiter grants them (R359). -/
def State.crossRing (s : State) (a b collar lv bytes : Nat) : State :=
  (ringPath a b).foldl (fun s h => s.grant ⟨lRING, h.1, h.2⟩ .module collar lv bytes) s

end Sys2Proof.Machine
end

