-- ==== Sys2Proof/Machine/Links.lean ====
section
/-! DEFINITION. Link transmission (R385 to R390) and its arbiter (R358, R360), routes and fencing (R400, R404, R405). -/

namespace Sys2Proof.Machine

/-! ## Links -/

/-- Link states (R420). -/
def lkDisabled : Nat := 0
def lkDown : Nat := 1
def lkTraining : Nat := 2
def lkUp : Nat := 3
def lkRetrain : Nat := 4

/-- A link's state outside its registers. -/
def State.link (s : State) (l : Nat) : LinkSt := tget (fun _ => LinkSt.reset) s.links l

/-- Change it. -/
def State.modLink (s : State) (l : Nat) (f : LinkSt → LinkSt) : State :=
  { s with links := tset (fun _ => LinkSt.reset) s.links l (f (s.link l)) }

/-- Change the fabric state. -/
def State.modFab (s : State) (f : FabricSt → FabricSt) : State := { s with fab := f s.fab }

/-- A link of a populated site whose port bridge works (R378, R379). -/
def State.linkExists (s : State) (l : Nat) : Bool := decide (l < s.variant.links) && !s.fab.bridges.contains (l / 8)

/-- Regulator ring of a link's quad (R570). -/
def quadMacro (l : Nat) : Nat := if l < 32 then l + 32 else l + 33

/-- A link can train: the link partition is up, and its port die's rails, its quad (R571) and its cage (R677). -/
def State.linkLive (s : State) (l : Nat) : Bool :=
  s.linkExists l && decide (s.rd F.bootPartLink ≠ 0) && !s.power.darkPorts.contains (l / 8) && decide (s.rd (F.reglStatState (quadMacro l)) ≠ 3)
    && ((tget (fun _ => none) s.power.cages (l / 2)).isNone || s.power.granted.contains (l / 2))

/-- A link trains or retrains no more (R392). -/
def State.linkRests (s : State) (l : Nat) : Bool :=
  !s.on (F.linkCtrlEnable l) || decide (s.rd (F.linkStatState l) ≤ lkDown) || decide (s.rd (F.linkStatState l) = lkUp)

/-- S10 ends, with the warnings of R551. -/
def State.trainEnd (s : State) : State :=
  let ls := List.range s.variant.links
  let down := ls.any fun l => s.on (F.linkCtrlEnable l) && decide (s.rd (F.linkStatState l) ≠ lkUp)
  let narrow := ls.any fun l => decide (s.rd (F.linkStatState l) = lkUp) && decide (s.rd (F.linkStatWidth l) < 3)
  let s := if down then s.wr F.bootWarnLinkDown 1 else s
  let s := if narrow then s.wr F.bootWarnLinkNarrow 1 else s
  s.stepEnd (if down || narrow then 2 else 1)

/-- S11 succeeds when every Up link has received its JOIN_ACK (R540). -/
def State.joinEnd (s : State) : State :=
  let ws := s.boot.joinWait.filter fun l => decide (lkUp ≤ s.rd (F.linkStatState l))
  let s := { s with boot := { s.boot with joinWait := ws } }
  if ws.isEmpty then s.stepEnd 1 else s

/-- What waits for links: a link reset ends once every enabled link is Up or Down (R545), and so does step S10; S11 waits for Up links. -/
def State.linksSettled (s : State) : State :=
  let all := (List.range s.variant.links).all fun l => s.linkRests l
  let s := if s.boot.linkPhase = 2 ∧ all = true then
      (({ s with boot := { s.boot with linkPhase := 0 } } : State).wr F.bootPartLink 1).finish (fun w => decide (w = .linkReset)) sOK 0
    else s
  if !s.boot.running then s
  else if s.rd F.bootStatusStep = 10 ∧ all = true ∧ s.rd F.bootPartLink ≠ 0 then s.trainEnd
  else if s.rd F.bootStatusStep = 11 ∧ s.on (F.portSelfValid 0) then s.joinEnd
  else s

/-- A link carries a route: it is Up or retrains (R400, R405). -/
def State.linkRoutes (s : State) (l : Nat) : Bool :=
  let st := s.rd (F.linkStatState l)
  s.linkExists l && (decide (st = lkUp) || decide (st = lkRetrain)) && !s.fab.leaving.contains l

/-- Add one at a place of a list of counts. -/
def addAt (xs : List Nat) (i n : Nat) : List Nat := xs.set i (xs.getD i 0 + n)

/-- Pool of a flit. -/
def TxFlit.poolOf (f : TxFlit) : Nat := if f.rpool then 8 else f.vl

/-- Free buffers that the far end has for a pool (R390). -/
def LinkSt.credit (x : LinkSt) (p : Nat) : Nat := poolSize p - (x.sent.getD p 0 - x.freed.getD p 0)

/-- Waiting flits that may leave: while the replay buffer has room (R387), the first of each pool with a credit (R385, R390). -/
def LinkSt.ready (x : LinkSt) : List TxFlit :=
  if 512 ≤ x.replay.length then []
  else (List.range 9).filterMap fun p => if x.credit p = 0 then none else x.wait.find? fun f => decide (f.poolOf = p)

/-- The link transmit arbiter of a link (R359). -/
def linkArb (l : Nat) : Arbiter := ⟨lLINK, 0, l⟩

/-- Effective level of a flit at its link's transmit (R357): pack-lane traffic drains its port die's combining buffer (R366). -/
def State.flitLevel (s : State) (l : Nat) (f : TxFlit) : Nat :=
  effLevel f.pkt.collar 0 (if f.pkt.typ = pPACK then s.barkOf (barkPackFld (l / 8)) else 0)

/-- Source of a flit at its link's transmit: the engine of the module that sent its packet, or the module it comes from. -/
def State.flitSource (s : State) (f : TxFlit) : Source :=
  if f.pkt.src = s.moduleId then .tile f.pkt.reqTile f.pkt.reqEngine else .peer f.pkt.src

/-- A flit's bid (R358): for the leash it is 256 bytes (R385). -/
def State.flitBid (s : State) (l : Nat) (f : TxFlit) : Bid := s.bid (linkArb l) f.pkt.collar (s.flitLevel l f) 256 (s.flitSource f)

/-- The flit that leaves next. -/
def State.nextFlit (s : State) (l : Nat) : Option TxFlit :=
  (s.link l).ready.foldl (fun b f => match b with | none => some f | some g => if (s.flitBid l f).beats (s.flitBid l g) then some f else some g) none

/-- The header of a flit that leaves (R383, R386): every one carries ack_seq, and the credit totals of the pools in turn (log entry 32). `f` is
none for a control flit. -/
def LinkSt.header (x : LinkSt) (seq : Nat) (nak : Bool) (f : Option TxFlit) : LinkHdr :=
  let pool := [0, 1, 2, 3, 4, 5, 8].getD (x.turn % 7) 0
  { seq := seq, ackSeq := (x.rxNext + 4095) % 4096, nak := nak, ctl := f.isNone, vl := f.elim 0 (·.vl), rpool := f.elim false (·.rpool),
    sop := f.elim false (·.sop), eop := f.elim false (·.eop), crVl := if pool = 8 then 3 else pool, crRpool := decide (pool = 8),
    crTotal := x.freedTx.getD pool 0 % 1024, words := f.elim 0 (·.body.length) }

/-- A flit with that header is sent. -/
def LinkSt.sends (x : LinkSt) (seq : Nat) (nak : Bool) (f : Option TxFlit) : LinkSt :=
  { x with hdr := some (x.header seq nak f), turn := (x.turn + 1) % 7 }

/-- Every unacknowledged flit is sent again (R387). -/
def LinkSt.resend (x : LinkSt) : LinkSt := x.replay.foldl (fun x r => x.sends r.1 false (some r.2)) x

/-- A destination as a port die's table knows it. -/
def destKey (die dst : Nat) : Nat := 16384 * die + dst % 16384

/-- A packet is under the routes of R400: a management packet stays on its link. -/
def routedPkt (p : Packet) : Bool := decide (p.typ ≠ pMGMT)

/-- A packet is held by a fence (R405): pack packets are exempt (R431). -/
def fencedPkt (p : Packet) : Bool := routedPkt p && decide (p.typ ≠ pPACK)

/-- A flit leaves: it goes to the replay buffer with the next sequence number. -/
def State.sendFlit (s : State) (l : Nat) (f : TxFlit) : State :=
  let seq := s.rd (F.linkStatTxSeq l)
  let k := destKey f.die f.pkt.dst
  let s := s.modLink l fun x =>
    { x.sends seq false (some f) with
        wait := x.wait.erase f, replay := x.replay ++ [(seq, f)], sent := addAt x.sent f.poolOf 1,
        dests := if !fencedPkt f.pkt || x.dests.contains k then x.dests else x.dests ++ [k] }
  ((s.wr (F.linkStatTxSeq l) (seq + 1)).bump Ev.linkFlitsTx (.link l) 1).serve (linkArb l) .module f.pkt.collar (s.flitLevel l f) 256 (s.flitSource f)

/-- Transmit on a link: flits leave while one may, in the order of R358. -/
def State.pump (s : State) (l : Nat) : State :=
  if s.rd (F.linkStatState l) ≠ lkUp then s
  else
    (List.range (s.link l).wait.length).foldl (fun s _ => match s.nextFlit l with | some f => s.sendFlit l f | none => s) s

/-- A cycle in which 512 unacknowledged flits keep a link from sending counts (R387). -/
def State.replayFull (s : State) : State :=
  (List.range s.variant.links).foldl (fun s l =>
    if s.rd (F.linkStatState l) = lkUp ∧ !(s.link l).wait.isEmpty ∧ 512 ≤ (s.link l).replay.length then s.bump Ev.linkReplayFull (.link l) 1 else s) s

/-- Queue a packet on a link, by the table of port die `die`. -/
def State.enqueue (s : State) (die l : Nat) (p : Packet) : State :=
  (s.modLink l fun x => { x with wait := x.wait ++ p.flits.map fun f => { f with die := die } }).pump l

/-! ## Routes -/

/-- Field of a module's entry in PORT_ROUTE of port die `port` (R418). -/
def routeFld (port m lo w : Nat) : Fld := ⟨R.portRoute port (m / 4), 16 * (m % 4) + lo, w⟩

/-- Write a field of a module's entry in every port die. -/
def State.setRoute (s : State) (m lo w v : Nat) : State :=
  if 16384 ≤ m then s else (List.range s.variant.portDies).foldl (fun s p => s.wr (routeFld p m lo w) v) s

/-- The route in use to a module by the table of port die `die` (R400). -/
def State.routeOf (s : State) (die m : Nat) : Option Nat :=
  let prim := s.rd (routeFld die m 0 6)
  let alt := s.rd (routeFld die m 7 6)
  if s.on (routeFld die m 6 1) && s.linkRoutes prim then some prim
  else if s.on (routeFld die m 13 1) && s.linkRoutes alt then some alt
  else none

/-- The module's ID as a port die holds it (R416). -/
def State.selfId (s : State) (die : Nat) : Nat := s.rd (F.portSelfModuleId die)

/-- Fabric time in µs modulo 65,536 (R403). -/
def State.fabTime (s : State) : Nat := s.now / 1000 % 65536

/-- The port die that serves a packet of the module to itself and whose table routes its packets: for a tile's request that of the requester's
floor, else port die 0 (R399, R400; log entry 22); for a Call's return that of its engine (R411), for a pack packet the tree's home (R453). -/
def State.ownPort (s : State) (p : Packet) : Nat :=
  let floor := 2 * (p.reqTile / 160 / 40) + p.reqTile % 160 / 80
  let site := if p.typ = pPACK then p.pack.elim 0 fun h => s.rd (F.packTreeCtrlHome h.tree)
    else if p.typ = pRESP ∨ p.typ = pNOTICE then 0
    else if p.reqKind = 1 then p.reqPort
    else ((List.range s.variant.portDies).find? fun k => decide (portFloor k = floor)).getD 0
  if site < s.variant.portDies then site else 0

/-- A packet for this module from inside it. -/
def State.toSelf (s : State) (p : Packet) : State :=
  s.modFab fun f => { f with inbox := f.inbox ++ [⟨64 + s.ownPort p, p, 0⟩] }

/-- The RESP to a packet (R399). -/
def respTo (p : Packet) (self status : Nat) (unprot : Bool) : Packet :=
  { Packet.blank with
      typ := pRESP, collar := p.collar, dst := p.src, src := self, epoch := p.epoch, reqTile := p.reqTile,
      reqEngine := p.reqEngine, reqTag := p.reqTag, reqKind := p.reqKind, reqPort := p.reqPort, code := status, unprot := unprot }

/-- The latest fence hold of a destination at a port die takes packets behind those that it holds; `first`: before them. -/
def joinFence (die dst : Nat) (first : Bool) (ps : List Packet) (fs : List Fence) : List Fence :=
  match (List.range fs.length).reverse.find? fun i => (fs[i]?).any fun f => decide (f.die = die) && decide (f.dst = dst) with
  | some i => fs.zipIdx.map fun f => if f.2 = i then { f.1 with pkts := if first then ps ++ f.1.pkts else f.1.pkts ++ ps } else f.1
  | none => fs

/-- Hand a packet to its route by the table of a port die, or hold it behind its fence; false where there is no route. While PORT_SELF.valid of
that die or of the link's is 0 only management packets leave (R416). While the routing table is in Hold a packet waits, and a pack packet is to be sent again
(R510). -/
def State.tryRoute (s : State) (die : Nat) (p : Packet) : State × Bool :=
  if p.dst = s.selfId die ∧ s.on (F.portSelfValid die) then (s.toSelf p, true)
  else if !s.on (F.portSelfValid die) then (s, false)
  else if s.routeHeld then (if p.typ = pPACK then (s, false) else (s.modFab fun f => { f with held := f.held ++ [(die, p)] }, true))
  else if fencedPkt p ∧ s.fab.fences.any (fun f => decide (f.die = die) && decide (f.dst = p.dst)) then
    (s.modFab fun f => { f with fences := joinFence die p.dst false [p] f.fences }, true)
  else match s.routeOf die p.dst with
    | some l => if s.on (F.portSelfValid (l / 8)) then (s.enqueue die l p, true) else (s, false)
    | none => (s, false)

/-- Send a packet by the table of a port die. Where no route is in use, a request is answered UNREACHABLE (R400), and a notice or pack packet is kept
to be sent again (R431, R515). -/
def State.sendVia (s : State) (die : Nat) (p : Packet) : State :=
  let (s, ok) := s.tryRoute die p
  if ok then s
  else if p.typ = pNOTICE ∨ p.typ = pPACK then s.modFab fun f => { f with resend := f.resend ++ [p] }
  else if p.typ = pRESP then s
  else
    let r := respTo p s.moduleId rUNREACHABLE false
    if p.src = s.moduleId then s.toSelf r else (s.tryRoute die r).1

/-- Send a packet of this module. -/
def State.sendPkt (s : State) (p : Packet) : State := s.sendVia (s.ownPort p) p

/-- A packet of this module: source, birth and, where a pass writes another module, its destination table (R414). -/
def State.launchPkt (s : State) (p : Packet) : State :=
  let p := { p with src := s.moduleId, birth := s.fabTime }
  let s := if p.epoch ≠ 0 ∧ !p.ret ∧ p.dst ≠ s.moduleId ∧ (p.typ = pDEPOSIT ∨ p.typ = pFOLD) ∧ !s.fab.dests.contains p.dst then
      s.modFab fun f => { f with dests := f.dests ++ [p.dst] }
    else s
  s.sendPkt p

/-- Send a packet whose RESP is awaited. -/
def State.request (s : State) (p : Packet) (req : Option Nat) : State :=
  let p := { p with src := s.moduleId, birth := s.fabTime }
  (s.modFab fun f => { f with awaits := f.awaits ++ [⟨p, req, s.now, none⟩] }).launchPkt p

/-- A notice (R398). -/
def State.sendNotice (s : State) (dst kind epoch : Nat) : State :=
  s.launchPkt { Packet.blank with typ := pNOTICE, collar := 1, dst := dst, epoch := epoch, code := kind, reqKind := 3 }

/-! ## Doubt (R404) -/

/-- Record an error of a link (R421). -/
def State.linkErr (s : State) (l kind seq lanes : Nat) : State :=
  s.record (F.linkErrValid l) (F.linkErrMulti l)
    [(F.linkErrKind l, kind), (F.linkErrSeq l, seq), (F.linkErrLanes l, lanes), (F.linkErrTime l, s.now / 1024)]

/-- A packet that can be in doubt: a request, or a notice or pack packet that is then sent again (R404, R431, R515). -/
def doubtful (p : Packet) : Bool := decide (p.typ ≠ pRESP) && decide (p.typ ≠ pMGMT)

/-- A packet is in doubt: the port die that finds it informs its source. For a request of this module with epoch 0 that is its
completion with UNREACHABLE; for a pass epoch the request completes internally and its pass must be discarded. Notices and held
Signals wait to be sent again (R515), pack packets too (R431). -/
def State.inDoubt (s : State) (p : Packet) : State :=
  let s := if doubtful p then s.bump Ev.fabInDoubt .module 1 else s
  if p.typ = pPACK ∨ p.typ = pNOTICE ∨ (p.src = s.moduleId ∧ p.typ = pSIGNAL ∧ p.reqKind = 3) then
    s.modFab fun f => { f with resend := f.resend ++ [p] }
  else if p.typ = pRESP ∨ p.typ = pMGMT then s
  else if p.src ≠ s.moduleId then
    s.launchPkt { respTo p s.moduleId 0 false with typ := pNOTICE, code := nInDoubt }
  else if p.epoch = 0 then s.toSelf (respTo p s.moduleId rUNREACHABLE false)
  else (s.modFab fun f => { f with doubt := f.doubt ++ [p.epoch] }).toSelf (respTo p s.moduleId rOK false)

/-! ## Fencing (R405) -/

/-- Packets of a destination that wait whole on a link. -/
def LinkSt.waitingFor (x : LinkSt) (key : Nat) : List Packet :=
  (x.wait.filter fun f => f.sop && decide (destKey f.die f.pkt.dst = key) && routedPkt f.pkt).map (·.pkt)

/-- Destinations that a link serves: packets for them were sent over it, or wait there. -/
def LinkSt.serves (x : LinkSt) : List Nat :=
  (x.dests ++ (x.wait.filter fun f => routedPkt f.pkt).map fun f => destKey f.die f.pkt.dst).eraseDups

/-- The route of a destination has left a link (R405): packets for it that are not yet sent are held in order behind the fence. Where the link has
sent it none, there is nothing to wait for, and they take the new route, as pack packets do at once (R431). -/
def State.fenceDest (s : State) (l key : Nat) : State :=
  let die := key / 16384
  let d := key % 16384
  let x := s.link l
  let ps := x.waitingFor key
  let s := s.modLink l fun x =>
    { x with dests := x.dests.filter (fun k => decide (k ≠ key)),
             wait := x.wait.filter fun f => !(decide (destKey f.die f.pkt.dst = key) && ps.contains f.pkt) }
  let s := (ps.filter fun p => !fencedPkt p).foldl (fun s p => s.sendVia die p) s
  let held := ps.filter fencedPkt
  if x.dests.contains key then
    (s.wr (routeFld die d 15 1) 1).modFab fun f => { f with fences := f.fences ++ [⟨die, d, l, held⟩] }
  else held.foldl (fun s p => s.sendVia die p) s

/-- Destinations of a link whose route is elsewhere now. -/
def State.fenceLink (s : State) (l : Nat) : State :=
  (s.link l).serves.foldl (fun s k => if s.routeOf (k / 16384) (k % 16384) = some l then s else s.fenceDest l k) s

/-- The alternate-in-use bit of a module's entry at a port die follows its route (R418). -/
def State.onAlt (s : State) (die m : Nat) : State :=
  let alt := s.rd (routeFld die m 7 6)
  s.wr (routeFld die m 14 1) (b2n (s.routeOf die m = some alt && !(s.on (routeFld die m 6 1) && s.linkRoutes (s.rd (routeFld die m 0 6)))))

/-- Route entries: port die and module of those whose register differs from its reset value. -/
def State.routed (s : State) : List (Nat × Nat) :=
  (List.range s.variant.portDies).flatMap fun die =>
    (s.regs.filter fun p => decide (R.portRoute die 0 ≤ p.1) && decide (p.1 ≤ R.portRoute die 4095)).flatMap fun p =>
      (List.range 4).map fun i => (die, 4 * ((p.1 - R.portRoute die 0) / 8) + i)

/-- Pack packets in doubt leave again where there is a route (R431). -/
def State.resendPacks (s : State) : State :=
  let ps := s.fab.resend.filter fun p => decide (p.typ = pPACK)
  let s := s.modFab fun f => { f with resend := f.resend.filter fun p => decide (p.typ ≠ pPACK) }
  ps.foldl (fun s p =>
    let r := s.tryRoute (s.ownPort p) p
    if r.2 then r.1.bump Ev.packResend .module 1 else s.modFab fun f => { f with resend := f.resend ++ [p] }) s

/-- Routes may have changed: fences start, the alternate-in-use bits follow, and pack packets in doubt leave. -/
def State.rerouted (s : State) : State :=
  let s := (List.range s.variant.links).foldl (fun s l => s.fenceLink l) s
  (s.routed.foldl (fun s m => s.onAlt m.1 m.2) s).resendPacks

/-- Nothing sent to the destination on the old link is unacknowledged there (R405). -/
def State.drained (s : State) (f : Fence) : Bool :=
  let old (x : TxFlit) : Bool := decide (destKey x.die x.pkt.dst = destKey f.die f.dst) && fencedPkt x.pkt
  !((s.link f.link).replay.any fun r => old r.2) && !((s.link f.link).wait.any old)

/-- A fence hold ends once the old path is drained: its packets leave on the route in use (R405), or join those of a later hold of the same
destination before them. -/
def State.endFence (s : State) (i : Nat) : State :=
  match s.fab.fences[i]? with
  | none => s
  | some f =>
    if !s.drained f then s else
    let s := s.modFab fun x => { x with fences := x.fences.eraseIdx i }
    if s.fab.fences.any (fun h => decide (h.die = f.die) && decide (h.dst = f.dst)) then
      s.modFab fun x => { x with fences := joinFence f.die f.dst true f.pkts x.fences }
    else f.pkts.foldl (fun s p => s.sendVia f.die p) (s.wr (routeFld f.die f.dst 15 1) 0)

/-! ## Link states (R392) -/

/-- Capacity of a width (R368): code of LINK_STAT.width. -/
def widthCap : Nat → Nat
  | 3 => 100000 | 2 => 50000 | 1 => 25000 | _ => 0

/-- A link comes Up at a width with these lanes: flits flow again, and a RETRAIN of it completes (R547). -/
def State.linkToUp (s : State) (l width lanes : Nat) : State :=
  let old := s.rd (F.linkStatWidth l)
  let s := s.wrs [(F.linkStatState l, lkUp), (F.linkStatWidth l, width), (F.linkStatLanesGood l, lanes)]
  let s := s.modFab fun f => { f with leaving := f.leaving.filter fun k => decide (k ≠ l) }
  let s := if old ≠ width then s.setCap lLINK 0 l (widthCap width) else s
  ((s.rerouted.notice 10 sOK (l + lkUp * 2 ^ 6)).pump l).finish (fun w => decide (w = .retrainLink l)) sOK 0 |>.linksSettled

/-- A link stops carrying flits and takes state `st` (R392, R404, R405): packets with unacknowledged flits are in doubt, and routes
change. A RETRAIN of it completes. -/
def State.linkStop (s : State) (l st : Nat) : State :=
  let x := s.link l
  let cut := x.wait.filter fun f => !(x.wait.any fun g => g.sop && decide (g.pkt = f.pkt))
  let lost := (x.replay.map fun r => r.2.pkt).eraseDups
  let lost := lost ++ ((cut.map (·.pkt)).eraseDups.filter fun p => !lost.contains p)
  let s := s.wrs [(F.linkStatState l, st), (F.linkStatWidth l, 0), (F.linkStatLanesGood l, 0)]
  let s := s.modLink l fun y =>
    { y with replay := [], wait := y.wait.filter fun f => !lost.contains f.pkt, part := [], gap := false, naks := 0 }
  let s := s.rerouted
  let seqOf (p : Packet) : Nat := ((x.replay.find? fun r => decide (r.2.pkt = p)).map (·.1)).getD (s.rd (F.linkStatTxSeq l))
  let s := lost.foldl (fun s p => (if doubtful p then s.linkErr l 6 (seqOf p) 0 else s).inDoubt p) s
  let s := s.resendPacks
  let s := if !lost.any doubtful then s else s.faultLog 20 1 7 l 1 0 (R.linkErr l)
  ((s.setCap lLINK 0 l 0).notice 10 sOK (l + st * 2 ^ 6)).finish (fun w => decide (w = .retrainLink l)) sOK 0 |>.linksSettled

/-- The links of a port die that are about to go Down, and the state in which they have lost their capacity: one event, so one leash notice
(R369). -/
def State.linksLose (s : State) (p : Nat) : List Nat × State :=
  let ls := ((List.range 8).map (8 * p + ·)).filter fun l => decide (s.rd (F.linkStatState l) ≠ lkDisabled) && decide (s.rd (F.linkStatState l) ≠ lkDown)
  (ls, s.setCaps lLINK (ls.map fun l => (0, l)) 0)

/-- A link goes Down: the loss is counted and logged. -/
def State.linkToDown (s : State) (l : Nat) : State :=
  ((s.linkStop l lkDown).bump Ev.linkDown (.link l) 1).faultLog 19 1 7 l 6 0 (R.linkStat l)

end Sys2Proof.Machine
end

