-- ==== Sys2Proof/Machine/SliceMem.lean ====
section
/-! DEFINITION. HBM sectors (R318, R322, R324), slice lines and sectors (R243, R255 to R257), kennel windows (R262), epoch entries
(R292), the merge buffer (R266), victims (R260) and what becomes of them (R261, R328), fills started and run-ahead (R259, R267). -/

namespace Sys2Proof.Machine

/-! ## HBM -/

/-- Byte key of a sector of a channel. -/
def hbmKey (ch line sec : Nat) : Nat := ch * chanBytes + 2048 * line + 256 * sec

/-- What an HBM byte reads as that nothing has written: 0 at first, and a free value once contents have been lost (log entry 6). -/
def hbmDefault (gen a : Nat) : Byte := if gen = 0 then 0 else Config.freeHbm gen a

/-- Bytes of HBM. -/
def State.hbmGet (s : State) (k n : Nat) : List Byte := (List.range n).map fun i => tget (hbmDefault s.hbmGen) s.hbm (k + i)

/-- Write bytes of HBM. -/
def State.hbmSet (s : State) (k : Nat) (bs : List Byte) : State :=
  { s with hbm := (bs.zip (List.range bs.length)).foldl (fun m b => tset (hbmDefault s.hbmGen) m (k + b.2) b.1) s.hbm }

/-- HBM loses its contents. -/
def State.loseHbm (s : State) : State := { s with hbm := [], hbmMark := [], hbmGen := s.hbmGen + 1 }

/-- Words and poison marks of a sector in HBM. -/
def State.hbmSec (s : State) (ch line sec : Nat) : List W64 × List Nat :=
  let k := hbmKey ch line sec
  (leWords 32 (s.hbmGet k 256), (List.range 32).filter fun i => tget unmarked s.hbmMark (k / 8 + i))

/-- An access of a channel counts among its activations. Refresh management, where it is enabled, follows when the stack's parameters call for
it: after which accesses is a free value (R321; log entry 97). -/
def State.activate (s : State) (ch : Nat) : State :=
  let k := tget (fun _ => 0) s.acts ch
  let s := { s with acts := tset (fun _ => 0) s.acts ch (k + 1) }
  if s.on (F.hbmcCfgRfmEn (ch / 16)) then s.bump Ev.hbmRfm (.slice ch) (Config.refreshDue ch k % 2) else s

/-- Write a sector in HBM with its marks (R324). -/
def State.hbmPut (s : State) (ch line sec : Nat) (words : List W64) (poison : List Nat) : State :=
  let k := hbmKey ch line sec
  let s := s.hbmSet k ((List.range 32).flatMap fun i => leBytes 8 (words.getD i 0).toNat)
  let s := { s with hbmMark := (List.range 32).foldl (fun m i => tset unmarked m (k / 8 + i) (poison.contains i)) s.hbmMark }
  (s.bump Ev.hbmWr (.slice ch) 1).activate ch

/-- A channel is retired (R338, R345). -/
def State.chanRetired (s : State) (ch : Nat) : Bool := decide (s.rd (F.hbmcChStatState (ch / 16) (ch % 16)) = 3)

/-- Requests to a channel wait: it is retraining (R337), or its stack is in self-refresh (R335). -/
def State.chanBusy (s : State) (ch : Nat) : Bool :=
  decide (s.rd (F.hbmcChStatState (ch / 16) (ch % 16)) = 2) || s.selfRef.contains (ch / 16)

/-! ## Segments of a channel -/

/-- Hash segments that are mapped. -/
def State.mapped (s : State) : List Nat :=
  (s.regs.filter fun p => decide (R.floorHash 0 0 ≤ p.1) && decide (p.1 ≤ R.floorHash 0 767)).map fun p => (p.1 - R.floorHash 0 0) / 8

/-- Rows of a segment's footprint in each channel it uses (R248). -/
def State.footRows (s : State) (g : Nat) : Nat :=
  if s.segKind g = 2 then 8 * Variant.spreadRows s.variant else Variant.spreadRows s.variant

/-- The segment whose footprint holds a line of a slice's channel (R248). -/
def State.segOf (s : State) (n line : Nat) : Option Nat :=
  s.mapped.find? fun g =>
    let base := 512 * s.rd (F.floorHashChanBase 0 g)
    decide (s.segKind g ≠ 0) && decide (base ≤ line) && decide (line < base + s.footRows g)
      && (decide (s.segKind g = 1) || decide (s.rd (F.floorHashNearFloor 0 g) = n / 64))

/-- Module address of a line of a slice's channel: the hash of R246 read backwards. -/
def State.unhash (s : State) (n line : Nat) : Option Nat :=
  match s.segOf n line with
  | none => none
  | some g =>
    let cf := s.variant.chansPerFloor
    let row := line - 512 * s.rd (F.floorHashChanBase 0 g)
    let k := n % 64
    let turn := (k + cf - row % cf) % cf
    let l := if s.segKind g = 1 then row * (8 * cf) + 8 * turn + ((n / 64) ^^^ (row % 8)) else row * cf + turn
    some (g * segBytes + 2048 * l)

/-- Copy B of a line, when its segment is a Twin (R325); the lines of the line epoch area are not twinned (R327). -/
def State.twinOf (s : State) (n line : Nat) : Option (Nat × Nat) :=
  let q := Variant.spreadRows s.variant
  (s.segOf n line).bind fun g =>
    if q - q / 512 ≤ line - 512 * s.rd (F.floorHashChanBase 0 g) then none else s.copyB n line g

/-- Write a sector in one channel, unless the channel is retired (R339). -/
def State.putOne (s : State) (ch line sec : Nat) (words : List W64) (poison : List Nat) : State :=
  if s.chanRetired ch then s else s.hbmPut ch line sec words poison

/-- The arbiter of a channel's controller. -/
def chanArb (n : Nat) : Arbiter := ⟨lHBM, 0, n⟩

/-- The input arbiter of a slice. -/
def sliceArb (n : Nat) : Arbiter := ⟨lSLICE, 0, n⟩

/-- An access of a collar that is done at once (log entry 98) takes its bytes at the arbiter of a channel (`hbm`) or of a slice (R359, R360).
Collars 0 and 1 have no leash. -/
def State.grantOnce (s : State) (hbm : Bool) (n col bytes : Nat) : State :=
  if col < 2 then s
  else
    let steps := s.rd (escField ((if hbm then 8192 else 0) + 16 * n + col))
    s.grant (if hbm then chanArb n else sliceArb n) (.slice n) col (effLevel col steps 0) bytes

/-- Its latency there is measured where its collar has a target (R364, R365): how long it took is a free value. -/
def State.latencyOnce (s : State) (hbm : Bool) (n col : Nat) : State :=
  if col < 2 ∨ (if hbm then s.rd (F.keepLatTgtHbmNs col) else s.rd (F.keepLatTgtSliceNs col)) = 0 then s
  else let (v, s) := s.free; s.latency hbm n col v

/-- Both. -/
def State.atOnce (s : State) (hbm : Bool) (n col bytes : Nat) : State := (s.grantOnce hbm n col bytes).latencyOnce hbm n col

/-- Write a sector back in one channel, for a request of a collar. -/
def State.putBack (s : State) (ch line sec : Nat) (words : List W64) (poison : List Nat) (col : Nat) : State :=
  if s.chanRetired ch then s else (s.putOne ch line sec words poison).atOnce true ch col 256

/-- A sector is split (R331). -/
def State.isSplit (s : State) (n line sec : Nat) : Bool :=
  s.splits.any fun x => decide (x.slice = n) && decide (x.line = line) && decide (x.sector = sec)

/-- A sector leaves the split table: it has been written whole (R331). -/
def State.unsplit (s : State) (n line sec : Nat) : State :=
  if s.splits.any (fun x => decide (x.slice = n) && decide (x.line = line) && decide (x.sector = sec)) then
    let s := { s with splits := s.splits.filter fun x => !(decide (x.slice = n) && decide (x.line = line) && decide (x.sector = sec)) }
    s.wr (F.floorSplitStatUsed (n / 64)) (s.splits.filter fun x => decide (x.floor = n / 64)).length
  else s

/-! ## Lines and sectors -/

/-- A slice. -/
def State.slice (s : State) (n : Nat) : SliceSt := tget (fun _ => SliceSt.reset) s.slices n

/-- Change a slice. -/
def State.modSlice (s : State) (n : Nat) (f : SliceSt → SliceSt) : State :=
  { s with slices := tset (fun _ => SliceSt.reset) s.slices n (f (s.slice n)) }

/-- The line in a way. -/
def SliceSt.line (x : SliceSt) (set way : Nat) : Line := tget (fun _ => Line.none_) x.lines (16 * set + way)

/-- Replace it. -/
def SliceSt.setLine (x : SliceSt) (set way : Nat) (l : Line) : SliceSt :=
  { x with lines := tset (fun _ => Line.none_) x.lines (16 * set + way) l }

/-- A fresh explicit sector (R255, R257). -/
def Sector.freshSec : Sector := { Sector.none_ with valid := true, fresh := true, zero := true }

/-- A sector of a line; an explicit way with nothing written is fresh. -/
def Line.sec (l : Line) (expl : Bool) (k : Nat) : Sector :=
  l.secs.getD k (if expl then Sector.freshSec else Sector.none_)

/-- Replace a sector of a line. -/
def Line.setSec (l : Line) (expl : Bool) (k : Nat) (x : Sector) : Line :=
  { l with secs := ((List.range 8).map fun i => l.sec expl i).set k x }

/-- A word of a sector. -/
def Sector.word (x : Sector) (i : Nat) : W64 := x.words.getD i 0

/-- Union of poison marks. -/
def poisUnion (a b : List Nat) : List Nat := a ++ b.filter fun i => !a.contains i

/-- Every bit of a sector is known to be zero and no word is poisoned (R257). -/
def secZero (words : List W64) (poison : List Nat) : Bool := words.all (fun w => decide (w = 0)) && poison.isEmpty

/-- The way that holds a cached line. -/
def SliceSt.find (x : SliceSt) (line : Nat) : Option Nat :=
  (List.range 16).find? fun w => let l := x.line (line % 768) w; decide (l.kind = .cache) && decide (l.line = line)

/-- The way of a place: its own for an explicit line, else where the line is cached. -/
def State.wayOf (s : State) (n : Nat) (p : Loc) : Option Nat := if p.expl then some p.way else (s.slice n).find p.line

/-- The base sector of a place, with its way: an explicit sector is always there, a cached one if its line is. -/
def State.baseSec (s : State) (n : Nat) (p : Loc) : Option (Nat × Sector) :=
  (s.wayOf n p).map fun w => (w, ((s.slice n).line p.set w).sec p.expl p.sector)

/-- Change the base sector of a place that has a way. -/
def State.setBase (s : State) (n : Nat) (p : Loc) (w : Nat) (x : Sector) : State :=
  s.modSlice n fun y =>
    let l := y.line p.set w
    let l := if p.expl then { l with kind := .expl, line := p.line } else l
    y.setLine p.set w (l.setSec p.expl p.sector x)

/-! ## Kennel windows (R262) -/

/-- Kennel window of a module address: the lowest enabled one that covers it; 64 none. -/
def State.kennelOf (s : State) (a : Nat) : Nat :=
  ((List.range 64).find? fun k => s.on (F.kenlCtrlEnable k) && decide (s.rd (F.kenlRangeBase k) ≤ a / 0x200000)
    && decide (a / 0x200000 ≤ s.rd (F.kenlRangeLast k))).getD 64

/-- A line's window is in use: a line of one that is not is Normal, has no quota and keeps its dirty sectors (R262). -/
def State.kennelOn (s : State) (k : Nat) : Bool := decide (k < 64) && s.on (F.kenlCtrlEnable k)

/-- Persistence in effect of a line's window (R262, R263). -/
def State.persOf (s : State) (k : Nat) : Nat := if s.kennelOn k then s.rd (F.kenlCtrlPersEff k) else 1

/-- Way quota of a window; 16 where there is none. -/
def State.quotaOf (s : State) (k : Nat) : Nat :=
  if s.kennelOn k then let q := s.rd (F.kenlCtrlQuota k); if q = 0 then 16 else q else 16

/-! ## Epoch entries (R292) -/

/-- Fields of an epoch entry, 1 to 15. -/
def etState (n e : Nat) : Fld := F.sliceEtabState n (e - 1)
def etUnprot (n e : Nat) : Fld := F.sliceEtabUnprot n (e - 1)
def etModule (n e : Nat) : Fld := F.sliceEtabModuleId n (e - 1)
def etEpoch (n e : Nat) : Fld := F.sliceEtabEpoch n (e - 1)

def etFREE : Nat := 0
def etOPEN : Nat := 1
def etCOMMITTED : Nat := 2
def etDROPPING : Nat := 3

/-- Entries 1 to 15. -/
def entries : List Nat := (List.range 15).map (· + 1)

/-- Epoch `a` is newer than `b` (R291). -/
def newer (a b : Nat) : Bool := let d := (a + 2 ^ 32 - b % 2 ^ 32) % 2 ^ 32; decide (1 ≤ d) && decide (d < 2 ^ 31)

/-- The entry of a mark in one of the given states. -/
def State.entryOf (s : State) (n mod epoch : Nat) (st : List Nat) : Option Nat :=
  entries.find? fun e => st.contains (s.rd (etState n e)) && decide (s.rd (etModule n e) = mod) && decide (s.rd (etEpoch n e) = epoch)

/-- The entry of a request's mark: the Open one, else a Free one that it takes, after an older Open entry of the same module has
committed (R292, R293); none when the table is full. -/
def State.takeEntry (s : State) (n mod epoch : Nat) : State × Option Nat :=
  match s.entryOf n mod epoch [etOPEN] with
  | some e => (s, some e)
  | none =>
    let s := entries.foldl (fun s e =>
      if s.rd (etState n e) = etOPEN ∧ s.rd (etModule n e) = mod ∧ newer epoch (s.rd (etEpoch n e)) then s.wr (etState n e) etCOMMITTED else s) s
    match entries.find? (fun e => decide (s.rd (etState n e) = etFREE)) with
    | none => (s, none)
    | some e =>
      ((s.setReg (R.sliceEtab n (e - 1)) 0).wrs [(etState n e, etOPEN), (F.sliceEtabLocal n (e - 1), b2n (decide (mod = s.moduleId))),
        (etModule n e, mod), (etEpoch n e, epoch)], some e)

/-- Slices whose epoch tables hold something. -/
def State.etabIds (s : State) : List Nat :=
  ((s.regs.filter fun p => decide (0x80000 ≤ p.1) && decide (p.1 < 0x100000) && decide (0x108 ≤ (p.1 - 0x80000) % 0x400)
    && decide ((p.1 - 0x80000) % 0x400 < 0x180)).map fun p => (p.1 - 0x80000) / 0x400).eraseDups

/-- Move a mark's entries from one state to another in every slice. -/
def State.moveEntries (s : State) (mod epoch : Nat) (st0 st1 : Nat) : State :=
  s.etabIds.foldl (fun s n => match s.entryOf n mod epoch [st0] with | some e => s.wr (etState n e) st1 | none => s) s

/-- An abort notice's mark whose accepted packets have all landed moves to Dropping (R514). -/
def State.startDrops (s : State) : State :=
  s.fab.abortWalk.foldl (fun s m =>
    if s.fab.landings.any (fun l => decide (l.pkt.src = m.1) && decide (l.pkt.epoch = m.2) && !l.pkt.ret) then s
    else s.moveEntries m.1 m.2 etOPEN etDROPPING) s

/-- A sector holds uncommitted or undrained state. -/
def Line.holdsState (l : Line) : Bool :=
  decide (l.kind = .side) || decide (l.kind = .undo) || decide (l.kind = .hold) || l.secs.any fun x => decide (x.etag ≠ 0)

/-- A line holds state of an entry that has not committed. -/
def State.uncommitted (s : State) (n : Nat) (l : Line) : Bool :=
  let live (e : Nat) : Bool := decide (e ≠ 0) && (decide (s.rd (etState n e) = etOPEN) || decide (s.rd (etState n e) = etDROPPING))
  live l.entry || l.secs.any fun x => live x.etag

/-- A line holds state of an entry that is Open or Committed (R296). -/
def State.quotaLine (s : State) (n : Nat) (l : Line) : Bool :=
  let live (e : Nat) : Bool := decide (e ≠ 0) && (decide (s.rd (etState n e) = etOPEN) || decide (s.rd (etState n e) = etCOMMITTED))
  live l.entry || l.secs.any fun x => live x.etag

/-- Cache ways of a slice. -/
def State.cacheWays (s : State) (n : Nat) : List Nat := (List.range 16).filter fun w => decide (s.explWays n ≤ w)

/-- Lines of a set that count against the epoch quota (R296): those in cache ways (DEDUCED, log entry 23). -/
def State.stateLines (s : State) (n set : Nat) : Nat :=
  ((s.cacheWays n).filter fun w => s.quotaLine n ((s.slice n).line set w)).length

/-- The epoch quota of a slice's sets (R296, R313). -/
def State.epochQuota (s : State) (n : Nat) : Nat :=
  let q := s.rd (F.floorEpochCfgQuota (n / 64))
  min (if q = 0 then 4 else q) (s.cacheWays n).length

/-- Lines held for an entry, as its register reports (R315). -/
def State.countLines (s : State) (n : Nat) : State :=
  entries.foldl (fun s e =>
    if s.rd (etState n e) = etFREE then s
    else s.wr (F.sliceEtabLines n (e - 1)) ((s.slice n).lines.filter fun p =>
      p.2.secs.any (fun x => decide (x.etag = e)) || decide (p.2.entry = e)).length) s

/-! ## The merge buffer (R266) -/

/-- Apply a merge entry to its sector. -/
def State.mergeApply (s : State) (n : Nat) (m : MergeEnt) : State :=
  let way := if 2 ^ 21 ≤ m.line then some (m.line - 2 ^ 21) else (s.slice n).find m.line
  let s := s.modSlice n fun x => { x with merge := x.merge.filter fun k => !(decide (k.line = m.line) && decide (k.set = m.set) && decide (k.sector = m.sector) && decide (k.word = m.word)) }
  match way with
  | none => s
  | some w =>
    let expl := decide (2 ^ 21 ≤ m.line)
    s.modSlice n fun x =>
      let l := x.line m.set w
      let c := l.sec expl m.sector
      let v : W64 := BitVec.ofNat 64 (leNat (mergeBytes m.mask m.bytes (leBytes 8 (c.word m.word).toNat)))
      let ws := ((List.range 32).map fun i => c.word i).set m.word v
      let p := if m.pois ∧ !c.poison.contains m.word then c.poison ++ [m.word] else c.poison
      let p := if m.mask = 0xFF ∧ !m.pois ∧ !c.lost then p.filter (fun i => decide (i ≠ m.word)) else p
      x.setLine m.set w (l.setSec expl m.sector { c with words := ws, poison := p })

/-- Write the merge entries of a sector first. -/
def State.mergeFlush (s : State) (n set line sector : Nat) : State :=
  ((s.slice n).merge.filter fun m => decide (m.set = set) && decide (m.line = line) && decide (m.sector = sector)).foldl
    (fun s m => s.mergeApply n m) s

/-- Write every merge entry of a line. -/
def State.mergeFlushLine (s : State) (n set line : Nat) : State :=
  ((s.slice n).merge.filter fun m => decide (m.set = set) && decide (m.line = line)).foldl (fun s m => s.mergeApply n m) s

/-- Write the whole merge buffer. -/
def State.mergeAll (s : State) (n : Nat) : State := (s.slice n).merge.foldl (fun s m => s.mergeApply n m) s

/-- A narrow write of one word. -/
def State.mergeAdd (s : State) (n : Nat) (p : Loc) (word : Nat) (mask : BitVec 8) (bytes : List Byte) (pois : Bool) : State :=
  let same (m : MergeEnt) : Bool := decide (m.set = p.set) && decide (m.line = p.line) && decide (m.sector = p.sector) && decide (m.word = word)
  match (s.slice n).merge.find? same with
  | some m =>
    let m' := { m with mask := m.mask ||| mask, bytes := mergeBytes mask bytes m.bytes, pois := m.pois || pois }
    if m'.mask = 0xFF then s.mergeApply n m' else s.modSlice n fun x => { x with merge := x.merge.map fun k => if same k then m' else k }
  | none =>
    let s := match (s.slice n).merge with
      | m :: r => if 16 ≤ r.length + 1 then (s.mergeApply n m).bump Ev.mergeFull (.slice n) 1 else s
      | [] => s
    s.modSlice n fun x => { x with merge := x.merge ++ [⟨p.set, p.line, p.sector, word, mask, mergeBytes mask bytes [], pois⟩] }

/-! ## The array's decoders (R269, R270, R281) -/

/-- Corrected words of an access (R269). -/
def State.sliceCe (s : State) (n : Nat) (ce : List Nat) : State :=
  if ce.isEmpty then s
  else ((s.bump Ev.floorCe (.slice n) ce.length).wr (F.sliceErrCeValid n) 1).satAdd (F.sliceErrCeCount n) ce.length

/-- Uncorrectable words of an access: the first is recorded, and each further one sets ue_multi (R270, R281). -/
def State.sliceUe (s : State) (n : Nat) (p : Loc) (way src : Nat) (ue : List Nat) : State :=
  ue.foldl (fun s _ => s.record (F.sliceErrUeValid n) (F.sliceErrUeMulti n)
    [(F.sliceErrUeSrc n, src), (F.sliceErrUeSet n, p.set), (F.sliceErrUeWay n, way), (F.sliceErrUeSector n, p.sector)])
    (if ue.isEmpty then s else s.bump Ev.floorUe (.slice n) ue.length)

/-- Sources of SLICE_ERR (R281). -/
def seREAD : Nat := 0
def seFILL : Nat := 1
def seSCRUB : Nat := 2
def seWRITEBACK : Nat := 3
def seFOLD : Nat := 4
def seRMW : Nat := 5
def seMETA : Nat := 6

/-! ## Victims (R260, R262) -/

/-- A way may not be taken: pinned, with state, being filled or written back. -/
def State.fixedWay (s : State) (n set way : Nat) : Bool :=
  let x := s.slice n
  let l := x.line set way
  (decide (l.kind ≠ .empty)) && (l.holdsState || (decide (l.kind = .cache) && decide (s.persOf l.kennel = 3))
    || x.fills.any (fun f => f.alloc && decide (f.line = l.line)) || x.wbs.any (fun b => decide (b.line = l.line)))

/-- Class of a way as a victim: 0 invalid, 1 dropped, 2 Stream, 3 Normal, 4 Sticky; and its order within the class. -/
def State.victimRank (s : State) (n set way : Nat) : Nat × Int :=
  let l := (s.slice n).line set way
  let secs := l.secs.filter (·.valid)
  if l.kind = .empty ∨ secs.isEmpty then (0, 0)
  else if secs.all (·.drop) then (1, secs.foldl (fun m x => min m (x.mark : Int)) (2 ^ 62))
  else match s.persOf l.kennel with
    | 0 => (2, l.age)
    | 2 => (4, l.age)
    | _ => (3, l.age)

/-- The victim for an insertion into window `k` (Stream insertions take classes 0 to 3): within the window's quota any allowed way,
at the quota the window's own least recently used line. -/
def State.victim (s : State) (n set k : Nat) (stream : Bool) : Option Nat :=
  let ways := s.cacheWays n
  let own := ways.filter fun w => let l := (s.slice n).line set w; decide (l.kind = .cache) && decide (l.kennel = k)
  let atQuota := decide (k < 64) && decide (s.quotaOf k ≤ own.length)
  let cand := (if atQuota then own else ways).filter fun w =>
    !s.fixedWay n set w && (!stream || decide ((s.victimRank n set w).1 ≤ 3))
  let better (a b : Nat) : Bool :=
    let x := s.victimRank n set a
    let y := s.victimRank n set b
    if atQuota then decide (((s.slice n).line set a).age < ((s.slice n).line set b).age)
    else decide (x.1 < y.1) || (decide (x.1 = y.1) && decide (x.2 < y.2))
  cand.foldl (fun v w => match v with | none => some w | some u => if better w u then some w else some u) none

/-- The write-back of a victim decodes its dirty sectors (R270): words newly found uncorrectable are poisoned, and recorded with source 3. -/
def State.wbDecode (s : State) (n set way : Nat) (wb : List (Nat × List Nat)) : State :=
  wb.foldl (fun s x =>
    let l := (s.slice n).line set way
    let c := l.sec false x.1
    let ue := x.2.filter fun i => decide (i < 32) && !c.poison.contains i
    if x.1 < 8 ∧ c.dirty ∧ !ue.isEmpty then
      (s.sliceUe n ⟨n, false, set, way, l.line, x.1, 0, 0⟩ way seWRITEBACK ue).modSlice n fun y =>
        y.setLine set way (l.setSec false x.1 { c with poison := poisUnion c.poison ue, zero := false })
    else s) s

/-- Write-backs of a line's dirty Twin sectors start, for a request of a collar; one under way goes on. -/
def State.startWbs (s : State) (n line : Nat) (b : Nat × Nat) (dirty : List (Nat × Sector)) (col : Nat) : State :=
  s.modSlice n fun x =>
    let new := dirty.filter fun k => !(x.wbs.any fun w => decide (w.line = line) && decide (w.sector = k.1))
    { x with wbs := x.wbs ++ new.map fun k =>
      ⟨line, k.1, (s.segOf n line).getD 0, k.2.words, k.2.poison, !s.chanRetired n, !s.chanRetired b.1, decide (k.2.twin ≠ 3), col, s.now⟩ }

/-- Empty a way for a request of a collar: its dirty sectors are written back. A dirty Twin sector starts its write-back, and the way stays
until both copies are acknowledged (R328); so it does while the channel makes requests wait (R335, R337): then the answer is false. -/
def State.evict (s : State) (n set way : Nat) (col : Nat) (wb : List (Nat × List Nat)) : State × Bool :=
  let l := (s.slice n).line set way
  if l.kind ≠ .cache then (s.modSlice n fun x => x.setLine set way Line.none_, true)
  else
    let s := (s.mergeFlushLine n set l.line).wbDecode n set way wb
    let l := (s.slice n).line set way
    let dirty := ((List.range 8).map fun k => (k, l.sec false k)).filter fun k => k.2.dirty
    match (if dirty.isEmpty then none else s.twinOf n l.line) with
    | some b =>
      if s.chanRetired n ∧ s.chanRetired b.1 then (s.modSlice n fun x => x.setLine set way Line.none_, true)
      else (s.startWbs n l.line b dirty col, false)
    | none =>
      if !dirty.isEmpty ∧ s.chanBusy n then (s, false)
      else
        let s := dirty.foldl (fun s k => s.putBack n l.line k.1 k.2.words k.2.poison col) s
        (s.modSlice n fun x => x.setLine set way Line.none_, true)

/-- Outcome of looking for a way: found, none to be had, or a victim that first writes back. -/
inductive Got where
  | way (w : Nat)
  | none_
  | later
deriving DecidableEq, Repr

/-- Take a way of a set for a new line. -/
def State.takeWay (s : State) (n set k : Nat) (stream : Bool) (col : Nat) (wb : List (Nat × List Nat)) : State × Got :=
  match s.victim n set k stream with
  | none => (s, .none_)
  | some w =>
    let (s, ok) := s.evict n set w col wb
    (s, if ok then .way w else .later)

/-- Put a new cache line in a way: Stream and run-ahead lines enter as least recently used (R260). -/
def State.newLine (s : State) (n set way line kennel : Nat) (pref : Bool) : State :=
  let low := decide (s.persOf kennel = 0) || pref
  s.modSlice n fun x =>
    let oldest := (List.range 16).foldl (fun m w => min m (x.line set w).age) 0
    { x.setLine set way ⟨.cache, line, kennel, if low then oldest - 1 else x.stamp + 1, 0, 0, pref, []⟩ with stamp := x.stamp + 1 }

/-- A use of a line: it is the most recently used of its set. -/
def State.touch (s : State) (n set way : Nat) : State :=
  s.modSlice n fun x =>
    { x.setLine set way { x.line set way with age := x.stamp + 1, pf := false } with stamp := x.stamp + 1 }

/-- Take a way for a cached line of a module address and put the line in it. -/
def State.allocate (s : State) (n set line kennel : Nat) (pref : Bool) (col : Nat) (wb : List (Nat × List Nat)) : State × Got :=
  match s.takeWay n set kennel (pref || decide (s.persOf kennel = 0)) col wb with
  | (s, .way w) => (s.newLine n set w line kennel pref, .way w)
  | r => r

/-! ## Fills (R259) and run-ahead (R267, R268) -/

/-- A fill is of a place's sector. -/
def Fill.at_ (f : Fill) (p : Loc) : Bool := decide (f.line = p.line) && decide (f.sector = p.sector)

/-- A place's sector is being filled. -/
def State.filling (s : State) (n : Nat) (p : Loc) : Bool := (s.slice n).fills.any (·.at_ p)

/-- No further fill can start: 32 are outstanding (R259). -/
def State.fillsFull (s : State) (n : Nat) : Bool := decide (32 ≤ (s.slice n).fills.length)

/-- Start a fill, or join one of the same sector. -/
def State.startFill (s : State) (n : Nat) (p : Loc) (alloc pref narrow : Bool) (r : Option Req) : State :=
  let s := match r with | some q => s.setReq { q with stage := .waitFill } | none => s
  let ids := match r with | some q => [q.id] | none => []
  if s.filling n p then
    s.modSlice n fun x => { x with fills := x.fills.map fun f => if f.at_ p then { f with reqs := f.reqs ++ ids, pref := f.pref && ids.isEmpty } else f }
  else s.modSlice n fun x =>
    { x with fills := x.fills ++ [⟨p.line, p.sector, p.seg, alloc, pref, ids, s.now, match r with | some q => q.collar | none => 15, narrow, false⟩] }

/-- Place of a line's sector. -/
def placeOf (n set line sector : Nat) : Loc :=
  ⟨n, decide (2 ^ 21 ≤ line), set, line - 2 ^ 21, line, sector, 0, 0⟩

/-- What becomes of a line fetched ahead: it is done with, the stream ends, or it waits until a fill of the 32 has ended or its victim is
written back. -/
inductive Ahead where
  | done
  | squashed
  | later
deriving DecidableEq, Repr

/-- Fetch the invalid sectors of one line ahead, if it passes the checks of R268. A line that finds no victim is not fetched (R261). -/
def State.runAhead (s : State) (n line : Nat) (wb : List (Nat × List Nat)) : State × Ahead :=
  let ok := match s.unhash n line with
    | some a => let r := s.right (pageOf a); decide (r = 1) || decide (r = 2)
    | none => false
  if !ok ∨ line % 1024 = 0 then (s.bump Ev.prefSquash (.slice n) 1, .squashed)
  else
    let set := line % 768
    let kennel := ((s.unhash n line).map s.kennelOf).getD 64
    let (s, got) := match (s.slice n).find line with
      | some w => (s, Got.way w)
      | none => s.allocate n set line kennel true 15 wb
    match got with
    | .none_ => (s, .done)
    | .later => (s, .later)
    | .way w =>
      let l := (s.slice n).line set w
      let todo (s : State) (k : Nat) : Bool := !(l.sec false k).valid && !s.filling n (placeOf n set line k)
      let s := (List.range 8).foldl (fun s k => if todo s k && !s.fillsFull n then s.startFill n (placeOf n set line k) true true false none else s) s
      if (List.range 8).any (todo s) then (s, .later) else (s.bump Ev.prefIssue (.slice n) 1, .done)

/-- Lines after those fetched, up to `depth` beyond `line`, are fetched ahead for stream `t`, whose newest demand is now `line`. A line that must
wait stops it until the next demand of the stream or the next end of a fill. -/
def State.streamOn (s : State) (n line depth : Nat) (wb : List (Nat × List Nat)) (t : Nat × Nat) : State :=
  let first := max t.2 line
  let go := (List.range (line + depth - first)).foldl (fun (acc : State × Ahead × Nat) i =>
    if acc.2.1 ≠ .done then acc
    else let r := acc.1.runAhead n (first + 1 + i) wb; (r.1, r.2, if r.2 = .done then first + 1 + i else acc.2.2)) (s, .done, first)
  go.1.modSlice n fun x =>
    let rest := x.streams.filter fun k => decide (k.1 ≠ t.1) && decide (k.1 ≠ line)
    { x with streams := if go.2.1 = .squashed then rest else ((line, go.2.2) :: rest).take 8 }

/-- Lines beyond its newest demand that a slice fetches ahead. -/
def State.prefDepth (s : State) (n : Nat) : Nat := min 16 (s.rd (F.sliceCfgPrefDepth n))

/-- A fill has ended: streams that run go on with lines that had to wait. -/
def State.streamsGo (s : State) (n : Nat) : State :=
  if !s.on (F.sliceCfgPrefEn n) ∨ s.on (F.sliceStatRemoved n) then s
  else ((s.slice n).streams.filter fun t => decide (t.1 < t.2) && decide (t.2 < t.1 + s.prefDepth n)).foldl
    (fun s t => s.streamOn n t.1 (s.prefDepth n) [] t) s

/-- A demand read at the stream detector (R267). A stream is its newest demand line and the last line fetched ahead. A miss to the line after
the newest demand confirms or carries it on; a hit carries on one that has fetched the line ahead. A removed slice fetches nothing ahead
(R272). -/
def State.stream (s : State) (n line : Nat) (miss : Bool) (wb : List (Nat × List Nat)) : State :=
  if !s.on (F.sliceCfgPrefEn n) ∨ s.on (F.sliceStatRemoved n) then s
  else
    let ahead := (s.slice n).streams.find? fun t => decide (t.1 < line) && decide (line ≤ t.2)
    match ahead.or (if miss then (s.slice n).streams.find? (fun t => decide (t.1 + 1 = line)) else none) with
    | some t => s.streamOn n line (s.prefDepth n) wb t
    | none =>
      if !miss then s
      else
        let last := match (s.slice n).streams.find? (fun t => decide (t.1 = line)) with | some t => t.2 | none => line
        s.modSlice n fun x => { x with streams := ((line, last) :: x.streams.filter fun t => decide (t.1 ≠ line)).take 8 }

end Sys2Proof.Machine
end

