-- ==== Sys2Proof/Machine/Chan.lean ====
section
/-! DEFINITION. Channel controllers: lanes and retirement (R336, R338), reads and their decoding (R323), line epochs and write-back (R327, R328), Twin events (R347, R348), and what a
read of a sector brings (R329, R331, R339). -/

namespace Sys2Proof.Machine

/-! ## Channel health (R336, R338) -/

/-- The running job holds a non-Twin tensor in a channel (R339). -/
def State.jobOnChan (s : State) (n : Nat) : Bool :=
  match s.job with
  | some j => j.segs.any fun g => g.mirror.isNone && !(j.segs.any fun h => decide (h.mirror = some g.seg)) && (!g.near || decide (g.floor = n / 64))
  | none => false

/-- A channel leaves service; a RETRAIN of it completes with CHANNEL_LOST (R547). -/
def State.chanOut (s : State) (ch cause : Nat) : State :=
  ((s.wrs [(F.hbmcChStatState (ch / 16) (ch % 16), 3), (F.hbmcChStatRetireCause (ch / 16) (ch % 16), cause),
           (F.hbmcChStatLanePending (ch / 16) (ch % 16), 0)]).bump Ev.channelRetire (.slice ch) 1).finish
    (fun w => decide (w = .retrainChan ch)) sCHANNEL_LOST 0

/-- A channel retires at once (R338). -/
def State.retireChan (s : State) (ch cause : Nat) : State :=
  if s.chanRetired ch then s
  else
    let (cls, fatal) := if s.jobOnChan ch then (2, 9) else (1, 0)
    ((s.chanOut ch cause).faultLog 17 cls 5 ch 5 fatal (R.hbmcChStat (ch / 16) (ch % 16))).setCap lHBM 0 ch 0

/-- Channels that wait for lane repair start to retrain (R337): at a pass boundary, or at once when no pass runs. -/
def State.startLanes (s : State) : State :=
  let s := s.bound.lanes.foldl (fun s ch => if s.chanRetired ch then s else s.wr (F.hbmcChStatState (ch / 16) (ch % 16)) 2) s
  { s with bound := { s.bound with lanes := [] } }

/-- Suspect lanes of a channel are kept among its hits with `what` from 1,024 on, and from 2,048 on once they are found to have no
redundant lane. -/
def suspectLane (lane : Nat) : Nat := 1024 + lane

/-- Corrections attributed to lanes (R336): the 64th within 1 s makes its lane suspect; a second suspect lane of a pseudo-channel
that already runs with one unrepaired retires the channel (R338 cause 2). -/
def State.laneHit (s : State) (ch lane : Nat) : State :=
  let known := s.laneHits.any fun h => decide (h.chan = ch) && (decide (h.what = 1024 + lane) || decide (h.what = 2048 + lane))
  if known then s
  else
    let hits := (s.laneHits.filter fun (h : ChanHit) => decide (1024 ≤ h.what) || decide (s.now < h.time + 1000000000)) ++ [ChanHit.mk ch lane s.now]
    let n := (hits.filter fun h => decide (h.chan = ch) && decide (h.what = lane)).length
    let s := { s with laneHits := hits }
    if n < 64 then s
    else
      let s := { s with laneHits := (s.laneHits.filter fun (h : ChanHit) => !(decide (h.chan = ch) && decide (h.what = lane))) ++ [ChanHit.mk ch (suspectLane lane) s.now] }
      let f := F.hbmcChStatLaneUnrep (ch / 16) (ch % 16)
      let second := s.on f && s.laneHits.any fun h =>
        decide (h.chan = ch) && decide (2048 ≤ h.what) && decide ((h.what - 2048) / 32 = lane / 32)
      let s := ((s.bump Ev.laneSuspect (.slice ch) 1).wr (F.hbmcChStatLanePending (ch / 16) (ch % 16)) 1).faultLog
        16 1 5 ch 3 0 (R.hbmcChStat (ch / 16) (ch % 16))
      if second then s.retireChan ch 2
      else
        let s := { s with bound := { s.bound with lanes := if s.bound.lanes.contains ch then s.bound.lanes else s.bound.lanes ++ [ch] } }
        if s.pass.isNone then s.startLanes else s

/-- A training of a channel leaves lanes unrepaired: those stay known, and its other lanes start afresh (R337). Two of one pseudo-channel retire
it (R338 cause 2). -/
def State.settleLanes (s : State) (n : Nat) (unrep : List Nat) : State :=
  let kept := s.laneHits.filter fun (h : ChanHit) => !(decide (h.chan = n) && decide (1024 ≤ h.what))
  let s := { s with laneHits := kept ++ unrep.map (fun l => ChanHit.mk n (2048 + l) s.now) }
  let pcs := unrep.map (· / 32)
  if pcs.eraseDups.length < pcs.length then s.retireChan n 2 else s

/-- Lanes that a retraining finds failing beyond those that were suspect (R336). -/
def State.newLanes (s : State) (r : ChanTrain) : Nat :=
  let h := r.chan / 16
  let c := r.chan % 16
  r.rep0 + r.rep1 - (s.rd (F.hbmcChStatLanesRepPc0 h c) + s.rd (F.hbmcChStatLanesRepPc1 h c)) + r.unrep.length
    - (s.laneHits.filter fun k => decide (k.chan = r.chan) && decide (1024 ≤ k.what)).length

/-- Uncorrectable words that are not marked (R338 cause 3): 16 different addresses within 1 h retire the channel. -/
def State.ueHit (s : State) (ch line sec word : Nat) : State :=
  let key := (line * 8 + sec) * 32 + word
  let hits := (s.ueHits.filter fun (h : ChanHit) => decide (s.now < h.time + 3600000000000) && !(decide (h.chan = ch) && decide (h.what = key)))
    ++ [ChanHit.mk ch key s.now]
  let s := { s with ueHits := hits }
  if 16 ≤ (hits.filter fun h => decide (h.chan = ch)).length then s.retireChan ch 3 else s

/-- Sources of HBMC_CH_ERR (R346). -/
def hsFILL : Nat := 0
def hsNARROW : Nat := 1
def hsSCRUB : Nat := 2
def hsTWIN : Nat := 3
def hsCOMPARE : Nat := 4

/-- What a read of a sector from HBM gives (R323): its words, the words that come marked, and the words newly found
uncorrectable. -/
structure HbmGot where
  words : List W64
  marked : List Nat
  ue : List Nat
deriving DecidableEq, Repr

/-- A controller reads and decodes one sector (R323). The first uncorrectable word is recorded, and each further one sets ue_multi (R346). -/
def State.hbmRead (s : State) (ch line sec src : Nat) (h : HbmIn) : State × HbmGot :=
  let v := s.hbmSec ch line sec
  let ce := h.ce.filter fun i => decide (i < 32) && !v.2.contains i && !h.ue.contains i
  let ue := h.ue.filter fun i => decide (i < 32) && !v.2.contains i
  let u : EvUnit := .slice ch
  let i := ch / 16
  let c := ch % 16
  let s := (s.bump Ev.hbmRd u 1).activate ch
  let s := if h.odCe = 0 then s else s.bump Ev.hbmOdeccCe u h.odCe
  let s := if h.odUe = 0 then s else s.bump Ev.hbmOdeccUe u h.odUe
  let s := if v.2.isEmpty then s else s.bump Ev.hbmPoisonRead u v.2.length
  let s := if ce.isEmpty then s
    else ((s.bump Ev.hbmCe u ce.length).bump Ev.hbmCeDelay u 12).satAdd (F.hbmcChStatCeCount i c) ce.length
  let s := (h.lanes.take ce.length).foldl (fun s l => s.laneHit ch l) s
  let s := ue.foldl (fun s _ => s.record (F.hbmcChErrUeValid i c) (F.hbmcChErrUeMulti i c)
      [(F.hbmcChErrSrc i c, src), (F.hbmcChErrSev i c, h.sev % 4), (F.hbmcChErrPc i c, sec % 2), (F.hbmcChErrLine i c, line),
       (F.hbmcChErrSector i c, sec), (F.hbmcChErrEpoch i c, s.commitEpoch)])
    (if ue.isEmpty then s else s.bump Ev.hbmUe u ue.length)
  let s := ue.foldl (fun s w => s.ueHit ch line sec w) s
  (s, ⟨v.1, v.2, ue⟩)

/-! ## Line epochs (R327): ordinary lines of their channel, written through the merge buffer (R328) -/

/-- Channel-local line, sector, word and bytes of the word where the line epoch of a line lies. -/
structure EpochAt where
  line : Nat
  sector : Nat
  word : Nat
  high : Bool
deriving DecidableEq, Repr

def State.epochAt (s : State) (ch line : Nat) : Option EpochAt :=
  (s.segOf ch line).map fun g =>
    let b := s.epochByte line g
    ⟨b / 2048, b / 256 % 8, b / 8 % 32, decide (b % 8 = 4)⟩

/-- The sector that holds a line epoch, as its slice has it, or as its controller reads it (R323, R324): its words and marks. -/
def State.epochSec (s : State) (ch : Nat) (e : EpochAt) : State × List W64 × List Nat :=
  let s := s.mergeFlush ch (e.line % 768) e.line e.sector
  let fromHbm : State × List W64 × List Nat :=
    if s.chanRetired ch then (s, s.hbmSec ch e.line e.sector) else let (s, g) := s.hbmRead ch e.line e.sector hsNARROW .quiet; (s, g.words, g.marked)
  match (s.slice ch).find e.line with
  | some w =>
    let c := ((s.slice ch).line (e.line % 768) w).sec false e.sector
    if c.valid then (s, c.words, c.poison) else fromHbm
  | none => fromHbm

/-- Read the line epoch of a line; none where it cannot be read (R330): its word is marked as poisoned. -/
def State.lineEpoch (s : State) (ch line : Nat) : State × Option Nat :=
  match s.epochAt ch line with
  | some e =>
    let (s, v) := s.epochSec ch e
    (s, if v.2.contains e.word then none else some (bf (v.1.getD e.word 0).toNat (if e.high then 32 else 0) 32))
  | none => (s, some 0)

/-- The line epochs of both copies of a Twin line; what cannot be read counts as 0. -/
def State.bothEpochs (s : State) (n line : Nat) (tb : Nat × Nat) : State × Nat × Nat :=
  let (s, a) := s.lineEpoch n line
  let (s, b) := s.lineEpoch tb.1 tb.2
  (s, a.getD 0, b.getD 0)

/-- Write the line epoch of a line in a channel: into the slice's line of it, which is allocated and filled where it is not there; without a
victim, or in a removed slice, in HBM (R261, R272). -/
def State.putEpoch (s : State) (ch line v : Nat) : State :=
  match s.epochAt ch line with
  | none => s
  | some e =>
    let set := e.line % 768
    let (s, old) := s.epochSec ch e
    let (s, got) := match (s.slice ch).find e.line with
      | some w => (s, Got.way w)
      | none => if s.on (F.sliceStatRemoved ch) then (s, Got.none_)
        else s.allocate ch set e.line (((s.unhash ch e.line).map s.kennelOf).getD 64) false 1 []
    let word : W64 := BitVec.ofNat 64 (bfSet (old.1.getD e.word 0).toNat (if e.high then 32 else 0) 32 v)
    match got with
    | .way w =>
      let s := s.modSlice ch fun x =>
        let l := x.line set w
        let c := l.sec false e.sector
        let c := if c.valid then c else { Sector.none_ with valid := true, words := old.1, poison := old.2, zero := secZero old.1 old.2 }
        x.setLine set w (l.setSec false e.sector { c with dirty := true, zero := c.zero && decide (v = 0) })
      s.mergeAdd ch ⟨ch, false, set, w, e.line, e.sector, 0, 0⟩ e.word (if e.high then 0xF0 else 0x0F) (leBytes 8 word.toNat) false
    | _ => s.putOne ch e.line e.sector (((List.range 32).map fun i => old.1.getD i 0).set e.word word) old.2

/-- Write a committed sector back at once for a request of a collar (R352): one copy, or both copies of a Twin with their line epochs (R328), leaving out retired
channels (R339). It takes the place of a write-back of the sector under way. A split sector that has been written whole since is whole
again (R331). -/
def State.writeBack (s : State) (n line sec : Nat) (words : List W64) (poison : List Nat) (whole : Bool) (col : Nat) : State :=
  match s.twinOf n line with
  | none => s.putBack n line sec words poison col
  | some b =>
    let s := s.modSlice n fun x => { x with wbs := x.wbs.filter fun w => !(decide (w.line = line) && decide (w.sector = sec)) }
    let s := s.putBack n line sec words poison col
    let s := if s.chanRetired n then s else s.putEpoch n line s.commitEpoch
    let s := (s.crossRing (n / 64) (b.1 / 64) col (effLevel col 0 0) 256).putBack b.1 b.2 sec words poison col
    let s := if s.chanRetired b.1 then s else s.putEpoch b.1 b.2 s.commitEpoch
    if whole then s.unsplit n line sec else s

/-! ## Twin events (R330, R331, R347, R348) -/

/-- Record a Twin event of a primary slice. -/
def State.twinLog (s : State) (n line sec kind winner ea eb : Nat) : State :=
  let f := n / 64
  s.record (F.floorTwinLogValid f) (F.floorTwinLogMulti f)
    [(F.floorTwinLogKind f, kind), (F.floorTwinLogSlice f, n % 64), (F.floorTwinLogLine f, line), (F.floorTwinLogSector f, sec),
     (F.floorTwinLogWinner f, winner), (F.floorTwinEpEpochA f, ea), (F.floorTwinEpEpochB f, eb)]

/-- Every word of a sector. -/
def allWords : List Nat := List.range 32

/-! ## Sectors from HBM (R323, R329, R331, R339) -/

/-- What a read of a sector brings: words, poison and the Twin code of its metadata: 0 for a line that is no Twin, else the copy that the words
came from, 3 for a split sector (R326). With both copies uncorrectable the words of copy A come, poisoned (DESIGN CHOICE, log entry 95).
`a` and `b` are what the reads of the two copies meet. -/
def State.fetchSector (s : State) (n line sec src : Nat) (a b : HbmIn) : State × List W64 × List Nat × Nat :=
  match s.twinOf n line with
  | none =>
    if s.chanRetired n then (s, (s.hbmSec n line sec).1, allWords, 0)
    else let (s, g) := s.hbmRead n line sec src a; (s, g.words, poisUnion g.marked g.ue, 0)
  | some tb =>
    if s.isSplit n line sec then (s, (s.hbmSec n line sec).1, allWords, 3)
    else
      let dead := s.chanRetired n
      let (s, ga) := if dead then (s, (⟨(s.hbmSec n line sec).1, [], allWords⟩ : HbmGot)) else s.hbmRead n line sec src a
      if ga.ue.isEmpty then (s, ga.words, ga.marked, 1)
      else
        let s := s.bump Ev.twinRead (.slice n) 1
        let (s, ea, eb) := s.bothEpochs n line tb
        if s.chanRetired tb.1 then
          ((s.twinLog n line sec 3 0 ea eb), ga.words, poisUnion ga.marked ga.ue, 1)
        else
          let (s, gb) := s.hbmRead tb.1 tb.2 sec hsTWIN b
          if gb.ue.isEmpty then
            let s := if s.chanRetired n then s
              else (((s.hbmPut n line sec gb.words gb.marked).bump Ev.twinRepair (.slice n) 1).twinLog n line sec 0 1 ea eb).faultLog
                8 1 5 n 3 0 (R.hbmcChErr (n / 16) (n % 16))
            (s, gb.words, gb.marked, 2)
          else if dead then (s.twinLog n line sec 3 0 ea eb, gb.words, poisUnion gb.marked gb.ue, 2)
          else (s.twinLog n line sec 3 0 ea eb, ga.words, poisUnion ga.marked ga.ue, 1)

/-- A read of a sector needs copy B while the channel of copy B cannot be read: it waits (R335, R337). -/
def State.needsBusyB (s : State) (n line sec : Nat) (a : HbmIn) : Bool :=
  match s.twinOf n line with
  | some tb => !s.isSplit n line sec && (s.chanRetired n || !a.ue.isEmpty) && s.chanBusy tb.1
  | none => false

end Sys2Proof.Machine
end

