-- ==== Sys2Proof/Machine/Drain.lean ====
section
/-! DEFINITION. Side-lines and undo lines (R294, R295), the commit drain and the drop walk (R306, R308), a slice emptied (R272), and accesses at
once by the Keeper, the host and Calls (R258, R265, R270, R290, R297, R698, R702). -/

namespace Sys2Proof.Machine

/-! ## Side-lines and undo lines (R294, R295) -/

/-- Side-lines of a line, in entry order: entry and way. -/
def SliceSt.sides (x : SliceSt) (set line : Nat) : List (Nat × Nat) :=
  entries.filterMap fun e => ((List.range 16).find? fun w =>
    let l := x.line set w
    decide (l.kind = .side) && decide (l.line = line) && decide (l.entry = e)).map fun w => (e, w)

/-- The undo line of an explicit way. -/
def SliceSt.undo (x : SliceSt) (set way : Nat) : Option Nat :=
  (List.range 16).find? fun w => let l := x.line set w; decide (l.kind = .undo) && decide (l.line = 2 ^ 21 + way)

/-- Element addition of a Fold on one 64-bit word (R285, R286): FP32, or INT32 for etype 2. -/
def foldWord (etype : Nat) (a b : W64) : W64 :=
  let add (x y : Nat) : Nat := if etype = 2 then (x + y) % 2 ^ 32 else (fop2 fmtFp32 FVal.add x y).bits
  BitVec.ofNat 64 (add (bf a.toNat 0 32) (bf b.toNat 0 32) + add (bf a.toNat 32 32) (bf b.toNat 32 32) * 2 ^ 32)

/-- Words of a sector with a side sector added. -/
def addSector (etype : Nat) (a : List W64 × List Nat) (b : Sector) : List W64 × List Nat :=
  ((List.range 32).map fun i => foldWord etype (a.1.getD i 0) (b.word i), poisUnion a.2 b.poison)

/-- Add the side-lines over a sector whose entries are in one of the given states, in entry order (R297). -/
def State.addSides (s : State) (n : Nat) (p : Loc) (st : List Nat) (a : List W64 × List Nat) : List W64 × List Nat :=
  let x := s.slice n
  (x.sides p.set p.line).foldl (fun a ew =>
    let l := x.line p.set ew.2
    let c := l.sec false p.sector
    if c.valid && st.contains (s.rd (etState n ew.1)) then addSector l.etype a c else a) a

/-- The side bit of a place's base sector follows its side-lines (R255). -/
def State.sideBit (s : State) (n : Nat) (p : Loc) : State :=
  match s.baseSec n p with
  | none => s
  | some (w, c) =>
    let x := s.slice n
    let b := (x.sides p.set p.line).any fun ew => ((x.line p.set ew.2).sec false p.sector).valid
    if c.side = b then s else s.setBase n p w { c with side := b }

/-- The undo copy of an explicit sector: words and marks. -/
def State.undoCopy (s : State) (n : Nat) (p : Loc) : List W64 × List Nat :=
  match (s.slice n).undo p.set p.way with
  | some u => let c := ((s.slice n).line p.set u).sec false p.sector; (c.words, c.poison)
  | none => ([], [])

/-- Change the committed copy of a sector held in place (R698), for a request of a collar: its undo copy, or its HBM copy by a read-modify-write
in the channel, which a change of the whole sector needs no read for. -/
def State.modCommitted (s : State) (n : Nat) (p : Loc) (dec : SliceDec) (whole : Bool) (col : Nat) (f : List W64 × List Nat → List W64 × List Nat) : State :=
  if p.expl then
    match (s.slice n).undo p.set p.way with
    | some u => s.modSlice n fun x =>
        let l := x.line p.set u
        let c := l.sec false p.sector
        let r := f (c.words, c.poison)
        x.setLine p.set u (l.setSec false p.sector { c with words := r.1, poison := r.2, fresh := false })
    | none => s
  else
    let (s, v) : State × List W64 × List Nat :=
      if whole then (s, [], [])
      else let (s, v) := (s.atOnce true n col 256).fetchSector n p.line p.sector hsNARROW dec.a dec.b; (s, v.1, v.2.1)
    let r := f v
    s.writeBack n p.line p.sector r.1 r.2 whole col

/-! ## Commit drain (R306) and drop walk (R308) -/

/-- Free an undo sector of an explicit way, and the undo line with its last sector. -/
def State.dropUndo (s : State) (n set way sector : Nat) : State :=
  match (s.slice n).undo set way with
  | none => s
  | some u => s.modSlice n fun x =>
      let l := (x.line set u).setSec false sector Sector.none_
      x.setLine set u (if l.secs.any (·.valid) then l else Line.none_)

/-- Remove a side-line's sector, and the side-line with its last one. -/
def State.dropSide (s : State) (n set way sector : Nat) : State :=
  s.modSlice n fun x =>
    let l := (x.line set way).setSec false sector Sector.none_
    x.setLine set way (if l.secs.any (·.valid) then l else Line.none_)

/-- A committed last-use mark takes effect on a sector (R264): a clean sector, or a dirty one in a window that is not droppable,
waits as a first victim; a dirty one in a droppable window is invalidated and its line recorded as dead (R265). -/
def State.dropMark (s : State) (n : Nat) (p : Loc) : State :=
  match s.baseSec n p with
  | none => s
  | some (w, c) =>
    let k := ((s.slice n).line p.set w).kennel
    if p.expl ∨ !c.valid then s
    else if c.dirty ∧ s.kennelOn k ∧ s.on (F.kenlCtrlDroppable k) then
      (s.setBase n p w Sector.none_).modSlice n fun x =>
        { x with dead := (x.dead.filter fun l => decide (l ≠ p.line)).drop ((x.dead.filter fun l => decide (l ≠ p.line)).length - 1023) ++ [p.line] }
    else
      (s.setBase n p w { c with drop := true, pendDrop := false, mark := (s.slice n).stamp.toNat }).modSlice n fun x => { x with stamp := x.stamp + 1 }

/-- The dirty committed sectors of a cached line are written back at once for a request of a collar, its merge entries first (R252, R261, R266,
R272). -/
def State.cleanLine (s : State) (n set way col : Nat) : State :=
  let s := s.mergeFlushLine n set ((s.slice n).line set way).line
  let l := (s.slice n).line set way
  (List.range 8).foldl (fun s k =>
    let c := l.sec false k
    if c.dirty ∧ c.etag = 0 then s.writeBack n l.line k c.words c.poison (decide (c.twin ≠ 3)) col else s) s

/-- A way for a line of a module address, at once (log entry 98): a victim's write-back is complete when the access is. None without a victim
(R261). -/
def State.allocateNow (s : State) (n set line col : Nat) (wb : List (Nat × List Nat)) : State × Option Nat :=
  let k := ((s.unhash n line).map s.kennelOf).getD 64
  let s := match s.victim n set k (decide (s.persOf k = 0)) with
    | some w =>
      if ((s.slice n).line set w).kind ≠ LineKind.cache then s
      else (((s.mergeFlushLine n set ((s.slice n).line set w).line).wbDecode n set w wb).cleanLine n set w col).modSlice n fun x => x.setLine set w Line.none_
    | none => s
  match s.allocate n set line k false col [] with
  | (s, .way w) => (s, some w)
  | (s, _) => (s, none)

/-- A sector of a place changes by a drain: its line takes a way where it has none, and without a victim the sum goes to HBM (R261). -/
def State.drainInto (s : State) (n : Nat) (p : Loc) (v : List W64 × List Nat) (twin : Nat) (wb : List (Nat × List Nat)) : State :=
  match (if s.on (F.sliceStatRemoved n) then (s, none) else s.allocateNow n p.set p.line 1 wb) with
  | (s, some k) => s.setBase n p k { Sector.none_ with valid := true, dirty := true, words := v.1, poison := v.2, twin := twin }
  | (s, none) => (s.bump Ev.sliceBypass (.slice n) 1).writeBack n p.line p.sector v.1 v.2 false 1

/-- Drain one sector of a Committed entry: its side-line is added into the base sector, which is filled first where it is not valid (R329); a
sector held in place becomes an ordinary dirty one and its undo copy goes. -/
def State.drainSec (s : State) (n : Nat) (p : Loc) (e : Nat) (dec : SliceDec) : State :=
  let s := s.mergeFlush n p.set p.line p.sector
  let s := match s.baseSec n p with
    | some (w, c) =>
      if c.etag = e then
        let s := s.setBase n p w { c with etag := 0 }
        let s := if p.expl then s.dropUndo n p.set p.way p.sector else s
        if c.pendDrop then s.dropMark n p else s
      else s
    | none => s
  match ((s.slice n).sides p.set p.line).find? (fun ew => decide (ew.1 = e)) with
  | none => s
  | some (_, w) =>
    let sl := (s.slice n).line p.set w
    let c := sl.sec false p.sector
    if !c.valid then s
    else
      let s := s.bump Ev.commitDrainCyc (.slice n) 1
      let (s, v) : State × List W64 × List Nat × Nat := match s.baseSec n p with
        | some (_, b) => if b.valid then (s, b.words, b.poison, b.twin) else s.fetchSector n p.line p.sector hsFILL dec.a dec.b
        | none => s.fetchSector n p.line p.sector hsFILL dec.a dec.b
      let r := addSector sl.etype (v.1, v.2.1) c
      let s := s.dropSide n p.set w p.sector
      let s := match s.baseSec n p with
        | some (bw, b) =>
          let s := if b.valid ∧ b.etag ≠ 0 then s.modCommitted n p dec false 1 fun h => addSector sl.etype h c else s
          s.setBase n p bw { b with valid := true, dirty := !p.expl, fresh := false, words := r.1, poison := r.2, zero := false,
                                    drop := false, pendDrop := false, twin := v.2.2 }
        | none => s.drainInto n p r v.2.2 dec.wb
      s.sideBit n p

/-- Sectors that hold state of an entry. -/
def State.entryPlaces (s : State) (n e : Nat) : List Loc :=
  ((s.slice n).lines.flatMap fun q =>
    (List.range 8).filterMap fun k =>
      let c := q.2.sec false k
      if (q.2.kind = .side ∧ q.2.entry = e ∧ c.valid) ∨ ((q.2.kind = .cache ∨ q.2.kind = .expl) ∧ c.etag = e) then
        some (placeOf n (q.1 / 16) q.2.line k)
      else none).eraseDups

/-- Ways that hold hold lines of an entry go (R304, R308). -/
def State.dropHold (s : State) (n e : Nat) : State :=
  (s.slice n).lines.foldl (fun s q =>
    if q.2.kind = .hold ∧ q.2.entry = e then s.modSlice n fun x => x.setLine (q.1 / 16) (q.1 % 16) Line.none_ else s) s

/-- Drain a Committed entry and free it; `met` is what the sectors meet, in the order of the lines. -/
def State.drainEntry (s : State) (n e : Nat) (met : List SliceDec) : State :=
  let ps := s.entryPlaces n e
  let s := (ps.zip (List.range ps.length)).foldl (fun s p => s.drainSec n p.1 e (met.getD p.2 .quiet)) s
  ((s.dropHold n e).setReg (R.sliceEtab n (e - 1)) 0).countLines n

/-- Drain every Committed entry of a slice. -/
def State.drainAll (s : State) (n : Nat) : State :=
  entries.foldl (fun s e => if s.rd (etState n e) = etCOMMITTED then s.drainEntry n e [] else s) s

/-- Drain the Committed entries that a later request finds on its sector (R306). -/
def State.drainAt (s : State) (n : Nat) (p : Loc) (dec : SliceDec) : State :=
  if entries.any (fun e => decide (s.rd (etState n e) = etCOMMITTED)) then
    (entries.foldl (fun s e => if s.rd (etState n e) = etCOMMITTED then s.drainSec n p e dec else s) s).countLines n
  else s

/-- The drop walk of an entry (R308 step 4): sectors in place are invalidated, or restored from their undo lines; side-lines and undo
lines go; the entry is free. A last-use mark that waited for the epoch goes too: it would have taken effect at the commit (R264). -/
def State.dropEntry (s : State) (n e : Nat) : State :=
  let s := s.mergeAll n
  let s := (s.entryPlaces n e).foldl (fun s p =>
    let s := match s.baseSec n p with
      | some (w, c) =>
        if c.etag ≠ e then s
        else if p.expl then
          match (s.slice n).undo p.set p.way with
          | some u =>
            let o := ((s.slice n).line p.set u).sec false p.sector
            let o := if o.fresh then Sector.freshSec else { o with valid := true, etag := 0 }
            (s.setBase n p w o).dropUndo n p.set p.way p.sector
          | none => s.setBase n p w { c with etag := 0 }
        else s.modSlice n fun x =>
          let l := x.line p.set w
          x.setLine p.set w { l.setSec false p.sector Sector.none_ with
            secs := ((l.setSec false p.sector Sector.none_).secs.map fun q : Sector => if q.etag = 0 then { q with pendDrop := false } else q) }
      | none => s
    let s := match ((s.slice n).sides p.set p.line).find? (fun ew => decide (ew.1 = e)) with
      | some (_, w) => s.dropSide n p.set w p.sector
      | none => s
    s.sideBit n p) s
  ((s.dropHold n e).setReg (R.sliceEtab n (e - 1)) 0).countLines n

/-! ## A slice removed from the hash (R272) -/

/-- What stays of a cached line whose committed contents leave the cache: the sectors that an entry holds. -/
def Line.stateOnly (l : Line) : Line :=
  if l.secs.any (fun c => decide (c.etag ≠ 0)) then { l with secs := l.secs.map fun c => if c.etag = 0 then { Sector.none_ with side := c.side } else c }
  else Line.none_

/-- Write back the dirty committed sectors in the cache ways of a slice, and invalidate all but what an entry holds; a collar of the Keeper
(R352). -/
def State.flushOnce (s : State) (n : Nat) : State :=
  (s.slice n).lines.foldl (fun s q =>
    let set := q.1 / 16
    let way := q.1 % 16
    if ((s.slice n).line set way).kind ≠ .cache then s
    else (s.cleanLine n set way 0).modSlice n fun x => x.setLine set way (x.line set way).stateOnly) s

/-- Empty the cache ways of a slice of what no entry holds (R272): line epochs that the first round writes into the slice leave it in the
second. -/
def State.flushSlice (s : State) (n : Nat) : State := ((s.mergeAll n).flushOnce n).flushOnce n

/-! ## Dead lines (R265) -/

/-- A line of the dead table. -/
def State.isDead (s : State) (n line : Nat) : Bool := (s.slice n).dead.contains line

/-- A read of a dead line is refused where the trap is set. -/
def State.deadTrap (s : State) (n line : Nat) : Bool := s.isDead n line && s.on (F.floorDbgDeadTrap (n / 64))

/-- A read of a dead line counts. -/
def State.deadRead (s : State) (n line : Nat) : State := if s.isDead n line then s.bump Ev.deadRead (.slice n) 1 else s

/-- A write lands in a line: its entry in the dead table goes. -/
def State.undead (s : State) (n line : Nat) : State :=
  s.modSlice n fun x => { x with dead := x.dead.filter fun l => decide (l ≠ line) }

/-! ## Decoding an access (R256, R270) -/

/-- A line as it counts once its metadata comes uncorrectable (R256): dirty and poisoned, every sector of it until it is written whole;
of a side-line or undo line, every sector that holds data. -/
def Line.metaLost (l : Line) (expl : Bool) : Line :=
  let base := expl || decide (l.kind = .cache)
  { l with secs := (List.range 8).map fun k =>
      let c := l.sec expl k
      if base || c.valid then
        { c with valid := true, dirty := c.dirty || (base && !expl), fresh := false, zero := false, poison := List.range 32, lost := true }
      else c }

/-- The metadata of a way's line comes uncorrectable. -/
def State.loseMeta (s : State) (n : Nat) (p : Loc) (w : Nat) : State :=
  (s.sliceUe n p w seMETA [0]).modSlice n fun x => x.setLine p.set w ((x.line p.set w).metaLost p.expl)

/-- The metadata of the line that an access uses is decoded. -/
def State.metaCheck (s : State) (n : Nat) (p : Loc) (dec : SliceDec) : State :=
  if !dec.metaUe then s else match s.wayOf n p with | none => s | some w => s.loseMeta n p w

/-- The decoder's report on a sector that a write or Fold reads first (R270): words that are uncorrectable stay poisoned. -/
def State.decodeBase (s : State) (n : Nat) (p : Loc) (src : Nat) (dec : SliceDec) : State :=
  let s := s.metaCheck n p dec
  match s.baseSec n p with
  | none => s
  | some (w, c) =>
    if !c.valid || c.fresh then s
    else
      let ue := dec.ue.filter fun i => !c.poison.contains i
      ((s.sliceCe n dec.ce).sliceUe n p w src ue).setBase n p w { c with poison := poisUnion c.poison ue, zero := c.zero && ue.isEmpty }

/-- A read hits a valid sector (R258): its words are decoded, and counted as a hit. Answers the state and the sector, none where it was clean
and came uncorrectable: then it is invalid, and to be filled again (R270). -/
def State.readHit (s : State) (n : Nat) (p : Loc) (w : Nat) (c : Sector) (dec : SliceDec) : State × Option Sector :=
  let ue := if c.fresh then [] else dec.ue.filter fun i => !c.poison.contains i
  let s := (s.sliceCe n (if c.fresh then [] else dec.ce)).sliceUe n p w seREAD ue
  if !ue.isEmpty ∧ !c.dirty ∧ !p.expl then
    (((s.setBase n p w { Sector.none_ with side := c.side }).touch n p.set w |>.bump Ev.floorUeRefill (.slice n) 1).faultLog 7 1 4 n 3 0 (R.sliceErr n), none)
  else
    let c := { c with poison := poisUnion c.poison ue, zero := c.zero && ue.isEmpty }
    let s := (s.setBase n p w c).bump Ev.sliceHit (.slice n) 1
    (if p.expl then s else (s.touch n p.set w).stream n p.line false dec.wb, some c)

/-! ## Accesses at once: those of the Keeper, of the host through BAR2 and of Calls. Each is one step: a fill that it needs is complete when it
is (DESIGN CHOICE, log entry 98) -/

/-- Fill a sector at once for an access (R258, R261, R272), and what the fill brings; with a line that is there, or a way for a new one, the
sector is cached. -/
def State.fillNow (s : State) (n : Nat) (p : Loc) (col src : Nat) (dec : SliceDec) : State × List W64 × List Nat :=
  let (s, got) : State × Option Nat :=
    match (s.slice n).find p.line with
    | some w => (s.touch n p.set w, some w)
    | none =>
      if s.on (F.sliceStatRemoved n) then (s, none)
      else match s.allocateNow n p.set p.line col dec.wb with
        | (s, some w) => (s, some w)
        | (s, none) => (s.bump Ev.sliceBypass (.slice n) 1, none)
  let (s, v) := (s.atOnce true n col 256).fetchSector n p.line p.sector src dec.a dec.b
  let s := s.sliceUe n p (got.getD 0) seFILL v.2.1
  match got with
  | some w =>
    let side := ((s.slice n).sides p.set p.line).any fun ew => (((s.slice n).line p.set ew.2).sec false p.sector).valid
    (s.setBase n p w { Sector.none_ with valid := true, zero := secZero v.1 v.2.1, side := side, twin := v.2.2, words := v.1, poison := v.2.1 }, v.1, v.2.1)
  | none => (s, v.1, v.2.1)

/-- Read a sector at once: as the module's own tiles see it, or else its committed contents (R297). None where the dead table refuses it. -/
def State.readSec (s : State) (p : Loc) (own : Bool) (col : Nat) (dec : SliceDec) : State × Option (List W64 × List Nat) :=
  let n := p.slice
  let s := (((s.mergeFlush n p.set p.line p.sector).metaCheck n p dec).grantOnce false n col 256).deadRead n p.line
  if s.deadTrap n p.line then (s, none)
  else
    let st := if own then [etOPEN, etCOMMITTED, etDROPPING] else [etCOMMITTED]
    let sum (s : State) (v : List W64 × List Nat) : State × Option (List W64 × List Nat) := (s, some (s.addSides n p st v))
    let miss (s : State) : State × Option (List W64 × List Nat) :=
      let (s, v) := (s.bump Ev.sliceMiss (.slice n) 1).fillNow n p col hsFILL dec
      sum (s.stream n p.line true dec.wb) v
    match s.baseSec n p with
    | none => miss s
    | some (w, c) =>
      if !c.valid then miss s
      else if !own ∧ c.etag ≠ 0 ∧ s.rd (etState n c.etag) ≠ etCOMMITTED then
        if p.expl then sum s (s.undoCopy n p)
        else let (s, v) := (s.atOnce true n col 256).fetchSector n p.line p.sector hsFILL dec.a dec.b; sum s (v.1, v.2.1)
      else match s.readHit n p w c dec with
        | (s, some c) => sum (s.latencyOnce false n col) (c.words, c.poison)
        | (s, none) => let (s, v) := s.fillNow n p col hsFILL dec; sum s v

/-- Bytes of a sector. -/
def secBytes (v : List W64 × List Nat) : List PB :=
  (List.range 256).map fun i => ⟨BitVec.ofNat 8 ((v.1.getD (i / 8) 0).toNat / 2 ^ (8 * (i % 8))), v.2.contains (i / 8)⟩

/-- Addresses of the sectors that bytes lie in. -/
def sectorsOf (a n : Nat) : List Nat := (List.range ((a % 256 + n + 255) / 256)).map fun i => a / 256 * 256 + 256 * i

/-- Read bytes of module memory at once on a collar; `met` is what each sector meets, in order. None where a sector is refused; one that no
slice serves comes zero and poisoned. -/
def State.readAt (s : State) (own : Bool) (col a n : Nat) (met : List SliceDec) : State × Option (List PB) :=
  let bs := sectorsOf a n
  let r := (bs.zip (List.range bs.length)).foldl (fun (acc : State × Option (List PB)) b =>
    match acc.2, acc.1.locate b.1 with
    | none, _ => acc
    | some xs, none => (acc.1, some (xs ++ List.replicate 256 ⟨0, true⟩))
    | some xs, some p => match acc.1.readSec p own col (met.getD b.2 .quiet) with
      | (s, some v) => (s, some (xs ++ secBytes v))
      | (s, none) => (s, none)) (s, some [])
  (r.1, r.2.map fun xs => (xs.drop (a % 256)).take n)

/-- Committed bytes as the Keeper (collar 0) and the snapshot engine (collar 1) read them (R352), meeting what awaits them there; refused ones
come zero and poisoned. -/
def State.readCommitted (s : State) (col a n : Nat) : State × List PB :=
  let ks := sectorsOf a n
  let met := ks.map fun b => ((s.host.met.find? fun m => decide (m.1 = b)).map (·.2)).getD .quiet
  let s := if s.host.met.isEmpty then s else { s with host := { s.host with met := s.host.met.filter fun m => !ks.contains m.1 } }
  let r := s.readAt false col a n met
  (r.1, r.2.getD (List.replicate n ⟨0, true⟩))

/-- Contents of a sector as the module's own tiles see them, looked at without an access: the owner table's copy of flags (R481). -/
def State.viewSec (s : State) (p : Loc) : List W64 × List Nat :=
  let n := p.slice
  let s := s.mergeFlush n p.set p.line p.sector
  let base : List W64 × List Nat := match s.baseSec n p with
    | some (_, c) => if c.valid then (c.words, c.poison) else s.hbmSec n p.line p.sector
    | none => s.hbmSec n p.line p.sector
  s.addSides n p [etOPEN, etCOMMITTED, etDROPPING] base

/-- Bytes within one sector, looked at so. -/
def State.viewBytes (s : State) (a n : Nat) : List PB :=
  match s.locate (a / 256 * 256) with
  | some p => ((secBytes (s.viewSec p)).drop (a % 256)).take n
  | none => List.replicate n ⟨0, true⟩

/-! ## Writing into a sector (R257, R266, R270) -/

/-- A sector's words with bytes written from offset `off`: a whole word loses its old mark, a part of one keeps it (R270). -/
def secPatch (a : List W64 × List Nat) (off : Nat) (bs : List PB) : List W64 × List Nat :=
  let byte (i k : Nat) : Byte :=
    let j := 8 * i + k
    if off ≤ j ∧ j < off + bs.length then (bs.getD (j - off) ⟨0, false⟩).b else BitVec.ofNat 8 ((a.1.getD i 0).toNat / 2 ^ (8 * k))
  let covers (i : Nat) : Bool := decide (off ≤ 8 * i) && decide (8 * i + 8 ≤ off + bs.length)
  let touches (i : Nat) : Bool := decide (off < 8 * i + 8) && decide (8 * i < off + bs.length)
  let bad (i : Nat) : Bool := (List.range 8).any fun k =>
    decide (off ≤ 8 * i + k) && decide (8 * i + k < off + bs.length) && (bs.getD (8 * i + k - off) ⟨0, false⟩).p
  ((List.range 32).map fun i => if touches i then BitVec.ofNat 64 (leNat ((List.range 8).map (byte i))) else a.1.getD i 0,
   (List.range 32).filter fun i => if covers i then bad i else a.2.contains i || (touches i && bad i))

/-- A sector about to be written: one that is covered whole sets zero exactly (R257), ends the loss of its line's metadata (R256) and is split
no more (R331). -/
def Sector.opened (c : Sector) (whole : Bool) : Sector :=
  if whole then { c with zero := true, lost := false, twin := if c.twin = 3 then 1 else c.twin } else c

/-- Write runs of bytes into a valid base sector: whole words at once, parts of words through the merge buffer (R266), the metadata as R255
and R257 state. -/
def State.putBytes (s : State) (n : Nat) (p : Loc) (w : Nat) (parts : List (Nat × List PB)) : State :=
  parts.foldl (fun s part =>
    let (off, bs) := part
    (List.range 32).foldl (fun s i =>
      if off < 8 * i + 8 ∧ 8 * i < off + bs.length then
        let ws := wordPart off bs i
        match s.baseSec n p with
        | none => s
        | some (_, c) =>
          if ws.1 = 0xFF then
            let s := s.modSlice n fun x => { x with merge := x.merge.filter fun m =>
              !(decide (m.set = p.set) && decide (m.line = p.line) && decide (m.sector = p.sector) && decide (m.word = i)) }
            s.setBase n p w { c with words := ((List.range 32).map fun k => c.word k).set i (BitVec.ofNat 64 (leNat ws.2.1)),
                                     poison := (c.poison.filter fun k => decide (k ≠ i)) ++ (if ws.2.2 || c.lost then [i] else []),
                                     zero := c.zero && decide (leNat ws.2.1 = 0) && !ws.2.2, fresh := false }
          else
            (s.setBase n p w { c with zero := c.zero && ws.2.1.all (fun b => decide (b = 0)) && !ws.2.2, fresh := false }).mergeAdd
              n p i ws.1 ws.2.1 ws.2.2
      else s) s) s

/-- Write a run of bytes into one sector at once, committed on arrival (R290): in the base sector, and in the committed copy where an entry
holds it in place (R698); without room, in HBM (R261). A removed slice keeps no committed line (R272). -/
def State.pokeSec (s : State) (p : Loc) (bs : List PB) (col : Nat) (dec : SliceDec) : State :=
  let n := p.slice
  let whole := decide (256 ≤ bs.length)
  let s := ((s.decodeBase n p seRMW dec).undead n p.line).atOnce false n col bs.length
  let s := match s.baseSec n p with
    | some (_, c) => if c.valid ∨ whole then s else (s.fillNow n p col hsNARROW dec).1
    | none => if whole then
        match (if s.on (F.sliceStatRemoved n) then (s, none) else s.allocateNow n p.set p.line col dec.wb) with
        | (s, some _) => s
        | (s, none) => s.bump Ev.sliceBypass (.slice n) 1
      else (s.fillNow n p col hsNARROW dec).1
  let s := match s.baseSec n p with
    | some (w, c) =>
      let s := if c.valid ∧ c.etag ≠ 0 then s.modCommitted n p dec whole col fun v => secPatch v p.byte bs else s
      let c := if c.valid then c else { Sector.none_ with valid := true, side := c.side, twin := b2n (s.twinOf n p.line).isSome }
      let s := (s.setBase n p w ({ c with dirty := !p.expl, drop := false, pendDrop := false }.opened whole)).putBytes n p w [(p.byte, bs)]
      if p.expl then s else s.touch n p.set w
    | none =>
      let (s, v) : State × List W64 × List Nat :=
        if whole then (s, [], [])
        else let (s, v) := (s.atOnce true n col 256).fetchSector n p.line p.sector hsNARROW dec.a dec.b; (s, v.1, v.2.1)
      let r := secPatch v p.byte bs
      s.writeBack n p.line p.sector r.1 r.2 whole col
  if s.on (F.sliceStatRemoved n) then s.flushSlice n else s

/-- Write bytes of module memory with epoch 0, at once. -/
def State.poke (s : State) (a : Nat) (bs : List PB) (col : Nat) (met : List SliceDec) : State :=
  let ks := sectorsOf a bs.length
  ((List.range ks.length).foldl (fun (acc : State × Nat × List PB) i =>
    let (s, a, bs) := acc
    let k := 256 - a % 256
    ((match s.locate a with | some p => s.pokeSec p (bs.take k) col (met.getD i .quiet) | none => s), a + k, bs.drop k)) (s, a, bs)).1

/-! ## Tensors (R702) -/

/-- Bytes of a copy-A segment that hold data (R702). -/
def twinData : Nat := segBytes - 0x400000

/-- Module address of byte `k` of a tensor of a class (R702). -/
def tensorByte (cls addr k : Nat) : Nat := if cls = 2 then addr + segBytes * (k / twinData) + k % twinData else addr + k

/-- Committed bytes of a tensor, from byte `k` on; a run crosses at most one end of a segment's data. -/
def State.readTensor (s : State) (cls addr k n : Nat) : State × List PB :=
  let m := if cls = 2 then min n (twinData - k % twinData) else n
  let r := s.readCommitted 0 (tensorByte cls addr k) m
  let q := r.1.readCommitted 0 (tensorByte cls addr (k + m)) (n - m)
  (q.1, r.2 ++ q.2)

/-- Bytes without marks. -/
def plain (bs : List Byte) : List PB := bs.map fun b => ⟨b, false⟩

end Sys2Proof.Machine
end

