-- ==== Sys2Proof/Machine/Sha3.lean ====
section
/-! DEFINITION. SHA3-512 (FIPS 202), which the spec names for digests (R446, R533, R645, R654): the Keccak permutation on 25 lanes of 64
bits, lane `x + 5 y`, and a sponge of rate 72 bytes. -/

namespace Sys2Proof.Machine

/-- The shift register of the round constants: x⁸ + x⁶ + x⁵ + x⁴ + 1. -/
def rcStep (r : Nat) : Nat := if r < 128 then 2 * r else (2 * r) ^^^ 0x171

/-- The seven bits of one round, put at places 0, 1, 3, 7, 15, 31 and 63 of the constant, and the register after them. -/
def rcRound (r : Nat) : Nat × Nat :=
  (List.range 7).foldl (fun (p : Nat × Nat) j => (rcStep p.1, p.2 + p.1 % 2 * 2 ^ (2 ^ j - 1))) (r, 0)

/-- The constants of `n` rounds, from a state of the register on. -/
def rcList : Nat → Nat → List W64
  | 0, _ => []
  | n + 1, r => BitVec.ofNat 64 (rcRound r).2 :: rcList n (rcRound r).1

/-- Where lanes other than lane 0 go, with their rotations: from lane `x + 5 y` to lane `y + 5 (2x + 3y)`; the lane at step `t` of the way
that starts at lane 1 turns by (t + 1)(t + 2) / 2. Each entry: target lane, source lane, rotation. -/
def laneMoves : Nat → Nat → Nat → List (Nat × Nat × Nat)
  | 0, _, _ => []
  | n + 1, t, i =>
    let j := i / 5 + 5 * ((2 * (i % 5) + 3 * (i / 5)) % 5)
    (j, i, (t + 1) * (t + 2) / 2 % 64) :: laneMoves n (t + 1) j

/-- Lane `i` of a state. -/
def laneOf (a : List W64) (i : Nat) : W64 := a.getD i 0

/-- The parity of a column of lanes. -/
def colParity (a : List W64) (x : Nat) : W64 := (List.range 5).foldl (fun p y => p ^^^ laneOf a (x % 5 + 5 * y)) 0

/-- Each lane takes on the parities of two neighbouring columns. -/
def mixColumns (a : List W64) : List W64 :=
  let ps := (List.range 5).map (colParity a)
  let d := (List.range 5).map fun x => laneOf ps ((x + 4) % 5) ^^^ (laneOf ps ((x + 1) % 5)).rotateLeft 1
  (a.zip (List.range 25)).map fun p => p.1 ^^^ laneOf d (p.2 % 5)

/-- Lanes turn and move. -/
def moveLanes (ms : List (Nat × Nat × Nat)) (a : List W64) : List W64 :=
  (List.range 25).map fun i => match ms.find? fun m => decide (m.1 = i) with
    | some m => (laneOf a m.2.1).rotateLeft m.2.2
    | none => laneOf a i

/-- Each lane of a row takes on the next two. -/
def mixRows (b : List W64) : List W64 :=
  (b.zip (List.range 25)).map fun p =>
    let near (k : Nat) : W64 := laneOf b (p.2 / 5 * 5 + (p.2 + k) % 5)
    p.1 ^^^ (near 2 &&& ~~~(near 1))

/-- The permutation: 24 rounds, each of which ends with its constant in lane 0. -/
def keccakF (a : List W64) : List W64 :=
  let ms := laneMoves 24 0 1
  (rcList 24 1).foldl (fun a rc => match mixRows (moveLanes ms (mixColumns a)) with
    | h :: t => (h ^^^ rc) :: t
    | [] => []) a

/-- An empty sponge. -/
def Sponge.init : Sponge := ⟨List.replicate 25 0, []⟩

/-- Absorb one block of 72 bytes. -/
def spongeBlock (a : List W64) (bs : List Byte) : List W64 :=
  keccakF ((a.zip (leWords 25 bs)).map fun p => p.1 ^^^ p.2)

/-- Absorb bytes, block by block. -/
def spongeGo : Nat → List W64 → List Byte → Sponge
  | 0, a, bs => ⟨a, bs⟩
  | fuel + 1, a, bs => if bs.length < 72 then ⟨a, bs⟩ else spongeGo fuel (spongeBlock a (bs.take 72)) (bs.drop 72)

/-- Absorb bytes. -/
def Sponge.absorb (s : Sponge) (bs : List Byte) : Sponge :=
  let all := s.buf ++ bs
  spongeGo (all.length / 72 + 1) s.lanes all

/-- The digest: 64 bytes. -/
def Sponge.digest (s : Sponge) : List Byte :=
  let n := s.buf.length
  let pad := if n = 71 then [(0x86 : Byte)] else (0x06 : Byte) :: List.replicate (70 - n) 0 ++ [0x80]
  ((spongeBlock s.lanes (s.buf ++ pad)).take 8).flatMap fun w => leBytes 8 w.toNat

/-- SHA3-512 of bytes. -/
def sha3 (bs : List Byte) : List Byte := (Sponge.init.absorb bs).digest

end Sys2Proof.Machine
end

