-- ==== Sys2Proof/Machine/Pack.lean ====
section
/-! DEFINITION. The pack lane (R426 to R444) and snapshots (R445 to R449): trees, combining, mailboxes, the snapshot steps. -/

namespace Sys2Proof.Machine

/-! ## Trees -/

/-- A tree's state outside its registers. -/
def State.tree (s : State) (t : Nat) : TreeSt := tget (fun _ => TreeSt.reset) s.trees t

/-- Change it. -/
def State.modTree (s : State) (t : Nat) (f : TreeSt → TreeSt) : State :=
  { s with trees := tset (fun _ => TreeSt.reset) s.trees t (f (s.tree t)) }

/-- Kinds of R430. -/
def kBARRIER : Nat := 1
def kREDUCTION : Nat := 2
def kBROADCAST : Nat := 3
def kTIME : Nat := 4
def kRESET : Nat := 5
def kCOMMIT : Nat := 6
def kSNAP : Nat := 7

/-- Statuses of R430. -/
def kOK : Nat := 0
def kMISMATCH : Nat := 1
def kTIMEOUT : Nat := 2
def kREFUSED : Nat := 3

/-- Completion status of a pack status (R474). -/
def packStatus : Nat → Nat
  | 0 => sOK | 1 => sMISMATCH | 2 => sTIMEOUT | _ => sREFUSED

/-- A child slot: its module, if valid (R454). -/
def State.kid (s : State) (t k : Nat) : Option Nat :=
  let r := (s.reg (if k < 4 then R.packTreeKids0 t else R.packTreeKids1 t)).toNat
  if bit r (16 * (k % 4) + 14) then some (bf r (16 * (k % 4)) 14) else none

/-- Valid child slots. -/
def State.kids (s : State) (t : Nat) : List Nat := (List.range 8).filter fun k => (s.kid t k).isSome

/-- This module is the tree's root. -/
def State.isRoot (s : State) (t : Nat) : Bool := !s.on (F.packTreeCtrlHasParent t)

/-- A pack packet to a neighbour (R430). -/
def packPkt (h : PackHdr) (dst : Nat) (data : List Byte) : Packet :=
  { Packet.blank with
      typ := pPACK, collar := if h.kind = kTIME ∨ h.kind = kRESET then 0 else 1, dst := dst, lenM1 := data.length - 1, data := data,
      pack := some h }

/-- Slot of this module at its parent (log entry 24). -/
def State.parentSlot (s : State) (t : Nat) : Nat := Config.parentSlot s.moduleId t (s.rd (F.packTreeCtrlParent t)) % 8

/-- A header of an operation on a tree, down or up before its slot is put in. -/
def hdrOf (t : Nat) (o : PackOp) (seq : Nat) (up : Bool) (status members : Nat) : PackHdr :=
  { tree := t, kind := o.kind, up := up, rop := o.rop, dtype := o.dtype, countM1 := o.countM1, child := 0, status := status, opSeq := seq,
    members := members, aux := o.aux }

/-- Send a packet down to every child. -/
def State.sendDown (s : State) (t : Nat) (h : PackHdr) (data : List Byte) : State :=
  (s.kids t).foldl (fun s k => match s.kid t k with | some m => s.launchPkt (packPkt { h with up := false } m data) | none => s) s

/-- Bytes of values. -/
def valBytes (vs : List W64) : List Byte := vs.flatMap fun v => leBytes 8 v.toNat

/-! ## Reductions (R435) -/

/-- One reduction step. -/
def reduce2 (rop dtype : Nat) (a b : W64) : W64 :=
  let x := a.toNat
  let y := b.toNat
  match rop with
  | 3 => a ||| b
  | 4 => a &&& b
  | 0 => if dtype = 2 then BitVec.ofNat 64 (fop2 fmtFp64 FVal.add x y).bits else a + b
  | _ =>
    let isMax := decide (rop ≠ 1)
    match dtype with
    | 0 => if a.toInt < b.toInt then (if isMax then b else a) else if isMax then a else b
    | 1 => if x < y then (if isMax then b else a) else if isMax then a else b
    | _ => BitVec.ofNat 64 (fop2 fmtFp64 (FVal.minMax isMax) x y).bits

/-- Combine lists of values in order (R434). -/
def reduceAll (rop dtype : Nat) (own : List W64) (others : List (List W64)) : List W64 :=
  others.foldl (fun acc o => (acc.zip o).map fun p => reduce2 rop dtype p.1 p.2) own

/-! ## Snapshot slots -/

/-- A snapshot in progress in a slot. -/
def State.snap (s : State) (k : Nat) : Option SnapSt := tget (fun _ => none) s.snaps k

/-- Change it. -/
def State.setSnap (s : State) (k : Nat) (x : Option SnapSt) : State := { s with snaps := tset (fun _ => none) s.snaps k x }

/-- Slot states (R457). -/
def snEMPTY : Nat := 0
def snARMED : Nat := 1
def snOPEN : Nat := 2
def snCOMMITTED : Nat := 3
def snVALID : Nat := 4
def snSUPERSEDED : Nat := 5
def snABANDONED : Nat := 6

/-- A slot is abandoned; a cause it already has stays. -/
def State.abandon (s : State) (k cause : Nat) : State :=
  let s := if s.rd (F.packSnapStatCause k) = 0 then s.wr (F.packSnapStatCause k) cause else s
  (s.wr (F.packSnapStatState k) snABANDONED).bump Ev.snapAbandon .module 1

/-- An Open slot that a reset left is abandoned with cause 4 (R449). -/
def State.abandonReset (s : State) (k : Nat) : State :=
  (s.wrs [(F.packSnapStatCause k, 4), (F.packSnapStatState k, snABANDONED)]).bump Ev.snapAbandon .module 1

/-- A snapshot command ends (R470): its completion by cause, and the slot's work goes, RESPs that its engine still awaits with it. -/
def State.endSnap (s : State) (k status : Nat) : State :=
  match s.snap k with
  | none => s
  | some x =>
    let s := (s.setSnap k none).modFab fun f => { f with awaits := f.awaits.filter fun a => !(decide (a.pkt.reqKind = 2) && decide (a.pkt.reqTag % 2 = k)) }
    match x.e with
    | some e => s.complete e status (k + s.rd (F.packSnapStatEpoch k) * 2 ^ 32)
    | none => s

/-- Completion status of an abandoned slot. -/
def State.snapStatus (s : State) (k : Nat) : Nat :=
  match s.rd (F.packSnapStatCause k) with
  | 1 => match s.snap k with
    | some x => if x.status = rWINDOW_DENIED then sWINDOW_DENIED else if x.status = rWINDOW_BOUNDS then sCHUNK_BOUNDS
                else if x.status = rUNREACHABLE then sUNREACHABLE else sWINDOW_CLOSED
    | none => sREFUSED
  | 2 => sPOISON
  | 3 => sMISMATCH
  | 4 => sABORTED
  | _ => sREFUSED

/-! ## Operations -/

/-- R433: a start that completes at once with REFUSED: a broadcast away from the root, or anything but the Keeper's operations on a
commit tree; and, as no row of R433 covers it, a start on a tree that is not enabled or of a kind that only the Keeper starts (DEDUCED, log
entry 37). -/
def State.packRefused (s : State) (t : Nat) (o : PackOp) : Bool :=
  let keeper : Bool := match o.by_ with
    | .commit _ | .snapBegin _ | .promote _ | .reset => true
    | _ => false
  !s.on (F.packTreeCtrlEnable t) || (!keeper && (decide (o.kind = 0) || decide (kBROADCAST < o.kind))) || (decide (o.kind = kBROADCAST) && !s.isRoot t)
    || (s.on (F.packTreeCtrlCommit t) && !keeper)

/-- Write a mailbox's result and then its flag, with epoch 0 (R437). -/
def State.mailResult (s : State) (t seq status members : Nat) (vals : List Byte) : State :=
  if !s.on (F.packTreeMboxMboxEn t) then s
  else
    let base := 1024 * s.rd (F.packTreeMboxBase t)
    let s := if vals.isEmpty then s else s.poke (base + 0x100) (plain vals) 0 []
    s.poke (base + 0x200) (plain (leBytes 8 (seq % 2 ^ 16 + status % 16 * 2 ^ 16 + members % 2 ^ 32 * 2 ^ 32))) 0 []

/-- What the starter of an operation learns when it completes on this module. A commit barrier is the commit instant of the pass that arrived for
it (R443); with any other outcome the pass neither commits nor is discarded (R440), and its PASS_COMMIT completes with that status (log entry 61). -/
def State.packAnswer (s : State) (t : Nat) (o : PackOp) (seq status members : Nat) (vals : List W64) : State :=
  match o.by_ with
  | .host e =>
    let out := decide (status = kOK) && decide (o.kind = kREDUCTION)
    if out && !e.inp.wrOk then s.hostFail e e.w3.toNat
    else
    let s := if out then s.hostWrite e.w3.toNat (valBytes vals) else s
    s.complete e (packStatus status) (seq % 2 ^ 16 + members % 2 ^ 32 * 2 ^ 32)
  | .mailbox => s.mailResult t seq status members (valBytes vals)
  | .commit first =>
    match s.pass with
    | some q =>
      if q.first ≠ first then s
      else if status = kOK then { s with pass := some { q with barrier := true } }
      else match q.commit with
        | some e => { s with pass := some { q with commit := none, arrived := false } }.complete e (packStatus status) 0
        | none => s
    | none => s
  | .snapBegin k =>
    if status = kOK then match s.snap k with
      | some x => s.setSnap k (some { x with barrier := true })
      | none => s
    else let s := s.abandon k 3; s.endSnap k (packStatus status)
  | .promote k =>
    if status = kOK ∧ vals.head?.getD 0 = 1 then
      let s := s.wr (F.packSnapStatState k) snVALID
      (s.wr (F.packSnapStatState (1 - k)) snSUPERSEDED).endSnap k sOK
    else if status = kTIMEOUT ∨ status = kREFUSED then s.endSnap k (packStatus status)
    else let s := s.abandon k 5; s.endSnap k (s.snapStatus k)
  | .reset => s

/-- The bark of the combining buffer of a tree's home port die (R366, R373): none while it holds no input. The buffer's size is not stated, so its
level is free while it holds some (log entry 52). -/
def State.barkPack (s : State) (t : Nat) : State :=
  let p := s.rd (F.packTreeCtrlHome t)
  let holds := (List.range 16).any fun k => decide (s.rd (F.packTreeCtrlHome k) = p) && ((s.tree k).op.isSome || !(s.tree k).ups.isEmpty)
  let (v, s) : Nat × State := if holds then s.free else (0, s)
  s.wr (barkPackFld p) (v % 4)

/-- Up packets of the current operation, by child slot; a packet's slot is its sender's. -/
def State.upOf (s : State) (t k : Nat) : Option Packet :=
  let x := s.tree t
  x.ups.find? fun p => decide (some p.src = s.kid t k) && decide ((p.pack.map (·.opSeq)) = some x.opSeq)

/-- kids_in: the children whose up packets of the current op_seq are in (R456). -/
def State.kidsIn (s : State) (t : Nat) : State :=
  s.wr (F.packTreeStatKidsIn t) ((s.kids t).foldl (fun m k => if (s.upOf t k).isSome then m + 2 ^ k else m) 0)

/-- The operation active on a tree completes on this module (R434), and the next start that waits may begin. -/
def State.packDone (s : State) (t status members : Nat) (vals : List W64) : State :=
  let x := s.tree t
  let s := s.wrs [(F.packTreeStatState t, 0), (F.packTreeStatLastStatus t, status), (F.packTreeStatLocalIn t, 0)]
  let s := if status = kMISMATCH then s.bump Ev.packMismatch .module 1 else s
  let s := s.modTree t fun y => { y with opSeq := (y.opSeq + 1) % 65536, op := none, lastUp := none,
                                         ups := y.ups.filter fun p => decide ((p.pack.map (·.opSeq)) ≠ some y.opSeq) }
  let s := (s.kidsIn t).barkPack t
  match x.op with
  | some o => s.packAnswer t o x.opSeq status members vals
  | none => s

/-- A tree is disabled: its active operation ends with TIMEOUT (R440, R453), and the starts that wait behind it with it (DEDUCED, log entry 37). -/
def State.disableTree (s : State) (t : Nat) : State :=
  let s := s.wr (F.packTreeCtrlEnable t) 0
  let os := (s.tree t).starts
  let s := s.modTree t fun y => { y with starts := [] }
  let s := if (s.tree t).op.isSome then s.packDone t kTIMEOUT 0 [] else s
  os.foldl (fun s o => s.packAnswer t o (s.tree t).opSeq kTIMEOUT 0 []) s

/-- Combine when the own start and every child's packet are in (R434): the root completes and sends the result down, any other module
sends it up. -/
def State.combine (s : State) (t : Nat) : State :=
  let x := s.tree t
  let ins := (s.kids t).map fun k => s.upOf t k
  match x.op with
  | none => s
  | some o =>
    if !(ins.all (·.isSome)) ∨ x.lastUp = some x.opSeq then s
    else
      let ps := ins.filterMap id
      let hs := ps.filterMap (·.pack)
      let same := hs.all fun h => decide (h.kind = o.kind) && decide (h.rop = o.rop) && decide (h.dtype = o.dtype)
        && decide (h.countM1 = o.countM1) && decide (h.status = kOK) && (decide (o.kind ≠ kSNAP) || decide (h.aux = o.aux))
      let red := decide (o.kind = kREDUCTION)
      let vals := if !red then [] else if same then reduceAll o.rop o.dtype o.values (ps.map fun p => leWords (o.countM1 + 1) p.data)
        else List.replicate (o.countM1 + 1) 0
      let members := 1 + (hs.map (·.members)).sum
      let status := if same then kOK else kMISMATCH
      if s.isRoot t then
        let s := s.sendDown t (hdrOf t o x.opSeq false status members) (valBytes vals)
        s.packDone t status members vals
      else
        let s := s.modTree t fun y => { y with lastUp := some y.opSeq }
        s.launchPkt (packPkt { hdrOf t o x.opSeq true status members with child := s.parentSlot t } (s.rd (F.packTreeCtrlParent t)) (valBytes vals))

/-- The active operation's start: state and inputs (R456); a broadcast leaves the root at once. -/
def State.beginOp (s : State) (t : Nat) (o : PackOp) : State :=
  let seq := (s.tree t).opSeq
  let s := s.modTree t fun y => { y with op := some o }
  let s := (s.wrs [(F.packTreeStatState t, 1), (F.packTreeStatKind t, o.kind), (F.packTreeStatOpSeq t, seq), (F.packTreeStatLocalIn t, 1)]).bump
    Ev.packOps .module 1
  let s := s.kidsIn t
  if o.kind = kBROADCAST ∨ o.kind = kRESET then
    let s := s.sendDown t (hdrOf t o seq false kOK 1) (valBytes o.values)
    s.packDone t kOK 1 o.values
  else (s.combine t).barkPack t

/-- Starts that wait begin while the tree is idle (R432). -/
def State.packNext (s : State) (t : Nat) : State :=
  (List.range (s.tree t).starts.length).foldl (fun s _ =>
    match (s.tree t).op, (s.tree t).starts with
    | none, o :: r => (s.modTree t fun y => { y with starts := r }).beginOp t o
    | _, _ => s) s

/-- Start an operation on this module (R432, R433). -/
def State.packStart (s : State) (t : Nat) (o : PackOp) : State :=
  if s.packRefused t o then s.packAnswer t o (s.tree t).opSeq kREFUSED 0 []
  else (s.modTree t fun y => { y with starts := y.starts ++ [o] }).packNext t

/-- The port die reads bytes of a mailbox as the module's tiles see them. -/
def State.readMail (s : State) (a n : Nat) : State × List Byte :=
  let r := s.readAt true 0 a n []
  (r.1, (r.2.getD []).map (·.b))

/-- A start word written to a mailbox (R437): the contribution is read as the module's tiles see it, and the first such start of a
pass makes it non-replayable (R312). -/
def State.mailStart (s : State) (t : Nat) : State :=
  let base := 1024 * s.rd (F.packTreeMboxBase t)
  let (s, bs) := s.readMail (base + 0x208) 8
  let w := leNat bs
  let kind := bf w 0 4
  let n := if kind = kBROADCAST then 32 else bf w 9 3 + 1
  let (s, bs) := s.readMail base (8 * n)
  let vals := leWords n bs
  let s := s.markNonrep nrPACK R.keepPassStat
  s.packStart t { kind := kind, rop := bf w 4 3, dtype := bf w 7 2, countM1 := bf w 9 3, aux := 0,
                  values := if kind = kREDUCTION ∨ kind = kBROADCAST then vals else [], by_ := .mailbox }

/-- A write to module memory reached a start word: its tree, if it is a mailbox in use. -/
def State.mailboxHit (s : State) (a n : Nat) : List Nat :=
  (List.range 16).filter fun t => s.on (F.packTreeCtrlEnable t) && s.on (F.packTreeMboxMboxEn t) &&
    (let w := 1024 * s.rd (F.packTreeMboxBase t) + 0x208; decide (a < w + 8) && decide (w < a + n))

/-- Serial order of op_seq numbers modulo 65,536. -/
def seqBefore (a b : Nat) : Bool := let d := (b + 65536 - a % 65536) % 65536; decide (1 ≤ d) && decide (d < 32768)

/-- An up packet arrives (R431, R434). -/
def State.packUp (s : State) (p : Packet) (h : PackHdr) : State :=
  let t := h.tree
  let x := s.tree t
  let slot := (s.kids t).find? fun k => decide (s.kid t k = some p.src)
  match slot with
  | none => s
  | some k =>
    if !s.on (F.packTreeCtrlEnable t) then s
    else if h.kind = kTIME then
      s.launchPkt (packPkt { h with up := false, aux := s.now } p.src [])
    else if seqBefore h.opSeq x.opSeq || x.ups.any (fun q => decide (q.src = p.src) && decide ((q.pack.map (·.opSeq)) = some h.opSeq)) then
      s.bump Ev.packDup .module 1
    else
      let s := s.modTree t fun y => { y with ups := y.ups ++ [p] }
      let s := if h.opSeq = x.opSeq then s.wr (F.packTreeStatKidsIn t) (s.rd (F.packTreeStatKidsIn t) ||| 2 ^ k) else s
      ((s.combine t).packNext t).barkPack t

/-- The down packet of the operation that is current here (R434): it goes on to the children before the operation completes here. A broadcast has
no start here. -/
def State.takeDown (s : State) (p : Packet) (h : PackHdr) : State :=
  let t := h.tree
  let x := s.tree t
  let s := s.sendDown t h p.data
  if h.kind = kBROADCAST then
    let s := s.modTree t fun y => { y with op := none }
    let s := (s.wrs [(F.packTreeStatKind t, h.kind), (F.packTreeStatOpSeq t, h.opSeq)]).bump Ev.packOps .module 1
    let s := match x.op with | some o => s.packAnswer t o x.opSeq kMISMATCH 0 [] | none => s
    let s := s.packDone t kOK h.members []
    let s := s.mailResult t h.opSeq kOK h.members p.data
    (s.notice 6 sOK (t + h.opSeq * 2 ^ 16)).packNext t
  else (s.packDone t h.status h.members (leWords (p.data.length / 8) p.data)).packNext t

/-- Down packets that came before their turn are taken in op_seq order (R431, R432). -/
def State.heldDowns (s : State) (t : Nat) : State :=
  (List.range (s.tree t).downs.length).foldl (fun s _ =>
    let x := s.tree t
    match x.downs.find? fun p => decide ((p.pack.map (·.opSeq)) = some x.opSeq) with
    | some p => match p.pack with
      | some h => (s.modTree t fun y => { y with downs := y.downs.filter fun q => decide (q ≠ p) }).takeDown p h
      | none => s
    | none => s) s

/-- A down packet arrives (R431, R434). A repeated one is discarded; one that a resend has let come before an earlier operation's waits for it. -/
def State.packDown (s : State) (p : Packet) (h : PackHdr) : State :=
  let t := h.tree
  let x := s.tree t
  if !s.on (F.packTreeCtrlEnable t) || s.isRoot t || decide (s.rd (F.packTreeCtrlParent t) ≠ p.src) then s
  else if seqBefore h.opSeq x.opSeq || x.downs.any (fun q => decide ((q.pack.map (·.opSeq)) = some h.opSeq)) then s.bump Ev.packDup .module 1
  else if h.opSeq ≠ x.opSeq then s.modTree t fun y => { y with downs := y.downs ++ [p] }
  else (s.takeDown p h).heldDowns t

/-! ## Snapshot steps (R446) -/

/-- Fields of a plan (R445). -/
def planRegions (p : List W64) : Nat := bf (p.getD 0 0).toNat 0 8
def planTargets (p : List W64) : Nat := bf (p.getD 0 0).toNat 8 6
def planWord (p : List W64) (i : Nat) : Nat := (p.getD i 0).toNat
def planWords (w0 : Nat) : Nat := 3 + 2 * bf w0 8 6 + 2 * bf w0 0 8
/-- Chunks of 2 MiB of each region in order: module addresses. -/
def planChunks (p : List W64) : List Nat :=
  (List.range (planRegions p)).flatMap fun i =>
    let b := 3 + 2 * planTargets p + 2 * i
    (List.range (planWord p (b + 1) / 0x200000)).map fun k => planWord p b + 0x200000 * k

/-- The remote window word of R190: module, kind, generation, window, tile. -/
def winPkt (w offset : Nat) (data : List PB) (collar epoch : Nat) : Packet :=
  { Packet.blank with
      typ := pDEPOSIT, collar := collar, dst := bf w 0 14, wkind := bf w 14 1, gen := bf w 16 8, winIdx := if bf w 14 1 = 1 then bf w 24 2 else bf w 24 10, tile := bf w 34 15,
      offset := offset, lenM1 := data.length - 1, epoch := epoch, data := data.map (·.b),
      poison := (List.range (data.length / 8)).filter fun i => ((data.drop (8 * i)).take 8).any (·.p) }

/-- Start the snapshot-begin barrier of an armed slot, at a pass boundary. -/
def State.snapBarrier (s : State) : State :=
  [0, 1].foldl (fun s k =>
    match s.snap k with
    | some x =>
      if s.rd (F.packSnapStatState k) = snARMED ∧ !x.record ∧ !x.promoting then
        (s.setSnap k (some { x with promoting := true })).packStart x.tree
          { kind := kSNAP, rop := 0, dtype := 0, countM1 := 0, aux := (s.reg (R.packSnapId k)).toNat, values := [], by_ := .snapBegin k }
      else s
    | none => s) s

/-- A snapshot holds back launches (R446). -/
def State.snapHolds (s : State) : Bool := [0, 1].any fun k => match s.snap k with | some x => x.promoting | none => false

/-- The closing AND reduction (step 6): 1 if the slot is Committed. -/
def State.snapPromote (s : State) (k : Nat) : State :=
  match s.snap k with
  | none => s
  | some x => s.packStart x.tree
      { kind := kREDUCTION, rop := 4, dtype := 1, countM1 := 0, aux := 0,
        values := [if s.rd (F.packSnapStatState k) = snCOMMITTED then 1 else 0], by_ := .promote k }

/-- The commit record (R448). -/
def State.snapRecord (s : State) (k : Nat) (x : SnapSt) : List Byte :=
  let chunks := (planChunks x.plan).length
  leBytes 8 (s.reg (R.packSnapId k)).toNat ++ leBytes 2 s.moduleId ++ leBytes 2 (s.rd F.attsIdStatPart)
    ++ leBytes 4 (s.rd (F.packSnapStatEpoch k)) ++ leBytes 4 (planRegions x.plan) ++ leBytes 4 chunks ++ leBytes 8 (chunks * 0x200000)
    ++ leBytes 8 x.time ++ leBytes 8 0 ++ x.digest.digest ++ leBytes 16 0

/-- The drain of a snapshot holds the port fetch engines (R446 step 4). -/
def State.snapDrains (s : State) : Bool :=
  [0, 1].any fun k => decide (s.rd (F.packSnapStatState k) = snOPEN) && (s.snap k).any fun x => !x.record

/-- Send the next chunk of an Open slot, or its record when every chunk is complete (R446 steps 4 and 5, R447): a chunk at a time, in
packets of 2 KiB on collar 1 with epoch 0. -/
def State.snapSend (s : State) (k : Nat) : State :=
  match s.snap k with
  | none => s
  | some x =>
    if x.stopping then s.setSnap k none else
    let cs := planChunks x.plan
    match cs[x.next]? with
    | some a =>
      let (s, data) := s.readCommitted 1 a 0x200000
      if anyPois data then ((s.wr (F.packSnapStatCause k) 2).snapPromote k)
      else
        let t := x.next % planTargets x.plan
        let off := planWord x.plan (4 + 2 * t) + x.next / planTargets x.plan * 0x200000
        let s := s.setSnap k (some { x with next := x.next + 1, out := x.out ++ [(x.next, 1024)], digest := x.digest.absorb (data.map (·.b)) })
        (List.range 1024).foldl (fun s i =>
          s.request { winPkt (planWord x.plan (3 + 2 * t)) (off + 2048 * i) ((data.drop (2048 * i)).take 2048) 1 0 with reqKind := 2, reqTag := k } none) s
    | none =>
      if x.record ∨ !x.out.isEmpty then s
      else
        let s := s.setSnap k (some { x with record := true })
        s.request { winPkt (planWord x.plan 1) (planWord x.plan 2) (plain (s.snapRecord k x)) 1 0 with reqKind := 2, reqTag := 2 + k } none

/-- A RESP to the snapshot engine: for a chunk's packet, or for the record. -/
def State.snapResp (s : State) (tag status : Nat) : State :=
  let k := tag % 2
  match s.snap k with
  | none => s
  | some x =>
    if 2 ≤ tag then
      if status = 0 then (s.wr (F.packSnapStatState k) snCOMMITTED).snapPromote k
      else ((s.setSnap k (some { x with status := status })).wr (F.packSnapStatCause k) 1).snapPromote k
    else if status ≠ 0 then
      if x.stopping then (s.wr (F.packSnapStatCause k) 1).endSnap k sABORTED
      else if s.rd (F.packSnapStatCause k) ≠ 0 then s
      else ((s.setSnap k (some { x with status := status })).wr (F.packSnapStatCause k) 1).snapPromote k
    else match x.out with
      | (c, n) :: r =>
        if 1 < n then s.setSnap k (some { x with out := (c, n - 1) :: r })
        else
          let s := (s.setSnap k (some { x with out := r })).incr (F.packSnapStatChunks k) 1
          (s.bump Ev.snapChunk .module 1).snapSend k
      | [] => s

end Sys2Proof.Machine
end

