-- ==== Sys2Proof/Machine/Slice.lean ====
section
/-! DEFINITION. What a slice does with requests (R258 to R271, R294 to R300, R339, R698): its input and arbiter (R353, R354, R357, R358), reads,
writes, Folds and Scent probes, hold lines (R299). -/

namespace Sys2Proof.Machine

/-! ## Answers -/

/-- The requester is a tile of the slice's own floor, which receives sectors while they are still being decoded (R269). -/
def State.nearRequester (n : Nat) (r : Req) : Bool :=
  match r.src with
  | .tile t _ => decide (2 * (t / 160 / 40) + t % 160 / 80 = n / 64)
  | _ => false

/-- An accepted packet has one request fewer to wait for; with the last one its RESP leaves (R399), and a Signal's doorbell rings
(R412). -/
def State.landed (s : State) (id : Nat) (unprot : Bool) (status : Nat) : State :=
  match s.fab.landings.find? (fun l => decide (l.id = id)) with
  | none => s
  | some l =>
    let l := { l with out := l.out - 1, unprot := l.unprot || unprot, status := if l.status = 0 then status else l.status }
    if 0 < l.out then s.modFab fun f => { f with landings := f.landings.map fun k => if k.id = id then l else k }
    else
      let s := s.modFab fun f => { f with landings := f.landings.filter fun k => decide (k.id ≠ id) }
      let s := if l.pkt.typ = pSIGNAL ∧ l.pkt.doorbell ∧ l.pkt.wkind = 0 ∧ l.status = 0 then
          (s.record F.winDbLastValid F.winDbLastMulti [(F.winDbLastWindow, l.pkt.winIdx), (F.winDbLastSrcModule, l.pkt.src)]).msix
            (s.rd (F.winCtrlDbVec l.pkt.winIdx))
        else s
      s.sendPkt (respTo l.pkt s.moduleId l.status l.unprot)

/-- A request is answered: a tile's reply is on its way, a landing packet counts it. -/
def State.answerLate (s : State) (r : Req) : State :=
  match r.src with
  | .tile _ _ => s.setReq { r with stage := .reply }
  | _ => (s.dropReq r.id).landed r.chain r.unprot r.status

/-- A request that did not wait for a fill is answered: its latency is measured here (R364). -/
def State.answer (s : State) (n : Nat) (r : Req) : State := (s.latency false n r.collar (s.now - r.time)).answerLate r

/-- Bytes that a request's segments select from a sector. -/
def pick (r : Req) (v : List W64 × List Nat) : List PB :=
  r.segs.flatMap fun g => (List.range g.len).map fun i =>
    let b := (g.off + i) % 256
    ⟨BitVec.ofNat 8 ((v.1.getD (b / 8) 0).toNat / 2 ^ (8 * (b % 8))), v.2.contains (b / 8)⟩

/-- A read is served with a sector's contents; a correction delays a deck requester (R269), and a read that missed has its latency measured at
the channel (R364). -/
def State.serveRead (s : State) (n : Nat) (r : Req) (v : List W64 × List Nat) (ce hit : Bool) : State :=
  let r := { r with data := pick r v, status := 0, zero := secZero v.1 v.2 }
  if ce && State.nearRequester n r then
    (s.bump Ev.floorCeDelay (.slice n) 8).setReq { r with stage := .waitCorr }
  else if hit then s.answer n r
  else s.answerLate r

/-! ## Reads (R258, R297) -/

/-- A request reads committed contents only. -/
def Req.committedOnly (r : Req) : Bool :=
  match r.src with
  | .tile _ _ | .peer _ => false
  | _ => true

/-- Last use (R212, R264): the mark waits for the commit where the line holds uncommitted state. -/
def State.lastUse (s : State) (n : Nat) (p : Loc) (r : Req) : State :=
  if !r.lastUse ∨ p.expl then s
  else match s.baseSec n p with
    | none => s
    | some (w, c) => if s.uncommitted n ((s.slice n).line p.set w) then s.setBase n p w { c with pendDrop := true } else s.dropMark n p

/-- States of the entries whose side-lines a request sees (R297). -/
def Req.sees (r : Req) : List Nat := if r.committedOnly then [etCOMMITTED] else [etOPEN, etCOMMITTED, etDROPPING]

/-- A request may not see what an entry holds in place: it reads the committed copy (R297). -/
def State.hides (s : State) (n : Nat) (r : Req) (c : Sector) : Bool :=
  r.committedOnly && decide (c.etag ≠ 0) && decide (s.rd (etState n c.etag) ≠ etCOMMITTED)

/-- No fill can start for a request, and none of its sector is there to join (R259). -/
def State.noFill (s : State) (n : Nat) (p : Loc) : Bool := s.fillsFull n && !s.filling n p

/-- A read that misses: it joins a fill of its sector, or the line is allocated or present and the sector filled; without a victim, or in a
removed slice, HBM serves it (R258, R259, R261, R272). A line that is present has been used (R256, R260). The read waits while its victim is written back (R328). -/
def State.readMiss (s : State) (n : Nat) (p : Loc) (r : Req) (dec : SliceDec) : State :=
  let go (s : State) (alloc : Bool) : State :=
    ((s.bump Ev.sliceMiss (.slice n) 1).startFill n p alloc false false (some r)).stream n p.line true dec.wb
  let found := (s.slice n).find p.line
  let s := match found with | some w => s.touch n p.set w | none => s
  if s.filling n p then go s true
  else if s.on (F.sliceStatRemoved n) then go s false
  else if found.isSome then go s true
  else match s.allocate n p.set p.line (s.kennelOf r.addr) false r.collar dec.wb with
    | (s, .way _) => go s true
    | (s, .none_) => go (s.bump Ev.sliceBypass (.slice n) 1) false
    | (s, .later) => s

/-- A request is still at the input: the slice has not served it. -/
def State.stillThere (s : State) (i : Nat) : Bool := s.reqs.any fun q => decide (q.id = i) && decide (q.stage = .toTarget)

/-- Serve a read. One of a dead line counts once it is served (R265). -/
def State.doRead (s : State) (n : Nat) (p : Loc) (r : Req) (dec : SliceDec) : State :=
  let s := s.mergeFlush n p.set p.line p.sector
  let s := (if r.epoch ≠ 0 then s.drainAt n p dec else s).metaCheck n p dec
  let base := s.baseSec n p
  let fills := match base with | some (_, c) => !c.valid || s.hides n r c || !dec.ue.isEmpty | none => true
  let dead := s.isDead n p.line
  let count (s : State) : State := if dead && !s.stillThere r.id then s.bump Ev.deadRead (.slice n) 1 else s
  if fills && s.noFill n p then s
  else count (
    if s.deadTrap n p.line then s.answer n { r with status := stBUS, data := [] }
    else match base with
      | none => s.readMiss n p r dec
      | some (w, c) =>
        if !c.valid then s.readMiss n p r dec
        else if s.hides n r c then
          if p.expl then s.serveRead n r (s.addSides n p r.sees (s.undoCopy n p)) false true
          else s.startFill n p false false false (some r)
        else match s.readHit n p w c dec with
          | (s, none) => s.startFill n p true false false (some r)
          | (s, some c) => (s.serveRead n r (s.addSides n p r.sees (c.words, c.poison)) (!dec.ce.isEmpty && !c.fresh) true).lastUse n p r)

/-! ## Writes and Folds (R294 to R300, R698) -/

/-- Causes of R314. -/
def epQUOTA : Nat := 0
def epTABLE : Nat := 1
def epCOLLISION : Nat := 2

/-- An unprotected request (R300): recorded and counted; a request of the module marks its own pass, another's reply carries the
mark. Answers the request with its mark. -/
def State.unprotected (s : State) (n kind : Nat) (r : Req) : State × Req :=
  let f := n / 64
  if r.unprot then (s, r) else
  let s := (s.record (F.floorEpochStatValid f) (F.floorEpochStatMulti f)
    [(F.floorEpochStatKind f, kind), (F.floorEpochStatSlice f, n % 64), (F.floorEpochStatSrcModule f, r.mod),
     (F.floorEpochStatSrcEpoch f, r.epoch)]).bump Ev.epochOverflow (.slice n) 1
  let s := match s.entryOf n r.mod r.epoch [etOPEN] with | some e => s.wr (etUnprot n e) 1 | none => s
  if r.mod = s.moduleId then (s.markNonrep (kind + 1) (R.floorEpochStat f), { r with unprot := true }) else (s, { r with unprot := true })

/-- A collision (R298): both requests are unprotected; the other entry's module marks its pass, on a notice if it is remote. A request collides
once, however often it is taken up until its sector has been filled. -/
def State.collide (s : State) (n e : Nat) (r : Req) : State × Req :=
  if r.coll then (s, r) else
  let r := { r with coll := true }
  let s := (s.bump Ev.epochCollision (.slice n) 1).wr (etUnprot n e) 1
  let m := s.rd (etModule n e)
  let s := if m = s.moduleId then s.markNonrep nrCOLLISION (R.floorEpochStat (n / 64)) else s.sendNotice m nUnprot (s.rd (etEpoch n e))
  s.unprotected n epCOLLISION r

/-- Whether a request writes its whole sector. -/
def Req.whole (r : Req) : Bool :=
  decide (256 ≤ (r.segs.map (·.len)).sum) && (List.range 256).all fun i => r.segs.any fun g => decide (g.off ≤ i) && decide (i < g.off + g.len)

/-- Bytes of a request by segment. -/
def Req.parts (r : Req) : List (Nat × List PB) :=
  (r.segs.foldl (fun (acc : List (Nat × List PB) × List PB) g => (acc.1 ++ [(g.off, acc.2.take g.len)], acc.2.drop g.len)) ([], r.data)).1

/-- Finish a write or Fold of a place: side bit, line counts, mailbox starts (R437), the answer. A removed slice keeps no committed
line in its cache ways: what the write left there goes to HBM (R272). -/
def State.wrote (s : State) (n : Nat) (p : Loc) (r : Req) : State :=
  let s := ((s.undead n p.line).sideBit n p).countLines n
  let s := if r.kind = .memFold then s.bump Ev.foldOps (.slice n) 1 else s
  let s := (s.answer n { r with status := 0 }).when (s.on (F.sliceStatRemoved n)) fun s => s.flushSlice n
  if r.kind = .memWrite then
    (s.mailboxHit r.addr 256).foldl (fun s t =>
      if r.segs.any fun g => let k := (1024 * s.rd (F.packTreeMboxBase t) + 0x208) % 256; decide (g.off < k + 8) && decide (k < g.off + g.len) then s.mailStart t
      else s) s
  else s

/-- Where a request's base sector stands after looking for room. -/
inductive Room where
  | ready (w : Nat) (c : Sector)
  | wait
  | none_
deriving DecidableEq, Repr

/-- A sector written whole where none was valid. -/
def State.newSector (s : State) (n : Nat) (p : Loc) (side : Bool) : Sector :=
  { Sector.none_ with valid := true, zero := true, side := side, twin := b2n (s.twinOf n p.line).isSome }

/-- Make the base sector of a place ready to be changed: its line allocated, and, unless the request covers it whole, the sector
filled (R258). A request for a sector that is being filled joins the fill (R259). -/
def State.makeRoom (s : State) (n : Nat) (p : Loc) (r : Req) (whole : Bool) (dec : SliceDec) : State × Room :=
  let fill (s : State) : State × Room := if s.noFill n p then (s, .wait) else (s.startFill n p true false true (some r), .wait)
  match s.baseSec n p with
  | some (w, c) =>
    if c.valid then (s, .ready w c)
    else if whole && !s.filling n p then (s, .ready w (s.newSector n p c.side))
    else fill s
  | none =>
    if s.filling n p then fill s
    else match s.allocate n p.set p.line (s.kennelOf r.addr) false r.collar dec.wb with
      | (s, .way w) => if whole then (s, .ready w (s.newSector n p false)) else fill s
      | (s, .later) => (s, .wait)
      | (s, .none_) => (s, .none_)

/-- A request's bytes over a sector. -/
def Req.over (r : Req) (v : List W64 × List Nat) : List W64 × List Nat := r.parts.foldl (fun v part => secPatch v part.1 part.2) v

/-- A request that finds no victim changes HBM (R261): the sector is read there first unless it is written whole. -/
def State.passBy (s : State) (n : Nat) (p : Loc) (r : Req) (whole : Bool) (dec : SliceDec) (f : List W64 × List Nat → List W64 × List Nat) : State :=
  let (s, v) : State × List W64 × List Nat :=
    if whole then (s, [], [])
    else let (s, v) := (s.atOnce true n r.collar 256).fetchSector n p.line p.sector hsNARROW dec.a dec.b; (s, v.1, v.2.1)
  let v := f v
  ((s.bump Ev.sliceBypass (.slice n) 1).writeBack n p.line p.sector v.1 v.2 whole r.collar).wrote n p r

/-- A request's bytes into a base sector, which is then held by entry `etag` (0: committed): a write ends a last-use mark (R264). -/
def State.writeIn (s : State) (n : Nat) (p : Loc) (w : Nat) (c : Sector) (etag : Nat) (r : Req) : State :=
  let s := (s.setBase n p w (Sector.opened { c with etag := etag, dirty := !p.expl, drop := false, pendDrop := false } r.whole)).putBytes n p w r.parts
  (if p.expl then s else s.touch n p.set w).wrote n p r

/-- Apply a write to committed state (R290, R300, R698). Where an entry holds the sector in place, a write that carries epoch 0 changes both
copies; an unprotected one leaves the sector with etag 0. Without room it changes HBM (R261). What needs the channel waits while it is
busy (R335, R337). -/
def State.writeCommitted (s : State) (n : Nat) (p : Loc) (r : Req) (unprot : Bool) (dec : SliceDec) : State :=
  match s.makeRoom n p r r.whole dec with
  | (s, .wait) => s
  | (s, .none_) => if s.chanBusy n then s else s.passBy n p r r.whole dec r.over
  | (s, .ready w c) =>
    if c.etag = 0 then s.writeIn n p w c 0 r
    else if unprot then (if p.expl then s.dropUndo n p.set p.way p.sector else s).writeIn n p w c 0 r
    else if !p.expl ∧ s.chanBusy n then s
    else (s.modCommitted n p dec r.whole r.collar r.over).writeIn n p w c c.etag r

/-- A way for a line that holds state of an entry, within the epoch quota of its set (R296, R300). -/
def State.stateWay (s : State) (n set col : Nat) (dec : SliceDec) : State × Got :=
  if s.epochQuota n ≤ s.stateLines n set then (s, .none_) else s.takeWay n set 64 false col dec.wb

/-- An undo line for an explicit sector (R294): the present one of its way, or a new way under the quota. -/
def State.undoRoom (s : State) (n : Nat) (p : Loc) (col : Nat) (dec : SliceDec) : State × Got :=
  match (s.slice n).undo p.set p.way with
  | some u => (s, .way u)
  | none => match s.stateWay n p.set col dec with
    | (s, .way w) => (s.modSlice n fun x => x.setLine p.set w ⟨.undo, 2 ^ 21 + p.way, 64, 0, 0, 0, false, []⟩, .way w)
    | (s, g) => (s, g)

/-- Pre-clean a dirty committed sector (R294): it is written back first, and counted. A Twin sector's write-back waits for its acknowledgements
(R328), and any for a busy channel (R335, R337): then the answer is false. -/
def State.preClean (s : State) (n : Nat) (p : Loc) (c : Sector) (col : Nat) : State × Bool :=
  match s.twinOf n p.line with
  | some b =>
    if s.chanRetired n ∧ s.chanRetired b.1 then (s.bump Ev.epochPreclean (.slice n) 1, true)
    else if (s.slice n).wbs.any (fun w => decide (w.line = p.line) && decide (w.sector = p.sector)) then (s, false)
    else ((s.startWbs n p.line b [(p.sector, c)] col).bump Ev.epochPreclean (.slice n) 1, false)
  | none => if s.chanBusy n then (s, false) else ((s.putBack n p.line p.sector c.words c.poison col).bump Ev.epochPreclean (.slice n) 1, true)

/-- A write under an Open entry (R294). -/
def State.writeEpoch (s : State) (n : Nat) (p : Loc) (e : Nat) (r : Req) (dec : SliceDec) : State :=
  let unprot (s : State) : State := let (s, r) := s.unprotected n epQUOTA r; (s.setReq r).writeCommitted n p r true dec
  let room (s : State) : State :=
    match s.makeRoom n p r r.whole dec with
    | (s, .wait) => s
    | (s, .none_) => unprot s
    | (s, .ready w c) =>
      if !c.dirty then s.writeIn n p w c e r
      else
        let s := s.mergeFlush n p.set p.line p.sector
        let c := ((s.baseSec n p).map (·.2)).getD c
        match s.preClean n p c r.collar with
        | (s, true) => s.writeIn n p w c e r
        | (s, false) => s
  match s.baseSec n p with
  | some (w, c) =>
    if c.etag = e then s.writeIn n p w c e r
    else if c.etag ≠ 0 then let (s, r) := s.collide n c.etag r; s.writeIn n p w c e r
    else if p.expl then
      match s.undoRoom n p r.collar dec with
      | (s, .way u) =>
        let s := s.mergeFlush n p.set p.line p.sector
        let c := ((s.baseSec n p).map (·.2)).getD c
        let s := s.modSlice n fun x => x.setLine p.set u ((x.line p.set u).setSec false p.sector
          { Sector.none_ with valid := true, fresh := c.fresh, etag := e, words := c.words, poison := c.poison, lost := c.lost })
        s.writeIn n p w c e r
      | (s, .none_) => unprot s
      | (s, .later) => s
    else if !s.quotaLine n ((s.slice n).line p.set w) ∧ s.epochQuota n ≤ s.stateLines n p.set then unprot s
    else room s
  | none => if s.epochQuota n ≤ s.stateLines n p.set then unprot s else room s

/-- Serve a write (R294, R306): an older entry of its module commits first, and what is committed is drained at its sector. One whose mark finds no entry is unprotected, and where another entry holds the sector a collision too (R298). -/
def State.doWrite (s : State) (n : Nat) (p : Loc) (r : Req) (dec : SliceDec) : State :=
  if r.epoch = 0 then s.writeCommitted n p r false dec
  else match s.takeEntry n r.mod r.epoch with
    | (s, some e) => (s.drainAt n p dec).writeEpoch n p e r dec
    | (s, none) =>
      let s := s.drainAt n p dec
      let (s, r) := s.unprotected n epTABLE r
      let (s, r) := match s.baseSec n p with
        | some (_, c) => if c.etag ≠ 0 then s.collide n c.etag r else (s, r)
        | none => (s, r)
      (s.setReq r).writeCommitted n p r true dec

/-- A Fold's source as a sector of addends: elements it covers, zeros elsewhere, and its poison (R289, R295). -/
def foldSector (r : Req) : Sector :=
  let v := r.parts.foldl (fun v part => secPatch v part.1 part.2) ((List.replicate 32 0 : List W64), ([] : List Nat))
  { Sector.none_ with words := v.1, poison := v.2 }

/-- Words of a sector that a Fold covers, added; the others keep their contents. -/
def foldInto (etype : Nat) (r : Req) (v : List W64 × List Nat) : List W64 × List Nat :=
  let f := foldSector r
  let covered (i : Nat) : Bool := r.segs.any fun g => decide (g.off ≤ 8 * i) && decide (8 * i < g.off + g.len)
  ((List.range 32).map fun i => if covered i then foldWord etype (v.1.getD i 0) (f.word i) else v.1.getD i 0, poisUnion v.2 f.poison)

/-- A Fold into the base sector (R298, R300, R698): both copies where an entry holds the sector in place, or retagged to an entry in a
collision. -/
def State.foldBase (s : State) (n : Nat) (p : Loc) (r : Req) (retag : Option Nat) (dec : SliceDec) : State :=
  match s.makeRoom n p r false dec with
  | (s, .wait) => s
  | (s, .none_) => if s.chanBusy n then s else s.passBy n p r false dec (foldInto r.etype r)
  | (s, .ready w c) =>
    if c.etag ≠ 0 ∧ retag.isNone ∧ !p.expl ∧ s.chanBusy n then s else
    let s := if c.etag ≠ 0 ∧ retag.isNone then s.modCommitted n p dec false r.collar (foldInto r.etype r) else s
    let v := foldInto r.etype r (c.words, c.poison)
    let s := s.setBase n p w { c with words := v.1, poison := v.2, zero := secZero v.1 v.2, fresh := false, dirty := !p.expl, drop := false,
                                      pendDrop := false, etag := retag.getD c.etag }
    (if p.expl then s else s.touch n p.set w).wrote n p r

/-- A Fold into the sector of a side-line (R295). -/
def State.foldSide (s : State) (n : Nat) (p : Loc) (w e : Nat) (r : Req) : State :=
  let l := (s.slice n).line p.set w
  let c := l.sec false p.sector
  let v := if c.valid then foldInto r.etype r (c.words, c.poison) else ((foldSector r).words, (foldSector r).poison)
  (s.modSlice n fun x => x.setLine p.set w (l.setSec false p.sector
    { Sector.none_ with valid := true, side := true, etag := e, words := v.1, poison := v.2 })).wrote n p r

/-- Serve a Fold (R294, R295, R298). -/
def State.doFold (s : State) (n : Nat) (p : Loc) (r : Req) (dec : SliceDec) : State :=
  let s := s.mergeFlush n p.set p.line p.sector
  if r.epoch = 0 then s.foldBase n p r none dec
  else match s.takeEntry n r.mod r.epoch with
    | (s, none) => let (s, r) := (s.drainAt n p dec).unprotected n epTABLE r; (s.setReq r).foldBase n p r none dec
    | (s, some e) =>
      let s := s.drainAt n p dec
      let held := match s.baseSec n p with | some (_, c) => if c.etag ≠ 0 ∧ c.etag ≠ e then some c.etag else none | none => none
      match held with
      | some o => let (s, r) := s.collide n o r; (s.setReq r).foldBase n p r (some e) dec
      | none =>
        match ((s.slice n).sides p.set p.line).find? (fun ew => decide (ew.1 = e)) with
        | some (_, w) =>
          if ((s.slice n).line p.set w).etype ≠ r.etype then let (s, r) := s.collide n e r; (s.setReq r).foldBase n p r (some e) dec
          else s.foldSide n p w e r
        | none =>
          match s.stateWay n p.set r.collar dec with
          | (s, .way w) => (s.modSlice n fun x => x.setLine p.set w ⟨.side, p.line, 64, 0, e, r.etype, false, []⟩).foldSide n p w e r
          | (s, .none_) => let (s, r) := s.unprotected n epQUOTA r; (s.setReq r).foldBase n p r none dec
          | (s, .later) => s

/-! ## Hold lines (R169, R299) -/

/-- Records in a hold line. -/
def State.heldIn (s : State) (n set way : Nat) : Nat :=
  (s.heldSigs.filter fun h => decide (h.slice = n) && decide (h.set = set) && decide (h.way = way)).length

/-- A hold line of an entry with room for a record (R299): set and way. -/
def State.holdLine (s : State) (n e : Nat) : Option (Nat × Nat) :=
  ((s.slice n).lines.find? fun q => decide (q.2.kind = .hold) && decide (q.2.entry = e) && decide (s.heldIn n (q.1 / 16) (q.1 % 16) < 64)).map
    fun q => (q.1 / 16, q.1 % 16)

/-- Where a Signal's record goes: a set and way; nowhere, with the cause of R314; or it waits while the victim is written back. -/
inductive HoldAt where
  | at_ (set way : Nat)
  | none_ (kind : Nat)
  | later
deriving DecidableEq, Repr

/-- A place for the record of a Signal of the module's pass in slice `n`: a hold line with room, or a new one under the quota of its set. Which
set is free (log entry 96). -/
def State.holdRoom (s : State) (n epoch col : Nat) : State × HoldAt :=
  match s.takeEntry n s.moduleId epoch with
  | (s, none) => (s, .none_ epTABLE)
  | (s, some e) =>
    match s.holdLine n e with
    | some q => (s, .at_ q.1 q.2)
    | none =>
      let set := Config.holdSet n (s.heldSigs.length) % 768
      match s.stateWay n set col .quiet with
      | (s, .way w) => ((s.modSlice n fun x => x.setLine set w ⟨.hold, 0, 64, 0, e, 0, false, []⟩).countLines n, .at_ set w)
      | (s, .later) => (s, .later)
      | (s, .none_) => (s, .none_ epQUOTA)

/-! ## Serving in order -/

/-- Two requests come from one tile, or from one other source. -/
def oneSource (q r : Req) : Bool :=
  match q.src, r.src with
  | .tile a _, .tile b _ => decide (a = b)
  | a, b => decide (a = b)

/-- A request goes to a slice. -/
def Req.toSlice (r : Req) : Bool :=
  decide (r.kind = .memRead) || decide (r.kind = .memWrite) || decide (r.kind = .memFold) || decide (r.kind = .probe)
    || (decide (r.kind = .nearFill) && r.late)

/-- Requests that left before one. -/
def State.before (s : State) (r : Req) : List Req := s.reqs.takeWhile fun q => decide (q.id ≠ r.id)

/-- No earlier request of the same source stands before this one at the slice: on a Strict collar any, on a Bulk collar one for the
same sector (R259, R353, R354). -/
def State.inOrder (s : State) (n : Nat) (r : Req) : Bool :=
  (s.before r).all fun q =>
    !(oneSource q r && decide (q.tgt = n) && (decide (q.stage = .toTarget) || decide (q.stage = .waitFill)) && q.toSlice
      && ((decide (q.collar < 8) && decide (q.collar = r.collar)) || decide (q.addr / 256 = r.addr / 256)))

/-- A request may enter the input of its slice: those of its tile on collars of its class that left before it have entered it (R230). -/
def State.mayEnter (s : State) (n : Nat) (r : Req) : Bool :=
  r.toSlice && decide (r.tgt = n) && decide (r.stage = .toTarget) && !r.here && (s.before r).all fun q =>
    !(oneSource q r && decide (q.tgt = n) && decide (q.stage = .toTarget) && q.toSlice && !q.here && decide (q.collar < 8) == decide (r.collar < 8))

/-- Requests enter the input of slice `n`, where their latency starts (R364). -/
def State.enter (s : State) (n : Nat) (ids : List Nat) : State :=
  ids.foldl (fun s i => match s.req i with
    | some r => if s.mayEnter n r then s.setReq { r with here := true, time := s.now } else s
    | none => s) s

/-- The landing that a request is part of. -/
def State.landingOf (s : State) (r : Req) : Option Landing :=
  match r.src with
  | .peer _ => s.fab.landings.find? fun l => decide (l.id = r.chain)
  | _ => none

/-- Bark level of a request: that of the receive buffer which it drains (R366), and 3 for an accepted packet of a Closing module window,
which drains at level 11 whatever bark_en says (R409). -/
def State.reqBark (s : State) (r : Req) : Nat :=
  match s.landingOf r with
  | none => 0
  | some l =>
    if l.pkt.wkind = 0 ∧ s.rd (F.winCtrlState l.pkt.winIdx) = 2 then 3 else s.linkBark l.link

/-- Effective level of a request at a slice (R357). -/
def State.reqLevel (s : State) (n : Nat) (r : Req) : Nat := effLevel r.collar (s.rd (escField (16 * n + r.collar))) (s.reqBark r)

/-- Bytes of a request: those that it reads or writes (DESIGN CHOICE, log entry 10). -/
def Req.bytes (r : Req) : Nat := if r.kind = .probe then 0 else (r.segs.map (·.len)).sum

/-- Bid of a request at a slice (R358). -/
def State.reqBid (s : State) (n : Nat) (r : Req) : Bid := s.bid (sliceArb n) r.collar (s.reqLevel n r) r.bytes r.src

/-- No other request that waits at the input is to be served before this one (R358). -/
def State.wins (s : State) (n : Nat) (r : Req) : Bool :=
  s.reqs.all fun q => decide (q.id = r.id) || !(q.here && q.toSlice && decide (q.tgt = n) && decide (q.stage = .toTarget) && s.inOrder n q
    && (s.reqBid n q).beats (s.reqBid n r))

/-- Place of a request. -/
def State.reqPlace (s : State) (r : Req) : Option Loc := s.locate (r.addr / 256 * 256)

/-- A request of one of the kinds that waits at the input of slice `n` and is next to be served. -/
def State.atSlice (s : State) (n i : Nat) (kinds : List ReqKind) : Option (Req × Loc) :=
  match s.req i with
  | none => none
  | some r =>
    if kinds.contains r.kind ∧ r.tgt = n ∧ r.stage = .toTarget ∧ r.here ∧ s.inOrder n r ∧ s.wins n r ∧ !s.floorHeld (n / 64) then
      (s.reqPlace r).bind fun p => if p.slice = n then some (r, p) else none
    else none

/-- SLICE_STAT as it reads (R280): the mode in effect, the fills outstanding, the merge entries in use and the most pinned lines of a set. -/
def State.sliceStat (s : State) (n : Nat) : W64 :=
  let x := s.slice n
  let pinned (set : Nat) : Nat := (x.lines.filter fun q => decide (q.1 / 16 = set) && decide (q.2.kind = .cache) && decide (s.persOf q.2.kennel = 3)).length
  let most := x.lines.foldl (fun m q => max m (pinned (q.1 / 16))) 0
  BitVec.ofNat 64 (s.sliceMode n + b2n (s.slicePopulated n) * 2 ^ 2 + b2n (s.on (F.sliceStatRemoved n)) * 2 ^ 3 + x.fills.length % 64 * 2 ^ 4
    + x.merge.length % 32 * 2 ^ 10 + most % 16 * 2 ^ 15)

def execCorrectedSectorSend (n i : Nat) (s : State) : Host.Outcome State Fault Refusal :=
  .next (match s.req i with
    | some r => if r.tgt = n ∧ r.stage = .waitCorr then s.answer n r else s
    | none => s)

def execMergeTimeout (n i : Nat) (s : State) : Host.Outcome State Fault Refusal :=
  .next (match (s.slice n).merge[i]? with
    | some m => (s.mergeApply n m).bump Ev.mergeRmw (.slice n) 1
    | none => s)

end Sys2Proof.Machine
end

