-- ==== Sys2Proof/Machine/Hbm.lean ====
section
/-! DEFINITION. Channel controllers (R323, R324, R329 to R332, R336, R338, R339, R699), fills, scrubs, drains and drop walks, slice modes
(R252), kennel windows (R263), and the Keeper's writes to the hash, permission, Twin and routing tables. -/

namespace Sys2Proof.Machine

/-! ## Fills end (R259, R323) -/

/-- What a read that waited for a fill gets: the sector as it stands, writes that were served before it included; what lies in HBM where
nothing is cached, or where the read may not see the cached sector (R297). -/
def State.filled (s : State) (n : Nat) (p : Loc) (r : Req) (v : List W64 × List Nat) (wrote : Bool) : List W64 × List Nat :=
  let hbm := if wrote && !s.chanRetired n then s.hbmSec n p.line p.sector else v
  match s.baseSec n p with
  | some (_, c) => if c.valid && !s.hides n r c then (c.words, c.poison) else hbm
  | none => hbm

/-- Serve a read that waited for its sector: on top of the sector lie the side-lines it sees (R297). -/
def State.serveFilled (s : State) (n : Nat) (p : Loc) (r : Req) (v : List W64 × List Nat) (wrote : Bool) : State :=
  let s := s.mergeFlush n p.set p.line p.sector
  (s.serveRead n r (s.addSides n p r.sees (s.filled n p r v wrote)) false false).lastUse n p r

/-- The requests that waited for a fill, in arrival order (R259): what has been done, whether one of them has written, and whether one could not
be served, so that those behind it wait at the input. -/
structure Resume where
  st : State
  wrote : Bool
  blocked : Bool

/-- The next of them goes on. One that finds another fill of its sector started joins it. -/
def Resume.next (a : Resume) (n : Nat) (p : Loc) (v : List W64 × List Nat) (i : Nat) : Resume :=
  match a.st.req i with
  | none => a
  | some r =>
    let r := { r with stage := .toTarget }
    let p := { p with byte := r.addr % 256 }
    let s := a.st.setReq r
    if a.blocked then { a with st := s }
    else if s.filling n p then { a with st := s.startFill n p true false false (some r) }
    else match r.kind with
      | .memWrite => let s := s.doWrite n p r .quiet; ⟨s, true, s.stillThere i⟩
      | .memFold => let s := s.doFold n p r .quiet; ⟨s, true, s.stillThere i⟩
      | _ => { a with st := s.serveFilled n p r v a.wrote }

/-- Effective level of a collar's command at a channel (R357). -/
def State.chanLevel (s : State) (n collar bark : Nat) : Nat := effLevel collar (s.rd (escField (8192 + 16 * n + collar))) bark

/-- Effective level of a fill: it drains the buffers that its requests drain. -/
def State.fillLevel (s : State) (n : Nat) (f : Fill) : Nat :=
  s.chanLevel n f.collar (f.reqs.foldl (fun m i => match s.req i with | some r => max m (s.reqBark r) | none => m) 0)

/-- Bid of a fill at its channel (R358): the slice is its only source there. -/
def State.fillBid (s : State) (n : Nat) (f : Fill) : Bid :=
  let lv := s.fillLevel n f
  ⟨tierOf lv (s.inLeash (chanArb n) f.collar 256), lv, f.collar, 0⟩

/-- Fills reach the channel's controller, where their latency starts (R364). -/
def State.enterFills (s : State) (n : Nat) (ids : List Nat) : State :=
  let mark (f : Fill × Nat) : Fill := if ids.contains f.2 && !f.1.here then { f.1 with here := true, time := s.now } else f.1
  s.modSlice n fun x => { x with fills := (x.fills.zip (List.range x.fills.length)).map mark }

/-- A fill is next at its channel: the channel answers, and no fill that waits there is served before it (R335, R337, R358). -/
def State.fillNext (s : State) (n : Nat) (f : Fill) (h : HbmIn) : Bool :=
  !s.chanBusy n && !s.needsBusyB n f.line f.sector h && (s.slice n).fills.all fun g => !(g.here && (s.fillBid n g).beats (s.fillBid n f))

/-- A fill ends: its sector is stored where it allocates, and the requests that wait for it go on; then streams that waited for a fill (R267). -/
def State.endFill (s : State) (n i : Nat) (f : Fill) (h b : HbmIn) : State :=
  let s := (s.grant (chanArb n) (.slice n) f.collar (s.fillLevel n f) 256).modSlice n fun x => { x with fills := x.fills.eraseIdx i }
  let (s, words, poison, twin) := s.fetchSector n f.line f.sector (if f.narrow then hsNARROW else hsFILL) h b
  let s := s.latency true n f.collar (s.now - f.time)
  let p := placeOf n (f.line % 768) f.line f.sector
  let way := (s.slice n).find f.line
  let s := s.sliceUe n p (way.getD 0) seFILL poison
  let s := match (if f.alloc then way else none) with
    | some w =>
      let c := ((s.slice n).line p.set w).sec false p.sector
      if c.valid then s
      else s.setBase n p w { Sector.none_ with valid := true, zero := secZero words poison, side := c.side, twin := twin,
                                               words := words, poison := poison }
    | none => s
  (f.reqs.foldl (fun (a : Resume) j => a.next n p (words, poison) j) ⟨s, false, false⟩).st.startDrops.streamsGo n

def execHbmFillDone (n i : Nat) (here : List Nat) (h b : HbmIn) (s : State) : Host.Outcome State Fault Refusal :=
  .next (
    let s := s.enterFills n (here ++ [i])
    match (s.slice n).fills[i]? with
    | none => s
    | some f => if s.fillNext n f h then s.endFill n i f h b else s)

/-- Fills under way of the sectors that an access at once needs end first, and with them the requests that came before it (R259, log entry 98);
`met` is what the access meets. -/
def State.settleFills (s : State) (a n : Nat) (met : List SliceDec) : State :=
  ((sectorsOf a n).zip (List.range (sectorsOf a n).length)).foldl (fun s b => match s.locate b.1 with
    | some p => match (s.slice p.slice).fills.findIdx? (·.at_ p) with
      | some i => match (s.slice p.slice).fills[i]? with
        | some f => let dec := met.getD b.2 .quiet; s.endFill p.slice i f dec.a dec.b
        | none => s
      | none => s
    | none => s) s

/-- An access at once waits: the channel of one of its sectors makes requests wait (R335, R337). -/
def State.memBusy (s : State) (a n : Nat) : Bool :=
  (sectorsOf a n).any fun b => match s.locate b with | some p => !p.expl && s.chanBusy p.slice | none => false

/-- Bytes of an access at once cross the ring between the floor of a port die and those of their slices (R359). -/
def State.ringOnce (s : State) (floor a n col : Nat) : State :=
  (sectorsOf a n).foldl (fun s b => match s.locate b with
    | some p => s.crossRing (p.slice / 64) floor col (effLevel col 0 0) 256
    | none => s) s

/-! ## Write-back of Twin sectors (R328) -/

/-- A copy's controller writes its copy for a write-back, with the line epoch, and returns the acknowledgement; copy B goes over the ring. -/
def State.wbWrite (s : State) (n : Nat) (w : TwinWb) (c : Nat × Nat) : State :=
  let lv := s.chanLevel c.1 w.collar 0
  let s := if c.1 = n then s else s.crossRing (n / 64) (c.1 / 64) w.collar (effLevel w.collar 0 0) 256
  let s := (s.grant (chanArb c.1) (.slice c.1) w.collar lv 256).latency true c.1 w.collar (s.now - w.time)
  if s.chanRetired c.1 then s else (s.hbmPut c.1 c.2 w.sector w.words w.poison).putEpoch c.1 c.2 s.commitEpoch

/-- Nothing of a sector has changed since its write-back began. -/
def State.wbCurrent (s : State) (n : Nat) (p : Loc) (w : TwinWb) (c : Sector) : Bool :=
  decide (c.words = w.words) && decide (c.poison = w.poison) && decide (c.etag = 0)
    && !((s.slice n).merge.any fun m => decide (m.set = p.set) && decide (m.line = p.line) && decide (m.sector = p.sector))

/-- A copy's controller acknowledges its write, unless its channel makes it wait (R335, R337); with the last one the sector is clean. -/
def State.wbAck (s : State) (n i : Nat) (copyB : Bool) : State :=
  match (s.slice n).wbs[i]? with
    | none => s
    | some w =>
      let at_ := if copyB then s.twinOf n w.line else some (n, w.line)
      if !(if copyB then w.waitB else w.waitA) ∨ (at_.any fun c => s.chanBusy c.1) = true then s
      else
        let s := match at_ with | some c => s.wbWrite n w c | none => s
        let w' := if copyB then { w with waitB := false } else { w with waitA := false }
        if w'.waitA ∨ w'.waitB then s.modSlice n fun x => { x with wbs := x.wbs.set i w' }
        else
          let s := s.modSlice n fun x => { x with wbs := x.wbs.eraseIdx i }
          let p := placeOf n (w.line % 768) w.line w.sector
          let s := match s.baseSec n p with
            | some (v, c) => if s.wbCurrent n p w c then s.setBase n p v { c with dirty := false } else s
            | none => s
          if w.whole then s.unsplit n w.line w.sector else s

def execWriteBackAck (n i : Nat) (copyB : Bool) (s : State) : Host.Outcome State Fault Refusal := .next (s.wbAck n i copyB)

/-! ## Scrubs -/

/-- Floor scrub of a sector (R271, R270) on collar 15 (R352); its merge entries are written first (R266). -/
def execFloorScrub (n set way sector : Nat) (dec : SliceDec) (s : State) : Host.Outcome State Fault Refusal :=
  .next (
    let x := s.slice n
    let l := x.line set way
    let expl := decide (way < s.explWays n)
    let p : Loc := ⟨n, expl, set, way, if expl then 2 ^ 21 + way else l.line, sector, 0, 0⟩
    if !s.on (F.floorScrubEnable (n / 64)) ∨ !(l.sec expl sector).valid ∨ (l.sec expl sector).fresh then s
    else
      let s := s.mergeFlush n set p.line sector
      let l := (s.slice n).line set way
      let c := l.sec expl sector
      let ue := dec.ue.filter fun i => !c.poison.contains i
      let s := ((s.atOnce false n 15 256).sliceCe n dec.ce).sliceUe n p way seSCRUB ue
      if dec.metaUe then s.loseMeta n p way
      else if ue.isEmpty then s
      else if l.kind = .cache ∧ !c.dirty then
        (s.modSlice n fun x => x.setLine set way (l.setSec false sector { Sector.none_ with side := c.side })).faultLog 7 1 4 n 3 0 (R.sliceErr n)
      else s.modSlice n fun x => x.setLine set way (l.setSec expl sector { c with poison := poisUnion c.poison ue, zero := false }))

/-- Line epochs of a Twin line as a compare takes them (R330): one that cannot be read compares as equal to the other. -/
def State.lineEpochs (s : State) (n line : Nat) (tb : Nat × Nat) (a b : List HbmIn) : State × Nat × Nat :=
  let (s, ea) := s.lineEpoch n line
  let (s, eb) := s.lineEpoch tb.1 tb.2
  let ea := if a.any (·.epochUe) then none else ea
  let eb := if b.any (·.epochUe) then none else eb
  (s, (ea.or eb).getD 0, (eb.or ea).getD 0)

/-- Rewrite the corrected words of a copy (R332). -/
def State.rewriteCe (s : State) (c : Nat × Nat) (sec : Nat) (h : HbmIn) (g : HbmGot) : State :=
  if h.ce.isEmpty then s else s.hbmPut c.1 c.2 sec g.words g.marked

/-- The compare of a Twin sector (R330), with the epochs of its line; corrected words of the copy that stays are rewritten (R332). -/
def State.twinCompare (s : State) (n line sec : Nat) (tb ep : Nat × Nat) (a b : HbmIn) : State :=
  let (s, ga) := (s.atOnce true n 15 256).hbmRead n line sec hsCOMPARE a
  let (s, gb) := (s.atOnce true tb.1 15 256).hbmRead tb.1 tb.2 sec hsCOMPARE b
  let (ea, eb) := ep
  let u : EvUnit := .slice n
  let toB (s : State) : State := ((s.hbmPut tb.1 tb.2 sec ga.words ga.marked).putEpoch tb.1 tb.2 ea).rewriteCe (n, line) sec a ga
  let toA (s : State) : State := ((s.hbmPut n line sec gb.words gb.marked).putEpoch n line eb).rewriteCe tb sec b gb
  let detail := R.floorTwinLog (n / 64)
  if !ga.ue.isEmpty ∧ !gb.ue.isEmpty then
    let put (s : State) (c : Nat × Nat) (g : HbmGot) : State := s.hbmPut c.1 c.2 sec g.words (poisUnion g.marked g.ue)
    (put (put s (n, line) ga) tb gb).twinLog n line sec 3 0 ea eb
  else if !ga.ue.isEmpty then
    (((toA s).bump Ev.twinRepair u 1).twinLog n line sec 0 1 ea eb).faultLog 8 1 5 n 3 0 (R.hbmcChErr (n / 16) (n % 16))
  else if !gb.ue.isEmpty then
    (((toB s).bump Ev.twinRepair u 1).twinLog n line sec 0 0 ea eb).faultLog 8 1 5 tb.1 3 0 (R.hbmcChErr (tb.1 / 16) (tb.1 % 16))
  else if ga.words = gb.words ∧ ga.marked = gb.marked then (s.rewriteCe (n, line) sec a ga).rewriteCe tb sec b gb
  else if newer ea eb then (((toB s).bump Ev.twinResolve u 1).twinLog n line sec 1 0 ea eb).faultLog 9 1 4 n 3 0 detail
  else if newer eb ea then (((toA s).bump Ev.twinResolve u 1).twinLog n line sec 1 1 ea eb).faultLog 9 1 4 n 3 0 detail
  else
    let f := n / 64
    let s := (((s.rewriteCe (n, line) sec a ga).rewriteCe tb sec b gb).bump Ev.twinSplit u 1 |>.twinLog n line sec 2 0 ea eb).faultLog 10 2 4 n 9 3 detail
    let p := placeOf n (line % 768) line sec
    let s := match s.baseSec n p with
      | some (w, c) => if c.etag = 0 then s.setBase n p w { Sector.none_ with side := c.side } else s
      | none => s
    if (s.splits.filter fun (x : Split) => decide (x.floor = f)).length < 64 then
      let s := { s with splits := s.splits ++ [Split.mk f n line sec] }
      s.wr (F.floorSplitStatUsed f) (s.splits.filter fun (x : Split) => decide (x.floor = f)).length
    else ((s.hbmPut n line sec ga.words allWords).hbmPut tb.1 tb.2 sec gb.words allWords).wr (F.floorSplitStatOverflow f) 1

/-- A segment holds copy B of some Twin pair. -/
def State.isMirror (s : State) (g : Nat) : Bool := s.mapped.any fun h => decide (s.mirrorOf h = some g)

/-- Scrub reads one copy of a sector alone: corrected words are rewritten. -/
def State.scrubOne (s : State) (n line sec : Nat) (h : HbmIn) : State × HbmGot :=
  let r := (s.atOnce true n 15 256).hbmRead n line sec hsSCRUB h
  (r.1.rewriteCe (n, line) sec h r.2, r.2)

/-- Patrol scrub of a sector of a non-Twin line, or of copy B (R332, R699). Copy B is compared when its copy A is scrubbed. -/
def State.scrubPlain (s : State) (n line sec : Nat) (h : HbmIn) : State :=
  let (s, g) := s.scrubOne n line sec h
  let q := Variant.spreadRows s.variant
  let mirror := match s.segOf n line with
    | some k => s.isMirror k && decide (line - 512 * s.rd (F.floorHashChanBase 0 k) < q - q / 512)
    | none => false
  let p := placeOf n (line % 768) line sec
  if g.ue.isEmpty || mirror then s
  else match s.baseSec n p with
    | some (w, c) => if c.valid then s.setBase n p w { c with dirty := true } else s.hbmPut n line sec g.words (poisUnion g.marked g.ue)
    | none => s.hbmPut n line sec g.words (poisUnion g.marked g.ue)

/-- Scrub runs on a channel (R332). -/
def State.scrubs (s : State) (n line : Nat) : Bool :=
  s.slicePopulated n && s.on (F.hbmcScrubEnable (n / 16)) && !s.selfRef.contains (n / 16)
    && decide (s.rd (F.hbmcChStatState (n / 16) (n % 16)) = 1) && decide (2048 * line < chanBytes)

/-- A sector that scrub skips: held dirty, or being written back (R330, R332). -/
def State.scrubSkips (s : State) (n line sec : Nat) : Bool :=
  (match s.baseSec n (placeOf n (line % 768) line sec) with | some (_, c) => c.valid && (c.dirty || decide (c.etag ≠ 0)) | none => false)
    || (s.slice n).wbs.any fun w => decide (w.line = line) && decide (w.sector = sec)

/-- Patrol scrub of one line (R332, R699). A Twin line is compared; while copy B cannot be read its sectors wait for the next round. Where the
compare is off, copy B retired or the sector split, copy A is read alone. -/
def execHbmScrub (n line : Nat) (a b : List HbmIn) (s : State) : Host.Outcome State Fault Refusal :=
  .next (
    if !s.scrubs n line then s
    else
      let (s, ep) := match s.twinOf n line with | some tb => s.lineEpochs n line tb a b | none => (s, (0, 0))
      (List.range 8).foldl (fun s sec =>
        let h := a.getD sec .quiet
        if s.scrubSkips n line sec then s
        else match s.twinOf n line with
          | some tb =>
            if !s.on (F.hbmcScrubTwinCmp (n / 16)) || s.chanRetired tb.1 || s.isSplit n line sec then (s.scrubOne n line sec h).1
            else if s.chanBusy tb.1 then s
            else s.twinCompare n line sec tb ep h (b.getD sec .quiet)
          | none => s.scrubPlain n line sec h) s)

/-! ## Drains and drop walks -/

/-- The commit drain of a slice (R306): its first Committed entry; it waits for a busy channel (R335, R337). A removed slice writes the drained
lines back (R272). -/
def execCommitDrain (n : Nat) (met : List SliceDec) (s : State) : Host.Outcome State Fault Refusal :=
  .next (match entries.find? (fun e => decide (s.rd (etState n e) = etCOMMITTED)) with
    | none => s
    | some e => if s.chanBusy n then s else let s := s.drainEntry n e met; if s.on (F.sliceStatRemoved n) then s.flushSlice n else s)

/-- Slices that hold an entry, in any of the states, for a mark. -/
def State.marksLeft (s : State) (mod epoch : Nat) (st : List Nat) : Bool :=
  (List.range 512).any fun n => (s.entryOf n mod epoch st).isSome

/-- Acknowledge the abort notices of other modules whose drop walks are complete (R308, R309). -/
def State.ackAborts (s : State) : State :=
  s.fab.abortWalk.foldl (fun s m =>
    if s.marksLeft m.1 m.2 [etOPEN, etDROPPING] then s
    else (s.modFab fun f => { f with abortWalk := f.abortWalk.filter fun k => decide (k ≠ m) }).sendNotice m.1 nAbortAck m.2) s

def execDropWalkDone (n k : Nat) (s : State) : Host.Outcome State Fault Refusal :=
  .next (if 1 ≤ k ∧ k ≤ 15 ∧ s.rd (etState n k) = etDROPPING then (s.dropEntry n k).ackAborts else s)

/-! ## Slice modes (R252) -/

/-- Explicit ways of a mode. -/
def modeWays (mode split : Nat) : Nat := match mode with | 1 => 4 * (min split 2 + 1) | 2 => 16 | _ => 0

/-- State of entries goes with a line, so that it can neither be committed nor be restored: the entries are unprotected (DESIGN CHOICE, log
entry 99). -/
def State.loseState (s : State) (n : Nat) (l : Line) : State :=
  entries.foldl (fun s e =>
    if s.rd (etState n e) ≠ etFREE ∧ (l.entry = e ∨ (l.secs.any fun c => decide (c.etag = e)) = true) then s.wr (etUnprot n e) 1 else s) s

/-- Empty a way in every set: dirty committed sectors of a line in a cache way are written back (R252, R261), and with an explicit line go the
side-lines and undo lines over it. -/
def State.clearWay (s : State) (n way : Nat) (expl : Bool) : State :=
  (s.slice n).lines.foldl (fun s q =>
    let l := (s.slice n).line (q.1 / 16) (q.1 % 16)
    let above : Bool := expl && (decide (l.kind = .side) || decide (l.kind = .undo)) && decide (l.line = 2 ^ 21 + way)
    if q.1 % 16 ≠ way ∧ !above then s
    else
      let s := if l.kind = .cache ∧ !expl then s.cleanLine n (q.1 / 16) (q.1 % 16) 0 else s
      (s.loseState n l).modSlice n fun x => x.setLine (q.1 / 16) (q.1 % 16) Line.none_) s

/-- The Keeper sets a slice's mode: what is committed is drained first; then a way that becomes explicit is written back and set fresh, no line
entering it any more, and one that becomes a cache way loses its contents. -/
def State.setMode (s : State) (n mode split : Nat) : State :=
  if !s.slicePopulated n then s
  else
    let e := s.explWays n
    let e' := modeWays mode split
    let s := ((s.mergeAll n).drainAll n).wrs
      [(F.sliceCfgMode n, mode), (F.sliceCfgSplitWays n, split), (F.sliceStatMode n, if mode = 3 then 0 else mode)]
    ((List.range 16).foldl (fun s w => if decide (w < e) ≠ decide (w < e') then s.clearWay n w (decide (w < e)) else s) s).countLines n

def execSliceModeSet (n mode splitWays : Nat) (s : State) : Host.Outcome State Fault Refusal :=
  .next (if 512 ≤ n ∨ s.pass.isSome then s else s.setMode n mode splitWays)

/-! ## Kennel windows (R263) -/

/-- Slices that serve an address range's segments. -/
def State.servedBy (s : State) (n base last : Nat) : Bool :=
  let g0 := base * 0x200000 / segBytes
  let g1 := (last * 0x200000 + 0x1FFFFF) / segBytes
  s.mapped.any fun g => decide (g0 ≤ g) && decide (g ≤ g1)
    && (decide (s.segKind g = 1) || (decide (s.segKind g = 2) && decide (s.rd (F.floorHashNearFloor 0 g) = n / 64)))

/-- Pinned total of a slice: the quotas of the enabled windows in effect Pinned that it serves. -/
def State.pinnedTotal (s : State) (n : Nat) : Nat :=
  (((List.range 64).filter fun k => s.on (F.kenlCtrlEnable k) && decide (s.rd (F.kenlCtrlPersEff k) = 3)
      && s.servedBy n (s.rd (F.kenlRangeBase k)) (s.rd (F.kenlRangeLast k))).map s.quotaOf).sum

/-- Apply the pin cap to a window as it is enabled: false where it became Sticky. -/
def State.pinCap (s : State) (k : Nat) : State × Bool :=
  let pers := s.rd (F.kenlCtrlPers k)
  if !s.on (F.kenlCtrlEnable k) ∨ pers ≠ 3 then (s.wr (F.kenlCtrlPersEff k) pers, true)
  else
    let s := s.wr (F.kenlCtrlPersEff k) 3
    let overs := (List.range 512).any fun n =>
      s.slicePopulated n && s.servedBy n (s.rd (F.kenlRangeBase k)) (s.rd (F.kenlRangeLast k))
        && decide ((s.cacheWays n).length - 4 < s.pinnedTotal n)
    if overs then ((s.wr (F.kenlCtrlPersEff k) 2).bump Ev.pinCap .module 1, false) else (s, true)

/-- Cached lines belong to the window that holds their address (R262). -/
def State.retag (s : State) : State :=
  s.slices.foldl (fun s x => x.2.lines.foldl (fun s q =>
    if q.2.kind ≠ .cache then s
    else s.modSlice x.1 fun y =>
      y.setLine (q.1 / 16) (q.1 % 16) { y.line (q.1 / 16) (q.1 % 16) with kennel := ((s.unhash x.1 q.2.line).map s.kennelOf).getD 64 }) s) s

/-- Of the lines of a window in a set, the least recently used one that may go: no entry holds it, and it is neither filled nor written back. -/
def State.trimOne (s : State) (n set k : Nat) : Option Nat :=
  let x := s.slice n
  let ok (w : Nat) : Bool :=
    let l := x.line set w
    decide (l.kind = .cache) && decide (l.kennel = k) && !l.holdsState && !(x.fills.any fun f => f.alloc && decide (f.line = l.line))
      && !(x.wbs.any fun b => decide (b.line = l.line))
  ((s.cacheWays n).filter ok).foldl (fun v w => match v with
    | none => some w
    | some u => if (x.line set w).age < (x.line set u).age then some w else some u) none

/-- No window has more lines in a set than its quota (R262, R263): those beyond it leave, the least recently used first. -/
def State.trimSet (s : State) (n set : Nat) : State :=
  (List.range 256).foldl (fun s i =>
    let l := (s.slice n).line set (i % 16)
    let own := ((s.cacheWays n).filter fun w => decide (((s.slice n).line set w).kind = .cache) && decide (((s.slice n).line set w).kennel = l.kennel)).length
    if l.kind ≠ .cache ∨ 64 ≤ l.kennel ∨ own ≤ s.quotaOf l.kennel then s
    else match s.trimOne n set l.kennel with
      | some w => (s.cleanLine n set w 0).modSlice n fun x => x.setLine set w Line.none_
      | none => s) s

/-- Every set of every slice holds its windows' quotas. -/
def State.trimSets (s : State) : State :=
  s.slices.foldl (fun s x => ((x.2.lines.map fun q => q.1 / 16).eraseDups).foldl (fun s set => s.trimSet x.1 set) s) s

/-- The Keeper writes a window: it applies at once to the lines that the slices hold (R256, R262; log entry 103). -/
def State.kennelWrite (s : State) (k : Nat) (range ctrl : W64) : State × Bool :=
  let r := (((s.setReg (R.kenlRange k) (range &&& 0x003FFFFFFFFFFFFF)).setReg (R.kenlCtrl k) (ctrl &&& 0xFF)).wr (F.kenlCtrlPersEff k) 1).pinCap k
  (r.1.retag.trimSets, r.2)

def execKennelEnable (n : Nat) (range ctrl : W64) (s : State) : Host.Outcome State Fault Refusal :=
  .next (if 64 ≤ n then s else (s.kennelWrite n range ctrl).1)

/-! ## Redundant tables (R251, R325, R400): a write updates every copy and its CRC -/

/-- A write of the Keeper to the writable bits of a register. -/
def State.keeperWrite (s : State) (a : Nat) (v : W64) : State :=
  match regDefAt a with
  | some d => s.setReg a ((s.reg a &&& ~~~ (BitVec.ofNat 64 d.rw)) ||| (v &&& BitVec.ofNat 64 d.rw))
  | none => s

def execFloorHashWrite (f g : Nat) (v : W64) (s : State) : Host.Outcome State Fault Refusal :=
  .next (if 8 ≤ f ∨ 768 ≤ g ∨ s.pass.isSome then s else (s.keeperWrite (R.floorHash f g) v).setCopies .hashMap f allPass)

def execFloorPermWrite (f w : Nat) (v : W64) (s : State) : Host.Outcome State Fault Refusal :=
  .next (if 8 ≤ f ∨ 18624 ≤ w ∨ s.pass.isSome then s else (s.keeperWrite (R.floorPerm f w) v).setCopies .perm f allPass)

def execFloorTwinWrite (f g : Nat) (v : W64) (s : State) : Host.Outcome State Fault Refusal :=
  .next (if 8 ≤ f ∨ 768 ≤ g ∨ s.pass.isSome then s else (s.keeperWrite (R.floorTwin f g) v).setCopies .twin f allPass)

def execPortRouteWrite (p n : Nat) (v : W64) (s : State) : Host.Outcome State Fault Refusal :=
  .next (if s.variant.portDies ≤ p ∨ 4096 ≤ n then s
    else ((s.keeperWrite (R.portRoute p n) v).setCopies .route p allPass).rerouted)

end Sys2Proof.Machine
end

