-- ==== Sys2Proof/Machine/Deck.lean ====
section
/-! DEFINITION. Deck dies (R219 to R241): places of tiles on the dies, signal bonds, their repair and exhaustion, guest sectors, errors of
meshes and shafts, slices removed from the hash (R272). -/

namespace Sys2Proof.Machine

/-! ## Places (R13, R14, R219) -/

/-- Deck die of a logical tile. -/
def tileDie (t : Nat) : Nat := 2 * (t / 160 / 40) + t % 160 / 80

/-- Physical sector of a logical tile on its die. -/
def tileSector (t : Nat) : Nat := 4 * (t / 160 % 40) + t % 80 / 20

/-- Physical columns of a sector that are good, in order, for its bad positions (R14): 21 positions. -/
def goodCols (bad : List Nat) : List Nat := (List.range 21).filter fun p => !bad.contains p

/-- Physical position, 0 to 20, of a logical tile in its sector. -/
def State.physPos (s : State) (t : Nat) : Nat := (goodCols (tget (fun _ => []) s.badPos (t / 20))).getD (t % 20) 20

/-- Plane sector (t ÷ 20) of physical sector `n` of die `d`. -/
def planeSector (d n : Nat) : Nat := 8 * (40 * (d / 2) + n / 4) + 4 * (d % 2) + n % 4

/-- Physical position of a sector's port beside its shaft (R226). -/
def portPos : Nat := 10

/-! ## Routes of the mesh (R219 to R221) -/

/-- Global row and physical column of a tile's router. -/
def State.meshGrid (s : State) (t : Nat) : Nat × Nat := (t / 160, 84 * (t % 160 / 80) + 21 * (t % 80 / 20) + s.physPos t)

/-- Global row and physical column of the router at the port of physical sector `n` of die `d`. -/
def portGrid (d n : Nat) : Nat × Nat := (40 * (d / 2) + n / 4, 84 * (d % 2) + 21 * (n % 4) + portPos)

/-- The die across an edge (0 east, 1 west, 2 north, 3 south; R239), and the edge as that die names it. -/
def acrossEdge (d e : Nat) : Nat × Nat := match e with | 0 => (d + 1, 1) | 1 => (d - 1, 0) | 2 => (d - 2, 3) | _ => (d + 2, 2)

/-- A gateway of an edge is in service. -/
def State.gateIn (s : State) (d e g : Nat) : Bool :=
  let o := acrossEdge d e
  !s.deck.gatesOut.contains (d, 8 * e + g) && !s.deck.gatesOut.contains (o.1, 8 * o.2 + g)

/-- The gateway that serves a row or column: its own, or the nearest in service on the edge (R236), the lower one of two as near (DESIGN
CHOICE, log entry 26). -/
def State.gateFor (s : State) (d e own : Nat) : Nat :=
  (((List.range 8).filter fun g => s.gateIn d e g).foldl (fun (v : Nat × Nat) g =>
    let dist := if g < own then own - g else g - own
    if dist < v.1 then (dist, g) else v) (8, own)).2

/-- The router at a global row and column, reached from the router before it: through a gateway where the die changes (R221). The gateway is
numbered as the receiving die does, `8 × edge + g`. -/
def State.hopTo (s : State) (from_ to_ : Nat × Nat) : Hop :=
  let d := 2 * (to_.1 / 40) + to_.2 / 84
  let c := to_.2 % 84
  let half := 2 * (c / 21) + b2n (decide (10 < c % 21))
  let edge : Option (Nat × Nat) :=
    if from_.1 / 40 < to_.1 / 40 then some (2, half)
    else if to_.1 / 40 < from_.1 / 40 then some (3, half)
    else if from_.2 / 84 < to_.2 / 84 then some (1, to_.1 % 40 / 5)
    else if to_.2 / 84 < from_.2 / 84 then some (0, to_.1 % 40 / 5)
    else none
  let gate := edge.map fun p => 8 * p.1 + s.gateFor d p.1 p.2
  ⟨d, to_.1 % 40, c, gate⟩

/-- Numbers after `a` through `b`, in order. -/
def walk (a b : Nat) : List Nat := if a ≤ b then (List.range (b - a)).map (a + 1 + ·) else (List.range (a - b)).map (a - 1 - ·)

/-- Routers that a packet reaches, in order: first along its column to the destination's row, then along that row to the destination's column
(R220). -/
def State.route (s : State) (a b : Nat × Nat) : List Hop :=
  let ps := (walk a.1 b.1).map (fun r => (r, a.2)) ++ (walk a.2 b.2).map fun c => (b.1, c)
  ((a :: ps).zip ps).map fun p => s.hopTo p.1 p.2

/-! ## Errors of meshes and shafts (R225, R231, R240) -/

/-- The sector whose shaft serves a tile: its own, or its host's (R237). -/
def State.shaftSector (s : State) (t : Nat) : Nat :=
  let d := tileDie t
  let n := tileSector t
  if s.rd (F.deckShaftStatDownState d n) = 3 ∨ s.rd (F.deckShaftStatUpState d n) = 3 then s.rd (F.deckShaftStatPartner d n) else n

/-- A tile whose sector's port is retired and has a host: a guest's (R237). -/
def State.isGuest (s : State) (t : Nat) : Bool := decide (s.shaftSector t ≠ tileSector t)

/-- A data word or packet lost on a path of tile `t`: path 0 mesh, 1 shaft down, 2 shaft up; `what` 0 a poisoned word, 1 a discard, which
alone counts as MESH_UE or SHAFT_UE (R225, R231). On the mesh, `h` is the router that finds it, reached through a link or through a
gateway (path 3). -/
def State.deckErr (s : State) (t path what : Nat) (h : Hop) : State :=
  let d := h.die
  let unit := match h.gate with | some g => g | none => if path = 0 then 4 * h.row + h.col / 21 else s.shaftSector t
  let s := s.record (F.deckLinkErrUeValid d) (F.deckLinkErrUeMulti d)
    [(F.deckLinkErrPath d, if h.gate.isSome then 3 else path), (F.deckLinkErrWhat d, what), (F.deckLinkErrUnit d, unit),
     (F.deckLinkErrRow d, h.row), (F.deckLinkErrCol d, h.col), (F.deckLinkErrEpoch d, s.epoch)]
  if what = 1 then s.bump (if path = 0 then Ev.meshUe else Ev.shaftUe) (.tile t) 1 else s

/-- Corrected words on a path at a tile. -/
def State.deckCe (s : State) (t path n : Nat) : State :=
  if n = 0 then s
  else
    let s := s.bump (if path = 0 then Ev.meshCe else Ev.shaftCe) (.tile t) n
    if path = 0 then s else s.satAdd (F.deckShaftStatCeCount (tileDie t) (s.shaftSector t)) n

/-! ## Slices removed from the hash (R272) -/

/-- A slice leaves the hash: its dirty committed sectors are written back, its cache ways emptied, and it runs at half rate. -/
def State.removeSlice (s : State) (n : Nat) : State :=
  if s.on (F.sliceStatRemoved n) then s
  else (((s.wr (F.sliceStatRemoved n) 1).flushSlice n).setCap lSLICE 0 n 153600).faultLog 15 1 4 n 5 0 (R.deckBondLog (n / 64))

/-- Slices that wait for the commit that ends the pass. -/
def State.removeSlices (s : State) : State :=
  let s := s.bound.slices.foldl (fun s n => s.removeSlice n) s
  { s with bound := { s.bound with slices := [] } }

/-! ## Bonds (R232 to R237). Groups of a shaft in the table's order: 0 to 71 data downward, 72 to 143 data upward, 144 to 153 control,
154 and 155 clock (DEDUCED, log entry 26). -/

/-- Record a bond event, with what found the bond and the epoch then. -/
def State.bondEvent (s : State) (d : Nat) (b : BondRef) (action source epoch : Nat) : State :=
  s.record (F.deckBondLogValid d) (F.deckBondLogMulti d)
    [(F.deckBondLogKind d, b.kind - 1), (F.deckBondLogUnit d, b.unit), (F.deckBondLogGroup d, b.group), (F.deckBondLogBond d, b.bond),
     (F.deckBondLogAction d, action), (F.deckBondLogSource d, source), (F.deckBondLogEpoch d, epoch)]

/-- Record a bond event at the detection. -/
def State.bondLog (s : State) (d : Nat) (b : BondRef) (action source : Nat) : State := s.bondEvent d b action source s.epoch

/-- Two bonds lie in one group. -/
def sameGroup (a b : BondRef) : Bool :=
  decide (a.kind - 1 = b.kind - 1) && decide (a.unit = b.unit) && decide (a.group = b.group)

/-- A bond of a shaft. -/
def bondShaft (b : BondRef) : Bool := decide (b.kind ≤ 1)

/-- Change the deck state. -/
def State.modDeck (s : State) (f : DeckSt → DeckSt) : State := { s with deck := f s.deck }

/-- A sector's port is in service. -/
def State.portIn (s : State) (d n : Nat) : Bool :=
  decide (s.rd (F.deckShaftStatDownState d n) ≠ 3) && decide (s.rd (F.deckShaftStatUpState d n) ≠ 3)

/-- The host that R237 names for a retired sector: the nearest on its row with a port in service and no guest, lower column first. -/
def State.hostFor (s : State) (d n : Nat) : Option Nat :=
  let row := 4 * (n / 4)
  let ok (q : Nat) : Bool := decide (row + q ≠ n) && s.portIn d (row + q) && !s.on (F.deckShaftStatHasGuest d (row + q))
  let dist (q : Nat) : Nat := if q < n % 4 then n % 4 - q else q - n % 4
  (((List.range 4).filter ok).foldl (fun (v : Option Nat) q => match v with
    | some u => if dist q < dist u then some q else some u
    | none => some q) none).map (row + ·)

/-- Module states of KEEP_PASS_STAT (R316). -/
def psIDLE : Nat := 0
def psRUNNING : Nat := 1
def psENDED : Nat := 2
def psDISCARDING : Nat := 3
def psCOMMITTING : Nat := 4
def psHALTED : Nat := 5

/-- Change the pass. -/
def State.modPass (s : State) (f : Pass → Pass) : State := { s with pass := s.pass.map f }

/-- A Job-fatal cause joins; the first stays (R511). -/
def Pass.fatalBy (p : Pass) (cause : Nat) : Pass := { p with fatal := if p.fatal.isNone then some cause else p.fatal }

/-! ## Job-fatal and pass faults (R500, R518) -/

/-- The waiting pass commands complete with the fault status of a pass (R308 step 7). -/
def State.finishHeld (s : State) (status result : Nat) : State :=
  s.finish (fun w => match w with | .launch _ _ _ | .commit _ _ _ => true | _ => false) status result

/-- The pass ends without a commit: its commands and the held ones complete. -/
def State.dropPass (s : State) (status result : Nat) : State :=
  match s.pass with
  | none => s.finishHeld status result
  | some p =>
    let s := { s with pass := none, heldSigs := [] }
    let s := if p.posted then s else s.complete p.launch status result
    let s := match p.commit with | some e => s.complete e status result | none => s
    s.finishHeld status result

/-- The open job has ended Job-fatal (R518): the first cause stays. -/
def State.fatalJob (s : State) (cause : Nat) : State :=
  let s := if s.job.isSome ∧ !s.on F.keepFaultStatJobFatal then s.wrs [(F.keepFaultStatJobFatal, 1), (F.keepFaultStatFatalCause, cause)] else s
  (s.dropPass sJOB_FATAL (s.rd F.keepFaultStatFatalCause)).wr F.keepPassStatState psHALTED

/-- The open job restarts: its pass, if one runs, is fatal at the discard that the boundary belongs to; else it has ended Job-fatal. -/
def State.jobLost (s : State) (cause : Nat) : State :=
  if s.job.isNone then s else if s.pass.isSome then s.modPass fun p => p.fatalBy cause else s.fatalJob cause

/-- A retired sector finds its host; a sector with none keeps itself as partner, and the running job restarts (R237). -/
def State.becomeGuest (s : State) (d n : Nat) : State :=
  match s.hostFor d n with
  | some h => s.wrs [(F.deckShaftStatPartner d n, h), (F.deckShaftStatHasGuest d h, 1), (F.deckShaftStatPartner d h, n)]
  | none => ((s.wr (F.deckShaftStatPartner d n) n).faultLog 15 2 2 (160 * d + n) 9 8 (R.deckBondLog d)).jobLost 8

/-- A sector's tiles are absent: its port is retired and has no host. -/
def State.sectorLost (s : State) (d n : Nat) : Bool := !s.portIn d n && decide (s.rd (F.deckShaftStatPartner d n) = n)

/-- A sector's port is retired; its own guest looks for another host. -/
def State.retirePort (s : State) (d n : Nat) : State :=
  let guest := if s.on (F.deckShaftStatHasGuest d n) then some (s.rd (F.deckShaftStatPartner d n)) else none
  let s := s.wrs [(F.deckShaftStatDownState d n, 3), (F.deckShaftStatUpState d n, 3), (F.deckShaftStatHasGuest d n, 0),
                  (F.deckShaftStatPartner d n, n)]
  let s := s.setCaps lSHAFT [(0, 160 * d + n), (1, 160 * d + n)] 0
  let s := s.becomeGuest d n
  match guest with | some g => s.becomeGuest d g | none => s

/-- The action of R236 for an exhausted group. -/
def State.exhaustAct (s : State) (d : Nat) (b : BondRef) : State :=
  let found := s.deck.bonds.find? fun f => decide (f.die = d) && decide (f.bond = b)
  let log (s : State) (action : Nat) : State := match found with | some f => s.bondEvent d b action f.src f.epoch | none => s.bondLog d b action 0
  if bondShaft b then
    let narrow (s : State) (f : Fld) (dir half : Nat) : State :=
      if s.rd f = 0 then
        (log ((s.wr f half).setCap lSHAFT dir (160 * d + b.unit) 51200) 3).faultLog 15 1 2 (160 * d + b.unit) 4 0 (R.deckBondLog d)
      else if s.rd f = half then s
      else (log (s.retirePort d b.unit) 4).faultLog 15 1 2 (160 * d + b.unit) 5 0 (R.deckBondLog d)
    let s := s.wr (F.deckShaftStatRepairPending d b.unit) 0
    if !s.portIn d b.unit then s
    else if b.group < 72 then narrow s (F.deckShaftStatDownState d b.unit) 0 (if b.group < 36 then 2 else 1)
    else if b.group < 144 then narrow s (F.deckShaftStatUpState d b.unit) 1 (if b.group < 108 then 2 else 1)
    else (log (s.retirePort d b.unit) 4).faultLog 15 1 2 (160 * d + b.unit) 5 0 (R.deckBondLog d)
  else if b.kind = 2 then
    (log (s.modDeck fun x => { x with gatesOut := if x.gatesOut.contains (d, b.unit) then x.gatesOut else x.gatesOut ++ [(d, b.unit)] }) 4).faultLog
      15 1 3 (32 * d + b.unit) 5 0 (R.deckBondLog d)
  else
    let s := log s 5
    if s.pass.isSome then { s with bound := { s.bound with slices := s.bound.slices ++ [64 * d + b.unit] } } else s.removeSlice (64 * d + b.unit)

/-- Apply what waits on bonds (R235, R236): each suspect bond moves to its group's spare, each exhausted group takes its action. -/
def State.repairBonds (s : State) : State :=
  let s := s.deck.bonds.foldl (fun (s : State) (f : BondFault) =>
    if f.st ≠ 0 then s
    else
      let s := (s.bump Ev.bondRepair .module 1).bondEvent f.die f.bond 1 f.src f.epoch
      if bondShaft f.bond then
        (s.incr (F.deckShaftStatSparesUsed f.die f.bond.unit) 1).wr (F.deckShaftStatRepairPending f.die f.bond.unit) 0
      else s) s
  let s := s.modDeck fun x => { x with bonds := x.bonds.map fun f => if f.st = 0 then { f with st := 1 } else f }
  let ex := s.deck.exhausted
  let s := s.modDeck fun x => { x with exhausted := [] }
  ex.foldl (fun s e => s.exhaustAct e.1 e.2) s

/-- A bond is found failing (R234): its group's spare takes it at the next pass boundary, or, with the spare in use, the group is
exhausted. Both happen at once when no pass runs. -/
def State.suspectBond (s : State) (d : Nat) (b : BondRef) (source : Nat) : State :=
  let same (f : BondFault) : Bool := decide (f.die = d) && sameGroup f.bond b
  if s.deck.bonds.any (fun f => same f && decide (f.bond.bond = b.bond)) then s
  else
    let used := s.deck.bonds.any same
    let s := ((s.bump Ev.bondSuspect .module 1).bondLog d b 0 source).faultLog 14 1 2 (160 * d + b.unit) 3 0 (R.deckBondLog d)
    let s := if bondShaft b then s.wr (F.deckShaftStatRepairPending d b.unit) 1 else s
    let s := s.modDeck fun x => { x with bonds := x.bonds ++ [BondFault.mk d b (if used then 2 else 0) source s.epoch] }
    let s := if used then
        ((s.bump Ev.bondExhaust .module 1).bondLog d b 2 source).modDeck fun x =>
          { x with exhausted := if x.exhausted.any (fun e => decide (e.1 = d) && sameGroup e.2 b) then x.exhausted else x.exhausted ++ [(d, b)] }
      else s
    if s.pass.isSome then s else s.repairBonds

/-- A bond that the module has. -/
def bondOk (b : BondRef) : Bool :=
  decide (b.bond ≤ 16) && (match b.kind with
    | 0 | 1 => decide (b.unit < 160) && decide (b.group < 156)
    | 2 => decide (b.unit < 32) && decide (b.group < 40)
    | 3 => decide (b.unit < 64) && decide (b.group = 0)
    | _ => false)

/-- Corrections attributed to a bond (R234): 16 of them within 1 ms make it suspect. -/
def State.bondHit (s : State) (d : Nat) (b : BondRef) (n : Nat) : State :=
  if n = 0 ∨ !bondOk b then s
  else
    let hits := s.deck.hits.filter (fun h => decide (s.now < h.time + 1000000)) ++ [⟨d, b, n, s.now⟩]
    let s := s.modDeck fun x => { x with hits := hits }
    if 16 ≤ ((hits.filter fun h => decide (h.die = d) && decide (h.bond = b)).map (·.n)).sum then s.suspectBond d b 0 else s

/-! ## What a path does to what it carries (R225, R231, R237) -/

/-- Bytes of a block whose words come uncorrectable are marked as poisoned. -/
def spoil (ue : List Nat) : List Seg → List PB → List PB
  | [], _ => []
  | g :: gs, bs =>
    ((List.range g.len).zip bs).map (fun p => { p.2 with p := p.2.p || ue.contains ((g.off + p.1) % 256 / 8) }) ++ spoil ue gs (bs.drop g.len)

/-- Words of a block that a request carries. -/
def carried (r : Req) : List Nat :=
  if r.data.isEmpty then []
  else (List.range 32).filter fun w => r.segs.any fun g => decide (g.off < 8 * w + 8) && decide (8 * w < g.off + g.len)

/-- Flits of the mesh packets that carry words (R219): a header for each packet of up to 256 bytes, and four words to a data flit. A guest's
packet of the fabric goes as several Writes. -/
def meshFlits (words : Nat) : Nat := max 1 ((words + 31) / 32) + (words + 3) / 4

/-- Words go over the mesh along a route to or from tile `t`: MESH_CE, marks and, for the flits, the gateways they cross. -/
def State.meshWords (s : State) (t ce : Nat) (ue words : List Nat) (rt : List Hop) : State :=
  let s := s.bump Ev.gatewayFlits (.tile t) ((rt.filter (·.gate.isSome)).length * meshFlits words.length)
  let last := rt.getLast?.getD ⟨tileDie t, t / 160 % 40, 21 * (t % 80 / 20) + s.physPos t, none⟩
  (words.filter fun w => ue.contains w).foldl (fun s _ => s.deckErr t 0 0 { last with gate := none }) (s.deckCe t 0 ce)

/-- A packet's header is uncorrectable on a route: the router that finds it is on the route, the last one unless `place` names another. -/
def State.meshLost (s : State) (t : Nat) (rt : List Hop) (place : Option Hop) : State :=
  let last := rt.getLast?.getD ⟨tileDie t, t / 160 % 40, 21 * (t % 80 / 20) + s.physPos t, none⟩
  s.deckErr t 0 1 (match place with | some h => if rt.contains h then h else last | none => last)

/-- Words go over the shaft that serves tile `t`, down (path 1) or up (path 2), in flits of 16 words after a header flit (DEDUCED, log
entry 26); at half width each flit takes two cycles (R236). -/
def State.shaftWords (s : State) (t path ce : Nat) (ue words : List Nat) : State :=
  let d := tileDie t
  let n := s.shaftSector t
  let half := s.rd (if path = 1 then F.deckShaftStatDownState d n else F.deckShaftStatUpState d n)
  let s := if half = 1 ∨ half = 2 then s.bump Ev.shaftNarrowCyc (.tile t) (2 * (1 + (words.length + 15) / 16)) else s
  (words.filter fun w => ue.contains w).foldl (fun s _ => s.deckErr t path 0 ⟨d, n / 4, 21 * (n % 4) + portPos, none⟩) (s.deckCe t path ce)

/-- Die of a bond that lies on a path: of the shaft that serves the tile, in its direction, or of a gateway that the route crosses, as the
receiving die numbers it (R239). -/
def State.bondOn (s : State) (t path : Nat) (rt : List Hop) (b : BondRef) : Option Nat :=
  if path = 0 then if b.kind = 2 then (rt.find? fun h => decide (h.gate = some b.unit)).map (·.die) else none
  else if b.kind = path - 1 ∧ b.unit = s.shaftSector t then some (tileDie t)
  else none

/-- Words pass a path of tile `t`: over the mesh along `rt` (path 0), or over a shaft, for a guest tile with the mesh between it and its host's
port (paths 1 and 2). None where a header or control word is uncorrectable, so that all of it is discarded; else the words that
come poisoned. -/
def State.pathWords (s : State) (t path : Nat) (rt : List Hop) (tr : Transit) (words : List Nat) : State × Option (List Nat) :=
  let s := match tr.bond with | some b => (match s.bondOn t path rt b with | some d => s.bondHit d b tr.ce | none => s) | none => s
  if path = 0 then
    if tr.lost then (s.meshLost t rt tr.place, none)
    else (s.meshWords t tr.ce tr.ue words rt, some (words.filter fun w => tr.ue.contains w))
  else
    let port := portGrid (tileDie t) (s.shaftSector t)
    let leg := if s.isGuest t then (if path = 1 then s.route (s.meshGrid t) port else s.route port (s.meshGrid t)) else []
    if tr.lost ∧ !leg.isEmpty ∧ tr.place.isSome then (s.meshLost t leg tr.place, none)
    else if tr.lost then
      (s.deckErr t path 1 ⟨tileDie t, s.shaftSector t / 4, 21 * (s.shaftSector t % 4) + portPos, none⟩, none)
    else
      let s := if leg.isEmpty then s else s.meshWords t tr.meshCe tr.meshUe words leg
      let ue := if leg.isEmpty then tr.ue else tr.ue ++ tr.meshUe
      (s.shaftWords t path tr.ce tr.ue words, some (words.filter fun w => ue.contains w))

/-- Bytes of a collar take the shaft that serves tile `t`, down (path 1) or up (path 2): its arbiter grants them (R359). -/
def State.takeShaft (s : State) (t path collar lv bytes : Nat) : State :=
  if path = 0 then s else s.grant ⟨lSHAFT, path - 1, 160 * tileDie t + s.shaftSector t⟩ .module collar lv bytes

/-- The coded control word that goes with a shaft's flit (R228): kind of flit, the engine and index of its request, the tile's position, and the
credits returned. Its check bits are those of the code of R495 (log entry 82). -/
def State.ctlWord (s : State) (t n tag collar kind creditS creditB : Nat) : BitVec 72 :=
  let w : W64 := BitVec.ofNat 64 (1 + kind % 4 * 2 + tag % 64 * 2 ^ 3 + s.physPos t % 32 * 2 ^ 9 + n % 2 * 2 ^ 14 + collar % 16 * 2 ^ 15
    + creditS % 4 * 2 ^ 19 + creditB % 4 * 2 ^ 21 + b2n (s.isGuest t) * 2 ^ 23)
  Config.checkBits w ++ w

/-- The flits of a request, reply or packet of engine `n` of tile `t` go over its shaft, a header and sixteen words to a data flit, each with its
control word (R226, R228). How many credits a flit returns depends on what has left the queues by then: a free value (log entry 26). -/
def State.shaftFlits (s : State) (t path n tag collar words : Nat) : State :=
  if path = 0 then s
  else
    let k := (words + 15) / 16
    let (v, s) := s.free
    let word (i : Nat) : BitVec 72 := s.ctlWord t n tag collar (if i = 0 then 0 else if i = k then 2 else 1) (v / 16 ^ i) (v / 16 ^ i / 4)
    s.modDeck fun x => { x with ctl := tset (fun _ => []) x.ctl (2 * (160 * tileDie t + s.shaftSector t) + path - 1) ((List.range (k + 1)).map word) }

/-- The data of a request or reply of tile `t` take its shaft and, between its floor and that of a slice, the ring. -/
def State.carry (s : State) (t path : Nat) (r : Req) : State :=
  let lv := effLevel r.collar 0 0
  let n := r.data.length
  let s := (s.takeShaft t path r.collar lv n).shaftFlits t path (match r.src with | .tile _ e => e | _ => 0) r.tag r.collar ((n + 7) / 8)
  if path = 0 ∨ !r.toSlice then s
  else if path = 1 then s.crossRing (tileDie t) (r.tgt / 64) r.collar lv n
  else s.crossRing (r.tgt / 64) (tileDie t) r.collar lv n

/-- A request or reply passes a path of tile `t`; one that is lost leaves its requester waiting (R225). -/
def State.reqPath (s : State) (t path : Nat) (rt : List Hop) (tr : Transit) (r : Req) : State × Option Req :=
  match (s.carry t path r).pathWords t path rt tr (carried r) with
  | (s, none) => (s.setReq { r with stage := .lost, data := [] }, none)
  | (s, some ue) => (s, some { r with data := spoil ue r.segs r.data })

/-- A packet of the fabric passes the shaft of tile `t`, down (path 1) or up (path 2), at the level of its collar and of the bark of the
buffer that it drains (R357, R366). -/
def State.pktPath (s : State) (t path bark : Nat) (tr : Transit) (p : Packet) : State × Option Packet :=
  match ((s.takeShaft t path p.collar (effLevel p.collar 0 bark) p.data.length).shaftFlits t path p.reqEngine p.reqTag p.collar
      (p.data.length / 8)).pathWords t path [] tr (List.range (p.data.length / 8)) with
  | (s, none) => (s, none)
  | (s, some ue) => (s, some { p with poison := p.poison ++ ue.filter fun w => !p.poison.contains w })

/-- Floor of the port die on whose link, or for whose own packets (64 and up), a number stands. -/
def linkFloor (l : Nat) : Nat := portFloor (if l < 64 then l / 8 else l - 64)

/-! ## The scan (R234, R238) -/

/-- Bonds of a die: of 160 shafts, 32 gateways and 64 slice groups (R232). -/
def bondCount : Nat := 160 * 156 * 17 + 32 * 40 * 17 + 64 * 17

/-- A shaft's group belongs to its downward direction (R232). -/
def groupDown (g : Nat) : Bool := decide (g < 72) || (decide (144 ≤ g) && decide (g < 149)) || decide (g = 154)

/-- The bond of a number in the order of the scan: shafts, gateways, slice groups, each by unit, group and bond (R234 states no order:
DESIGN CHOICE, log entry 27). -/
def scanBond (i : Nat) : BondRef :=
  let a := 160 * 156 * 17
  let b := 32 * 40 * 17
  if i < a then ⟨if groupDown (i / 17 % 156) then 0 else 1, i / 17 / 156, i / 17 % 156, i % 17⟩
  else if i < a + b then ⟨2, (i - a) / 17 / 40, (i - a) / 17 % 40, (i - a) % 17⟩
  else ⟨3, (i - a - b) / 17, 0, (i - a - b) % 17⟩

/-- The bond that a die's scan tests next. -/
def State.scanAt (s : State) (d : Nat) : Nat := tget (fun _ => 0) s.deck.scan d

/-- A full scan begins (R238). -/
def State.scanStart (s : State) (d : Nat) : State :=
  (s.wr (F.deckBondScanBusy d) 1).modDeck fun x => { x with scan := tset (fun _ => 0) x.scan d 0 }

def execBondScanStart (d : Nat) (s : State) : Host.Outcome State Fault Refusal :=
  .next (if 8 ≤ d then s else s.scanStart d)

/-- The scan tests the bond whose turn it is; the test of the last one ends a full scan, and the next starts anew (R234). -/
def execBondScanStep (d : Nat) (b : BondRef) (failed : Bool) (s : State) : Host.Outcome State Fault Refusal :=
  .next (if 8 ≤ d ∨ b ≠ scanBond (s.scanAt d) ∨ !(s.on (F.deckBondScanEnable d) || s.on (F.deckBondScanBusy d)) then s
    else
      let last := decide (s.scanAt d + 1 = bondCount)
      let s := s.modDeck fun x => { x with scan := tset (fun _ => 0) x.scan d (if last then 0 else s.scanAt d + 1) }
      let s := if failed then s.suspectBond d b 1 else s
      if last then s.wr (F.deckBondScanBusy d) 0 else s)

/-- A clock bond is lost (R233): the receiver switches to the second; with that one lost too the clock group is exhausted (R236). -/
def execClockBondLoss (d sector : Nat) (up : Bool) (s : State) : Host.Outcome State Fault Refusal :=
  .next (if 8 ≤ d ∨ 160 ≤ sector then s
    else if s.deck.clockLost.contains (d, sector, up) then
      let b : BondRef := ⟨0, sector, 154 + b2n up, 1⟩
      let s := ((s.bump Ev.bondExhaust .module 1).bondLog d b 2 0).modDeck fun x =>
        { x with exhausted := if x.exhausted.any (fun e => decide (e.1 = d) && sameGroup e.2 b) then x.exhausted else x.exhausted ++ [(d, b)] }
      let s := s.wr (F.deckShaftStatRepairPending d sector) 1
      if s.pass.isSome then s else s.repairBonds
    else s.modDeck fun x => { x with clockLost := x.clockLost ++ [(d, sector, up)] })

end Sys2Proof.Machine
end

