-- ==== Sys2Proof/Machine/Pass.lean ====
section
/-! DEFINITION. Passes (R21 to R24): launch (R127, R155), end (R128, R302), commit (R304), discard and replay (R307 to R311, R500, R502,
R518), the repairs of a pass boundary (R513), and the end of a tile program. -/

namespace Sys2Proof.Machine

/-! ## Tiles of the job -/

/-- Tiles of a placed stage with their relative indices `y × w + x` (R17). -/
def stageTiles (g : StageSt) : List (Nat × Nat) :=
  match g.region with
  | none => []
  | some p => (List.range p.h).flatMap fun y => (List.range p.w).map fun x => (p.base + planeW * y + x, y * p.w + x)

/-- Stages of the open job. -/
def State.stages (s : State) : List StageSt := match s.job with | some j => j.stages | none => []

/-- Tiles of the open job. -/
def State.jobTiles (s : State) : List Nat := s.stages.flatMap fun g => (stageTiles g).map (·.1)

/-- Change the job. -/
def State.modJob (s : State) (f : Job → Job) : State := { s with job := s.job.map f }

/-! ## Keeper loads (R155 to R158) -/

/-- The Keeper stores bytes into a scratchpad: whole words, the last one filled up with what it held. -/
def TileSt.keeperPut (x : TileSt) (a : Nat) (bs : List PB) : TileSt :=
  (wordsOf a bs.length).foldl (fun x w =>
    let part := wordPart a bs w
    x.putWord w (mergeBytes part.1 part.2.1 (x.wordBytes w)) (part.2.2 || (decide (part.1 ≠ 0xFF) && x.bad w))) x

/-- Load a tile's instruction region from its stage image. -/
def State.loadInstr (s : State) (t : Nat) (g : StageSt) : State :=
  (s.needBay t).modTile t fun x => x.keeperPut (s.instrRegion t).1 (plain g.image)

/-- Load a tile's resident regions that `which` names from their home copies; false, and nothing of that region loaded, where one reads
poison (R157). -/
def State.loadResident (s : State) (t j : Nat) (g : StageSt) (which : Nat → Bool) : State × Bool :=
  (g.parts.zip (List.range g.parts.length)).foldl (fun (acc : State × Bool) p =>
    let (s, ok) := acc
    let d := p.1.toNat
    if bf d 0 3 ≠ kResident ∨ !which p.2 then (s, ok)
    else
      let n := 256 * (bf d 18 10 + 1)
      let home := (s.job.bind fun jb => jb.tensors[bf d 32 16]?).bind fun x => x.place.map fun t => (x.cls, t.addr)
      match home with
      | none => (s, ok)
      | some (cls, a) =>
        let (s, bs) := s.readTensor cls a (j * n) n
        if anyPois bs then (s, false) else ((s.needBay t).modTile t fun x => x.keeperPut (256 * bf d 8 10) bs, ok)) (s, true)

/-- Load the resident regions of the tiles of the job, those for which `p` holds. -/
def State.loadResidents (s : State) (p : TileSt → Nat → Bool) : State × Bool :=
  s.stages.foldl (fun (acc : State × Bool) g =>
    (stageTiles g).foldl (fun (acc : State × Bool) t =>
      let r := acc.1.loadResident t.1 t.2 g (p (acc.1.tile t.1)); (r.1, acc.2 && r.2)) acc) (s, true)

/-- The instruction region of a tile is among those that a scrub wants loaded again (R175). -/
def State.instrWanted (s : State) (t : Nat) : Bool := 
  (s.tile t).reload.any fun i => decide (((s.parts t).getD i (0, 0, 0)).1 = kInstr)

/-- The loads of a pass launch: the resident regions (all of them, or those that a scrub wants), and the instruction regions that a scrub
wants (R155, R175); false where a load reads poison, `bad` for an instruction region. -/
def State.launchLoads (s : State) (all bad : Bool) : State × Bool :=
  let wanted := s.jobTiles.filter fun t => s.instrWanted t
  let s := s.stages.foldl (fun (s : State) g => (stageTiles g).foldl (fun (s : State) t =>
    if wanted.contains t.1 then s.loadInstr t.1 g else s) s) s
  let r := s.loadResidents fun x i => all || x.reload.contains i
  (r.1, r.2 && !(bad && !wanted.isEmpty))

/-! ## Launch (R22, R96, R127, R155) -/

/-- Seed of a tile (R96, R95). -/
def seedOf (z : W32) (i n : Nat) : W32 :=
  let v := z ^^^ BitVec.ofNat 32 (i * 0x9E3779B9) ^^^ BitVec.ofNat 32 (n * 0x85EBCA6B)
  if v = 0 then 0x9E3779B9 else v

/-- Prepare and start one tile. The Keeper has taken the record of an earlier fault, and clears it (DEDUCED, log entry 29). -/
def State.launchTile (s : State) (g : StageSt) (t i n : Nat) : State :=
  let s := (s.tileClear t).modTile t fun x => { x with near := [] }
  let s := s.wrs [(F.tileFaultValid t, 0), (F.tileFaultMulti t, 0)]
  (s.setReg (R.tileSrState t) ((seedOf g.seed i n).setWidth 64)).tileRun t (g.entry / 16)

/-- Next epoch: the number 0 is never a launch's (R290). -/
def nextEpoch (e : Nat) : Nat := let v := (e + 1) % 2 ^ 32; if v = 0 then 1 else v

/-- Launch the pass: its first launch or a replay. -/
def State.launchAll (s : State) : State :=
  match s.pass with
  | none => s
  | some p =>
    let e := s.epochCtr
    let s := { s with epochCtr := nextEpoch e, power := { s.power with passMj := 0 } }
    let s := s.wrs [(F.keepPassStatState, psRUNNING), (F.keepPassStatNonrep, 0), (F.keepPassStatNonrepCause, 0), (F.keepPassStatFabric, b2n p.fabric),
                    (F.keepPassStatReplays, p.launches), (F.keepPassStatEpoch, e)]
    let s := s.modPass fun p => { p with launches := p.launches + 1, step := 0, replay := false, remaps := [], acks := [], heel := p.heel || s.on F.thrmStatHeel }
    s.stages.foldl (fun s g => (stageTiles g).foldl (fun s t => s.launchTile g t.1 t.2 p.number) s) s

/-- A load of an instruction or resident region at a launch or a discard reads poison: Job-fatal, with a record as of R501's code 4 (R498, R503;
log entry 106). -/
def State.poisonLoad (s : State) : State := s.faultLog 4 2 0 0 9 4 R.keepPassStat

/-- Start a pass: the loads of R155, then its first launch; a load that reads poison is Job-fatal, cause 4 (R503). -/
def State.startPass (s : State) (e : Entry) (number collar : Nat) (reload : Bool) : State :=
  let r := s.launchLoads (reload || (match s.job with | some j => !j.loaded | none => false)) e.inp.imagePoison
  let s := r.1.modJob fun j => { j with loaded := true }
  let s := s.jobTiles.foldl (fun s t => s.modTile t fun x => { x with reload := [], ueSeen := [] }) s
  let cm := s.host.waits.find? fun w => match w.why with | .commit n _ _ => decide (n = number) | _ => false
  let s := match cm with
    | some w => s.modHost fun h => { h with waits := h.waits.filter fun v => !(decide (v = w)) }
    | none => s
  let fab := match cm with | some w => (match w.why with | .commit _ f t => (f, t) | _ => (false, 0)) | none => (false, 0)
  let p : Pass :=
    { number := number, collar := collar, launch := e, posted := false, commit := cm.map (·.e), fabric := fab.1, tree := fab.2, arrived := false,
      barrier := false, step := 0, fatal := none, program := none, replay := false, aborted := false, wrote := [], acks := [], launches := 0,
      stalls := [], poisons := 0, remaps := [], heel := false, late := false, first := s.epochCtr }
  let s := { s with pass := some p }
  if r.2 then s.launchAll else s.poisonLoad.fatalJob 4

/-- A channel retrains (R337). -/
def State.retraining (s : State) : Bool :=
  s.regs.any fun p => decide (R.hbmcChStat 0 0 ≤ p.1) && decide (p.1 ≤ R.hbmcChStat 31 15) && decide ((p.1 - R.hbmcChStat 0 0) % 0x400 < 0x80)
    && decide (bf p.2.toNat 0 2 = 2)

/-- The first held PASS_LAUNCH starts when nothing holds it: no uncommitted pass (R23), the energy account (R575), a snapshot (R446), a
Keeper restart (R521), a fault that halts the job, a reset of the compute partition (R544), channels that retrain (R337). -/
def State.tryLaunch (s : State) : State :=
  match s.host.waits.find? (fun w => match w.why with | .launch _ _ _ => true | _ => false) with
  | some w =>
    match w.why with
    | .launch n c reload =>
      if s.pass.isSome ∨ s.snapHolds ∨ s.keep.restarting ∨ s.rd F.keepFaultStatState ≠ 0 ∨ s.on F.keepFaultStatJobFatal ∨ s.rd F.bootPartCompute ≠ 1 ∨ s.retraining ∨ !s.energyOk c then s
      else (s.modHost fun h => { h with waits := h.waits.filter fun v => !(decide (v = w)) }).startPass w.e n c reload
    | _ => s
  | none => s

/-! ## End of a pass (R24, R128, R302) -/

/-- An ended pass arrives at its commit barrier, once (R302), unless a request of it is in doubt (R404). -/
def State.arrive (s : State) : State :=
  match s.pass with
  | some p =>
    if s.rd F.keepPassStatState = psENDED ∧ p.commit.isSome ∧ p.fabric ∧ !p.arrived ∧ !s.keep.restarting ∧ !s.fab.doubt.contains s.epoch then
      (s.modPass fun p => { p with arrived := true }).packStart p.tree
        { kind := kCOMMIT, rop := 0, dtype := 0, countM1 := 0, aux := 0, values := [], by_ := .commit p.first }
    else s
  | none => s

/-- Status of a pass-end completion (R474). -/
def State.endStatus (s : State) (p : Pass) : Nat :=
  if s.on F.keepPassStatNonrep then sEPOCH_OVERFLOW else if p.heel || s.on F.thrmStatHeel then sHEEL_ACTIVE else sOK

/-- The pass-end completion, posted once: replays, flags of every tile and epoch of the launch that ended (R24, R90). -/
def State.postEnd (s : State) (p : Pass) : State :=
  if p.posted then s else (s.modPass fun p => { p with posted := true }).complete p.launch (s.endStatus p)
    ((p.launches - 1) % 8 + s.jobTiles.foldl (fun m t => m ||| s.rd (F.tileFpFlagsAll t)) 0 % 64 * 2 ^ 3 + s.epoch * 2 ^ 32)

/-- The pass ends when every tile of every stage is Done: its pass-end completion is posted (R302, R470), and it arrives at its barrier. A pass
that is discarded after it has ended (R307) replays without a second completion (DESIGN CHOICE, log entry 89). -/
def State.passEnd (s : State) : State :=
  match s.pass with
  | none => s
  | some p =>
    if s.rd F.keepPassStatState ≠ psRUNNING ∨ !(s.jobTiles.all fun t => decide (s.rd (F.tileStatState t) = stDone)) then s
    else
      ((s.energyEnd.wr F.keepPassStatState psENDED).postEnd p).arrive

/-- END (R109, R128): the tile issues nothing more and is Done when its last entry has retired. -/
def execEnd (t : Nat) (errs : List SpdErr) (s : State) : Host.Outcome State Fault Refusal :=
  .next ((s.issue t 3 errs (fun b => decide (b.sOp = 24)) fun _ _ _ s => s.modTile t fun x => { x with ended := true }).tryDone t).passEnd

/-- What an entry of the scoreboard still waits for (R70, R119, R186); a write entry waits for every gather entry of its range
too (R150). -/
def State.entryBusy (s : State) (t : Nat) (e : SbEntry) : Bool :=
  let x := s.tile t
  let gathered := writes e.acc && x.gather.any fun g => overlap (8 * g.word) 8 e.base (e.lenM1 + 1)
  if e.owner = 0 then
    let live := (x.mtx.running.any fun q => decide (q.serial = e.serial)) || (x.mtx.queued.any fun q => decide (q.serial = e.serial))
    live || gathered || (decide (3 < e.role) && x.mtx.blocks.any fun b => decide (b.serial = e.serial))
  else
    let eng := x.engine (e.owner - 1)
    let here (c : Option Chain) : Option Chain := match c with | some k => if k.serial = e.serial then some k else none | none => none
    match here eng.running, here eng.queued with
    | some c, _ => !(decide (e.role = 0) && decide (c.next = c.nDesc))
    | none, some _ => true
    | none, none => gathered
          || decide (e.role = 1) && x.gather.any fun g => decide (g.owner = e.owner) && decide (g.serial = e.serial)

/-- A scoreboard entry retires; the tile may be Done with it, and the pass may end. -/
def execScoreboardRetire (t k : Nat) (s : State) : Host.Outcome State Fault Refusal :=
  .next (match (s.tile t).sb[k]? with
    | some e =>
      if s.entryBusy t e then s else ((s.modTile t fun x => { x with sb := x.sb.eraseIdx k }).tryDone t).passEnd
    | none => s)

/-! ## Tile map in service (R36 to R39) -/

/-- Bad physical positions of a plane sector. -/
def State.bad (s : State) (sec : Nat) : List Nat := tget (fun _ => []) s.badPos sec

/-- Record a failure for the next rebuild of the tile map (R15). -/
def State.noteFail (s : State) (sec pos : Nat) : State :=
  if s.newFails.contains (sec, pos) then s else { s with newFails := s.newFails ++ [(sec, pos)] }

/-- A tile takes over a logical number: its scratchpad is clear but for the window regions that it receives, the words that the copy reads
uncorrectable marked as poisoned (`ue`: tile and word), its Scent slots empty, and its windows reopen (R39, R171, R211); its counts start
from 0 (R631). -/
def State.takeover (s : State) (ue : List (Nat × Nat)) (t : Nat) : State :=
  let s := s.clearCounts (ctrTile t 0) (ctrTile t 3)
  let keep := (s.parts t).filter fun p => decide (p.1 = kWindow)
  let x := s.tile t
  let outside (w : Nat) : Bool := !(keep.any fun p => decide (p.2.1 ≤ 8 * w) && decide (8 * w < p.2.1 + p.2.2))
  let s := s.setTile t
    { TileSt.reset with mem := x.mem.filter (fun p => !outside (p.1 / 8)), live := x.live.filter (fun p => !outside p.1),
                        poison := ue.foldl (fun m k => if k.1 = t ∧ !outside k.2 ∧ !x.fresh k.2 then tset unmarked m k.2 true else m)
                          (x.poison.filter fun p => !outside p.1), serial := x.serial }
  let s := [R.tileFault t, R.tileFaultAddr t, R.tileTallyLog t, R.tileSpdErr t, R.tileFeLast t 0, R.tileFeLast t 1].foldl
    (fun s a => s.setReg a (regReset s.variant a)) s
  (List.range 4).foldl (fun s n =>
    let st := s.rd (F.tileWinState t n)
    if st = 1 then
      let g := s.rd (F.tileWinGen t n)
      (s.wr (F.tileWinGen t n) (if g = 255 then 1 else g + 1)).modFab fun f => { f with winClosed := f.winClosed ++ [⟨1024 + 4 * t + n, g, s.now⟩] }
    else if st = 2 then
      (s.wr (F.tileWinState t n) 0).finish (fun w => decide (w = .tilewinClose t n)) sOK 0
    else s) s

/-- The shift remap of a tile in a whole sector (R36): every logical number from its position on moves up one column. -/
def State.remapTile (s : State) (ue : List (Nat × Nat)) (t : Nat) : State :=
  let sec := t / 20
  let pos := s.physPos t
  let s := (({ s with badPos := tset (fun _ => []) s.badPos sec (s.bad sec ++ [pos]), bypass := s.bypass ++ [(sec, pos)] } : State).noteFail sec pos)
  (List.range (20 - t % 20)).foldl (fun s i => s.takeover ue (t + i)) s

/-- The unused spare of a whole sector, a physical one, fails (R36): the sector becomes bare. That the failure is
reported with source 11 and the sector as its unit is the model's choice (log entry 90). -/
def State.spareFails (s : State) (u : Nat) : State :=
  let sec := planeSector (u / 160) (u % 160)
  if 1280 ≤ u ∨ !(s.bad sec).isEmpty then s
  else (({ s with badPos := tset (fun _ => []) s.badPos sec [20], bypass := s.bypass ++ [(sec, 20)] } : State).noteFail sec 20).faultLog
    11 1 2 u 0 0 R.keepPassStat

/-! ## Pass boundaries (R513) -/

/-- New leash tables take effect (R362): five reservations and, with them, the two targets. -/
def State.applyLeashes (s : State) : State :=
  let t := s.bound.leashes.foldl (fun (s : State) l => if 16 ≤ l.1 then s else
    (((List.range 5).foldl (fun s k => s.wr (F.keepLeashMbps (8 * l.1 + k)) (l.2.getD k 0)) s).wrs
      [(F.keepLatTgtSliceNs l.1, l.2.getD 5 0), (F.keepLatTgtHbmNs l.1, l.2.getD 6 0)]).latFollow s l.1) s
  if s.bound.leashes.isEmpty then s
  else (List.range 5).foldl (fun s c => (s.leashScaled c).rescale c)
    ({ t with bound := { t.bound with leashes := [] } }.fullCredits fun k => s.bound.leashes.any fun l => decide (k % 16 = l.1))

/-- Fields of KENNEL_SET (R470). -/
def kennelCtrl (w2 : Nat) : W64 := BitVec.ofNat 64 (1 + bf w2 0 2 * 2 + bf w2 2 1 * 8 + bf w2 3 4 * 16)

/-- A KENNEL_SET takes effect: the window of its tensor (R29, R263), and its completion. -/
def State.applyKennel (s : State) (e : Entry) : State :=
  match (s.job.bind fun j => j.tensors[bf e.w1.toNat 0 16]?), s.job with
  | some x, some _ =>
    match x.place with
    | some pl =>
      if 64 ≤ pl.kennel then s.complete e sINVALID_FIELD 0
      else
        let r := s.kennelWrite pl.kennel (s.reg (R.kenlRange pl.kennel)) (kennelCtrl e.w2.toNat)
        let eff := r.1.rd (F.kenlCtrlPersEff pl.kennel)
        let s := r.1.modJob fun j => { j with tensors := j.tensors.set (bf e.w1.toNat 0 16) { x with persEff := eff } }
        s.complete e (if r.2 then sOK else sPIN_CAP) eff
    | none => s.complete e sNOT_PLACED 0
  | _, _ => s.complete e sNOT_PLACED 0

/-- KENNEL_SET commands that wait for a boundary take effect. -/
def State.applyKennels (s : State) : State :=
  let ws := s.host.waits.filter fun w => decide (w.why = .kennel)
  let s := s.modHost fun h => { h with waits := h.waits.filter fun w => decide (w.why ≠ .kennel) }
  ws.foldl (fun s w => s.applyKennel w.e) s

/-- What waits for a pass boundary is applied, in order: bonds, remaps, lanes; then tables and operating points. -/
def State.boundary (s : State) (remaps : List Nat) (ue : List (Nat × Nat)) : State :=
  let s := s.repairBonds
  let s := remaps.foldl (fun s t => s.remapTile ue t) s
  s.startLanes.applyLeashes.applyKennels.oppFollow true

/-! ## Commit (R302 to R304) -/

/-- Slices with state. -/
def State.sliceIds (s : State) : List Nat := s.slices.map (·.1)

/-- Last-use marks that waited for a commit take effect (R264, R304 step 3). -/
def State.commitMarks (s : State) (mod epoch : Nat) : State :=
  s.sliceIds.foldl (fun s n =>
    (s.slice n).lines.foldl (fun s q =>
      if q.2.kind ≠ .cache then s
      else (List.range 8).foldl (fun s k =>
        let c := q.2.sec false k
        let own (g : Nat) : Bool := decide (s.rd (etModule n g) = mod) && decide (s.rd (etEpoch n g) = epoch)
        let mine := if c.etag = 0 then !s.uncommitted n q.2 else own c.etag
        if c.pendDrop ∧ mine then s.dropMark n (placeOf n (q.1 / 16) q.2.line k) else s) s) s) s

/-- The commit instant. -/
def State.commitNow (s : State) (p : Pass) (e : Entry) : State :=
  let ep := s.epoch
  let s := (s.wr F.keepPassStatState psCOMMITTING).moveEntries s.moduleId ep etOPEN etCOMMITTED
  let s := { s with commitEpoch := ep }
  let s := s.fab.dests.foldl (fun s d => s.sendNotice d nCommit ep) s
  let s := s.modFab fun f => { f with dests := [] }
  let sigs := s.heldSigs
  let s := { s with heldSigs := [] }
  let s := sigs.foldl (fun s h => s.request h.pkt none) s
  let s := s.commitMarks s.moduleId ep
  let s := if p.late then s.bump Ev.lateCommit .module 1 else s
  let s := ({ s with pass := none }.wr F.keepPassStatState psIDLE).complete e sOK ep
  (s.removeSlices.boundary [] []).snapBarrier.tryLaunch

/-- The commit (R302): of a pass that has ended, in fabric mode with the barrier complete, or alone where the pass was discarded after its arrival.
One with a request in doubt is to be discarded (R404). -/
def execCommitInstant (s : State) : Host.Outcome State Fault Refusal :=
  .next (match s.pass with
    | some p => match p.commit with
      | some e =>
        if s.rd F.keepPassStatState = psENDED ∧ (!p.fabric ∨ p.barrier ∨ p.late) ∧ !s.keep.restarting ∧ !s.fab.doubt.contains s.epoch then
          s.commitNow p e
        else s
      | none => s
    | none => s)

/-! ## Discard (R307, R308, R501, R502) -/

/-- Fault kinds a tile's record shows (R130). -/
def State.tileCause (s : State) (t : Nat) : Option Nat :=
  if s.on (F.tileFaultValid t) ∧ s.rd (F.tileStatState t) = stHalt then some (s.rd (F.tileFaultCause t)) else none

/-- A word of the tile returned an uncorrectable error in two launches of the pass number (R175). -/
def State.twiceBad (s : State) (t : Nat) : Bool :=
  (s.tile t).ueSeen.any fun a => (s.tile t).ueSeen.any fun b => decide (a.1 = b.1) && decide (a.2 ≠ b.2)

/-- The tile of a whole sector that waits for the spare of `t`'s sector, and comes after `t` in position order (R38). -/
def Pass.behind (p : Pass) (t : Nat) : Option Nat := p.remaps.find? fun u => decide (u / 20 = t / 20) && decide (t < u)

/-- A tile failure (R36, R38): in a whole sector with no other failure pending, a remap; else Job-fatal, cause 1. Of two failures of a whole
sector the first in position order takes the spare. -/
def State.tileFails (s : State) (p : Pass) (t : Nat) : Pass :=
  if p.remaps.contains t then p
  else if (s.bad (t / 20)).isEmpty ∧ !(p.remaps.any fun u => decide (u / 20 = t / 20)) then { p with remaps := p.remaps ++ [t] }
  else { p.fatalBy 1 with remaps := match p.behind t with | some u => p.remaps.map fun v => if v = u then t else v | none => p.remaps }

/-- A channel that holds a non-Twin tensor of the job is retired (R339). -/
def State.jobChannelLost (s : State) : Bool := (List.range 512).any fun n => s.chanRetired n && s.jobOnChan n

/-- A fault under the source code that R501 gives it: POISON of a word that was uncorrectable in two launches is code 5 (R502), and a
failure of a tile is code 11 with a spare for it and 12 without. -/
def State.sourced (s : State) (p : Pass) (f : FaultIn) : FaultIn :=
  if f.source = 4 ∧ f.unitKind ≠ 4 ∧ s.twiceBad f.unit then { f with source := 5 }
  else if f.source = 11 ∨ f.source = 12 then { f with source := if (s.tileFails { p with fatal := none } f.unit).fatal.isSome then 12 else 11 }
  else f

/-- A failure of a tile is recorded for the next build of the tile map (R15). -/
def State.noteTile (s : State) (f : FaultIn) : State :=
  if f.source = 5 ∨ f.source = 11 ∨ f.source = 12 then s.noteFail (f.unit / 20) (s.physPos f.unit) else s

/-- What a detected fault does to the pass (R501, R502): none where the fault named is not there. -/
def State.judge (s : State) (p : Pass) (f : FaultIn) : Option Pass :=
  let t := f.unit
  let again : Pass := p
  match f.source with
  | 0 => match s.tileCause t with
    | some c => if cMSEQ ≤ c then some { p with program := if p.program.isNone then some (c, t) else p.program } else none
    | none => none
  | 4 =>
    if f.unitKind = 4 then (if s.on (F.sliceErrUeValid t) ∧ s.rd (F.sliceErrUeSrc t) = 2 then some again else none)
    else if s.tileCause t = some cPOISON then
      if p.poisons = 0 then some { p with poisons := 1 } else some ({ p with poisons := p.poisons + 1 }.fatalBy 4)
    else none
  | 5 => if s.twiceBad t then some (s.tileFails { p with poisons := p.poisons + 1 } t) else none
  | 6 => if s.on (F.deckLinkErrUeValid (f.unit % 8)) then some again else none
  | 10 => if s.splits.isEmpty then none else some (p.fatalBy 3)
  | 11 | 12 => match s.tileCause t with
    | some c => if c ≤ cWDOG then some (s.tileFails p t) else none
    | none => none
  | 13 => if s.tileCause t = some cSTALL then
      if p.stalls.contains t then some { p with program := if p.program.isNone then some (cSTALL, t) else p.program }
      else some { p with stalls := p.stalls ++ [t] }
    else none
  | 15 => if (List.range 8).any fun d => (List.range 160).any fun n => s.sectorLost d n then some (p.fatalBy 8) else none
  | 17 => if s.jobChannelLost then some (p.fatalBy 9) else none
  | 20 => if s.fab.doubt.contains s.epoch then some again else none
  | 26 => if s.keep.hold.isSome ∧ p.fatal.isNone then some (p.fatalBy 7) else none
  | _ => none

/-- Register that the log record of a discard copies (R501). -/
def faultDetail (f : FaultIn) : Nat :=
  match f.source with
  | 0 | 4 | 11 | 12 | 13 => if f.unitKind = 4 then R.sliceErr f.unit else R.tileFault f.unit
  | 5 => R.tileSpdErr f.unit
  | 6 => R.deckLinkErr (f.unit % 8)
  | 10 => R.floorTwinLog (f.unit / 64)
  | 15 => R.deckBondLog (f.unit / 160)
  | 17 => R.hbmcChStat (f.unit / 16) (f.unit % 16)
  | 20 => R.linkErr f.unit
  | 26 => R.floorMapStat 0
  | _ => R.keepPassStat

/-- Requests whose packets were lost are outstanding no more: their engines give them up (DEDUCED, log entry 30). -/
def State.giveUpLost (s : State) : State :=
  (s.reqs.filter fun r => decide (r.stage = .lost)).foldl (fun s r =>
    match r.src with
    | .tile t n => s.deliver { r with status := stHALTED, data := [] } t n []
    | _ => s) s

/-- Step 1 of R308. -/
def State.beginDiscard (s : State) : State :=
  let s := s.wr F.keepPassStatState psDISCARDING
  let s := s.modPass fun p => { p with step := 1, late := p.late || p.arrived }
  (s.jobTiles.foldl (fun s t => (s.tileStop t).stopEngines t) s).giveUpLost

/-- Any discard of a non-replayable pass is Job-fatal, cause 2 (R301). JOB_CLOSE and a compute reset end the pass anyway (R474). -/
def State.nonrepFatal (s : State) (p : Pass) : State × Pass :=
  if s.on F.keepPassStatNonrep ∧ p.fatal.isNone ∧ !p.aborted then (s.faultLog 22 2 0 0 9 2 R.keepPassStat, p.fatalBy 2) else (s, p)

/-- A ninth launch of the pass is Job-fatal, cause 5 (R310). -/
def State.replayLimit (s : State) (p : Pass) : State × Pass :=
  if 8 ≤ p.launches ∧ p.fatal.isNone ∧ p.program.isNone ∧ !p.aborted then (s.faultLog 23 2 0 0 9 5 R.keepPassStat, p.fatalBy 5) else (s, p)

/-- The pass is to be discarded with the judgement `p`; a fault in a discard already begun joins it (R511). `own` is the judgement of this fault
alone, which gives its record its class and cause (R498). Sources 10, 15, 17, 20 and 26 were logged as they were detected. -/
def State.discardWith (s : State) (p own : Pass) (f : FaultIn) : State :=
  let cls := if own.fatal.isSome then 2 else if own.program.isSome then 0 else 1
  let cause := own.fatal.getD 0
  let action (q : Pass) : Nat := if q.fatal.isSome ∨ q.program.isSome then 9 else if q.remaps.isEmpty then 1 else 2
  let last := (s.replayLimit (s.nonrepFatal p).2).2
  let s := if f.source = 0 ∨ cls = 0 ∨ [10, 15, 17, 20, 26].contains f.source then s
    else s.faultLog f.source cls f.unitKind f.unit (action last) cause (faultDetail f)
  let (s, p) := s.nonrepFatal p
  let (s, p) := s.replayLimit p
  let s := { s with pass := some p }
  if p.step = 0 then s.beginDiscard else s.modPass fun p => { p with step := min p.step 3 }

/-- A pass in which nothing has failed yet. -/
def Pass.clean (p : Pass) : Pass := { p with fatal := none, program := none }

/-- The spare fails while a tile of its sector waits for it: that tile has failed in a bare sector (R36, R38). -/
def State.spareLost (s : State) (u : Nat) : State :=
  let sec := planeSector (u / 160) (u % 160)
  let whole := (s.bad sec).isEmpty
  let s := s.spareFails u
  match s.pass with
  | some p =>
    match p.remaps.find? fun t => decide (t / 20 = sec) with
    | some t =>
      if u < 1280 ∧ whole then
        let p := { p with remaps := p.remaps.filter fun v => decide (v ≠ t) }
        s.discardWith (p.fatalBy 1) (p.clean.fatalBy 1) ⟨12, 1, t⟩
      else s
    | none => s
  | none => s

/-- DISCARD: a detected fault discards the pass. Source 0 is a tile fault of kind Program (R500); source 11 or 12 at a tile that runs is its
CTRL parity error, found now (R130). The failure of a spare that no tile waits for discards nothing (R36). -/
def execDiscard (f : FaultIn) (s : State) : Host.Outcome State Fault Refusal :=
  .next (if f.source = 11 ∧ f.unitKind = 2 then s.spareLost f.unit else match s.pass with
    | none =>
      if s.job.isNone ∨ s.on F.keepFaultStatJobFatal ∨ s.keep.restarting then s
      else
        let c := match f.source with
          | 10 => if s.splits.isEmpty then none else some 3
          | 15 => if (List.range 8).any fun d => (List.range 160).any fun n => s.sectorLost d n then some 8 else none
          | 17 => if s.jobChannelLost then some 9 else none
          | 26 => if s.keep.hold.isSome then some 7 else none
          | _ => none
        match c with | some k => s.fatalJob k | none => s
    | some p =>
      if s.keep.restarting ∨ s.rd F.keepPassStatState = psCOMMITTING then s
      else
        let ctrl := (decide (f.source = 11) || decide (f.source = 12)) && decide (f.unitKind = 1) && s.jobTiles.contains f.unit && s.running f.unit
        let s := if ctrl then s.tileFault f.unit ⟨cCTRL, 6, 0⟩ 0 (s.tile f.unit).pc else s
        let f := s.sourced p f
        match s.judge p f with
        | some q =>
          let own := (s.judge p.clean f).getD q
          let s := s.noteTile f
          match (if f.source = 11 ∨ f.source = 12 then p.behind f.unit else none) with
          | some u => (s.faultLog 11 1 f.unitKind f.unit 2 0 (faultDetail f)).discardWith q (p.clean.fatalBy 1) { f with source := 12, unit := u }
          | none => s.discardWith q own f
        | none => s)

/-- Every engine of the job is idle, and no packet of the epoch is in flight (R308 step 2). -/
def State.enginesIdle (s : State) : Bool :=
  s.jobTiles.all (fun t => (s.tile t).fe0.running.isNone && (s.tile t).fe1.running.isNone)
    && !(s.fab.awaits.any fun a => a.req.isSome && decide (a.pkt.epoch = s.epoch))
    && !(s.fab.calls.any fun c => decide (c.pkt.src = s.moduleId) && decide (c.pkt.epoch = s.epoch))

/-- Steps 2 to 4 of R308: the engines are idle and no packet in doubt is alive; abort notices leave, held Signals go, and every entry of the
epoch is Dropping. -/
def execDiscardEnginesIdle (s : State) : Host.Outcome State Fault Refusal :=
  .next (match s.pass with
    | none => s
    | some p =>
      if p.step ≠ 1 ∨ !s.enginesIdle ∨ s.fab.doubt.contains s.epoch ∨ s.keep.restarting then s
      else
        let ds := s.fab.dests
        let s := ds.foldl (fun s d => (s.sendNotice d nAbort s.epoch).bump Ev.abortSent .module 1) s
        let s := (s.modFab fun f => { f with dests := [] }).moveEntries s.moduleId s.epoch etOPEN etDROPPING
        { s with heldSigs := [], pass := some { p with step := 3, acks := ds } })

/-- The in-doubt request's life has passed: its packets are alive no more (R404). -/
def execInDoubtHoldEnd (s : State) : Host.Outcome State Fault Refusal :=
  .next (s.modFab fun f => { f with doubt := [] })

/-- An abort notice stays unacknowledged for 1 ms (R308 step 5): Job-fatal, cause 6. A compute reset waits no longer (R543). -/
def execAbortAckTimeout (s : State) : Host.Outcome State Fault Refusal :=
  .next (match s.pass with
    | none => s
    | some p =>
      if p.step = 3 ∧ !p.acks.isEmpty ∧ s.boot.reset.isSome then { s with pass := some { p with acks := [] } }
      else if p.step = 3 ∧ !p.acks.isEmpty then
        { s.faultLog 24 2 0 0 9 6 R.keepPassStat with pass := some { p.fatalBy 6 with acks := [] } }
      else s)

/-- The scratchpad actions of R158 on a tile. -/
def State.discardTile (s : State) (g : StageSt) (t : Nat) : State :=
  let bufs := (s.parts t).filter fun p => decide (p.1 = kBuffer)
  let s := (s.tileClear t).modTile t fun x =>
    bufs.foldl (fun (x : TileSt) p => x.freshen (p.2.1 / 8) (p.2.2 / 8)) { x with near := [], reload := [] }
  s.loadInstr t g

/-- The discard ends without a replay (R308 step 7). -/
def State.endDiscard (s : State) (p : Pass) : State :=
  match p.fatal with
  | some c => s.fatalJob c
  | none =>
    let s := s.wr F.keepPassStatState psIDLE
    match p.program with
    | some (c, t) => (s.dropPass sPASS_FAULT (c % 32 + t % 2 ^ 15 * 2 ^ 8 + s.epoch * 2 ^ 32)).snapBarrier
    | none => s.dropPass sABORTED 0

/-- Step 6 of R308 and, without a replay, step 7; a load that reads poison is Job-fatal, cause 4 (R503), `bad` for an instruction region.
A Job-fatal discard ends after step 5 (R518), at a pass boundary. -/
def State.acksComplete (s : State) (p : Pass) (bad : Bool) (ue : List (Nat × Nat)) : State :=
  let (s, p) := s.nonrepFatal p
  if p.fatal.isSome then ({ s with pass := some p } : State).boundary [] [] |>.endDiscard p else
  let s := s.boundary p.remaps ue
  let p : Pass := { p with fatal := s.pass.bind (·.fatal) }
  let s := s.stages.foldl (fun s g => (stageTiles g).foldl (fun s t => s.discardTile g t.1) s) s
  let r := if p.aborted then (s, true) else s.loadResidents fun _ _ => true
  let ok := r.2 && !(bad && !p.aborted)
  let s := if ok then r.1 else r.1.poisonLoad
  let p := if ok then p else p.fatalBy 4
  if p.fatal.isSome ∨ p.program.isSome ∨ p.aborted then { s with pass := some p }.endDiscard p
  else { s with pass := some { p with step := 6, replay := true, remaps := [] } }

/-- Every abort is acknowledged and every drop walk is complete. -/
def State.acksDone (s : State) (p : Pass) : Bool :=
  decide (p.step = 3) && p.acks.isEmpty && !s.marksLeft s.moduleId s.epoch [etOPEN, etDROPPING] && !s.keep.restarting

/-- Step 7 of R308: the replay is a new launch of the same pass number, with the loads that a scrub asks of it since step 6 (R175). -/
def execReplayLaunch (poison : Bool) (s : State) : Host.Outcome State Fault Refusal :=
  .next (match s.pass with
    | none => s
    | some p =>
      if p.step ≠ 6 ∨ s.keep.restarting ∨ s.retraining then s
      else
        let r := s.launchLoads false poison
        let s := s.jobTiles.foldl (fun s t => s.modTile t fun x => { x with reload := [] }) r.1
        if r.2 then (s.bump Ev.passReplay .module 1).launchAll else s.poisonLoad.endDiscard (p.fatalBy 4))

end Sys2Proof.Machine
end

