-- ==== Sys2Proof/Machine/Replies.lean ====
section
/-! DEFINITION. Requests on their way: mesh requests at their target tile (R146, R219, R224, R225), requests at the slices through the
shafts (R226 to R231), replies (R198, R209, R160), and the remote descriptors (R188, R190, R197, R299). -/

namespace Sys2Proof.Machine

/-- A mesh request is on its way to its target tile, or its reply back, along the fixed route (R220). -/
def State.meshPath (s : State) (r : Req) (back : Bool) (tr : Transit) : State × Option Req :=
  match r.src with
  | .tile t _ =>
    if back then s.reqPath t 0 (s.route (s.meshGrid r.tgt) (s.meshGrid t)) tr r
    else s.reqPath r.tgt 0 (s.route (s.meshGrid t) (s.meshGrid r.tgt)) tr r
  | _ => (s, some r)

/-- A request of a tile comes down its shaft; a packet's comes over the ring from its port die. It does so once, however long it then waits at
the slice. -/
def State.downShaft (s : State) (tr : Transit) (r : Req) : State × Option Req :=
  let r' := { r with down := true }
  if r.down then (s, some r)
  else match r.src with
  | .tile t _ => s.reqPath t 1 [] tr r'
  | _ => match s.fab.landings.find? (fun l => decide (l.id = r.chain)) with
    | some l => (s.crossRing (linkFloor l.link) (r.tgt / 64) r.collar (effLevel r.collar 0 (s.reqBark r)) r.data.length, some r')
    | none => (s, some r')

/-! ## At the slices -/

/-- Requests enter the input of slice `n`, request `i` last; it is served by `f` if the arbiter's order has it next (R358). -/
def State.arriveSlice (s : State) (n i : Nat) (kinds : List ReqKind) (tr : Transit) (here : List Nat) (f : State → Req → Loc → State) : State :=
  let s := s.enter n (here ++ [i])
  match s.atSlice n i kinds with
  | some (r, p) =>
    let lv := s.reqLevel n r
    match s.downShaft tr r with
    | (s, some r) =>
      let s := f (s.setReq r) r p
      (if s.stillThere i then s else s.serve (sliceArb n) (.slice n) r.collar lv r.bytes r.src).startDrops
    | (s, none) => s
  | none => s

def execSliceRead (n i : Nat) (tr : Transit) (here : List Nat) (dec : SliceDec) (s : State) : Host.Outcome State Fault Refusal :=
  .next (s.arriveSlice n i [.memRead, .nearFill] tr here fun s r p => s.doRead n p r dec)

def execSliceWrite (n i : Nat) (tr : Transit) (here : List Nat) (dec : SliceDec) (s : State) : Host.Outcome State Fault Refusal :=
  .next (s.arriveSlice n i [.memWrite] tr here fun s r p => (s.decodeBase n p seRMW dec).doWrite n p r dec)

def execSliceFold (n i : Nat) (tr : Transit) (here : List Nat) (dec : SliceDec) (s : State) : Host.Outcome State Fault Refusal :=
  .next (s.arriveSlice n i [.memFold] tr here fun s r p => (s.decodeBase n p seFOLD dec).doFold n p r dec)

/-- A Scent probe (R209, R257): the zero bit of a valid sector, else unknown. A side-line makes it unknown (DEDUCED, log entry 25).
A probe counts as a last use (R212). -/
def execScentProbe (n i : Nat) (tr : Transit) (here : List Nat) (s : State) : Host.Outcome State Fault Refusal :=
  .next (s.arriveSlice n i [.probe] tr here fun s r p =>
    let s := s.mergeFlush n p.set p.line p.sector
    let z := match s.baseSec n p with | some (_, c) => c.valid && c.zero && !c.side | none => false
    (s.setReq { r with stage := .reply, zero := z, status := 0 }).when z fun s => s.lastUse n p r)

/-! ## At a target tile -/

/-- The packets of two mesh requests, or of their replies, share a virtual channel between the same two tiles (R222). -/
def sameChannel (q r : Req) : Bool :=
  (decide (q.kind = .meshRead) || decide (q.kind = .meshWrite)) && decide (q.stage = r.stage) && decide (q.tgt = r.tgt)
    && decide (q.collar < 8) == decide (r.collar < 8)
    && (match q.src, r.src with | .tile a _, .tile b _ => decide (a = b) | _, _ => false)

/-- Packets of one tile to another on one virtual channel arrive in the order sent (R224). The target serves a channel's requests in that
order, and so it sends the replies. -/
def State.meshNext (s : State) (r : Req) : Bool := (s.reqs.takeWhile fun q => decide (q.id ≠ r.id)).all fun q => !sameChannel q r

/-- A refused access leaves the target as it was, which counts it (R146). -/
def State.meshRefuse (s : State) (r : Req) : State :=
  (s.bump Ev.spdRemoteRefuse (.tile r.tgt) 1).setReq { r with stage := .reply, status := 1, data := [] }

/-- A mesh request arrives at its target tile and is served by `f`; a gated bay powers up first (R576). -/
def State.arriveMesh (s : State) (i : Nat) (kind : ReqKind) (kinds : List Nat) (tr : Transit) (f : State → Req → State) : State :=
  match s.req i with
  | none => s
  | some r =>
    if r.kind ≠ kind ∨ r.stage ≠ .toTarget ∨ !s.meshNext r ∨ s.mapHeld then s
    else if s.bayGated (bayOf r.tgt) then s.needBay r.tgt
    else match s.meshPath r false tr with
      | (s, none) => s
      | (s, some r) =>
        if r.segs.all fun g => s.spdAllowed r.tgt (r.addr + g.off) g.len kinds then f s r else s.meshRefuse r

def execMeshReadRequest (i : Nat) (tr : Transit) (errs : List SpdErr) (s : State) : Host.Outcome State Fault Refusal :=
  .next (s.arriveMesh i .meshRead meshRead tr fun s r =>
    let (s, bs) := r.segs.foldl (fun (acc : State × List PB) g =>
      let (s, bs) := acc.1.spdRead r.tgt (r.addr + g.off) g.len 2 errs
      (s, acc.2 ++ bs)) (s, [])
    s.setReq { r with stage := .reply, status := 0, data := bs })

def execMeshWrite (i : Nat) (tr : Transit) (errs : List SpdErr) (s : State) : Host.Outcome State Fault Refusal :=
  .next (s.arriveMesh i .meshWrite meshWriteK tr fun s r =>
    let s := (r.segs.foldl (fun (acc : State × List PB) g =>
      (acc.1.spdWrite r.tgt (r.addr + g.off) (acc.2.take g.len) 4 0 errs, acc.2.drop g.len)) (s, r.data)).1
    s.setReq { r with stage := .reply, status := 0, data := [] })

/-! ## Remote operations (R188, R190, R197) -/

/-- A packet of a tile's descriptor. -/
def State.remPkt (s : State) (t n : Nat) (d : List W64) (typ offset : Nat) (data : List PB) : Packet :=
  { winPkt (dWin d).toNat (offset % 2 ^ 40) data (dCollar d) s.markEpoch with
      typ := typ, src := s.moduleId, etype := if typ = pFOLD then dEtype d else 0, doorbell := dDoorbell d, reqTile := t, reqEngine := n }

/-- A packet of an engine goes down its shaft and over the ring to its port die (R197, R231); lost there, its request waits for a RESP in vain. -/
def State.descend (s : State) (p : Packet) (id : Nat) (tr : Transit) : State :=
  match s.pktPath p.reqTile 1 0 tr p with
  | (s, some p) =>
    let s := match s.routeOf (s.ownPort p) p.dst with
      | some l => s.crossRing (tileDie p.reqTile) (linkFloor l) p.collar (effLevel p.collar 0 0) p.data.length
      | none => s
    s.request p (some id)
  | (s, none) => match s.req id with
    | some r => s.setReq { r with stage := .lost }
    | none => s

/-- Pieces of a run of data for a window: offset, place in the walk, bytes, a multiple of 8 (R397). What a packet writes does not cross a
2 KiB boundary of the window offset; `x` is 2 for a BF16 Fold, whose target is twice its data. Its 8 bytes of data at 8 bytes before a
boundary cannot be divided (log entry 31). -/
def remCut (x : Nat) : Nat → Nat → Nat → Nat → List WPiece
  | 0, _, _, _ => []
  | fuel + 1, addr, walk, len =>
    if len = 0 then []
    else
      let n := min len (max 8 ((2048 - addr % 2048) / x / 8 * 8))
      ⟨addr, walk, n⟩ :: remCut x fuel (addr + x * n) (walk + n) (len - n)

/-- Combine consecutive runs that meet within a 256-byte sector of the window (R197): a packet writes one range, so runs with a gap between
them stay apart (DEDUCED, log entry 31). -/
def joinRuns (x : Nat) : List WPiece → List WPiece
  | [] => []
  | p :: ps =>
    match joinRuns x ps with
    | q :: r => if p.addr + x * p.len = q.addr ∧ q.addr % 256 ≠ 0 then ⟨p.addr, p.walk, p.len + q.len⟩ :: r else p :: q :: r
    | [] => [p]

/-- The runs of a walk as pieces, `len` bytes each. -/
def runsAt (len : Nat) : Nat → List Nat → List WPiece
  | _, [] => []
  | walk, a :: as_ => ⟨a, walk, len⟩ :: runsAt len (walk + len) as_

/-- The packets of all runs. -/
def remCuts (x len walk : Nat) (as_ : List Nat) : List WPiece :=
  (joinRuns x (runsAt len walk as_)).flatMap fun p => remCut x (p.len / 8 + 2) p.addr p.walk p.len

/-- A request that stands for a packet. -/
def State.remReq (s : State) (t n : Nat) (c : Chain) (d : List W64) (idx : Nat) : Req :=
  s.mkReq t n c d idx .remote 0 0 [] []

/-- Send a packet of a descriptor with a request that its RESP answers, or keep it until an index is free. -/
def State.sendPacket (s : State) (t n : Nat) (c : Chain) (d : List W64) (idx : Nat) (p : Packet) (tr : Transit) : State :=
  let id := s.nextReq
  let s := s.issueReq t n (s.remReq t n c d idx)
  match s.req id with
  | some r =>
    if r.stage = .unsent then s.modFab fun f => { f with awaits := f.awaits ++ [⟨p, some id, s.now, some tr⟩] }
    else s.descend { p with reqTag := r.tag } id tr
  | none => s

/-- Send packets of a descriptor in order; `trs` is what each meets on its way down the shaft. -/
def State.sendAll (s : State) (t n : Nat) (c : Chain) (d : List W64) (idx : Nat) (ps : List Packet) (trs : List Transit) : State :=
  (ps.zip (List.range ps.length)).foldl (fun s p => s.sendPacket t n c d idx p.1 (trs.getD p.2 .clean)) s

/-- An engine's first waiting request leaves, behind every request that has been sent before (R224, R230). -/
def State.sendFirst (s : State) (t n : Nat) : State :=
  match s.reqs.find? fun r => r.from t n && decide (r.stage = .unsent) with
  | none => s
  | some r => match s.sendTag t n r with
    | none => s
    | some k =>
      let q := s.departing r k
      let s := { s.dropReq r.id with reqs := (s.dropReq r.id).reqs ++ [q] }
      if r.kind = .remote then
        match s.fab.awaits.find? fun a => decide (a.req = some r.id) && a.waiting.isSome with
        | some a => (s.modFab fun f => { f with awaits := f.awaits.erase a }).descend { a.pkt with reqTag := k } r.id (a.waiting.getD .clean)
        | none => s
      else s

/-- Waiting requests of a tile's engines leave as far as there are indices. -/
def State.sendWaiting (s : State) (t : Nat) : State :=
  (List.range 64).foldl (fun s _ => (s.sendFirst t 0).sendFirst t 1) s

/-- A DEPOSIT or RFOLD begins. -/
def State.beginRemote (s : State) (t n : Nat) (c : Chain) (d : List W64) (idx typ : Nat) (errs : List SpdErr)
    (trs : List Transit) : State :=
  let (s, data) := s.capture t n d errs
  let x := if typ = pFOLD ∧ dEtype d = 1 then 2 else 1
  let ps := remCuts x (outLen d) 0 ((farRuns d).map fun a => (a % 2 ^ 40).toNat)
  s.sendAll t n c d idx (ps.map fun p => s.remPkt t n d typ p.addr ((data.drop p.walk).take p.len)) trs

/-- The slice that holds the Signals of a tile's sector (R299; log entry 96). -/
def State.holdAt (s : State) (t : Nat) : Nat := 64 * tileDie t + Config.holdSlice (160 * tileDie t + s.shaftSector t) % s.variant.chansPerFloor

/-- A descriptor that was opened is put back: it begins again later. -/
def State.reopenDesc (s : State) (t n idx : Nat) : State :=
  s.modChain t n fun c => { c with next := c.next - 1, descs := c.descs.filter fun d => decide (d.idx ≠ idx) }

/-- A SIGNAL begins: in a pass it enters a hold line and is complete (R202, R299). Without one it is unprotected and leaves at once (R300). While
the victim of a new hold line is written back (R328) it does not begin. -/
def State.beginSignal (s : State) (t n : Nat) (c : Chain) (d : List W64) (idx : Nat) (trs : List Transit) : State :=
  let p := s.remPkt t n d pSIGNAL (dDst d) (pbOf 8 (dSrc d) false)
  if s.pass.isSome then
    let s := if p.dst ≠ s.moduleId ∧ !s.fab.dests.contains p.dst then s.modFab fun f => { f with dests := f.dests ++ [p.dst] } else s
    match s.holdRoom (s.holdAt t) s.epoch (dCollar d) with
    | (s, .at_ set way) => { s with heldSigs := s.heldSigs ++ [⟨{ p with reqKind := 3 }, s.holdAt t, set, way⟩] }
    | (s, .later) => s.reopenDesc t n idx
    | (s, .none_ kind) => (s.unprotected (s.holdAt t) kind (s.remReq t n c d idx)).1.sendAll t n c d idx [p] trs
  else s.sendAll t n c d idx [p] trs

/-- A CALL begins: its packet holds the return window word and the return offset (R397). -/
def State.beginCall (s : State) (t n : Nat) (c : Chain) (d : List W64) (idx : Nat) (trs : List Transit) : State :=
  let p := s.remPkt t n d pCALL (dSrc d) (pbOf 8 (dRetWin d).toNat false ++ pbOf 8 (dDst d) false)
  s.sendAll t n c d idx [{ p with lenM1 := dRun d - 1 }] trs

def execDeposit (t n : Nat) (errs : List SpdErr) (trs : List Transit) (s : State) : Host.Outcome State Fault Refusal :=
  .next (s.beginDesc t n [6] errs fun s c d i _ => s.beginRemote t n c d i pDEPOSIT errs trs)

def execRfold (t n : Nat) (errs : List SpdErr) (trs : List Transit) (s : State) : Host.Outcome State Fault Refusal :=
  .next (s.beginDesc t n [7] errs fun s c d i _ => s.beginRemote t n c d i pFOLD errs trs)

def execSignal (t n : Nat) (errs : List SpdErr) (trs : List Transit) (s : State) : Host.Outcome State Fault Refusal :=
  .next (s.beginDesc t n [8] errs fun s c d i _ => s.beginSignal t n c d i trs)

def execCall (t n : Nat) (errs : List SpdErr) (trs : List Transit) (s : State) : Host.Outcome State Fault Refusal :=
  .next (s.beginDesc t n [9] errs fun s c d i _ => s.beginCall t n c d i trs)

/-! ## Replies at the engine -/

/-- A request goes over the mesh. -/
def ReqKind.mesh (k : ReqKind) : Bool := decide (k = .meshRead) || decide (k = .meshWrite)

/-- A reply passes its path to engine `n` of tile `t`: the mesh, or the shaft upward. -/
def State.replyPath (s : State) (t : Nat) (tr : Transit) (r : Req) : State × Option Req :=
  if r.kind.mesh then s.meshPath r true tr else s.reqPath t 2 [] tr r

/-- The words of the descriptor that a request serves. -/
def State.descWords (s : State) (t n : Nat) (r : Req) : Option (List W64) :=
  (s.chain t n).bind fun c => (c.descs.find? fun d => decide (d.idx = r.desc)).map (·.words)

/-- A reply is at its engine: it passes its path, next on its channel, and `f` takes it; requests that waited for an index then leave. -/
def State.replyAt (s : State) (i : Nat) (p : Req → Bool) (tr : Transit) (f : State → Req → Nat → Nat → State) : State :=
  match s.req i with
  | none => s
  | some r => match r.src with
    | .tile t n =>
      if r.stage ≠ .reply ∨ !p r ∨ (r.kind.mesh && !s.meshNext r) = true then s
      else match s.replyPath t tr r with
        | (s, some r) => (f (s.setReq r) r t n).sendWaiting t
        | (s, none) => s
    | _ => s

/-- A reply lands at its engine (R198, R204). Blocks of 256 bytes read as usual that are all zero count as waste where Scent acts (R209). -/
def execFetchReply (i : Nat) (tr : Transit) (errs : List SpdErr) (s : State) : Host.Outcome State Fault Refusal :=
  .next (s.replyAt i (fun r => decide (r.kind ≠ .probe) && !(decide (r.kind = .nearFill) && r.late)) tr fun s r t n =>
    let scent := match s.descWords t n r with | some d => s.scentOn t d | none => false
    let waste := scent && decide (r.kind = .memRead) && !r.late && decide (r.status = 0) && r.data.all fun b => decide (b.b = 0) && !b.p
    (if waste then s.bump Ev.scentWaste (.tile t) r.segs.length else s).deliver r t n errs)

/-- A probe's reply (R209): zeros are written, or the block is read late, by a request behind those sent meanwhile. -/
def execScentProbeReply (i : Nat) (tr : Transit) (errs : List SpdErr) (s : State) : Host.Outcome State Fault Refusal :=
  .next (s.replyAt i (fun r => decide (r.kind = .probe)) tr fun s r t n =>
    if r.status ≠ 0 then s.deliver r t n errs
    else if r.zero then
      (s.bump Ev.scentSkip (.tile t) r.segs.length).deliver { r with data := List.replicate (r.segs.map (·.len)).sum ⟨0, false⟩ } t n errs
    else
      let q := s.departing { r with kind := .memRead, late := true } r.tag
      let s := (s.bump Ev.scentLate (.tile t) r.segs.length).dropReq r.id
      { s with reqs := s.reqs ++ [q] })

/-- A near-cache line fill lands (R160, R163): it takes a way unless it failed or holds poison, and the lookups that wait for it are
served. -/
def execNearCacheFill (i : Nat) (tr : Transit) (errs : List SpdErr) (s : State) : Host.Outcome State Fault Refusal :=
  .next (s.replyAt i (fun r => decide (r.kind = .nearFill) && r.late) tr fun s r t _ =>
    let s := s.dropReq r.id
    let line := r.addr / 128
    let s := if r.status ≠ 0 ∨ anyPois r.data ∨ s.nearSets t = 0 then s
      else
        let set := line % s.nearSets t
        let way := (s.tile t).nearVictim set
        (s.spdWrite t (s.nearAddr t line way) r.data 4 0 errs).nearTouch t (nearKey set way) line
    { s with reqs := s.reqs.map fun q =>
        let mine : Bool := match q.src with | .tile u _ => decide (u = t) | _ => false
        if q.kind = .nearFill ∧ q.stage = .waitFill ∧ q.addr = r.addr ∧ mine then
          { q with stage := .reply, status := r.status, data := if r.status ≠ 0 then [] else q.segs.flatMap fun g => (r.data.drop g.off).take g.len }
        else q })

end Sys2Proof.Machine
end

