-- ==== Sys2Proof/Machine/LinkRows.lean ====
section
/-! DEFINITION. The link layer's rows (R381 to R395): flits received, acknowledgement, naks, credits, states and training, fence holds. -/

namespace Sys2Proof.Machine

/-! ## Sending -/

/-- Send a control flit (R383, R386). -/
def State.sendCtl (s : State) (l : Nat) (nak : Bool) : State :=
  let seq := s.rd (F.linkStatTxSeq l)
  s.modLink l fun x => x.sends seq nak none

/-- Enter Retraining (R392, R394): flits are held and the sequence state stays. -/
def State.startRetrain (s : State) (l : Nat) (widen : Bool) : State :=
  if s.rd (F.linkStatState l) ≠ lkUp then s
  else
    let s := (s.wr (F.linkStatState l) lkRetrain).modLink l fun x => { x with widen := widen, since := s.now, naks := 0 }
    ((s.bump Ev.linkRetrain (.link l) 1).satAdd (F.linkErrcntRetrains l) 1).notice 10 sOK (l + lkRetrain * 2 ^ 6)

/-! ## Acknowledgement and replay (R386 to R388) -/

/-- A sequence number is covered by an ack_seq. -/
def covered (ack q : Nat) : Bool := decide ((ack + 4096 - q) % 4096 < 2048)

/-- Take an ack_seq. -/
def State.takeAck (s : State) (l ack : Nat) : State :=
  let s := s.modLink l fun x => { x with replay := x.replay.filter fun r => !covered ack r.1, naks := if s.rd (F.linkStatAckSeq l) = ack then x.naks else 0 }
  s.wr (F.linkStatAckSeq l) ack

/-- Send again every unacknowledged flit (R387). -/
def State.replay (s : State) (l : Nat) : State :=
  let n := (s.link l).replay.length
  let s := ((s.bump Ev.linkReplay (.link l) 1).satAdd (F.linkErrcntReplays l) 1).modLink l LinkSt.resend
  if n = 0 then s else s.bump Ev.linkFlitsTx (.link l) n

/-- A nak (R387): replay; the sixteenth in a row with one ack_seq starts a retrain (R388). -/
def State.takeNak (s : State) (l : Nat) : State :=
  let s := (s.modLink l fun x => { x with naks := x.naks + 1 }).replay l
  if 16 ≤ (s.link l).naks then (s.linkErr l 2 (s.rd (F.linkStatAckSeq l)) 0).startRetrain l false else s

/-- Take a credit total (R390): its difference from the total before, modulo 1,024. -/
def State.takeCredit (s : State) (l pool total : Nat) : State :=
  s.modLink l fun x =>
    let old := x.freed.getD pool 0
    { x with freed := x.freed.set pool (old + (total + 1024 - old % 1024) % 1024) }

/-! ## Receiving -/

/-- Bark level of a buffer (R366): a level is raised at 50, 75 and 90 % of its fill, and drops 10 points below. -/
def barkLevel (old used cap : Nat) : Nat :=
  let at_ (a b c : Nat) : Nat := if c * cap ≤ 100 * used then 3 else if b * cap ≤ 100 * used then 2 else if a * cap ≤ 100 * used then 1 else 0
  max (at_ 50 75 90) (min old (at_ 40 65 80))

/-- The bark of a link's receive buffer follows its fill, the highest of the pools on lanes 0, 1, 2, 3 and 5 (R391). -/
def State.barkLink (s : State) (l : Nat) : State :=
  let old := s.rd (barkFld l)
  s.wr (barkFld l) ([0, 1, 2, 3, 8, 5].foldl (fun m p => max m (barkLevel old ((s.link l).used.getD p 0) (poolSize p))) 0)

/-- Buffers of a pool are free again. -/
def LinkSt.freeBufs (x : LinkSt) (pool n : Nat) : LinkSt := { x with used := x.used.set pool (x.used.getD pool 0 - n), freedTx := addAt x.freedTx pool n }

/-- A management packet of a reserved kind (R538). -/
def mgmtReserved (p : Packet) : Bool :=
  decide (p.typ = pMGMT) && (match p.mgmt with | some h => decide (h.kind = 0) || decide (4 < h.kind) | none => false)

/-- A packet is received whole: a malformed one is discarded (R397), and so is a management packet of a reserved kind (R538); any other
waits to be served. -/
def State.wholePacket (s : State) (l pool : Nat) (part : RxPart) : State :=
  let p := Packet.ofWords part.words part.poison
  if p.formOk ∧ mgmtReserved p then (s.modLink l fun x => x.freeBufs pool part.flits).barkLink l
  else if p.formOk then s.modFab fun f => { f with inbox := f.inbox ++ [⟨l, p, part.flits⟩] }
  else (((s.bump Ev.fabMalformed .module 1).faultLog 20 1 7 l 0 0 (R.linkErr l)).modLink l fun x => x.freeBufs pool part.flits).barkLink l

/-- Accept a data flit's body: its words join those of its pool's packet (R385). Lanes 6 and 7 carry nothing (R389). -/
def State.takeBody (s : State) (l : Nat) (f : Flit) : State :=
  let pool := if f.vl = 3 ∧ f.rpool then 8 else f.vl
  if poolSize pool = 0 then s
  else
    let old : RxPart := match (s.link l).part.find? (fun r => decide (r.pool = pool)) with
      | some r => if f.sop then ⟨pool, [], [], 0⟩ else r
      | none => ⟨pool, [], [], 0⟩
    let n := old.words.length
    let part : RxPart :=
      { old with words := old.words ++ f.body, flits := old.flits + 1,
                 poison := old.poison ++ ((List.range f.body.length).filter fun i => f.poison.getLsbD i).map (· + n) }
    let s := s.modLink l fun x =>
      { x with used := addAt x.used pool 1, part := (x.part.filter fun r => decide (r.pool ≠ pool)) ++ (if f.eop then [] else [part]) }
    let s := s.barkLink l
    if f.eop then s.wholePacket l pool part else s

/-- A flit whose CRC passes (R386). -/
def State.goodFlit (s : State) (l : Nat) (f : Flit) : State :=
  let s := (s.takeAck l f.ackSeq).takeCredit l (if f.crVl = 3 ∧ f.crRpool then 8 else f.crVl) f.crTotal
  let s := if f.nak then s.takeNak l else s
  let s := if f.ctl ∨ f.seq ≠ (s.link l).rxNext then s
    else ((s.bump Ev.linkFlitsRx (.link l) 1).modLink l fun x => { x with rxNext := (x.rxNext + 1) % 4096, gap := false }).takeBody l f
  s.pump l

/-- A flit that fails (R386): a data flit asks for replay; a control flit costs nothing. -/
def State.badFlit (s : State) (l : Nat) (f : Flit) (fec : FecIn) : State :=
  let s := s.bump Ev.linkCrcErr (.link l) 1
  let s := s.linkErr l (if fec.flagged then 1 else 0) (if f.ctl then 0 else f.seq) fec.lanes
  if f.ctl then s else (s.modLink l fun x => { x with gap := true }).sendCtl l true

/-- Symbol errors of a lane in 1 ms beyond which R395 leaves it out: 1 in 10^4 of its 10-bit FEC symbols at 212.5 Gb/s (R380). -/
def symLimit : Nat := 2125

/-- Symbol errors by lane in the current ms; a lane with too many is left out at the next retrain (R395). -/
def LinkSt.symbols (x : LinkSt) (ms : Nat) (es : List Nat) : LinkSt :=
  let ns := (List.range 4).map fun i => es.getD i 0 + if x.symMs.1 = ms then x.symMs.2.getD i 0 else 0
  { x with symMs := (ms, ns), noisy := (List.range 4).foldl (fun m i => if symLimit < ns.getD i 0 then m ||| 2 ^ i else m) x.noisy }

/-- What the FEC reports (R381, R392, R395): more than 1,000 flagged codewords in one ms start a retrain. -/
def State.fec (s : State) (l : Nat) (fec : FecIn) : State :=
  let s := if fec.ceSym = 0 then s else (s.bump Ev.linkFecCe (.link l) fec.ceSym).satAdd (F.linkErrcntFecCeSym l) fec.ceSym
  let ms := s.now / 1000000
  let s := if fec.laneSym.all fun n => decide (n = 0) then s else s.modLink l fun x => x.symbols ms fec.laneSym
  if !fec.flagged ∨ fec.ueCw = 0 then s
  else
    let s := (s.bump Ev.linkFecUe (.link l) fec.ueCw).satAdd (F.linkErrcntFecUeCw l) fec.ueCw
    s.modLink l fun x => { x with ueMs := (ms, if x.ueMs.1 = ms then x.ueMs.2 + fec.ueCw else fec.ueCw) }

def execLinkFlitReceive (l : Nat) (f : Flit) (fec : FecIn) (s : State) : Host.Outcome State Fault Refusal :=
  .next (if !s.linkExists l ∨ s.rd (F.linkStatState l) ≠ lkUp then s
    else
      let s := s.fec l fec
      let s := if fec.flagged ∨ !f.crcOk then s.badFlit l f fec else s.goodFlit l f
      if 1000 < (s.link l).ueMs.2 ∧ fec.flagged then s.startRetrain l false else s)

def execNakRepeat (l : Nat) (s : State) : Host.Outcome State Fault Refusal :=
  .next (if s.rd (F.linkStatState l) = lkUp ∧ (s.link l).gap then s.sendCtl l true else s)

def execControlFlitSend (l : Nat) (s : State) : Host.Outcome State Fault Refusal :=
  .next (if s.rd (F.linkStatState l) = lkUp ∧ ((s.pump l).link l).wait = (s.link l).wait then s.sendCtl l (s.link l).gap else s)

/-! ## States and training (R392 to R395) -/

/-- Highest number of lanes that good lanes allow: code of LINK_STAT.width and the active lanes. -/
def bestWidth (lanes : Nat) : Nat × Nat :=
  let has (i : Nat) : Bool := bit lanes i
  if has 0 && has 1 && has 2 && has 3 then (3, 15)
  else if has 0 && has 1 then (2, 3)
  else if has 2 && has 3 then (2, 12)
  else match (List.range 4).find? has with | some i => (1, 2 ^ i) | none => (0, 0)

/-- The width is at least LINK_CTRL.min_width. -/
def State.widthOk (s : State) (l width : Nat) : Bool := decide (min 2 (s.rd (F.linkCtrlMinWidth l)) + 1 ≤ width)

/-- JOIN (R538, R540). -/
def State.sendMgmt (s : State) (l kind status : Nat) : State :=
  let dst := if s.on (F.linkStatPeerValid l) then s.rd (F.linkStatPeerModule l) else 0
  let h : MgmtHdr := { kind := kind, link := l, idValid := s.on (F.portSelfValid (l / 8)), part := s.variant.partCode, status := status }
  s.enqueue (l / 8) l { Packet.blank with typ := pMGMT, collar := 0, dst := dst, src := s.moduleId, birth := s.fabTime, mgmt := some h }

/-- Lanes that a link leaves out are recorded (R395, R421). -/
def State.leaveOut (s : State) (l lanes : Nat) : State :=
  if lanes = 0 then s else (s.linkErr l 4 0 lanes).faultLog 18 1 7 l 4 0 (R.linkErr l)

/-- Lanes that the merged defect map leaves out (R534, R536). -/
def State.badLanes (s : State) (l : Nat) : Nat :=
  (List.range 4).foldl (fun m i =>
    if s.boot.merged.any fun e => decide (bf e.toNat 0 4 = 6) && decide (bf e.toNat 8 6 = l) && decide (bf e.toNat 14 2 = i) then m + 2 ^ i else m) 0

/-- What the exchange of training step 6 and the cage module's type reading give LINK_STAT (R380, R393, R394). -/
def State.peerSeen (s : State) (l : Nat) (r : LinkTrain) : State :=
  s.wrs [(F.linkStatMedia l, b2n ((tget (fun _ => none) s.power.cages (l / 2)).any fun c => !c.passive)),
    (F.linkStatPeerLink l, r.peerLink), (F.linkStatPeerModule l, r.peerModule), (F.linkStatPeerValid l, b2n r.peerValid)]

/-- Lanes that may run: those that the merged map names bad are left out, and a quad with two working cells has 2 lanes (R571). -/
def State.quadLanes (s : State) (l lanes : Nat) : Nat :=
  let lanes := lanes &&& (15 - s.badLanes l)
  if s.rd (F.reglStatState (quadMacro l)) = 2 ∧ (bestWidth lanes).1 = 3 then 3 else lanes

/-- A link trains for the first time after Disabled or Down (R393): fresh credits, the peer's next number. A link that comes Up while
the ID is valid sends JOIN (R540). -/
def State.trained (s : State) (l : Nat) (r : LinkTrain) : State :=
  let w := bestWidth (s.quadLanes l r.lanes)
  if !s.widthOk l w.1 then s.linkToDown l
  else
    let s := (s.wrs [(F.linkStatPolInv l, r.pol), (F.linkStatReversed l, b2n r.rev)]).peerSeen l r
    let z := List.replicate 9 0
    let s := s.modLink l fun x => { x with noisy := 0, symMs := (0, []), sent := z, freed := z, used := z, freedTx := z, rxNext := r.peerSeq % 4096, gap := false, naks := 0, part := [] }
    let s := ((s.barkLink l).leaveOut l (15 - w.2)).linkToUp l w.1 w.2
    if s.on (F.portSelfValid (l / 8)) then s.sendMgmt l 1 0 else s

def execLinkTrainingDone (l : Nat) (r : LinkTrain) (s : State) : Host.Outcome State Fault Refusal :=
  .next (if s.linkExists l ∧ s.rd (F.linkStatState l) = lkTraining then s.trained l r else s)

/-- Enter Training. -/
def State.startTraining (s : State) (l : Nat) : State :=
  (s.wr (F.linkStatState l) lkTraining).notice 10 sOK (l + lkTraining * 2 ^ 6)

/-- LINK_CTRL.enable = 1 (R392, R419): a Disabled link trains, and one behind a failed port bridge is Down (R379). -/
def execLinkEnable (l : Nat) (s : State) : Host.Outcome State Fault Refusal :=
  .next (if s.variant.links ≤ l then s
    else
      let s := s.wr (F.linkCtrlEnable l) 1
      if s.rd (F.linkStatState l) ≠ lkDisabled then s
      else if !s.linkExists l then (s.wr (F.linkStatState l) lkDown).notice 10 sOK (l + lkDown * 2 ^ 6)
      else if s.linkLive l then s.startTraining l else s)

/-- Disable a link: packets in its replay buffer are in doubt as on a link that goes Down (DEDUCED, log entry 33). -/
def State.disableLink (s : State) (l : Nat) : State :=
  let s := s.wr (F.linkCtrlEnable l) 0
  if s.rd (F.linkStatState l) = lkDisabled then s else s.linkStop l lkDisabled

def execLinkDisable (l : Nat) (s : State) : Host.Outcome State Fault Refusal :=
  .next (if l < s.variant.links then s.disableLink l else s)

def execLinkRetrainRequest (l : Nat) (s : State) : Host.Outcome State Fault Refusal :=
  .next (if s.linkExists l then s.startRetrain l true else s)

def execLinkLossOfLock (l lanes : Nat) (s : State) : Host.Outcome State Fault Refusal :=
  .next (if !s.linkExists l ∨ s.rd (F.linkStatState l) ≠ lkUp ∨ lanes % 16 &&& s.rd (F.linkStatLanesGood l) = 0 then s
    else (s.linkErr l 3 0 (lanes % 16)).startRetrain l false)

/-- The width and lanes that good lanes allow up to a width: the active lanes where they are still good, else the widest. -/
def bestUpTo (cap old lanes : Nat) : Nat × Nat :=
  if lanes &&& old = old ∧ old ≠ 0 then (cap, old)
  else
    let w := bestWidth lanes
    if w.1 ≤ cap then w else if cap = 2 then (2, if lanes &&& 3 = 3 then 3 else 12)
    else match (List.range 4).find? fun i => bit lanes i with | some i => (1, 2 ^ i) | none => (0, 0)

/-- A retrain succeeds (R394, R395): lanes with too many symbol errors are left out; the width rises only where the host asked for it; the
link resumes from the peer's ack_seq + 1. -/
def State.retrained (s : State) (l : Nat) (r : LinkTrain) : State :=
  let old := s.rd (F.linkStatLanesGood l)
  let lanes := s.quadLanes l (r.lanes % 16 &&& (15 - (s.link l).noisy % 16))
  let w := if (s.link l).widen then bestWidth lanes else bestUpTo (s.rd (F.linkStatWidth l)) old lanes
  if !s.widthOk l w.1 then s.linkToDown l
  else
    let s := ((s.leaveOut l (old - (old &&& w.2))).peerSeen l r).takeAck l (r.peerAck % 4096)
    let s := s.modLink l fun x => { x.resend with gap := false, naks := 0, noisy := 0, symMs := (0, []) }
    let n := (s.link l).replay.length
    let s := if n = 0 then s else s.bump Ev.linkFlitsTx (.link l) n
    s.linkToUp l w.1 w.2

def execLinkRetrainDone (l : Nat) (r : LinkTrain) (s : State) : Host.Outcome State Fault Refusal :=
  .next (if s.linkExists l ∧ s.rd (F.linkStatState l) = lkRetrain then s.retrained l r else s)

/-- The retrain limit of a link in ns (R419). -/
def State.retrainLim (s : State) (l : Nat) : Nat :=
  let v := s.rd (F.linkCtrlRetrainLimMs l)
  1000000 * (if v = 0 then 2 else min 20 v)

def execRetrainLimitExpiry (l : Nat) (s : State) : Host.Outcome State Fault Refusal :=
  .next (if s.rd (F.linkStatState l) = lkRetrain ∧ (s.link l).since + s.retrainLim l ≤ s.now then s.linkToDown l else s)

def execNoSignalTimeout (l : Nat) (s : State) : Host.Outcome State Fault Refusal :=
  .next (if s.rd (F.linkStatState l) = lkRetrain then s.linkToDown l else s)

def execAutoRestore (l : Nat) (s : State) : Host.Outcome State Fault Refusal :=
  .next (if s.linkLive l ∧ s.rd (F.linkStatState l) = lkDown ∧ s.on (F.linkCtrlEnable l) ∧ s.on (F.linkCtrlAutoRestore l) then s.startTraining l
    else s)

def execLinkCreditStall (l vl : Nat) (s : State) : Host.Outcome State Fault Refusal :=
  .next (if s.rd (F.linkStatState l) = lkUp ∧ ((s.link l).wait.any fun f => decide (f.poolOf = vl)) ∧ (s.link l).credit vl = 0 then
      (s.bump Ev.linkCreditStall (.link l) 1).linkErr l 5 0 0
    else s)

/-- A port bridge fails (R379): its eight links go down, each as a link that goes Down. -/
def execPortBridgeFail (p : Nat) (s : State) : Host.Outcome State Fault Refusal :=
  .next (if s.variant.portDies ≤ p ∨ s.fab.bridges.contains p then s
    else
      let s := s.modFab fun f => { f with bridges := f.bridges ++ [p] }
      (s.linksLose p).1.foldl (fun s l => if s.rd (F.linkStatState l) = lkDown then s else s.linkToDown l) (s.linksLose p).2)

/-! ## Fences -/

/-- What waits for fences: a ROUTE_SET whose route changes have all fenced (R470), an answer to a peer's RETIRE (R539). -/
def State.fenced (s : State) : State :=
  let fs := s.fab.fences
  let done (w : Wait) : Bool := match w with | .routeSet os => !(fs.any fun f => os.any fun o => decide (o.1 = f.dst)) | _ => false
  let s := if s.host.waits.any fun w => done w.why then s.measureTables.finish done sOK 0 else s
  let go := s.fab.retireAcks.filter fun l => !(fs.any fun f => decide (f.link = l))
  let s := s.modFab fun f => { f with retireAcks := f.retireAcks.filter fun l => !go.contains l }
  go.foldl (fun s l => s.sendMgmt l 4 0) s

def execFenceHoldEnd (i : Nat) (s : State) : Host.Outcome State Fault Refusal :=
  .next (s.endFence i).fenced

/-! ## Doubt -/

/-- No RESP has come within 2 × life_us (R404): the link that the request left by records it (R421, R501 code 20). -/
def execRespTimeout (i : Nat) (s : State) : Host.Outcome State Fault Refusal :=
  .next (match s.fab.awaits[i]? with
    | some a =>
      if a.waiting.isSome then s
      else
        let s := match (if a.pkt.dst = s.moduleId then none else s.routeOf (s.ownPort a.pkt) a.pkt.dst) with
          | some l => (s.linkErr l 6 0 0).faultLog 20 1 7 l 1 0 (R.linkErr l)
          | none => s.faultLog 20 1 0 0 1 0 (R.linkErr 0)
        s.inDoubt a.pkt
    | none => s)

/-- A Signal, notice or pack packet in doubt is sent again, with a new birth (R431, R515). -/
def execResendAfterLife (i : Nat) (s : State) : Host.Outcome State Fault Refusal :=
  .next (match s.fab.resend[i]? with
    | none => s
    | some p =>
      let s := s.modFab fun f => { f with resend := f.resend.eraseIdx i }
      if p.typ = pSIGNAL then
        (s.modFab fun f => { f with awaits := f.awaits.filter fun a => decide (a.pkt ≠ p) }).request p none
      else
        let s := if p.typ = pPACK then s.bump Ev.packResend .module 1 else s
        s.sendPkt { p with birth := s.fabTime })

def execSignalRecordExpiry (w i : Nat) (s : State) : Host.Outcome State Fault Refusal :=
  .next (match (s.fab.sigRecs.filter fun r => decide (r.win = w))[i]? with
    | some r => s.modFab fun f => { f with sigRecs := f.sigRecs.filter fun q => decide (q ≠ r) }
    | none => s)

end Sys2Proof.Machine
end

