-- ==== Sys2Proof/Machine/Cmd.lean ====
section
/-! DEFINITION. The frame of a host command (R463, R466, R468, R469, R519, R532): when it starts, the checks before its own, how it ends. -/

namespace Sys2Proof.Machine

/-- Who may send a command (R469): anyone, queue 0 only, the session of the open job, any session's queue. -/
inductive Scope where
  | any
  | admin
  | job
  | jobQueue
deriving DecidableEq, Repr

/-- How a command behaves in a module that is not in full service: it runs even in a halted module (R519), it needs the bring-up to be
complete (R532), it needs the compute partition (R544), it is accepted after a Job-fatal fault (R518). -/
structure Gate where
  halted : Bool
  ready : Bool
  compute : Bool
  fatal : Bool

/-- A command that runs whatever the state of the partitions but for Halted. -/
def Gate.plain : Gate := ⟨false, false, false, true⟩
/-- A job command. -/
def Gate.jobCmd : Gate := ⟨false, false, true, false⟩

/-- The queue may start a command: it is enabled, S2 has succeeded (R531), the Keeper runs, and a fenced one waits for those before it. -/
def State.cmdReady (s : State) (e : Entry) : Bool :=
  decide (e.sq < 16) && s.on (F.cmdqQcfgEnable e.sq) && !(s.queue e.sq).stopped && !s.keep.restarting && s.on F.bootStatusDoneValid
    && decide (2 ≤ s.rd F.bootStatusDoneUpto) && (!e.fence || decide ((s.queue e.sq).out = 0))

/-- A request wakes the compute partition from Gate or Retain (R579); the wait is timing. -/
def State.wake (s : State) : State :=
  if 1 ≤ s.rd F.pwrmWakeTolCurrent ∧ s.rd F.pwrmWakeTolCurrent ≤ 2 then s.wr F.pwrmWakeTolCurrent 0 else s

/-- A command starts: its queue is busy. What the reads of committed memory that follow meet joins what earlier ones have left (log entry 98). -/
def State.cmdStart (s : State) (e : Entry) : State :=
  (((s.setQueue e.sq { s.queue e.sq with out := (s.queue e.sq).out + 1 }).wr (F.cmdqQcfgBusy e.sq) 1).wake.bump Ev.hostCmd .module 1).modHost
    fun h => { h with met := h.met ++ e.inp.met }

/-- The open job, if the command names it from its session's queue (R469). -/
def State.jobOf (s : State) (e : Entry) : Option Job :=
  match s.job with
  | some j => if j.handle = e.job ∧ s.on (F.cmdqQcfgOwned e.sq) ∧ s.rd (F.cmdqQcfgSession e.sq) = j.session then some j else none
  | none => none

/-- The compute partition is out of service: in reset, halted or off (R544, R547), or in Sleep or Dormant (R579). -/
def State.computeDown (s : State) : Bool := decide (s.rd F.bootPartCompute ≠ 1) || decide (3 ≤ s.rd F.pwrmWakeTolCurrent)

/-- A word of a command. -/
def parm (e : Entry) (n : Nat) : Nat :=
  (match n with | 1 => e.w1 | 2 => e.w2 | 3 => e.w3 | 4 => e.w4 | 5 => e.w5 | 6 => e.w6 | _ => e.w7).toNat

/-- Parameter bits that a command does not use hold something: `used` gives for each word it uses the fields as (low bit, width). -/
def extraBits (e : Entry) (used : List (Nat × List (Nat × Nat))) : Bool :=
  (List.range 7).any fun k =>
    let n := k + 1
    let fs := match used.find? (fun u => decide (u.1 = n)) with | some u => u.2 | none => []
    decide (fs.foldl (fun v f => bfSet v f.1 f.2 0) (parm e n) ≠ 0)

/-- The check of a command before its own, in this order (log entry 34): its status, or none to go on. A job that a reset has ended
answers ABORTED in place of JOB_FATAL (R542). -/
def State.cmdCheck (s : State) (e : Entry) (sc : Scope) (g : Gate) (used : List (Nat × List (Nat × Nat))) : Option Nat :=
  let jobCmd := decide (sc = .job)
  if sc = .admin ∧ e.sq ≠ 0 then some sINVALID_OPCODE
  else if s.rd F.keepFaultStatState = 2 ∧ !g.halted then some sPARTITION_DOWN
  else if e.rsv ≠ 0 ∨ (!jobCmd ∧ e.job ≠ 0) ∨ extraBits e used then some sINVALID_FIELD
  else if g.ready ∧ !s.on F.bootStatusReady then some sNOT_READY
  else if jobCmd ∧ (s.jobOf e).isNone then some sNO_JOB
  else if sc = .jobQueue ∧ !s.on (F.cmdqQcfgOwned e.sq) then some sNO_JOB
  else if g.compute ∧ s.computeDown then some sPARTITION_DOWN
  else if jobCmd ∧ !g.fatal ∧ s.on F.keepFaultStatJobFatal then some (if s.rd F.keepFaultStatFatalCause = 0 then sABORTED else sJOB_FATAL)
  else none

/-- A host command: `f` is its own effect once every check before has passed. In Sleep or Dormant a command that needs the compute
partition starts the wake (R579). -/
def State.cmd (s : State) (e : Entry) (sc : Scope) (g : Gate) (used : List (Nat × List (Nat × Nat))) (f : State → State) : State :=
  if !s.cmdReady e then s
  else
    let s := s.cmdStart e
    match s.cmdCheck e sc g used with
    | some st =>
      let s := if st = sPARTITION_DOWN ∧ g.compute ∧ 3 ≤ s.rd F.pwrmWakeTolCurrent then { s with power := { s.power with waking := some 0 } } else s
      s.complete e st (if st = sJOB_FATAL then s.rd F.keepFaultStatFatalCause else 0)
    | none => f s

/-- The bytes that the command reads from host memory at `a`, at least `n`. -/
def State.hostRead (s : State) (e : Entry) (a n : Nat) (f : List Byte → State) : State :=
  match e.inp.read with
  | some bs => if n ≤ bs.length then f bs else s.hostFail e a
  | none => s.hostFail e a

/-- The command's last act is a write to host memory; it then completes. -/
def State.reply (s : State) (e : Entry) (a : Nat) (bs : List Byte) (status result : Nat) : State :=
  if e.inp.wrOk then (s.hostWrite a bs).complete e status result else s.hostFail e a

end Sys2Proof.Machine
end

