-- ==== Sys2Proof/Machine/Telem.lean ====
section
/-! DEFINITION. Event counters at the host (R626, R630 to R633, R641): COUNTER_CFG, TELEM_SNAPSHOT and its latch, and writes of the selection
registers. -/

namespace Sys2Proof.Machine

/-! ## Selections (R630, R641) -/

/-- Places of counters, as `loc` codes them. -/
def locTile : Nat := 0
def locSlice : Nat := 1
def locLink : Nat := 2
def locModule : Nat := 3

/-- Key of the counter that an entry of COUNTER_CFG names. -/
def selKey (v : Nat) : Nat :=
  let i := bf v 2 15
  let k := bf v 17 6
  match bf v 0 2 with
  | 0 => ctrTile i k | 1 => ctrSlice i k | 2 => ctrLink i k | _ => ctrModule k

/-- Scope of an event code's group as a place (R627). -/
def eventLoc (ev : Nat) : Nat :=
  match ev / 256 with
  | 0 | 1 | 2 | 3 => locTile
  | 5 | 6 | 7 | 8 => locSlice
  | 9 => locLink
  | _ => locModule

/-- The module has the instance. -/
def State.instanceOk (s : State) (loc i : Nat) : Bool :=
  if loc = locTile then decide (i < 25600) && decide (i % 20 < 21 - (tget (fun _ => []) s.badPos (i / 20)).length)
  else if loc = locSlice then decide (i < 512) && s.slicePopulated i
  else if loc = locLink then decide (i < s.variant.links)
  else true

/-- An entry names a counter and an instance that the module has, chains only an odd counter, and sums only at the module; its reserved
bits are 0. -/
def State.selOk (s : State) (v : Nat) : Bool :=
  let loc := bf v 0 2
  let k := bf v 17 6
  decide (v < 2 ^ 38) && (decide (loc = locModule) || (decide (k < 4) && !bit v 36 && s.instanceOk loc (bf v 2 15)))
    && (decide (loc ≠ locModule) || bit v 36 || s.instanceOk (eventLoc (bf v 23 12)) (bf v 2 15))
    && (!bit v 35 || decide (k % 2 = 1))

/-- Apply an entry. -/
def State.applySel (s : State) (v : Nat) : State :=
  let c := s.counter (selKey v)
  s.setCounter (selKey v)
    { c with event := bf v 23 12, chain := bit v 35, allInst := bit v 36, instance_ := if bf v 0 2 = locModule then bf v 2 15 else 0,
             count := if bit v 37 then 0 else c.count }

/-- COUNTER_CFG (R630): every entry, or none. -/
def State.counterCfgCmd (s : State) (e : Entry) : State :=
  s.cmd e .admin .plain [(1, [(3, 61)]), (2, [(0, 16)])] fun s =>
    let n := bf (parm e 2) 0 16
    let go (bs : List Byte) : State :=
      let vs := (leWords n bs).map (·.toNat)
      if vs.all fun v => s.selOk v then (vs.foldl (fun s v => s.applySel v) s).complete e sOK 0 else s.complete e sINVALID_FIELD 0
    if n = 0 then go [] else s.hostRead e (parm e 1) (8 * n) go

def execCounterCfg (e : Entry) (s : State) : Host.Outcome State Fault Refusal := .next (s.counterCfgCmd e)

/-- The counter whose selection register lies at a BAR0 offset (R641). -/
def evtSelKey (a : Nat) : Option Nat :=
  let at_ (base stride off n key : Nat) (units : Nat) : Option Nat :=
    let r := (a - base) % stride
    if base ≤ a ∧ a < base + units * stride ∧ off ≤ r ∧ r < off + 8 * n then some (key + n * ((a - base) / stride) + (r - off) / 8) else none
  ((at_ 0xC000 0x2000 0x1000 64 0 1).or (at_ 0xC00000 0x800 0x500 4 (ctrTile 0 0) 25600)).or
    ((at_ 0x80000 0x400 0x200 4 (ctrSlice 0 0) 512).or (at_ 0x20000 0x200 0x100 4 (ctrLink 0 0) 64))

/-- A write of bits `m` of a selection register with `v`: overflow and reset_seen clear where a 1 is written; chain is of odd counters only,
and all_inst and instance of the module's. -/
def State.evtSelWrite (s : State) (k m v : Nat) : State :=
  let c := s.counter k
  let fld (lo w : Nat) : Nat := bf ((c.sel.toNat &&& (2 ^ 64 - 1 - m)) ||| (v &&& m)) lo w
  s.setCounter k
    { c with event := fld 0 12, chain := decide (k % 2 = 1) && decide (fld 12 1 = 1),
             allInst := decide (k < 64) && decide (fld 13 1 = 1), instance_ := if k < 64 then fld 14 15 else 0,
             overflow := c.overflow && !(bit m 29 && bit v 29), resetSeen := c.resetSeen && !(bit m 30 && bit v 30) }

/-! ## Snapshot at an instant (R632, R633) -/

/-- A counter is an entry of a snapshot: it selects an event and is not the upper half of a chain. -/
def inSnapshot (k : Nat) (c : Counter) : Bool := decide (c.event ≠ 0xFFF) && !(decide (k % 2 = 1) && c.chain)

/-- Place, instance and number of a counter within it. -/
def keyPlace (k : Nat) (c : Counter) : Nat × Nat × Nat :=
  if k < 64 then (locModule, c.instance_, k)
  else if k < ctrSlice 0 0 then (locTile, (k - 64) / 4, k % 4)
  else if k < ctrLink 0 0 then (locSlice, (k - ctrSlice 0 0) / 4, k % 4)
  else (locLink, (k - ctrLink 0 0) / 4, k % 4)

/-- A snapshot's entry. -/
def State.telemEntry (s : State) (k : Nat) (c : Counter) : List Byte :=
  let p := keyPlace k c
  let chained := decide (k % 2 = 0) && (s.counter (k + 1)).chain
  leBytes 8 (p.1 + p.2.1 % 2 ^ 15 * 2 ^ 2 + p.2.2 * 2 ^ 17 + c.event % 2 ^ 12 * 2 ^ 23 + b2n chained * 2 ^ 38 + b2n c.overflow * 2 ^ 39
      + b2n c.resetSeen * 2 ^ 40) ++ leBytes 8 (s.ctrCount k).toNat

/-- Insert by rank. -/
def rankIn (p : Nat × Counter) : List (Nat × Counter) → List (Nat × Counter)
  | [] => [p]
  | q :: qs => if Config.telemRank p.1 ≤ Config.telemRank q.1 then p :: q :: qs else q :: rankIn p qs

/-- What a latch writes: the header, then the entries, in an order that is free (log entry 65). -/
def State.telemBytes (s : State) : List Byte :=
  let cs := s.counters.filter fun p => inSnapshot p.1 p.2
  let cs := cs.foldr rankIn []
  leBytes 8 s.time.telemAt ++ leBytes 8 (cs.length % 2 ^ 16 + s.rd F.timeStatState * 2 ^ 16) ++ List.replicate 16 0
    ++ cs.flatMap fun p => s.telemEntry p.1 p.2

/-- Change the timebase state. -/
def State.modTime (s : State) (f : TimeSt → TimeSt) : State := { s with time := f s.time }

/-- A snapshot is pending. -/
def State.telemWaits (s : State) : Bool := s.host.waits.any fun w => decide (w.why = .telem)

/-- TELEM_SNAPSHOT (R632). -/
def State.telemCmd (s : State) (e : Entry) : State :=
  s.cmd e .admin ⟨true, false, false, true⟩ [(1, [(3, 61)]), (2, [(0, 64)])] fun s =>
    let t := parm e 2
    if s.telemWaits then s.complete e sBUSY 0
    else if t ≠ 0 ∧ (t < s.now + 10000 ∨ s.now + 10000000000 < t) then s.complete e sINVALID_FIELD 0
    else (s.await e .telem).modTime fun x => { x with telemAt := if t = 0 then (s.now / 1000 + 1) * 1000 else t, shadow := none }

def execTelemSnapshot (e : Entry) (s : State) : Host.Outcome State Fault Refusal := .next (s.telemCmd e)

/-- The pending snapshot's command writes its buffer and completes. No field gives the buffer's length: it is that of `inp.read`, and without
one the buffer is long enough (DESIGN CHOICE, log entry 65). -/
def State.telemWrite (s : State) (bs : List Byte) : State :=
  let ws := s.host.waits.filter fun w => decide (w.why = .telem)
  let s := (s.modHost fun h => { h with waits := h.waits.filter fun w => decide (w.why ≠ .telem) }).modTime fun x => { x with shadow := none }
  ws.foldl (fun s w =>
    let short := match w.e.inp.read with | some b => decide (b.length < bs.length) | none => false
    if short then s.complete w.e sINVALID_FIELD bs.length else s.reply w.e (parm w.e 1) bs sOK bs.length) s

/-- The latch. During a Keeper restart hardware holds it, and the command completes after the restart. -/
def execTelemLatch (s : State) : Host.Outcome State Fault Refusal :=
  .next (if !s.telemWaits ∨ s.now < s.time.telemAt ∨ s.time.shadow.isSome then s
    else if s.keep.restarting then s.modTime fun x => { x with shadow := some s.telemBytes }
    else s.telemWrite s.telemBytes)

/-- After a Keeper restart, a snapshot that was latched meanwhile is written out. -/
def State.telemResume (s : State) : State := match s.time.shadow with | some bs => s.telemWrite bs | none => s

end Sys2Proof.Machine
end

