-- ==== Sys2Proof/Machine/Arrive.lean ====
section
/-! DEFINITION. Windows (R164 to R168, R406 to R410) and packets that arrive (R399 to R404, R407 to R414, R514, R515): DEPOSIT, FOLD, SIGNAL,
CALL, RESP and the notices. -/

namespace Sys2Proof.Machine

/-! ## Windows -/

/-- Keys of windows among those closed lately or delayed. -/
def keyMwin (w : Nat) : Nat := w
def keyTile (t n : Nat) : Nat := 1024 + 4 * t + n

/-- The generation after one (R165). -/
def nextGen (g : Nat) : Nat := if g = 255 then 1 else g + 1

/-- 10 ms in ns. -/
def tenMs : Nat := 10000000

/-- The next generation was closed less than 10 ms ago (R165). -/
def State.reopenSoon (s : State) (key gen : Nat) : Bool :=
  s.fab.winClosed.any fun w => decide (w.key = key) && decide (w.gen = gen) && decide (s.now < w.time + tenMs)

/-- A generation is closed now. -/
def State.closedGen (s : State) (key gen : Nat) : State :=
  s.modFab fun f => { f with winClosed := (f.winClosed.filter fun w => decide (s.now < w.time + tenMs)) ++ [⟨key, gen, s.now⟩] }

/-- First byte and bytes of a module window. -/
def State.mwinRange (s : State) (w : Nat) : Nat × Nat := (256 * s.rd (F.winCtrlBase w), 256 * (s.rd (F.winLenLenM1 w) + 1))

/-- Pages of an address range. -/
def pagesOf (a n : Nat) : List Nat := (List.range ((a + n - 1) / 0x200000 - a / 0x200000 + 1)).map fun i => pageOf (a + 0x200000 * i)

/-- A module window may lie there (R406): in one region, on pages of right 2 or 3. -/
def State.mwinFits (s : State) (a n : Nat) : Bool :=
  (decide (a + n ≤ s.variant.hbmBytes) || (decide (apertureBase ≤ a) && decide (a + n ≤ apertureBase + 8 * segBytes)))
    && (pagesOf a n).all fun p => decide (2 ≤ s.right p)

/-- A module window becomes Open (R406): its next generation, and right 3 on its pages of right 2. -/
def State.mwinOpens (s : State) (w : Nat) : State :=
  let s := s.wrs [(F.winCtrlState w, 1), (F.winCtrlGen w, nextGen (s.rd (F.winCtrlGen w)))]
  let r := s.mwinRange w
  let up := (pagesOf r.1 r.2).filter fun p => decide (s.right p = 2)
  let s := up.foldl (fun s p => s.setRight p 3) s
  (s.modFab fun f => { f with raised := f.raised ++ up }).measureTables

/-- Open a module window for its command (R406). -/
def State.openMwin (s : State) (e : Entry) : State :=
  let w := bf (parm e 1) 0 10
  let g := nextGen (s.rd (F.winCtrlGen w))
  let a := parm e 2
  let o := parm e 5
  let s := s.wrs [(F.winCtrlBase w, a / 256), (F.winLenLenM1 w, bf (parm e 3) 0 32),
    (F.winLenSrcLo w, bf (parm e 4) 0 14), (F.winLenSrcHi w, bf (parm e 4) 16 14), (F.winCtrlOpDep w, bf o 0 1), (F.winCtrlOpFold w, bf o 1 1),
    (F.winCtrlOpSig w, bf o 2 1), (F.winCtrlOpCall w, bf o 3 1), (F.winCtrlDbEn w, bf o 4 1), (F.winCtrlDbVec w, bf o 5 6)]
  (s.mwinOpens w).complete e sOK g

/-- A module window is Closed (R406, R409): pages that it raised return to right 2 unless another window still covers them. -/
def State.shutMwin (s : State) (w : Nat) : State :=
  let s := s.wr (F.winCtrlState w) 0
  let r := s.mwinRange w
  let others := (List.range 1024).filter fun v => decide (s.rd (F.winCtrlState v) ≠ 0)
  let down := (pagesOf r.1 r.2).filter fun p => s.fab.raised.contains p && !(others.any fun v => (pagesOf (s.mwinRange v).1 (s.mwinRange v).2).contains p)
  let s := down.foldl (fun s p => if s.right p = 3 then s.setRight p 2 else s) s
  (s.modFab fun f => { f with raised := f.raised.filter fun p => !down.contains p }).measureTables.finish (fun x => decide (x = .mwinClose w)) sOK 0

/-- A module window moves from Open to Closing (R409). -/
def State.closeMwin (s : State) (w : Nat) : State :=
  if s.rd (F.winCtrlState w) = 1 then (s.wr (F.winCtrlState w) 2).closedGen (keyMwin w) (s.rd (F.winCtrlGen w)) else s

/-- Accepted packets of a module window have all landed. -/
def State.mwinQuiet (s : State) (w : Nat) : Bool :=
  !(s.fab.landings.any fun l => decide (l.pkt.wkind = 0) && decide (l.pkt.winIdx = w))
    && !(s.fab.calls.any fun c => decide (c.pkt.wkind = 0) && decide (c.pkt.winIdx = w))

/-- A tile window becomes Open at its next generation (R165). -/
def State.tileWinOpens (s : State) (t n : Nat) : State :=
  (s.wrs [(F.tileWinState t n, 1), (F.tileWinGen t n, nextGen (s.rd (F.tileWinGen t n)))]).measureTables

/-- Open a tile window for its command (R165). -/
def State.openTileWin (s : State) (e : Entry) : State :=
  let t := bf (parm e 1) 0 15
  let n := bf (parm e 1) 16 2
  let g := nextGen (s.rd (F.tileWinGen t n))
  ((s.wrs [(F.tileWinBase t n, bf (parm e 2) 8 10), (F.tileWinLenM1 t n, bf (parm e 3) 0 10),
    (F.tileWinSrcLo t n, bf (parm e 4) 0 14), (F.tileWinSrcHi t n, bf (parm e 4) 16 14), (F.tileWinOpDep t n, bf (parm e 5) 0 1),
    (F.tileWinOpSig t n, bf (parm e 5) 1 1)]).tileWinOpens t n).complete e sOK g

/-- A tile window moves from Open to Closing (R168). -/
def State.closeTileWin (s : State) (t n : Nat) : State :=
  if s.rd (F.tileWinState t n) = 1 then (s.wr (F.tileWinState t n) 2).closedGen (keyTile t n) (s.rd (F.tileWinGen t n)) else s

/-- A tile window is Closed. A packet that its check accepts lands in the same command, so none is on its way. -/
def State.shutTileWin (s : State) (t n : Nat) : State :=
  (s.wr (F.tileWinState t n) 0).measureTables.finish (fun x => decide (x = .tilewinClose t n)) sOK 0

def execTileWinCloseDone (t n : Nat) (s : State) : Host.Outcome State Fault Refusal :=
  .next (if t < tileCount ∧ n < 4 ∧ s.rd (F.tileWinState t n) = 2 then s.shutTileWin t n else s)

/-- A window whose OPEN came with a register write opens with what its registers hold, where R406 allows it; a tile window only within one
window region (R164). -/
def State.regOpens (s : State) (key : Nat) : State :=
  if key < 1024 then
    (if s.rd (F.winCtrlState key) = 0 ∧ s.mwinFits (s.mwinRange key).1 (s.mwinRange key).2 then s.mwinOpens key else s)
  else
    let t := (key - 1024) / 4
    let n := key % 4
    if s.rd (F.tileWinState t n) = 0 ∧ s.inWindowRegion t (256 * s.rd (F.tileWinBase t n)) (256 * (s.rd (F.tileWinLenM1 t n) + 1)) then
      s.tileWinOpens t n
    else s

/-- A delayed OPEN takes effect (R165, R406), if its window is still Closed. -/
def execWinReopenDelayEnd (i : Nat) (s : State) : Host.Outcome State Fault Refusal :=
  .next (match s.fab.winDelays[i]? with
    | none => s
    | some d =>
      let s := s.modFab fun f => { f with winDelays := f.winDelays.eraseIdx i }
      match d.e with
      | none => s.regOpens d.key
      | some e =>
        let s := s.modHost fun h => { h with waits := h.waits.filter fun w => decide (w.e ≠ e) }
        if d.key < 1024 then (if s.rd (F.winCtrlState d.key) = 0 then s.openMwin e else s.complete e sWINDOW_STATE 0)
        else if s.rd (F.tileWinState ((d.key - 1024) / 4) (d.key % 4)) = 0 then s.openTileWin e else s.complete e sWINDOW_STATE 0)

/-! ## A packet's data -/

/-- Data bytes of a packet with their marks. -/
def pktData (p : Packet) : List PB :=
  (p.data.zip (List.range p.data.length)).map fun b => ⟨b.1, p.poison.contains (b.2 / 8)⟩

/-- The logical tile is present (R16). -/
def State.tilePresent (s : State) (t : Nat) : Bool :=
  decide (t < tileCount) && decide (t % 20 < 21 - (s.bad (t / 20)).length)

/-! ## Tile windows (R166, R167) -/

/-- The window check of a tile. -/
def State.tileWinCheck (s : State) (p : Packet) : Nat :=
  let t := p.tile
  let n := p.winIdx % 4
  let len := p.data.length
  if !s.tilePresent t then rBUS_ERROR
  else if s.rd (F.tileWinState t n) ≠ 1 ∨ s.rd (F.tileWinGen t n) ≠ p.gen then rWINDOW_CLOSED
  else if p.src < s.rd (F.tileWinSrcLo t n) ∨ s.rd (F.tileWinSrcHi t n) < p.src ∨ p.doorbell
      ∨ !s.on (if p.typ = pSIGNAL then F.tileWinOpSig t n else F.tileWinOpDep t n) then rWINDOW_DENIED
  else if p.offset % 8 ≠ 0 ∨ len % 8 ≠ 0 ∨ 256 * (s.rd (F.tileWinLenM1 t n) + 1) < p.offset + len then rWINDOW_BOUNDS
  else rOK

/-- A packet's turn at its tile: packets of one sender on one Strict collar keep their order (R167). -/
def State.tilePktNext (s : State) (i : Nat) (p : Packet) : Bool :=
  !((s.fab.tilePkts.take i).any fun q => decide (q.2.src = p.src) && decide (q.2.collar = p.collar) && decide (q.2.collar < 8))

/-- A packet crosses the ring from the port die of the link that brought it to its tile's floor, on a level that its receive buffer's bark
raises (R359, R366). -/
def State.toTile (s : State) (l : Nat) (p : Packet) : State :=
  s.crossRing (linkFloor l) (tileDie p.tile) p.collar (effLevel p.collar 0 (s.linkBark l)) p.data.length

/-- A packet reaches its tile over the tile's shaft (R231): it lands, or is refused whole. A gated bay powers up first (R576). -/
def execTileWindowPacket (i : Nat) (tr : Transit) (errs : List SpdErr) (s : State) : Host.Outcome State Fault Refusal :=
  .next (match s.fab.tilePkts[i]? with
    | none => s
    | some (l, p) =>
      if !s.tilePktNext i p ∨ s.mapHeld then s
      else if s.tilePresent p.tile ∧ s.bayGated (bayOf p.tile) then s.needBay p.tile
      else
        let s := s.modFab fun f => { f with tilePkts := f.tilePkts.eraseIdx i }
        match (if s.tilePresent p.tile then (s.toTile l p).pktPath p.tile 2 (s.linkBark l) tr p else (s, some p)) with
        | (s, none) => s
        | (s, some p) =>
          let st := s.tileWinCheck p
          let s := s.bump (if st = rOK then Ev.winAccept else Ev.winRefuse) (.tile p.tile) 1
          let s := if st = rOK then s.spdWrite p.tile (256 * s.rd (F.tileWinBase p.tile (p.winIdx % 4)) + p.offset) (pktData p) 4 0 errs else s
          s.sendPkt (respTo p s.moduleId st false))

/-! ## Arrival (R401, R403, R416) -/

/-- Packet lifetime (R415). -/
def State.lifeUs (s : State) : Nat := min 1000 (max 100 (s.rd (F.portCfgLifeUs 0)))

/-- A packet has outlived its time (R403). Pack packets are exempt (R431). -/
def State.expired (s : State) (p : Packet) : Bool :=
  decide (p.typ ≠ pPACK) && decide (s.lifeUs < (s.fabTime + 65536 - p.birth % 65536) % 65536)

/-- The next packet of a link and pool, if it is this one: taken from its buffers. -/
def State.takeIn (s : State) (l : Nat) (p : Packet) : Option State :=
  match s.fab.inbox.find? (fun x => decide (x.link = l) && decide (x.pkt.pool = p.pool)) with
  | some x =>
    if x.pkt ≠ p then none
    else
      let s := s.modFab fun f => { f with inbox := f.inbox.erase x }
      some (if l < 64 then (s.modLink l fun y => y.freeBufs p.pool x.flits).barkLink l else s)
  | none => none

/-- A packet is served: discarded, forwarded, or handed to `f` with the receiving port die's site. -/
def State.arrival (s : State) (l : Nat) (p : Packet) (ok : Bool) (f : State → Nat → State) : State :=
  if !ok then s
  else match s.takeIn l p with
    | none => s
    | some s =>
      let die := if l < 64 then l / 8 else l - 64
      if p.typ ≠ pMGMT ∧ !s.on (F.portSelfValid die) then s
      else if s.expired p then
        let s := s.bump Ev.fabExpired .module 1
        let s := if l < 64 then (s.linkErr l 7 0 0).faultLog 20 1 7 l 0 0 (R.linkErr l) else s
        s.inDoubt p
      else if p.typ ≠ pMGMT ∧ p.dst ≠ s.selfId die then s.sendVia die p
      else f s die

/-! ## Window checks at a port die (R407) -/

/-- Target bytes of a packet: twice its data for a BF16 Fold; the bytes to read for a CALL. -/
def targetLen (p : Packet) : Nat :=
  if p.typ = pFOLD ∧ p.etype = 1 then 2 * p.data.length else if p.typ = pCALL then p.lenM1 + 1 else p.data.length

/-- The operation bit that a packet needs. -/
def opFld (p : Packet) : Fld :=
  if p.typ = pDEPOSIT then F.winCtrlOpDep p.winIdx else if p.typ = pFOLD then F.winCtrlOpFold p.winIdx
  else if p.typ = pSIGNAL then F.winCtrlOpSig p.winIdx else F.winCtrlOpCall p.winIdx

/-- Tests 2 to 5. While the compute partition is in reset every window is refused (R544), and so while it is halted or off (DEDUCED, log entry
45) and while a table is in Hold (R510). -/
def State.mwinCheck (s : State) (p : Packet) : Nat :=
  let w := p.winIdx
  let len := if p.typ = pCALL then p.lenM1 + 1 else p.data.length
  if s.rd F.bootPartCompute ≠ 1 ∨ s.keep.hold.isSome ∨ s.rd (F.winCtrlState w) ≠ 1 ∨ s.rd (F.winCtrlGen w) ≠ p.gen then rWINDOW_CLOSED
  else if p.src < s.rd (F.winLenSrcLo w) ∨ s.rd (F.winLenSrcHi w) < p.src ∨ !s.on (opFld p) ∨ (p.doorbell ∧ !s.on (F.winCtrlDbEn w)) then
    rWINDOW_DENIED
  else if p.offset % 8 ≠ 0 ∨ len % 8 ≠ 0 ∨ (s.mwinRange w).2 < p.offset + targetLen p then rWINDOW_BOUNDS
  else rOK

/-- An accepted packet lands through the slices (R408). -/
def State.land (s : State) (l : Nat) (p : Packet) : State :=
  let id := s.nextReq
  let data := if p.typ = pFOLD ∧ p.etype = 1 then xWiden (pktData p) else pktData p
  let blocks := Sys2Proof.Machine.combine 256 (cutRun 256 (data.length / 256 + 2) ((s.mwinRange p.winIdx).1 + p.offset) 0 data.length)
  let s := { s with nextReq := id + 1 }
  let s := s.modFab fun f => { f with landings := f.landings ++ [⟨id, l, p, blocks.length, false, 0⟩] }
  let mk (b : Nat × List Seg) : Req :=
    { id := 0, kind := if p.typ = pFOLD then .memFold else .memWrite, src := .peer p.src, chain := id, desc := 0,
      tgt := (s.locate b.1).elim 0 (·.slice), addr := b.1, segs := b.2, data := segBytesOf data b.2, collar := p.collar, tag := 0,
      mod := if p.ret then p.dst else p.src, epoch := if p.typ = pSIGNAL then 0 else p.epoch, etype := p.etype, lastUse := false, late := false,
      stage := .toTarget, status := 0, zero := false, unprot := false, here := false, down := false, coll := false, time := s.now }
  let no := blocks.filter fun b => s.refused b.1 true
  let s := s.addReqs ((blocks.filter fun b => !s.refused b.1 true).map mk)
  no.foldl (fun s _ => s.landed id false rBUS_ERROR) s

/-- The epoch of a packet has been aborted (R514). -/
def State.aborted (s : State) (p : Packet) : Bool :=
  decide (p.epoch ≠ 0) && !p.ret && (s.fab.aborts.any fun a => decide (a.1 = p.src)) && !newer p.epoch (tget (fun _ => 0) s.fab.aborts p.src)

/-- Refuse a packet whole. -/
def State.refusePkt (s : State) (p : Packet) (st : Nat) : State := s.sendPkt (respTo p s.moduleId st false)

/-- A packet for a window of this module, from link `l`: the abort filter, test 1, then its tile or tests 2 to 5. -/
def State.windowPkt (s : State) (l : Nat) (p : Packet) (f : State → State) : State :=
  let s := s.wake
  if s.aborted p then s.refusePkt p rUNREACHABLE
  else if p.wkind = 1 then
    if p.typ = pDEPOSIT ∨ p.typ = pSIGNAL then
      if s.rd F.bootPartCompute ≠ 1 then s.refusePkt p rWINDOW_CLOSED else s.modFab fun f => { f with tilePkts := f.tilePkts ++ [(l, p)] }
    else (s.bump Ev.mwinRefuse .module 1).refusePkt p rWINDOW_DENIED
  else
    let st := s.mwinCheck p
    if st = rOK then f (s.bump Ev.mwinAccept .module 1) else (s.bump Ev.mwinRefuse .module 1).refusePkt p st

def execDepositArrival (l : Nat) (p : Packet) (s : State) : Host.Outcome State Fault Refusal :=
  .next (s.arrival l p (decide (p.typ = pDEPOSIT)) fun s _ => s.windowPkt l p fun s => s.land l p)

def execFoldArrival (l : Nat) (p : Packet) (s : State) : Host.Outcome State Fault Refusal :=
  .next (s.arrival l p (decide (p.typ = pFOLD)) fun s _ => s.windowPkt l p fun s => s.land l p)

/-- A Signal: one that was accepted before is answered OK and not written again (R515), before any test (DEDUCED, log entry 36). -/
def State.signalPkt (s : State) (l : Nat) (p : Packet) : State :=
  let k : SigRec := ⟨p.winIdx, p.src, p.epoch, p.offset⟩
  if p.wkind = 0 ∧ p.epoch ≠ 0 ∧ s.fab.sigRecs.contains k then s.refusePkt p rOK
  else s.windowPkt l p fun s =>
    let mine := s.fab.sigRecs.filter fun r => decide (r.win = k.win)
    let old := mine.head?
    let s := s.modFab fun f =>
      { f with sigRecs := (if 64 ≤ mine.length then f.sigRecs.filter (fun r => decide (some r ≠ old)) else f.sigRecs) ++ [k] }
    s.land l p

def execSignalArrival (l : Nat) (p : Packet) (s : State) : Host.Outcome State Fault Refusal :=
  .next (s.arrival l p (decide (p.typ = pSIGNAL)) fun s _ => s.signalPkt l p)

/-! ## Calls (R411) -/

def execCallArrival (l : Nat) (p : Packet) (s : State) : Host.Outcome State Fault Refusal :=
  .next (s.arrival l p (decide (p.typ = pCALL)) fun s port =>
    s.windowPkt l p fun s => s.modFab fun f => { f with calls := f.calls ++ [⟨port, p, 8, 0, []⟩] })

/-- A request index of a port die that no awaited packet of its engines holds (R396). -/
def State.portTag (s : State) (port : Nat) : Nat :=
  ((List.range 64).find? fun k => !(s.fab.awaits.any fun a => decide (a.pkt.reqKind = 1) && decide (a.pkt.reqPort = port) && decide (a.pkt.reqTag = k))).getD 0

/-- A Call's engine sends its next return Deposit (R411; one at a time, log entry 76). -/
def State.callSend (s : State) (c : CallJob) : State :=
  match c.left with
  | [] => s
  | p :: r =>
    let k := s.portTag c.port
    (s.modFab fun f => { f with calls := f.calls.map fun d => if d = c then { c with tag := k, left := r } else d }).request { p with reqTag := k } none

/-- A free engine of a port die takes the oldest Call, unless the drain of a snapshot holds the engines (R446 step 4): committed contents of the window
leave as return Deposits, pieces of at most
2 KiB. `met` is what its read meets at the slices; a read that the dead table refuses ends the Call with
BUS_ERROR (DEDUCED from R265, log entry 98). -/
def execCallServe (p : Nat) (met : List SliceDec) (s : State) : Host.Outcome State Fault Refusal :=
  .next (
    let eng := (List.range 8).find? fun k => !(s.fab.calls.any fun c => decide (c.port = p) && decide (c.eng = k))
    match s.fab.calls.find? (fun c => decide (c.port = p) && decide (c.eng = 8)), eng with
    | some c, some k =>
      let q := c.pkt
      let a := (s.mwinRange q.winIdx).1 + q.offset
      if s.snapDrains || s.memBusy a (q.lenM1 + 1) then s else
      let s := (s.settleFills a (q.lenM1 + 1) met).ringOnce (portFloor p) a (q.lenM1 + 1) q.collar
      let (s, data) := s.readAt false q.collar a (q.lenM1 + 1) met
      match data with
      | none => ((s.modFab fun f => { f with calls := f.calls.filter fun x => decide (x ≠ c) }).bump Ev.callServed .module 1).sendPkt
          (respTo q s.moduleId rBUS_ERROR false)
      | some data =>
      let win := leNat (q.data.take 8)
      let off := leNat ((q.data.drop 8).take 8) % 2 ^ 40
      let ps := remCut 1 (data.length / 8 + 2) off 0 data.length
      let d := { c with eng := k, left := ps.map fun w =>
        { winPkt win w.addr ((data.drop w.walk).take w.len) q.collar q.epoch with
            dst := q.src, src := s.moduleId, ret := true, reqKind := 1, reqPort := p } }
      (s.modFab fun f => { f with calls := f.calls.map fun x => if x = c then d else x }).callSend d
    | _, _ => s)

/-- A return Deposit of a Call is answered: the next one leaves; the last one ends the Call, and so does the first refusal, whose status the
Call's RESP carries (R411). -/
def State.callResp (s : State) (port tag status : Nat) : State :=
  match s.fab.calls.find? (fun c => decide (c.port = port) && decide (c.eng < 8) && decide (c.tag = tag)) with
  | none => s
  | some c =>
    if status = 0 ∧ !c.left.isEmpty then s.callSend c
    else
      let s := s.modFab fun f => { f with calls := f.calls.filter fun x => decide (x ≠ c) }
      (s.bump Ev.callServed .module 1).sendPkt (respTo c.pkt s.moduleId status false)

/-! ## RESPs (R399, R299, R300) -/

/-- The awaited packet that a RESP answers. -/
def answers (a : Await) (p : Packet) : Bool :=
  a.waiting.isNone && decide (a.pkt.epoch = p.epoch) && decide (a.pkt.reqKind = p.reqKind) && decide (a.pkt.reqTag = p.reqTag)
    && decide (a.pkt.reqTile = p.reqTile) && decide (a.pkt.reqEngine = p.reqEngine) && decide (a.pkt.reqPort = p.reqPort)

/-- The awaited packet of a RESP or in-doubt notice: one for the module that it comes from before any other, since a port die on the way may
answer in its place (R400). -/
def State.awaited (s : State) (p : Packet) : Option Await :=
  (s.fab.awaits.find? fun a => answers a p && decide (a.pkt.dst = p.src)).or (s.fab.awaits.find? fun a => answers a p)

/-- Take a RESP; one that nothing awaits is discarded (R514). -/
def State.takeResp (s : State) (p : Packet) : State :=
  match s.awaited p with
  | none => s
  | some a =>
    let s := s.modFab fun f => { f with awaits := f.awaits.erase a }
    let s := if p.unprot ∧ s.pass.isSome ∧ p.epoch = s.epoch then s.markNonrep nrUNPROT_ACK R.keepPassStat else s
    match p.reqKind with
    | 0 =>
      match a.req.bind s.req with
      | some r => s.setReq { r with stage := .reply, status := p.code }
      | none => s
    | 1 => s.callResp p.reqPort p.reqTag p.code
    | 2 => s.snapResp p.reqTag p.code
    | _ =>
      if p.code = 0 then s
      else (s.bump Ev.signalRefused .module 1).notice 11 sOK (a.pkt.dst + p.code * 2 ^ 16 + p.epoch * 2 ^ 32)

def execRespArrival (l : Nat) (p : Packet) (s : State) : Host.Outcome State Fault Refusal :=
  .next (s.arrival l p (decide (p.typ = pRESP)) fun s _ => (s.takeResp p).tryLaunch)

/-! ## Notices (R305, R309, R300, R404, R514) -/

/-- A notice of a kind. -/
def isNotice (p : Packet) (kind : Nat) : Bool := decide (p.typ = pNOTICE) && decide (p.code = kind)

def execNoticeCommit (l : Nat) (p : Packet) (s : State) : Host.Outcome State Fault Refusal :=
  .next (s.arrival l p (isNotice p nCommit) fun s _ => (s.moveEntries p.src p.epoch etOPEN etCOMMITTED).commitMarks p.src p.epoch)

def execNoticeAbort (l : Nat) (p : Packet) (s : State) : Host.Outcome State Fault Refusal :=
  .next (s.arrival l p (isNotice p nAbort) fun s _ =>
    let s := (s.bump Ev.abortRecv .module 1).modFab fun f =>
      { f with aborts := if (f.aborts.any fun a => decide (a.1 = p.src)) && !newer p.epoch (tget (fun _ => 0) f.aborts p.src) then f.aborts
                 else tset (fun _ => 0) f.aborts p.src p.epoch,
               abortWalk := if f.abortWalk.contains (p.src, p.epoch) then f.abortWalk else f.abortWalk ++ [(p.src, p.epoch)] }
    s.startDrops.ackAborts)

def execNoticeAbortAck (l : Nat) (p : Packet) (s : State) : Host.Outcome State Fault Refusal :=
  .next (s.arrival l p (isNotice p nAbortAck) fun s _ =>
    if p.epoch = s.epoch then s.modPass fun q => { q with acks := q.acks.filter fun m => decide (m ≠ p.src) } else s)

def execNoticeUnprotected (l : Nat) (p : Packet) (s : State) : Host.Outcome State Fault Refusal :=
  .next (s.arrival l p (isNotice p nUnprot) fun s _ => if p.epoch = s.epoch then s.markNonrep nrCOLLISION R.keepPassStat else s)

/-- An in-doubt notice names a request of this module (R404), or, without one, an epoch of it (R543). -/
def State.doubtNotice (s : State) (p : Packet) : State :=
  let s := s.bump Ev.fabInDoubt .module 1
  match s.awaited p with
  | some a =>
    if a.pkt.typ = pSIGNAL ∧ a.pkt.reqKind = 3 then
      s.modFab fun f => { f with resend := if f.resend.contains a.pkt then f.resend else f.resend ++ [a.pkt] }
    else if p.epoch = 0 then s.toSelf (respTo a.pkt s.moduleId rUNREACHABLE false)
    else (s.modFab fun f => { f with doubt := f.doubt ++ [p.epoch] }).toSelf (respTo a.pkt s.moduleId rOK false)
  | none => if p.epoch = 0 then s else s.modFab fun f => { f with doubt := f.doubt ++ [p.epoch] }

def execNoticeInDoubt (l : Nat) (p : Packet) (s : State) : Host.Outcome State Fault Refusal :=
  .next (s.arrival l p (isNotice p nInDoubt) fun s _ => s.doubtNotice p)

end Sys2Proof.Machine
end

