-- ==== Sys2Proof/Machine/PackRows.lean ====
section
/-! DEFINITION. Rows of the pack lane: tree commands (R427, R440), pack operations (R433, R470), packets of a tree (R434), timeout (R439)
and the snapshot's start and freeze (R446). -/

namespace Sys2Proof.Machine

/-! ## Packets -/

/-- A pack packet in a direction, of a kind that `k` allows. -/
def isPack (p : Packet) (up : Bool) (k : Nat → Bool) : Bool :=
  decide (p.typ = pPACK) && match p.pack with | some h => decide (h.up = up) && k h.kind | none => false

/-- A pack packet's header. -/
def packHdr (p : Packet) (f : PackHdr → State) (s : State) : State := match p.pack with | some h => f h | none => s

/-- An up packet, at its node (R434). A held launch follows where it ends a snapshot. -/
def execPackUp (l : Nat) (p : Packet) (s : State) : Host.Outcome State Fault Refusal :=
  .next (s.arrival l p (isPack p true fun _ => true) fun s _ => (packHdr p (fun h => s.packUp p h) s).tryLaunch)

/-- A down packet but for time and fabric reset, which have rows of their own (R434). -/
def execPackDown (l : Nat) (p : Packet) (s : State) : Host.Outcome State Fault Refusal :=
  .next (s.arrival l p (isPack p false fun k => decide (k ≠ kTIME) && decide (k ≠ kRESET)) fun s _ =>
    (packHdr p (fun h => s.packDown p h) s).tryLaunch)

/-- An operation is still incomplete after its timeout (R439, R456). -/
def execPackTimeout (tree : Nat) (s : State) : Host.Outcome State Fault Refusal :=
  .next (if tree < 16 ∧ s.rd (F.packTreeStatState tree) = 1 ∧ (s.tree tree).op.isSome then
      ((s.wr (F.packTreeStatState tree) 2).bump Ev.packTimeout .module 1).notice 5 sTIMEOUT (tree + (s.tree tree).opSeq * 2 ^ 16)
    else s)

/-! ## Tree commands -/

/-- Valid children that words 2 and 3 of TREE_SET name. -/
def kidsOf (e : Entry) : List Nat :=
  (List.range 8).filterMap fun k =>
    let w := if k < 4 then parm e 2 else parm e 3
    if bit w (16 * (k % 4) + 14) then some (bf w (16 * (k % 4)) 14) else none

/-- The cases of R427. -/
def State.treeInvalid (s : State) (e : Entry) : Bool :=
  let w := parm e 1
  let names := kidsOf e ++ (if bit w 4 then [bf w 5 14] else [])
  (s.on (F.portSelfValid 0) && names.contains s.moduleId) || decide (names.eraseDups.length ≠ names.length)
    || decide (s.variant.portDies ≤ bf w 19 3) || (s.tree (bf w 0 4)).op.isSome

/-- The child fields of a word of TREE_SET. -/
def kidFields : List (Nat × Nat) := [(0, 15), (16, 15), (32, 15), (48, 15)]

/-- TREE_SET (R427, R470): the tree is loaded and enabled, and its op_seq starts at 0 (R432). -/
def State.treeSetCmd (s : State) (e : Entry) : State :=
  s.cmd e .admin .plain [(1, [(0, 24)]), (2, kidFields), (3, kidFields)] fun s =>
    if s.treeInvalid e then s.complete e sTREE_INVALID 0
    else
      let w := parm e 1
      let t := bf w 0 4
      let s := (({ s with trees := tset (fun _ => TreeSt.reset) s.trees t .reset } : State).wrs
        [(F.packTreeStatState t, 0), (F.packTreeStatKidsIn t, 0), (F.packTreeStatLocalIn t, 0)]).barkPack t
      let s := ((s.setReg (R.packTreeKids0 t) e.w2).setReg (R.packTreeKids1 t) e.w3).wrs
        [(F.packTreeCtrlEnable t, 1), (F.packTreeCtrlHasParent t, bf w 4 1), (F.packTreeCtrlParent t, bf w 5 14), (F.packTreeCtrlHome t, bf w 19 3),
         (F.packTreeCtrlCommit t, bf w 22 1), (F.packTreeCtrlTime t, bf w 23 1), (F.packTreeCtrlNChild t, (kidsOf e).length)]
      s.complete e sOK 0

def execTreeSet (e : Entry) (s : State) : Host.Outcome State Fault Refusal := .next (s.treeSetCmd e)

/-- TREE_DISABLE (R440, R470). -/
def State.treeDisableCmd (s : State) (e : Entry) : State :=
  s.cmd e .admin .plain [(1, [(0, 4)])] fun s => ((s.disableTree (bf (parm e 1) 0 4)).complete e sOK 0).tryLaunch

def execTreeDisable (e : Entry) (s : State) : Host.Outcome State Fault Refusal := .next (s.treeDisableCmd e)

/-! ## Operations -/

/-- Codes of a PACK_OP that no row of R430 has. -/
def packOpBad (w : Nat) : Bool :=
  let kind := bf w 4 4
  decide (kind = 0) || decide (kBROADCAST < kind) || (decide (kind = kREDUCTION) && (decide (4 < bf w 8 3) || (decide (bf w 8 3 < 3) && decide (2 < bf w 11 2))))

/-- PACK_OP (R433, R470). -/
def State.packOpCmd (s : State) (e : Entry) : State :=
  s.cmd e .admin .plain [(1, [(0, 16)]), (2, [(3, 61)]), (3, [(3, 61)])] fun s =>
    let w := parm e 1
    let kind := bf w 4 4
    let start (vals : List W64) : State :=
      s.packStart (bf w 0 4) { kind := kind, rop := bf w 8 3, dtype := bf w 11 2, countM1 := bf w 13 3, aux := 0, values := vals, by_ := .host e }
    if packOpBad w then s.complete e sINVALID_FIELD 0
    else if kind = kBARRIER then start []
    else
      let n := if kind = kBROADCAST then 32 else bf w 13 3 + 1
      s.hostRead e (parm e 2) (8 * n) fun bs => start (leWords n bs)

/-- PACK_OP of one kind. -/
def State.packOpKind (s : State) (e : Entry) (kind : Nat) : State := if bf (parm e 1) 4 4 = kind then s.packOpCmd e else s

def execPackOpBarrier (e : Entry) (s : State) : Host.Outcome State Fault Refusal := .next (s.packOpKind e kBARRIER)

def execPackOpReduction (e : Entry) (s : State) : Host.Outcome State Fault Refusal := .next (s.packOpKind e kREDUCTION)

def execPackOpBroadcast (e : Entry) (s : State) : Host.Outcome State Fault Refusal := .next (s.packOpKind e kBROADCAST)

/-! ## Snapshots -/

/-- Bytes of module memory: in HBM, or in the floor aperture with no hole up to their end (R253). -/
def State.inMemory (s : State) (a n : Nat) : Bool :=
  decide (a + n ≤ s.variant.hbmBytes) || (decide (apertureBase ≤ a) && (s.locate a).isSome && (s.locate (a + n - 1)).isSome)

/-- A plan is well-formed (R445): counts in range, reserved bits 0, regions of whole chunks in module memory, the floor aperture included (R297). -/
def State.planOk (s : State) (p : List W64) : Bool :=
  decide (1 ≤ planRegions p) && decide (1 ≤ planTargets p) && decide (planTargets p ≤ 32) && decide (planWord p 0 < 2 ^ 14)
    && (List.range (planRegions p)).all fun i =>
      let b := 3 + 2 * planTargets p + 2 * i
      decide (planWord p b % 0x200000 = 0) && decide (planWord p (b + 1) % 0x200000 = 0)
        && (decide (planWord p b + planWord p (b + 1) ≤ s.variant.hbmBytes) || (decide (apertureBase ≤ planWord p b)
          && (List.range (planWord p (b + 1) / 0x200000)).all fun k => s.inMemory (planWord p b + 0x200000 * k) 0x200000))

/-- An Open slot that a reset left is abandoned with cause 4 (R449). -/
def State.clearOpen (s : State) : State :=
  [0, 1].foldl (fun s k => if s.rd (F.packSnapStatState k) = snOPEN ∧ (s.snap k).isNone then s.abandonReset k else s) s

/-- A slot is Armed, Committed, or Open and not left so by a reset. -/
def State.snapBusy (s : State) : Bool :=
  [0, 1].any fun k =>
    let st := s.rd (F.packSnapStatState k)
    decide (st = snARMED) || decide (st = snCOMMITTED) || (decide (st = snOPEN) && (s.snap k).isSome)

/-- Arm a slot (R446 step 1); with no uncommitted pass, the module is at its boundary. -/
def State.armSnap (s : State) (e : Entry) (k : Nat) (plan : List W64) : State :=
  let s := (s.clearOpen.setReg (R.packSnapId k) e.w2).wrs
    [(F.packSnapStatState k, snARMED), (F.packSnapStatCause k, 0), (F.packSnapStatChunks k, 0), (F.packSnapStatEpoch k, 0)]
  let s := s.setSnap k (some
    { tree := bf (parm e 1) 0 4, plan := plan, next := 0, out := [], digest := Sponge.init.absorb (valBytes plan), time := 0, barrier := false,
      record := false, promoting := false, status := 0, e := some e, stopping := false })
  if s.pass.isSome then s else s.snapBarrier.tryLaunch

/-- The slot that a SNAPSHOT takes: the other one of a Valid slot (R446); with no Valid slot, either (free, log entry 38). -/
def State.snapPlace (s : State) : Nat × State :=
  if s.rd (F.packSnapStatState 0) = snVALID then (1, s)
  else if s.rd (F.packSnapStatState 1) = snVALID then (0, s)
  else let (v, s) := s.free; (v % 2, s)

/-- SNAPSHOT (R446, R470). -/
def State.snapshotCmd (s : State) (e : Entry) : State :=
  s.cmd e .admin ⟨false, false, true, true⟩ [(1, [(0, 4)]), (2, [(0, 64)]), (3, [(0, 64)])] fun s =>
    let a := parm e 3
    if s.snapBusy then s.complete e sBUSY 0
    else if a % 8 ≠ 0 ∨ !s.inMemory a 8 then s.complete e sINVALID_FIELD 0
    else
      let (s, w0) := s.readCommitted 0 a 8
      let n := planWords (leNat (w0.map (·.b)))
      let (s, bs) := s.readCommitted 0 a (if s.inMemory a (8 * n) then 8 * n else 8)
      let plan := leWords n (bs.map (·.b))
      if !s.inMemory a (8 * n) then s.complete e sINVALID_FIELD 0
      else if anyPois bs then s.complete e sPOISON 0
      else if !s.planOk plan then s.complete e sINVALID_FIELD 0
      else let (k, s) := s.snapPlace; s.armSnap e k plan

def execSnapshot (e : Entry) (s : State) : Host.Outcome State Fault Refusal := .next (s.snapshotCmd e)

/-- Commit drains that have not finished (R306). -/
def State.drainsLeft (s : State) : Bool := s.etabIds.any fun n => entries.any fun k => decide (s.rd (etState n k) = etCOMMITTED)

/-- The freeze (R446 step 3), and the first chunk. -/
def execSnapshotFreeze (slot : Nat) (s : State) : Host.Outcome State Fault Refusal :=
  .next (match s.snap slot with
    | some x =>
      if slot < 2 ∧ s.rd (F.packSnapStatState slot) = snARMED ∧ x.barrier ∧ !s.drainsLeft then
        let s := s.wrs [(F.packSnapStatState slot, snOPEN), (F.packSnapStatEpoch slot, s.commitEpoch)]
        ((s.setSnap slot (some { x with time := s.now })).snapSend slot).tryLaunch
      else s
    | none => s)

end Sys2Proof.Machine
end

