-- ==== Sys2Proof/Machine/Host.lean ====
section
/-! DEFINITION. Host interface rows (R460 to R487): sessions, queues, Exchange window, keep areas, windows, routes, leashes, kennel changes, event
mask, fault log, BAR accesses, PCIe events. -/

namespace Sys2Proof.Machine

/-- NOP (R470). -/
def State.nopCmd (s : State) (e : Entry) : State := s.cmd e .any ⟨true, false, false, true⟩ [] fun s => s.complete e sOK 0

def execNop (e : Entry) (s : State) : Host.Outcome State Fault Refusal := .next (s.nopCmd e)

/-! ## Sessions -/

/-- SESSION_OPEN (R470): the lowest free session number. -/
def State.sessionOpenCmd (s : State) (e : Entry) : State :=
  s.cmd e .admin .plain [(1, [(1, 15)])] fun s =>
    let qs := (List.range 15).filterMap fun k => if bit (parm e 1) (k + 1) then some (k + 1) else none
    match (List.range 16).find? fun k => !(s.host.sessions.any fun x => decide (x.1 = k)) with
    | none => s.complete e sBUSY 0
    | some k =>
      if qs.any fun q => s.on (F.cmdqQcfgOwned q) then s.complete e sBUSY 0
      else
        let s := qs.foldl (fun s q => s.wrs [(F.cmdqQcfgOwned q, 1), (F.cmdqQcfgSession q, k)]) s
        (s.modHost fun h => { h with sessions := h.sessions ++ [(k, qs)] }).complete e sOK k

def execSessionOpen (e : Entry) (s : State) : Host.Outcome State Fault Refusal := .next (s.sessionOpenCmd e)

/-! ## Queues (R462, R465, R486 to R488) -/

/-- Every command that the module still works on, changed. -/
def State.modEntries (s : State) (f : Entry → Entry) : State :=
  let ops (o : PackOp) : PackOp := match o.by_ with | .host e => { o with by_ := .host (f e) } | _ => o
  { s with
    host := { s.host with waits := s.host.waits.map fun w => { w with e := f w.e } },
    pass := s.pass.map fun p => { p with launch := f p.launch, commit := p.commit.map f },
    fab := { s.fab with winDelays := s.fab.winDelays.map fun d => { d with e := d.e.map f } },
    trees := s.trees.map fun t => (t.1, { t.2 with op := t.2.op.map ops, starts := t.2.starts.map ops }),
    snaps := s.snaps.map fun x => (x.1, x.2.map fun y => { y with e := y.e.map f }),
    boot := { s.boot with src := s.boot.src.map fun x => match x with | .cmd e => .cmd (f e) | .boot => .boot } }

/-- A queue is cut off at once and its pending completions are dropped (R485): commands it had started go on without a queue (16 stands
for none). -/
def State.cutQueue (s : State) (q : Nat) : State :=
  ((s.modEntries fun e => if e.sq = q then { e with sq := 16 } else e).setQueue q .reset).wrs
    [(F.cmdqQcfgEnable q, 0), (F.cmdqQcfgBusy q, 0)]

/-- Every queue is cut off, and held launches are not to launch (R485). -/
def State.cutQueues (s : State) : State :=
  let s := (List.range 16).foldl (fun s q => s.cutQueue q) s
  s.modHost fun h => { h with waits := h.waits.filter fun w => match w.why with | .launch _ _ _ => false | _ => true }

/-- A host access arrives only over a PCIe link that is up (R485). -/
def State.hostAccess (s : State) (ok : Bool) (f : State → State) : State := if s.host.linkUp && ok then f s else s

def execSqTailWrite (q v : Nat) (s : State) : Host.Outcome State Fault Refusal :=
  .next (s.hostAccess (decide (q < 16)) fun s => s.wr (F.cmdqSqTailIndex q) v)

def execCqHeadWrite (q v : Nat) (s : State) : Host.Outcome State Fault Refusal :=
  .next (s.hostAccess (decide (q < 16)) fun s => ((s.wr (F.cmdqCqHeadIndex q) v).postHeld q).queueRest q)

/-- A queue starts with both its indices at 0 and the phase of a first pass (R464; log entry 39). -/
def execQueueEnable (q : Nat) (s : State) : Host.Outcome State Fault Refusal :=
  .next (s.hostAccess (decide (q < 16)) fun s =>
    if s.on (F.cmdqQcfgEnable q) then s
    else if (s.queue q).run then (s.wr (F.cmdqQcfgEnable q) 1).setQueue q { s.queue q with stopped := false }
    else (s.wr (F.cmdqQcfgEnable q) 1).setQueue q { Queue.reset with run := true })

def execQueueDisable (q : Nat) (s : State) : Host.Outcome State Fault Refusal :=
  .next (s.hostAccess (decide (q < 16)) fun s => (s.wr (F.cmdqQcfgEnable q) 0).queueRest q)

/-! ## Reserved areas of HBM: the Exchange window and keep areas (R28, R245, R249, R477) -/

/-- MiB of a Spread footprint (R248): chan_base of segment `g` is `g` times it, so that Spread segments never overlap (DESIGN CHOICE, log
entry 40). -/
def Variant.footMiB (v : Variant) : Nat := Variant.spreadRows v / 512

/-- Hash segments of an address range. -/
def segsOf (a n : Nat) : List Nat := if n = 0 then [] else (List.range ((a + n - 1) / segBytes - a / segBytes + 1)).map (· + a / segBytes)

/-- Write a segment's hash entry on every floor. -/
def State.setHash (s : State) (g : Nat) (v : Nat) : State :=
  (List.range 8).foldl (fun s f => (s.setReg (R.floorHash f g) (BitVec.ofNat 64 v)).setCopies .hashMap f allPass) s

/-- Map the segments of a range under the Spread hash where they are unmapped. -/
def State.mapSpread (s : State) (a n : Nat) : State :=
  (segsOf a n).foldl (fun s g => if s.segKind g = 0 then s.setHash g (1 + g * Variant.footMiB s.variant * 2 ^ 8) else s) s

/-- Ranges that outlive a job: the Exchange window and the keep areas. -/
def State.areas (s : State) : List (Nat × Nat) :=
  (if s.on F.hostwExchDeclared then [(s.variant.exchBase, 2 ^ 32)] else []) ++ s.host.keeps

/-- EXCH_DECLARE (R477, R491). -/
def State.exchDeclareCmd (s : State) (e : Entry) : State :=
  s.cmd e .admin ⟨false, false, true, true⟩ [(1, [(0, 5)])] fun s =>
    let k := bf (parm e 1) 0 5
    if k < 16 ∨ 30 < k then s.complete e sINVALID_FIELD 0
    else if s.job.isSome then s.complete e sBUSY 0
    else
      let b := s.variant.exchBase
      let s := (s.mapSpread b (2 ^ 32)).setRights b (2 ^ 32) 3
      (s.wrs [(F.hostwExchDeclared, 1), (F.hostwExchSegLog2, k), (F.hostwExchNSeg, min 8192 ((2 ^ 32 - 0x10000) / 2 ^ k)),
        (F.hostwExchBase, b / 16)]).complete e sOK b

def execExchDeclare (e : Entry) (s : State) : Host.Outcome State Fault Refusal := .next (s.exchDeclareCmd e)

/-- A segment's flag word: the owner table's copy is what was written last, a pass's own writes included (R481; log entry 41). -/
def State.flagWord (s : State) (i : Nat) : Nat := leNat ((s.viewBytes (s.variant.exchBase + 8 * i) 8).map (·.b))

/-- A segment's direction (R492). -/
def State.segDir (s : State) (i : Nat) : Nat := s.rd ⟨R.hostwSegDir (i / 32), 2 * (i % 32), 2⟩

/-- EXCH_DIR (R477, R492). -/
def State.exchDirCmd (s : State) (e : Entry) : State :=
  s.cmd e .admin ⟨false, false, true, true⟩ [(1, [(0, 26)]), (2, [(0, 2)])] fun s =>
    let a := bf (parm e 1) 0 13
    let n := bf (parm e 1) 13 13
    let is := (List.range n).map (· + a)
    if s.rd F.hostwExchNSeg < a + n then s.complete e sINVALID_FIELD 0
    else if is.any fun i => decide (s.flagWord i % 4 ≠ 0) then s.complete e sBUSY 0
    else (is.foldl (fun s i => s.wr ⟨R.hostwSegDir (i / 32), 2 * (i % 32), 2⟩ (bf (parm e 2) 0 2)) s).complete e sOK 0

def execExchDir (e : Entry) (s : State) : Host.Outcome State Fault Refusal := .next (s.exchDirCmd e)

/-- `n` bytes from `a` lie below the Exchange window and share none with a keep area. -/
def State.keepFits (s : State) (n a : Nat) : Bool :=
  decide (a + n ≤ s.variant.exchBase) && s.host.keeps.all fun k => decide (k.1 + k.2 ≤ a) || decide (a + n ≤ k.1)

/-- Highest place below the Exchange window that `n` bytes fit into between the keep areas, if there is room. -/
def State.keepPlace (s : State) (n : Nat) : Option Nat :=
  let tops := s.variant.exchBase :: s.host.keeps.map (·.1)
  let ok (t : Nat) : Bool := decide (n ≤ t) && s.host.keeps.all fun k => decide (k.1 + k.2 ≤ t - n) || decide (t ≤ k.1)
  (tops.filter ok).foldl (fun m t => match m with | some b => if b < t - n then some (t - n) else m | none => some (t - n)) none

/-- The place of a new keep area: any place that fits, of 2 MiB units as R470 counts them (free, log entry 40); `top` is one. -/
def State.keepAt (s : State) (n top : Nat) : Nat × State :=
  let (v, s) := s.free
  let a := 0x200000 * (v % (s.variant.exchBase / 0x200000))
  (if s.keepFits n a then a else top, s)

/-- KEEP_DECLARE (R470). -/
def State.keepDeclareCmd (s : State) (e : Entry) : State :=
  s.cmd e .admin ⟨false, false, true, true⟩ [(1, [(0, 64)])] fun s =>
    let n := parm e 1
    if n = 0 ∨ n % 0x200000 ≠ 0 then s.complete e sINVALID_FIELD 0
    else if s.job.isSome ∨ 8 ≤ s.host.keeps.length then s.complete e sBUSY 0
    else match s.keepPlace n with
      | none => s.complete e sINVALID_FIELD 0
      | some top =>
        let (a, s) := s.keepAt n top
        (((s.mapSpread a n).setRights a n 3).modHost fun h => { h with keeps := h.keeps ++ [(a, n)] }).complete e sOK a

def execKeepDeclare (e : Entry) (s : State) : Host.Outcome State Fault Refusal := .next (s.keepDeclareCmd e)

/-- A module window that is not Closed covers part of a range. -/
def State.winOver (s : State) (a n : Nat) : Bool :=
  (List.range 1024).any fun w => decide (s.rd (F.winCtrlState w) ≠ 0) && overlap (s.mwinRange w).1 (s.mwinRange w).2 a n

/-- Segments that no area needs any more are unmapped. -/
def State.unmapSegs (s : State) (gs : List Nat) : State :=
  let need := s.areas.flatMap fun k => segsOf k.1 k.2
  gs.foldl (fun s g => if need.contains g then s else s.setHash g 0) s

/-- KEEP_RELEASE (R470). -/
def State.keepReleaseCmd (s : State) (e : Entry) : State :=
  s.cmd e .admin ⟨false, false, true, true⟩ [(1, [(0, 64)])] fun s =>
    match s.host.keeps.find? fun k => decide (k.1 = parm e 1) with
    | none => s.complete e sINVALID_FIELD 0
    | some k =>
      if s.job.isSome ∨ s.winOver k.1 k.2 then s.complete e sBUSY 0
      else (((s.modHost fun h => { h with keeps := h.keeps.erase k }).setRights k.1 k.2 0).unmapSegs (segsOf k.1 k.2)).complete e sOK 0

def execKeepRelease (e : Entry) (s : State) : Host.Outcome State Fault Refusal := .next (s.keepReleaseCmd e)

/-! ## Windows (R164 to R168, R406, R409, R694) -/

/-- An OPEN that passed every check: at once, or after the delay of R165. -/
def State.openOr (s : State) (e : Entry) (key gen : Nat) (w : Wait) (go : State → State) : State :=
  if s.reopenSoon key (nextGen gen) then (s.modFab fun f => { f with winDelays := f.winDelays ++ [⟨key, some e⟩] }).await e w else go s

/-- MWIN_OPEN (R406). -/
def State.mwinOpenCmd (s : State) (e : Entry) : State :=
  s.cmd e .admin .plain [(1, [(0, 10)]), (2, [(0, 64)]), (3, [(0, 32)]), (4, [(0, 14), (16, 14)]), (5, [(0, 11)])] fun s =>
    let w := bf (parm e 1) 0 10
    if parm e 2 % 256 ≠ 0 then s.complete e sINVALID_FIELD 0
    else if s.rd (F.winCtrlState w) ≠ 0 then s.complete e sWINDOW_STATE 0
    else if !s.mwinFits (parm e 2) (256 * (bf (parm e 3) 0 32 + 1)) then s.complete e sWINDOW_BOUNDS 0
    else s.openOr e (keyMwin w) (s.rd (F.winCtrlGen w)) (.mwinOpen w) fun s => s.openMwin e

def execMwinOpen (e : Entry) (s : State) : Host.Outcome State Fault Refusal := .next (s.mwinOpenCmd e)

/-- MWIN_CLOSE (R409). -/
def State.mwinCloseCmd (s : State) (e : Entry) : State :=
  s.cmd e .admin .plain [(1, [(0, 10)])] fun s =>
    let w := bf (parm e 1) 0 10
    if s.rd (F.winCtrlState w) = 0 then s.complete e sWINDOW_STATE 0 else (s.closeMwin w).await e (.mwinClose w)

def execMwinClose (e : Entry) (s : State) : Host.Outcome State Fault Refusal := .next (s.mwinCloseCmd e)

/-- A tile window command: its scope, then the checks of R694 up to the tile; every parameter bit passes the common check first, since
NOT_PLACED comes before INVALID_FIELD. -/
def State.tilewinCmd (s : State) (e : Entry) (used : List (Nat × List (Nat × Nat))) (f : State → Nat → Nat → State) : State :=
  s.cmd { e with rsv := 0 } .job .jobCmd [(1, [(0, 64)]), (2, [(0, 64)]), (3, [(0, 64)]), (4, [(0, 64)]), (5, [(0, 64)]), (6, [(0, 64)]), (7, [(0, 64)])]
    fun s =>
      let t := bf (parm e 1) 0 15
      if !(s.job.any (·.sealed)) then s.complete e sNOT_PLACED 0
      else if e.rsv ≠ 0 ∨ extraBits e used ∨ parm e 2 % 256 ≠ 0 ∨ !s.jobTiles.contains t then s.complete e sINVALID_FIELD 0
      else f s t (bf (parm e 1) 16 2)

/-- TILEWIN_OPEN (R165). -/
def State.tilewinOpenCmd (s : State) (e : Entry) : State :=
  s.tilewinCmd e [(1, [(0, 18)]), (2, [(0, 18)]), (3, [(0, 10)]), (4, [(0, 14), (16, 14)]), (5, [(0, 2)])] fun s t n =>
    if s.rd (F.tileWinState t n) ≠ 0 then s.complete e sWINDOW_STATE 0
    else if !s.inWindowRegion t (parm e 2) (256 * (bf (parm e 3) 0 10 + 1)) then s.complete e sWINDOW_BOUNDS 0
    else s.openOr e (keyTile t n) (s.rd (F.tileWinGen t n)) (.tilewinOpen t n) fun s => s.openTileWin e

def execTilewinOpen (e : Entry) (s : State) : Host.Outcome State Fault Refusal := .next (s.tilewinOpenCmd e)

/-- TILEWIN_CLOSE (R168). Its words 2 to 5 are reserved: "W1 as TILEWIN_OPEN". -/
def State.tilewinCloseCmd (s : State) (e : Entry) : State :=
  s.tilewinCmd e [(1, [(0, 18)])] fun s t n =>
    if s.rd (F.tileWinState t n) = 0 then s.complete e sWINDOW_STATE 0 else (s.closeTileWin t n).await e (.tilewinClose t n)

def execTilewinClose (e : Entry) (s : State) : Host.Outcome State Fault Refusal := .next (s.tilewinCloseCmd e)

/-! ## Routes (R400, R405, R418) -/

/-- An entry names a link that the variant lacks, or sets a reserved bit. -/
def State.routeBad (s : State) (v : Nat) : Bool :=
  decide (2 ^ 14 ≤ v) || (bit v 6 && decide (s.variant.links ≤ bf v 0 6)) || (bit v 13 && decide (s.variant.links ≤ bf v 7 6))

/-- The entries of a module in the tables of the port dies. -/
def State.routeEntries (s : State) (m : Nat) : Nat × List Nat := (m, (List.range s.variant.portDies).map fun p => s.rd (routeFld p m 0 14))

/-- ROUTE_SET (R405, R470): completes when every route change has fenced. It keeps the entries that it replaces (R467). -/
def State.routeSetCmd (s : State) (e : Entry) : State :=
  s.cmd e .admin .plain [(1, [(3, 61)]), (2, [(0, 29)])] fun s =>
    let m := bf (parm e 2) 0 14
    let n := bf (parm e 2) 14 15
    if n = 0 ∨ 16384 < m + n then s.complete e sINVALID_FIELD 0
    else s.hostRead e (parm e 1) (2 * n) fun bs =>
      let vs := (List.range n).map fun i => (m + i, leNat ((bs.drop (2 * i)).take 2))
      if vs.any fun v => s.routeBad v.2 then s.complete e sINVALID_FIELD 0
      else
        let old := vs.map fun v => s.routeEntries v.1
        let s := (vs.foldl (fun s v => s.setRoute v.1 0 14 v.2) s).rerouted
        (s.await e (.routeSet old)).fenced

def execRouteSet (e : Entry) (s : State) : Host.Outcome State Fault Refusal := .next (s.routeSetCmd e)

/-! ## Leashes, collars, kennels -/

/-- Configured reservation of a collar, one that waits for its boundary included. -/
def State.leashSet (s : State) (c cls : Nat) : Nat :=
  match (s.bound.leashes.filter fun l => decide (l.1 = c)).getLast? with
  | some l => l.2.getD cls 0
  | none => s.leash c cls

/-- LEASH_SET (R362, R367). -/
def State.leashSetCmd (s : State) (e : Entry) : State :=
  s.cmd e .admin .plain [(1, [(0, 4)]), (2, [(0, 63)]), (3, [(0, 42)]), (4, [(0, 32)])] fun s =>
    let c := bf (parm e 1) 0 4
    let v := [bf (parm e 2) 0 21, bf (parm e 2) 21 21, bf (parm e 2) 42 21, bf (parm e 3) 0 21, bf (parm e 3) 21 21, bf (parm e 4) 0 16, bf (parm e 4) 16 16]
    let sum (cls : Nat) : Nat := ((List.range 16).map fun k => if k = c then v.getD cls 0 else s.leashSet k cls).sum
    if (c < 2 ∧ v.any fun x => decide (x ≠ 0)) ∨ (List.range 5).any fun cls => decide (s.nominal cls * 9 / 10 < sum cls) then
      s.complete e sOVERCOMMIT 0
    else
      let s := { s with bound := { s.bound with leashes := s.bound.leashes ++ [(c, v)] } }
      (if s.rd F.keepPassStatState = psRUNNING then s else s.applyLeashes).complete e sOK 0

def execLeashSet (e : Entry) (s : State) : Host.Outcome State Fault Refusal := .next (s.leashSetCmd e)

/-- KENNEL_SET (R263, R470): at the next pass boundary, which is now where no pass is uncommitted. -/
def State.kennelSetCmd (s : State) (e : Entry) : State :=
  s.cmd e .job .jobCmd [(1, [(0, 16)]), (2, [(0, 7)])] fun s =>
    if !(s.job.any (·.sealed)) then s.complete e sNOT_PLACED 0
    else match s.job.bind fun j => j.tensors[bf (parm e 1) 0 16]? with
      | none => s.complete e sINVALID_FIELD 0
      | some x =>
        if x.cls = 4 then s.complete e sINVALID_FIELD 0
        else if s.pass.isSome then s.await e .kennel
        else s.applyKennel e

def execKennelSet (e : Entry) (s : State) : Host.Outcome State Fault Refusal := .next (s.kennelSetCmd e)

/-- COLLAR_CFG (R370): with esc_en 0 every escalation step is 0. -/
def State.collarCfgCmd (s : State) (e : Entry) : State :=
  s.cmd e .admin .plain [(1, [(0, 6)])] fun s =>
    let s := s.setReg R.keepCollarCfg (BitVec.ofNat 64 (bf (parm e 1) 0 6))
    let s := if s.on F.keepCollarCfgEscEn then s
      else (List.range 512).foldl (fun s n => (s.setReg (R.sliceEsc n) 0).setReg (R.hbmcChEsc (n / 16) (n % 16)) 0) s
    s.complete e sOK 0

def execCollarCfg (e : Entry) (s : State) : Host.Outcome State Fault Refusal := .next (s.collarCfgCmd e)

/-! ## Notices and log -/

/-- EVENT_MASK (R476). -/
def State.eventMaskCmd (s : State) (e : Entry) : State :=
  s.cmd e .admin .plain [(1, [(0, 16)])] fun s => (s.modHost fun h => { h with mask := bf (parm e 1) 0 16 }).complete e sOK 0

def execEventMask (e : Entry) (s : State) : Host.Outcome State Fault Refusal := .next (s.eventMaskCmd e)

/-- LOG_READ (R524). -/
def State.logReadCmd (s : State) (e : Entry) : State :=
  s.cmd e .admin ⟨true, false, false, true⟩ [(1, [(3, 61)]), (2, [(0, 32)]), (3, [(0, 1)])] fun s =>
    let n := bf (parm e 2) 0 32
    if n < 32 then s.complete e sINVALID_FIELD 0
    else
      let rs := s.keep.log.take (n / 32 - 1)
      let first := (s.rd F.keepLogStatNextIndex + 65536 - s.rd F.keepLogStatUnread) % 65536
      let head := leBytes 8 (first + rs.length % 65536 * 2 ^ 16 + s.rd F.keepLogStatLost * 2 ^ 32) ++ List.replicate 24 0
      let bytes := head ++ rs.flatMap (·.bytes)
      if !e.inp.wrOk then s.hostFail e (parm e 1)
      else
        let t := if bit (parm e 3) 0 then
            { s with keep := { s.keep with log := s.keep.log.drop rs.length } }.wrs
              [(F.keepLogStatUnread, s.rd F.keepLogStatUnread - rs.length), (F.keepLogStatLost, 0)]
          else s
        t.reply e (parm e 1) bytes sOK bytes.length

def execLogRead (e : Entry) (s : State) : Host.Outcome State Fault Refusal := .next (s.logReadCmd e)

/-! ## BARs (R460, R461, R481 to R483) -/

/-- An abnormal host access (R494). -/
def State.hostErr (s : State) (kind bar off : Nat) : State :=
  let s := s.record F.hostwErrValid F.hostwErrMulti [(F.hostwErrKind, kind), (F.hostwErrBar, bar), (F.hostwErrOffset, off)]
  if kind ≤ 1 then s.bump Ev.hostUr .module 1 else s

/-- A host write is dropped; AER logs one that no page or register takes as an Unsupported Request (R483). -/
def State.dropWrite (s : State) (kind bar off : Nat) : State :=
  let s := s.hostErr kind bar off
  if kind ≤ 1 then s.modHost fun h => { h with aer := true } else s

/-- A host read completes: its status (0 successful, 1 Unsupported Request, 2 Completer Abort), whether its EP bit is set, and its data (R483). -/
def State.readDone (s : State) (status : Nat) (ep : Bool) (data : List Byte) : State :=
  s.modHost fun h => { h with readStatus := status, readEp := ep, readData := data }

/-- BAR2 completes as under PARTITION_DOWN (R483, R510, R544, R579). -/
def State.bar2Down (s : State) : Bool := s.computeDown || decide (s.rd F.keepFaultStatState ≠ 0)

/-- A BAR2 access reaches no mapped page. -/
def State.bar2Ur (s : State) (off len : Nat) : Bool :=
  decide (len = 0) || decide (2 ^ 32 < off + len) || s.refused (s.variant.exchBase + off) false || s.refused (s.variant.exchBase + off + len - 1) false

/-- Collar of host accesses through BAR2 (R352, R370). -/
def State.hostCollar (s : State) : Nat := let c := s.rd F.keepCollarCfgHostCollar; if c ≤ 1 then 8 else c

/-- A host read through the Exchange window: committed contents; a poisoned word reads as all ones, and a read that the dead table refuses
completes as one of an unmapped page (R265). One that holds a poisoned word completes with the EP bit set (R483). It waits for a busy channel
(R335, R337). `met` is what it meets at the slices. -/
def State.bar2Read (s : State) (off len : Nat) (met : List SliceDec) : State :=
  let s := s.wake
  if s.bar2Down then (s.hostErr 2 1 off).readDone 2 false []
  else if s.bar2Ur off len then (s.hostErr 0 1 off).readDone 1 false []
  else if s.memBusy (s.variant.exchBase + off) len then s
  else
    match (s.settleFills (s.variant.exchBase + off) len met).readAt false s.hostCollar (s.variant.exchBase + off) len met with
    | (s, none) => (s.hostErr 0 1 off).readDone 1 false []
    | (s, some bs) =>
      let s := (s.bump Ev.hostBar2Rd .module 1).readDone 0 (anyPois bs) (bs.map fun b => if b.p then 0xFF else b.b)
      if anyPois bs then (s.hostErr 3 1 off).bump Ev.hostPoisonCpl .module 1 else s

def execBar2Read (off len : Nat) (met : List SliceDec) (s : State) : Host.Outcome State Fault Refusal :=
  .next (s.hostAccess true fun s => s.bar2Read off len met)

/-- Code of the party that consumes a segment of a direction, and whether the host produces it (R477, R478). -/
def consumerOf (d : Nat) : Nat := match d with | 0 => 2 | 1 => 1 | 2 => 3 | _ => 1
def hostProduces (d : Nat) : Bool := decide (d % 2 = 0)

/-- The host holds a segment: its own code, or NONE where it produces. -/
def hostHolds (d flag : Nat) : Bool := decide (flag % 4 = 1) || (decide (flag % 4 = 0) && hostProduces d)

/-- A legal step of the host (R479). -/
def legalStep (d segLog2 old new : Nat) : Bool :=
  decide (bf new 2 6 = 0) &&
    ((decide (old % 4 = 0) && hostProduces d && decide (new % 4 = consumerOf d) && decide (bf new 8 24 = (bf old 8 24 + 1) % 2 ^ 24)
        && decide (new / 2 ^ 32 ≤ 2 ^ segLog2))
     || (decide (old % 4 = 1) && !hostProduces d && decide (new % 4 = 0) && decide (bf new 8 24 = bf old 8 24) && decide (new / 2 ^ 32 = 0)))

/-- The owner table refuses a write (R481): whether it is for a flag, and the segment. -/
def State.ownerRefuses (s : State) (off : Nat) (data : List Byte) : Option (Bool × Nat) :=
  let k := s.rd F.hostwExchSegLog2
  let n := s.rd F.hostwExchNSeg
  if off < 0x10000 then
    let i := off / 8
    if off % 8 ≠ 0 ∨ data.length ≠ 8 ∨ n ≤ i ∨ !legalStep (s.segDir i) k (s.flagWord i) (leNat data) then some (true, i) else none
  else
    let a := (off - 0x10000) / 2 ^ k
    let b := (off + data.length - 1 - 0x10000) / 2 ^ k
    (((List.range (b - a + 1)).map (· + a)).find? fun i => decide (n ≤ i) || !hostHolds (s.segDir i) (s.flagWord i)).map fun i => (false, i)

/-- A host write through the Exchange window. Earlier BAR2 writes are in module memory before it, so a flag needs no wait (R482). -/
def State.bar2Write (s : State) (off : Nat) (data : List Byte) (met : List SliceDec) : State :=
  let s := s.wake
  if s.bar2Down then s.dropWrite 2 1 off
  else if s.bar2Ur off data.length then s.dropWrite 0 1 off
  else match s.ownerRefuses off data with
    | some (flag, i) =>
      let s := s.record F.hostwViolValid F.hostwViolMulti
        [(F.hostwViolFlag, b2n flag), (F.hostwViolSegment, i), (F.hostwViolOffset, off), (F.hostwViolOwner, s.flagWord i % 4)]
      (s.bump Ev.hostOwnerViol .module 1).notice 7 sOWNER_VIOLATION (s.reg R.hostwViol).toNat
    | none =>
      if s.memBusy (s.variant.exchBase + off) data.length then s
      else ((s.settleFills (s.variant.exchBase + off) data.length met).bump Ev.hostBar2Wr .module 1).poke (s.variant.exchBase + off) (plain data) s.hostCollar met

def execBar2Write (off : Nat) (data : List Byte) (met : List SliceDec) (s : State) : Host.Outcome State Fault Refusal :=
  .next (s.hostAccess true fun s => s.bar2Write off data met)

/-- BAR4 is open from S1 on, but for the time that S2 and FW_STAGE copy from it (R483, R647). -/
def State.bar4Open (s : State) : Bool :=
  s.on F.bootStatusDoneValid && decide (1 ≤ s.rd F.bootStatusDoneUpto) && !(s.boot.running && decide (s.rd F.bootStatusStep = 2))

def execBar4Write (off : Nat) (data : List Byte) (s : State) : Host.Outcome State Fault Refusal :=
  .next (s.hostAccess true fun s =>
    if 2 ^ 25 < off + data.length then s.dropWrite 0 2 off
    else if !s.bar4Open then s.dropWrite 5 2 off
    else { s with fw := { s.fw with bar4 := msets s.fw.bar4 off data } })

/-- A host read of `len` bytes through BAR4, which the table of commands has no row for (R483; log entry 105). -/
def State.bar4Read (s : State) (off len : Nat) : State :=
  if 2 ^ 25 < off + len then (s.hostErr 0 2 off).readDone 1 false []
  else if !s.bar4Open then (s.hostErr 5 2 off).readDone 2 false []
  else s.readDone 0 false (mgets s.fw.bar4 off len)

/-! ## Register writes (R461, R691, R693) -/

/-- Blocks of BAR0 (R687): first offset, bytes, whether the host may write it, whether it belongs to the compute partition. -/
def blocks : List (Nat × Nat × Bool × Bool) :=
  [(0x0, 0x2000, false, false), (0x2000, 0x1000, true, false), (0x3000, 0x2000, true, false), (0x5000, 0x100, true, false),
   (0x5100, 0x100, false, false), (0x5200, 0x100, false, false), (0x5300, 0x100, false, false), (0x5400, 0x100, false, false),
   (0x6000, 0x400, false, true), (0x6400, 0x400, false, false), (0x7000, 0x1000, false, false), (0x8000, 0x2000, false, false),
   (0xA000, 0x1000, false, false), (0xC000, 0x2000, false, false), (0x10000, 0x8000, false, false), (0x18000, 0x8000, false, true),
   (0x20000, 0x8000, false, false), (0x80000, 0x80000, false, true), (0x100000, 0x100000, false, true), (0x200000, 0x100000, false, false),
   (0x400000, 0x800000, false, true), (0xC00000, 0x3200000, false, true)]

/-- The block of an offset. -/
def blockAt (o : Nat) : Option (Bool × Bool) := (blocks.find? fun b => decide (b.1 ≤ o) && decide (o < b.1 + b.2.1)).map (·.2.2)

/-- Registers or bits whose writes have rows of their own (SQ_TAIL_WRITE, CQ_HEAD_WRITE, QUEUE_ENABLE and QUEUE_DISABLE; TILE_RUN, TILE_STOP
and TILE_RESET; PORT_ROUTE_WRITE and the FLOOR table rows; KENNEL_ENABLE; SLICE_MODE_SET; LINK_ENABLE and LINK_DISABLE): a register write leaves these bits. -/
def ownRow (a : Nat) : Nat :=
  if 0x2000 ≤ a ∧ a < 0x2400 then
    let r := a % 0x40
    if r = 0x10 then 1 else if r = 0x18 ∨ r = 0x20 then 0xFFF else 0
  else if 0x6000 ≤ a ∧ a < 0x6400 then 2 ^ 64 - 1
  else if 0x20000 ≤ a ∧ a < 0x28000 ∧ a % 0x200 = 0 then 1
  else if 0x80000 ≤ a ∧ a < 0x100000 ∧ a % 0x400 = 0 then 0xF
  else if 0x200000 ≤ a ∧ a < 0x300000 ∧ 0x10000 ≤ a % 0x20000 then 2 ^ 64 - 1
  else if 0x400000 ≤ a ∧ a < 0xC00000 ∧ 0x10000 ≤ a % 0x100000 then 2 ^ 64 - 1
  else if 0xC00000 ≤ a ∧ a < 0x3E00000 ∧ a % 0x800 = 0 then 1
  else 0

/-- Bits that a write leaves while a unit uses them: a ring's bases while its queue is enabled (R486), and a
window's fields other than the command while it is Open or Closing (R181, R406). -/
def State.frozenBits (s : State) (a : Nat) : Nat :=
  if 0x2000 ≤ a ∧ a < 0x2400 then
    (if !s.on (F.cmdqQcfgEnable ((a - 0x2000) / 0x40)) then 0
     else if a % 0x40 = 0 ∨ a % 0x40 = 8 then 2 ^ 64 - 1 else 0)
  else if 0x10000 ≤ a ∧ a < 0x14000 then (if s.rd (F.winCtrlState ((a - 0x10000) / 0x10)) = 0 then 0 else 2 ^ 64 - 1)
  else if 0xC00000 ≤ a ∧ a < 0x3E00000 ∧ 0x280 ≤ a % 0x800 ∧ a % 0x800 < 0x2A0 then
    (if s.rd (F.tileWinState ((a - 0xC00000) / 0x800) ((a % 0x800 - 0x280) / 8)) = 0 then 0 else 2 ^ 64 - 1)
  else 0

/-- Instances of unpopulated sites ignore writes: of HBMC, LINK and PORT (the heads of the registers of spec/10_hbm.md and
spec/12_weapex_links.md). -/
def State.inertReg (s : State) (a : Nat) : Bool :=
  (decide (0x18000 ≤ a) && decide (a < 0x20000) && decide (s.variant.stacksPerFloor ≤ (a - 0x18000) / 0x400 % 4))
    || (decide (0x20000 ≤ a) && decide (a < 0x28000) && decide (s.variant.links ≤ (a - 0x20000) / 0x200))
    || (decide (0x200000 ≤ a) && decide (a < 0x300000) && decide (s.variant.portDies ≤ (a - 0x200000) / 0x20000))

/-- Registers with a count of corrected words that goes with its valid bit (R180, R281, R528). -/
def ceReg (a : Nat) : Bool :=
  decide (a = R.keepMemErr) || (decide (0x80000 ≤ a) && decide (a < 0x100000) && decide (a % 0x400 = 0x10))
    || (decide (0xC00000 ≤ a) && decide (a < 0x3E00000) && decide (a % 0x800 = 0x258))

/-- Bits that a write clears: those written 1 of type RW1C, and with them what a register clears besides (R180, R281, R490, R528). -/
def clearedBits (a w1c v : Nat) : Nat :=
  let c := v &&& w1c
  if a = R.cmdqEvtLost ∧ c ≠ 0 then w1c else if ceReg a = true ∧ bit c 0 then c ||| 0xFFFF00000000 else c

/-- Write register bits: RW fields take the value, RW1C fields clear where a 1 is written, others stay. `lo` and `n` are the bits that the
access carries. -/
def State.regWrite (s : State) (a lo n : Nat) (v : Nat) : State :=
  match regDefAt a with
  | none => match evtSelKey a with
    | some k => s.evtSelWrite k (2 ^ lo * (2 ^ n - 1)) (2 ^ lo * (v % 2 ^ n))
    | none => s
  | some d =>
    let m := 2 ^ lo * (2 ^ n - 1)
    let keep : W64 := ~~~ (BitVec.ofNat 64 (ownRow a) ||| BitVec.ofNat 64 (s.frozenBits a))
    let rw : W64 := BitVec.ofNat 64 d.rw &&& BitVec.ofNat 64 m &&& keep
    let val : W64 := BitVec.ofNat 64 (2 ^ lo * (v % 2 ^ n))
    let clr : W64 := BitVec.ofNat 64 (clearedBits a d.w1c val.toNat)
    if s.inertReg a then s else s.setReg a (((s.reg a &&& ~~~ rw) ||| (val &&& rw)) &&& ~~~ clr)

/-- A window command written to a register: OPEN at once or after the delay of R165, CLOSE of an Open window (R181, R423). While an OPEN
waits out its delay the window is Closed: a CLOSE finds nothing to close, and the OPEN stands (DESIGN CHOICE, log entry 102). -/
def State.winRegCmd (s : State) (key gen cmd : Nat) (open_ : Bool) (close : State → State) : State :=
  if cmd = 1 then
    (if open_ then s
     else if s.reopenSoon key (nextGen gen) then s.modFab fun f => { f with winDelays := f.winDelays ++ [⟨key, none⟩] } else s.regOpens key)
  else if cmd = 2 then close s else s

/-- Effects of a write on a tile's page, at page offset `o`, beyond the bits it stores: a TILE_SR_STATE of 0 becomes 0x9E37_79B9 (R95, R103),
and the WO bits act (R177, R181, R215). A write of TILE_SPD_CLEAR while Run sets clear_rej, with go or without (R152). -/
def State.tileRegActs (s : State) (t o v : Nat) : State :=
  if o = 0x130 then (if s.rd (F.tileSrStateState t) = 0 then s.setReg (R.tileSrState t) 0x9E3779B9 else s)
  else if o = 0x240 then
    (s.when (bit v 1) fun s => s.conflClear t).when (bit v 2) fun s => s.modTile t fun x => { x with near := [] }
  else if o = 0x248 then
    (if s.running t then s.wr (F.tileSpdStatClearRej t) 1
     else s.when (bit v 20) fun s => s.bulkClear t (s.rd (F.tileSpdClearBase t)) (s.rd (F.tileSpdClearLenM1 t)))
  else if 0x280 ≤ o ∧ o < 0x2A0 then
    let n := (o - 0x280) / 8
    s.winRegCmd (keyTile t n) (s.rd (F.tileWinGen t n)) (bf v 2 2) (decide (s.rd (F.tileWinState t n) ≠ 0)) fun s => s.closeTileWin t n
  else if o = 0x420 then s.when (bit v 1) fun s => s.modTile t fun x => { x with scent := [] }
  else s

/-- Registers whose writes do more than store bits. -/
def actReg (a : Nat) : Bool :=
  (decide (0x10000 ≤ a) && decide (a < 0x14000) && decide (a % 0x10 = 0)) || (decide (0x20000 ≤ a) && decide (a < 0x28000) && decide (a % 0x200 = 0))
    || (List.range 16).any (fun t => [R.packTreeCtrl t, R.packTreeKids0 t, R.packTreeKids1 t].contains a)
    || (decide (0x100000 ≤ a) && decide (a < 0x200000) && decide (a % 0x20000 = 0)) || (decide (0xC00000 ≤ a) && decide (a < 0x3E00000)
      && [0x130, 0x240, 0x248, 0x280, 0x288, 0x290, 0x298, 0x420].contains (a % 0x800))

/-- A write of a tree's registers: enable = 0 ends its operation, and n_child follows the child slots (R453, R454). -/
def State.treeReg (s : State) (t : Nat) : State :=
  let s := s.wr (F.packTreeCtrlNChild t) (s.kids t).length
  if s.on (F.packTreeCtrlEnable t) ∨ ((s.tree t).op.isNone ∧ (s.tree t).starts.isEmpty) then s else (s.disableTree t).tryLaunch

/-- Effects of a write of the bits `v` beyond what it stores: the WO bits of windows, links, the bond scan and tiles (R423, R419, R238), and a
tree's registers (R453). -/
def State.regActs (s : State) (a v : Nat) : State :=
  if !actReg a then s
  else if R.packTreeCtrl 0 ≤ a ∧ a < R.packTreeCtrl 16 then s.treeReg ((a - R.packTreeCtrl 0) / 0x40)
  else if a < 0x14000 then
    let w := (a - 0x10000) / 0x10
    s.winRegCmd (keyMwin w) (s.rd (F.winCtrlGen w)) (bf v 2 2) (decide (s.rd (F.winCtrlState w) ≠ 0)) fun s => s.closeMwin w
  else if a < 0x28000 then s.when (bit v 1 && s.linkExists ((a - 0x20000) / 0x200)) fun s => s.startRetrain ((a - 0x20000) / 0x200) true
  else if a < 0x200000 then s.when (bit v 1) fun s => s.scanStart ((a - 0x100000) / 0x20000)
  else s.tileRegActs ((a - 0xC00000) / 0x800) (a % 0x800) v

/-- A write over BAR0 or by the Keeper. A host's write of BOOT_STEP.go is a GO (R530, R549). -/
def State.registerWrite (s : State) (off size : Nat) (v : W64) (by_ : Writer) : State :=
  let a := off / 8 * 8
  let lo := if size = 4 ∧ off % 8 = 4 then 32 else 0
  let host := decide (by_ = .host)
  if (size ≠ 4 ∧ size ≠ 8) ∨ off % size ≠ 0 then (if host then s.dropWrite 1 0 off else s)
  else match blockAt off with
    | none => if host then s.dropWrite 0 0 off else s
    | some (hostOk, compute) =>
      if compute && s.computeDown then (if host then s.dropWrite 2 0 off else s)
      else if host && !hostOk then s.dropWrite 4 0 off
      else
        let t := (s.regWrite a lo (8 * size) v.toNat).regActs a (2 ^ lo * (v.toNat % 2 ^ (8 * size)))
        let s := if R.keepLatTgt 0 ≤ a ∧ a ≤ R.keepLatTgt 15 then t.latFollow s ((a - R.keepLatTgt 0) / 8) else if a = R.keepCollarCfg then t.escFollow else t
        if host = true ∧ off = R.bootStep ∧ bit v.toNat 4 then s.stepGo (v.toNat % 16) else s

def execRegisterWrite (off size : Nat) (v : W64) (by_ : Writer) (s : State) : Host.Outcome State Fault Refusal :=
  .next (match by_ with
    | .host => s.hostAccess true fun s => s.registerWrite off size v .host
    | .keeper => s.registerWrite off size v .keeper)

/-! ## Register reads (R461, R687, R693) -/

/-- The counter whose count register lies at a BAR0 offset (R641, R642). -/
def evtCntKey (a : Nat) : Option Nat :=
  if 0xC000 ≤ a ∧ a < 0xE000 then (if 0xD200 ≤ a then evtSelKey (a - 0x200) else none) else evtSelKey (a - 0x20)

/-- A register by its BAR0 offset as it reads: those of tiles, SLICE_STAT and the event counters show what units hold; an offset that holds no
register reads 0 (R461). -/
def State.regRead (s : State) (a : Nat) : W64 :=
  if 0xC00000 ≤ a ∧ a < 0x3E00000 then s.tileReg ((a - 0xC00000) / 0x800) (a % 0x800)
  else if 0x80000 ≤ a ∧ a < 0x100000 ∧ a % 0x400 = 8 then s.sliceStat ((a - 0x80000) / 0x400)
  else match evtSelKey a, evtCntKey a with
    | some k, _ => (s.counter k).sel
    | none, some k => s.ctrCount k
    | none, none => if (regDefAt a).isSome then s.reg a else 0

/-- The part of the register that an access of `size` bytes carries. A 4-byte read of the low half of TIME_NOW latches its high half, which
the next 4-byte read of that half returns (R615). -/
def State.regPart (s : State) (off size : Nat) : Nat × State :=
  let v := (s.regRead (off / 8 * 8)).toNat
  if size = 8 then (v, s)
  else if off = R.timeNow then (v % 2 ^ 32, s.modHost fun h => { h with timeHigh := v / 2 ^ 32 })
  else if off = R.timeNow + 4 then (s.host.timeHigh, s)
  else (v / (if off % 8 = 4 then 2 ^ 32 else 1) % 2 ^ 32, s)

/-- A host read of BAR0 (R461, R483, R693), which the table of commands has no row for (log entry 105). -/
def State.bar0Read (s : State) (off size : Nat) : State :=
  if (size ≠ 4 ∧ size ≠ 8) ∨ off % size ≠ 0 then (s.hostErr 1 0 off).readDone 1 false []
  else match blockAt off with
    | none => (s.hostErr 0 0 off).readDone 1 false []
    | some (_, compute) =>
      if compute && s.computeDown then (s.hostErr 2 0 off).readDone 2 false []
      else
        let (v, s) := s.regPart off size
        s.readDone 0 false (leBytes size v)

/-! ## PCIe (R485, R675) -/

/-- The PCIe link is down while the module has power: every queue is cut off, and the log notes it (R485, R501 code 33). -/
def State.pcieDown (s : State) : State :=
  if s.host.linkUp then (s.cutQueues.modHost fun h => { h with linkUp := false }).faultLog 33 1 0 0 0 0 R.hostwErr else s

def execPcieLinkDown (s : State) : Host.Outcome State Fault Refusal := .next s.pcieDown

/-- The link returns; PERST# is released by then. -/
def execPcieLinkUp (s : State) : Host.Outcome State Fault Refusal :=
  .next (if s.power.powered then (s.modHost fun h => { h with linkUp := true }).modPower fun p => { p with perst := false } else s)

/-- PERST# acts on the endpoint as a link down (R675). -/
def execPerstAssert (s : State) : Host.Outcome State Fault Refusal :=
  .next (if s.power.powered then s.pcieDown.modPower fun p => { p with perst := true } else s)

end Sys2Proof.Machine
end

