-- ==== Sys2Proof/Machine/Place.lean ====
section
/-! DEFINITION. The Placer (R25 to R35, R340, R701 to R703): what a lawful placement is, which hints can be met, the placement that a job takes,
and the shortfall record. Which of the lawful placements the Placer takes is not stated: it is a free function of the inputs of R33 (log
entry 8). -/

namespace Sys2Proof.Machine

/-! ## Hints (R32, R472, R696) -/

/-- A hint: kind, two arguments, value. -/
structure Hint where
  kind : Nat
  a : Nat
  b : Nat
  v : Nat
deriving DecidableEq, Repr

/-- Hints as read: none where an entry is malformed (R696). -/
def parseHints (j : Job) (n : Nat) (bs : List Byte) : Option (List Hint) :=
  let st (x : Nat) : Bool := decide (x < j.stages.length)
  let tn (x : Nat) : Bool := decide (x < j.tensors.length)
  let hs := (List.range n).map fun i =>
    let w := leNat ((bs.drop (16 * i)).take 8)
    let h : Hint := ⟨bf w 0 4, bf w 8 16, bf w 24 16, bf w 40 3⟩
    let ok := decide (w < 2 ^ 43) && decide (leNat ((bs.drop (16 * i + 8)).take 8) = 0) &&
      (match h.kind with
       | 1 => st h.a && st h.b && decide (h.v = 0)
       | 2 => st h.a && tn h.b && decide (h.v = 0)
       | 3 => tn h.a && decide (h.b = 0) && decide (h.v ≤ 1)
       | 4 => tn h.a && decide (h.b = 0) && decide (1 ≤ h.v) && decide (h.v ≤ 4)
       | 5 | 6 => st h.a && decide (h.b = 0) && decide (h.v = 0)
       | _ => false)
    if ok then some h else none
  if hs.all (·.isSome) then some (hs.filterMap id) else none

/-! ## Regions (R25, R26) -/

/-- Row and column of a region's low corner. -/
def rowOf (p : StagePlan) : Nat := p.base / 160
def colOf (p : StagePlan) : Nat := p.base % 160

/-- Tiles of a region. -/
def planTiles (p : StagePlan) : List Nat := (List.range p.h).flatMap fun y => (List.range p.w).map fun x => p.base + 160 * y + x

/-- Deck dies that a region lies on (R13). -/
def planDies (p : StagePlan) : List Nat :=
  let a := rowOf p / 40
  let b := colOf p / 80
  (List.range ((rowOf p + p.h - 1) / 40 - a + 1)).flatMap fun i => (List.range ((colOf p + p.w - 1) / 80 - b + 1)).map fun k => 2 * (a + i) + (b + k)

/-- Two regions overlap. -/
def rectOver (p q : StagePlan) : Bool := overlap (rowOf p) p.h (rowOf q) q.h && overlap (colOf p) p.w (colOf q) q.w

/-- Two regions touch: they share an edge or a part of one; a corner is not enough (R32 states no more than "touch": DESIGN CHOICE, log entry 86). -/
def rectTouch (p q : StagePlan) : Bool :=
  (overlap (rowOf p) p.h (rowOf q) q.h && (decide (colOf p + p.w = colOf q) || decide (colOf q + q.w = colOf p)))
    || (overlap (colOf p) p.w (colOf q) q.w && (decide (rowOf p + p.h = rowOf q) || decide (rowOf q + q.h = rowOf p)))

/-- Usable logical tiles. -/
def State.usable (s : State) : Nat := ((List.range 1280).map fun k => min 20 (21 - (s.bad k).length)).sum

/-- Die and physical sector of a plane sector, and the sector whose shaft serves it (R237). -/
def sectorOf (sec : Nat) : Nat × Nat := (2 * (sec / 8 / 40) + sec % 8 / 4, 4 * (sec / 8 % 40) + sec % 4)
def State.shaftOf (s : State) (sec : Nat) : Nat × Nat :=
  let d := sectorOf sec
  if s.portIn d.1 d.2 then d else (d.1, s.rd (F.deckShaftStatPartner d.1 d.2))

/-- Demand on a sector's shaft of stages at their regions, downward or upward. -/
def State.demand (s : State) (gs : List (StageSt × StagePlan)) (up : Bool) (sh : Nat × Nat) : Nat :=
  (gs.map fun g => (if up then g.1.up else g.1.down) * ((planTiles g.2).filter fun t => decide (s.shaftOf (t / 20) = sh)).length).sum

/-- Limit of a shaft in one direction (R26). -/
def State.shaftLimit (s : State) (up : Bool) (sh : Nat × Nat) : Nat :=
  let st := s.rd (if up then F.deckShaftStatUpState sh.1 sh.2 else F.deckShaftStatDownState sh.1 sh.2)
  if st = 0 then 92160 else if st ≤ 2 then 46080 else 0

/-- The demand that breaks a limit with the last stage added: demand and limit, none if every limit holds. -/
def State.shaftOver (s : State) (gs : List (StageSt × StagePlan)) : Option (Nat × Nat) :=
  if gs.all fun g => decide (g.1.down = 0) && decide (g.1.up = 0) then none
  else
    let shs := ((gs.flatMap fun g => (planTiles g.2).map (· / 20)).eraseDups.map s.shaftOf).eraseDups
    (shs.flatMap fun sh => [(s.demand gs false sh, s.shaftLimit false sh), (s.demand gs true sh, s.shaftLimit true sh)]).find? fun d => decide (d.2 < d.1)

/-- A region suits a stage and the tiles that are present. -/
def State.fits (s : State) (g : StageSt) (p : StagePlan) : Bool :=
  decide (p.h * p.w = g.tiles) && (decide (g.h = 0) || (decide (p.h = g.h) && decide (p.w = g.w))) && decide (1 ≤ p.h) && decide (1 ≤ p.w)
    && decide (rowOf p + p.h ≤ 160) && decide (colOf p + p.w ≤ 160) && (planTiles p).all fun t => s.tilePresent t

/-- Pairs of a list. -/
def pairsOk {α : Type} (ok : α → α → Bool) : List α → Bool
  | [] => true
  | a :: t => t.all (ok a) && pairsOk ok t

/-- Sort by insertion, keeping the order of equals. -/
def insertBy {α : Type} (le : α → α → Bool) (x : α) : List α → List α
  | [] => [x]
  | a :: t => if le a x then a :: insertBy le x t else x :: a :: t
def sortBy {α : Type} (le : α → α → Bool) (xs : List α) : List α := xs.foldl (fun acc x => insertBy le x acc) []

/-- Shapes of a stage, smallest perimeter first. -/
def shapesOf (g : StageSt) : List (Nat × Nat) :=
  if g.h ≠ 0 then [(g.h, g.w)]
  else
    let all := (List.range 160).filterMap fun k => let h := k + 1; if g.tiles % h = 0 ∧ g.tiles / h ≤ 160 then some (h, g.tiles / h) else none
    sortBy (fun a b => decide (a.1 + a.2 ≤ b.1 + b.2)) all

/-- With shape any, no rectangle of a smaller perimeter fits the area that the other stages leave, within the limits of the shafts (R19, R26). -/
def State.tightest (s : State) (g : StageSt) (p : StagePlan) (others : List (StageSt × StagePlan)) : Bool :=
  decide (g.h ≠ 0) || (shapesOf g).all fun sh => decide (p.h + p.w ≤ sh.1 + sh.2) ||
    (List.range 25600).all fun b => !(s.fits g ⟨b, sh.1, sh.2⟩ && (others.all fun q => !rectOver ⟨b, sh.1, sh.2⟩ q.2)
      && (s.shaftOver (others ++ [(g, ⟨b, sh.1, sh.2⟩)])).isNone)

/-- Every stage of shape any has the smallest perimeter (R19). -/
def State.allTight (s : State) (j : Job) (ps : List StagePlan) : Bool :=
  let gs := j.stages.zip ps
  (gs.zip (List.range gs.length)).all fun g => s.tightest g.1.1 g.1.2 (gs.eraseIdx g.2)

/-- The stages' regions are lawful (R25, R26). -/
def State.stagesOk (s : State) (j : Job) (ps : List StagePlan) : Bool :=
  decide (ps.length = j.stages.length) && ((j.stages.zip ps).all fun g => s.fits g.1 g.2) && pairsOk (fun a b => !rectOver a b) ps
    && (s.shaftOver (j.stages.zip ps)).isNone

/-! ## Hash of a tensor (R27, R32, R340, R703) -/

/-- Floors with no retired channel, once any channel is retired (R340). -/
def State.goodFloors (s : State) : List Nat := (List.range 8).filter fun f => (List.range 64).all fun k => !s.chanRetired (64 * f + k)
def State.anyRetired (s : State) : Bool := (List.range 512).any fun n => s.chanRetired n

/-- Stages that read a tensor. -/
def readers (j : Job) (ti : Nat) : List Nat :=
  (List.range j.stages.length).filter fun k => match j.stages[k]? with
    | some g => g.refs.any fun r => decide (r.tensor = ti) && (decide (r.acc = 0) || decide (r.acc = 3))
    | none => false

/-- The one floor beneath a region. -/
def oneFloor (ps : List StagePlan) (k : Nat) : Option Nat :=
  match (ps[k]?).map planDies with | some [d] => some d | _ => none

/-- The one floor beneath all readers of a tensor. -/
def readFloor (j : Job) (ps : List StagePlan) (ti : Nat) : Option Nat :=
  match ((readers j ti).map fun k => oneFloor ps k).eraseDups with | [some f] => some f | _ => none

/-- A hint on a tensor's hash that can be met: near, and the floor it names. -/
def State.hashHint (s : State) (ps : List StagePlan) (cls ti : Nat) (h : Hint) : Option (Bool × Option Nat) :=
  let good (f : Nat) : Bool := !s.anyRetired || s.goodFloors.contains f
  if h.kind = 2 ∧ h.b = ti then
    match oneFloor ps h.a with
    | some f => if cls ≠ 2 ∧ (good f ∨ cls = 4) then some (true, some f) else none
    | none => none
  else if h.kind = 3 ∧ h.a = ti then
    if (h.v = 1 ∧ cls = 2) ∨ (h.v = 0 ∧ cls = 4) ∨ (h.v = 0 ∧ s.anyRetired ∧ cls ≠ 2) then none else some (decide (h.v = 1), none)
  else none

/-- Near or not, and the floor where it is fixed: the last hint that can be met, else the rule. -/
def State.hashOf (s : State) (j : Job) (hs : List Hint) (ps : List StagePlan) (ti : Nat) (x : TensorSt) : Bool × Option Nat :=
  let rule : Bool × Option Nat :=
    if x.cls = 4 then (true, none)
    else if x.cls = 2 then (false, none)
    else if s.anyRetired then (true, none)
    else if x.cls = 0 then ((readFloor j ps ti).isSome, readFloor j ps ti)
    else (false, none)
  match (hs.filterMap fun h => s.hashHint ps x.cls ti h).getLast? with
  | some (n, some f) => (n, some f)
  | some (n, none) => (n, if n ∧ x.cls = 0 then readFloor j ps ti else none)
  | none => rule

/-- Persistence asked for: the last PERSIST hint, else the declaration; a Floor tensor takes none (R29). -/
def askedPers (hs : List Hint) (ti : Nat) (x : TensorSt) : Nat :=
  if x.cls = 4 then 0
  else match (hs.filter fun h => decide (h.kind = 4) && decide (h.a = ti)).getLast? with
    | some h => h.v
    | none => x.pers

/-- Persistence of a tensor's window (R29), as TENSOR_DECL codes it: what is asked for, else Stream for a tensor that is read once, Sticky for one
that every pass reads, Normal for the others. An Input counts as read once, and any other tensor that a stage references as read or
read-write as read in every pass (the spec does not say how the Placer tells: DESIGN CHOICE, log entry 87). -/
def pickPers (j : Job) (hs : List Hint) (ti : Nat) (x : TensorSt) : Nat :=
  let a := askedPers hs ti x
  if a ≠ 0 then a else if x.cls = 1 then 1 else if (readers j ti).isEmpty then 2 else 3

/-- A tensor lies in the floor aperture. -/
def tensorExplicit (t : TensorPlan) : Bool := decide (apertureBase ≤ t.addr)

/-- A hint is met by a placement. A stage does not touch itself (DESIGN CHOICE, log entry 86). The search that COMPACT and SPREAD_HEAT ask for
is not stated: COMPACT is met by a region on as few dies as its shape allows, SPREAD_HEAT by one on two dies or more (DESIGN CHOICE, log entry 43). -/
def State.hintMet (s : State) (j : Job) (p : Plan) (h : Hint) : Bool :=
  match h.kind with
  | 1 => match p.stages[h.a]?, p.stages[h.b]? with | some a, some b => decide (h.a ≠ h.b) && rectTouch a b | _, _ => false
  | 2 => match j.tensors[h.b]?, p.tensors[h.b]? with
    | some x, some t => (match s.hashHint p.stages x.cls h.b h with | some (_, some f) => t.near && decide (t.floor = f) | _ => false)
    | _, _ => false
  | 3 => match j.tensors[h.a]?, p.tensors[h.a]? with
    | some x, some t => (s.hashHint p.stages x.cls h.a h).isSome && decide (t.near = decide (h.v = 1))
    | _, _ => false
  | 4 => match p.tensors[h.a]? with | some t => !(tensorExplicit t) && decide (t.pers = h.v) | none => false
  | 5 => match p.stages[h.a]? with | some a => decide ((planDies a).length = ((a.h + 39) / 40) * ((a.w + 79) / 80)) | none => false
  | _ => match p.stages[h.a]? with | some a => decide (2 ≤ (planDies a).length) | none => false

/-! ## Memory of a placement (R28, R248, R253, R325, R702) -/

/-- Address runs of a tensor: bytes 0 on, segment by segment for a Committed one. -/
def tensorRuns (cls addr bytes : Nat) : List (Nat × Nat) :=
  if bytes = 0 then []
  else if cls = 2 then
    (List.range ((bytes + twinData - 1) / twinData)).map fun i => (addr + segBytes * i, min twinData (bytes - twinData * i))
  else [(addr, bytes)]

/-- Placeable HBM in bytes (R28). -/
def State.placeable (s : State) : Nat := s.variant.hbmBytes - 2 ^ 32 - (s.host.keeps.map (·.2)).sum

/-- MiB of a channel that a segment takes (R248): on every floor, or on its Near floor. -/
def State.footOf (s : State) (near : Bool) : Nat := if near then 8 * Variant.footMiB s.variant else Variant.footMiB s.variant

/-- Segments that areas outliving the job take. -/
def State.areaSegs (s : State) : List Nat := (segsOf s.variant.exchBase (2 ^ 32)) ++ (s.host.keeps.flatMap fun k => segsOf k.1 k.2)

/-- Footprints of two segments overlap in no channel. -/
def State.footApart (s : State) (a b : SegPlan) : Bool :=
  (a.near && b.near && decide (a.floor ≠ b.floor)) || !overlap a.base (s.footOf a.near) b.base (s.footOf b.near)

/-- The segment mapping is lawful. A segment that an area shares keeps the area's mapping. -/
def State.segsOk (s : State) (p : Plan) : Bool :=
  let own := s.areaSegs.eraseDups.map fun g => (⟨g, false, 0, g * Variant.footMiB s.variant, none⟩ : SegPlan)
  let ms := p.segs.filterMap (·.mirror)
  (p.segs.all fun g => decide (g.seg < s.variant.segments) && decide (g.floor < 8) && decide (g.base + s.footOf g.near ≤ 2304) && !s.areaSegs.contains g.seg
      && (match g.mirror with
          | some m => !g.near && (p.segs.any fun h => decide (h.seg = m) && !h.near && h.mirror.isNone) && decide (m ≠ g.seg)
          | none => true))
    && decide (ms.eraseDups.length = ms.length) && pairsOk (fun a b => decide (a.seg < b.seg)) p.segs && pairsOk s.footApart (own ++ p.segs)

/-- Explicit ways of a slice under a plan. -/
def State.planWays (s : State) (p : Plan) (n : Nat) : Nat :=
  if !s.slicePopulated n then 16
  else match p.modes.find? fun m => decide (m.slice = n) with | some m => modeWays m.mode m.splitWays | none => 0

/-- Bytes of a floor's aperture under a plan (R253). -/
def State.apertureOf (s : State) (p : Plan) (f : Nat) : Nat := ((List.range 64).map fun k => s.planWays p (64 * f + k) * 0x180000).sum

/-- A channel and the one of its copy-B partner are both retired (R340). -/
def State.twinLost (s : State) : Bool := (List.range 512).any fun n => s.chanRetired n && s.chanRetired ((n / 64 ^^^ 4) * 64 + n % 64)

/-- A tensor's place in HBM is lawful: its window and persistence (R29), below the Exchange window and outside the areas, in segments of its
hash, for a Committed one with a mirror (R325, R702), and after a retirement as R340 states. -/
def State.hbmOk (s : State) (j : Job) (hs : List Hint) (p : Plan) (ti : Nat) (x : TensorSt) (t : TensorPlan) : Bool :=
  let runs := tensorRuns x.cls t.addr x.bytes
  decide (t.kennel < 64) && decide (t.pers = pickPers j hs ti x)
    && (decide (x.cls ≠ 2) || decide (x.bytes ≤ twinData) || decide (t.addr % segBytes = 0))
    && runs.all (fun r => decide (r.1 + r.2 ≤ s.variant.exchBase) && !(s.areas.any fun k => overlap r.1 r.2 k.1 k.2)
      && (decide (x.cls ≠ 2) || decide (r.1 % segBytes + r.2 ≤ twinData))
      && (segsOf r.1 r.2).all fun g => p.segs.any fun h => decide (h.seg = g) && decide (h.near = t.near) && (!h.near || decide (h.floor = t.floor))
          && decide (h.mirror.isSome = decide (x.cls = 2)) && !(p.segs.any fun m => decide (m.mirror = some g)))
    && (!s.anyRetired || (if x.cls = 2 then !s.twinLost else s.goodFloors.contains t.floor))

/-- A tensor's place in the floor aperture is lawful (R253): a Floor tensor's, or, while no channel is retired, that of a Derivable tensor that
takes the Near hash (R27, R340). -/
def State.apertureOk (s : State) (p : Plan) (x : TensorSt) (t : TensorPlan) : Bool :=
  (decide (x.cls = 4) || (decide (x.cls = 0) && t.near && !s.anyRetired)) && decide (t.kennel = 64) && decide (t.pers = 0)
    && decide (apertureBase + segBytes * t.floor ≤ t.addr) && decide (t.addr + x.bytes ≤ apertureBase + segBytes * t.floor + s.apertureOf p t.floor)

/-- One tensor's place is lawful. -/
def State.tensorOk (s : State) (j : Job) (hs : List Hint) (p : Plan) (ti : Nat) (x : TensorSt) (t : TensorPlan) : Bool :=
  let want := s.hashOf j hs p.stages ti x
  decide (t.near = want.1) && (match want.2 with | some f => !t.near || decide (t.floor = f) | none => true) && decide (t.floor < 8)
    && decide (t.group < 8) && decide (t.addr % 0x200000 = 0) && decide (t.addr < 2 ^ 48)
    && (if tensorExplicit t then s.apertureOk p x t else decide (x.cls ≠ 4) && s.hbmOk j hs p ti x t)

/-- End of a tensor's addresses. -/
def tensorEnd (x : TensorSt × TensorPlan) : Nat := ((tensorRuns x.1.cls x.2.addr x.1.bytes).map fun r => r.1 + r.2).foldl max x.2.addr

/-- Two tensors of equal persistence and droppable setting with contiguous addresses (R30). -/
def adjoin (a b : TensorSt × TensorPlan) : Bool :=
  decide (a.2.pers = b.2.pers) && decide (a.1.droppable = b.1.droppable) && (decide (tensorEnd a = b.2.addr) || decide (tensorEnd b = a.2.addr))

/-- Neighbours in a list adjoin. -/
def chained : List (TensorSt × TensorPlan) → Bool
  | a :: b :: t => adjoin a b && chained (b :: t)
  | _ => true

/-- Kennel windows are shared as R30 states: tensors of HBM that adjoin share one, and those of one window follow one another. -/
def kennelsOk (xs : List (TensorSt × TensorPlan)) : Bool :=
  let hb := xs.filter fun x => !(tensorExplicit x.2)
  pairsOk (fun a b => !adjoin a b || decide (a.2.kennel = b.2.kennel)) hb
    && (List.range 64).all fun k =>
      chained (sortBy (fun a b => decide (a.2.addr ≤ b.2.addr)) (hb.filter fun x => decide (x.2.kennel = k)))

/-- A pair of tensors shares no byte, and Near groups follow floors. -/
def tensorApart (a b : TensorSt × TensorPlan) : Bool :=
  (tensorRuns a.1.cls a.2.addr a.1.bytes).all (fun r => (tensorRuns b.1.cls b.2.addr b.1.bytes).all fun q => !overlap r.1 r.2 q.1 q.2)
    && (!(a.2.near && b.2.near) || decide ((a.2.floor = b.2.floor) = (a.2.group = b.2.group)))

/-- Bytes that a placement charges against the placeable HBM (R28). -/
def planCharge (xs : List (TensorSt × TensorPlan)) : Nat :=
  (xs.map fun x => if tensorExplicit x.2 then 0 else if x.1.cls = 2 then 2 * x.1.bytes else x.1.bytes).sum

/-- A placement is lawful under the hints that it keeps (R25 to R30, R340). -/
def State.lawful (s : State) (j : Job) (hs : List Hint) (p : Plan) : Bool :=
  let xs := j.tensors.zip p.tensors
  s.stagesOk j p.stages && decide (p.tensors.length = j.tensors.length) && s.segsOk p
    && (p.modes.all fun m => decide (m.slice < 512) && decide (m.mode ≤ 2) && decide (m.splitWays ≤ 2)) && pairsOk (fun a b => decide (a.slice < b.slice)) p.modes
    && ((xs.zip (List.range xs.length)).all fun x => s.tensorOk j hs p x.2 x.1.1 x.1.2) && pairsOk tensorApart xs && kennelsOk xs
    && decide (planCharge xs ≤ s.placeable)

/-- A placement is lawful under its hints and meets them; `tight`: with the smallest rectangles of R19 too. -/
def State.meets (s : State) (tight : Bool) (j : Job) (hs : List Hint) (p : Plan) : Bool :=
  s.lawful j hs p && (!tight || s.allTight j p.stages) && hs.all fun h => s.hintMet j p h

/-! ## Every placement there is -/

/-- Lists that take each member from the list of its place. -/
def choices {α : Type} : List (List α) → List (List α)
  | [] => [[]]
  | xs :: t => xs.flatMap fun x => (choices t).map fun l => x :: l

/-- Regions of a stage. -/
def regionsOf (g : StageSt) : List StagePlan := (shapesOf g).flatMap fun sh => (List.range 25600).map fun b => ⟨b, sh.1, sh.2⟩

/-- Places of a tensor. -/
def tensorPlans : List TensorPlan :=
  (List.range (2 ^ 27)).flatMap fun a => [false, true].flatMap fun near => (List.range 8).flatMap fun g => (List.range 8).flatMap fun f =>
    (List.range 65).flatMap fun k => (List.range 5).map fun pr => ⟨0x200000 * a, near, g, f, k, pr⟩

/-- Mappings of a segment, and none. -/
def segPlans (g : Nat) : List (Option SegPlan) :=
  none :: ([false, true].flatMap fun near => (List.range 8).flatMap fun f => (List.range 2305).flatMap fun b =>
    (none :: (List.range 768).map some).map fun m => some ⟨g, near, f, b, m⟩)

/-- Modes of a slice, and none. -/
def modePlans (n : Nat) : List (Option ModePlan) :=
  none :: ((List.range 3).flatMap fun m => (List.range 3).map fun w => some ⟨n, m, w⟩)

/-- Every placement of a job's stages and tensors. -/
def State.plans (s : State) (j : Job) : List Plan :=
  (choices (j.stages.map regionsOf)).flatMap fun ps => (choices (j.tensors.map fun _ => tensorPlans)).flatMap fun ts =>
    (choices ((List.range s.variant.segments).map segPlans)).flatMap fun gs =>
      (choices ((List.range 512).map modePlans)).map fun ms => ⟨ps, ts, gs.filterMap id, ms.filterMap id⟩

/-- A job has a placement that meets the hints; never with too few tiles. -/
def State.canPlace (s : State) (tight : Bool) (j : Job) (hs : List Hint) : Bool :=
  decide ((j.stages.map (·.tiles)).sum ≤ s.usable) && (s.plans j).any fun p => s.meets tight j hs p

/-- The hints that are kept, and which those are: from the last to the first, each that can be met together with the later ones kept (R32). -/
def State.keepHints (s : State) (tight : Bool) (j : Job) (hs : List Hint) : List Hint × List Bool :=
  hs.foldr (fun h k => if s.canPlace tight j (h :: k.1) then (h :: k.1, true :: k.2) else (k.1, false :: k.2)) ([], [])

/-! ## The choice (R33, R701) -/

/-- Steps between two intervals of the plane. -/
def gap (a n b m : Nat) : Nat := if a + n ≤ b then b - (a + n) else a - (b + m)

/-- First aim: bytes per pass of the streams, weighted by the distance of their regions. -/
def streamCost (j : Job) (ps : List StagePlan) : Nat :=
  ((j.stages.zip ps).map fun g => (g.1.streams.map fun r => match ps[r.consumer]? with
    | some q => r.bytes * (gap (rowOf g.2) g.2.h (rowOf q) q.h + gap (colOf g.2) g.2.w (colOf q) q.w)
    | none => 0).sum).sum

/-- Second aim: energy by which deck dies exceed their share by more than 10 %. -/
def heatCost (j : Job) (ps : List StagePlan) : Nat :=
  let die (d : Nat) : Nat := ((j.stages.zip ps).map fun g =>
    g.1.energy * ((planTiles g.2).filter fun t => decide ((sectorOf (t / 20)).1 = d)).length / g.1.tiles).sum
  ((List.range 8).map fun d => 80 * die d - 11 * (j.stages.map (·.energy)).sum).sum

/-- Third aim: stages that read a Near tensor and are not over its floor. -/
def nearCost (j : Job) (p : Plan) : Nat :=
  ((p.tensors.zip (List.range p.tensors.length)).map fun t =>
    if t.1.near then ((readers j t.2).filter fun k => decide (oneFloor p.stages k ≠ some t.1.floor)).length else 0).sum

/-- A placement serves the aims better than another, in their rank. -/
def aimsBetter (j : Job) (p q : Plan) : Bool :=
  let a := (streamCost j p.stages, heatCost j p.stages, nearCost j p)
  let b := (streamCost j q.stages, heatCost j q.stages, nearCost j q)
  decide (a.1 < b.1) || (decide (a.1 = b.1) && (decide (a.2.1 < b.2.1) || (decide (a.2.1 = b.2.1) && decide (a.2.2 < b.2.2))))

/-- The inputs of a placement (R33): declarations, hints, tile map, build variant, firmware version. -/
structure PlaceIn where
  stages : List StageSt
  tensors : List TensorSt
  hints : List Hint
  map : Table (List Nat)
  variant : Variant
  version : Nat
deriving DecidableEq, Repr

/-- Free value: the placement that the Placer takes, by its aims with weights and a search that are not stated, and with the free choices of R701:
a function of the inputs of R33. Log entry 8. -/
opaque placerChoice : PlaceIn → Plan

/-- What a placement depends on in a stage and in a tensor: their declarations. -/
def StageSt.decl (g : StageSt) : StageSt := { g with image := [], tally := 0, fpCtrl := 0, seed := 0, region := none }
def TensorSt.decl (x : TensorSt) : TensorSt := { x with place := none, persEff := 0, degraded := false }

/-- Inputs of a job's placement. -/
def State.placeIn (s : State) (j : Job) (hs : List Hint) : PlaceIn :=
  ⟨j.stages.map (·.decl), j.tensors.map (·.decl), hs, s.badPos, s.variant, s.rd F.attsFwVerVersion⟩

/-- The placement that the Placer takes, where it meets the hints kept; else the one of those which do that serves the aims best. -/
def State.take (s : State) (tight : Bool) (j : Job) (hs kept : List Hint) : Plan :=
  let p := placerChoice (s.placeIn j hs)
  if s.meets tight j kept p then p
  else (((s.plans j).filter fun p => s.meets tight j kept p).foldl (fun (acc : Option Plan) p => match acc with
    | some q => if aimsBetter j p q then some p else acc
    | none => some p) none).getD p

/-! ## The shortfall record (R34, R35): what falls short is counted with a first fit, in the order of declaration (DESIGN CHOICE, log entry 88) -/

/-- A shortfall entry (R35): resource, unit, object, required, available. -/
structure Short where
  res : Nat
  unit : Nat
  obj : Nat
  req : Nat
  av : Nat
deriving DecidableEq, Repr

/-- First region of a stage that fits beside those placed. -/
def State.findRegion (s : State) (g : StageSt) (placed : List (StageSt × StagePlan)) : Option StagePlan ⊕ (Nat × Nat) :=
  (shapesOf g).foldl (fun (acc : Option StagePlan ⊕ (Nat × Nat)) sh =>
    match acc with
    | .inl (some _) => acc
    | _ =>
      let at_ (b : Nat) : StagePlan := ⟨b, sh.1, sh.2⟩
      let free (b : Nat) : Bool := s.fits g (at_ b) && placed.all fun q => !rectOver (at_ b) q.2
      match (List.range 25600).find? fun b => free b && (s.shaftOver (placed ++ [(g, at_ b)])).isNone with
      | some b => .inl (some (at_ b))
      | none =>
        match acc, ((List.range 25600).find? free).bind fun b => s.shaftOver (placed ++ [(g, at_ b)]) with
        | .inl none, some d => .inr d
        | _, _ => acc) (.inl none)

/-- Regions of the stages in order, and what falls short: TILES for the job, and for a stage SHAPE, where the free tiles are enough and no free
rectangle suits, its tiles against those free, or SHAFT, the demand against the limit that it breaks. -/
def State.fitStages (s : State) (j : Job) : List StagePlan × List Short :=
  let need := (j.stages.map (·.tiles)).sum
  let r := (j.stages.zip (List.range j.stages.length)).foldl (fun (acc : List (StageSt × StagePlan) × List Short) g =>
    let free := s.usable - (acc.1.map fun q => q.1.tiles).sum
    match s.findRegion g.1 acc.1 with
    | .inl (some p) => (acc.1 ++ [(g.1, p)], acc.2)
    | .inl none => (acc.1, if g.1.tiles ≤ free then acc.2 ++ [⟨2, 0, g.2, g.1.tiles, free⟩] else acc.2)
    | .inr d => (acc.1, acc.2 ++ [⟨3, 2, g.2, d.1, d.2⟩])) ([], [])
  (r.1.map (·.2), (if s.usable < need then [⟨1, 0, 0xFFFF, need, s.usable⟩] else []) ++ r.2)

/-- Lay tensors of one kind one after another from an address, in order. -/
def layOut (addr : Nat) (xs : List (Nat × Nat)) : List (Nat × Nat) × Nat :=
  xs.foldl (fun acc x => (acc.1 ++ [(x.1, acc.2)], acc.2 + x.2)) ([], addr)

/-- Segments needed for an address length. -/
def segCount (n : Nat) : Nat := (n + segBytes - 1) / segBytes

/-- Bytes charged by a job whose Derivable tensors all lie in HBM (R28). -/
def charge (j : Job) : Nat := (j.tensors.map fun x => if x.cls = 4 then 0 else if x.cls = 2 then 2 * x.bytes else x.bytes).sum

/-- What falls short of the tensors' needs for regions `ps`: Spread tensors laid out first, then Near ones floor by floor, then Committed ones and
their mirrors; Floor tensors in the aperture. FLOOR_EXPLICIT gives a tensor's size against the room of the emptiest floor, TWIN twice its
size against 0. -/
def State.fitTensors (s : State) (j : Job) (ps : List StagePlan) : List Short :=
  let xs := (List.range j.tensors.length).zip j.tensors
  let hash (x : Nat × TensorSt) : Bool × Option Nat := s.hashOf j [] ps x.1 x.2
  let free := if s.anyRetired then s.goodFloors.headD 0 else 0
  let mib (b : Nat) : Nat := b / 2 ^ 20
  -- Floor tensors
  let flr := (xs.filter fun x => decide (x.2.cls = 4)).foldl (fun (acc : List (Nat × Nat) × List Short) x =>
      let used (f : Nat) : Nat := ((acc.1.filter fun a => decide (a.1 = f)).map (·.2)).sum
      match (List.range 8).find? fun f => decide (used f + x.2.bytes ≤ segBytes) with
      | some f => (acc.1 ++ [(f, x.2.bytes)], acc.2)
      | none => (acc.1, acc.2 ++ [⟨6, 1, x.1, mib x.2.bytes, mib (segBytes - ((List.range 8).map used).foldl min segBytes)⟩])) ([], [])
  -- HBM tensors
  let hbm := xs.filter fun x => decide (x.2.cls ≠ 4) && decide (x.2.cls ≠ 2)
  let spread := layOut 0 ((hbm.filter fun x => !(hash x).1).map fun x => (x.1, x.2.bytes))
  let n0 := segCount spread.2
  let near := (List.range 8).foldl (fun (acc : List (Nat × Nat) × List (Nat × Nat)) f =>
      let g0 := n0 + (acc.2.map (·.2)).sum
      let l := layOut (g0 * segBytes) ((hbm.filter fun x => (hash x).1 && decide (((hash x).2).getD free = f)).map fun x => (x.1, x.2.bytes))
      (acc.1 ++ l.1, acc.2 ++ [(f, segCount (l.2 - g0 * segBytes))])) ([], [])
  let n1 := n0 + (near.2.map (·.2)).sum
  let twins := (xs.filter fun x => decide (x.2.cls = 2)).foldl (fun (acc : List (Nat × Nat) × Nat) x =>
      (acc.1 ++ [(x.1, acc.2 * segBytes)], acc.2 + (x.2.bytes + twinData - 1) / twinData)) ([], n1)
  let nt := twins.2 - n1
  let kinds : List (Bool × Nat) := List.replicate n0 (false, 0) ++ (near.2.flatMap fun f => List.replicate f.2 (true, f.1)) ++ List.replicate (2 * nt) (false, 0)
  let taken := s.areaSegs.eraseDups
  let limit := 2304 - taken.length * Variant.footMiB s.variant
  let fitN := (kinds.foldl (fun (acc : Nat × List Nat) k =>
      let c := if k.1 then acc.2.getD k.2 0 else acc.2.foldl max 0
      let top := c + s.footOf k.1
      if top ≤ limit then (acc.1 + 1, if k.1 then acc.2.set k.2 top else List.replicate 8 top) else acc) (0, List.replicate 8 0)).1
  let av := min fitN (s.variant.segments - taken.length)
  let wins := (sortBy (fun a b => decide (a.2 ≤ b.2)) (spread.1 ++ near.1 ++ twins.1)).foldl (fun (acc : Nat × Option (Nat × Bool × Nat)) a =>
      match j.tensors[a.1]? with
      | some x =>
        let pr := pickPers j [] a.1 x
        let fin := ((tensorRuns x.cls a.2 x.bytes).map fun r => r.1 + r.2).foldl max a.2
        (acc.1 + b2n (decide (acc.2 ≠ some (pr, x.droppable, a.2))), some (pr, x.droppable, fin))
      | none => acc) (0, none)
  flr.2
    ++ (if s.placeable < charge j then [⟨4, 1, 0xFFFF, mib (charge j), mib s.placeable⟩]
        else (if av < kinds.length then [⟨4, 1, 0xFFFF, kinds.length * 1536, av * 1536⟩] else [])
          ++ (if s.twinLost then xs.filterMap fun x => if x.2.cls = 2 then some ⟨5, 1, x.1, 2 * mib x.2.bytes, 0⟩ else none else []))
    ++ (if s.anyRetired ∧ s.goodFloors.isEmpty then hbm.map fun x => ⟨4, 1, x.1, mib x.2.bytes, 0⟩ else [])
    ++ (if 64 < wins.1 then [⟨7, 3, 0xFFFF, wins.1, 64⟩] else [])

/-- Segments that a tensor takes by itself (R702). -/
def ownSegs (x : TensorSt) : Nat := if x.cls = 4 then 0 else if x.cls = 2 then (x.bytes + twinData - 1) / twinData else segCount x.bytes

/-- Runs of free segments between the areas, below the Exchange window: their lengths in order. -/
def State.freeRuns (s : State) : List Nat :=
  let taken := s.areaSegs
  let r := (List.range s.variant.segments).foldl (fun (acc : List Nat × Nat) g =>
    if taken.contains g ∨ s.variant.exchBase < (g + 1) * segBytes then (acc.1 ++ [acc.2], 0) else (acc.1, acc.2 + 1)) ([], 0)
  (r.1 ++ [r.2]).filter fun n => decide (n ≠ 0)

/-- Tensors that no run of free segments holds: the second step of R34, with the segments of the longest run as those free for it. -/
def State.runShort (s : State) (j : Job) : List Short :=
  let most := s.freeRuns.foldl max 0
  ((List.range j.tensors.length).zip j.tensors).filterMap fun x =>
    if most < ownSegs x.2 then some ⟨4, 1, x.1, ownSegs x.2 * 1536, most * 1536⟩ else none

/-- Tensors laid whole segments at a time into the runs of free segments, in order, each in the first that holds it: the segments needed, and
those of the tensors that found a run. -/
def State.packRuns (s : State) (j : Job) : Nat × Nat :=
  let r := (j.tensors.map ownSegs).foldl (fun (acc : List Nat × Nat) n =>
    match acc.1.findIdx? fun k => decide (n ≤ k) with
    | some i => (acc.1.set i (acc.1.getD i 0 - n), acc.2 + n)
    | none => acc) (s.freeRuns, 0)
  ((j.tensors.map ownSegs).sum, r.2)

/-- What falls short of a job. Where nothing else does, the segments do not go into the runs that are free (R34). -/
def State.placeShort (s : State) (j : Job) : List Short :=
  let st := s.fitStages j
  let xs := st.2 ++ s.fitTensors j (if st.1.length = j.stages.length then st.1 else [])
  let xs := if xs.any fun x => decide (x.res = 4) then xs else xs ++ s.runShort j
  let k := s.packRuns j
  if xs.isEmpty then [⟨4, 1, 0xFFFF, k.1 * 1536, k.2 * 1536⟩] else xs

/-- The order of R34. -/
def shortLe (a b : Short) : Bool :=
  let x := (a.req - a.av) * b.req
  let y := (b.req - b.av) * a.req
  if x ≠ y then decide (y < x) else if a.res ≠ b.res then decide (a.res < b.res) else decide (a.obj ≤ b.obj)

/-- The shortfall record: 16 entries of 16 bytes (R34, R35). -/
def shortBytes (xs : List Short) : List Byte :=
  let es := (sortBy shortLe xs).take 16
  let amt (n : Nat) : List Byte := leBytes 4 (min n 0xFFFFFFFF)
  (es.flatMap fun e => leBytes 4 (e.res + e.unit * 2 ^ 8 + e.obj * 2 ^ 16) ++ leBytes 4 0 ++ amt e.req ++ amt e.av)
    ++ List.replicate (256 - 16 * es.length) 0

/-- The placement of a job with the hints that it keeps and which those are, or, where no placement is lawful, what falls short (R32 to R34). Where
every lawful placement gives some stage of shape any a longer perimeter than R19 asks, the job is placed so, since only R25 to R30 make PLACE
fail (DEDUCED, log entry 104). -/
def State.choose (s : State) (j : Job) (hs : List Hint) : (Plan × List Hint × List Bool) ⊕ List Short :=
  let tight := s.canPlace true j []
  if tight || s.canPlace false j [] then
    let k := s.keepHints tight j hs
    .inl (s.take tight j hs k.1, k.1, k.2)
  else .inr (s.placeShort j)

end Sys2Proof.Machine
end

