-- ==== Sys2Proof/Machine/Job.lean ====
section
/-! DEFINITION. Job rows (R15, R19 to R24, R144, R302, R303, R469 to R473): JOB_OPEN and JOB_CLOSE, sessions' ends, STAGE_LOAD, TENSOR_DECL, PLACE,
PLACE_QUERY, PASS_LAUNCH, PASS_COMMIT, and the end of a discard. -/

namespace Sys2Proof.Machine

/-! ## Tile map (R15, R553) -/

/-- Bad positions of a plane sector for a rebuild: those known, those that failed since, and all of a retired sector without a host (R237). -/
def State.badNow (s : State) (sec : Nat) : List Nat :=
  let d := sectorOf sec
  if s.sectorLost d.1 d.2 then List.range 21
  else (List.range 21).filter fun p => (s.bad sec).contains p || s.newFails.contains (sec, p)

/-- BOOT_DEFECT follows the tile map. -/
def State.countDefects (s : State) : State :=
  let n (p : Nat → Bool) : Nat := ((List.range 1280).filter fun k => p (s.bad k).length).length
  s.wrs [(F.bootDefectUsableTiles, s.usable), (F.bootDefectBare, n fun k => decide (k = 1)), (F.bootDefectShort, n fun k => decide (2 ≤ k)),
    (F.bootDefectSlicesOut, ((List.range 512).filter fun k => s.on (F.sliceStatRemoved k)).length)]

/-- Rebuild the tile map and set the bypasses. -/
def State.buildMap (s : State) : State :=
  let m := (List.range 1280).foldl (fun m k => tset (fun _ => []) m k (s.badNow k)) []
  ({ s with badPos := m, newFails := [], bypass := m.flatMap fun k => k.2.map fun p => (k.1, p) } : State).countDefects

/-- JOB_OPEN (R15, R313, R470, R484); the energy account is full and its correction 1 (R574, R575). -/
def State.jobOpenCmd (s : State) (e : Entry) : State :=
  s.cmd e .jobQueue ⟨false, true, true, true⟩ [(1, [(0, 4)])] fun s =>
    let q := bf (parm e 1) 0 4
    if 12 < q then s.complete e sINVALID_FIELD 0
    else if s.host.retiring then s.complete e sRETIRED 0
    else if s.job.isSome then s.complete e sJOB_LIMIT 0
    else
      let h := s.host.nextHandle
      let s := (List.range 8).foldl (fun s f => s.wr (F.floorEpochCfgQuota f) q) s.buildMap
      let s := (s.setBal s.acctCap).wr F.pwrmAcctF 256
      let s := s.modHost fun x => { x with nextHandle := if h = 0xFFFF then 1 else h + 1 }
      let j : Job := { handle := h, session := s.rd (F.cmdqQcfgSession e.sq), stages := [], tensors := [], sealed := false, met := [], segs := [],
                       loaded := false, closing := false }
      ({ s with job := some j }.measure 6 [] []).complete e sOK h

def execJobOpen (e : Entry) (s : State) : Host.Outcome State Fault Refusal := .next (s.jobOpenCmd e)

/-! ## Closing a job (R153, R171, R249, R252, R470) -/

/-- Free a session's queues. -/
def State.freeSession (s : State) (k : Nat) : State :=
  let qs := ((s.host.sessions.filter fun x => decide (x.1 = k)).flatMap (·.2)).filter fun q => decide (q < 16)
  let s := qs.foldl (fun s q => s.wrs [(F.cmdqQcfgOwned q, 0), (F.cmdqQcfgSession q, 0)]) s
  s.modHost fun h => { h with sessions := h.sessions.filter fun x => decide (x.1 ≠ k) }

/-- Every tile window of the job's tiles is closed: nothing that its check accepted is still on its way. -/
def State.closeTileWins (s : State) : State :=
  s.jobTiles.foldl (fun s t => (List.range 4).foldl (fun s n =>
    if s.rd (F.tileWinState t n) = 0 then s else (s.closeTileWin t n).shutTileWin t n) s) s

/-- The module's slices return to Cache mode, with every explicit way fresh. -/
def State.cacheModes (s : State) : State :=
  (List.range 512).foldl (fun s n =>
    if s.slicePopulated n then (if s.explWays n = 0 then s else s.setMode n 0 0)
    else s.modSlice n fun x => { x with lines := [], merge := [] }) s

/-- The job's pages, segments and kennel windows go. -/
def State.freeMemory (s : State) (j : Job) : State :=
  let runs := j.tensors.flatMap fun x => match x.place with | some t => tensorRuns x.cls t.addr x.bytes | none => []
  let s := runs.foldl (fun s r => s.setRights r.1 r.2 0) s
  let ps := runs.flatMap fun r => pagesOf r.1 r.2
  let s := s.modFab fun f => { f with raised := f.raised.filter fun p => !ps.contains p }
  let s := j.segs.foldl (fun s g => (List.range 8).foldl (fun s f => s.setReg (R.floorTwin f g.seg) 0) (s.setHash g.seg 0)) s
  (List.range 64).foldl (fun s k => if s.on (F.kenlCtrlEnable k) then s.wr (F.kenlCtrlEnable k) 0 else s) s

/-- The job closes, once no pass of it is left (R470): its waiting commands end, and a SESSION_CLOSE frees its session. -/
def State.closeStep (s : State) : State :=
  match s.job with
  | none => s
  | some j =>
    if !j.closing ∨ s.pass.isSome then s
    else
      let s := s.closeTileWins
      let s := s.jobTiles.foldl (fun s t => s.modTile t fun x => { (x.freshen 0 0x8000) with near := [] }) s
      let s := s.cacheModes.freeMemory j
      let s := s.wrs [(F.keepFaultStatJobFatal, 0), (F.keepFaultStatFatalCause, 0), (F.keepPassStatState, psIDLE)]
      let s := (({ s with job := none } : State).measure 6 [] []).finish (fun w => decide (w = .jobClose)) sOK 0
      let ks := s.host.waits.filterMap fun w => match w.why with | .sessionClose k => some k | _ => none
      let s := ks.foldl (fun s k => s.freeSession k) s
      s.finish (fun w => match w with | .sessionClose _ => true | _ => false) sOK 0

/-- Commands of a job that wait: they end with ABORTED (R470, R474). -/
def jobWait : Wait → Bool
  | .launch _ _ _ | .commit _ _ _ | .kennel | .tilewinOpen _ _ | .tilewinClose _ _ => true
  | _ => false

/-- JOB_CLOSE acts at once: the running pass is discarded without replay, and held commands end. -/
def State.closeJob (s : State) : State :=
  match s.job with
  | none => s
  | some j =>
    if j.closing then s
    else
      let s := (s.modJob fun j => { j with closing := true }).finish jobWait sABORTED 0
      let s := s.modFab fun f => { f with winDelays := f.winDelays.filter fun d => decide (d.key < 1024) }
      let s := s.modPass fun p => { p with aborted := true }
      match s.pass with
      | some p => if p.step = 0 then s.beginDiscard else s.modPass fun p => { p with step := min p.step 3 }
      | none => s.closeStep

/-- JOB_CLOSE (R470). -/
def State.jobCloseCmd (s : State) (e : Entry) : State :=
  s.cmd e .job ⟨false, false, false, true⟩ [] fun s => (s.await e .jobClose).closeJob.closeStep

def execJobClose (e : Entry) (s : State) : Host.Outcome State Fault Refusal := .next (s.jobCloseCmd e)

/-- A session closes: the job that it opened first. -/
def State.closeSession (s : State) (e : Entry) (k : Nat) : State :=
  if s.job.any fun j => decide (j.session = k) then (s.await e (.sessionClose k)).closeJob.closeStep else (s.freeSession k).complete e sOK 0

/-- SESSION_CLOSE (R470); a session that is not open is a field out of range (DEDUCED, log entry 44). -/
def State.sessionCloseCmd (s : State) (e : Entry) : State :=
  s.cmd e .admin .plain [(1, [(0, 4)])] fun s =>
    let k := bf (parm e 1) 0 4
    if !(s.host.sessions.any fun x => decide (x.1 = k)) then s.complete e sINVALID_FIELD 0 else s.closeSession e k

def execSessionClose (e : Entry) (s : State) : Host.Outcome State Fault Refusal := .next (s.sessionCloseCmd e)

/-- A command that no queue holds: it stands for work that nothing waits for. -/
def noEntry : Entry := ⟨16, false, true, 0, 0, 0, 0, 0, 0, 0, 0, 0, 0, ⟨none, false, false, []⟩⟩

/-- Function Level Reset (R485): SESSION_CLOSE on every session, and every queue disabled. -/
def execFunctionLevelReset (s : State) : Host.Outcome State Fault Refusal :=
  .next (s.hostAccess true fun s =>
    let ks := s.host.sessions.map (·.1)
    ks.foldl (fun s k => s.closeSession noEntry k) s.cutQueues)

/-- The discard's last acknowledgement is in (R308 step 6); a job that closes goes on closing. `poison`: a load of an instruction region
reads poison; `ue`: words that the copy of window regions reads uncorrectable. -/
def execDiscardAcksComplete (poison : Bool) (ue : List (Nat × Nat)) (s : State) : Host.Outcome State Fault Refusal :=
  .next (match s.pass with
    | some p =>
      if s.acksDone p then
        let s := (s.acksComplete p poison ue).closeStep
        if s.pass.isNone then s.snapBarrier.tryLaunch else s
      else s
    | none => s)

/-! ## Stages and tensors -/

/-- A partition descriptor of an image: kind, first byte, bytes. -/
def partOf (d : W64) : Nat × Nat × Nat := (bf d.toNat 0 3, 256 * bf d.toNat 8 10, 256 * (bf d.toNat 18 10 + 1))

/-- The checks of R144 on a stage's descriptors, entry and image length. -/
def partsOk (ps : List (Nat × Nat × Nat)) (entry ilen : Nat) : Bool :=
  let used := ps.filter fun p => decide (p.1 ≠ 0)
  let near := ps.filter fun p => decide (p.1 = kNear)
  (used.all fun p => decide (p.1 ≤ kNear) && decide (p.2.1 + p.2.2 ≤ spdSize)) && pairsOk (fun a b => !overlap a.2.1 a.2.2 b.2.1 b.2.2) used
    && (match ps.filter fun p => decide (p.1 = kInstr) with
        | [p] => decide (p.2.1 ≤ entry) && decide (entry < p.2.1 + p.2.2) && decide (ilen ≤ p.2.2)
        | _ => false)
    && decide (entry % 16 = 0) && decide (near.length ≤ 1)
    && near.all fun p => [4, 8, 16, 32, 64].contains (p.2.2 / 1024) && decide (p.2.2 % 1024 = 0) && decide (p.2.1 % 4096 = 0)

/-- A stage image as read (R471, R19): none where it breaks a limit. -/
def parseStage (e : Entry) (bs : List Byte) : Option StageSt :=
  let n := bf (parm e 2) 0 32
  let at_ (a k : Nat) : Nat := leNat ((bs.drop a).take k)
  let nd := at_ 24 1
  let ns := at_ 25 1
  let nr := at_ 26 2
  let il := at_ 28 4
  let h := at_ 6 1
  let w := at_ 7 1
  let tiles := at_ 4 2
  let refAt := 64 + 8 * nd
  let strAt := refAt + 4 * nr
  let imgAt := strAt + 8 * ns
  let parts := (List.range nd).map fun i => BitVec.ofNat 64 (at_ (64 + 8 * i) 8)
  let w3 := parm e 3
  let ok := decide (64 ≤ n) && decide (imgAt + il ≤ n) && decide (at_ 0 4 = 1) && decide (1 ≤ tiles) && decide (tiles ≤ 25600)
    && ((decide (h = 0) && decide (w = 0)) || (decide (1 ≤ h) && decide (h ≤ 160) && decide (1 ≤ w) && decide (w ≤ 160) && decide (h * w = tiles)))
    && decide (1 ≤ nd) && decide (nd ≤ 8) && decide (ns ≤ 16) && decide (nr ≤ 256) && decide (at_ 12 4 ≤ 102400) && decide (at_ 16 4 ≤ 102400)
    && partsOk (parts.map partOf) (at_ 8 4) il
  if !ok then none
  else some
    { tiles := tiles, h := h, w := w, entry := at_ 8 4, down := at_ 12 4, up := at_ 16 4, energy := at_ 20 4, parts := parts,
      refs := (List.range nr).map fun i => ⟨at_ (refAt + 4 * i) 2, bf (at_ (refAt + 4 * i) 4) 16 2⟩,
      streams := (List.range ns).map fun i => ⟨at_ (strAt + 8 * i) 1, at_ (strAt + 8 * i + 4) 4⟩,
      image := (bs.drop imgAt).take il, tally := bf w3 0 5 + bf w3 8 9 * 2 ^ 8, fpCtrl := bf w3 17 3, seed := BitVec.ofNat 32 (bf (parm e 4) 0 32),
      region := none }

/-- At STAGE_LOAD the near caches are invalid and the Scent slots empty (R163, R211): no stage is bound to tiles yet, and no tile runs. -/
def State.stageClears (s : State) : State :=
  (s.tiles.map (·.1)).foldl (fun s t => s.modTile t fun x => { x with near := [], scent := [] }) s

/-- STAGE_LOAD (R19, R20, R144, R471). Indices have 8 bits: a 257th stage is STAGE_INVALID (DEDUCED, log entry 44). -/
def State.stageLoadCmd (s : State) (e : Entry) : State :=
  s.cmd e .job ⟨false, true, true, false⟩ [(1, [(3, 61)]), (2, [(0, 32)]), (3, [(0, 5), (8, 9), (17, 3)]), (4, [(0, 32)])] fun s =>
    match s.job with
    | none => s
    | some j =>
      if j.sealed then s.complete e sJOB_SEALED 0
      else s.hostRead e (parm e 1) (bf (parm e 2) 0 32) fun bs =>
        match parseStage e bs with
        | none => s.complete e sSTAGE_INVALID 0
        | some g =>
          if 256 ≤ j.stages.length then s.complete e sSTAGE_INVALID 0
          else
            let s := (s.stageClears.modJob fun j => { j with stages := j.stages ++ [g] }).measure 6 ((s.meas 6).parts ++ [bs.take (bf (parm e 2) 0 32)]) []
            s.complete e sOK j.stages.length

def execStageLoad (e : Entry) (s : State) : Host.Outcome State Fault Refusal := .next (s.stageLoadCmd e)

/-- TENSOR_DECL (R27, R470). -/
def State.tensorDeclCmd (s : State) (e : Entry) : State :=
  s.cmd e .job ⟨false, true, true, false⟩ [(1, [(0, 64)]), (2, [(0, 7)])] fun s =>
    match s.job with
    | none => s
    | some j =>
      let cls := bf (parm e 2) 0 3
      let pers := bf (parm e 2) 3 3
      if parm e 1 % 0x200000 ≠ 0 ∨ 4 < cls ∨ 4 < pers ∨ 65536 ≤ j.tensors.length then s.complete e sINVALID_FIELD 0
      else if j.sealed then s.complete e sJOB_SEALED 0
      else
        let x : TensorSt := { bytes := parm e 1, cls := cls, pers := pers, droppable := bit (parm e 2) 6, place := none, persEff := 0, degraded := false }
        (s.modJob fun j => { j with tensors := j.tensors ++ [x] }).complete e sOK j.tensors.length

def execTensorDecl (e : Entry) (s : State) : Host.Outcome State Fault Refusal := .next (s.tensorDeclCmd e)

/-! ## PLACE -/

/-- A tensor index that no TENSOR_DECL defines (R471). -/
def undefTensor (j : Job) : Bool :=
  j.stages.any fun g => (g.refs.any fun r => decide (j.tensors.length ≤ r.tensor))
    || g.parts.any fun d => decide (bf d.toNat 0 3 = kResident) && decide (j.tensors.length ≤ bf d.toNat 32 16)

/-- The hash map, Twin entries, slice modes and rights of a placement. -/
def State.placeMemory (s : State) (j : Job) (p : Plan) : State :=
  let s := p.segs.foldl (fun s g =>
    let s := s.setHash g.seg ((if g.near then 2 else 1) + g.floor * 2 ^ 2 + g.base * 2 ^ 8)
    match g.mirror with
    | some m => (List.range 8).foldl (fun s f => s.setReg (R.floorTwin f g.seg) (BitVec.ofNat 64 (1 + 2 * m))) s
    | none => s) s
  let s := p.modes.foldl (fun s m => s.setMode m.slice m.mode m.splitWays) s
  (j.tensors.zip p.tensors).foldl (fun s x => (tensorRuns x.1.cls x.2.addr x.1.bytes).foldl (fun s r => s.setRights r.1 r.2 2) s) s

/-- The kennel windows of a placement, in ascending index order (R30, R263), and whether every one has what it asked for. -/
def State.placeKennels (s : State) (j : Job) (p : Plan) : State × Bool :=
  let xs := j.tensors.zip p.tensors
  (List.range 64).foldl (fun (acc : State × Bool) k =>
    let mine := xs.filter fun x => decide (x.2.kennel = k)
    let runs := mine.flatMap fun x => tensorRuns x.1.cls x.2.addr x.1.bytes
    match mine.head?, runs.head? with
    | some x, some r0 =>
      let lo := runs.foldl (fun m r => min m r.1) r0.1
      let hi := runs.foldl (fun m r => max m (r.1 + r.2 - 1)) 0
      let range := BitVec.ofNat 64 (lo / 0x200000 + hi / 0x200000 * 2 ^ 27)
      let r := acc.1.kennelWrite k range (kennelCtrl (x.2.pers - 1 + b2n x.1.droppable * 2 ^ 2))
      (r.1, acc.2 && r.2)
    | _, _ => acc) (s, true)

/-- A tile of a placed stage: bulk-cleared, with its place (R136), its partition and numeric settings, and its instruction region loaded (R73, R101, R153, R155). -/
def State.placeTile (s : State) (g : StageSt) (t : Nat) : State :=
  let s := s.modTile t fun x => { (x.freshen 0 0x8000) with near := [] }
  let s := (List.range 8).foldl (fun s k => s.setReg (R.tileSpdPart t k) ((g.parts.getD k 0) &&& 0xFFFFF07)) s
  let p := g.region.getD ⟨0, 0, 0⟩
  let s := s.wrs [(F.tileIdX t, t % planeW - p.base % planeW), (F.tileIdY t, t / planeW - p.base / planeW), (F.tileIdWM1 t, p.w - 1),
    (F.tileIdHM1 t, p.h - 1), (F.tileIdTile t, t)]
  let s := (s.setReg (R.tileTallyTol t) (BitVec.ofNat 64 g.tally)).setReg (R.tileFpCtrl t) (BitVec.ofNat 64 g.fpCtrl)
  s.loadInstr t g

/-- A placement takes effect and seals the job (R20), under the hints kept; `met` marks those among the hints given. -/
def State.applyPlan (s : State) (e : Entry) (j : Job) (hs : List Hint) (met : List Bool) (p : Plan) : State :=
  let s := s.placeMemory j p
  let r := s.placeKennels j p
  let s := r.1
  let stages := (j.stages.zip p.stages).map fun g => { g.1 with region := some g.2 }
  let tensors := ((j.tensors.zip p.tensors).zip (List.range j.tensors.length)).map fun x =>
    { x.1.1 with pers := askedPers hs x.2 x.1.1, place := some x.1.2, degraded := decide (x.1.1.cls = 2) && s.anyRetired,
                 persEff := if 64 ≤ x.1.2.kennel then 1 else s.rd (F.kenlCtrlPersEff x.1.2.kennel) }
  let s := { s with job := some { j with stages := stages, tensors := tensors, sealed := true, met := met, segs := p.segs } }
  let s := stages.foldl (fun s g => (stageTiles g).foldl (fun s t => s.placeTile g t.1) s) s
  s.complete e (if met.all id then (if r.2 then sOK else sPIN_CAP) else sHINT_UNMET) (s.usable + s.placeable / 2 ^ 20 * 2 ^ 32)

/-- PLACE (R20, R25 to R35, R471, R696); an instruction region whose image reads poison leaves the job unsealed (R503). -/
def State.placeCmd (s : State) (e : Entry) : State :=
  s.cmd e .job ⟨false, true, true, false⟩ [(1, [(3, 61)]), (2, [(0, 8)]), (3, [(3, 61)])] fun s =>
    match s.job with
    | none => s
    | some j =>
      let n := bf (parm e 2) 0 8
      if j.sealed then s.complete e sJOB_SEALED 0
      else if j.stages.isEmpty ∨ undefTensor j then s.complete e sSTAGE_INVALID 0
      else
        let go (bs : List Byte) : State :=
          match parseHints j n bs with
          | none => s.complete e sINVALID_FIELD 0
          | some hs =>
            match s.choose j hs with
            | .inl p => if e.inp.imagePoison then s.complete e sPOISON 0 else s.applyPlan e j p.2.1 p.2.2 p.1
            | .inr xs => s.reply e (parm e 3) (shortBytes xs) sPLACE_NOFIT 0
        if n = 0 then go [] else s.hostRead e (parm e 1) (16 * n) go

def execPlace (e : Entry) (s : State) : Host.Outcome State Fault Refusal := .next (s.placeCmd e)

/-- First mirror segment of a tensor. -/
def firstMirror (j : Job) (t : TensorPlan) : Nat :=
  match j.segs.find? fun g => decide (g.seg = t.addr / segBytes) with | some g => g.mirror.getD 0 | none => 0

/-- The placement reply (R473). -/
def State.placeReply (s : State) (j : Job) : List Byte :=
  leBytes 4 j.stages.length ++ leBytes 4 j.tensors.length ++ leBytes 4 j.met.length ++ leBytes 4 s.usable ++ leBytes 4 (s.placeable / 2 ^ 20)
    ++ List.replicate 12 0
    ++ (j.stages.flatMap fun g => match g.region with
        | some p => leBytes 8 (p.base + (p.h - 1) * 2 ^ 16 + (p.w - 1) * 2 ^ 24) ++ leBytes 8 0
        | none => List.replicate 16 0)
    ++ (j.tensors.flatMap fun x => match x.place with
        | some t => leBytes 8 (t.addr + x.cls * 2 ^ 48) ++ leBytes 8 x.bytes
            ++ leBytes 8 (b2n t.near + t.group * 2 + t.kennel * 2 ^ 4 + x.pers * 2 ^ 11 + x.persEff * 2 ^ 14 + b2n (decide (x.cls = 2)) * 2 ^ 16
                + b2n x.degraded * 2 ^ 17 + (if x.cls = 2 then firstMirror j t else 0) * 2 ^ 18) ++ leBytes 8 0
        | none => List.replicate 32 0)
    ++ j.met.map fun m => if m then 1 else 0

/-- PLACE_QUERY (R473). -/
def State.placeQueryCmd (s : State) (e : Entry) : State :=
  s.cmd e .job ⟨false, false, false, true⟩ [(1, [(3, 61)]), (2, [(0, 32)])] fun s =>
    match s.job with
    | none => s
    | some j =>
      if !j.sealed then s.complete e sNOT_PLACED 0
      else
        let bs := s.placeReply j
        if bf (parm e 2) 0 32 < bs.length then s.complete e sINVALID_FIELD bs.length else s.reply e (parm e 1) bs sOK bs.length

def execPlaceQuery (e : Entry) (s : State) : Host.Outcome State Fault Refusal := .next (s.placeQueryCmd e)

/-! ## Passes -/

/-- PASS_LAUNCH (R21, R23, R575): held in order until nothing holds it. -/
def State.passLaunchCmd (s : State) (e : Entry) : State :=
  s.cmd e .job .jobCmd [(1, [(0, 32)]), (2, [(0, 5)])] fun s =>
    let c := bf (parm e 2) 0 4
    if c < 2 then s.complete e sINVALID_FIELD 0
    else if !(s.job.any fun j => j.sealed) then s.complete e sNOT_PLACED 0
    else if s.job.any fun j => j.closing then s.complete e sABORTED 0
    else (s.await e (.launch (bf (parm e 1) 0 32) c (bit (parm e 2) 4))).tryLaunch

def execPassLaunch (e : Entry) (s : State) : Host.Outcome State Fault Refusal := .next (s.passLaunchCmd e)

/-- A held PASS_LAUNCH, or a held PASS_COMMIT, of a pass number. -/
def State.heldLaunch (s : State) (n : Nat) : Bool := s.host.waits.any fun w => match w.why with | .launch m _ _ => decide (m = n) | _ => false
def State.heldCommit (s : State) (n : Nat) : Bool := s.host.waits.any fun w => match w.why with | .commit m _ _ => decide (m = n) | _ => false

/-- PASS_COMMIT (R302, R303). -/
def State.passCommitCmd (s : State) (e : Entry) : State :=
  s.cmd e .job ⟨false, false, true, true⟩ [(1, [(0, 32)]), (2, [(0, 5)])] fun s =>
    let n := bf (parm e 1) 0 32
    let fab := bit (parm e 2) 0
    let tree := bf (parm e 2) 1 4
    let mine := s.pass.any fun p => decide (p.number = n)
    if !mine ∧ !s.heldLaunch n then s.complete e sINVALID_FIELD 0
    else if (if mine then s.pass.any fun p => p.commit.isSome else s.heldCommit n) then s.complete e sBUSY 0
    else if fab ∧ !(s.on (F.packTreeCtrlEnable tree) ∧ s.on (F.packTreeCtrlCommit tree)) then s.complete e sREFUSED 0
    else if mine then
      ((s.modPass fun p => { p with commit := some e, fabric := fab, tree := tree }).wr F.keepPassStatFabric (b2n fab)).arrive
    else s.await e (.commit n fab tree)

def execPassCommit (e : Entry) (s : State) : Host.Outcome State Fault Refusal := .next (s.passCommitCmd e)

end Sys2Proof.Machine
end

