-- ==== Sys2Proof/Machine/Faults.lean ====
section
/-! DEFINITION. Faults of the module (R498 to R529): redundant tables (R506 to R510), Module-fatal faults (R519), Keeper restarts (R467, R516,
R520 to R522). -/

namespace Sys2Proof.Machine

/-! ## Fatal outcomes (R518, R519) -/

/-- The running job ends as Job-fatal with a cause: a running pass is discarded without replay, once the Keeper runs. -/
def State.failPass (s : State) (cause : Nat) : State :=
  match s.pass with
  | none => if s.job.isSome then s.fatalJob cause else s
  | some p =>
    let s := { s with pass := some (p.fatalBy cause) }
    if p.step ≠ 0 then s.modPass fun p => { p with step := min p.step 3 }
    else if s.keep.restarting then s
    else s.beginDiscard

/-- Cause of KEEP_FAULT_STAT.mfatal_cause. -/
def mfRESTARTS : Nat := 1
def mfIMAGE : Nat := 2
def mfTRIP : Nat := 3
def mfPOWER : Nat := 4

/-- A Module-fatal fault halts the compute partition (R519); one that comes during a compute reset leaves the partition halted at its end
(R546). The job ends with cause 0, as no Job-fatal cause is its own (DEDUCED, log entry 46). -/
def State.moduleFatal (s : State) (cause source unitKind unit detail : Nat) : State :=
  let s := if s.rd F.keepFaultStatState = 2 then s else s.wrs [(F.keepFaultStatState, 2), (F.keepFaultStatMfatalCause, cause)]
  let s := s.faultLog source 3 unitKind unit 11 cause detail
  let s := match s.boot.reset with
    | some r => { s with boot := { s.boot with reset := some { r with halt := true } } }
    | none => s.wr F.bootPartCompute 3
  s.failPass 0

/-- Governing temperature of an entry of THRM_UNIT, and the limit and trip thresholds of its kind (R600, R610). -/
def limitOf (n : Nat) : Nat := if 24 ≤ n ∧ n < 56 then 120 else 100
def tripOf (n : Nat) : Nat := if n < 24 then 110 else if n < 56 then 130 else 105
def cautionOf (n : Nat) : Nat := if 24 ≤ n ∧ n < 56 then 110 else 90

/-- A Module-fatal cause persists: 4 while the supply is not in range (R563), 3 while a unit is at or above its limit (R607), 1 while three
restarts lie within 10 minutes, 2 for good (DEDUCED, log entry 46). -/
def State.causePersists (s : State) : Bool :=
  match s.rd F.keepFaultStatMfatalCause with
  | 1 => decide (3 ≤ (s.keep.restarts.filter fun t => decide (s.now < t + 600000000000)).length)
  | 2 => true
  | 3 => (List.range 88).any fun n => decide (limitOf n ≤ s.rd (F.thrmUnitGoverning n))
  | 4 => !s.on F.pwrmStatSupplyOk
  | _ => false

/-! ## Redundant tables (R506 to R510) -/

/-- The owning die is there. -/
def State.tableAt (s : State) (t : TableKind) (i : Nat) : Bool :=
  match t with
  | .tileMap | .hashMap | .twin | .perm => decide (i < 8)
  | .route => decide (i < s.variant.portDies) || (decide (8 ≤ i) && decide (i < 16))
  | .window => decide (i < s.variant.portDies)

/-- Contents of the copies that pass their CRC. -/
def copiesPassing (c : CopyRead) : List Nat := ((c.crc.zip c.id).filter (·.1)).map (·.2)

/-- Passing copies were found to differ (R276, R417, R509). -/
def copiesDiffer (c : CopyRead) : Bool := !((copiesPassing c).all fun a => decide (a = (copiesPassing c).headD 0))

/-- What the check of R509 decides: copies to rewrite; none where no value has a majority. -/
def voteOf (c : CopyRead) : Option Nat :=
  match copiesPassing c with
  | [a, b, d] => if a = b ∧ b = d then some 0 else if a = b ∨ b = d ∨ a = d then some 1 else none
  | [a, b] => if a = b then some 1 else none
  | [_] => some 2
  | _ => none

/-- Hold begins (R510). -/
def State.beginHold (s : State) (t : TableKind) (i : Nat) : State :=
  let s := { s with keep := { s.keep with hold := some (t, i) } }
  let s := if s.rd F.keepFaultStatState = 0 then s.wr F.keepFaultStatState 1 else s
  ((s.wr F.keepFaultStatHoldTable (holdCode t)).faultLog 26 2 13 (holdCode t) 10 7 (mapStat t i)).failPass 7

/-- Hold ends: the copies that the Keeper has rewritten pass; packets that waited for their routes leave. -/
def State.endHold (s : State) : State :=
  let s := { s with keep := { s.keep with hold := none } }
  let s := if s.rd F.keepFaultStatState = 1 then s.wr F.keepFaultStatState 0 else s
  let ps := s.fab.held
  let s := s.modFab fun f => { f with held := [] }
  (ps.foldl (fun s p => s.sendVia p.1 p.2) s).resendPacks

/-- TABLE_CHECK (R508, R509). TABLE_VOTE counts every copy rewritten. -/
def execTableCheck (t : TableKind) (i : Nat) (c : CopyRead) (s : State) : Host.Outcome State Fault Refusal :=
  .next (if !s.tableAt t i ∨ c.crc.length ≠ 3 ∨ c.id.length ≠ 3 then s
    else
      let s := s.setCopies t i c.crc
      let s := if copiesDiffer c then s.wr ⟨mapStat t i, 3, 1⟩ 1 else s
      match voteOf c with
      | none => if s.keep.hold.isSome then s else s.beginHold t i
      | some n =>
        let s := if n = 0 then s else (s.bump Ev.tableVote .module n).faultLog 25 1 13 (holdCode t) 7 0 (mapStat t i)
        let s := s.setCopies t i allPass
        if s.keep.hold = some (t, i) then s.endHold else s)

/-! ## Keeper restarts (R520 to R522) -/

/-- Ten minutes in ns. -/
def tenMin : Nat := 600000000000

/-- Restarts of the last 10 minutes, in KEEP_WDOG.recent. -/
def State.recentRestarts (s : State) : State :=
  let rs := s.keep.restarts.filter fun t => decide (s.now < t + tenMin)
  { s with keep := { s.keep with restarts := rs } }.wr F.keepWdogRecent (min 15 rs.length)

/-- The Keeper core restarts alone, under code 29, whose record copies KEEP_MEM_ERR (R501); a mismatch of its image, or a third restart within 10 minutes, is Module-fatal. -/
def State.keeperRestart (s : State) (measOk : Bool) : State :=
  let s := { s with keep := { s.keep with restarting := true, restarts := s.keep.restarts ++ [s.now] } }
  let s := ((s.recentRestarts.satAdd F.keepWdogTotal 1).bump Ev.keeperRestart .module 1).faultLog 29 1 12 0 8 0 R.keepMemErr
  if !measOk then s.moduleFatal mfIMAGE 30 12 0 R.keepWdog
  else if 3 ≤ s.keep.restarts.length then s.moduleFatal mfRESTARTS 30 12 0 R.keepWdog
  else s

/-- The Keeper firmware runs: S2 has succeeded and no restart is in progress. -/
def State.keeperRuns (s : State) : Bool :=
  s.on F.bootStatusDoneValid && decide (2 ≤ s.rd F.bootStatusDoneUpto) && !s.keep.restarting

/-- A window that an interrupted CLOSE had taken to Closing is Open again: that command has had no effect (R467). -/
def State.undoClose (s : State) (f g : Fld) (key : Nat) : State :=
  if s.rd f = 2 then
    (s.wr f 1).modFab fun x => { x with winClosed := x.winClosed.filter fun w => !(decide (w.key = key) && decide (w.gen = s.rd g)) }
  else s

/-- The entries that an interrupted ROUTE_SET had replaced return; the dies fence that change too (R405). -/
def State.undoRoutes (s : State) (old : List (Nat × List Nat)) : State :=
  (old.foldl (fun s o => o.2.zipIdx.foldl (fun s v => s.wr (routeFld v.2 o.1 0 14) v.1) s) s).rerouted

/-- An interrupted local compute reset has not begun; the pass that it stopped is replayed. A fabric reset, which its packet began in every
member, goes on. -/
def State.undoReset (s : State) : State :=
  match s.boot.reset with
  | some r =>
    if r.fabric ∨ r.halt then s
    else ({ s with boot := { s.boot with reset := none } }.wr F.bootPartCompute (if s.rd F.keepFaultStatState = 2 then 3 else 1)).modPass fun p => { p with aborted := false }
  | none => s

/-- An interrupted RETIRE: JOB_OPEN is accepted again, and the windows that it closed are Open. -/
def State.undoRetire (s : State) (wins : List Nat) : State :=
  let s := wins.foldl (fun s n => s.undoClose (F.winCtrlState n) (F.winCtrlGen n) (keyMwin n)) s
  { s with host := { s.host with retiring := false, retired := false } }

/-- An interrupted link reset that still waits for RETIRE_ACKs. -/
def State.undoLinkReset (s : State) : State :=
  if s.boot.linkPhase = 1 then { s with boot := { s.boot with linkPhase := 0 } }.wr F.bootPartLink 1 else s

/-- An interrupted RETRAIN of a channel that waits for its boundary, where no lane of it waits for repair. -/
def State.undoRetrain (s : State) (n : Nat) : State :=
  if s.on (F.hbmcChStatLanePending (n / 16) (n % 16)) then s else { s with bound := { s.bound with lanes := s.bound.lanes.filter fun c => decide (c ≠ n) } }

/-- Take back what an interrupted command had begun (R467). What has left the Keeper (packets, completions of other commands, the training of a
link or channel, port dies in reset) goes on (DEDUCED, log entry 48). -/
def State.undoWait (s : State) (w : Wait) : State :=
  match w with
  | .mwinClose n => s.undoClose (F.winCtrlState n) (F.winCtrlGen n) (keyMwin n)
  | .tilewinClose t n => s.undoClose (F.tileWinState t n) (F.tileWinGen t n) (keyTile t n)
  | .jobClose | .sessionClose _ => (s.modJob fun j => { j with closing := false }).when s.boot.reset.isNone fun s => s.modPass fun p => { p with aborted := false }
  | .routeSet old => s.undoRoutes old
  | .computeReset => s.undoReset
  | .linkReset => s.undoLinkReset
  | .retire wins => s.undoRetire wins
  | .retrainChan n => s.undoRetrain n
  | _ => s

/-- Host commands of pack operations and snapshots in progress. -/
def State.packEntries (s : State) : List Entry :=
  let host (o : PackOp) : Option Entry := match o.by_ with | .host e => if e.sq < 16 then some e else none | _ => none
  s.trees.flatMap (fun t => ((t.2.op.toList ++ t.2.starts).filterMap host))
    ++ s.snaps.filterMap fun x => x.2.bind fun y => y.e.bind fun e => if e.sq < 16 then some e else none

/-- Every command that has started and is not complete, but for those of the running pass, completes with KEEPER_RESTART (R467); a
TELEM_SNAPSHOT that was latched meanwhile is complete but for its write (R632). -/
def State.interrupt (s : State) : State :=
  let stays (w : Waiting) : Bool := decide (w.why = .activate) || (decide (w.why = .telem) && s.time.shadow.isSome)
  let ws := s.host.waits.filter fun w => !stays w
  let es := ws.map (·.e) ++ s.packEntries ++ (match s.boot.src with | some (.cmd e) => [e] | _ => [])
  let s := ws.foldl (fun s w => s.undoWait w.why) s
  let s := s.modHost fun h => { h with waits := h.waits.filter stays }
  let s := s.modFab fun f => { f with winDelays := f.winDelays.filter fun d => d.e.isNone }
  let lose (o : PackOp) : PackOp := match o.by_ with | .host e => { o with by_ := .host { e with sq := 16 } } | _ => o
  let own (o : PackOp) : Bool := match o.by_ with | .host _ => false | _ => true
  let s := { s with
    trees := s.trees.map fun t => (t.1, { t.2 with op := t.2.op.map lose, starts := t.2.starts.filter own }),
    snaps := s.snaps.map fun x => (x.1, x.2.map fun y => { y with e := none }),
    boot := { s.boot with src := s.boot.src.map fun _ => .boot } }
  es.foldl (fun s e => s.complete e sKEEPER_RESTART 0) s

/-- What waited for the Keeper goes on (R516, R521): a discard, an end of a pass, a change of point, a launch. -/
def State.keeperResume (s : State) : State :=
  let s := match s.pass with
    | some p => if p.fatal.isSome ∧ p.step = 0 then s.beginDiscard else s.passEnd.arrive
    | none => s
  (s.oppFollow s.pass.isNone).tryLaunch

end Sys2Proof.Machine
end

