-- ==== Sys2Proof/Machine/Firmware.lean ====
section
/-! DEFINITION. Firmware, identity and attestation (R643 to R663): images, staging and activation, Keeper restart rows, fuse advance, the
identity record, measurements, SPDM over DOE. -/

namespace Sys2Proof.Machine

/-- Change the firmware state. -/
def State.modFw (s : State) (f : FwSt → FwSt) : State := { s with fw := f s.fw }

/-! ## Images (R644 to R646) -/

/-- A little-endian field of an image. -/
def imgAt (b : List Byte) (a n : Nat) : Nat := leNat ((b.drop a).take n)

/-- Every byte of a range is 0. -/
def allZero (b : List Byte) (a n : Nat) : Bool := ((b.drop a).take n).all fun x => decide (x = 0)

def imgKey (b : List Byte) : Nat := imgAt b 6 1
def imgAdvance (b : List Byte) : Bool := bit (imgAt b 7 1) 0
def imgRevoke (b : List Byte) : Nat := bf (imgAt b 7 1) 1 4
def imgSvn (b : List Byte) : Nat := imgAt b 8 1
def imgBody (b : List Byte) : Nat := imgAt b 12 4

/-- Bit of `compat` for a part number code. -/
def partBit : Nat → Option Nat
  | 0x3204 => some 0 | 0x2406 => some 1 | 0x1608 => some 2 | _ => none

/-- Outcomes of the checks of R645, as BOOT_STATUS.result codes them (R550). -/
def brNO_IMAGE : Nat := 0x13
def brSIG_INVALID : Nat := 0x14
def brROLLBACK : Nat := 0x15

/-- The checks of R645 in order: none where the image is valid, else its outcome. `count` is the byte count of FW_STAGE. -/
def State.imageStatus (s : State) (b : List Byte) (count : Option Nat) : Option Nat :=
  let n := 0x2000 + imgBody b
  let form := decide (imgAt b 0 4 = 0x54535242) && decide (imgAt b 4 2 = 1) && decide (imgAt b 7 1 < 32) && allZero b 9 3
    && decide (imgAt b 16 4 < 8) && allZero b 96 160 && decide (n ≤ 0x2000000) && (match count with | some c => decide (n = c) | none => true)
  let pub := (b.drop 0x100).take 2592
  if !form then some brNO_IMAGE
  else if !(match partBit (s.rd F.attsIdStatPart) with | some i => bit (imgAt b 16 4) i | none => false) then some brNO_IMAGE
  else if s.fw.keys[imgKey b]? ≠ some (sha3 pub) ∨ bit (s.rd F.attsFwStatRevoked) (imgKey b) ∨ bit (imgRevoke b) (imgKey b) then some brSIG_INVALID
  else if !Config.mldsaVerify pub (b.take 256) ((b.drop 0xB20).take 4627) then some brSIG_INVALID
  else if sha3 (b.drop 0x2000) ≠ (b.drop 32).take 64 then some brSIG_INVALID
  else if imgSvn b < s.rd F.attsFwStatFused then some brROLLBACK
  else none

/-- The image in BAR4, as long as its header says. -/
def State.bar4Image (s : State) : List Byte := mgets s.fw.bar4 0 (min 0x2000000 (0x2000 + leNat (mgets s.fw.bar4 12 4)))

/-- Measurement 3 (R654). -/
def State.measureFuses (s : State) : State :=
  s.measure 3 [leBytes 1 (s.rd F.attsFwStatFused) ++ leBytes 1 (s.rd F.attsFwStatRevoked) ++ leBytes 1 (s.rd F.attsFwStatSvn)] []

/-- An image runs: its header is in the registers, and measurement 2 is its own. -/
def State.runImage (s : State) (b : List Byte) : State :=
  let s := s.wrs [(F.attsFwStatRunning, 1), (F.attsFwStatKeyIndex, imgKey b), (F.attsFwStatSvn, imgSvn b), (F.attsFwVerVersion, imgAt b 20 8)]
  (s.modFw fun f => { f with image := b }).measure 2 [b.take 256] []

/-! ## Staging and activation (R650, R651) -/

/-- Nothing is staged. -/
def State.unstage (s : State) : State := (s.wrs [(F.attsFwStatStaged, 0), (F.attsFwStatStagedSvn, 0)]).modFw fun f => { f with staged := [] }

/-- FW_STAGE. R474 gives NO_IMAGE no code: it completes as a command error, 0x02xx, whose low byte is a free value (log entry 7). -/
def State.fwStageCmd (s : State) (e : Entry) : State :=
  s.cmd e .admin .plain [(1, [(0, 26)])] fun s =>
    let n := bf (parm e 1) 0 26
    if 0x2000000 < n then s.complete e sINVALID_FIELD 0
    else
      let b := s.bar4Image
      match s.imageStatus b (some n) with
      | some c =>
        let (v, s) := s.unstage.free
        s.complete e (if c = brSIG_INVALID then sSIG_INVALID else if c = brROLLBACK then sROLLBACK else 0x0200 + v % 256) 0
      | none => ((s.wrs [(F.attsFwStatStaged, 1), (F.attsFwStatStagedSvn, imgSvn b)]).modFw fun f => { f with staged := b }).complete e sOK 0

def execFwStage (e : Entry) (s : State) : Host.Outcome State Fault Refusal := .next (s.fwStageCmd e)

/-- FW_ACTIVATE: the Keeper restarts into the staged copy. -/
def State.fwActivateCmd (s : State) (e : Entry) : State :=
  s.cmd e .admin .plain [] fun s =>
    if s.job.isSome then s.complete e sBUSY 0
    else if !s.on F.attsFwStatStaged then s.complete e sNOT_READY 0
    else
      let s := { s with keep := { s.keep with restarting := true } }
      (s.await e .activate).modFw fun f => { f with prev := f.image, activating := true }

def execFwActivate (e : Entry) (s : State) : Host.Outcome State Fault Refusal := .next (s.fwActivateCmd e)

/-- The new image has serviced its watchdog. -/
def State.activated (s : State) : State :=
  if !s.fw.activating then s
  else
    let s := ((s.runImage s.fw.staged).unstage.wr F.attsFwStatAdvancing 0).modFw fun f => { f with prev := [], activating := false }
    s.finish (fun w => decide (w = .activate)) sOK 0

/-- It has not: the previous image starts again. -/
def State.activationFails (s : State) : State :=
  (s.unstage.modFw fun f => { f with image := f.prev, prev := [], activating := false }).finish (fun w => decide (w = .activate)) sKEEPER_RESTART 0

/-! ## Keeper restarts (R520, R521, R657) -/

/-- Words of the Keeper's memories that their decoders corrected and wrote back: counted (R520, R528). A row that restarts the Keeper reports
those since the last restart (DESIGN CHOICE, log entry 100: none has a row of its own). -/
def State.keeperCe (s : State) (n : Nat) : State := if n = 0 then s else (s.wr F.keepMemErrCeValid 1).satAdd F.keepMemErrCeCount n

def execKeeperWatchdogExpiry (ce : Nat) (measOk : Bool) (s : State) : Host.Outcome State Fault Refusal :=
  .next (if s.fw.activating then (s.keeperCe ce).activationFails.keeperRestart measOk
    else if s.keeperRuns then (s.keeperCe ce).keeperRestart measOk else s)

def execKeeperMemUe (ce : Nat) (measOk : Bool) (s : State) : Host.Outcome State Fault Refusal :=
  .next (if s.keeperRuns then ((s.keeperCe ce).wr F.keepMemErrUeValid 1).keeperRestart measOk else s)

def execKeeperRestartDone (s : State) : Host.Outcome State Fault Refusal :=
  .next (if !s.keep.restarting then s
    else
      let s := { s with keep := { s.keep with restarting := false } }
      let s := (List.range 16).foldl (fun s q => s.postHeld q) s
      let s : State := s.interrupt.telemResume.activated.notice 9 sKEEPER_RESTART (s.rd F.keepWdogTotal)
      let s := if s.rd F.attsSpdmStatState = 0 then s else (s.wr F.attsSpdmStatState 0).modFw fun f => { f with transcript := [], resync := true }
      s.keeperResume)

/-! ## Fuse advance (R649) -/

/-- Slots of the running image's revoke mask that are not revoked. -/
def State.toRevoke (s : State) : List Nat :=
  (List.range 4).filter fun k => bit (imgRevoke s.fw.image) k && !bit (s.rd F.attsFwStatRevoked) k

def execFuseAdvance (s : State) : Host.Outcome State Fault Refusal :=
  .next (if s.on F.bootStatusReady ∧ !s.keep.restarting ∧ imgAdvance s.fw.image ∧ s.rd F.attsFwStatFused < s.rd F.attsFwStatSvn then
      s.wr F.attsFwStatAdvancing 1
    else s)

/-- One fuse is blown; the last one ends the advance. -/
def execFuseBlown (s : State) : Host.Outcome State Fault Refusal :=
  .next (if !s.on F.attsFwStatAdvancing ∨ s.keep.restarting then s
    else
      let n := s.rd F.attsFwStatFused
      let s := if n < s.rd F.attsFwStatSvn then s.wr F.attsFwStatFused (n + 1)
        else match s.toRevoke with
          | k :: _ => s.wr F.attsFwStatRevoked (s.rd F.attsFwStatRevoked + 2 ^ k)
          | [] => s
      let s := s.measureFuses
      if s.rd F.attsFwStatFused < s.rd F.attsFwStatSvn ∨ !s.toRevoke.isEmpty then s else s.wr F.attsFwStatAdvancing 0)

/-! ## Identity (R652, R653, R658, R659) -/

/-- The record as read. -/
def State.identity (s : State) : List Byte := mgets s.fw.eeprom 0 512

/-- Bytes of a DER element from its header (PRESUMED, X.690; log entry 13). -/
def derLen (b : List Byte) : Nat :=
  let at_ (i : Nat) : Nat := (b.getD i 0).toNat
  let l := at_ 1
  if l < 0x80 then 2 + l
  else if l = 0x81 then 3 + at_ 2
  else if l = 0x82 then 4 + 256 * at_ 2 + at_ 3
  else if l = 0x83 then 5 + 65536 * at_ 2 + 256 * at_ 3 + at_ 4
  else 0

/-- The certificate chain: two elements one after the other. -/
def State.certChain (s : State) : List Byte × List Byte :=
  let all := mgets s.fw.eeprom 0x200 0x3E00
  let n := derLen all
  (all.take n, (all.drop n).take (derLen (all.drop n)))

/-- ATTS's private seed ξ (R652). -/
def identityXi (seed : List Byte) : List Byte :=
  let name : List Nat := [0x42, 0x72, 0x69, 0x65, 0x73, 0x74, 0x20, 0x69, 0x64, 0x65, 0x6E, 0x74, 0x69, 0x74, 0x79, 0x20, 0x76, 0x31]
  (sha3 (name.map (BitVec.ofNat 8) ++ seed)).take 32

/-- The record passes its CRC and format check. -/
def recordOk (r : List Byte) : Bool := decide (imgAt r 0 4 = 1) && decide (imgAt r 0x1FC 4 = (crc32 (r.take 0x1FC)).toNat)

/-- ATTS at S1. -/
def State.attsStart (s : State) : State :=
  let r := s.identity
  let ok := recordOk r
  let c := s.certChain
  let chain := decide (sha3 (c.1 ++ c.2) = (r.drop 0x88).take 64)
  let key := decide (Config.certPublicKey c.1 = Config.mldsaPublicKey (identityXi s.fw.seed))
  let s := s.wrs [(F.attsIdStatRecordOk, b2n ok), (F.attsIdStatChainOk, b2n chain), (F.attsIdStatKeyMatch, b2n key),
    (F.attsIdStatPart, if ok then imgAt r 4 2 else s.variant.partCode)]
  (s.measure 1 [Config.bootRom] []).measure 5 [r] []

/-- IDENTITY_READ. -/
def State.identityReadCmd (s : State) (e : Entry) : State :=
  s.cmd e .admin ⟨true, false, false, true⟩ [(1, [(3, 61)])] fun s => s.reply e (parm e 1) s.identity sOK 0

def execIdentityRead (e : Entry) (s : State) : Host.Outcome State Fault Refusal := .next (s.identityReadCmd e)

/-! ## Measurements (R654, R655) -/

/-- Bytes of a list of registers from `a` on, `n` registers apart `step`. -/
def regBytes (s : Table W64) (as : List Nat) : List Byte := as.flatMap fun a => leBytes 8 (tget (fun _ => (0 : W64)) s a).toNat

/-- Job digest (R654): each stage image in turn. -/
def jobDigest (images : List (List Byte)) : List Byte := images.foldl (fun j b => sha3 (j ++ sha3 b)) (sha3 (List.replicate 64 0))

/-- Digest of a measurement; 64 zero bytes before its first update (log entry 6). -/
def State.measDigest (s : State) (i : Nat) : List Byte :=
  let m := s.meas i
  if m.count = 0 then List.replicate 64 0
  else if i = 6 then jobDigest m.parts
  else if i = 7 then
    sha3 (regBytes m.regs (((List.range 4096).map (R.portRoute 0)) ++ (List.range 1024).flatMap fun n => [R.winCtrl n, R.winLen n]))
  else sha3 (m.parts.headD [])

/-- SPDM value type of a measurement. -/
def measType : Nat → Nat
  | 1 => 0 | 2 => 1 | 3 => 3 | 4 => 2 | 5 => 2 | _ => 3

/-- One entry of MEASURE_READ. -/
def State.measEntry (s : State) (i : Nat) : List Byte :=
  leBytes 1 i ++ leBytes 1 (measType i) ++ leBytes 4 (s.meas i).count ++ leBytes 2 0 ++ leBytes 8 (s.meas i).time ++ s.measDigest i

/-- Every measurement, by index. -/
def State.measBytes (s : State) : List Byte :=
  leBytes 8 7 ++ leBytes 8 0 ++ ((List.range 7).map (· + 1)).flatMap fun i => s.measEntry i

/-- MEASURE_READ. -/
def State.measureReadCmd (s : State) (e : Entry) : State :=
  s.cmd e .admin .plain [(1, [(3, 61)]), (2, [(0, 32)])] fun s =>
    if bf (parm e 2) 0 32 < 576 then s.complete e sINVALID_FIELD 576 else s.reply e (parm e 1) s.measBytes sOK 576

def execMeasureRead (e : Entry) (s : State) : Host.Outcome State Fault Refusal := .next (s.measureReadCmd e)

/-! ## SPDM over DOE (R656, R657). Codes and rules of order are those of DSP0274 1.3 (PRESUMED, log entry 14). -/

/-- SPDM version 1.3. -/
def spdm13 : Nat := 0x13

/-- The mailbox holds a response. -/
def State.doeAnswer (s : State) (bs : List Byte) : State := s.modFw fun f => { f with response := bs }

/-- An ERROR response. -/
def State.spdmError (s : State) (code data : Nat) : State :=
  (s.satAdd F.attsSpdmStatErrors 1).doeAnswer ([spdm13, 0x7F, code, data].map (BitVec.ofNat 8))

/-- Bytes of a request. -/
def SpdmBytes (m : SpdmMsg) : List Byte := [m.version, m.code, m.p1, m.p2].map (BitVec.ofNat 8) ++ m.body

/-- Answer a request: the fixed bytes of the header, then what DSP0274 lays out, from the given contents; request and response join
the transcript. -/
def State.spdmAnswer (s : State) (m : SpdmMsg) (code p1 : Nat) (from_ : List Byte) : State :=
  let bs := [spdm13, code, p1, 0].map (BitVec.ofNat 8) ++ Config.spdmBody code (SpdmBytes m ++ from_)
  (s.modFw fun f => { f with transcript := f.transcript ++ SpdmBytes m ++ bs }).doeAnswer bs

/-- The same with ATTS's signature over the transcript, after which a new transcript begins. -/
def State.spdmSigned (s : State) (m : SpdmMsg) (code p1 : Nat) (from_ : List Byte) : State :=
  let s := s.spdmAnswer m code p1 from_
  let sig := Config.mldsaSign (identityXi s.fw.seed) s.fw.transcript s.fw.signs
  ((s.satAdd F.attsSpdmStatSigned 1).modFw fun f => { f with signs := f.signs + 1, transcript := [] }).doeAnswer (s.fw.response ++ sig)

/-- The responder runs: the firmware does, and the request is one of this code. A request that comes during a restart waits. -/
def State.spdmReady (s : State) (m : SpdmMsg) (code : Nat) : Bool := s.keeperRuns && s.host.linkUp && decide (m.code = code)

/-- A request after GET_VERSION, allowed from a negotiation state on. -/
def State.spdmRequest (s : State) (m : SpdmMsg) (code least : Nat) (f : State → State) : State :=
  if !s.spdmReady m code then s
  else if s.fw.resync then s.spdmError 0x43 0
  else if s.rd F.attsSpdmStatState < least then s.spdmError 0x04 0
  else if m.version ≠ spdm13 then s.spdmError 0x41 0
  else f s

def execGetVersion (m : SpdmMsg) (s : State) : Host.Outcome State Fault Refusal :=
  .next (if !s.spdmReady m 0x84 then s
    else
      let s := (s.wr F.attsSpdmStatState 1).modFw fun f => { f with transcript := [], resync := false }
      let bs := [0x10, 0x04, 0, 0, 0, 1, 0x00, 0x13].map (BitVec.ofNat 8)
      (s.modFw fun f => { f with transcript := SpdmBytes m ++ bs }).doeAnswer bs)

def execGetCapabilities (m : SpdmMsg) (s : State) : Host.Outcome State Fault Refusal :=
  .next (s.spdmRequest m 0xE1 1 fun s => s.spdmAnswer m 0x61 0 [])

def execNegotiateAlgorithms (m : SpdmMsg) (s : State) : Host.Outcome State Fault Refusal :=
  .next (s.spdmRequest m 0xE3 1 fun s => (s.spdmAnswer m 0x63 0 []).wr F.attsSpdmStatState 2)

def execGetDigests (m : SpdmMsg) (s : State) : Host.Outcome State Fault Refusal :=
  .next (s.spdmRequest m 0x81 2 fun s => s.spdmAnswer m 0x01 0 (s.certChain.1 ++ s.certChain.2))

/-- Only slot 0 holds a chain. -/
def execGetCertificate (m : SpdmMsg) (s : State) : Host.Outcome State Fault Refusal :=
  .next (s.spdmRequest m 0x82 2 fun s =>
    if m.p1 % 16 ≠ 0 then s.spdmError 0x01 0 else s.spdmAnswer m 0x02 0 (s.certChain.1 ++ s.certChain.2))

def execChallenge (m : SpdmMsg) (s : State) : Host.Outcome State Fault Refusal :=
  .next (s.spdmRequest m 0x83 2 fun s =>
    if m.p1 ≠ 0 then s.spdmError 0x01 0 else s.spdmSigned m 0x03 0 (s.certChain.1 ++ s.certChain.2 ++ s.measBytes))

/-- Measurements, signed where the request asks for it: their number, one block, or every block. -/
def execGetMeasurements (m : SpdmMsg) (s : State) : Host.Outcome State Fault Refusal :=
  .next (s.spdmRequest m 0xE0 2 fun s =>
    if m.p2 ≠ 0 ∧ m.p2 ≠ 0xFF ∧ 7 < m.p2 then s.spdmError 0x01 0
    else
      let blocks := if m.p2 = 0 then [] else if m.p2 = 0xFF then s.measBytes else s.measEntry m.p2
      let n := if m.p2 = 0 then 7 else 0
      if m.p1 % 2 = 1 then s.spdmSigned m 0x60 n blocks else s.spdmAnswer m 0x60 n blocks)

/-- Request codes that R656 uses. -/
def spdmCodes : List Nat := [0x84, 0xE1, 0xE3, 0x81, 0x82, 0x83, 0xE0]

def execUnsupportedSpdmRequest (m : SpdmMsg) (s : State) : Host.Outcome State Fault Refusal :=
  .next (if spdmCodes.contains m.code ∨ !s.keeperRuns ∨ !s.host.linkUp then s
    else if s.fw.resync then s.spdmError 0x43 0
    else s.spdmError 0x07 m.code)

/-- DOE Discovery: the object types in order (PRESUMED, log entry 14). -/
def execDoeDiscovery (index : Nat) (s : State) : Host.Outcome State Fault Refusal :=
  .next (if !s.keeperRuns ∨ !s.host.linkUp then s
    else s.doeAnswer (leBytes 4 (if index = 0 then 0x01000001 else if index = 1 then 0x00010001 else 0xFFFF)))

/-- A DOE Abort discards the transcript in progress, so that a requester starts again from GET_VERSION. -/
def execDoeAbort (s : State) : Host.Outcome State Fault Refusal :=
  .next (if s.host.linkUp then (s.wr F.attsSpdmStatState 0).modFw fun f => { f with transcript := [], response := [] } else s)

end Sys2Proof.Machine
end

