-- ==== Sys2Proof/Machine/Power.lean ====
section
/-! DEFINITION. Power (R541, R557 to R592, R668 to R679): input and supply, converters, rails, phases, bonds, regulator cells, currents, the guard
and the energy account, bays, idle states, cages. -/

namespace Sys2Proof.Machine

/-! ## The input (R541, R559, R670, R679) -/

/-- The module loses power: what remains is what lies outside it or is not volatile (the host's memory and the messages sent to it, the
variant, fuses, the EEPROM, cage modules, the loop and PWR_OFF), and the queue of commands. -/
def State.powerLoss (s : State) : State :=
  let z : State :=
    { State.reset with
        pending := s.pending, variant := s.variant, freeCtr := s.freeCtr, hbmGen := s.hbmGen + 1,
        fw := { State.reset.fw with seed := s.fw.seed, keys := s.fw.keys, eeprom := s.fw.eeprom },
        power := { State.reset.power with enLoop := s.power.enLoop, pwrOff := s.power.pwrOff, tripped := s.power.tripped, cages := s.power.cages },
        host := { State.reset.host with mem := s.host.mem, msix := s.host.msix } }
  z.wrs [(F.attsFwStatFused, s.rd F.attsFwStatFused), (F.attsFwStatRevoked, s.rd F.attsFwStatRevoked)]

/-- 50 V powers the always-on partition. -/
def State.powerUp (s : State) : State :=
  if s.power.powered then s else s.modPower fun p => { p with powered := true, tripped := false }

/-- 50 V comes with the EN loop closed. While PWR_OFF is high the module stays unpowered. -/
def execPowerApplied (s : State) : Host.Outcome State Fault Refusal :=
  .next (let s := s.modPower fun p => { p with enLoop := true }
         if s.power.pwrOff then s else s.powerUp)

def execEnLoopOpen (s : State) : Host.Outcome State Fault Refusal :=
  .next ((if s.power.powered then s.powerLoss else s).modPower fun p => { p with enLoop := false, tripped := false })

def execPwrOffHigh (s : State) : Host.Outcome State Fault Refusal :=
  .next ((if s.power.powered then s.powerLoss else s).modPower fun p => { p with pwrOff := true, tripped := false })

def execPwrOffFall (s : State) : Host.Outcome State Fault Refusal :=
  .next (if !s.power.pwrOff then s
    else
      let s := s.modPower fun p => { p with pwrOff := false }
      if s.power.enLoop then s.powerUp else s)

/-- The input is in its normal range, in mV. -/
def inputGood (mv : Nat) : Bool := decide (40000 ≤ mv) && decide (mv ≤ 60000)

def execInputWarn (mv : Nat) (s : State) : Host.Outcome State Fault Refusal :=
  .next (if s.power.powered ∧ !inputGood mv ∧ 38000 ≤ mv ∧ mv ≤ 62000 then s.wr F.pwrmStatInputWarn 1 else s)

/-- The input is outside 38 to 62 V or draws more than 140 A: the module loses power (as at removal, the standby supply with it: DEDUCED,
log entry 50). -/
def execInputTrip (mv ma : Nat) (s : State) : Host.Outcome State Fault Refusal :=
  .next (if s.power.powered ∧ (mv < 38000 ∨ 62000 < mv ∨ 140000 < ma) then s.powerLoss.modPower fun p => { p with tripped := true } else s)

def execInputRestore (mv : Nat) (s : State) : Host.Outcome State Fault Refusal :=
  .next (if s.power.tripped ∧ s.power.enLoop ∧ !s.power.pwrOff ∧ inputGood mv then s.powerUp else s)

/-! ## Converters (R560) -/

/-- State of a converter, and its output power. -/
def convState (i : Nat) : Fld := ⟨R.pwrmConvStat, 16 * i, 2⟩
def convOut (i : Nat) : Fld := ⟨R.pwrmConvStat, 16 * i + 2, 11⟩

/-- supply_ok follows the rails of R563's first row and the converters. -/
def State.supply (s : State) : State :=
  s.wr F.pwrmStatSupplyOk (b2n (s.power.rails.isEmpty && decide (2 ≤ s.rd F.pwrmStatConvOk)))

/-- The effective cap and the guard's limits follow the converters in regulation; the refill rate follows the cap. -/
def State.caps560 (s : State) : State :=
  let two := decide (s.rd F.pwrmStatConvOk = 2)
  let cap := s.rd F.pwrmCapCapW
  (s.wrs [(F.pwrmCapEffCapW, if two then min cap 2600 else cap), (F.pwrmGuardShortW, if two then 3200 else 4800),
    (F.pwrmGuardLongW, if two then 2600 else 4000)]).refill

/-- Numbers of a rail's power stage, of a converter and of a bond zone in the fault log (unit kind 10): free (log entry 51). -/
def railUnit (n : Nat) : Nat := Config.logUnit 10 n
def convUnit (i : Nat) : Nat := Config.logUnit 10 (1000 + i)
def bondUnit (d z : Nat) : Nat := Config.logUnit 10 (2000 + 16 * d + z)

def execConverterFault (i : Nat) (s : State) : Host.Outcome State Fault Refusal :=
  .next (if 4 ≤ i ∨ s.rd (convState i) ≠ 0 then s
    else
      let s := (s.wrs [(convState i, 1), (convOut i, 0), (F.pwrmStatConvOk, s.rd F.pwrmStatConvOk - 1)]).bump Ev.convFail .module 1
      let s := s.caps560.supply
      if s.rd F.pwrmStatConvOk ≤ 1 then s.moduleFatal mfPOWER 32 10 (convUnit i) R.pwrmConvStat
      else s.faultLog 27 1 10 (convUnit i) (if s.rd F.pwrmStatConvOk = 2 then 4 else 0) 0 R.pwrmConvStat)

/-! ## Rails (R561, R563). Rails are numbered as PWRM_CUR. -/

/-- A stack is populated. -/
def State.stackPopulated (s : State) (h : Nat) : Bool := s.on (F.hbmcCfgPopulated h)

/-- The module has the rail or supply (R591). -/
def State.railExists (s : State) (n : Nat) : Bool :=
  decide (n < 32) || (decide (n < 128) && s.stackPopulated ((n - 32) % 32)) || (decide (128 ≤ n) && decide (n < 144) && decide ((n - 128) % 8 < s.variant.portDies))
    || (decide (144 ≤ n) && decide (n < 148))

/-- Every channel of a stack retires (R338, R563, R571): one event, so one record, of the stack, and one leash notice. -/
def State.retireStack (s : State) (h : Nat) : State :=
  let chs := ((List.range 16).map (16 * h + ·)).filter fun c => !s.chanRetired c
  if chs.isEmpty then s
  else
    let lost := chs.any fun c => s.jobOnChan c
    (chs.foldl (fun s c => s.chanOut c 4) s).faultLog 17 (if lost then 2 else 1) 6 h 5 (if lost then 9 else 0) (R.hbmcChStat h 0)
      |>.setCaps lHBM (chs.map fun c => (0, c)) 0

/-- A link that is enabled and not Down goes Down. -/
def State.dropLink (s : State) (l : Nat) : State :=
  let st := s.rd (F.linkStatState l)
  if st = lkDisabled ∨ st = lkDown then s else s.linkToDown l

/-- A port die's links lose their power. -/
def State.darkPort (s : State) (p : Nat) : State :=
  let s := s.modPower fun w => { w with darkPorts := if w.darkPorts.contains p then w.darkPorts else w.darkPorts ++ [p] }
  (s.linksLose p).1.foldl (fun s l => s.dropLink l) (s.linksLose p).2

/-- The outcome of a rail fault. A VHP rail takes four stacks with it, in one leash notice (R369). -/
def State.railFault (s : State) (n : Nat) : State :=
  let s := if s.rd F.pwrmStatRailFault = 0xFF then s.wr F.pwrmStatRailFault n else s
  let s := if n < 24 then s.wr (F.pwrmPhaseStatLost n) 1 else s
  if n < 24 ∨ 146 ≤ n then
    (((s.modPower fun p => { p with rails := if p.rails.contains n then p.rails else p.rails ++ [n] }).supply).moduleFatal mfPOWER 32 10 (railUnit n)
      (if n < 24 then R.pwrmPhaseStat n else R.pwrmStat))
  else if n < 32 then
    let chs := ((List.range 64).map (64 * (n - 24) + ·)).filter fun c => s.stackPopulated (c / 16) && !s.chanRetired c
    let s := s.setCaps lHBM (chs.map fun c => (0, c)) 0
    (List.range 4).foldl (fun s k =>
      let h := 4 * (n - 24) + k
      (s.wr (F.reglStatState h) 3).when (s.stackPopulated h) fun s => s.retireStack h) s
  else if n < 128 then s.retireStack ((n - 32) % 32)
  else s.darkPort ((n - 128) % 8)

def execRailFault (r : RailEvent) (s : State) : Host.Outcome State Fault Refusal :=
  .next (match r with | .rail n => if !s.railExists n ∨ n = 144 ∨ n = 145 then s else s.railFault n)

/-! ## Phases and bonds (R568, R569) -/

/-- Phase limit for the working phases of a VDK rail; none where no point fits. -/
def phaseLimit (working : Nat) : Option Nat :=
  if 10 ≤ working then some 0 else if 8 ≤ working then some 1 else if working = 7 then some 2 else if 4 ≤ working then some 3 else none

/-- Tighten the phase limit of a die; points follow. -/
def State.limitDie (s : State) (d lim : Nat) : State :=
  let old := bf (s.rd F.pwrmOppPhaseLimD) (2 * d) 2
  (s.wr F.pwrmOppPhaseLimD (bfSet (s.rd F.pwrmOppPhaseLimD) (2 * d) 2 (max old lim))).oppFollow s.pass.isNone

def execPhaseFail (rail : Nat) (s : State) : Host.Outcome State Fault Refusal :=
  .next (if 24 ≤ rail ∨ s.rd (F.pwrmPhaseStatInstalled rail) ≤ s.rd (F.pwrmPhaseStatFailed rail) then s
    else
      let s := (s.wr (F.pwrmPhaseStatFailed rail) (s.rd (F.pwrmPhaseStatFailed rail) + 1)).bump Ev.phaseFail .module 1
      let working := s.rd (F.pwrmPhaseStatInstalled rail) - s.rd (F.pwrmPhaseStatFailed rail)
      if working = 0 then s.railFault rail
      else if 8 ≤ rail then s.faultLog 27 1 10 (railUnit rail) 0 0 (R.pwrmPhaseStat rail)
      else match phaseLimit working with
        | some k => (s.limitDie rail k).faultLog 27 1 10 (railUnit rail) (if k = 0 then 0 else 4) 0 (R.pwrmPhaseStat rail)
        | none => s.moduleFatal mfPOWER 32 10 (railUnit rail) (R.pwrmPhaseStat rail))

/-- A zone above 150 % of its share is above 125 % too. -/
def execBondZoneOvercurrent (d z : Nat) (over150 : Bool) (s : State) : Host.Outcome State Fault Refusal :=
  .next (if 8 ≤ d ∨ 16 ≤ z then s
    else
      let s := s.wr (F.pwrmBondOver125 d) (bfSet (s.rd (F.pwrmBondOver125 d)) z 1 1)
      let s := if over150 then (s.wr (F.pwrmBondOver150 d) (bfSet (s.rd (F.pwrmBondOver150 d)) z 1 1)).limitDie d 1 else s
      s.faultLog 27 1 10 (bondUnit d z) (if over150 then 4 else 0) 0 (R.pwrmBond d))

/-! ## Regulator cells (R570, R571) -/

/-- State code for a number of working cells (R592). -/
def cellState (working : Nat) : Nat := if 4 ≤ working then 0 else if working = 3 then 1 else if working = 2 then 2 else 3

/-- Half rate (R320, R368): every channel of the stack in service retrains, and its capacity halves. -/
def State.halfStack (s : State) (h : Nat) : State :=
  let s := s.wr (F.hbmcCfgHalfRate h) 1
  let cs := (List.range 16).filter fun c => decide (s.rd (F.hbmcChStatState h c) = 1)
  (cs.foldl (fun s c => s.wr (F.hbmcChStatState h c) 2) s).setCaps lHBM (cs.map fun c => (0, 16 * h + c)) (s.nominal lHBM / 2)

/-- What the new state of a macro does. -/
def State.macroActs (s : State) (m st : Nat) : State :=
  if m = 64 then (if st = 3 then s.moduleFatal mfPOWER 32 9 64 (R.reglStat 64) else s)
  else if m < 32 then
    if !s.stackPopulated m then s else if st = 2 then s.halfStack m else if st = 3 then s.retireStack m else s
  else
    let l := if m < 64 then m - 32 else m - 33
    if st = 2 then s.startRetrain l false else if st = 3 then s.dropLink l else s

/-- A cell counts as failed. -/
def State.cellFails (s : State) (m cell : Nat) : State :=
  if 97 ≤ m ∨ 4 ≤ cell ∨ !bit (s.rd (F.reglStatCellsOk m)) cell then s
  else
    let ok := bfSet (s.rd (F.reglStatCellsOk m)) cell 1 0
    let n := ((List.range 4).filter fun k => bit ok k).length
    let old := s.rd (F.reglStatState m)
    let st := max old (cellState n)
    let s := (s.wrs [(F.reglStatCellsOk m, ok), (F.reglStatState m, st)]).bump Ev.reglCellFail .module 1
    let s := s.faultLog 27 1 9 m (if st ≤ 1 then 0 else if st = 2 then 4 else 5) 0 (R.reglStat m)
    if st = old then s else s.macroActs m st

def execReglCellFail (m cell : Nat) (s : State) : Host.Outcome State Fault Refusal := .next (s.cellFails m cell)

/-! ## Currents (R572, R591) -/

/-- vdk_trim of a die in mV (R561, R658); 100 mV where the record fails its check (R659). -/
def State.vdkTrim (s : State) (d : Nat) : Nat := let r := s.identity; if recordOk r then min 100 (imgAt r (0x28 + d) 1) else 100

/-- Voltage that a rail of R563's first row is set to, in mV; none while the rail is off (R565, R578). -/
def State.railTarget (s : State) (n : Nat) : Option Nat :=
  let idle := s.rd F.pwrmWakeTolCurrent
  if n < 8 then
    (if 3 ≤ idle then none
     else some ((if idle = 2 then 500 else match s.dieOpp n with | 0 => 620 | 1 => 580 | 2 => 550 | _ => 500) + s.vdkTrim n))
  else if n < 16 then (if 3 ≤ idle then none else some 750)
  else if n < 24 then (if idle = 4 then none else some (if idle = 3 then 700 else 750))
  else if n = 146 then some 3300
  else some 800

/-- A rail in fault is back within 5 % of its target, with phases left. -/
def State.railBack (s : State) (x : RailSample) : Bool :=
  match s.railTarget x.n with
  | some t => decide (95 * t ≤ 100 * x.mv) && decide (100 * x.mv ≤ 105 * t)
      && (decide (24 ≤ x.n) || decide (s.rd (F.pwrmPhaseStatFailed x.n) < s.rd (F.pwrmPhaseStatInstalled x.n)))
  | none => false

def execPwrmUpdate (rails : List RailSample) (conv : List Nat) (vin : Nat) (s : State) : Host.Outcome State Fault Refusal :=
  .next (
    let xs := rails.filter fun x => s.railExists x.n
    let s := xs.foldl (fun s x => s.wrs [(F.pwrmCurAvg x.n, x.avg), (F.pwrmCurPeak x.n, x.peak), (F.pwrmCurMv x.n, x.mv)]) s
    let s := (conv.zip (List.range 4)).foldl (fun s c => if s.rd (convState c.2) = 0 then s.wr (convOut c.2) c.1 else s) s
    let s := s.wr F.pwrmStatVin (vin / 10)
    (s.modPower fun p => { p with rails := p.rails.filter fun n => !(xs.any fun x => decide (x.n = n) && s.railBack x) }).supply)

/-! ## The guard and the account (R573, R574) -/

def execGuardAct (stop : Bool) (s : State) : Host.Outcome State Fault Refusal :=
  .next (if s.power.powered then s.wrs [(F.pwrmGuardAction, if stop then 2 else 1), (F.pwrmStatGuardActive, 1)] else s)

def execGuardRelease (s : State) : Host.Outcome State Fault Refusal :=
  .next (s.wrs [(F.pwrmGuardAction, 0), (F.pwrmStatGuardActive, 0)])

/-- One millisecond of the account: gain up to C, loss of the energy measured, floor at −C. A held launch may start. -/
def execEnergyAccountUpdate (mj : Nat) (s : State) : Host.Outcome State Fault Refusal :=
  .next (if !s.keeperRuns then s
    else
      let c : Int := s.acctCap
      let a := max (-c) (min (s.acctBal + s.rd F.pwrmCapRefillW) c - mj)
      let s := s.setBal a
      let s := if s.rd F.keepPassStatState = psRUNNING then s.modPower fun p => { p with passMj := p.passMj + mj } else s
      s.tryLaunch)

/-- PWR_POLICY (R566, R581). -/
def State.pwrPolicyCmd (s : State) (e : Entry) : State :=
  s.cmd e .admin .plain [(1, [(0, 13)]), (2, [(0, 2)])] fun s =>
    let w := bf (parm e 1) 0 13
    if w < 1000 ∨ 4000 < w then s.complete e sINVALID_FIELD 0
    else ((s.wrs [(F.pwrmCapCapW, w), (F.pwrmCapMaxOpp, bf (parm e 2) 0 2)]).caps560.oppFollow s.pass.isNone).complete e sOK 0

def execPwrPolicy (e : Entry) (s : State) : Host.Outcome State Fault Refusal := .next (s.pwrPolicyCmd e)

/-! ## Bays (R576, R577) -/

/-- Placed tiles of a bay. -/
def State.bayTiles (s : State) (b : Nat × Nat) : List Nat := s.jobTiles.filter fun t => decide (bayOf t = b)

/-- A bay with no placed tile is gated; another when its tiles are Idle or Done, unless idle_us is 0. -/
def execBayIdleGate (d b : Nat) (s : State) : Host.Outcome State Fault Refusal :=
  .next (if 8 ≤ d ∨ 20 ≤ b ∨ s.bayGated (d, b) ∨ s.power.upping.contains (d, b) then s
    else
      let ts := s.bayTiles (d, b)
      let rest := ts.all fun t => decide (s.rd (F.tileStatState t) = stIdle) || decide (s.rd (F.tileStatState t) = stDone)
      if ts.isEmpty ∨ (rest = true ∧ s.rd F.pwrmBayCfgIdleUs ≠ 0) then s.setGated (d, b) true else s)

/-- The bay whose turn it is on a die: the one in power-up, else the lowest that waits. -/
def State.bayTurn (s : State) (d : Nat) : Option Nat :=
  if s.on (F.pwrmBayUpBusy d) then some (s.rd (F.pwrmBayBayUp d))
  else (s.power.upping.filter fun b => decide (b.1 = d)).foldl (fun m b => match m with | some k => some (min k b.2) | none => some b.2) none

/-- The test of R577: `slope` is what the neighbours declare together. -/
def execBayPowerUpTest (d b : Nat) (slope : Int) (s : State) : Host.Outcome State Fault Refusal :=
  .next (if 8 ≤ d ∨ s.bayTurn d ≠ some b ∨ (s.on (F.pwrmBayUpBusy d) ∧ !s.on (F.pwrmBayDeferred d)) then s
    else if 16 + slope ≤ 40 then s.wrs [(F.pwrmBayUpBusy d, 1), (F.pwrmBayBayUp d, b), (F.pwrmBayDeferred d, 0), (F.pwrmBayHalfRate d, 0)]
    else
      let s := if s.on (F.pwrmBayDeferred d) then s else s.bump Ev.bayDefer .module 1
      s.wrs [(F.pwrmBayUpBusy d, 1), (F.pwrmBayBayUp d, b), (F.pwrmBayDeferred d, 1)])

def execBayHalfRateStart (d b : Nat) (s : State) : Host.Outcome State Fault Refusal :=
  .next (if d < 8 ∧ s.on (F.pwrmBayDeferred d) ∧ s.rd (F.pwrmBayBayUp d) = b then s.wrs [(F.pwrmBayDeferred d, 0), (F.pwrmBayHalfRate d, 1)] else s)

def execBayUp (d b : Nat) (s : State) : Host.Outcome State Fault Refusal :=
  .next (if d < 8 ∧ s.on (F.pwrmBayUpBusy d) ∧ !s.on (F.pwrmBayDeferred d) ∧ s.rd (F.pwrmBayBayUp d) = b then
      ((((s.wrs [(F.pwrmBayUpBusy d, 0), (F.pwrmBayBayUp d, 0), (F.pwrmBayHalfRate d, 0)]).setGated (d, b) false).modPower fun p =>
        { p with upping := p.upping.filter fun x => decide (x ≠ (d, b)) }).bump Ev.bayUp .module 1)
    else s)

/-! ## Idle states (R578, R579) -/

/-- Wake latency of an idle state, in µs. -/
def wakeUs : Nat → Nat
  | 0 => 0 | 1 => 1 | 2 => 200 | 3 => 20000 | _ => 400000

/-- The deepest state whose wake latency the tolerance allows. -/
def idleFor (us : Nat) : Nat := if 400000 ≤ us then 4 else if 20000 ≤ us then 3 else if 200 ≤ us then 2 else if 1 ≤ us then 1 else 0

/-- Tiles lose their registers and contents; the Keeper holds the generations of the tile windows (R165, R542). -/
def State.resetTiles (s : State) : State :=
  let gens := s.regs.filterMap fun p =>
    let a := p.1 % 0x800
    let t := (p.1 - 0xC00000) / 0x800
    if 0xC00000 ≤ p.1 ∧ 0x280 ≤ a ∧ a < 0x2A0 then some (F.tileWinGen t ((a - 0x280) / 8), s.rd (F.tileWinGen t ((a - 0x280) / 8))) else none
  ({ s with tiles := [] } : State).resetRegs 0xC00000 0x3DFFFFF |>.wrs gens

/-- The initialisation of the floor (R537): slices, epoch tables, dead and split tables. -/
def State.floorInit (s : State) : State :=
  let s := (List.range 512).foldl (fun s n => s.resetRegs (R.sliceEtab n 0) (R.sliceEtab n 14)) { s with slices := [], splits := [] }
  (List.range 8).foldl (fun s f => s.setReg (R.floorSplitStat f) (regReset s.variant (R.floorSplitStat f))) s

/-- The compute partition leaves its idle state for `n` (0 none, or a lighter one). After Dormant the floor is initialised; the Keeper's
records give its tables their contents again. -/
def State.wakeTo (s : State) (n : Nat) : State :=
  let c := s.rd F.pwrmWakeTolCurrent
  let s := if c = 4 ∧ n < 4 then s.floorInit else s
  let s := if 3 ≤ c ∧ n < 3 then { s with selfRef := [] } else s
  (s.wr F.pwrmWakeTolCurrent (min n c)).modPower fun p => { p with waking := none }

def execIdleWake (s : State) : Host.Outcome State Fault Refusal :=
  .next (match s.power.waking with | some n => s.wakeTo n | none => s)

/-- A command in progress that uses the compute partition. -/
def usesCompute : Wait → Bool
  | .launch _ _ _ | .commit _ _ _ | .tilewinOpen _ _ | .tilewinClose _ _ | .computeReset | .retrainChan _ | .jobClose | .sessionClose _ | .kennel => true
  | _ => false

/-- The partition is idle, and every condition of the state's row holds. -/
def State.mayIdle (s : State) (c : Nat) : Bool :=
  let win (f : Fld) : Bool := decide (s.rd f = 1)
  decide (s.rd F.bootPartCompute = 1) && s.pass.isNone && !(s.host.waits.any fun w => usesCompute w.why)
    && (decide (c ≠ 2) || !(s.jobTiles.any fun t => (List.range 4).any fun n => win (F.tileWinState t n)))
    && (decide (c < 3) || (s.job.isNone && !((List.range 1024).any fun w => win (F.winCtrlState w))))

/-- Every slice writes its cache back (R578). A second round takes the line epochs that copies B left in slices already empty. -/
def State.flushAll (s : State) : State := (List.range 512 ++ List.range 512).foldl (fun s n => s.flushSlice n) s

def execIdleEntry (s : State) : Host.Outcome State Fault Refusal :=
  .next (
    let c := s.rd F.pwrmWakeTolChosen
    if c ≤ s.rd F.pwrmWakeTolCurrent ∨ s.power.waking.isSome ∨ !s.mayIdle c ∨ s.keep.restarting then s
    else
      let s := if c = 4 then s.flushAll else s
      let s := if c < 3 then s
        else ((List.range 8).foldl (fun s d => s.setReg (R.pwrmBay d) (regReset s.variant (R.pwrmBay d)))
          (s.resetTiles.clearCounts (ctrTile 0 0) (ctrSlice 511 3))).modPower fun p => { p with upping := [] }
      (s.wr F.pwrmWakeTolCurrent c).bump Ev.idleEntry .module 1)

/-- PWR_WAKE_TOL (R578, R579): below the present state's latency the partition wakes to the newly chosen state. -/
def State.pwrWakeTolCmd (s : State) (e : Entry) : State :=
  s.cmd e .admin .plain [(1, [(0, 32)])] fun s =>
    let us := bf (parm e 1) 0 32
    let c := idleFor us
    let s := s.wrs [(F.pwrmWakeTolTolUs, us), (F.pwrmWakeTolChosen, c)]
    let s := if us < wakeUs (s.rd F.pwrmWakeTolCurrent) then s.modPower fun p => { p with waking := some c } else s
    s.complete e sOK c

def execPwrWakeTol (e : Entry) (s : State) : Host.Outcome State Fault Refusal := .next (s.pwrWakeTolCmd e)

/-- A stack may go into self-refresh (R335, R484, R607): in Sleep or Dormant, in a compute reset that keeps HBM, once the module is retired,
or after a thermal trip. -/
def State.mayRefresh (s : State) : Bool :=
  decide (3 ≤ s.rd F.pwrmWakeTolCurrent) || (match s.boot.reset with | some r => r.keep | none => false) || s.host.retired
    || (decide (s.rd F.keepFaultStatState = 2) && decide (s.rd F.keepFaultStatMfatalCause = mfTRIP))

/-- A write of copy B of another floor's line is still due to a stack (R328). -/
def State.copyDue (s : State) (h : Nat) : Bool :=
  s.slices.any fun q => q.2.wbs.any fun w => w.waitB && match s.twinOf q.1 w.line with | some b => decide (b.1 / 16 = h) | none => false

/-- It does so once nothing is left for its channels to do. -/
def execSelfRefreshEntry (h : Nat) (s : State) : Host.Outcome State Fault Refusal :=
  .next (if !s.stackPopulated h ∨ s.selfRef.contains h ∨ !s.mayRefresh ∨ s.copyDue h
      ∨ (List.range 16).any (fun c => !(s.slice (16 * h + c)).fills.isEmpty || !(s.slice (16 * h + c)).wbs.isEmpty) then s
    else { s with selfRef := s.selfRef ++ [h] })

/-! ## Cages (R677) -/

/-- A cage. -/
def State.cage (s : State) (c : Nat) : Option CageType := tget (fun _ => none) s.power.cages c

/-- Power of the cages with full power. -/
def State.cagePower (s : State) : Nat := (s.power.granted.map fun c => match s.cage c with | some m => m.power | none => 0).sum

/-- Grant a cage full power, where its class and the total allow it. -/
def State.grantCage (s : State) (c : Nat) : State :=
  match s.cage c with
  | some m =>
    if s.power.granted.contains c ∨ 25 < m.power ∨ 400 < s.cagePower + m.power then s
    else s.modPower fun p => { p with granted := p.granted ++ [c] }
  | none => s

/-- S10 has been started: the Keeper grants power to what it detects. -/
def State.cagesLive (s : State) : Bool := decide (s.rd F.bootPartLink ≠ 0)

def execCageInsert (c : Nat) (media : CageType) (s : State) : Host.Outcome State Fault Refusal :=
  .next (if s.variant.links ≤ 2 * c ∨ (s.cage c).isSome then s
    else
      let s := s.modPower fun p => { p with cages := tset (fun _ => none) p.cages c (some media) }
      if s.cagesLive then s.grantCage c else s)

def execCageRemove (c : Nat) (s : State) : Host.Outcome State Fault Refusal :=
  .next (if (s.cage c).isNone then s
    else
      let s := s.modPower fun p => { p with cages := tset (fun _ => none) p.cages c none, granted := p.granted.filter fun k => decide (k ≠ c) }
      (s.dropLink (2 * c)).dropLink (2 * c + 1))

end Sys2Proof.Machine
end

