-- ==== Sys2Proof/Machine/Thermal.lean ====
section
/-! DEFINITION. Thermal sensing and throttling (R333, R334, R593 to R613). Units are numbered as THRM_UNIT. -/

namespace Sys2Proof.Machine

/-- Change the thermal state. -/
def State.modTherm (s : State) (f : ThermSt → ThermSt) : State := { s with therm := f s.therm }

/-- A temperature in °C as a fraction: numerator and denominator. -/
abbrev Temp := Int × Nat

/-- Whole degrees, rounded down; below 0 reads 0. -/
def Temp.deg (t : Temp) : Nat := min 255 (t.1 / t.2).toNat

/-- At or above, or at or below, a whole number of degrees. -/
def Temp.atLeast (t : Temp) (d : Nat) : Bool := decide ((d : Int) * t.2 ≤ t.1)
def Temp.atMost (t : Temp) (d : Nat) : Bool := decide (t.1 ≤ (d : Int) * t.2)

/-- The module has the unit (R610). -/
def State.thermUnit (s : State) (n : Nat) : Bool :=
  decide (n < 16) || (decide (n < 24) && decide (n - 16 < s.variant.portDies)) || (decide (24 ≤ n) && decide (n < 56))
    || (decide (56 ≤ n) && decide (n < 88) && s.stackPopulated (n - 56))

/-- Kind and index of a unit (R598). -/
def unitName (n : Nat) : Nat × Nat :=
  if n < 8 then (0, n) else if n < 16 then (1, n - 8) else if n < 24 then (2, n - 16) else if n < 56 then (4, n - 24) else (3, n - 56)

/-! ## HBM (R333, R334, R597) -/

/-- The average power of a stack (R572) in units of 10⁻⁵ W. -/
def State.stackPower (s : State) (h : Nat) : Nat :=
  ([32 + h, 64 + h, 96 + h].map fun n => s.rd (F.pwrmCurAvg n) * s.rd (F.pwrmCurMv n)).sum

/-- Bandwidth cap after a poll, from the cap before (R334). -/
def capStep (t : Temp) (old : Nat) : Nat :=
  if t.atLeast 98 then 2
  else if t.atLeast 95 then (if old = 2 then 2 else 1)
  else if t.atLeast 92 then (if old = 0 then 0 else 1)
  else 0

/-- A controller's poll; `temp` is what the stack reports, none where it has given no answer for 10 ms. -/
def execHbmTempPoll (h : Nat) (temp : Option Nat) (s : State) : Host.Outcome State Fault Refusal :=
  .next (if 32 ≤ h ∨ !s.stackPopulated h then s
    else
      let others := ((List.range 4).map (· + 4 * (h / 4))).filter fun k => decide (k ≠ h) && s.stackPopulated k
      let rep : Nat := match temp with
        | some t => t * 10000000
        | none => (others.foldl (fun m k => max m (tget (fun _ => 0) s.therm.hbm k)) 0) + 50000000
      let est := rep + s.rd (F.hbmcTcalK h) * s.stackPower h
      let t : Temp := (est, 10000000)
      let s := s.modTherm fun x => { x with hbm := tset (fun _ => 0) x.hbm h est }
      s.wrs [(F.hbmcTcalPower h, s.stackPower h / 10000), (F.hbmcTempReported h, min 255 (rep / 10000000)), (F.hbmcTempEstimated h, t.deg),
        (F.hbmcTempGoverning h, t.deg),
        (F.hbmcTempRefiHalf h, b2n (t.atLeast 85 || (s.on (F.hbmcTempRefiHalf h) && t.atLeast 82))),
        (F.hbmcTempThrottle h, capStep t (s.rd (F.hbmcTempThrottle h)))])

/-! ## Die sensors (R593 to R596) -/

/-- Columns and rows of a die's grid. -/
def gridOf (n : Nat) : Nat × Nat := if n < 8 then (8, 8) else if n < 16 then (6, 8) else (4, 4)

/-- Sensors next to a sensor, diagonals included. -/
def neighbours (n i : Nat) : List Nat :=
  let g := gridOf n
  (List.range (g.1 * g.2)).filter fun j =>
    decide (j ≠ i) && decide (j % g.1 ≤ i % g.1 + 1) && decide (i % g.1 ≤ j % g.1 + 1) && decide (j / g.1 ≤ i / g.1 + 1) && decide (i / g.1 ≤ j / g.1 + 1)

/-- Insert into a rising list. -/
def insertNat (a : Nat) : List Nat → List Nat
  | [] => [a]
  | b :: bs => if a ≤ b then a :: b :: bs else b :: insertNat a bs

/-- Twice the median; of an even number, the mean of the two in the middle (PRESUMED, log entry 53). -/
def median2 (xs : List Nat) : Nat :=
  let ys := xs.foldr insertNat []
  ys.getD (ys.length / 2) 0 + ys.getD ((ys.length - 1) / 2) 0

/-- A sensor is in service. -/
def State.sensorIn (s : State) (n i : Nat) : Bool := !bit (s.rd (F.thrmExclExcl n)) i

/-- A sensor differs by more than 10 °C from its neighbours: three of them or more are in service. -/
def State.disagrees (s : State) (n i : Nat) (rs : List Nat) : Bool :=
  let ns := ((neighbours n i).filter fun j => s.sensorIn n j).map fun j => rs.getD j 0
  let m := median2 ns
  decide (3 ≤ ns.length) && (decide (2 * rs.getD i 0 + 80 < m) || decide (m + 80 < 2 * rs.getD i 0))

/-- Number of a sensor in the fault log (unit kind 11): free (log entry 51). -/
def sensorUnit (n i : Nat) : Nat := Config.logUnit 11 (64 * n + i)

/-- A sensor is excluded: counted and logged. -/
def State.excludeLog (s : State) (n i detail : Nat) : State :=
  (s.bump Ev.thrmExclude .module 1).faultLog 28 1 11 (sensorUnit n i) 5 0 detail

/-- The sensors of a die: exclusions, then its measured temperature in units of 0.25 °C. Each poll stands for 1 ms (log entry 54). -/
def State.pollDie (s : State) (n : Nat) (rs : List Nat) : State × Temp :=
  let g := gridOf n
  let is := List.range (g.1 * g.2)
  let dis := is.filter fun i => s.sensorIn n i && s.disagrees n i rs
  let counts := is.map fun i => (i, if dis.contains i then tget (fun _ => 0) s.therm.disagree (64 * n + i) + 1 else 0)
  let s := s.modTherm fun x => { x with disagree := counts.foldl (fun t c => tset (fun _ => 0) t (64 * n + c.1) (min 100 c.2)) x.disagree }
  let s := counts.foldl (fun s c =>
    if c.2 < 100 then s
    else (s.wr (F.thrmExclExcl n) (bfSet (s.rd (F.thrmExclExcl n)) c.1 1 1)).excludeLog n c.1 (R.thrmExcl n)) s
  let live := is.filter fun i => s.sensorIn n i
  let out := is.length - live.length
  let guard := decide (is.length < 4 * out)
  let s := s.wrs [(F.thrmUnitExcluded n, out), (F.thrmUnitGuard n, b2n guard)]
  if live.isEmpty then let (v, s) := s.free; (s, (((v % 256 : Nat) : Int), 1))
  else (s, ((((live.map fun i => rs.getD i 0).foldl max 0 + (if guard then 20 else 0) : Nat) : Int), 4))

/-! ## Power stages (R597) -/

/-- A stage's reading is usable. -/
def stageOk : Option Int → Bool
  | some t => decide (-160 ≤ t) && decide (t ≤ 700)
  | none => false

/-- Greatest of a list of readings. -/
def maxInt : List Int → Int
  | [] => 0
  | [a] => a
  | a :: as => max a (maxInt as)

/-- A power-stage group: exclusions, then its hottest stage. With no stage in service the temperature is free (log entry 7). -/
def State.pollGroup (s : State) (g : Nat) (rs : List (Option Int)) : State × Temp :=
  let is := List.range rs.length
  let new := is.filter fun i => !s.therm.stageOut.contains (g, i) && !stageOk (rs.getD i none)
  let s := new.foldl (fun s i =>
    (s.modTherm fun x => { x with stageOut := x.stageOut ++ [(g, i)] }).excludeLog (24 + g) i (R.thrmUnit (24 + g))) s
  let live := is.filter fun i => !s.therm.stageOut.contains (g, i)
  let s := s.wr (F.thrmUnitExcluded (24 + g)) (rs.length - live.length)
  if live.isEmpty then let (v, s) := s.free; (s, (((v % 256 : Nat) : Int), 1))
  else
    let m := maxInt (live.filterMap fun i => rs.getD i none)
    (s, (if live.length < rs.length then m + 40 else m, 4))

/-! ## The inferred temperature of a floor (R599) -/

/-- From the deck's temperature and its hottest stage, in units of 0.25 °C, and the powers of R572. -/
def State.inferred (s : State) (f : Nat) (deck stage : Int) : Temp :=
  let gd := s.rd (F.thrmFcalGD f)
  let gs := s.rd (F.thrmFcalGS f)
  let i := s.rd (F.pwrmCurAvg f)
  let vfl := s.rd (F.pwrmCurAvg (8 + f)) * s.rd (F.pwrmCurMv (8 + f))
  (gd * deck * 5000000000 + gs * stage * 2500000000 + ((4 * vfl * 100000 + 4 * s.rd (F.thrmFcalRVia f) * i * i : Nat) : Int), (2 * gd + gs) * 10000000000)

/-- Temperature in units of 0.25 °C. -/
def Temp.quarter (t : Temp) : Int := t.1 * 4 / t.2

/-- The hotter of two. -/
def Temp.max (a b : Temp) : Temp := if a.1 * b.2 < b.1 * a.2 then b else a

/-! ## Levels (R603 to R605) -/

/-- The deck die whose level a unit raises; none for a port die, which raises the refill level. -/
def levelOf (n : Nat) : Option Nat :=
  if n < 8 then some n else if n < 16 then some (n - 8) else if n < 24 then none
  else if n < 48 then some ((n - 24) % 8) else if n < 56 then some (n - 48) else some ((n - 56) / 4)

/-- Field of a level. -/
def levelFld (l : Option Nat) : Fld := match l with | some d => F.thrmUnitLevel d | none => F.thrmStatRefillLvl

/-- Every level. -/
def allLevels : List (Option Nat) := none :: (List.range 8).map some

/-- The muzzle bit, the refill rate and the operating points follow the levels. -/
def State.muzzled (s : State) : State :=
  ((s.wr F.thrmStatMuzzle (b2n (allLevels.any fun l => decide (s.rd (levelFld l) ≠ 0)))).refill).oppFollow s.pass.isNone

/-- Result of a Heel or Muzzle notice (R476). -/
def State.heelResult (s : State) (n : Nat) : Nat :=
  (unitName n).1 + (unitName n).2 * 2 ^ 3 + s.rd (F.thrmUnitGoverning n) * 2 ^ 8 + s.rd F.thrmStatGraceLeft * 2 ^ 16

/-- A unit's degrees above its caution, and the hottest of some units relative to it. -/
def State.overCaution (s : State) (n : Nat) : Int := (s.rd (F.thrmUnitGoverning n) : Int) - cautionOf n
def State.hottest (s : State) (ns : List Nat) : Option Nat :=
  ns.foldl (fun m n => match m with | some k => if s.overCaution k < s.overCaution n then some n else some k | none => some n) none

/-- A level rises to `v`: notice kind 3 names the hottest of the units that raise it, and the point that the level enforces (0 for the refill
level, which enforces none: DEDUCED, log entry 55). -/
def State.riseTo (s : State) (l : Option Nat) (v : Nat) (ns : List Nat) : State :=
  if v ≤ s.rd (levelFld l) then s
  else
    let s := ((s.wr (levelFld l) v).bump Ev.thrmMuzzleStep .module 1).muzzled
    match s.hottest ns with
    | some n => s.notice 3 sHEEL_ACTIVE (s.heelResult n + (match l with | some _ => v | none => 0) * 2 ^ 32)
    | none => s

/-- Units raise their levels: `up` gives the new level from the old. Units that raise one level together raise it once (DEDUCED, log entry
55). -/
def State.raiseLevels (s : State) (ns : List Nat) (up : Nat → Nat) : State :=
  let s := s.modTherm fun x => { x with raised := x.raised ++ ns.filter fun n => !x.raised.contains n }
  allLevels.foldl (fun s l =>
    let mine := ns.filter fun n => decide (levelOf n = l)
    if mine.isEmpty then s else s.riseTo l (min 3 (up (s.rd (levelFld l)))) mine) s

/-- Units at or above caution. -/
def State.atCaution (s : State) : List Nat := (List.range 88).filter fun n => s.thermUnit n && decide (cautionOf n ≤ s.rd (F.thrmUnitGoverning n))

/-- Heel is cleared (R602). -/
def State.heelClear (s : State) : State :=
  if s.on F.thrmStatHeel ∧ 100 ≤ s.therm.clear ∧ !s.on F.thrmStatMuzzle then
    let s := s.wrs [(F.thrmStatHeel, 0), (F.thrmStatGraceLeft, 0)]
    let s := s.modTherm fun x => { x with grace := false }
    match s.hottest ((List.range 88).filter fun n => s.thermUnit n) with | some n => s.notice 2 sOK (s.heelResult n) | none => s
  else s

/-- Grace time (R601, R608). -/
def State.graceMs (s : State) : Nat := max 50 (min 2000 (s.rd F.thrmCfgGraceMs))

/-- Heel is raised (R601). -/
def State.heelRaise (s : State) : State :=
  match s.hottest s.atCaution with
  | none => s
  | some n =>
    if s.on F.thrmStatHeel then s
    else
      let s := (s.wrs [(F.thrmStatHeel, 1), (F.thrmStatGraceLeft, s.graceMs)]).bump Ev.thrmHeel .module 1
      let s := s.modTherm fun x => { x with grace := true }
      let s := if s.rd F.keepPassStatState = psRUNNING then s.modPass fun p => { p with heel := true } else s
      s.notice 1 sHEEL_ACTIVE (s.heelResult n)

/-! ## Pins of the management header and the control cable that follow the state (R674, R678) -/

/-- ALERT# is asserted: Heel is raised, or the compute partition is Halted. -/
def State.alert (s : State) : Bool := s.on F.thrmStatHeel || decide (s.rd F.bootPartCompute = 3)

/-- PRSNT# is tied to ground: the always-on partition has power. -/
def State.prsnt (s : State) : Bool := s.power.powered

/-! ## Trip (R606, R607) -/

/-- A unit trips: `sensor` and `hw` for a hardware trip. -/
def State.trip (s : State) (n sensor temp : Nat) (hw : Bool) : State :=
  let u := unitName n
  let s := if s.on F.thrmTripValid then s
    else s.wrs [(F.thrmTripValid, 1), (F.thrmTripKind, u.1), (F.thrmTripIndex, u.2), (F.thrmTripSensor, sensor), (F.thrmTripTemp, temp),
      (F.thrmTripSource, b2n !hw), (F.thrmTripTime, s.now / 1024)]
  let s := (s.bump Ev.thrmTrip .module 1).moduleFatal mfTRIP 31 11 (sensorUnit n sensor) R.thrmTrip
  if 16 ≤ n ∧ n < 24 then s.darkPort (n - 16) else s

/-- The comparators find a die sensor above trip; `temp` is the die's governing temperature. -/
def execHwTrip (n sensor temp : Nat) (s : State) : Host.Outcome State Fault Refusal :=
  .next (if 24 ≤ n ∨ !s.thermUnit n ∨ (gridOf n).1 * (gridOf n).2 ≤ sensor ∨ !s.sensorIn n sensor ∨ temp < tripOf n then s
    else s.trip n sensor temp true)

/-! ## The poll (R598) -/

/-- Write a unit's temperatures. -/
def State.putUnit (s : State) (n : Nat) (meas gov : Temp) (derived : Nat) : State :=
  s.wrs [(F.thrmUnitMeasured n, meas.deg), (F.thrmUnitDerived n, derived), (F.thrmUnitGoverning n, gov.deg)]

/-- Every unit's governing temperature in turn, and the units that trip by the Keeper: those that were below trip at the last poll. -/
def State.pollUnits (s : State) (r : ThermalIn) : State × List (Nat × Temp) × List Nat :=
  let groups := (List.range 32).foldl (fun (acc : State × List Temp) g =>
    let x := acc.1.pollGroup g (r.stage.getD g []); (x.1, acc.2 ++ [x.2])) (s, [])
  let s := groups.1
  let stages := groups.2
  let decks := (List.range 8).foldl (fun (acc : State × List Temp) d =>
    let x := acc.1.pollDie d (r.deck.getD d []); (x.1, acc.2 ++ [x.2])) (s, [])
  let s := decks.1
  let z : Temp := (0, 1)
  let floors := (List.range 8).foldl (fun (acc : State × List (Temp × Temp)) f =>
    let x := acc.1.pollDie (8 + f) (r.floor.getD f [])
    let ts := maxInt ([f, 8 + f, 16 + f].map fun g => (stages.getD g z).quarter)
    let t := x.1.inferred f (decks.2.getD f z).quarter ts
    if t.2 = 0 then let (v, s) := x.1.free; (s, acc.2 ++ [(x.2, (((v % 256 : Nat) : Int), 1))]) else (x.1, acc.2 ++ [(x.2, t)])) (s, [])
  let s := floors.1
  let ports := (List.range s.variant.portDies).foldl (fun (acc : State × List Temp) p =>
    let x := acc.1.pollDie (16 + p) (r.port.getD p []); (x.1, acc.2 ++ [x.2])) (s, [])
  let s := ports.1
  let stackT (h : Nat) : Temp := ((tget (fun _ => 0) s.therm.hbm h : Nat), 10000000)
  let govs : List (Nat × Temp) :=
    decks.2.zipIdx.map (fun x => (x.2, x.1)) ++ floors.2.zipIdx.map (fun x => (8 + x.2, Temp.max x.1.1 x.1.2))
      ++ ports.2.zipIdx.map (fun x => (16 + x.2, x.1)) ++ stages.zipIdx.map (fun x => (24 + x.2, x.1))
      ++ ((List.range 32).filter fun h => s.stackPopulated h).map fun h => (56 + h, stackT h)
  let infer (n : Nat) : Temp := (floors.2.getD (n - 8) (z, z)).2
  let trips := (govs.filter fun x =>
    if 8 ≤ x.1 ∧ x.1 < 16 then (infer x.1).atLeast (tripOf x.1) && decide (s.rd (F.thrmUnitDerived x.1) < tripOf x.1)
    else decide (24 ≤ x.1) && x.2.atLeast (tripOf x.1) && decide (s.rd (F.thrmUnitGoverning x.1) < tripOf x.1)).map (·.1)
  let s := govs.foldl (fun s x =>
    if x.1 < 8 ∨ (16 ≤ x.1 ∧ x.1 < 56) then s.putUnit x.1 x.2 x.2 0
    else if x.1 < 16 then s.putUnit x.1 (floors.2.getD (x.1 - 8) (z, z)).1 x.2 (infer x.1).deg
    else s.wrs [(F.thrmUnitMeasured x.1, s.rd (F.hbmcTempReported (x.1 - 56))), (F.thrmUnitDerived x.1, x.2.deg), (F.thrmUnitGoverning x.1, x.2.deg)]) s
  (s, govs, trips)

/-- THERMAL_POLL: temperatures, then Heel, limits, clearing and trips. -/
def execThermalPoll (r : ThermalIn) (s : State) : Host.Outcome State Fault Refusal :=
  .next (if !s.keeperRuns then s
    else
      let (s, govs, trips) := s.pollUnits r
      let s := s.modTherm fun x =>
        { x with below := (govs.filter fun g => g.2.atMost (cautionOf g.1 - 5)).map (·.1),
                 clear := if govs.all fun g => g.2.atMost (cautionOf g.1 - 3) then min 100 (x.clear + 1) else 0 }
      let s := if s.therm.grace then s.wr F.thrmStatGraceLeft (s.rd F.thrmStatGraceLeft - 1) else s
      let s := match s.hottest (govs.map (·.1)) with
        | some n => s.wrs [(F.thrmStatHotKind, (unitName n).1), (F.thrmStatHotIndex, (unitName n).2), (F.thrmStatHotTemp, s.rd (F.thrmUnitGoverning n))]
        | none => s
      let s := s.heelRaise
      let lims := (govs.filter fun g => g.2.atLeast (limitOf g.1)).map (·.1)
      let s := if lims.isEmpty then s else s.raiseLevels lims (fun v => max v 1)
      let s := trips.foldl (fun s n => s.trip n 0 (s.rd (F.thrmUnitGoverning n)) false) s
      s.heelClear)

def execGraceExpiry (s : State) : Host.Outcome State Fault Refusal :=
  .next (if !s.therm.grace ∨ !s.keeperRuns then s
    else
      let s := (s.wr F.thrmStatGraceLeft 0).modTherm fun x => { x with grace := false }
      s.raiseLevels s.atCaution (· + 1))

/-- A further step, of the units that took a first one. -/
def execMuzzleStep (s : State) : Host.Outcome State Fault Refusal :=
  .next (if !s.keeperRuns then s else s.raiseLevels (s.atCaution.filter fun n => s.therm.raised.contains n) (· + 1))

/-- Levels whose raisers all stay 5 °C below caution fall by 1. -/
def execMuzzleFall (s : State) : Host.Outcome State Fault Refusal :=
  .next (if !s.keeperRuns then s
    else
      let fall := allLevels.filter fun l =>
        decide (s.rd (levelFld l) ≠ 0) && (s.therm.raised.filter fun n => decide (levelOf n = l)).all fun n => s.therm.below.contains n
      let s := fall.foldl (fun s l => s.wr (levelFld l) (s.rd (levelFld l) - 1)) s
      let s := s.modTherm fun x => { x with raised := x.raised.filter fun n => decide (s.rd (levelFld (levelOf n)) ≠ 0) }
      s.muzzled.heelClear)

/-- THERMAL_CFG (R601). -/
def State.thermalCfgCmd (s : State) (e : Entry) : State :=
  s.cmd e .admin .plain [(1, [(0, 11)])] fun s =>
    let g := bf (parm e 1) 0 11
    if g < 50 ∨ 2000 < g then s.complete e sINVALID_FIELD 0 else (s.wr F.thrmCfgGraceMs g).complete e sOK 0

def execThermalCfg (e : Entry) (s : State) : Host.Outcome State Fault Refusal := .next (s.thermalCfgCmd e)

end Sys2Proof.Machine
end

