-- ==== Sys2Proof/Machine/Boot.lean ====
section
/-! DEFINITION. Bring-up (R530 to R540, R14, R15, R320, R562, R647, R648): the steps, the fuse map and the merged defect map, the fabric join, and
the management packets. -/

namespace Sys2Proof.Machine

/-- Change the bring-up state. -/
def State.modBoot (s : State) (f : BootSt → BootSt) : State := { s with boot := f s.boot }

/-! ## Starting a step (R530) -/

/-- BRINGUP_STEP starts a step from S3 on. -/
def State.bringupCmd (s : State) (e : Entry) : State :=
  s.cmd e .admin .plain [(1, [(0, 4)]), (2, [(0, 14)])] fun s =>
    let k := bf (parm e 1) 0 4
    if k < 3 ∨ 12 < k then s.complete e sINVALID_FIELD 0
    else if s.boot.running then s.complete e sBUSY 0
    else if k ≠ s.nextStep then s.complete e sNOT_READY 0
    else s.stepBegin k (.cmd e)

/-- A step's row: a running step `k` does its work `f`; with none running, its GO or command starts it first (log entry 57). From S3 on the
Keeper does the work. -/
def State.stepRow (s : State) (k : Nat) (src : StepSrc) (f : State → State) : State :=
  if 3 ≤ k ∧ s.keep.restarting then s
  else if s.boot.running then (if s.rd F.bootStatusStep = k then f s else s)
  else
    let t := match src with
      | .boot => s.hostAccess true fun s => (s.wr F.bootStepStep k).stepGo k
      | .cmd e => if bf e.w1.toNat 0 4 = k then s.bringupCmd e else s
    if t.boot.running then f t else t

/-! ## S0 to S5 -/

/-- S0: `conv` is the mask of the converters in regulation. -/
def execStepS0 (src : StepSrc) (vin conv : Nat) (s : State) : Host.Outcome State Fault Refusal :=
  .next (s.stepRow 0 src fun s =>
    let on_ := (List.range 4).filter fun i => bit conv i
    if !inputGood vin ∨ on_.length < 3 then s.stepEnd 0x11
    else
      let s := (List.range 4).foldl (fun s i => s.wr (convState i) (if on_.contains i then 0 else 1)) s
      let s := ((s.wrs [(F.pwrmStatConvOk, on_.length), (F.pwrmStatVin, vin / 10)]).caps560.supply).modPower fun p => { p with hotSwap := true }
      if on_.length = 3 then (s.wr F.bootWarnConvMissing 1).stepEnd 2 else s.stepEnd 1)

def execStepS1 (src : StepSrc) (romOk : Bool) (s : State) : Host.Outcome State Fault Refusal :=
  .next (s.stepRow 1 src fun s => if romOk then s.attsStart.stepEnd 1 else s.stepEnd 0x12)

def execStepS2 (src : StepSrc) (s : State) : Host.Outcome State Fault Refusal :=
  .next (s.stepRow 2 src fun s =>
    let b := s.bar4Image
    match s.imageStatus b none with
    | some c => s.stepEnd c
    | none => (s.runImage b).measureFuses.stepEnd 1)

/-- Kind of a fuse map or test entry (R534). -/
def entryKind (e : W32) : Nat := bf e.toNat 0 4

/-- Kinds that are not reserved. -/
def entryOk (e : W32) : Bool := decide (1 ≤ entryKind e) && decide (entryKind e ≤ 7)

/-- S3 (R533): header, entries, digest. -/
def execStepS3 (src : StepSrc) (fuses : List Byte) (s : State) : Host.Outcome State Fault Refusal :=
  .next (s.stepRow 3 src fun s =>
    let n := bf (imgAt fuses 0 8) 4 11
    let body := fuses.take (8 + 4 * n)
    let ok := decide (body.length = 8 + 4 * n) && decide (sha3 body = (fuses.drop (8 + 4 * n)).take 64)
    let es := (List.range n).map fun i => BitVec.ofNat 32 (imgAt fuses (8 + 4 * i) 4)
    let s := s.wrs [(F.fuseStatReadDone, 1), (F.fuseStatDigestOk, b2n ok), (F.fuseStatEntries, n), (F.fuseStatVersion, bf (imgAt fuses 0 8) 0 4),
      (F.fuseStatIgnored, if ok then (es.filter fun e => !entryOk e).length else 0)]
    let s := (s.modBoot fun b => { b with fuse := if ok then es.filter entryOk else [] }).measure 4 [body] []
    if ok then s.stepEnd 1 else (s.wr F.bootWarnFuseDigest 1).stepEnd 2)

/-- Floor coefficients from the record, or their defaults where it holds none (R599, R659; a 0 byte is none: DEDUCED, log entry 58). -/
def State.loadFcal (s : State) : State :=
  let r := s.identity
  let ok := recordOk r
  let at_ (f k d : Nat) : Nat := let v := imgAt r (0x30 + 3 * f + k) 1; if !ok ∨ v = 0 then d else v
  (List.range 8).foldl (fun s f => s.wrs [(F.thrmFcalGD f, at_ f 0 80), (F.thrmFcalGS f, at_ f 1 16), (F.thrmFcalRVia f, at_ f 2 50)]) s

/-- S4 (R562): whether each domain settles, in order. -/
def execStepS4 (src : StepSrc) (domains : List Bool) (s : State) : Host.Outcome State Fault Refusal :=
  .next (s.stepRow 4 src fun s => if domains.all id then s.loadFcal.stepEnd 1 else s.stepEnd 0x16)

def execStepS5 (src : StepSrc) (locked : Bool) (s : State) : Host.Outcome State Fault Refusal :=
  .next (s.stepRow 5 src fun s => if locked then (s.stepEnd 1).oppFollow true else s.stepEnd 0x17)

/-! ## S6: the merged defect map (R534 to R536) -/

/-- Die and index fields of an entry. -/
def entryDie (e : W32) : Nat := bf e.toNat 4 3
def entryAt (e : W32) (lo w : Nat) : Nat := bf e.toNat lo w

/-- The bond that an entry of kinds 2 to 4 names. -/
def entryBond (e : W32) : BondRef :=
  match entryKind e with
  | 2 => ⟨0, entryAt e 8 8, entryAt e 16 8, entryAt e 24 5⟩
  | 3 => ⟨2, entryAt e 8 5, entryAt e 13 6, entryAt e 19 5⟩
  | _ => ⟨3, entryAt e 8 6, 0, entryAt e 14 5⟩

/-- The count of BOOT_DISC that a discrepancy adds to, and its unit in the fault log: a cell counts for the floor or port die that its macro
is part of, and macro 64 for none (DESIGN CHOICE, log entry 58). -/
def discOf (e : W32) : Option Fld × Nat × Nat :=
  let d := entryDie e
  let deck : Fld := ⟨R.bootDisc0, 4 * d, 4⟩
  let floor (f : Nat) : Fld := ⟨R.bootDisc0, 32 + 4 * f, 4⟩
  let port (p : Nat) : Fld := ⟨R.bootDisc1, 4 * p, 4⟩
  match entryKind e with
  | 1 => (some deck, 2, 160 * d + 4 * entryAt e 8 6 + entryAt e 14 7 / 21)
  | 2 => (some deck, 2, 160 * d + entryAt e 8 8)
  | 3 => (some deck, 3, 32 * d + entryAt e 8 5)
  | 4 | 5 => (some (floor d), 4, 64 * d + entryAt e 8 6)
  | 6 => (some (port d), 7, entryAt e 8 6)
  | _ =>
    let m := entryAt e 8 7
    (if m < 32 then some (floor (m / 4)) else if m < 64 then some (port ((m - 32) / 8)) else if m = 64 then none else some (port ((m - 33) / 8)), 9, m)

/-- Log a discrepancy and count it. -/
def State.discrepancy (s : State) (e : W32) : State :=
  let x := discOf e
  (match x.1 with | some f => s.satAdd f 1 | none => s).faultLog 25 1 x.2.1 x.2.2 0 0 R.bootDisc0

/-- A bad bond is steered onto its group's spare; the second of a group exhausts it. -/
def State.mapBond (s : State) (d : Nat) (b : BondRef) : State :=
  let same (f : BondFault) : Bool := decide (f.die = d) && sameGroup f.bond b
  let old := (s.deck.bonds.filter same).length
  let s := s.modDeck fun x => { x with bonds := x.bonds ++ [BondFault.mk d b (if old = 0 then 1 else 2) 1 s.epoch] }
  if old = 0 then
    let s := (s.bump Ev.bondRepair .module 1).bondLog d b 1 1
    if bondShaft b then s.incr (F.deckShaftStatSparesUsed d b.unit) 1 else s
  else if old = 1 then (((s.bump Ev.bondExhaust .module 1).bondLog d b 2 1).wr F.bootWarnExhausted 1).exhaustAct d b
  else s

/-- Apply an entry of the merged map to its unit. -/
def State.applyEntry (s : State) (e : W32) : State :=
  let d := entryDie e
  match entryKind e with
  | 1 =>
    let row := entryAt e 8 6
    let col := entryAt e 14 7
    if 40 ≤ row ∨ 84 ≤ col then s else s.noteFail (planeSector d (4 * row + col / 21)) (col % 21)
  | 2 | 3 | 4 => if bondOk (entryBond e) then s.mapBond d (entryBond e) else s
  | 5 => if s.slicePopulated (64 * d + entryAt e 8 6) then s.removeSlice (64 * d + entryAt e 8 6) else s
  | 7 => s.cellFails (entryAt e 8 7) (entryAt e 15 2)
  | _ => s

/-- Merge fuse entries and test findings. -/
def State.merge (s : State) (test : List W32) : State :=
  let fuse := s.boot.fuse.eraseDups
  let test := (test.filter entryOk).eraseDups
  let merged := fuse ++ test.filter fun e => !fuse.contains e
  let disc := if s.on F.fuseStatDigestOk then (fuse.filter fun e => !test.contains e) ++ (test.filter fun e => !fuse.contains e) else []
  let s := s.modBoot fun b => { b with test := test, merged := merged }
  let s := disc.foldl (fun s e => s.discrepancy e) s
  let many := disc.any fun e => (discOf e).1.isSome && decide (8 < (disc.filter fun x => decide ((discOf x).1 = (discOf e).1)).length)
  let s := if many then s.wrs [(F.bootDefectReturn, 1), (F.bootWarnReturn, 1)] else s
  merged.foldl (fun s e => s.applyEntry e) s

def execStepS6 (src : StepSrc) (findings : List W32) (fatal : Option W32) (s : State) : Host.Outcome State Fault Refusal :=
  .next (s.stepRow 6 src fun s =>
    match fatal with
    | some u => (s.wrs [(F.testStatFatal, 1), (F.testStatFatalUnit, u.toNat), (F.testStatFindings, findings.length)]).stepEnd 0x18
    | none =>
      let s := (s.wrs [(F.testStatDone, 1), (F.testStatFatal, 0), (F.testStatFatalUnit, 0), (F.testStatFindings, findings.length)]).merge findings
      s.stepEnd (if s.on F.bootWarnReturn ∨ s.on F.bootWarnExhausted then 2 else 1))

/-! ## S7 (R320, R321, R336, R337) -/

/-- A trained channel comes up with its lane repairs. -/
def State.chanUp (s : State) (r : ChanTrain) : State :=
  let h := r.chan / 16
  let c := r.chan % 16
  let u : EvUnit := .slice r.chan
  let n := r.rep0 + r.rep1 - (s.rd (F.hbmcChStatLanesRepPc0 h c) + s.rd (F.hbmcChStatLanesRepPc1 h c))
  let s := s.wrs [(F.hbmcChStatState h c, 1), (F.hbmcChStatLanesRepPc0 h c, r.rep0), (F.hbmcChStatLanesRepPc1 h c, r.rep1),
    (F.hbmcChStatLaneUnrep h c, b2n (decide (r.unrep ≠ []))), (F.hbmcChStatLanePending h c, 0)]
  if n = 0 then s else s.bump Ev.laneRepair u n

/-- The in-service capacity of a stack's channels that are up (R368). -/
def State.stackCap (s : State) (h : Nat) (chs : List Nat) : State :=
  s.setCaps lHBM (chs.map fun c => (0, c)) (if s.on (F.hbmcCfgHalfRate h) then s.nominal lHBM / 2 else s.nominal lHBM)

/-- *k* of a stack from the record (R343, R599, R659). -/
def State.tcalK (s : State) (h : Nat) : Nat :=
  let r := s.identity
  let v := imgAt r (0x48 + 2 * h) 2
  if !recordOk r ∨ v = 0 then 35 else v

/-- Train every populated channel; those that a failed S7 retired train again. -/
def State.trainHbm (s : State) (rs : List ChanTrain) : State :=
  let pop := (List.range 512).filter fun n => s.slicePopulated n
  let s := pop.foldl (fun s n =>
    if s.chanRetired n ∧ s.rd (F.hbmcChStatRetireCause (n / 16) (n % 16)) = 1 then
      s.wrs [(F.hbmcChStatState (n / 16) (n % 16), 0), (F.hbmcChStatRetireCause (n / 16) (n % 16), 0)] else s) s
  let live := pop.filter fun n => !s.chanRetired n
  let got := live.filterMap fun n => (rs.find? fun r => decide (r.chan = n)).bind fun r => r.rate.map fun q =>
    (r, min q (s.rd (F.hbmcCfgRateTarget (n / 16))))
  let bad := live.filter fun n => !(got.any fun g => decide (g.1.chan = n))
  let rate := got.foldl (fun m g => min m g.2) 3
  let low := got.any fun g => decide (g.2 < s.rd (F.hbmcCfgRateTarget (g.1.chan / 16)))
  let s := (List.range 32).foldl (fun s h => s.wrs [(F.hbmcCfgRate h, rate), (F.hbmcTcalK h, s.tcalK h)]) s
  let s := bad.foldl (fun s n => s.retireChan n 1) s
  let s := got.foldl (fun s g =>
    let sus := g.1.rep0 + g.1.rep1 + g.1.unrep.length
    let s := (s.chanUp g.1).settleLanes g.1.chan g.1.unrep
    if sus = 0 then s
    else (s.bump Ev.laneSuspect (.slice g.1.chan) sus).faultLog 16 1 5 g.1.chan 3 0 (R.hbmcChStat (g.1.chan / 16) (g.1.chan % 16))) s
  let s := (List.range 32).foldl (fun s h => s.stackCap h ((got.map fun g => g.1.chan).filter fun c => decide (c / 16 = h) && !s.chanRetired c)) s
  let s := if low then s.wr F.bootWarnHbmRate 1 else s
  let lost := live.any fun n => s.chanRetired n
  let s := if lost then s.wr F.bootWarnHbmRetired 1 else s
  if (List.range 8).any fun f => (pop.filter fun n => decide (n / 64 = f)).all fun n => s.chanRetired n then s.stepEnd 0x19
  else s.stepEnd (if low ∨ lost then 2 else 1)

def execStepS7 (src : StepSrc) (chans : List ChanTrain) (heightOk : Bool) (s : State) : Host.Outcome State Fault Refusal :=
  .next (s.stepRow 7 src fun s => if heightOk then s.trainHbm chans else s.stepEnd 0x19)

/-! ## S8 to S12 -/

/-- Every segment unmapped, every page at right 0, no Twin entry; the copies pass. -/
def State.emptyTables (s : State) : State :=
  (List.range 8).foldl (fun s f =>
    ((((s.resetRegs (R.floorHash f 0) (R.floorHash f 767)).resetRegs (R.floorPerm f 0) (R.floorPerm f 18623)).resetRegs (R.floorTwin f 0)
      (R.floorTwin f 767)).setCopies .hashMap f allPass).setCopies .perm f allPass |>.setCopies .twin f allPass) s

def execStepS8 (src : StepSrc) (ok : Bool) (s : State) : Host.Outcome State Fault Refusal :=
  .next (s.stepRow 8 src fun s => if ok then (s.floorInit.emptyTables).stepEnd 1 else s.stepEnd 0x1A)

/-- The compute partition comes into service, or stays halted while a Module-fatal fault stands (R519). -/
def State.computeUp (s : State) : State := s.wr F.bootPartCompute (if s.rd F.keepFaultStatState = 2 then 3 else 1)

/-- The copies of every redundant table pass. -/
def State.tablesOk (s : State) : State :=
  let s := { s with keep := { s.keep with copies := [] } }
  let s := (List.range 8).foldl (fun s i => s.wrs [(F.deckMapStatCrcOk i, 7), (F.floorMapStatCrcOk i, 7)]) s
  (List.range s.variant.portDies).foldl (fun s p => s.wr (F.portMapStatCrcOk p) 7) s

/-- S9; with it the compute partition is in service (DEDUCED, log entry 57). -/
def execStepS9 (src : StepSrc) (ok : Bool) (s : State) : Host.Outcome State Fault Refusal :=
  .next (s.stepRow 9 src fun s =>
    if !ok then s.stepEnd 0x1B
    else
      let s := s.buildMap.tablesOk.computeUp
      if s.rd F.bootDefectShort = 0 then s.stepEnd 1 else (s.wr F.bootWarnShortSector 1).stepEnd 2)

/-- Enabled links that can train and do not yet. -/
def State.toTrain (s : State) : List Nat :=
  (List.range s.variant.links).filter fun l => s.on (F.linkCtrlEnable l) && s.linkLive l && decide (s.rd (F.linkStatState l) ≤ lkDown)

/-- S10: the link partition comes into service, cages get their power, and enabled links train; those without a result here go on, and
the step with them. -/
def execStepS10 (src : StepSrc) (links : List LinkTrain) (s : State) : Host.Outcome State Fault Refusal :=
  .next (s.stepRow 10 src fun s =>
    let s := (List.range 32).foldl (fun s c => s.grantCage c) (s.wr F.bootPartLink 1)
    let s := s.toTrain.foldl (fun s l => s.startTraining l) s
    let s := links.foldl (fun s r => if s.linkExists r.link ∧ s.rd (F.linkStatState r.link) = lkTraining then s.trained r.link r else s) s
    s.linksSettled)

/-- The module ID in every port die. -/
def State.setSelf (s : State) (id valid : Nat) : State :=
  (List.range s.variant.portDies).foldl (fun s p => s.wrs [(F.portSelfModuleId p, id), (F.portSelfValid p, valid)]) s

/-- S11: JOIN on every Up link. A step that waits for its JOIN_ACKs sends none again. -/
def execStepS11 (src : StepSrc) (s : State) : Host.Outcome State Fault Refusal :=
  .next (s.stepRow 11 src fun s =>
    if s.on (F.portSelfValid 0) then s
    else
      let id := match s.boot.src with | some (.cmd e) => bf e.w2.toNat 0 14 | _ => s.rd F.bootStepModuleId
      let up := (List.range s.variant.links).filter fun l => decide (s.rd (F.linkStatState l) = lkUp)
      let s := (s.setSelf id 1).modBoot fun b => { b with joinWait := up }
      (up.foldl (fun s l => s.sendMgmt l 1 0) s).linksSettled)

def execStepS12 (src : StepSrc) (s : State) : Host.Outcome State Fault Refusal := .next (s.stepRow 12 src fun s => s.stepEnd 1)

/-- A step at its limit fails with TIMEOUT; S10 and S11 succeed with their warnings (R531). -/
def execStepLimitExpiry (s : State) : Host.Outcome State Fault Refusal :=
  .next (if !s.boot.running then s
    else match s.rd F.bootStatusStep with
      | 10 => s.trainEnd
      | 11 => ((s.modBoot fun b => { b with joinWait := [] }).wr F.bootWarnJoinPartial 1).stepEnd 2
      | _ => s.stepEnd 0x1D)

/-! ## Management packets (R538 to R540) -/

/-- A management packet of a kind. -/
def isMgmt (p : Packet) (kind : Nat) : Bool := decide (p.typ = pMGMT) && (match p.mgmt with | some h => decide (h.kind = kind) | none => false)

/-- The ID that a packet carries is valid. -/
def mgmtValid (p : Packet) : Bool := match p.mgmt with | some h => h.idValid | none => false

/-- The peer's ID is known. -/
def State.peerKnown (s : State) (l : Nat) (p : Packet) : State :=
  if mgmtValid p then s.wrs [(F.linkStatPeerModule l, p.src), (F.linkStatPeerValid l, 1)] else s

/-- The join fails: another module holds the ID. -/
def State.joinFails (s : State) : State :=
  if s.boot.running ∧ s.rd F.bootStatusStep = 11 ∧ s.on (F.portSelfValid 0) then
    ((s.setSelf s.moduleId 0).modBoot fun b => { b with joinWait := [] }).stepEnd 0x1C
  else s

def execJoin (l : Nat) (p : Packet) (s : State) : Host.Outcome State Fault Refusal :=
  .next (if 64 ≤ l ∨ s.keep.restarting then s
    else s.arrival l p (isMgmt p 1) fun s _ =>
      let dup := decide (p.src = s.moduleId) && s.on (F.portSelfValid 0)
      let s := (s.peerKnown l p).sendMgmt l 2 (b2n dup)
      if dup ∧ mgmtValid p then s.joinFails else s)

def execJoinAck (l : Nat) (p : Packet) (s : State) : Host.Outcome State Fault Refusal :=
  .next (if 64 ≤ l ∨ s.keep.restarting then s
    else s.arrival l p (isMgmt p 2) fun s _ =>
      let s := s.peerKnown l p
      if p.mgmt.any fun h => decide (h.status = 1) then s.joinFails
      else (s.modBoot fun b => { b with joinWait := b.joinWait.filter fun k => decide (k ≠ l) }).linksSettled)

/-- A peer retires: routes leave its link, and RETIRE_ACK follows their fences. -/
def execMgmtRetire (l : Nat) (p : Packet) (s : State) : Host.Outcome State Fault Refusal :=
  .next (if 64 ≤ l ∨ s.keep.restarting then s
    else s.arrival l p (isMgmt p 3) fun s _ =>
      ((s.modFab fun f => { f with leaving := if f.leaving.contains l then f.leaving else f.leaving ++ [l], retireAcks := f.retireAcks ++ [l] }).rerouted).fenced)

end Sys2Proof.Machine
end

