-- ==== Sys2Proof/Machine/Reset.lean ====
section
/-! DEFINITION. Resets and retirement (R451, R484, R538 to R547): the compute reset in its two forms, the link reset, RETIRE, and RETRAIN of a link or an
HBM channel. -/

namespace Sys2Proof.Machine

/-! ## What a compute reset stops at once (R449, R543, R544) -/

/-- A snapshot stops (R449): an Open slot stays Open, a Committed one Committed, and an Armed one is abandoned with cause 4; the
command ends with ABORTED. A chunk in progress goes on to its end. -/
def State.stopSnap (s : State) (k : Nat) : State :=
  match s.snap k with
  | none => s
  | some x =>
    if s.rd (F.packSnapStatState k) = snOPEN ∧ !x.out.isEmpty ∧ !x.stopping then
      let s := s.setSnap k (some { x with e := none, promoting := false, stopping := true })
      match x.e with
      | some e => s.complete e sABORTED (k + s.rd (F.packSnapStatEpoch k) * 2 ^ 32)
      | none => s
    else if x.stopping then s
    else (if s.rd (F.packSnapStatState k) = snARMED then s.abandon k 4 else s).endSnap k sABORTED

/-- The snapshot engine stops. -/
def State.stopSnaps (s : State) : State := (s.stopSnap 0).stopSnap 1

/-- An operation that the Keeper started for a pass or a snapshot. -/
def keeperOp (o : PackOp) : Bool := match o.by_ with | .commit _ | .snapBegin _ | .promote _ => true | _ => false

/-- A closing reduction of a snapshot whose contribution has not left the module. -/
def TreeSt.unsentPromote (x : TreeSt) : Bool :=
  match x.op with
  | some o => (match o.by_ with | .promote _ => true | _ => false) && decide (x.lastUp ≠ some x.opSeq)
  | none => false

/-- Nobody waits any more for the Keeper's operations; a closing reduction keeps its contribution back, so that every other module waits
(R449). -/
def State.orphanOps (s : State) : State :=
  let back := (s.trees.filter fun t => t.2.unsentPromote).map (·.1)
  let s := { s with trees := s.trees.map fun t => (t.1,
    { t.2 with
        starts := t.2.starts.filter fun o => !keeperOp o,
        op := if back.contains t.1 then none else t.2.op.map fun o => if keeperOp o then { o with by_ := .reset } else o }) }
  back.foldl (fun s t => (s.wrs [(F.packTreeStatState t, 0), (F.packTreeStatLocalIn t, 0)]).packNext t) s

/-- The local form discards a running pass without replay (R543). -/
def State.abortPass (s : State) : State :=
  let s := s.modPass fun p => { p with aborted := true }
  match s.pass with
  | some p => if p.step = 0 then s.beginDiscard else s.modPass fun p => { p with step := min p.step 3 }
  | none => s

/-- The fabric form ends it at once: issue stops, the engines give up their requests, and no notice leaves. -/
def State.stopPass (s : State) : State :=
  let s := (s.jobTiles.foldl (fun s t => s.tileClear t) s).dropPass sABORTED 0
  { s.modFab fun f => { f with dests := [], doubt := [] } with heldSigs := [] }

/-- A compute reset begins; the partition wakes first. A fabric reset joins one in progress, whose keep setting stands (R546). -/
def State.beginReset (s : State) (keep fabric : Bool) : State :=
  match s.boot.reset with
  | some r =>
    if !fabric ∨ r.fabric then s
    else ((s.modBoot fun b => { b with reset := some { r with fabric := true } }).wr F.bootPartFabric 1).stopPass
  | none =>
    let s := if s.rd F.pwrmWakeTolCurrent ≠ 0 ∨ s.power.waking.isSome then s.wakeTo 0 else s
    let s := (s.modBoot fun b => { b with reset := some ⟨keep, fabric, false⟩ }).wrs [(F.bootPartCompute, 2), (F.bootPartFabric, b2n fabric)]
    let s := s.stopSnaps.orphanOps
    if fabric then s.stopPass else s.abortPass

/-! ## The timeline (R542, R544) -/

/-- Every write of a Twin pair reaches both of its stacks. -/
def State.finishWbs (s : State) (n : Nat) : State :=
  (List.range (2 * (s.slice n).wbs.length)).foldl (fun s _ => (s.wbAck n 0 false).wbAck n 0 true) s

/-- The slices come to rest: buffered writes land, fills end, Twin writes reach their stacks. -/
def State.quietSlices (s : State) : State :=
  s.sliceIds.foldl (fun s n => ((s.mergeAll n).modSlice n fun x => { x with fills := [] }).finishWbs n) s

/-- Commit drains finish, and every other epoch entry is dropped. The local form first sends an in-doubt notice for each Open entry of
another module (R543). -/
def State.clearEpochs (s : State) (notify : Bool) : State :=
  let all := s.etabIds.flatMap fun n => entries.map fun e => (n, e)
  let foreign := all.filter fun q => decide (s.rd (etState q.1 q.2) = etOPEN) && decide (s.rd (etModule q.1 q.2) ≠ s.moduleId)
  let s := if notify then foreign.foldl (fun s q => s.sendNotice (s.rd (etModule q.1 q.2)) nInDoubt (s.rd (etEpoch q.1 q.2))) s else s
  let s := all.foldl (fun s q => if s.rd (etState q.1 q.2) = etCOMMITTED then s.drainEntry q.1 q.2 [] else s) s
  (all.foldl (fun s q =>
    let st := s.rd (etState q.1 q.2)
    if st = etOPEN ∨ st = etDROPPING then s.dropEntry q.1 q.2 else s) s).ackAborts

/-- Requests in the partition are gone. Packets on their way to tiles are refused; a packet that has not wholly landed gets no RESP, so
that its sender finds it in doubt (DEDUCED, log entry 59). -/
def State.dropTraffic (s : State) : State :=
  let ps := s.fab.tilePkts
  let s := { s with reqs := [] }.modFab fun f =>
    { f with tilePkts := [], landings := [], awaits := f.awaits.filter fun a => a.req.isNone }
  ps.foldl (fun s p => s.refusePkt p.2 rWINDOW_CLOSED) s

/-- Tile windows that are not Closed. -/
def State.openTileWins (s : State) : List (Nat × Nat) :=
  (s.regs.filterMap fun p =>
    let a := (p.1 - 0xC00000) % 0x800
    if 0xC00000 ≤ p.1 ∧ 0x280 ≤ a ∧ a < 0x2A0 then some ((p.1 - 0xC00000) / 0x800, (a - 0x280) / 8) else none).filter
      fun w => decide (s.rd (F.tileWinState w.1 w.2) ≠ 0)

/-- Every tile window closes, and delayed OPENs of tile windows are given up. -/
def State.closeAllTileWins (s : State) : State :=
  let s := s.openTileWins.foldl (fun s w => (s.closeTileWin w.1 w.2).shutTileWin w.1 w.2) s
  s.modFab fun f => { f with winDelays := f.winDelays.filter fun d => decide (d.key < 1024) }

/-- The open job enters the state of R518, with ABORTED in place of JOB_FATAL (R542); one that closes goes on closing. -/
def State.abortJob (s : State) : State :=
  match s.job with
  | none => s
  | some j =>
    if j.closing then s.closeStep
    else
      let s := if s.on F.keepFaultStatJobFatal then s else s.wrs [(F.keepFaultStatJobFatal, 1), (F.keepFaultStatFatalCause, 0)]
      (s.finish jobWait sABORTED 0).wr F.keepPassStatState psHALTED

/-- A tree as loaded (R451, R545): op_seq is 0, and the commands of its operations end with ABORTED, since a reset ends them (R474; DEDUCED, log
entry 61). -/
def State.resetTree (s : State) (t : Nat) : State :=
  let os := (s.tree t).op.toList ++ (s.tree t).starts
  let s := ({ s.setReg (R.packTreeStat t) (regReset s.variant (R.packTreeStat t)) with trees := tset (fun _ => TreeSt.reset) s.trees t .reset } : State).barkPack t
  os.foldl (fun s o => match o.by_ with | .host e => s.complete e sABORTED 0 | _ => s) s

/-- The partition returns to service, or stays halted while the cause of a Module-fatal fault persists, or when one came meanwhile (R546). -/
def State.backInService (s : State) (r : ResetSt) : State :=
  let s := (if s.keep.hold.isSome then s.endHold else s).tablesOk
  let s := if r.fabric then (List.range 16).foldl (fun s t => s.resetTree t) s else s
  let s := (s.modBoot fun b => { b with reset := none }).wrs [(F.bootPartHbmKept, b2n r.keep)]
  let s := if s.rd F.keepFaultStatState ≠ 2 then s.wr F.bootPartCompute 1
    else if r.halt ∨ s.causePersists then s.wr F.bootPartCompute 3
    else s.wrs [(F.keepFaultStatState, 0), (F.keepFaultStatMfatalCause, 0), (F.bootPartCompute, 1)]
  s.finish (fun w => decide (w = .computeReset)) sOK 0

/-- The arbiters of the compute partition start as at power-on; those of the links stand (R542). -/
def State.freshArbiters (s : State) : State :=
  let link (k : Nat) : Bool := decide (k / 16 / 2 ^ 16 = lLINK)
  { s with credits := s.credits.filter fun c => link c.1, turns := s.turns.filter fun c => link c.1 }

/-- The timeline, once a local reset's discard has ended. -/
def State.resetDone (s : State) (r : ResetSt) : State :=
  let s := (s.quietSlices.clearEpochs (!r.fabric)).dropTraffic.closeAllTileWins
  let s := s.resetTiles.clearCounts (ctrTile 0 0) (ctrSlice 511 3)
  let s := if r.keep then s else s.loseHbm.floorInit
  let s := s.freshArbiters
  (({ s with selfRef := [] } : State).abortJob).backInService r

def execComputeResetDone (s : State) : Host.Outcome State Fault Refusal :=
  .next (match s.boot.reset with
    | some r => if s.pass.isSome ∨ s.keep.restarting then s else s.resetDone r
    | none => s)

/-! ## Starting a reset -/

/-- Registers of the link partition outside its tables at their reset values (R692): the links', the port dies' settings, the last
doorbell, the pack lane's settings and snapshot slots. -/
def State.linkRegsReset (s : State) : State :=
  let s := s.resetRegs (R.linkCtrl 0) (R.linkCtrl 63 + 0x1FF)
  let s := [R.winDbLast, R.packCfg, R.packSnapStat 0, R.packSnapStat 1, R.packSnapId 0, R.packSnapId 1].foldl
    (fun s a => s.setReg a (regReset s.variant a)) s
  (List.range s.variant.portDies).foldl (fun s p => ((s.setReg (R.portCfg p) (regReset s.variant (R.portCfg p))).setCopies .route p allPass).setCopies .window p allPass) s

/-- The link reset's second part (R545 steps 2 to 4): the port dies lose what they hold, every tree starts again, and enabled links
train. The Keeper's records give the tables their contents again. -/
def State.linkResetGo (s : State) : State :=
  let s := (List.range s.variant.links).foldl (fun s l => if s.rd (F.linkStatState l) = lkDisabled then s else s.linkStop l lkDisabled) s
  let s := (s.stopSnaps.setSnap 0 none).setSnap 1 none
  let ps := s.fab.fences.flatMap (·.pkts) ++ s.fab.held.map (·.2)
  let s := s.fab.fences.foldl (fun s f => s.setRoute f.dst 15 1 0) s
  let s := { s with links := [] }.modFab fun f =>
    { f with inbox := f.inbox.filter (fun x => decide (64 ≤ x.link)), fences := [], held := [], calls := [], sigRecs := [], aborts := [], leaving := [],
             retireAcks := [], retireWait := [] }
  let s := (List.range s.variant.links).foldl (fun s l => s.barkLink l) s
  let s := ps.foldl (fun s p => s.inDoubt p) s.fenced
  let s := (List.range 16).foldl (fun s t => s.resetTree t) s
  let s := (s.clearCounts (ctrLink 0 0) (ctrLink 63 3)).linkRegsReset
  let s := s.modBoot fun b => { b with linkPhase := 2 }
  (s.toTrain.foldl (fun s l => s.startTraining l) s).linksSettled

/-- A module window is closing. -/
def State.anyClosing (s : State) : Bool := (List.range 1024).any fun w => decide (s.rd (F.winCtrlState w) = 2)

/-- A RETIRE that waits. -/
def retireWaits (w : Wait) : Bool := match w with | .retire _ => true | _ => false

/-- What waits for RETIRE_ACKs goes on: a link reset, at its limit too, and a retirement (R484 steps 2 to 5), which waits for its windows to be
Closed and for its links that are still up (DEDUCED, log entry 62). -/
def State.retireStep (s : State) : State :=
  let left := s.fab.retireWait.filter fun l => s.linkExists l && (decide (s.rd (F.linkStatState l) = lkUp) || decide (s.rd (F.linkStatState l) = lkRetrain))
  let s := if s.boot.linkPhase = 1 ∧ (left = [] ∨ s.boot.linkAt ≤ s.now) then s.linkResetGo else s
  if s.host.retiring ∧ !s.host.retired ∧ left = [] ∧ !s.anyClosing then
    let s := (List.range s.variant.links).foldl (fun s l => s.disableLink l) s
    let s := (({ s with selfRef := (List.range 32).filter fun h => s.stackPopulated h } : State)).modHost fun h => { h with retired := true }
    s.finish retireWaits sOK 0
  else s

/-- A module window is Closed once its accepted packets have landed (R409). -/
def execMwinClosed (w : Nat) (s : State) : Host.Outcome State Fault Refusal :=
  .next (if s.rd (F.winCtrlState w) = 2 ∧ s.mwinQuiet w then (s.shutMwin w).retireStep else s)

/-- RETIRE leaves on every link that is Up. -/
def State.sendRetires (s : State) : State :=
  let up := (List.range s.variant.links).filter fun l => decide (s.rd (F.linkStatState l) = lkUp)
  (up.foldl (fun s l => s.sendMgmt l 3 0) s).modFab fun f => { f with retireWait := up }

/-- PARTITION_RESET (R470, R541 to R546). -/
def State.partitionResetCmd (s : State) (e : Entry) : State :=
  s.cmd e .admin ⟨true, true, false, true⟩ [(1, [(0, 3)])] fun s =>
    let w := parm e 1
    if 2 ≤ bf w 0 2 then s.complete e sINVALID_FIELD 0
    else if s.boot.reset.isSome ∨ s.boot.linkPhase ≠ 0 then s.complete e sBUSY 0
    else if bf w 0 2 = 0 then (s.await e .computeReset).beginReset (bit w 2) false
    else if s.job.isSome then s.complete e sBUSY 0
    else
      let s := (s.await e .linkReset).modBoot fun b => { b with linkPhase := 1, linkAt := s.now + 100000000 }
      ((s.sendRetires).wr F.bootPartLink 2).retireStep

def execComputeResetLocal (e : Entry) (s : State) : Host.Outcome State Fault Refusal :=
  .next (if bf (parm e 1) 0 2 = 0 then s.partitionResetCmd e else s)

def execLinkReset (e : Entry) (s : State) : Host.Outcome State Fault Refusal :=
  .next (if bf (parm e 1) 0 2 = 1 then s.partitionResetCmd e else s)

/-- A fabric reset's packet on a tree under an op_seq; aux bit 0 asks to keep HBM (R451). -/
def State.sendReset (s : State) (t seq aux : Nat) : State :=
  let s := s.modTree t fun x => { x with resetSeq := some seq }
  (s.sendDown t { tree := t, kind := kRESET, up := false, rop := 0, dtype := 0, countM1 := 0, child := 0, status := 0,
                  opSeq := seq, members := 1, aux := aux } []).bump Ev.packOps .module 1

/-- FABRIC_RESET (R433, R451, R470); BUSY during a link reset (DEDUCED, log entry 60). -/
def State.fabricResetCmd (s : State) (e : Entry) : State :=
  s.cmd e .admin ⟨false, true, false, true⟩ [(1, [(0, 4)]), (2, [(0, 1)])] fun s =>
    let t := bf (parm e 1) 0 4
    if !s.on (F.packTreeCtrlEnable t) ∨ !s.isRoot t then s.complete e sREFUSED 0
    else if s.boot.linkPhase ≠ 0 then s.complete e sBUSY 0
    else ((s.sendReset t (s.tree t).opSeq (bf (parm e 2) 0 1)).await e .computeReset).beginReset (bit (parm e 2) 0) true

def execFabricReset (e : Entry) (s : State) : Host.Outcome State Fault Refusal := .next (s.fabricResetCmd e)

/-- A fabric reset from the tree's parent: on to the children, then the same here. -/
def execFabricResetPacket (l : Nat) (p : Packet) (s : State) : Host.Outcome State Fault Refusal :=
  .next (if s.keep.restarting then s
    else s.arrival l p (isPack p false fun k => decide (k = kRESET)) fun s _ => packHdr p (fun h =>
      let t := h.tree
      if !s.on (F.packTreeCtrlEnable t) ∨ s.isRoot t ∨ s.rd (F.packTreeCtrlParent t) ≠ p.src then s
      else if seqBefore h.opSeq (s.tree t).opSeq || decide ((s.tree t).resetSeq = some h.opSeq) then s.bump Ev.packDup .module 1
      else (s.sendReset t h.opSeq h.aux).beginReset (bit h.aux 0) true) s)

/-! ## Retirement (R484, R539) -/

/-- RETIRE; BUSY during a link reset too (DEDUCED, log entry 60). -/
def State.retireCmd (s : State) (e : Entry) : State :=
  s.cmd e .admin .plain [] fun s =>
    if s.job.isSome ∨ s.boot.linkPhase ≠ 0 then s.complete e sBUSY 0
    else
      let s := (s.await e (.retire ((List.range 1024).filter fun w => decide (s.rd (F.winCtrlState w) = 1)))).modHost fun h => { h with retiring := true, retired := false }
      let s := (List.range 1024).foldl (fun s w => s.closeMwin w) s
      s.sendRetires.retireStep

def execRetire (e : Entry) (s : State) : Host.Outcome State Fault Refusal := .next (s.retireCmd e)

def execRetireAck (l : Nat) (p : Packet) (s : State) : Host.Outcome State Fault Refusal :=
  .next (if 64 ≤ l ∨ s.keep.restarting then s
    else s.arrival l p (isMgmt p 4) fun s _ =>
      (s.modFab fun f => { f with retireWait := f.retireWait.filter fun k => decide (k ≠ l) }).retireStep)

/-! ## RETRAIN (R547) -/

/-- RETRAIN of a link or a channel. -/
def State.retrainCmd (s : State) (e : Entry) : State :=
  s.cmd e .admin ⟨false, true, false, true⟩ [(1, [(0, 10)])] fun s =>
    let w := parm e 1
    let n := bf w 1 9
    if bf w 0 1 = 0 then
      if 64 ≤ n ∨ !s.linkExists n then s.complete e sINVALID_FIELD 0
      else if s.rd F.bootPartLink = 2 then s.complete e sPARTITION_DOWN 0
      else
        let st := s.rd (F.linkStatState n)
        if st ≤ lkDown then s.complete e sOK 0
        else if st = lkUp then (s.await e (.retrainLink n)).startRetrain n true
        else (s.await e (.retrainLink n)).modLink n fun x => { x with widen := true }
    else if !s.slicePopulated n then s.complete e sINVALID_FIELD 0
    else if s.boot.reset.isSome then s.complete e sPARTITION_DOWN 0
    else if s.chanRetired n then s.complete e sCHANNEL_LOST 0
    else
      let s := s.await e (.retrainChan n)
      let s := { s with bound := { s.bound with lanes := if s.bound.lanes.contains n then s.bound.lanes else s.bound.lanes ++ [n] } }
      if s.pass.isNone then s.startLanes else s

def execRetrainLink (e : Entry) (s : State) : Host.Outcome State Fault Refusal :=
  .next (if bf (parm e 1) 0 1 = 0 then s.retrainCmd e else s)

def execRetrainChannel (e : Entry) (s : State) : Host.Outcome State Fault Refusal :=
  .next (if bf (parm e 1) 0 1 = 1 then s.retrainCmd e else s)

/-- A channel's retraining ends (R337, R338): it is up, or it retires where it fails at every rate, or where two lanes of one pseudo-channel are
left unrepaired. Lanes found to fail beyond those that were suspect become so (R336). A launch that waited for it starts. -/
def State.chanTrained (s : State) (r : ChanTrain) : State :=
  match r.rate with
  | some _ =>
    let new := s.newLanes r
    let s := if new = 0 then s else s.bump Ev.laneSuspect (.slice r.chan) new
    (((s.chanUp r).stackCap (r.chan / 16) [r.chan]).settleLanes r.chan r.unrep).finish (fun w => decide (w = .retrainChan r.chan)) sOK 0
  | none => s.retireChan r.chan 1

def execChannelRetrainDone (r : ChanTrain) (s : State) : Host.Outcome State Fault Refusal :=
  .next (if s.slicePopulated r.chan ∧ s.rd (F.hbmcChStatState (r.chan / 16) (r.chan % 16)) = 2 then (s.chanTrained r).tryLaunch else s)

end Sys2Proof.Machine
end

