-- ==== Sys2Proof/Machine/Times.lean ====
section
/-! DEFINITION. The timebase's sources (R442, R614 to R624): samples, states, PTP, PPS, and distribution over the pack lane. -/

namespace Sys2Proof.Machine

/-! ## Sources (R617, R618) -/

/-- Sources as TIME_STAT codes them, and states. -/
def tsPTP : Nat := 1
def tsPPS : Nat := 2
def tsPACK : Nat := 3
def tmFREE : Nat := 0
def tmACQUIRING : Nat := 1
def tmLOCKED : Nat := 2
def tmHOLDOVER : Nat := 3

/-- The time tree in use. -/
def State.timeTree (s : State) : Option Nat := (List.range 16).find? fun t => s.on (F.packTreeCtrlEnable t) && s.on (F.packTreeCtrlTime t)

/-- The module is a member of the time tree below its root. -/
def State.timeMember (s : State) : Bool := match s.timeTree with | some t => !s.isRoot t | none => false

/-- PTP is on. -/
def State.ptpOn (s : State) : Bool := decide (s.rd F.timeCfgPtp = 1) || decide (s.rd F.timeCfgPtp = 2)

/-- The source to steer from. -/
def State.source (s : State) : Option Nat :=
  if s.timeMember then some tsPACK
  else if s.ptpOn ∧ s.time.master.isSome then some tsPTP
  else if s.time.pps.isSome then some tsPPS
  else none

/-- An offset as TIME_OFFSET holds it: 32 bits, saturating. -/
def theta32 (v : Int) : Nat := ((max (-(2 ^ 31)) (min v (2 ^ 31 - 1))) % 2 ^ 32).toNat

/-- Largest adjustment, ±50 ppm, in units of 1/256 ppb. -/
def adjMax : Int := 12800000

/-- PPS out is low where it may not rise (R623). -/
def State.ppsHold (s : State) : State :=
  if s.on F.timeCfgPpsOut ∧ tmLOCKED ≤ s.rd F.timeStatState then s else s.modPower fun p => { p with ppsOut := 0 }

/-- Enter Acquiring toward a source. -/
def State.acquire (s : State) (src : Nat) : State :=
  ((s.wrs [(F.timeStatState, tmACQUIRING), (F.timeStatSource, src), (F.timeStatHoldoverS, 0)]).modTime fun x => { x with run := 0 }).ppsHold

/-- The state after a sample (R618); samples of the Acquiring state count toward its 16 (DEDUCED, log entry 63). -/
def State.lockStep (s : State) (src : Nat) (theta : Int) : State :=
  let st := s.rd F.timeStatState
  if st = tmFREE ∨ st = tmHOLDOVER ∨ s.rd F.timeStatSource ≠ src then s.acquire src
  else if st = tmACQUIRING then
    let n := if theta.natAbs < 1000 then s.time.run + 1 else 0
    if 16 ≤ n then ((s.wr F.timeStatState tmLOCKED).modTime fun x => { x with run := 0 }).bump Ev.timeLock .module 1
    else s.modTime fun x => { x with run := n }
  else if 10000 < theta.natAbs then s.acquire src
  else s

/-- A sample of the source in use (R619, R620): the one step of Free-run, the state, the offset and the adjustment. -/
def State.takeSample (s : State) (src : Nat) (theta : Int) : State :=
  let s := s.bump Ev.timeSample .module 1
  let s := if s.rd F.timeStatState = tmFREE ∧ s.job.isNone ∧ 0 < theta then
      (s.wrs [(F.timeNowNs, s.now + theta.toNat), (F.timeStatStepped, 1)]).bump Ev.timeStep .module 1
    else s
  let s := s.lockStep src theta
  let adj := max (-adjMax) (min (Config.steer (s.rd F.timeAdjFreq) theta) adjMax)
  s.wrs [(F.timeOffsetTheta, theta32 theta), (F.timeAdjFreq, (adj % 2 ^ 32).toNat)]

/-- A sample: of the source in use, or monitored. The Keeper steers, so none is taken while it restarts. -/
def State.sample (s : State) (src : Nat) (theta : Int) : State :=
  if !s.keeperRuns then s
  else if s.source = some src then s.takeSample src theta
  else s.wr F.timeOffsetThetaMon (theta32 theta)

/-- A source is lost: the next one is acquired, or Holdover begins. -/
def State.loseSource (s : State) (src : Nat) : State :=
  let s := if src = tsPTP then
      (s.modTime fun x => { x with master := none }).wrs [(F.timeStatGmValid, 0), (F.timeGmClockId, 0)]
    else if src = tsPPS then s.modTime fun x => { x with pps := none } else s
  if s.rd F.timeStatSource ≠ src ∨ s.rd F.timeStatState = tmFREE then s
  else match (if s.source = some src then none else s.source) with
    | some k => s.acquire k
    | none => ((s.wrs [(F.timeStatState, tmHOLDOVER), (F.timeStatSource, 0), (F.timeStatHoldoverS, 0)]).modTime fun x =>
        { x with run := 0, holdAt := s.now }).bump Ev.timeHoldover .module 1 |>.ppsHold

/-- A source times out. A PPS input has missed two pulses by then (DEDUCED, log entry 64). -/
def execTimeSourceLoss (src : Nat) (s : State) : Host.Outcome State Fault Refusal :=
  .next (if !s.keeperRuns ∨ src < 1 ∨ 3 < src then s
    else (if src = tsPPS ∧ s.time.pps.isSome then s.bump Ev.ppsInMiss .module 2 else s).loseSource src)

/-! ## PTP (R622) -/

/-- A list of numbers comes before another: the data set that wins. -/
def lexLess : List Nat → List Nat → Bool
  | a :: x, b :: y => decide (a < b) || (decide (a = b) && lexLess x y)
  | [], _ :: _ => true
  | _, [] => false

/-- An Announce of the module's domain: the best data set wins. -/
def execPtpAnnounce (a : Announce) (s : State) : Host.Outcome State Fault Refusal :=
  .next (if !s.keeperRuns ∨ !s.ptpOn ∨ a.dom ≠ s.rd F.timeCfgDomain then s
    else
      let wins := match s.time.master with | some m => decide (a.clock = m.clock) || lexLess a.data m.data | none => true
      if wins then (s.modTime fun x => { x with master := some a }).wrs [(F.timeGmClockId, a.clock), (F.timeStatGmValid, 1)] else s)

/-- A Sync and its Follow_Up from the selected grandmaster `src`: its time, the port's timestamp of the Sync, the correction. -/
def execPtpSync (src : Nat) (master rx corr : Int) (dom : Nat) (s : State) : Host.Outcome State Fault Refusal :=
  .next (if s.ptpOn ∧ dom = s.rd F.timeCfgDomain ∧ (s.time.master.any fun m => decide (m.clock = src)) then
      s.sample tsPTP (master + corr + s.time.delayPtp - rx)
    else s)

/-- A delay exchange, end to end or peer to peer: half of what both ways take together. -/
def execPtpDelayResp (d : DelayIn) (s : State) : Host.Outcome State Fault Refusal :=
  .next (if s.keeperRuns ∧ s.ptpOn then s.modTime fun x => { x with delayPtp := ((d.t2 - d.t1) + (d.t4 - d.t3)) / 2 } else s)

/-- TIME_CFG (R470, R635). PTP switched off, or to another domain, has lost its grandmaster. -/
def State.timeCfgCmd (s : State) (e : Entry) : State :=
  s.cmd e .admin .plain [(1, [(0, 11)])] fun s =>
    let w := parm e 1
    if 127 < bf w 3 8 then s.complete e sINVALID_FIELD 0
    else
      let dom := s.rd F.timeCfgDomain
      let s := s.wrs [(F.timeCfgPtp, bf w 0 2), (F.timeCfgPpsOut, bf w 2 1), (F.timeCfgDomain, bf w 3 7)]
      let s := if s.time.master.isSome ∧ (!s.ptpOn ∨ s.rd F.timeCfgDomain ≠ dom) then s.loseSource tsPTP else s
      s.ppsHold.complete e sOK 0

def execTimeCfg (e : Entry) (s : State) : Host.Outcome State Fault Refusal := .next (s.timeCfgCmd e)

/-! ## PPS (R619, R623) -/

/-- A second in ns. -/
def secNs : Nat := 1000000000

def execPpsInEdge (s : State) : Host.Outcome State Fault Refusal :=
  .next (if !s.power.powered then s
    else
      let t := s.now
      let miss := match s.time.pps with | some p => (t - p + secNs / 2) / secNs - 1 | none => 0
      let s := (s.wr F.timePpsInStamp t).modTime fun x => { x with pps := some t }
      let s := if miss = 0 then s else s.bump Ev.ppsInMiss .module miss
      let whole := if s.rd F.timeStatState = tmFREE then (t + (secNs - 1)) / secNs * secNs else (t + secNs / 2) / secNs * secNs
      s.sample tsPPS ((whole : Int) - t))

/-- PPS out rises for 100 ms. -/
def execPpsOutPulse (s : State) : Host.Outcome State Fault Refusal :=
  .next (if s.power.powered ∧ s.on F.timeCfgPpsOut ∧ tmLOCKED ≤ s.rd F.timeStatState ∧ s.now % secNs = 0 then
      s.modPower fun p => { p with ppsOut := s.now + 100000000 }
    else s)

/-! ## The time tree (R442, R624) -/

/-- A time packet to every child of a tree. -/
def State.sendTime (s : State) (t : Nat) : State :=
  s.sendDown t { tree := t, kind := kTIME, up := false, rop := 0, dtype := 0, countM1 := 0, child := 0, status := 0,
                 opSeq := (s.tree t).opSeq, members := 0, aux := s.now } []

def execTimePacketSend (s : State) : Host.Outcome State Fault Refusal :=
  .next (match s.timeTree with
    | some t => if s.isRoot t ∧ s.on F.packCfgTimeEn then s.sendTime t else s
    | none => s)

/-- A sample from a time packet, unless R624 rejects it. -/
def State.timeSample (s : State) (t aux : Nat) : State :=
  let x := s.tree t
  let theta : Int := aux + x.delay - s.now
  if !s.keeperRuns then s
  else if x.route.isNone ∨ s.routeOf (s.rd (F.packTreeCtrlHome t)) (s.rd (F.packTreeCtrlParent t)) ≠ x.route ∨ (s.rd F.timeStatState = tmLOCKED ∧ 10000 < theta.natAbs) then
    s.bump Ev.timeSampleRej .module 1
  else s.sample tsPACK theta

/-- A packet of the time tree from this module's parent. -/
def State.fromTimeParent (s : State) (p : Packet) (h : PackHdr) : Bool :=
  decide (s.timeTree = some h.tree) && !s.isRoot h.tree && decide (s.rd (F.packTreeCtrlParent h.tree) = p.src)

/-- A time packet: a sample here, then on to the children with this module's own time of sending. -/
def execTimePacket (l : Nat) (p : Packet) (s : State) : Host.Outcome State Fault Refusal :=
  .next (s.arrival l p (isPack p false fun k => decide (k = kTIME)) fun s _ => packHdr p (fun h =>
    if s.fromTimeParent p h then (s.timeSample h.tree h.aux).sendTime h.tree else s) s)

/-- A child measures its edge: without an answer it sends the up packet; with it, half the round trip less the parent's holding time is the
delay. That a packet is the answer and not a time packet is said by the command, as no field tells them apart (DESIGN CHOICE, log
entry 66). -/
def execTimeDelayMeasure (r : Option DelayReply) (s : State) : Host.Outcome State Fault Refusal :=
  .next (match r with
    | none => match s.timeTree with
      | some t =>
        if s.isRoot t then s
        else
          (s.modTree t fun x => { x with sentAt := some s.now }).launchPkt
            (packPkt { tree := t, kind := kTIME, up := true, rop := 0, dtype := 0, countM1 := 0, child := s.parentSlot t, status := 0,
                       opSeq := (s.tree t).opSeq, members := 0, aux := s.now } (s.rd (F.packTreeCtrlParent t)) [])
      | none => s
    | some a => s.arrival a.link a.pkt (isPack a.pkt false fun k => decide (k = kTIME)) fun s _ => packHdr a.pkt (fun h =>
        match s.fromTimeParent a.pkt h, (s.tree h.tree).sentAt with
        | true, some t1 =>
          let d : Int := (((s.now : Int) - t1) - ((h.aux : Int) - a.t2)) / 2
          s.modTree h.tree fun x => { x with delay := d, route := s.routeOf (s.rd (F.packTreeCtrlHome h.tree)) (s.rd (F.packTreeCtrlParent h.tree)), sentAt := none }
        | _, _ => s) s)

end Sys2Proof.Machine
end

