-- ==== Sys2Proof/Machine/Queue.lean ====
section
/-! DEFINITION. The submission queues (R463 to R470): the fetch of an entry, the opcodes, and a host that does not answer (R468). -/

namespace Sys2Proof.Machine

/-- A submission entry's fields (R463): its eight words and what the host's memory answers. -/
def rawCommand (q : Nat) (r : RawEntry) : Entry :=
  let w (i : Nat) : W64 := r.words.getD i 0
  let w0 := (w 0).toNat
  { sq := q, fence := bit w0 8, noIrq := bit w0 9, rsv := bf w0 10 6 + bf w0 32 16 * 2 ^ 6, cmdId := bf w0 16 16, job := bf w0 48 16,
    w1 := w 1, w2 := w 2, w3 := w 3, w4 := w 4, w5 := w 5, w6 := w 6, w7 := w 7, inp := r.inp }

/-- The command of an opcode (R470); a BRINGUP_STEP starts its step, which a step row then runs. -/
def State.startOp (s : State) (op : Nat) (e : Entry) : State :=
  match op with
  | 0x00 => s.nopCmd e
  | 0x01 => s.sessionOpenCmd e
  | 0x02 => s.sessionCloseCmd e
  | 0x03 => s.jobOpenCmd e
  | 0x04 => s.jobCloseCmd e
  | 0x05 => s.stageLoadCmd e
  | 0x06 => s.tensorDeclCmd e
  | 0x07 => s.placeCmd e
  | 0x08 => s.placeQueryCmd e
  | 0x09 => s.passLaunchCmd e
  | 0x0A => s.passCommitCmd e
  | 0x10 => s.exchDeclareCmd e
  | 0x11 => s.exchDirCmd e
  | 0x12 => s.keepDeclareCmd e
  | 0x13 => s.keepReleaseCmd e
  | 0x14 => s.mwinOpenCmd e
  | 0x15 => s.mwinCloseCmd e
  | 0x16 => s.tilewinOpenCmd e
  | 0x17 => s.tilewinCloseCmd e
  | 0x18 => s.routeSetCmd e
  | 0x19 => s.treeSetCmd e
  | 0x1A => s.treeDisableCmd e
  | 0x1B => s.packOpCmd e
  | 0x1C => s.snapshotCmd e
  | 0x1D => s.fabricResetCmd e
  | 0x20 => s.bringupCmd e
  | 0x21 => s.partitionResetCmd e
  | 0x22 => s.retireCmd e
  | 0x23 => s.retrainCmd e
  | 0x28 => s.leashSetCmd e
  | 0x29 => s.kennelSetCmd e
  | 0x2A => s.collarCfgCmd e
  | 0x30 => s.pwrPolicyCmd e
  | 0x31 => s.pwrWakeTolCmd e
  | 0x32 => s.thermalCfgCmd e
  | 0x33 => s.timeCfgCmd e
  | 0x38 => s.telemCmd e
  | 0x39 => s.counterCfgCmd e
  | 0x3A => s.logReadCmd e
  | 0x3B => s.eventMaskCmd e
  | 0x40 => s.measureReadCmd e
  | 0x41 => s.identityReadCmd e
  | 0x48 => s.fwStageCmd e
  | 0x49 => s.fwActivateCmd e
  | _ => if s.cmdReady e then (s.cmdStart e).complete e sINVALID_OPCODE 0 else s

/-- A queue has an entry to fetch: it runs, its indices differ, and at most 256 completions are held (R465). -/
def State.fetchable (s : State) (q : Nat) : Bool :=
  s.on (F.cmdqQcfgEnable q) && !(s.queue q).stopped && decide ((s.queue q).held.length < 256)
    && decide ((s.queue q).head ≠ s.rd (F.cmdqSqTailIndex q) % s.ringSize q)

/-- The queue whose turn it is (R466). -/
def State.fetchTurn (s : State) : Option Nat :=
  ((List.range 16).map fun i => (s.host.turn + i) % 16).find? fun q => s.fetchable q

/-- A fetch fails (R468, R483): the queue stops until the host clears enable and sets it again, and HOSTW_ERR records the request. -/
def State.fetchFails (s : State) (q : Nat) : State :=
  ((s.record F.hostwErrValid F.hostwErrMulti [(F.hostwErrKind, 6), (F.hostwErrBar, 3),
    (F.hostwErrOffset, 4096 * s.rd (F.cmdqSqBaseAddr q) + 64 * (s.queue q).head)]).wr (F.cmdqQcfgErr q) 1).setQueue q { s.queue q with stopped := true }

/-- The Keeper's turn at a queue. A fenced command that must wait is fetched at a later turn. -/
def State.fetch (s : State) (q : Nat) (r : RawEntry) : State :=
  let s := s.modHost fun h => { h with turn := (q + 1) % 16 }
  let e := rawCommand q r
  if e.fence ∧ (s.queue q).out ≠ 0 then s
  else (s.setQueue q { s.queue q with head := ((s.queue q).head + 1) % s.ringSize q }).startOp (bf (r.words.getD 0 0).toNat 0 8) e

def execCommandFetch (q : Nat) (r : Option RawEntry) (s : State) : Host.Outcome State Fault Refusal :=
  .next (if !s.keeperRuns ∨ !s.host.linkUp ∨ s.fetchTurn ≠ some q then s
    else match r with
      | some r => s.fetch q r
      | none => (s.fetchFails q).modHost fun h => { h with turn := (q + 1) % 16 })

/-- The host does not answer: to the fetch of an entry, or to the write of a waiting command, a TELEM_SNAPSHOT; every other access is part of
its command's own row. -/
def execHostDmaTimeout (q : Nat) (c : Option Nat) (s : State) : Host.Outcome State Fault Refusal :=
  .next (match c with
    | none => if s.keeperRuns ∧ q < 16 ∧ s.fetchable q then s.fetchFails q else s
    | some id =>
      match s.host.waits.find? fun w => decide (w.why = .telem) && decide (w.e.sq = q) && decide (w.e.cmdId = id) with
      | some w => (s.modHost fun h => { h with waits := h.waits.filter fun v => decide (v ≠ w) }).hostFail w.e (parm w.e 1)
      | none => s)

end Sys2Proof.Machine
end

