-- ==== Sys2Proof/Machine/Dispatch.lean ====
section
/-! DEFINITION. The dispatch: one direct call of a meaning per command. -/

namespace Sys2Proof.Machine

/-- The effect of a command on everything but the queue of waiting commands. -/
def exec (i : Instr) (s : State) : Host.Outcome State Fault Refusal :=
  match i with
  | .nop e => Sys2Proof.Machine.execNop e s
  | .sessionOpen e => Sys2Proof.Machine.execSessionOpen e s
  | .sessionClose e => Sys2Proof.Machine.execSessionClose e s
  | .jobOpen e => Sys2Proof.Machine.execJobOpen e s
  | .jobClose e => Sys2Proof.Machine.execJobClose e s
  | .stageLoad e => Sys2Proof.Machine.execStageLoad e s
  | .tensorDecl e => Sys2Proof.Machine.execTensorDecl e s
  | .place e => Sys2Proof.Machine.execPlace e s
  | .placeQuery e => Sys2Proof.Machine.execPlaceQuery e s
  | .passLaunch e => Sys2Proof.Machine.execPassLaunch e s
  | .passCommit e => Sys2Proof.Machine.execPassCommit e s
  | .exchDeclare e => Sys2Proof.Machine.execExchDeclare e s
  | .exchDir e => Sys2Proof.Machine.execExchDir e s
  | .keepDeclare e => Sys2Proof.Machine.execKeepDeclare e s
  | .keepRelease e => Sys2Proof.Machine.execKeepRelease e s
  | .mwinOpen e => Sys2Proof.Machine.execMwinOpen e s
  | .mwinClose e => Sys2Proof.Machine.execMwinClose e s
  | .tilewinOpen e => Sys2Proof.Machine.execTilewinOpen e s
  | .tilewinClose e => Sys2Proof.Machine.execTilewinClose e s
  | .routeSet e => Sys2Proof.Machine.execRouteSet e s
  | .treeSet e => Sys2Proof.Machine.execTreeSet e s
  | .treeDisable e => Sys2Proof.Machine.execTreeDisable e s
  | .packOpBarrier e => Sys2Proof.Machine.execPackOpBarrier e s
  | .packOpReduction e => Sys2Proof.Machine.execPackOpReduction e s
  | .packOpBroadcast e => Sys2Proof.Machine.execPackOpBroadcast e s
  | .snapshot e => Sys2Proof.Machine.execSnapshot e s
  | .fabricReset e => Sys2Proof.Machine.execFabricReset e s
  | .stepS0 src vin conv => Sys2Proof.Machine.execStepS0 src vin conv s
  | .stepS1 src romOk => Sys2Proof.Machine.execStepS1 src romOk s
  | .stepS2 src => Sys2Proof.Machine.execStepS2 src s
  | .stepS3 src fuses => Sys2Proof.Machine.execStepS3 src fuses s
  | .stepS4 src domains => Sys2Proof.Machine.execStepS4 src domains s
  | .stepS5 src locked => Sys2Proof.Machine.execStepS5 src locked s
  | .stepS6 src findings fatal => Sys2Proof.Machine.execStepS6 src findings fatal s
  | .stepS7 src chans heightOk => Sys2Proof.Machine.execStepS7 src chans heightOk s
  | .stepS8 src ok => Sys2Proof.Machine.execStepS8 src ok s
  | .stepS9 src ok => Sys2Proof.Machine.execStepS9 src ok s
  | .stepS10 src links => Sys2Proof.Machine.execStepS10 src links s
  | .stepS11 src => Sys2Proof.Machine.execStepS11 src s
  | .stepS12 src => Sys2Proof.Machine.execStepS12 src s
  | .stepLimitExpiry => Sys2Proof.Machine.execStepLimitExpiry s
  | .computeResetLocal e => Sys2Proof.Machine.execComputeResetLocal e s
  | .linkReset e => Sys2Proof.Machine.execLinkReset e s
  | .retire e => Sys2Proof.Machine.execRetire e s
  | .retrainLink e => Sys2Proof.Machine.execRetrainLink e s
  | .retrainChannel e => Sys2Proof.Machine.execRetrainChannel e s
  | .leashSet e => Sys2Proof.Machine.execLeashSet e s
  | .kennelSet e => Sys2Proof.Machine.execKennelSet e s
  | .collarCfg e => Sys2Proof.Machine.execCollarCfg e s
  | .pwrPolicy e => Sys2Proof.Machine.execPwrPolicy e s
  | .pwrWakeTol e => Sys2Proof.Machine.execPwrWakeTol e s
  | .thermalCfg e => Sys2Proof.Machine.execThermalCfg e s
  | .timeCfg e => Sys2Proof.Machine.execTimeCfg e s
  | .telemSnapshot e => Sys2Proof.Machine.execTelemSnapshot e s
  | .counterCfg e => Sys2Proof.Machine.execCounterCfg e s
  | .logRead e => Sys2Proof.Machine.execLogRead e s
  | .eventMask e => Sys2Proof.Machine.execEventMask e s
  | .measureRead e => Sys2Proof.Machine.execMeasureRead e s
  | .identityRead e => Sys2Proof.Machine.execIdentityRead e s
  | .fwStage e => Sys2Proof.Machine.execFwStage e s
  | .fwActivate e => Sys2Proof.Machine.execFwActivate e s
  | .sqTailWrite q v => Sys2Proof.Machine.execSqTailWrite q v s
  | .cqHeadWrite q v => Sys2Proof.Machine.execCqHeadWrite q v s
  | .queueEnable q => Sys2Proof.Machine.execQueueEnable q s
  | .queueDisable q => Sys2Proof.Machine.execQueueDisable q s
  | .commandFetch q r => Sys2Proof.Machine.execCommandFetch q r s
  | .hostDmaTimeout q c => Sys2Proof.Machine.execHostDmaTimeout q c s
  | .bar2Read off len met => Sys2Proof.Machine.execBar2Read off len met s
  | .bar2Write off data met => Sys2Proof.Machine.execBar2Write off data met s
  | .bar4Write off data => Sys2Proof.Machine.execBar4Write off data s
  | .registerWrite off size v by_ => Sys2Proof.Machine.execRegisterWrite off size v by_ s
  | .pcieLinkDown => Sys2Proof.Machine.execPcieLinkDown s
  | .pcieLinkUp => Sys2Proof.Machine.execPcieLinkUp s
  | .functionLevelReset => Sys2Proof.Machine.execFunctionLevelReset s
  | .perstAssert => Sys2Proof.Machine.execPerstAssert s
  | .powerApplied => Sys2Proof.Machine.execPowerApplied s
  | .enLoopOpen => Sys2Proof.Machine.execEnLoopOpen s
  | .pwrOffHigh => Sys2Proof.Machine.execPwrOffHigh s
  | .pwrOffFall => Sys2Proof.Machine.execPwrOffFall s
  | .inputWarn mv => Sys2Proof.Machine.execInputWarn mv s
  | .inputTrip mv ma => Sys2Proof.Machine.execInputTrip mv ma s
  | .inputRestore mv => Sys2Proof.Machine.execInputRestore mv s
  | .converterFault n => Sys2Proof.Machine.execConverterFault n s
  | .railFault r => Sys2Proof.Machine.execRailFault r s
  | .phaseFail rail => Sys2Proof.Machine.execPhaseFail rail s
  | .bondZoneOvercurrent d z over150 => Sys2Proof.Machine.execBondZoneOvercurrent d z over150 s
  | .reglCellFail m cell => Sys2Proof.Machine.execReglCellFail m cell s
  | .pwrmUpdate rails conv vin => Sys2Proof.Machine.execPwrmUpdate rails conv vin s
  | .guardAct stop => Sys2Proof.Machine.execGuardAct stop s
  | .guardRelease => Sys2Proof.Machine.execGuardRelease s
  | .energyAccountUpdate mj => Sys2Proof.Machine.execEnergyAccountUpdate mj s
  | .bayIdleGate d b => Sys2Proof.Machine.execBayIdleGate d b s
  | .bayPowerUpTest d b slope => Sys2Proof.Machine.execBayPowerUpTest d b slope s
  | .bayHalfRateStart d b => Sys2Proof.Machine.execBayHalfRateStart d b s
  | .bayUp d b => Sys2Proof.Machine.execBayUp d b s
  | .idleEntry => Sys2Proof.Machine.execIdleEntry s
  | .idleWake => Sys2Proof.Machine.execIdleWake s
  | .selfRefreshEntry h => Sys2Proof.Machine.execSelfRefreshEntry h s
  | .cageInsert c media => Sys2Proof.Machine.execCageInsert c media s
  | .cageRemove c => Sys2Proof.Machine.execCageRemove c s
  | .thermalPoll r => Sys2Proof.Machine.execThermalPoll r s
  | .graceExpiry => Sys2Proof.Machine.execGraceExpiry s
  | .muzzleStep => Sys2Proof.Machine.execMuzzleStep s
  | .muzzleFall => Sys2Proof.Machine.execMuzzleFall s
  | .hwTrip n sensor temp => Sys2Proof.Machine.execHwTrip n sensor temp s
  | .hbmTempPoll h temp => Sys2Proof.Machine.execHbmTempPoll h temp s
  | .ptpSync src master rx corr dom => Sys2Proof.Machine.execPtpSync src master rx corr dom s
  | .ptpAnnounce a => Sys2Proof.Machine.execPtpAnnounce a s
  | .ptpDelayResp d => Sys2Proof.Machine.execPtpDelayResp d s
  | .ppsInEdge => Sys2Proof.Machine.execPpsInEdge s
  | .ppsOutPulse => Sys2Proof.Machine.execPpsOutPulse s
  | .timeSourceLoss src => Sys2Proof.Machine.execTimeSourceLoss src s
  | .timePacketSend => Sys2Proof.Machine.execTimePacketSend s
  | .timePacket l p => Sys2Proof.Machine.execTimePacket l p s
  | .timeDelayMeasure r => Sys2Proof.Machine.execTimeDelayMeasure r s
  | .telemLatch => Sys2Proof.Machine.execTelemLatch s
  | .keeperWatchdogExpiry ce measOk => Sys2Proof.Machine.execKeeperWatchdogExpiry ce measOk s
  | .keeperMemUe ce measOk => Sys2Proof.Machine.execKeeperMemUe ce measOk s
  | .keeperRestartDone => Sys2Proof.Machine.execKeeperRestartDone s
  | .fuseAdvance => Sys2Proof.Machine.execFuseAdvance s
  | .fuseBlown => Sys2Proof.Machine.execFuseBlown s
  | .tableCheck t inst c => Sys2Proof.Machine.execTableCheck t inst c s
  | .getVersion m => Sys2Proof.Machine.execGetVersion m s
  | .getCapabilities m => Sys2Proof.Machine.execGetCapabilities m s
  | .negotiateAlgorithms m => Sys2Proof.Machine.execNegotiateAlgorithms m s
  | .getDigests m => Sys2Proof.Machine.execGetDigests m s
  | .getCertificate m => Sys2Proof.Machine.execGetCertificate m s
  | .challenge m => Sys2Proof.Machine.execChallenge m s
  | .getMeasurements m => Sys2Proof.Machine.execGetMeasurements m s
  | .doeDiscovery index => Sys2Proof.Machine.execDoeDiscovery index s
  | .doeAbort => Sys2Proof.Machine.execDoeAbort s
  | .matrixSequenceStart t errs => Sys2Proof.Machine.execMatrixSequenceStart t errs s
  | .chainStart t errs => Sys2Proof.Machine.execChainStart t errs s
  | .fence t errs => Sys2Proof.Machine.execFence t errs s
  | .add t sd sa sb errs => Sys2Proof.Machine.execAdd t sd sa sb errs s
  | .sub t sd sa sb errs => Sys2Proof.Machine.execSub t sd sa sb errs s
  | .and t sd sa sb errs => Sys2Proof.Machine.execAnd t sd sa sb errs s
  | .or t sd sa sb errs => Sys2Proof.Machine.execOr t sd sa sb errs s
  | .xor t sd sa sb errs => Sys2Proof.Machine.execXor t sd sa sb errs s
  | .shl t sd sa sb errs => Sys2Proof.Machine.execShl t sd sa sb errs s
  | .shr t sd sa sb errs => Sys2Proof.Machine.execShr t sd sa sb errs s
  | .sra t sd sa sb errs => Sys2Proof.Machine.execSra t sd sa sb errs s
  | .mul t sd sa sb errs => Sys2Proof.Machine.execMul t sd sa sb errs s
  | .slt t sd sa sb errs => Sys2Proof.Machine.execSlt t sd sa sb errs s
  | .sltu t sd sa sb errs => Sys2Proof.Machine.execSltu t sd sa sb errs s
  | .addi t sd sa imm errs => Sys2Proof.Machine.execAddi t sd sa imm errs s
  | .ori t sd sa imm errs => Sys2Proof.Machine.execOri t sd sa imm errs s
  | .lui t sd imm errs => Sys2Proof.Machine.execLui t sd imm errs s
  | .lw t sd sa imm errs => Sys2Proof.Machine.execLw t sd sa imm errs s
  | .sw t sa sb imm errs => Sys2Proof.Machine.execSw t sa sb imm errs s
  | .brz t sa imm errs => Sys2Proof.Machine.execBrz t sa imm errs s
  | .brnz t sa imm errs => Sys2Proof.Machine.execBrnz t sa imm errs s
  | .jmp t imm errs => Sys2Proof.Machine.execJmp t imm errs s
  | .loop t sa imm errs => Sys2Proof.Machine.execLoop t sa imm errs s
  | .wait t imm errs => Sys2Proof.Machine.execWait t imm errs s
  | .csrr t sd imm errs => Sys2Proof.Machine.execCsrr t sd imm errs s
  | .csrw t sa imm errs => Sys2Proof.Machine.execCsrw t sa imm errs s
  | .end_ t errs => Sys2Proof.Machine.execEnd t errs s
  | .vadd t v errs => Sys2Proof.Machine.execVadd t v errs s
  | .vsub t v errs => Sys2Proof.Machine.execVsub t v errs s
  | .vmul t v errs => Sys2Proof.Machine.execVmul t v errs s
  | .vfma t v errs => Sys2Proof.Machine.execVfma t v errs s
  | .vmin t v errs => Sys2Proof.Machine.execVmin t v errs s
  | .vmax t v errs => Sys2Proof.Machine.execVmax t v errs s
  | .vand t v errs => Sys2Proof.Machine.execVand t v errs s
  | .vor t v errs => Sys2Proof.Machine.execVor t v errs s
  | .vxor t v errs => Sys2Proof.Machine.execVxor t v errs s
  | .vshl t v errs => Sys2Proof.Machine.execVshl t v errs s
  | .vshr t v errs => Sys2Proof.Machine.execVshr t v errs s
  | .vsra t v errs => Sys2Proof.Machine.execVsra t v errs s
  | .vceq t v errs => Sys2Proof.Machine.execVceq t v errs s
  | .vclt t v errs => Sys2Proof.Machine.execVclt t v errs s
  | .vcle t v errs => Sys2Proof.Machine.execVcle t v errs s
  | .vsel t v errs => Sys2Proof.Machine.execVsel t v errs s
  | .vexp2 t v errs => Sys2Proof.Machine.execVexp2 t v errs s
  | .vlog2 t v errs => Sys2Proof.Machine.execVlog2 t v errs s
  | .vrcp t v errs => Sys2Proof.Machine.execVrcp t v errs s
  | .vrsqrt t v errs => Sys2Proof.Machine.execVrsqrt t v errs s
  | .vcvtf t v errs => Sys2Proof.Machine.execVcvtf t v errs s
  | .vcvti t v errs => Sys2Proof.Machine.execVcvti t v errs s
  | .vpkb t v errs => Sys2Proof.Machine.execVpkb t v errs s
  | .vupk t v errs => Sys2Proof.Machine.execVupk t v errs s
  | .vmxp t v errs => Sys2Proof.Machine.execVmxp t v errs s
  | .vrsum t v errs => Sys2Proof.Machine.execVrsum t v errs s
  | .vbcs t v errs => Sys2Proof.Machine.execVbcs t v errs s
  | .vmovs t v errs => Sys2Proof.Machine.execVmovs t v errs s
  | .vld t v errs => Sys2Proof.Machine.execVld t v errs s
  | .vst t v errs => Sys2Proof.Machine.execVst t v errs s
  | .vldw t v errs => Sys2Proof.Machine.execVldw t v errs s
  | .vstn t v errs => Sys2Proof.Machine.execVstn t v errs s
  | .blockStart t errs => Sys2Proof.Machine.execBlockStart t errs s
  | .rowDrain t upset errs => Sys2Proof.Machine.execRowDrain t upset errs s
  | .scoreboardRetire t k => Sys2Proof.Machine.execScoreboardRetire t k s
  | .tileWatchdogExpiry t k => Sys2Proof.Machine.execTileWatchdogExpiry t k s
  | .tileRun t entry => Sys2Proof.Machine.execTileRun t entry s
  | .tileStop t => Sys2Proof.Machine.execTileStop t s
  | .tileReset t => Sys2Proof.Machine.execTileReset t s
  | .bulkClear t base lenM1 => Sys2Proof.Machine.execBulkClear t base lenM1 s
  | .bulkClearDone t => Sys2Proof.Machine.execBulkClearDone t s
  | .conflictCounterClear t => Sys2Proof.Machine.execConflictCounterClear t s
  | .nearCacheInvalidate t => Sys2Proof.Machine.execNearCacheInvalidate t s
  | .scentClear t => Sys2Proof.Machine.execScentClear t s
  | .gatherTimeout t ix errs => Sys2Proof.Machine.execGatherTimeout t ix errs s
  | .spdCeWriteback t word => Sys2Proof.Machine.execSpdCeWriteback t word s
  | .spdScrub t word dec => Sys2Proof.Machine.execSpdScrub t word dec s
  | .meshReadRequest ix tr errs => Sys2Proof.Machine.execMeshReadRequest ix tr errs s
  | .meshWrite ix tr errs => Sys2Proof.Machine.execMeshWrite ix tr errs s
  | .tileWindowPacket ix tr errs => Sys2Proof.Machine.execTileWindowPacket ix tr errs s
  | .tileWinCloseDone t n => Sys2Proof.Machine.execTileWinCloseDone t n s
  | .winReopenDelayEnd ix => Sys2Proof.Machine.execWinReopenDelayEnd ix s
  | .load t n errs => Sys2Proof.Machine.execLoad t n errs s
  | .store t n errs => Sys2Proof.Machine.execStore t n errs s
  | .fold t n errs => Sys2Proof.Machine.execFold t n errs s
  | .pull t n errs => Sys2Proof.Machine.execPull t n errs s
  | .push t n errs => Sys2Proof.Machine.execPush t n errs s
  | .deposit t n errs trs => Sys2Proof.Machine.execDeposit t n errs trs s
  | .rfold t n errs trs => Sys2Proof.Machine.execRfold t n errs trs s
  | .signal t n errs trs => Sys2Proof.Machine.execSignal t n errs trs s
  | .call t n errs trs => Sys2Proof.Machine.execCall t n errs trs s
  | .setflag t n errs => Sys2Proof.Machine.execSetflag t n errs s
  | .fetchNop t n errs => Sys2Proof.Machine.execFetchNop t n errs s
  | .fetchReply ix tr errs => Sys2Proof.Machine.execFetchReply ix tr errs s
  | .scentProbeReply ix tr errs => Sys2Proof.Machine.execScentProbeReply ix tr errs s
  | .nearCacheFill ix tr errs => Sys2Proof.Machine.execNearCacheFill ix tr errs s
  | .sliceRead n ix tr here dec => Sys2Proof.Machine.execSliceRead n ix tr here dec s
  | .sliceWrite n ix tr here dec => Sys2Proof.Machine.execSliceWrite n ix tr here dec s
  | .sliceFold n ix tr here dec => Sys2Proof.Machine.execSliceFold n ix tr here dec s
  | .scentProbe n ix tr here => Sys2Proof.Machine.execScentProbe n ix tr here s
  | .hbmFillDone n ix here h b => Sys2Proof.Machine.execHbmFillDone n ix here h b s
  | .correctedSectorSend n ix => Sys2Proof.Machine.execCorrectedSectorSend n ix s
  | .mergeTimeout n ix => Sys2Proof.Machine.execMergeTimeout n ix s
  | .floorScrub n set way sector dec => Sys2Proof.Machine.execFloorScrub n set way sector dec s
  | .hbmScrub n line a b => Sys2Proof.Machine.execHbmScrub n line a b s
  | .commitDrain n met => Sys2Proof.Machine.execCommitDrain n met s
  | .sliceModeSet n mode splitWays => Sys2Proof.Machine.execSliceModeSet n mode splitWays s
  | .kennelEnable n range ctrl => Sys2Proof.Machine.execKennelEnable n range ctrl s
  | .floorHashWrite f g v => Sys2Proof.Machine.execFloorHashWrite f g v s
  | .floorPermWrite f w v => Sys2Proof.Machine.execFloorPermWrite f w v s
  | .floorTwinWrite f g v => Sys2Proof.Machine.execFloorTwinWrite f g v s
  | .portRouteWrite p n v => Sys2Proof.Machine.execPortRouteWrite p n v s
  | .bondScanStart d => Sys2Proof.Machine.execBondScanStart d s
  | .bondScanStep d b failed => Sys2Proof.Machine.execBondScanStep d b failed s
  | .commitInstant => Sys2Proof.Machine.execCommitInstant s
  | .discard f => Sys2Proof.Machine.execDiscard f s
  | .discardEnginesIdle => Sys2Proof.Machine.execDiscardEnginesIdle s
  | .dropWalkDone n k => Sys2Proof.Machine.execDropWalkDone n k s
  | .discardAcksComplete poison ue => Sys2Proof.Machine.execDiscardAcksComplete poison ue s
  | .replayLaunch poison => Sys2Proof.Machine.execReplayLaunch poison s
  | .abortAckTimeout => Sys2Proof.Machine.execAbortAckTimeout s
  | .linkFlitReceive l f fec => Sys2Proof.Machine.execLinkFlitReceive l f fec s
  | .nakRepeat l => Sys2Proof.Machine.execNakRepeat l s
  | .controlFlitSend l => Sys2Proof.Machine.execControlFlitSend l s
  | .linkEnable l => Sys2Proof.Machine.execLinkEnable l s
  | .linkDisable l => Sys2Proof.Machine.execLinkDisable l s
  | .linkRetrainRequest l => Sys2Proof.Machine.execLinkRetrainRequest l s
  | .linkTrainingDone l r => Sys2Proof.Machine.execLinkTrainingDone l r s
  | .linkLossOfLock l lanes => Sys2Proof.Machine.execLinkLossOfLock l lanes s
  | .linkRetrainDone l r => Sys2Proof.Machine.execLinkRetrainDone l r s
  | .retrainLimitExpiry l => Sys2Proof.Machine.execRetrainLimitExpiry l s
  | .noSignalTimeout l => Sys2Proof.Machine.execNoSignalTimeout l s
  | .autoRestore l => Sys2Proof.Machine.execAutoRestore l s
  | .linkCreditStall l vl => Sys2Proof.Machine.execLinkCreditStall l vl s
  | .portBridgeFail p => Sys2Proof.Machine.execPortBridgeFail p s
  | .fenceHoldEnd ix => Sys2Proof.Machine.execFenceHoldEnd ix s
  | .respTimeout ix => Sys2Proof.Machine.execRespTimeout ix s
  | .resendAfterLife ix => Sys2Proof.Machine.execResendAfterLife ix s
  | .signalRecordExpiry w ix => Sys2Proof.Machine.execSignalRecordExpiry w ix s
  | .depositArrival l p => Sys2Proof.Machine.execDepositArrival l p s
  | .foldArrival l p => Sys2Proof.Machine.execFoldArrival l p s
  | .signalArrival l p => Sys2Proof.Machine.execSignalArrival l p s
  | .callArrival l p => Sys2Proof.Machine.execCallArrival l p s
  | .callServe p met => Sys2Proof.Machine.execCallServe p met s
  | .respArrival l p => Sys2Proof.Machine.execRespArrival l p s
  | .noticeCommit l p => Sys2Proof.Machine.execNoticeCommit l p s
  | .noticeAbort l p => Sys2Proof.Machine.execNoticeAbort l p s
  | .noticeAbortAck l p => Sys2Proof.Machine.execNoticeAbortAck l p s
  | .noticeUnprotected l p => Sys2Proof.Machine.execNoticeUnprotected l p s
  | .noticeInDoubt l p => Sys2Proof.Machine.execNoticeInDoubt l p s
  | .join l p => Sys2Proof.Machine.execJoin l p s
  | .joinAck l p => Sys2Proof.Machine.execJoinAck l p s
  | .mgmtRetire l p => Sys2Proof.Machine.execMgmtRetire l p s
  | .retireAck l p => Sys2Proof.Machine.execRetireAck l p s
  | .packUp l p => Sys2Proof.Machine.execPackUp l p s
  | .packDown l p => Sys2Proof.Machine.execPackDown l p s
  | .fabricResetPacket l p => Sys2Proof.Machine.execFabricResetPacket l p s
  | .packTimeout tree => Sys2Proof.Machine.execPackTimeout tree s
  | .snapshotFreeze slot => Sys2Proof.Machine.execSnapshotFreeze slot s
  | .writeBackAck n ix copyB => Sys2Proof.Machine.execWriteBackAck n ix copyB s
  | .channelRetrainDone r => Sys2Proof.Machine.execChannelRetrainDone r s
  | .computeResetDone => Sys2Proof.Machine.execComputeResetDone s
  | .mwinClosed w => Sys2Proof.Machine.execMwinClosed w s
  | .inDoubtHoldEnd => Sys2Proof.Machine.execInDoubtHoldEnd s
  | .unsupportedSpdmRequest m => Sys2Proof.Machine.execUnsupportedSpdmRequest m s
  | .clockBondLoss d sector up => Sys2Proof.Machine.execClockBondLoss d sector up s

end Sys2Proof.Machine
end

