-- ==== Sys2Proof/Machine/Idle.lean ====
section
/-! DEFINITION. A nanosecond in which no command acts (DESIGN CHOICE, log entry 1): the timebase counts (R614), deck clocks give their tiles cycles
(R137, R565), cycles of guards, barks and fence holds are counted (R366, R405, R573), and what waits for an instant that the state holds goes on. -/

namespace Sys2Proof.Machine

/-- Tiles whose run bit has been set since their last reset: TILE_CYCLES goes on after run is cleared (R137). -/
def State.runTiles (s : State) : List Nat := (s.tiles.filter fun p => p.2.clocked).map (·.1)

/-- The deck clocks of one nanosecond: each die counts its frequency in MHz, and a cycle passes at every 1,000. -/
def State.deckClocks (s : State) : State :=
  let ph := (List.range 8).map fun d => s.time.phase.getD d 0 + s.dieMhz d
  let s := s.modTime fun x => { x with phase := ph.map (· % 1000) }
  s.runTiles.foldl (fun s t => if 1000 ≤ ph.getD (tileDie t) 0 then s.tileTick t else s) s

/-- Cycles of the channels of a stack under a cap, at 1.2 GHz (R318, R334). -/
def State.capCycles (s : State) : State :=
  let n := 6 * (s.now + 1) / 5 - 6 * s.now / 5
  ((List.range 32).filter fun h => decide (s.rd (F.hbmcTempThrottle h) ≠ 0)).foldl (fun s h =>
    (List.range 16).foldl (fun s c => s.bump Ev.hbmThrottleCyc (.slice (16 * h + c)) n) s) s

/-- What hardware and the Keeper count while nothing else acts. -/
def State.counts (s : State) : State :=
  let s := s.fab.fences.foldl (fun s f => s.bump Ev.routeFenceHold (.link f.link) 1) s
  let barks := ((List.range s.variant.links).filter fun l => decide (s.rd (barkFld l) ≠ 0)).length
    + ((List.range s.variant.portDies).filter fun p => decide (s.rd (barkPackFld p) ≠ 0)).length
  let s := if barks = 0 then s else s.bump Ev.barkCyc .module barks
  let s := s.capCycles.replayFull
  let s := if s.on F.thrmStatMuzzle then s.bump Ev.thrmMuzzleCyc .module 1 else s
  let s := if s.rd F.pwrmGuardAction = 0 then s else s.bump Ev.pwrGuardCyc .module 1
  let s := if s.rd F.timeStatState = tmHOLDOVER then s.wr F.timeStatHoldoverS ((s.now - s.time.holdAt) / secNs) else s
  if s.keep.restarts = [] then s else s.recentRestarts

/-- The timebase runs while the always-on partition has its power; its PLL is on the supply of regulator macro 64 (R614). -/
def State.clockRuns (s : State) : Bool := s.power.powered && decide (s.rd (F.reglStatState 64) ≠ 3)

/-- One nanosecond. -/
def State.idle (s : State) : State :=
  if !s.clockRuns then s
  else
    let s := (s.setReg R.timeNow (s.reg R.timeNow + 1)).deckClocks.counts
    if s.keep.restarting then s else s.retireStep

end Sys2Proof.Machine
end

