-- ==== Sys2Proof/Safety.lean ====
section
/-! DEFINITION. What the statements are written in: sound states, what an outcome leads to, what a change leaves alone, and the
places where a command has its turn (the slot of a bundle, a command of the host's queues). -/

namespace Sys2Proof.Machine

/-! ## Sound states -/

/-- Memory in its canonical form: addresses strictly rise, and no entry equals what an unlisted address reads as. -/
def Memory.wf (d : Nat → Byte) (m : List Host.Cell) : Bool := twf d m

/-- The registers are in their canonical form. -/
def State.regsOk (s : State) : Bool := twf (regReset s.variant) s.regs

/-- A pack header whose every field fits its place (R430). -/
def packHdrFits (h : PackHdr) : Bool :=
  decide (h.tree < 16 ∧ h.kind < 16 ∧ h.rop < 8 ∧ h.dtype < 4 ∧ h.countM1 < 8 ∧ h.child < 8 ∧ h.status < 16 ∧ h.opSeq < 2 ^ 16 ∧ h.members < 2 ^ 32 ∧ h.aux < 2 ^ 64)

/-- A management header whose every field fits its place (R538). -/
def mgmtHdrFits (h : MgmtHdr) : Bool := decide (h.kind < 2 ^ 8 ∧ h.link < 64 ∧ h.part < 2 ^ 16 ∧ h.status < 16)

/-- A packet whose every field fits its place (R396), with whole words of data, and a pack or management header exactly where its type has
one. -/
def packetFits (p : Packet) : Bool :=
  decide (p.typ < 16 ∧ p.collar < 16 ∧ p.dst < 2 ^ 14 ∧ p.src < 2 ^ 14 ∧ p.wkind < 2 ∧ p.winIdx < (if p.wkind = 1 then 4 else 1024) ∧ p.gen < 256 ∧ p.etype < 4) &&
  decide (p.offset < 2 ^ 40 ∧ p.lenM1 < 2 ^ 16 ∧ p.epoch < 2 ^ 32 ∧ p.tile < 2 ^ 15 ∧ p.birth < 2 ^ 16 ∧ p.data.length % 8 = 0) &&
  decide (p.reqTile < 2 ^ 15 ∧ p.reqEngine < 2 ∧ p.reqTag < 64 ∧ p.reqKind < 4 ∧ p.reqPort < 8 ∧ p.code < 16) &&
  (match p.pack with | some h => decide (p.typ = pPACK) && packHdrFits h | none => decide (p.typ ≠ pPACK)) &&
  (match p.mgmt with | some h => decide (p.typ = pMGMT) && mgmtHdrFits h | none => decide (p.typ ≠ pMGMT))

/-- Every memory and the registers are in their canonical form. -/
def State.sound (s : State) : Prop :=
  s.regsOk = true ∧ Memory.wf zeroByte s.host.mem = true ∧ Memory.wf zeroByte s.fw.bar4 = true ∧ Memory.wf zeroByte s.fw.eeprom = true ∧
    Memory.wf (hbmDefault s.hbmGen) s.hbm = true

/-! ## Outcomes -/

/-- An outcome is a next state with a property. -/
def leads (o : Host.Outcome State Fault Refusal) (p : State → Prop) : Prop := ∃ t, o = .next t ∧ p t

/-! ## What a change leaves alone -/

/-- Nothing but tile `t` outside its register page differs. -/
def onlyTile (u w : State) (t : Nat) : Prop := w = { u with tiles := w.tiles } ∧ ∀ k, k ≠ t → w.tile k = u.tile k

/-- Nothing but registers differs, and of them only those of the list. -/
def onlyRegs (u w : State) (as : List Nat) : Prop := w = { u with regs := w.regs } ∧ ∀ a, a ∉ as → w.reg a = u.reg a

/-- Nothing but tile `t` and the registers of the list differs. -/
def onlyTileRegs (u w : State) (t : Nat) (as : List Nat) : Prop :=
  w = { u with tiles := w.tiles, regs := w.regs } ∧ (∀ k, k ≠ t → w.tile k = u.tile k) ∧ ∀ a, a ∉ as → w.reg a = u.reg a

/-- A first-event record takes an event (R691): one that was clear holds these fields, one in use gets only its `multi` bit. -/
def recorded (u z : State) (valid multi : Fld) (fs : List (Fld × Nat)) : Prop :=
  z.on valid = true ∧ (u.on valid = false → z.on multi = u.on multi ∧ ∀ p ∈ fs, z.rd p.1 = p.2 % 2 ^ p.1.w) ∧
    (u.on valid = true → z.on multi = true ∧ ∀ p ∈ fs, z.rd p.1 = u.rd p.1)

/-- HOSTW_ERR takes an abnormal access (R483, R494). -/
def hostErred (u z : State) (kind bar off : Nat) : Prop :=
  recorded u z F.hostwErrValid F.hostwErrMulti [(F.hostwErrKind, kind), (F.hostwErrBar, bar), (F.hostwErrOffset, off)]

/-- A time sample of the source in use is taken (R618 to R620): the offset, an adjustment within 50 ppm in units of 1/256 ppb, the state, and
the one step of Free-run, forward and only while no job is open. -/
def sampled (u z : State) (src : Nat) (theta : Int) : Prop :=
  z.rd F.timeOffsetTheta = theta32 theta ∧ z.rd F.timeStatSource = src ∧
    (∃ a : Int, -12800000 ≤ a ∧ a ≤ 12800000 ∧ (z.rd F.timeAdjFreq : Int) = a % 2 ^ 32) ∧
    z.rd F.timeStatState =
      (if u.rd F.timeStatState = tmFREE ∨ u.rd F.timeStatState = tmHOLDOVER ∨ u.rd F.timeStatSource ≠ src then tmACQUIRING
       else if u.rd F.timeStatState = tmACQUIRING then (if theta.natAbs < 1000 ∧ 15 ≤ u.time.run then tmLOCKED else tmACQUIRING)
       else if 10000 < theta.natAbs then tmACQUIRING else tmLOCKED) ∧
    z.now = (if u.rd F.timeStatState = tmFREE ∧ u.job = none ∧ 0 < theta then (u.now + theta.toNat) % 2 ^ 64 else u.now) ∧
    (u.rd F.timeStatState = tmFREE → u.job = none → 0 < theta → z.on F.timeStatStepped = true)

/-- A time sample of a source that is not in use changes the monitored offset, and nothing else of the timebase (R617). -/
def monitored (u z : State) (theta : Int) : Prop :=
  z.rd F.timeOffsetThetaMon = theta32 theta ∧ z.rd F.timeOffsetTheta = u.rd F.timeOffsetTheta ∧ z.reg R.timeStat = u.reg R.timeStat ∧
    z.reg R.timeAdj = u.reg R.timeAdj ∧ z.now = u.now

/-- The time packets of a tree leave for every child with this module's time (R442). -/
def State.timeSent (u : State) (t : Nat) : State :=
  (u.kids t).foldl (fun w k => match u.kid t k with
    | some m => w.launchPkt (packPkt { tree := t, kind := kTIME, up := false, rop := 0, dtype := 0, countM1 := 0, child := 0, status := 0,
                                       opSeq := (u.tree t).opSeq, members := 0, aux := u.now } m [])
    | none => w) u

/-! ## Turns: where a command acts -/

/-- The state in which slot `k` of the bundle at a tile's pc executes, with the sequence descriptor and the chain head that its bundle
read: the slot is the next of its bundle, `is` accepts it, and either the bundle has issued or it issues now (R104, R120, R700). -/
def State.slotTurn (s : State) (t k : Nat) (errs : List SpdErr) (is : Bundle → Bool) :
    Option (State × Option (List W64) × Option (List W64)) :=
  let x := s.tile t
  let b := s.bundle t
  if x.nextSlot b = some k ∧ is b = true then
    if x.done ≠ 0 then some (s, none, x.headWords)
    else if !s.canIssue t then none
    else
      match s.fetchFault t errs, decodeFaults x b with
      | (s1, none), [] =>
        match s1.verdict t b errs with
        | (s2, .go sq hd) => some (s2.modTile t fun x => x.issued b hd, sq, hd)
        | _ => none
      | _, _ => none
  else none

/-- The lanes of vector register `vd` that `sel` selects take the new values; every other lane of every vector register keeps its own. -/
def lanesSet (u w : State) (t vd : Nat) (sel : Nat → Bool) (new : Nat → W32) : Prop :=
  ∀ r l, l < 64 → (w.tile t).lane r l = if r = vd ∧ sel l = true then new l else (u.tile t).lane r l

/-- TILE_FP_FLAGS takes on the flags of the lanes that `sel` selects and keeps those it has (R89). -/
def flagsRaised (u w : State) (t : Nat) (sel : Nat → Bool) (fl : Nat → Nat) : Prop :=
  ∀ i, (w.reg (R.tileFpFlags t)).getLsbD i =
    ((u.reg (R.tileFpFlags t)).getLsbD i || (decide (i < 6) && (List.range 64).any fun l => sel l && (fl l).testBit i))

/-- What a lane operation does: lanes of `vd`, flags, and nothing else. -/
def laneOp (u w : State) (t vd : Nat) (sel : Nat → Bool) (f : Nat → LRes) : Prop :=
  onlyTileRegs u w t [R.tileFpFlags t] ∧ w.tile t = { u.tile t with vregs := (w.tile t).vregs } ∧
    lanesSet u w t vd sel (fun l => (f l).v) ∧ flagsRaised u w t sel (fun l => (f l).fl)

/-- The tree's value at node `i`, `k` levels above the lanes, with the flags of the additions under it; a lane that takes no part is absent
(R704). -/
def treeSum (add : W32 → W32 → LRes) (lane : Nat → Option W32) : Nat → Nat → Option W32 × Nat
  | 0, i => (lane i, 0)
  | k + 1, i =>
    let a := treeSum add lane k (2 * i)
    let b := treeSum add lane k (2 * i + 1)
    match a.1, b.1 with
    | some p, some q => (some (add p q).v, (add p q).fl ||| (a.2 ||| b.2))
    | some p, none => (some p, a.2 ||| b.2)
    | none, q => (q, a.2 ||| b.2)

/-- The byte that a read of one byte of a tile's scratchpad returns (R138, R150, R151). -/
def State.spdByte (s : State) (t a : Nat) : Byte := ((s.spdRead t a 1 0 []).2.headD ⟨0, false⟩).b

/-- The next descriptor of an engine's chain begins, its op one of `ops`: the state with the descriptor open, the chain as it was, the
descriptor's words and its target tile (R185, R196, R198). -/
def State.descTurn (s : State) (t n : Nat) (ops : List Nat) (errs : List SpdErr) : Option (State × Chain × List W64 × Nat) :=
  match s.chain t n with
  | none => none
  | some c =>
    let a := c.head + 64 * (1 + c.next)
    let r := s.spdRead t a 64 0 errs
    let d := leWords 8 (r.2.map (·.b))
    if c.nDesc ≤ c.next ∨ c.status ≠ 0 ∨ c.halted ∨ c.stopped ∨ 1 < n then none
    else if !ops.contains (dOp d) || (dWait d && !c.descs.isEmpty) then none
    else
      if anyPois r.2 || r.1.descBad d || (r.1.nearRange t d).isSome || !c.extentsOk d then none
      else
        let open_ : State := r.1.openDesc t n c.next d
        match (if dOp d = 4 then r.1.target t (dSrc d) else if dOp d = 5 then r.1.target t (dDst d) else .inl 0) with
        | .inl tgt => some (open_, c, d, tgt)
        | .inr _ => none

/-- Requests of an engine were added after the others: one for each block, with these kinds. -/
def requested (u w : State) (t n serial idx : Nat) (blocks : List (Nat × List Seg)) (kind : Nat → ReqKind) : Prop :=
  w.nextReq = u.nextReq + blocks.length ∧ w.reqs.length = u.reqs.length + blocks.length ∧
    (∀ k, k < u.reqs.length → w.reqs[k]? = u.reqs[k]?) ∧
    ∀ k b, blocks[k]? = some b → ∃ r, w.reqs[u.reqs.length + k]? = some r ∧ r.id = u.nextReq + k ∧ r.kind = kind k ∧
      r.addr = b.1 ∧ r.segs = b.2 ∧ r.src = .tile t n ∧ r.chain = serial ∧ r.desc = idx

/-- A request is served at slice `n`, `here` having entered the input before it: it stands there with one of these kinds, the arbiter's order
has it next, and its path delivers it. The state that holds it as received, the request, and its place (R226, R258, R259, R358). -/
def State.sliceTurn (s : State) (n ix : Nat) (kinds : List ReqKind) (tr : Transit) (here : List Nat) : Option (State × Req × Loc) :=
  match (s.enter n (here ++ [ix])).atSlice n ix kinds with
  | none => none
  | some (r, p) => match (s.enter n (here ++ [ix])).downShaft tr r with
    | (u, some q) => some (u.setReq q, q, p)
    | (_, none) => none

/-- What follows the slice's work `x` on a request `q`: unless it is still at the input, its source has had its turn and the leash of its collar
the bytes (R358, R360), and abort walks that it held up begin (R514). -/
def State.sliceLeft (s x : State) (n ix : Nat) (here : List Nat) (q : Req) : State :=
  match (s.enter n (here ++ [ix])).req ix with
  | some r =>
    (if x.stillThere ix then x
      else x.serve (sliceArb n) (.slice n) q.collar ((s.enter n (here ++ [ix])).reqLevel n r) q.bytes q.src).startDrops
  | none => x

/-- A fill ends at its channel, `here` having reached the controller before it: it is the fill at `ix`, and the arbiter's order has it next
(R259, R358). The state in which it ends, and the fill. -/
def State.fillTurn (s : State) (n ix : Nat) (here : List Nat) (h : HbmIn) : Option (State × Fill) :=
  match ((s.enterFills n (here ++ [ix])).slice n).fills[ix]? with
  | some f => if (s.enterFills n (here ++ [ix])).fillNext n f h then some (s.enterFills n (here ++ [ix]), f) else none
  | none => none

/-- A packet has its turn on a link: it is the next of its link and pool, alive, and for this module as the port die that receives it knows
it, which is configured (R401, R403, R416, R538). The state with the packet taken from its buffers. -/
def State.packetTurn (s : State) (l : Nat) (p : Packet) : Option State :=
  match s.takeIn l p with
  | none => none
  | some v =>
    let die := if l < 64 then l / 8 else l - 64
    if v.expired p = true ∨ (p.typ ≠ pMGMT ∧ (v.on (F.portSelfValid die) = false ∨ p.dst ≠ v.selfId die)) then none else some v

/-- A host command starts and passes every check before its own (R463, R466, R468, R469, R519, R532): the state in which it acts. -/
def State.cmdTurn (s : State) (e : Entry) (sc : Scope) (g : Gate) (used : List (Nat × List (Nat × Nat))) : Option State :=
  if s.cmdReady e = true ∧ (s.cmdStart e).cmdCheck e sc g used = none then some (s.cmdStart e) else none

/-- A bring-up step does its work: it runs, or its GO or its command starts it now, and from S3 on the Keeper is there (R530, R531; log entry
57). The state in which it does. -/
def State.stepTurn (s : State) (k : Nat) (src : StepSrc) : Option State :=
  if 3 ≤ k ∧ s.keep.restarting = true then none
  else if s.boot.running = true then (if s.rd F.bootStatusStep = k then some s else none)
  else
    let t := match src with
      | .boot => if s.host.linkUp = true then (s.wr F.bootStepStep k).stepGo k else s
      | .cmd e => if parm e 1 % 16 = k then s.bringupCmd e else s
    if t.boot.running = true then some t else none

/-! ## Commands of the host's queues -/

/-- First word of a command's completion entry, as the state before it has the queue (R464). -/
def State.compWord (v : State) (e : Entry) (status : Nat) : Nat :=
  let x := v.queue e.sq
  e.cmdId % 2 ^ 16 + status % 2 ^ 16 * 2 ^ 16 + x.head % 2 ^ 12 * 2 ^ 32 + e.sq % 16 * 2 ^ 44 + b2n x.phase * 2 ^ 63

/-- The completion ring of a command's queue takes an entry now (R465, R521). -/
def State.ringOpen (v : State) (e : Entry) : Prop :=
  (v.queue e.sq).held = [] ∧ v.cqRoom e.sq = true ∧ v.keep.restarting = false

/-- From `v` on a command completes, and nothing else happens (R464, R465, R475, R487): its queue has one command less in progress and its
busy bit follows; while the queue runs, the entry goes to the ring and the vector is raised unless no_irq is set, or the completion is held
where the ring takes none. -/
def posted (v z : State) (e : Entry) (status result : Nat) : Prop :=
  let x := v.queue e.sq
  let y := z.queue e.sq
  z = { v with regs := z.regs, host := z.host } ∧
    z.regs = (v.wr (F.cmdqQcfgBusy e.sq) (if 1 < x.out then 1 else 0)).regs ∧
    z.host = { v.host with queues := z.host.queues, mem := z.host.mem, msix := z.host.msix } ∧
    (∀ q, q ≠ e.sq → z.queue q = v.queue q) ∧ y.out = x.out - 1 ∧ y.head = x.head ∧
    (x.run = true → v.ringOpen e →
      z.host.mem = msets v.host.mem (4096 * v.rd (F.cmdqCqBaseAddr e.sq) + 16 * x.tail) (leBytes 8 (v.compWord e status) ++ leBytes 8 (result % 2 ^ 64)) ∧
      y.tail = (x.tail + 1) % v.ringSize e.sq ∧ y.held = [] ∧ y.phase = (if (x.tail + 1) % v.ringSize e.sq = 0 then !x.phase else x.phase) ∧
      ∀ k, tget (fun _ => 0) z.host.msix k =
        tget (fun _ => 0) v.host.msix k + (if e.noIrq = false ∧ k = v.rd (F.cmdqQcfgVector e.sq) % 64 then 1 else 0)) ∧
    (x.run = true → ¬ v.ringOpen e →
      y.held = x.held ++ [⟨e.cmdId, status, BitVec.ofNat 64 result, false, !e.noIrq⟩] ∧ y.tail = x.tail ∧ y.phase = x.phase ∧
      z.host.mem = v.host.mem ∧ z.host.msix = v.host.msix)

/-- From `v` on a command waits, and nothing else happens. -/
def waits (v z : State) (e : Entry) (w : Wait) : Prop := z = { v with host := { v.host with waits := v.host.waits ++ [⟨e, w⟩] } }

/-- From `v` on the running step `k` ends with a result, and nothing else happens (R530, R550): 1 and 2 are success, after which the step is
done; a BRINGUP_STEP completes with the result. -/
def stepEnded (v z : State) (k result : Nat) : Prop :=
  ∃ w : State, w = { v with regs := w.regs, boot := { v.boot with running := false, src := none } } ∧ (∀ a, a ≠ R.bootStatus → w.reg a = v.reg a) ∧
    w.rd F.bootStatusStep = k ∧ w.rd F.bootStatusState = (if result ≤ 2 then 2 else 3) ∧ w.rd F.bootStatusResult = result % 256 ∧
    (result ≤ 2 → w.rd F.bootStatusDoneUpto = k ∧ w.on F.bootStatusDoneValid = true ∧ w.on F.bootStatusReady = decide (k = 12)) ∧
    (2 < result → w.rd F.bootStatusDoneUpto = v.rd F.bootStatusDoneUpto ∧ w.rd F.bootStatusDoneValid = v.rd F.bootStatusDoneValid ∧
      w.rd F.bootStatusReady = v.rd F.bootStatusReady) ∧
    ((∀ e, v.boot.src = some (.cmd e) → e.sq < 16 → posted w z e sOK result) ∧
      ((∀ e, v.boot.src = some (.cmd e) → 16 ≤ e.sq) → z = w))

/-- The commands that R470 marks admin, each with its entry. -/
def adminCmds (e : Entry) : List Instr :=
  [.sessionOpen e, .sessionClose e, .exchDeclare e, .exchDir e, .keepDeclare e, .keepRelease e, .mwinOpen e, .mwinClose e, .routeSet e, .treeSet e,
   .treeDisable e, .snapshot e, .fabricReset e, .retire e, .leashSet e, .collarCfg e, .pwrPolicy e, .pwrWakeTol e, .thermalCfg e, .timeCfg e,
   .telemSnapshot e, .counterCfg e, .logRead e, .eventMask e, .measureRead e, .identityRead e, .fwStage e, .fwActivate e]
    ++ (if bf (parm e 1) 4 4 = kBARRIER then [.packOpBarrier e] else []) ++ (if bf (parm e 1) 4 4 = kREDUCTION then [.packOpReduction e] else [])
    ++ (if bf (parm e 1) 4 4 = kBROADCAST then [.packOpBroadcast e] else []) ++ (if bf (parm e 1) 0 2 = 0 then [.computeResetLocal e] else [])
    ++ (if bf (parm e 1) 0 2 = 1 then [.linkReset e] else []) ++ (if bf (parm e 1) 0 1 = 0 then [.retrainLink e] else [])
    ++ (if bf (parm e 1) 0 1 = 1 then [.retrainChannel e] else [])

/-- The job commands of R470, each with the parameter bits that it uses. -/
def jobCmds (e : Entry) : List (Instr × List (Nat × List (Nat × Nat))) :=
  [(.jobClose e, []), (.stageLoad e, [(1, [(3, 61)]), (2, [(0, 32)]), (3, [(0, 5), (8, 9), (17, 3)]), (4, [(0, 32)])]),
   (.tensorDecl e, [(1, [(0, 64)]), (2, [(0, 7)])]), (.place e, [(1, [(3, 61)]), (2, [(0, 8)]), (3, [(3, 61)])]),
   (.placeQuery e, [(1, [(3, 61)]), (2, [(0, 32)])]), (.passLaunch e, [(1, [(0, 32)]), (2, [(0, 5)])]), (.passCommit e, [(1, [(0, 32)]), (2, [(0, 5)])]),
   (.kennelSet e, [(1, [(0, 16)]), (2, [(0, 7)])]),
   (.tilewinOpen e, [(1, [(0, 18)]), (2, [(0, 18)]), (3, [(0, 10)]), (4, [(0, 14), (16, 14)]), (5, [(0, 2)])]), (.tilewinClose e, [(1, [(0, 18)])])]

/-- The rows that an opcode of R470 starts, with the entry fetched; PACK_OP, PARTITION_RESET and RETRAIN have one for each kind. -/
def opcodeRows (e : Entry) : List (Nat × Instr) :=
  [(0x00, .nop e), (0x01, .sessionOpen e), (0x02, .sessionClose e), (0x03, .jobOpen e), (0x04, .jobClose e), (0x05, .stageLoad e), (0x06, .tensorDecl e),
   (0x07, .place e), (0x08, .placeQuery e), (0x09, .passLaunch e), (0x0A, .passCommit e), (0x10, .exchDeclare e), (0x11, .exchDir e),
   (0x12, .keepDeclare e), (0x13, .keepRelease e), (0x14, .mwinOpen e), (0x15, .mwinClose e), (0x16, .tilewinOpen e), (0x17, .tilewinClose e),
   (0x18, .routeSet e), (0x19, .treeSet e), (0x1A, .treeDisable e), (0x1C, .snapshot e), (0x1D, .fabricReset e), (0x22, .retire e), (0x28, .leashSet e),
   (0x29, .kennelSet e), (0x2A, .collarCfg e), (0x30, .pwrPolicy e), (0x31, .pwrWakeTol e), (0x32, .thermalCfg e), (0x33, .timeCfg e),
   (0x38, .telemSnapshot e), (0x39, .counterCfg e), (0x3A, .logRead e), (0x3B, .eventMask e), (0x40, .measureRead e), (0x41, .identityRead e),
   (0x48, .fwStage e), (0x49, .fwActivate e)]
    ++ (if bf (parm e 1) 4 4 = kBARRIER then [(0x1B, .packOpBarrier e)] else []) ++ (if bf (parm e 1) 4 4 = kREDUCTION then [(0x1B, .packOpReduction e)] else [])
    ++ (if bf (parm e 1) 4 4 = kBROADCAST then [(0x1B, .packOpBroadcast e)] else []) ++ (if bf (parm e 1) 0 2 = 0 then [(0x21, .computeResetLocal e)] else [])
    ++ (if bf (parm e 1) 0 2 = 1 then [(0x21, .linkReset e)] else []) ++ (if bf (parm e 1) 0 1 = 0 then [(0x23, .retrainLink e)] else [])
    ++ (if bf (parm e 1) 0 1 = 1 then [(0x23, .retrainChannel e)] else [])

/-- The blocks of 256 bytes that an accepted packet writes, with its data as the slices receive it (R397, R408). -/
def State.landBlocks (s : State) (p : Packet) : List (Nat × List Seg) × List PB :=
  let data := if p.typ = pFOLD ∧ p.etype = 1 then xWiden (pktData p) else pktData p
  (Sys2Proof.Machine.combine 256 (cutRun 256 (data.length / 256 + 2) ((s.mwinRange p.winIdx).1 + p.offset) 0 data.length), data)

/-- A packet accepted over link `l` is landing: it is recorded, and one request of this kind for each of its blocks was added after the others. -/
def landed (u w : State) (l : Nat) (p : Packet) (kind : ReqKind) (epoch : Nat) : Prop :=
  let b := u.landBlocks p
  w.fab.landings = u.fab.landings ++ [⟨u.nextReq, l, p, b.1.length, false, 0⟩] ∧ w.reqs.length = u.reqs.length + b.1.length ∧
    (∀ k, k < u.reqs.length → w.reqs[k]? = u.reqs[k]?) ∧
    ∀ k x, b.1[k]? = some x → ∃ r, w.reqs[u.reqs.length + k]? = some r ∧ r.id = u.nextReq + 1 + k ∧ r.kind = kind ∧ r.src = .peer p.src ∧
      r.addr = x.1 ∧ r.segs = x.2 ∧ r.data = segBytesOf b.2 x.2 ∧ r.epoch = epoch ∧ r.chain = u.nextReq ∧ r.etype = p.etype

/-- The tile whose bundle or array a command executes, for the commands that a tile executes by itself. -/
def slotTile : Instr → Option Nat
  | .matrixSequenceStart t _ | .chainStart t _ | .fence t _ | .add t _ _ _ _ | .sub t _ _ _ _ | .and t _ _ _ _ | .or t _ _ _ _
  | .xor t _ _ _ _ | .shl t _ _ _ _ | .shr t _ _ _ _ | .sra t _ _ _ _ | .mul t _ _ _ _ | .slt t _ _ _ _ | .sltu t _ _ _ _
  | .addi t _ _ _ _ | .ori t _ _ _ _ | .lui t _ _ _ | .lw t _ _ _ _ | .sw t _ _ _ _ | .brz t _ _ _ | .brnz t _ _ _ | .jmp t _ _
  | .loop t _ _ _ | .wait t _ _ | .csrr t _ _ _ | .csrw t _ _ _ | .vadd t _ _ | .vsub t _ _ | .vmul t _ _ | .vfma t _ _
  | .vmin t _ _ | .vmax t _ _ | .vand t _ _ | .vor t _ _ | .vxor t _ _ | .vshl t _ _ | .vshr t _ _ | .vsra t _ _ | .vceq t _ _
  | .vclt t _ _ | .vcle t _ _ | .vsel t _ _ | .vexp2 t _ _ | .vlog2 t _ _ | .vrcp t _ _ | .vrsqrt t _ _ | .vcvtf t _ _
  | .vcvti t _ _ | .vpkb t _ _ | .vupk t _ _ | .vmxp t _ _ | .vrsum t _ _ | .vbcs t _ _ | .vmovs t _ _ | .vld t _ _ | .vst t _ _
  | .vldw t _ _ | .vstn t _ _ | .blockStart t _ | .rowDrain t _ _ => some t
  | _ => none

end Sys2Proof.Machine
end

