-- ==== Sys2Proof/Certificates/Slice0/Obligations.lean ====
section
/-! DEFINITION. The statements for the provers. Every statement about a command has as its conclusion the next state that the command
leads to, or what that state holds. -/

open Sys2Proof Sys2Proof.Machine

/-- In its turn, each of ADD, SUB, AND, OR, XOR, SHL, SHR, SRA, MUL, SLT, SLTU, ADDI, ORI and LUI completes: sd takes the result
of R109 modulo 2^32, every other scalar register keeps its value (a write of s0 is discarded), nothing else of the module
changes before the slot ends. (R109, R108, R104) -/
def Obligations.ScalarArithmetic : Prop :=
  ∀ (s u : State) (t : Nat) (sd sa sb : Reg) (imm : Imm) (errs : List SpdErr) (sq hd : Option (List W64)),
    let a := (u.tile t).sreg sa.toNat
    let b := (u.tile t).sreg sb.toNat
    let turn (is : Bundle → Bool) : Prop := s.slotTurn t 3 errs is = some (u, sq, hd)
    let gives (o : Host.Outcome State Fault Refusal) (v : Int) : Prop :=
      ∃ w : State, o = .next (w.slotDone t 3 (s.bundle t)) ∧ onlyTile u w t ∧
        w.tile t = { u.tile t with sregs := (w.tile t).sregs } ∧
        ∀ n, (w.tile t).sreg n = if n = sd.toNat ∧ n ≠ 0 then BitVec.ofInt 32 v else (u.tile t).sreg n
    (turn (isRRR 1 sd sa sb) → gives (exec (.add t sd sa sb errs) s) (a.toNat + b.toNat)) ∧
    (turn (isRRR 2 sd sa sb) → gives (exec (.sub t sd sa sb errs) s) (a.toInt - b.toInt)) ∧
    (turn (isRRR 3 sd sa sb) → gives (exec (.and t sd sa sb errs) s) (a.toNat &&& b.toNat : Nat)) ∧
    (turn (isRRR 4 sd sa sb) → gives (exec (.or t sd sa sb errs) s) (a.toNat ||| b.toNat : Nat)) ∧
    (turn (isRRR 5 sd sa sb) → gives (exec (.xor t sd sa sb errs) s) (a.toNat ^^^ b.toNat : Nat)) ∧
    (turn (isRRR 6 sd sa sb) → gives (exec (.shl t sd sa sb errs) s) (a.toNat * 2 ^ (b.toNat % 32))) ∧
    (turn (isRRR 7 sd sa sb) → gives (exec (.shr t sd sa sb errs) s) (a.toNat / 2 ^ (b.toNat % 32) : Nat)) ∧
    (turn (isRRR 8 sd sa sb) → gives (exec (.sra t sd sa sb errs) s) (a.toInt / 2 ^ (b.toNat % 32))) ∧
    (turn (isRRR 9 sd sa sb) → gives (exec (.mul t sd sa sb errs) s) (a.toInt * b.toInt)) ∧
    (turn (isRRR 10 sd sa sb) → gives (exec (.slt t sd sa sb errs) s) (if a.toInt < b.toInt then 1 else 0)) ∧
    (turn (isRRR 11 sd sa sb) → gives (exec (.sltu t sd sa sb errs) s) (if a.toNat < b.toNat then 1 else 0)) ∧
    (turn (isRRI 12 sd sa imm) → gives (exec (.addi t sd sa imm errs) s) (a.toInt + imm.toInt)) ∧
    (turn (isRRI 13 sd sa imm) → gives (exec (.ori t sd sa imm errs) s) (a.toNat ||| imm.toNat : Nat)) ∧
    (turn (fun b => decide (b.sOp = 14) && decide (b.sd = sd.toNat) && decide (b.imm = imm.toNat)) →
      gives (exec (.lui t sd imm errs) s) (imm.toNat * 2 ^ 14))

/-- In its turn LW completes: with no poisoned byte, sd takes the four bytes at sa + sext(imm), the lowest address in its lowest
bits; a poisoned byte makes the tile take a fault with cause POISON in slot 3 in its place. LW changes no byte of any
scratchpad. SW completes: the four bytes at sa + sext(imm) of this tile's scratchpad are those of sb, and every other byte of
every scratchpad reads as before. (R109, R150, R151, R173) -/
def Obligations.ScalarMemory : Prop :=
  ∀ (s u : State) (t : Nat) (sd sa sb : Reg) (imm : Imm) (errs : List SpdErr) (sq hd : Option (List W64)),
    let a := ((u.tile t).sreg sa.toNat + imm.signExtend 32).toNat
    let r := u.spdRead t a 4 0 errs
    (s.slotTurn t 3 errs (isRRI 15 sd sa imm) = some (u, sq, hd) →
      (anyPois r.2 = false → ∃ w : State, exec (.lw t sd sa imm errs) s = .next (w.slotDone t 3 (s.bundle t)) ∧
        (∀ n, (w.tile t).sreg n = if n = sd.toNat ∧ n ≠ 0 then
            BitVec.ofNat 32 (leNat [u.spdByte t a, u.spdByte t (a + 1), u.spdByte t (a + 2), u.spdByte t (a + 3)])
          else (r.1.tile t).sreg n) ∧
        ∀ j k, w.spdByte j k = u.spdByte j k) ∧
      (anyPois r.2 = true → exec (.lw t sd sa imm errs) s =
        .next ((r.1.tileFault t ⟨cPOISON, 3, a / 8 * 8⟩ 0 (r.1.tile t).pc).slotDone t 3 (s.bundle t)))) ∧
    (s.slotTurn t 3 errs (fun b => decide (b.sOp = 16) && decide (b.sa = sa.toNat) && decide (b.sb = sb.toNat)
        && decide (b.imm = imm.toNat)) = some (u, sq, hd) →
      ∃ w : State, exec (.sw t sa sb imm errs) s = .next (w.slotDone t 3 (s.bundle t)) ∧
        ∀ j k, w.spdByte j k = if j = t ∧ a ≤ k ∧ k < a + 4 then
          BitVec.ofNat 8 (((u.tile t).sreg sb.toNat).toNat / 256 ^ (k - a)) else u.spdByte j k)

/-- In its turn each completes. BRZ, BRNZ and JMP note the target sext(imm) bundles from this one when their condition holds and
then count two ISSUE_BRANCH cycles, and else change nothing; LOOP and WAIT change nothing before the slot ends (a loop opens
when its bundle ends). CSRR gives sd the 32 bits of the tile register at imm. CSRW writes TILE_FP_CTRL, clears bits of
TILE_FP_FLAGS written as 1, or loads TILE_SR_STATE, and no other register. END marks the program as ended: the tile enters Done
at once if it holds no scoreboard entry, and the pass ends if it was the last. (R109, R110, R111, R113, R126) -/
def Obligations.ScalarControl : Prop :=
  ∀ (s u : State) (t : Nat) (sd sa : Reg) (imm : Imm) (errs : List SpdErr) (sq hd : Option (List W64)),
    let x := u.tile t
    let b := s.bundle t
    let turn (op : Nat) : Prop := s.slotTurn t 3 errs (fun b => isI op imm b && decide (b.sa = sa.toNat)) = some (u, sq, hd)
    let taken : State := (u.setTile t { x with branch := some ((x.pc : Int) + 16 * imm.toInt).toNat }).bump Ev.issueBranch (.tile t) 2
    let gives (o : Host.Outcome State Fault Refusal) (p : State → Prop) : Prop := ∃ w : State, o = .next (w.slotDone t 3 b) ∧ p w
    (turn 17 → gives (exec (.brz t sa imm errs) s) fun w =>
      if x.sreg sa.toNat = 0 then w = taken else w = u) ∧
    (turn 18 → gives (exec (.brnz t sa imm errs) s) fun w =>
      if x.sreg sa.toNat ≠ 0 then w = taken else w = u) ∧
    (s.slotTurn t 3 errs (isI 19 imm) = some (u, sq, hd) → gives (exec (.jmp t imm errs) s) fun w => w = taken) ∧
    (turn 20 → gives (exec (.loop t sa imm errs) s) fun w => w = u) ∧
    (s.slotTurn t 3 errs (isI 21 imm) = some (u, sq, hd) → gives (exec (.wait t imm errs) s) fun w => w = u) ∧
    (s.slotTurn t 3 errs (fun b => isI 22 imm b && decide (b.sd = sd.toNat)) = some (u, sq, hd) →
      gives (exec (.csrr t sd imm errs) s) fun w => onlyTile u w t ∧
        (∀ n, (w.tile t).sreg n = if n = sd.toNat ∧ n ≠ 0 then (u.csrRead t imm.toNat).1 else x.sreg n) ∧
        (imm.toNat % 4 = 0 → imm.toNat ≠ 0x34 → (u.csrRead t imm.toNat).1 =
          BitVec.ofNat 32 ((u.tileReg t (imm.toNat / 8 * 8)).toNat / 2 ^ (8 * (imm.toNat % 8))))) ∧
    (turn 23 → gives (exec (.csrw t sa imm errs) s) fun w =>
      (imm.toNat = 0x120 → onlyRegs u w [R.tileFpCtrl t] ∧ (w.reg (R.tileFpCtrl t)).toNat = (x.sreg sa.toNat).toNat % 8) ∧
      (imm.toNat = 0x128 → onlyRegs u w [R.tileFpFlags t] ∧
        ∀ i, (w.reg (R.tileFpFlags t)).getLsbD i = ((u.reg (R.tileFpFlags t)).getLsbD i && !(decide (i < 6) && (x.sreg sa.toNat).getLsbD i))) ∧
      (imm.toNat = 0x130 → onlyRegs u w [R.tileSrState t] ∧
        (w.reg (R.tileSrState t)).toNat = if x.sreg sa.toNat = 0 then 0x9E3779B9 else (x.sreg sa.toNat).toNat)) ∧
    (s.slotTurn t 3 errs (fun b => decide (b.sOp = 24)) = some (u, sq, hd) →
      let w := (u.setTile t { x with ended := true }).slotDone t 3 b
      exec (.end_ t errs) s = .next ((w.tryDone t).passEnd) ∧
      ((w.tile t).sb = [] → w.running t = true → (w.tile t).ended = true →
        (w.tryDone t).rd (F.tileStatState t) = stDone ∧ onlyRegs w (w.tryDone t) [(F.tileStatState t).addr]) ∧
      ((w.tile t).sb ≠ [] → w.tryDone t = w))

/-- After its last slot, ADD's bundle (and with it every bundle of a tile that does not fault) is complete: no slot of it counts
as executed any more, the pc is the branch target if one was taken, else the next bundle, unless it ends a loop body with
iterations left (its first bundle) or the scalar slot is a LOOP with count 0 (the bundle after the body); a LOOP with a count
opens a level of imm[9:0] bundles. Before its last slot only the slot's mark changes. (R104, R109, R110, R111) -/
def Obligations.BundleEnd : Prop :=
  ∀ (s u : State) (t : Nat) (sd sa sb : Reg) (errs : List SpdErr) (sq hd : Option (List W64)),
    s.slotTurn t 3 errs (isRRR 1 sd sa sb) = some (u, sq, hd) →
    let b := s.bundle t
    let w := u.setS t sd.toNat ((u.tile t).sreg sa.toNat + (u.tile t).sreg sb.toNat)
    let marked := { w.tile t with done := (w.tile t).done + 8 }
    ∃ v : State, exec (.add t sd sa sb errs) s = .next v ∧ onlyTile w v t ∧
      (marked.nextSlot b ≠ none → v.tile t = marked) ∧
      (marked.nextSlot b = none → u.rd (F.tileStatState t) ≠ stHalt →
        (v.tile t).done = 0 ∧ (v.tile t).branch = none ∧ (v.tile t).movs = none ∧
        (∀ g, marked.branch = some g → (v.tile t).pc = g ∧
          ∀ l, l ∈ (v.tile t).loops ↔ l ∈ marked.loops ∧ l.first ≤ g ∧ g ≤ l.last) ∧
        (marked.branch = none → marked.loops = [] → (v.tile t).pc = marked.pc + 16 ∧ (v.tile t).loops = []) ∧
        (∀ l, marked.branch = none → marked.loops = [l] → marked.pc ≠ l.last →
          (v.tile t).pc = marked.pc + 16 ∧ (v.tile t).loops = [l]) ∧
        (∀ l, marked.branch = none → marked.loops = [l] → marked.pc = l.last → 1 < l.left →
          (v.tile t).pc = l.first ∧ (v.tile t).loops = [{ l with left := l.left - 1 }]) ∧
        (∀ l, marked.branch = none → marked.loops = [l] → marked.pc = l.last → l.left ≤ 1 →
          (v.tile t).pc = marked.pc + 16 ∧ (v.tile t).loops = []))

/-- In its turn, each of VADD, VSUB, VMUL, VFMA, VMIN, VMAX, VAND, VOR, VXOR, VSHL, VSHR and VSRA completes: every lane of vd
that the mask selects takes its lane's result (FP32 or packed BF16: the exact result rounded once; INT32: modulo 2^32), the
flags of those lanes are raised, every other lane of every vector register and every other piece of the tile keeps its value.
(R107, R114, R85, R86, R87, R89, R704) -/
def Obligations.VectorArithmetic : Prop :=
  ∀ (s u : State) (t : Nat) (v : VC) (errs : List SpdErr) (sq hd : Option (List W64)),
    let x := u.tile t
    let sel := x.lanesOn v.mask.toNat
    let turn (op : Nat) : Prop := s.slotTurn t 2 errs (isVC op v) = some (u, sq, hd)
    let gives (o : Host.Outcome State Fault Refusal) (f : W32 → W32 → W32 → LRes) : Prop :=
      ∃ w : State, o = .next (w.slotDone t 2 (s.bundle t)) ∧
        laneOp u w t v.vd.toNat sel fun l => f (x.lane v.va.toNat l) (x.lane v.vb.toNat l) (x.lane v.vc.toNat l)
    let half (w : W32) (h : Nat) : Nat := w.toNat / 2 ^ (16 * h) % 2 ^ 16
    let two (r : FRes) (q : FRes) : LRes := ⟨BitVec.ofNat 32 (r.bits + 2 ^ 16 * q.bits), r.flags ||| q.flags⟩
    let float (op : FVal → FVal → FVal × Nat) (a b _c : W32) : LRes :=
      let one (f : Fmt) (p q : Nat) : FRes := f.result (op (f.decode p) (f.decode q)).1 (op (f.decode p) (f.decode q)).2
      if v.typ = 0 then ⟨BitVec.ofNat 32 (one fmtFp32 a.toNat b.toNat).bits, (one fmtFp32 a.toNat b.toNat).flags⟩
      else two (one fmtBf16 (half a 0) (half b 0)) (one fmtBf16 (half a 1) (half b 1))
    let int (f : W32 → W32 → Int) (a b _c : W32) : LRes := ⟨BitVec.ofInt 32 (f a b), 0⟩
    (v.typ.toNat < 2 → turn 1 → gives (exec (.vadd t v errs) s) (float FVal.add)) ∧
    (v.typ.toNat < 2 → turn 2 → gives (exec (.vsub t v errs) s) (float fun a b => FVal.add a b.neg)) ∧
    (v.typ.toNat < 2 → turn 3 → gives (exec (.vmul t v errs) s) (float FVal.mul)) ∧
    (v.typ.toNat < 2 → turn 5 → gives (exec (.vmin t v errs) s) (float (FVal.minMax false))) ∧
    (v.typ.toNat < 2 → turn 6 → gives (exec (.vmax t v errs) s) (float (FVal.minMax true))) ∧
    (turn 4 → gives (exec (.vfma t v errs) s) fun a b c =>
      let one (f : Fmt) (p q r : Nat) : FRes :=
        f.result (FVal.fma (f.decode p) (f.decode q) (f.decode r)).1 (FVal.fma (f.decode p) (f.decode q) (f.decode r)).2
      if v.typ = 0 then ⟨BitVec.ofNat 32 (one fmtFp32 a.toNat b.toNat c.toNat).bits, (one fmtFp32 a.toNat b.toNat c.toNat).flags⟩
      else two (one fmtBf16 (half a 0) (half b 0) (half c 0)) (one fmtBf16 (half a 1) (half b 1) (half c 1))) ∧
    (2 ≤ v.typ.toNat → turn 1 → gives (exec (.vadd t v errs) s) (int fun a b => a.toInt + b.toInt)) ∧
    (2 ≤ v.typ.toNat → turn 2 → gives (exec (.vsub t v errs) s) (int fun a b => a.toInt - b.toInt)) ∧
    (2 ≤ v.typ.toNat → turn 3 → gives (exec (.vmul t v errs) s) (int fun a b => a.toInt * b.toInt)) ∧
    (2 ≤ v.typ.toNat → turn 5 → gives (exec (.vmin t v errs) s) (int fun a b => min a.toInt b.toInt)) ∧
    (2 ≤ v.typ.toNat → turn 6 → gives (exec (.vmax t v errs) s) (int fun a b => max a.toInt b.toInt)) ∧
    (turn 7 → gives (exec (.vand t v errs) s) (int fun a b => (a.toNat &&& b.toNat : Nat))) ∧
    (turn 8 → gives (exec (.vor t v errs) s) (int fun a b => (a.toNat ||| b.toNat : Nat))) ∧
    (turn 9 → gives (exec (.vxor t v errs) s) (int fun a b => (a.toNat ^^^ b.toNat : Nat))) ∧
    (turn 10 → gives (exec (.vshl t v errs) s) (int fun a b => a.toNat * 2 ^ (b.toNat % 32))) ∧
    (turn 11 → gives (exec (.vshr t v errs) s) (int fun a b => (a.toNat / 2 ^ (b.toNat % 32) : Nat))) ∧
    (turn 12 → gives (exec (.vsra t v errs) s) (int fun a b => a.toInt / 2 ^ (b.toNat % 32)))

/-- In its turn VCEQ, VCLT and VCLE complete: the bits of mask register m(vd[1:0]) of the lanes that the mask selects take the
comparison (a NaN compares false; both halves of a packed BF16 lane must hold), the other bits of it and every other mask and
vector register keep their values; those lanes raise invalid, VCEQ for a signalling NaN only, VCLT and VCLE for any NaN. VSEL completes: every lane of vd takes va's where the mask selects it and vb's where it does
not. (R114, R704, R107) -/
def Obligations.VectorCompare : Prop :=
  ∀ (s u : State) (t : Nat) (v : VC) (errs : List SpdErr) (sq hd : Option (List W64)),
    let x := u.tile t
    let sel := x.lanesOn v.mask.toNat
    let turn (op : Nat) : Prop := s.slotTurn t 2 errs (isVC op v) = some (u, sq, hd)
    let gives (o : Host.Outcome State Fault Refusal) (quiet : Bool) (fp : FVal → FVal → Bool) (int : Int → Int → Bool) : Prop :=
      let nans (f : Fmt) (p q : Nat) : Nat :=
        if quiet then sigFlag [f.decode p, f.decode q] else if (f.decode p).isNan || (f.decode q).isNan then flInvalid else 0
      ∃ w : State, o = .next (w.slotDone t 2 (s.bundle t)) ∧ onlyTileRegs u w t [R.tileFpFlags t] ∧
        w.tile t = { x with masks := (w.tile t).masks } ∧
        flagsRaised u w t sel (fun l =>
          let a := (x.lane v.va.toNat l).toNat
          let b := (x.lane v.vb.toNat l).toNat
          if v.typ = 0 then nans fmtFp32 a b
          else if v.typ = 1 then nans fmtBf16 (a % 2 ^ 16) (b % 2 ^ 16) ||| nans fmtBf16 (a / 2 ^ 16) (b / 2 ^ 16) else 0) ∧
        (∀ m, m ≠ v.vd.toNat % 4 → (w.tile t).mreg m = x.mreg m) ∧
        ∀ l, l < 64 →
          let a := x.lane v.va.toNat l
          let b := x.lane v.vb.toNat l
          let one (f : Fmt) (p q : Nat) : Bool := !(f.decode p).isNan && !(f.decode q).isNan && fp (f.decode p) (f.decode q)
          ((w.tile t).mreg (v.vd.toNat % 4)).getLsbD l =
            if sel l = true then
              (if v.typ = 0 then one fmtFp32 a.toNat b.toNat
               else if v.typ = 1 then one fmtBf16 (a.toNat % 2 ^ 16) (b.toNat % 2 ^ 16) && one fmtBf16 (a.toNat / 2 ^ 16) (b.toNat / 2 ^ 16)
               else int a.toInt b.toInt)
            else (x.mreg (v.vd.toNat % 4)).getLsbD l
    (turn 13 → gives (exec (.vceq t v errs) s) true FVal.eq fun a b => decide (a = b)) ∧
    (turn 14 → gives (exec (.vclt t v errs) s) false FVal.lt fun a b => decide (a < b)) ∧
    (turn 15 → gives (exec (.vcle t v errs) s) false (fun a b => !FVal.lt b a) fun a b => decide (a ≤ b)) ∧
    (turn 16 → ∃ w : State, exec (.vsel t v errs) s = .next (w.slotDone t 2 (s.bundle t)) ∧ onlyTile u w t ∧
      w.tile t = { x with vregs := (w.tile t).vregs } ∧
      lanesSet u w t v.vd.toNat (fun _ => true) fun l => if sel l = true then x.lane v.va.toNat l else x.lane v.vb.toNat l)

/-- In its turn each completes. VEXP2, VLOG2, VRCP and VRSQRT give every selected lane the function of va's lane; VCVTF gives
the signed integer rounded to FP32, VCVTI the FP32 value as a saturated signed integer, under the rounding in force (nearest
even in place of stochastic). VPKB rounds the lanes of va and vb to the low and high BF16 halves; VUPK widens the halves of va
exactly into vd (low) and vb (high). VMXP packs two blocks of 32 lanes of va: element j of the 64 in its place of the packed
lanes, both scales in lane 63, every other lane zero. A stochastic VPKB or VMXP advances the generator once. Each raises the
flags of the lanes that it converts (VMXP: of every element, and mx_nan for a scale of 0xFF); every other lane of every vector
register and every other piece of the tile keeps its value. (R88, R91, R92, R94, R97, R114, R115, R89) -/
def Obligations.VectorConvert : Prop :=
  ∀ (s u : State) (t : Nat) (v : VC) (errs : List SpdErr) (sq hd : Option (List W64)),
    let x := u.tile t
    let sel := x.lanesOn v.mask.toNat
    let a (l : Nat) : W32 := x.lane v.va.toNat l
    let turn (op : Nat) : Prop := s.slotTurn t 2 errs (isVC op v) = some (u, sq, hd)
    let one (r : FRes) : LRes := ⟨BitVec.ofNat 32 r.bits, r.flags⟩
    let gives (o : Host.Outcome State Fault Refusal) (f : Nat → LRes) : Prop :=
      ∃ w : State, o = .next (w.slotDone t 2 (s.bundle t)) ∧ laneOp u w t v.vd.toNat sel f
    let code := u.cvtCode t v.rnd.toNat
    let near : Round := if s.cvtCode t v.rnd.toNat = 2 then .rtz else .rne
    let mode (slot : Nat) : Round := if code = 2 then .rtz else if code = 1 then .sr (srRho (u.srState t) slot) else .rne
    let advanced (w : State) : Prop := w.srState t = if code = 1 then srNext (u.srState t) else u.srState t
    (turn 17 → gives (exec (.vexp2 t v errs) s) fun l => one (spExp2 (a l))) ∧
    (turn 18 → gives (exec (.vlog2 t v errs) s) fun l => one (spLog2 (a l))) ∧
    (turn 19 → gives (exec (.vrcp t v errs) s) fun l => one (spRcp (a l))) ∧
    (turn 20 → gives (exec (.vrsqrt t v errs) s) fun l => one (spRsqrt (a l))) ∧
    (turn 21 → gives (exec (.vcvtf t v errs) s) fun l => one (fmtFp32.convert near true (FVal.ofSigned (a l).toInt))) ∧
    (turn 22 → gives (exec (.vcvti t v errs) s) fun l => one (toInt 32 near (fmtFp32.decode (a l).toNat))) ∧
    let keeps (w : State) (as : List Nat) : Prop := onlyTileRegs u w t as ∧ w.tile t = { x with vregs := (w.tile t).vregs }
    let low (l : Nat) : FRes := fmtBf16.convert (mode l) (u.cvtSat t v.sat.toNat) (fmtFp32.decode (a l).toNat)
    let high (l : Nat) : FRes := fmtBf16.convert (mode (64 + l)) (u.cvtSat t v.sat.toNat) (fmtFp32.decode (x.lane v.vb.toNat l).toNat)
    (turn 23 → ∃ w : State, exec (.vpkb t v errs) s = .next (w.slotDone t 2 (s.bundle t)) ∧
      keeps w [R.tileFpFlags t, R.tileSrState t] ∧ advanced w ∧
      (lanesSet u w t v.vd.toNat sel fun l => BitVec.ofNat 32 ((low l).bits + 2 ^ 16 * (high l).bits)) ∧
      flagsRaised u w t sel fun l => (low l).flags ||| (high l).flags) ∧
    (turn 24 → ∃ w : State, exec (.vupk t v errs) s = .next (w.slotDone t 2 (s.bundle t)) ∧ keeps w [R.tileFpFlags t] ∧
      (∀ r l, l < 64 → (w.tile t).lane r l =
        if r = v.vb.toNat ∧ sel l = true then BitVec.ofNat 32 (widen fmtBf16 ((a l).toNat / 2 ^ 16)).bits
        else if r = v.vd.toNat ∧ sel l = true then BitVec.ofNat 32 (widen fmtBf16 ((a l).toNat % 2 ^ 16)).bits
        else x.lane r l) ∧
      flagsRaised u w t sel fun l => (widen fmtBf16 ((a l).toNat / 2 ^ 16)).flags ||| (widen fmtBf16 ((a l).toNat % 2 ^ 16)).flags) ∧
    (turn 25 → ∃ w : State, exec (.vmxp t v errs) s = .next (w.slotDone t 2 (s.bundle t)) ∧
      keeps w [R.tileFpFlags t, R.tileSrState t] ∧ advanced w ∧
      (∀ r l, l < 64 → r ≠ v.vd.toNat → (w.tile t).lane r l = x.lane r l) ∧
      let blk (k : Nat) := mxPack v.vb.toNat ((List.range 32).map fun i => mode (32 * k + i))
        ((List.range 32).map fun i => fmtFp32.decode (a (32 * k + i)).toNat)
      let elem (j : Nat) : FRes := ((blk 0).2 ++ (blk 1).2).getD j ⟨0, 0⟩
      let eb := if v.vb.toNat = 6 then 4 else 8
      let out (l : Nat) : Nat := ((w.tile t).lane v.vd.toNat l).toNat
      (∀ j, j < 64 → out (j * eb / 32) / 2 ^ (j * eb % 32) % 2 ^ eb = (elem j).bits % 2 ^ eb) ∧
      (∀ l, 2 * eb ≤ l → l < 63 → out l = 0) ∧
      out 63 = ((blk 0).1 + (blk 1).1 * 256) % 2 ^ 32 ∧
      flagsRaised u w t (fun _ => true) fun l => (elem l).flags ||| (if (blk 0).1 = 0xFF ∨ (blk 1).1 = 0xFF then flMxNan else 0))

/-- In its turn each completes. VRSUM puts the sum of the selected lanes of va in lane 0 of vd and zero in its other lanes: the
sum of the fixed binary tree over the lane numbers, in which a lane that is not selected is absent, a node with one input passes
it on and one with two adds them (FP32 rounded to nearest even, INT32 modulo 2^32), and +0 or 0 where no lane is selected; of
INT32 lanes it is the sum modulo 2^32. The additions' flags are raised, and nothing else of the tile changes. VBCS puts the scalar register va + 16 vb[0] in every
selected lane of vd. VMOVS notes lane 16 vb[1:0] + vc of va for scalar register vd + 16 type[0], which takes it when the bundle
ends, and changes nothing else. (R114, R704, R109) -/
def Obligations.VectorReduce : Prop :=
  ∀ (s u : State) (t : Nat) (v : VC) (errs : List SpdErr) (sq hd : Option (List W64)),
    let x := u.tile t
    let sel := x.lanesOn v.mask.toNat
    let a (l : Nat) : W32 := x.lane v.va.toNat l
    let turn (op : Nat) : Prop := s.slotTurn t 2 errs (isVC op v) = some (u, sq, hd)
    (turn 26 → ∃ w : State, exec (.vrsum t v errs) s = .next (w.slotDone t 2 (s.bundle t)) ∧
      onlyTileRegs u w t [R.tileFpFlags t] ∧ w.tile t = { x with vregs := (w.tile t).vregs } ∧
      (∀ r l, l < 64 → r ≠ v.vd.toNat → (w.tile t).lane r l = x.lane r l) ∧
      (∀ l, 0 < l → l < 64 → (w.tile t).lane v.vd.toNat l = 0) ∧
      (let fp (p q : W32) : LRes :=
         let r := FVal.add (fmtFp32.decode p.toNat) (fmtFp32.decode q.toNat)
         ⟨BitVec.ofNat 32 (fmtFp32.result r.1 r.2).bits, (fmtFp32.result r.1 r.2).flags⟩
       let sum := treeSum (if v.typ = 0 then fp else fun p q => ⟨p + q, 0⟩) (fun l => if sel l then some (a l) else none) 6 0
       (v.typ ≠ 1 → (w.tile t).lane v.vd.toNat 0 = sum.1.getD 0 ∧ flagsRaised u w t (fun _ => true) fun _ => sum.2)) ∧
      (2 ≤ v.typ.toNat → (w.tile t).lane v.vd.toNat 0 = (((List.range 64).filter sel).map a).foldl (· + ·) 0)) ∧
    (turn 27 → ∃ w : State, exec (.vbcs t v errs) s = .next (w.slotDone t 2 (s.bundle t)) ∧
      laneOp u w t v.vd.toNat sel fun _ => ⟨x.sreg (v.va.toNat + 16 * (v.vb.toNat % 2)), 0⟩) ∧
    (turn 28 → exec (.vmovs t v errs) s = .next ((u.setTile t { x with
      movs := some (v.vd.toNat + 16 * (v.typ.toNat % 2), a (16 * (v.vb.toNat % 4) + v.vc.toNat)) }).slotDone t 2 (s.bundle t)))

/-- In its turn each completes. VLD gives every selected lane the 32-bit little-endian word at its place and VLDW the widened
element at its place, or, where a word read came poisoned, the tile takes a fault with cause POISON in slot 2 and no lane
changes; neither changes a byte of a scratchpad. VST and VSTN store each selected lane (VSTN: narrowed) at its place: the bytes
of selected lanes are those stored, every other byte of every scratchpad reads as before, and no vector register changes. The
address is s[rs] plus 8 times the offset, modulo 2^32. VLDW and VSTN raise the flags of the selected lanes, and a stochastic VSTN
to BF16 or FP8 advances the generator once. (R116, R107, R147, R173, R91, R94, R89) -/
def Obligations.VectorMemory : Prop :=
  ∀ (s u : State) (t : Nat) (v : VM) (errs : List SpdErr) (sq hd : Option (List W64)),
    let x := u.tile t
    let sel := x.lanesOn v.mask.toNat
    let ad := (x.sreg v.rs.toNat + BitVec.ofNat 32 (8 * v.off.toNat)).toNat
    let turn (op : Nat) : Prop := s.slotTurn t 2 errs (isVM op v) = some (u, sq, hd)
    let eb := if v.nfmt.toNat ≤ 1 then 2 else 1
    let num (eb l : Nat) : Nat := leNat ((List.range eb).map fun i => u.spdByte t (ad + eb * l + i))
    let loads (o : Host.Outcome State Fault Refusal) (eb : Nat) (f : Nat → FRes) : Prop :=
      let r := u.spdRead t ad (64 * eb) 0 errs
      (anyPois r.2 = false → ∃ w : State, o = .next (w.slotDone t 2 (s.bundle t)) ∧ (∀ j k, w.spdByte j k = u.spdByte j k) ∧
        laneOp r.1 w t v.vreg.toNat sel fun l => ⟨BitVec.ofNat 32 (f l).bits, (f l).flags⟩) ∧
      (anyPois r.2 = true → ∃ k, o = .next ((r.1.tileFault t ⟨cPOISON, 2, k⟩ 0 (r.1.tile t).pc).slotDone t 2 (s.bundle t)))
    let stores (o : Host.Outcome State Fault Refusal) (eb : Nat) (f : Nat → FRes) (p : State → Prop) : Prop :=
      ∃ w : State, o = .next (w.slotDone t 2 (s.bundle t)) ∧ (∀ r l, (w.tile t).lane r l = x.lane r l) ∧
        flagsRaised u w t sel (fun l => (f l).flags) ∧ p w ∧ ∀ j k, w.spdByte j k =
        if j = t ∧ ad ≤ k ∧ k < ad + 64 * eb ∧ sel ((k - ad) / eb) = true then BitVec.ofNat 8 ((f ((k - ad) / eb)).bits / 256 ^ ((k - ad) % eb))
        else u.spdByte j k
    (turn 32 → loads (exec (.vld t v errs) s) 4 fun l => ⟨num 4 l, 0⟩) ∧
    (turn 34 → loads (exec (.vldw t v errs) s) eb fun l => nWiden v.nfmt.toNat (num eb l)) ∧
    (turn 33 → stores (exec (.vst t v errs) s) 4 (fun l => ⟨(x.lane v.vreg.toNat l).toNat, 0⟩) fun w => w.srState t = u.srState t) ∧
    (turn 35 → stores (exec (.vstn t v errs) s) eb (fun l => nNarrow v.nfmt.toNat (u.cvtCode t v.rnd.toNat) (u.cvtSat t v.sat.toNat)
      (u.srState t) l (x.lane v.vreg.toNat l)) fun w => w.srState t =
        if u.cvtCode t v.rnd.toNat = 1 ∧ (v.nfmt = 0 ∨ v.nfmt = 2 ∨ v.nfmt = 3) then srNext (u.srState t) else u.srState t)

/-- In its turn each completes. MATRIX_SEQUENCE_START: the sequence whose descriptor the bundle names runs, or waits if one
runs, and one scoreboard entry of the array is placed for each of its ranges. CHAIN_START: the chain runs on its engine, or
waits if one runs there, with nothing begun, and its extents are placed; on a tile that has halted since the bundle issued, or
while a discard is under way, it begins no descriptor, and ends as a halted or stopped chain. FENCE changes nothing before the slot ends.
(R66, R69, R70, R106, R117, R129, R183, R185) -/
def Obligations.UnitStarts : Prop :=
  ∀ (s u : State) (t : Nat) (errs : List SpdErr) (sq hd : Option (List W64)) (d h : List W64),
    let x := u.tile t
    let b := s.bundle t
    (s.slotTurn t 0 errs (·.mGo) = some (u, some d, hd) →
      ∃ w : State, exec (.matrixSequenceStart t errs) s = .next (w.slotDone t 0 b) ∧ onlyTile u w t ∧
        (w.tile t).sb = x.sb ++ (sqRanges d).map (fun r => ⟨r.base, r.len - 1, r.acc, 0, x.serial, r.role, x.pc⟩) ∧
        (x.mtx.running = none → (w.tile t).mtx = { x.mtx with running := some ⟨d, x.serial, 0, 0, x.pc⟩ }) ∧
        (∀ q, x.mtx.running = some q → (w.tile t).mtx = { x.mtx with queued := some ⟨d, x.serial, 0, 0, x.pc⟩ })) ∧
    (s.slotTurn t 1 errs (·.fStart) = some (u, sq, some h) →
      let halt := u.rd (F.tileStatState t) = stHalt
      let discard := u.rd F.keepPassStatState = 3
      let stopped := halt ∨ discard
      ∃ (w : State) (c : Chain), onlyTile u w t ∧
        (¬stopped → exec (.chainStart t errs) s = .next (w.slotDone t 1 b)) ∧
        (stopped → exec (.chainStart t errs) s = .next ((w.endHalted t b.fEngine).slotDone t 1 b)) ∧
        c.nDesc = hdN h ∧ c.next = 0 ∧ c.descs = [] ∧ c.status = 0 ∧ (c.halted = true ↔ halt) ∧ (c.stopped = true ↔ discard) ∧ c.head = fAddr x b ∧
        (w.tile t).sb = x.sb ++ (hdRanges h).map (fun r => ⟨r.base, r.len - 1, r.acc, b.fEngine + 1, x.serial, r.role, x.pc⟩) ∧
        ((x.engine b.fEngine).running = none → (w.tile t).engine b.fEngine = ⟨some c, (x.engine b.fEngine).queued⟩) ∧
        ((x.engine b.fEngine).running ≠ none → ¬stopped → (w.tile t).engine b.fEngine = ⟨(x.engine b.fEngine).running, some c⟩) ∧
        ((x.engine b.fEngine).running ≠ none → stopped → (w.tile t).engine b.fEngine = x.engine b.fEngine)) ∧
    (s.slotTurn t 1 errs (fun b => b.fGo && decide (b.fOp = 2)) = some (u, sq, hd) →
      exec (.fence t errs) s = .next (u.slotDone t 1 b))

/-- BLOCK_START completes where a sequence runs, the array is not halted, fewer than two blocks still drain (or the older of two is at
its last two rows) and the operands come clean: MTX_BUSY counts the block's steps, the block joins those that drain with its 8 rows, in the other accumulator set, and
the sequence goes to its next block (column blocks first) or gives way to the queued one. Where a poisoned operand or bad
metadata comes, MTX_BUSY counts the steps until then, the block is the newest one, and the tile takes that fault in slot 4. ROW_DRAIN completes: the last row of
the oldest block that has not left is checked; one that passes (or is skipped, or unchecked) is written to its 64 bytes (every
other byte of every scratchpad as before) and dropped; one that fails is recorded in TILE_TALLY_LOG and the tile takes a fault
with cause TALLY in slot 4. (R57, R58, R59, R62, R64, R68, R69, R72) -/
def Obligations.MatrixBlocks : Prop :=
  ∀ (s : State) (t : Nat) (upset : List W32) (errs : List SpdErr),
    let m := (s.tile t).mtx
    (m.blocks.length < 2 → m.full = false) ∧
    (∀ b c, m.blocks = [b, c] → b.rows.length ≤ 2 → m.full = false) ∧
    (∀ q u i, m.running = some q → m.halted = false → m.full = false → s.blockIn t q.desc q.mb q.nb errs = (u, i, none) →
      ∃ v : State, exec (.blockStart t errs) s = .next v ∧ onlyTile (u.bump Ev.mtxBusy (.tile t) (sqSteps q.desc)) v t ∧
        v.tile t = { u.tile t with mtx := (v.tile t).mtx } ∧ (v.tile t).mtx.set = 1 - m.set % 2 ∧ (v.tile t).mtx.halted = false ∧
        (v.tile t).mtx.blocks = m.blocks ++ [⟨q.desc, q.serial, q.mb, q.nb, 1 - m.set % 2, q.pc, blockRows q.desc i⟩] ∧
        (q.nb + 1 < sqN q.desc → (v.tile t).mtx.running = some { q with nb := q.nb + 1 }) ∧
        (sqN q.desc ≤ q.nb + 1 → q.mb + 1 < sqM q.desc → (v.tile t).mtx.running = some { q with mb := q.mb + 1, nb := 0 }) ∧
        (sqN q.desc ≤ q.nb + 1 → sqM q.desc ≤ q.mb + 1 → (v.tile t).mtx.running = m.queued ∧ (v.tile t).mtx.queued = none)) ∧
    (∀ q u i e, m.running = some q → m.halted = false → m.full = false → s.blockIn t q.desc q.mb q.nb errs = (u, i, some e) →
      ∃ v w : State, exec (.blockStart t errs) s = .next v ∧ v = w.tileFault t ⟨e.cause, 4, e.addr⟩ 0 q.pc ∧
        onlyTile (u.bump Ev.mtxBusy (.tile t) (min (sqSteps q.desc) (e.cycle + 1))) w t ∧
        (w.tile t).mtx.set = 1 - m.set % 2 ∧ (w.tile t).mtx.curM = q.mb ∧ (w.tile t).mtx.curN = q.nb ∧
        w.tile t = { u.tile t with mtx := (w.tile t).mtx }) ∧
    (∀ b bs, m.blocks = b :: bs →
      let r := b.rows.length - 1
      let row := (List.range 17).map fun i => ((b.rows.getD r []).getD i 0) ^^^ (upset.getD i 0)
      let verdict := tallyCheck (decide (fmtClass (sqAFmt b.desc) = 5)) (relShift (s.rd (F.tileTallyTolRelShift t)))
        (s.rd (F.tileTallyTolFloorExp t)) (row.take 16) (row.getD 16 0)
      (¬(s.on (F.tileTallyTolEnable t) = true ∧ verdict = .fail) → ∃ v : State, exec (.rowDrain t upset errs) s = .next v ∧
        (v.tile t).mtx = m.dropRow ∧
        (∀ j k, ¬(j = t ∧ rowAddr b r ≤ k ∧ k < rowAddr b r + 64) → v.spdByte j k = s.spdByte j k) ∧
        (sqAdd b.desc = false → ∀ i, i < 64 → v.spdByte t (rowAddr b r + i) = BitVec.ofNat 8 ((row.getD (i / 4) 0).toNat / 256 ^ (i % 4)))) ∧
      (s.on (F.tileTallyTolEnable t) = true → verdict = .fail → ∃ u v : State, exec (.rowDrain t upset errs) s = .next v ∧
        v = u.tileFault t ⟨cTALLY, 4, 0⟩ 0 b.pc ∧ u.on (F.tileTallyLogValid t) = true ∧
        (s.on (F.tileTallyLogValid t) = false → u.rd (F.tileTallyLogRow t) = r % 2 ^ (F.tileTallyLogRow t).w ∧
          u.rd (F.tileTallyLogBlockM t) = b.mb % 2 ^ (F.tileTallyLogBlockM t).w)))

/-- Where the bundle at a tile's pc faults at decode, the command of any of its slots (here FENCE, ADD, VADD,
MATRIX_SEQUENCE_START and CHAIN_START) makes the tile take the fault: the first of those found without a descriptor where no slot names one
or where reading one must wait, and else the first with the conflicts of the ranges that descriptors place; where the bundle in its slot's turn (here LW's) is held,
only the event of the hold counts and the vector unit is free for the next cycle; where it faults at the cycle of issue, the tile takes that fault. Taking a fault while none
is recorded sets TILE_FAULT.valid with cause, slot, unit and pc, sets multi when further faults were found (and else leaves it, where a
chain that ends may write its record), puts the tile in Halt, halts the array and stops both engines from starting more; while one is recorded only multi is set. (R120, R121,
R129, R133, R134, R700, R705) -/
def Obligations.BundleFaults : Prop :=
  ∀ (s : State) (t : Nat) (sd sa sb : Reg) (imm : Imm) (v : VC) (errs : List SpdErr),
    let x := s.tile t
    let b := s.bundle t
    (∀ u w z g r, x.done = 0 → s.canIssue t = true → s.fetchFault t errs = (u, none) → decodeFaults x b = g :: r →
      u.verdict t b errs = (w, z) →
      ∃ f more, z = .fault f more ∧
        exec (.fence t errs) s = .next (w.takeFault t f more) ∧ exec (.add t sd sa sb errs) s = .next (w.takeFault t f more) ∧
        exec (.vadd t v errs) s = .next (w.takeFault t f more) ∧ exec (.matrixSequenceStart t errs) s = .next (w.takeFault t f more) ∧
        exec (.chainStart t errs) s = .next (w.takeFault t f more) ∧
        ((namedDescs x b = [] ∨ (namedDescs x b).any (fun q => x.sb.any fun e => e.conflicts q) = true) → w = u ∧ f = g ∧ more = !r.isEmpty)) ∧
    (∀ u w z, x.done = 0 → s.canIssue t = true → s.fetchFault t errs = (u, none) → decodeFaults x b = [] →
      x.nextSlot b = some 3 → isRRI 15 sd sa imm b = true → u.verdict t b errs = (w, z) →
      (∀ ev, z = .hold ev → exec (.lw t sd sa imm errs) s = .next ((w.bump ev (.tile t) 1).modTile t fun y => { y with vocc := false })) ∧
      (∀ f more, z = .fault f more → exec (.lw t sd sa imm errs) s = .next (w.takeFault t f more))) ∧
    (∀ (f : TFault) (more : Bool),
      let w := s.takeFault t f more
      w.rd (F.tileStatState t) = stHalt ∧ (w.tile t).mtx.halted = true ∧ (w.tile t).mtx.running = none ∧
      ((w.tile t).engine 0).queued = none ∧ ((w.tile t).engine 1).queued = none ∧ w.on (F.tileFaultValid t) = true ∧
      (s.on (F.tileFaultValid t) = false →
        w.rd (F.tileFaultCause t) = f.cause % 32 ∧ w.rd (F.tileFaultSlot t) = f.slot % 8 ∧ w.rd (F.tileFaultUnit t) = 0 ∧
        w.rd (F.tileFaultPc t) = x.pc / 16 % 2 ^ 14 ∧ w.rd (F.tileFaultAddrAddr t) = f.addr % 2 ^ 18 ∧
        (more = true → w.on (F.tileFaultMulti t) = true) ∧
        (more = false → (∀ n c, n < 2 → s.chain t n = some c → c.cmplEn = true → s.spdAllowed t c.cmplAddr 8 ownWrite = true) →
          w.on (F.tileFaultMulti t) = s.on (F.tileFaultMulti t))) ∧
      (s.on (F.tileFaultValid t) = true → w.on (F.tileFaultMulti t) = true ∧ w.rd (F.tileFaultCause t) = s.rd (F.tileFaultCause t)))

/-- Whatever a slot of a bundle, BLOCK_START or ROW_DRAIN of a tile does (its result, a hold or a fault), it leaves every other
tile, every register outside the tile's own page, memory, requests, links, jobs, passes and the host side as they were: only the
tile, its page, the event counters and the count of free values drawn differ. (R104, R113, R129, R145) -/
def Obligations.TileFrame : Prop :=
  ∀ (c : Instr) (t : Nat) (s v : State), slotTile c = some t → exec c s = .next v →
    v = { s with tiles := v.tiles, regs := v.regs, counters := v.counters, freeCtr := v.freeCtr } ∧
    (∀ k, k ≠ t → v.tile k = s.tile k) ∧
    ∀ a, a < R.tileCtrl t ∨ R.tileCtrl t + 0x800 ≤ a → v.reg a = s.reg a

/-- For a tile of the module each completes. TILE_RUN of a tile that is not in Halt puts it in Run at the entry address with
TILE_CYCLES at 0 and no slot of a bundle executed; one in Halt stays there, with run set and TILE_CYCLES at 0. TILE_STOP clears
run. TILE_RESET clears the scalar, vector and mask registers, loops, scoreboard, array and engines, gives every register of the
page but the six records its reset value, keeps TILE_FAULT, TILE_FAULT_ADDR, TILE_TALLY_LOG and both TILE_FE_LAST, and changes no
byte of any scratchpad. BULK_CLEAR of an idle tile within the
scratchpad makes every byte of the range read zero and no other byte change, and sets busy; one that is rejected sets only
clear_rej. BULK_CLEAR_DONE clears busy. CONFLICT_COUNTER_CLEAR zeroes the 32 conflict counts. NEAR_CACHE_INVALIDATE and
SCENT_CLEAR empty the near cache and the Scent slots of the tile and change nothing else. A Keeper write of TILE_SR_STATE sets
the state to the value written, and to 0x9E37_79B9 where that is 0. (R131, R137, R152, R177, R160, R215, R127, R103) -/
def Obligations.TileControl : Prop :=
  ∀ (s : State) (t : Nat), t < tileCount →
    let x := s.tile t
    (∀ entry, s.rd (F.tileStatState t) ≠ stHalt → ∃ v : State, exec (.tileRun t entry) s = .next v ∧
      v.rd (F.tileStatState t) = stRun ∧ v.on (F.tileCtrlRun t) = true ∧ v.reg (R.tileCycles t) = 0 ∧
      (v.tile t).pc = 16 * (entry % 2 ^ 14) ∧ (v.tile t).done = 0 ∧ (v.tile t).ended = false ∧ ∀ k, k ≠ t → v.tile k = s.tile k) ∧
    (∀ entry, s.rd (F.tileStatState t) = stHalt → ∃ v : State, exec (.tileRun t entry) s = .next v ∧
      v.rd (F.tileStatState t) = stHalt ∧ v.on (F.tileCtrlRun t) = true ∧ v.reg (R.tileCycles t) = 0 ∧
      v.tile t = { x with clocked := true } ∧ ∀ k, k ≠ t → v.tile k = s.tile k) ∧
    (∃ v : State, exec (.tileStop t) s = .next v ∧ v.on (F.tileCtrlRun t) = false ∧ v.running t = false ∧ v.tiles = s.tiles) ∧
    (∃ v : State, exec (.tileReset t) s = .next v ∧ (∀ n, (v.tile t).sreg n = 0) ∧ (∀ r l, (v.tile t).lane r l = 0) ∧
      (∀ m, (v.tile t).mreg m = 0) ∧ (v.tile t).loops = [] ∧ (v.tile t).sb = [] ∧ (v.tile t).mtx = .reset ∧
      (v.tile t).fe0.idle = true ∧ (v.tile t).fe1.idle = true ∧ (∀ k, k ≠ t → v.tile k = s.tile k) ∧
      (∀ o, o < 0x800 → o ∉ keptRecords → v.reg (R.tileCtrl t + o) = regReset s.variant (R.tileCtrl t + o)) ∧
      (∀ o, o ∈ keptRecords → o ≠ 0x258 ∨ x.gather = [] → v.reg (R.tileCtrl t + o) = s.reg (R.tileCtrl t + o)) ∧
      ∀ j k, v.spdByte j k = s.spdByte j k) ∧
    (∀ base len, base + len < 1024 → s.running t = false → ∃ v : State, exec (.bulkClear t base len) s = .next v ∧
      v.on (F.tileSpdStatClearBusy t) = true ∧
      ∀ j k, v.spdByte j k = if j = t ∧ 256 * base ≤ k ∧ k < 256 * (base + len + 1) then 0 else s.spdByte j k) ∧
    (∀ base len, s.running t = true → ∃ v : State, exec (.bulkClear t base len) s = .next v ∧
      v.on (F.tileSpdStatClearRej t) = true ∧ v.tiles = s.tiles) ∧
    (∃ v : State, exec (.bulkClearDone t) s = .next v ∧ v.on (F.tileSpdStatClearBusy t) = false ∧ onlyRegs s v [R.tileSpdStat t]) ∧
    (∃ v : State, exec (.conflictCounterClear t) s = .next v ∧ (∀ n, n < 32 → v.rd (F.tileSpdConflCount t n) = 0) ∧
      onlyRegs s v ((List.range 32).map (R.tileSpdConfl t))) ∧
    exec (.nearCacheInvalidate t) s = .next (s.setTile t { x with near := [] }) ∧
    exec (.scentClear t) s = .next (s.setTile t { x with scent := [] }) ∧
    (∀ v : W64, s.computeDown = false → leads (exec (.registerWrite (R.tileSrState t) 8 v .keeper) s) fun z =>
      onlyRegs s z [R.tileSrState t] ∧ z.rd (F.tileSrStateState t) = if v.toNat % 2 ^ 32 = 0 then 0x9E3779B9 else v.toNat % 2 ^ 32)

/-- Each completes. GATHER_TIMEOUT of an entry writes it to its bank: no byte of any scratchpad reads differently and the buffer
holds nothing more for its word. SPD_CE_WRITEBACK takes the word off those that wait. SPD_SCRUB of a fresh word changes nothing;
an entry of the gather buffer for the word writes first, and no byte reads differently; where none waits, a word that decodes
clean changes nothing, one that is corrected counts in TILE_SPD_ERR and waits for its write-back; one that
is uncorrectable is recorded there, stays uncorrectable, and asks for a reload in an instruction or resident region.
SCOREBOARD_RETIRE of an entry whose unit is done with it removes that entry, after which the tile may be Done and the pass end.
TILE_WATCHDOG_EXPIRY of a running tile's entry makes the tile take a fault in slot 4 at the entry's base: STALL while the unit
awaits a reply from outside the tile, else WDOG. (R70, R119, R128, R130, R135, R148, R172, R175) -/
def Obligations.TileUpkeep : Prop :=
  ∀ (s : State) (t : Nat) (errs : List SpdErr),
    let x := s.tile t
    (∀ ix g, x.gather[ix]? = some g → ∃ v : State, exec (.gatherTimeout t ix errs) s = .next v ∧
      (v.tile t).gather = x.gather.filter (fun h => decide (h.word ≠ g.word)) ∧ ∀ j k, v.spdByte j k = s.spdByte j k) ∧
    (∀ w, ∃ v : State, exec (.spdCeWriteback t w) s = .next v ∧ onlyTile s v t ∧ w ∉ (v.tile t).ceWb ∧
      ∀ u, u ≠ w → (u ∈ (v.tile t).ceWb ↔ u ∈ x.ceWb)) ∧
    (∀ w dec, x.fresh w = true ∨ (x.bad w = false ∧ dec = .clean ∧ ∀ g ∈ x.gather, g.word ≠ w) → exec (.spdScrub t w dec) s = .next s) ∧
    (∀ w dec, s.on (F.tileSpdCtrlScrubEn t) = true → x.fresh w = false → 8 * w < spdSize → ∃ v : State, exec (.spdScrub t w dec) s = .next v ∧
      (v.tile t).gather = x.gather.filter (fun g => decide (g.word ≠ w)) ∧ ∀ j k, v.spdByte j k = s.spdByte j k) ∧
    (∀ w, s.on (F.tileSpdCtrlScrubEn t) = true → x.fresh w = false → x.bad w = false → 8 * w < spdSize → (∀ g ∈ x.gather, g.word ≠ w) →
      ∃ v : State, exec (.spdScrub t w .corrected) s = .next v ∧ v.on (F.tileSpdErrCeValid t) = true ∧ w ∈ (v.tile t).ceWb) ∧
    (∀ w, s.on (F.tileSpdCtrlScrubEn t) = true → x.fresh w = false → 8 * w < spdSize → (∀ g ∈ x.gather, g.word ≠ w) →
      ∃ v : State, exec (.spdScrub t w .uncorrectable) s = .next v ∧ v.on (F.tileSpdErrUeValid t) = true ∧ (v.tile t).bad w = true ∧
        ∀ i, i ∈ (v.tile t).reload ↔ i ∈ x.reload ∨ s.loadedRegion t (8 * w) = some i) ∧
    (∀ k e, x.sb[k]? = some e → s.entryBusy t e = false →
      exec (.scoreboardRetire t k) s = .next (((s.setTile t { x with sb := x.sb.eraseIdx k }).tryDone t).passEnd)) ∧
    (∀ k e, x.sb[k]? = some e → s.running t = true →
      exec (.tileWatchdogExpiry t k) s =
        .next (s.tileFault t ⟨if e.owner ≠ 0 ∧ 0 < s.outstanding t (e.owner - 1) e.serial then cSTALL else cWDOG, 4, e.base⟩ e.owner e.pc))

/-- In its turn (the next descriptor of the engine's chain, free of errors) each completes. LOAD outside the near cache asks for
the blocks of its source in walk order, one request for each 256-byte sector piece, a probe where Scent predicts every 256-byte
block that it carries zero; a near
LOAD looks up each line. STORE writes and FOLD folds the blocks of its destination, PULL reads and PUSH writes them at the
target tile, SETFLAG writes 8 bytes; NOP asks for nothing. Requests are added after those in flight, with fresh numbers, and the
descriptor ends when none of its requests is out. (R185, R187, R188, R191, R197, R199, R208, R219) -/
def Obligations.FetchInModule : Prop :=
  ∀ (s u : State) (t n : Nat) (errs : List SpdErr) (c : Chain) (d : List W64) (tgt : Nat),
    let turn (op : Nat) : Prop := s.descTurn t n [op] errs = some (u, c, d, tgt)
    let asks (o : Host.Outcome State Fault Refusal) (bs : List (Nat × List Seg)) (kind : Nat → ReqKind) : Prop :=
      ∃ w : State, o = .next (w.finishDesc t n c.next errs) ∧ requested u w t n c.serial c.next bs kind
    (turn 1 → dNear d = false → asks (exec (.load t n errs) s) (farBlocks d 256) fun k =>
      let bits := (tget (fun _ => Scent.mk []) (u.tile t).scent (dSlot d)).bits
      let zero := (((farBlocks d 256)[k]?).elim [] (·.2)).all fun g => bits.getD (g.walk / 256) false
      if u.scentOn t d && zero then .probe else .memRead) ∧
    (turn 1 → dNear d = true → exec (.load t n errs) s =
      .next (((farBlocks d 128).foldl (fun w b => w.nearLookup t n c d c.next b errs) u).finishDesc t n c.next errs)) ∧
    (turn 2 → asks (exec (.store t n errs) s) (farBlocks d 256) fun _ => .memWrite) ∧
    (turn 3 → asks (exec (.fold t n errs) s) (farBlocks d 256) fun _ => .memFold) ∧
    (turn 4 → asks (exec (.pull t n errs) s) (farBlocks d 256) fun _ => .meshRead) ∧
    (turn 5 → asks (exec (.push t n errs) s) (farBlocks d 256) fun _ => .meshWrite) ∧
    (turn 10 → asks (exec (.setflag t n errs) s) (combine 256 (cutRun 256 3 (dDst d) 0 8)) fun _ => .memWrite) ∧
    (s.descTurn t n [0, 11, 12, 13, 14, 15] errs = some (u, c, d, tgt) →
      exec (.fetchNop t n errs) s = .next (u.finishDesc t n c.next errs))

/-- In its turn each completes. DEPOSIT and RFOLD capture their source and send one packet of their type for each piece of each
run, each with a request that its RESP answers. SIGNAL in a pass sends nothing where a hold line beside the sector's port takes
its record: the packet is held there until the pass commits, and the descriptor is complete at once; while the victim of a new hold
line is written back it does not begin; where none takes it, the Signal is unprotected and its packet is sent, as it is outside a pass. CALL sends one packet that holds the return window
and offset and asks for the descriptor's run of bytes. (R188, R190, R197, R202, R299, R397, R411) -/
def Obligations.FetchRemote : Prop :=
  ∀ (s u : State) (t n : Nat) (errs : List SpdErr) (trs : List Transit) (c : Chain) (d : List W64) (tgt : Nat),
    let turn (op : Nat) : Prop := s.descTurn t n [op] errs = some (u, c, d, tgt)
    let read := u.capture t n d errs
    let packets (typ x : Nat) : List Packet := (remCuts x (outLen d) 0 ((farRuns d).map fun a => (a % 2 ^ 40).toNat)).map fun p =>
      read.1.remPkt t n d typ p.addr ((read.2.drop p.walk).take p.len)
    let sig := u.remPkt t n d pSIGNAL (dDst d) (pbOf 8 (dSrc d) false)
    let noted : State := { u with fab := { u.fab with dests := if sig.dst ≠ u.moduleId ∧ !u.fab.dests.contains sig.dst then
      u.fab.dests ++ [sig.dst] else u.fab.dests } }
    let room := noted.holdRoom (u.holdAt t) u.epoch (dCollar d)
    (turn 6 → exec (.deposit t n errs trs) s = .next ((read.1.sendAll t n c d c.next (packets pDEPOSIT 1) trs).finishDesc t n c.next errs)) ∧
    (turn 7 → exec (.rfold t n errs trs) s =
      .next ((read.1.sendAll t n c d c.next (packets pFOLD (if dEtype d = 1 then 2 else 1)) trs).finishDesc t n c.next errs)) ∧
    (turn 8 → u.pass ≠ none → match room with
      | (v, .at_ set way) => ∃ (w : State) (h : HeldSig),
        exec (.signal t n errs trs) s = .next (w.finishDesc t n c.next errs) ∧ w = { v with heldSigs := v.heldSigs ++ [h] } ∧
        h.pkt.typ = pSIGNAL ∧ h.pkt.src = u.moduleId ∧ h.pkt.dst = rwModule (dWin d) ∧ h.slice = v.holdAt t ∧ h.set = set ∧ h.way = way
      | (v, .later) => exec (.signal t n errs trs) s = .next ((v.reopenDesc t n c.next).finishDesc t n c.next errs)
      | (v, .none_ kind) => exec (.signal t n errs trs) s =
        .next (((v.unprotected (v.holdAt t) kind (v.remReq t n c d c.next)).1.sendAll t n c d c.next [sig] trs).finishDesc t n c.next errs)) ∧
    (turn 8 → u.pass = none → exec (.signal t n errs trs) s = .next ((u.sendAll t n c d c.next [sig] trs).finishDesc t n c.next errs)) ∧
    (turn 9 → ∃ p : Packet, exec (.call t n errs trs) s = .next ((u.sendAll t n c d c.next [p] trs).finishDesc t n c.next errs) ∧
      p.typ = pCALL ∧ p.src = u.moduleId ∧ p.dst = rwModule (dWin d) ∧ p.lenM1 = dRun d - 1 ∧ p.offset = dSrc d % 2 ^ 40)

/-- Each completes where its request is the one that acts and its path delivers it. MESH_READ_REQUEST and MESH_WRITE at a target
region that allows them: the request goes back answered, a read with the bytes that the target's scratchpad reads and no byte
changed, a write with only the bytes of its pieces changed; elsewhere the target only counts the refusal and answers it.
FETCH_REPLY takes the reply out of flight. SCENT_PROBE_REPLY does so for a failed probe and for zeros (which land), and
otherwise sends the block as a late read. NEAR_CACHE_FILL takes the fill out of flight and every lookup of that line that waited
has its reply. (R146, R160, R163, R198, R204, R209, R219, R224, R225) -/
def Obligations.TileRequests : Prop :=
  ∀ (s u : State) (ix t n : Nat) (tr : Transit) (errs : List SpdErr) (r q : Req), s.req ix = some r →
    (r.stage = .toTarget → s.meshNext r = true → s.mapHeld = false → s.bayGated (bayOf r.tgt) = false →
      s.meshPath r false tr = (u, some q) →
      (r.kind = .meshRead → (∀ g ∈ q.segs, u.spdAllowed q.tgt (q.addr + g.off) g.len meshRead = true) →
        ∃ (v : State) (z : List PB), exec (.meshReadRequest ix tr errs) s = .next v ∧ (∀ j k, v.spdByte j k = u.spdByte j k) ∧
          v.req ix = some { q with stage := .reply, status := 0, data := z } ∧
          z.map (·.b) = q.segs.flatMap fun g => (List.range g.len).map fun i => u.spdByte q.tgt (q.addr + g.off + i)) ∧
      (r.kind = .meshRead → ¬(∀ g ∈ q.segs, u.spdAllowed q.tgt (q.addr + g.off) g.len meshRead = true) →
        exec (.meshReadRequest ix tr errs) s =
          .next ((u.bump Ev.spdRemoteRefuse (.tile q.tgt) 1).setReq { q with stage := .reply, status := 1, data := [] })) ∧
      (r.kind = .meshWrite → (∀ g ∈ q.segs, u.spdAllowed q.tgt (q.addr + g.off) g.len meshWriteK = true) →
        ∃ v : State, exec (.meshWrite ix tr errs) s = .next v ∧ v.req ix = some { q with stage := .reply, status := 0, data := [] } ∧
          ∀ j k, (j ≠ q.tgt ∨ ∀ g ∈ q.segs, k < q.addr + g.off ∨ q.addr + g.off + g.len ≤ k) → v.spdByte j k = u.spdByte j k)) ∧
    (r.stage = .reply → r.src = .tile t n → (r.kind.mesh = true → s.meshNext r = true) → s.replyPath t tr r = (u, some q) →
      (r.kind ≠ .probe → ¬(r.kind = .nearFill ∧ r.late = true) →
        ∃ v : State, exec (.fetchReply ix tr errs) s = .next v ∧ v.req ix = none) ∧
      (r.kind = .probe → q.status ≠ 0 ∨ q.zero = true → ∃ v : State, exec (.scentProbeReply ix tr errs) s = .next v ∧ v.req ix = none) ∧
      (r.kind = .probe → q.status = 0 → q.zero = false → ∃ (v : State) (z : Req), exec (.scentProbeReply ix tr errs) s = .next v ∧
        v.req ix = some z ∧ z.kind = .memRead ∧ z.late = true ∧ z.addr = q.addr ∧ z.segs = q.segs) ∧
      (r.kind = .nearFill → r.late = true → ∃ v : State, exec (.nearCacheFill ix tr errs) s = .next v ∧ v.req ix = none ∧
        ∀ z ∈ v.reqs, z.kind = .nearFill → z.addr = r.addr → z.src = .tile t n → z.stage ≠ .waitFill))

/-- A read in its turn completes. On a hit (the base sector valid, its words decoding, and nothing uncommitted in it for a
requester that may see only committed contents) the merge entries of the sector are written first and lost metadata of its line
has poisoned it; a tile's request is answered with the bytes it asks for of the sector with the side-lines that it sees added,
and it waits for its corrected sector exactly where words needed correction and the requester is a tile of the slice's floor;
any other requester's request is complete; the sector keeps its words. On a miss with a fill to be had the request waits in a fill
of its sector. A read of a dead line where the trap is set is answered BUS_ERROR, hit or miss. No request that waits at the input and may be
served has a stronger bid than the one served. (R258, R259, R265, R266, R269, R297, R358) -/
def Obligations.SliceRead : Prop :=
  ∀ (s u : State) (n ix : Nat) (tr : Transit) (here : List Nat) (dec : SliceDec) (r : Req) (p : Loc),
    s.sliceTurn n ix [.memRead, .nearFill] tr here = some (u, r, p) →
    let i0 := s.enter n (here ++ [ix])
    let v0 := u.mergeFlush n p.set p.line p.sector
    let v := (if r.epoch ≠ 0 then v0.drainAt n p dec else v0).metaCheck n p dec
    let dead := (v.slice n).dead.contains p.line
    let trap := dead && v.on (F.floorDbgDeadTrap (n / 64))
    let room := v.filling n p = true ∨ (v.slice n).fills.length < 32
    (∃ q, i0.req ix = some q ∧ ∀ x ∈ i0.reqs, x.id ≠ q.id → x.here = true → x.toSlice = true → x.tgt = n → x.stage = .toTarget →
      i0.inOrder n x = true → (i0.reqBid n x).beats (i0.reqBid n q) = false) ∧
    (∀ w c, v.baseSec n p = some (w, c) → c.valid = true → ((v.slice n).line p.set w).kind ≠ .side → trap = false → (dec.ue = [] ∨ room) →
      (r.committedOnly = true → c.etag = 0) → (c.fresh = true ∨ ∀ i ∈ dec.ue, i ∈ c.poison) →
      let got := v.addSides n p (if r.committedOnly then [etCOMMITTED] else [etOPEN, etCOMMITTED, etDROPPING]) (c.words, c.poison)
      let q : Req := { r with data := pick r got, status := 0, zero := secZero got.1 got.2 }
      let redo := !dec.ce.isEmpty && !c.fresh && State.nearRequester n r
      leads (exec (.sliceRead n ix tr here dec) s) fun z =>
        (∀ t k, r.src = .tile t k → z.req ix = some { q with stage := if redo then .waitCorr else .reply }) ∧
        ((∀ t k, r.src ≠ .tile t k) → z.req ix = none) ∧
        (r.lastUse = false → ∃ d, z.baseSec n p = some (w, d) ∧ d.valid = true ∧ d.words = c.words ∧ d.poison = c.poison ∧
          d.etag = c.etag ∧ d.dirty = c.dirty)) ∧
    ((v.baseSec n p = none ∨ ∃ w c, v.baseSec n p = some (w, c) ∧ c.valid = false) → trap = false → room →
      (v.filling n p = false → (v.slice n).find p.line = none → v.on (F.sliceStatRemoved n) = false →
        (v.allocate n p.set p.line (v.kennelOf r.addr) false r.collar dec.wb).2 ≠ .later) →
      leads (exec (.sliceRead n ix tr here dec) s) fun z =>
        z.req ix = some { r with stage := .waitFill } ∧
        ∃ f ∈ (z.slice n).fills, f.line = p.line ∧ f.sector = p.sector ∧ ix ∈ f.reqs) ∧
    (trap = true → room → ∀ t k, r.src = .tile t k → leads (exec (.sliceRead n ix tr here dec) s) fun z =>
      z.req ix = some { r with stage := .reply, status := 7, data := [] } ∧ z.slices = v.slices)

/-- Each completes in its turn. A write of a whole sector that nothing holds in place gives the sector the 32 little-endian
words of its bytes: committed when its epoch is 0, held by its entry (etag) when that entry is Open and the sector is a clean
cached one; a cached sector becomes dirty. A committed write inside one word goes into the merge buffer and leaves the array's
words as they are. A probe is answered at once: zero exactly where the sector is valid, known to be zero and without a side-
line. (R258, R266, R290, R294, R209, R257) -/
def Obligations.SliceWrite : Prop :=
  ∀ (s u : State) (n ix : Nat) (tr : Transit) (here : List Nat) (dec : SliceDec) (r : Req) (p : Loc),
    (s.sliceTurn n ix [.memWrite] tr here = some (u, r, p) →
      let v := u.decodeBase n p 5 dec
      let served (x : State) : Prop := exec (.sliceWrite n ix tr here dec) s = .next (s.sliceLeft (x.wrote n p r) n ix here r)
      let full (x : State) (w e : Nat) : Prop := ∃ d, x.baseSec n p = some (w, d) ∧ d.valid = true ∧ d.etag = e ∧ d.dirty = !p.expl ∧
        d.fresh = false ∧ d.drop = false ∧
        ∀ i, i < 32 → d.word i = BitVec.ofNat 64 (leNat ((List.range 8).map fun k => (r.data.getD (8 * i + k) ⟨0, false⟩).b)) ∧
          (i ∈ d.poison ↔ ∃ k, k < 8 ∧ (r.data.getD (8 * i + k) ⟨0, false⟩).p = true)
      (∀ w c a, v.baseSec n p = some (w, c) → c.valid = true → c.etag = 0 → r.epoch = 0 → r.segs = [⟨a, 0, 256⟩] → r.data.length = 256 →
        ∃ x : State, served x ∧ full x w 0) ∧
      (∀ y0 e w c a, v.takeEntry n r.mod r.epoch = (y0, some e) → let y := y0.drainAt n p dec
        y.baseSec n p = some (w, c) → c.valid = true → c.dirty = false →
        c.etag = 0 → e ≠ 0 → p.expl = false → r.epoch ≠ 0 → y.stateLines n p.set < y.epochQuota n → r.segs = [⟨a, 0, 256⟩] →
        r.data.length = 256 →
        ∃ x : State, served x ∧ full x w e) ∧
      (∀ w c a off len, v.baseSec n p = some (w, c) → c.valid = true → c.etag = 0 → r.epoch = 0 → r.segs = [⟨a, off, len⟩] →
        r.data.length = len → 0 < len → len < 8 → off / 8 = (off + len - 1) / 8 → off < 256 → (v.slice n).merge.length < 16 →
        (∀ m ∈ (v.slice n).merge, ¬(m.set = p.set ∧ m.line = p.line ∧ m.sector = p.sector ∧ m.word = off / 8)) →
        ∃ (x : State) (m : MergeEnt) (d : Sector), served x ∧
          (x.slice n).merge = (v.slice n).merge ++ [m] ∧ m.set = p.set ∧ m.line = p.line ∧ m.sector = p.sector ∧ m.word = off / 8 ∧
          (∀ k, k < 8 → m.mask.getLsbD k = (decide (off % 8 ≤ k) && decide (k < off % 8 + len))) ∧
          (∀ k, k < len → m.bytes.getD (off % 8 + k) 0 = (r.data.getD k ⟨0, false⟩).b) ∧
          x.baseSec n p = some (w, d) ∧ d.valid = true ∧ d.etag = 0 ∧ d.dirty = !p.expl ∧ ∀ i, i < 32 → d.word i = c.word i)) ∧
    (s.sliceTurn n ix [.probe] tr here = some (u, r, p) →
      leads (exec (.scentProbe n ix tr here) s) fun z => ∃ q, z.req ix = some q ∧ q.stage = .reply ∧ q.status = 0 ∧ q.data = r.data ∧
        (q.zero = true ↔ ∃ w c, (u.mergeFlush n p.set p.line p.sector).baseSec n p = some (w, c) ∧ c.valid = true ∧ c.zero = true ∧
          c.side = false))

/-- A Fold in its turn completes. Committed (epoch 0) into a valid sector that nothing holds in place: every word that it covers
becomes the sum of the word and the Fold's, element by element, every other word stays, poison of either side stays marked, and
a cached sector becomes dirty. Under an Open entry without a side-line for the line, with room for one: a side-line of the entry
comes into being in the way taken, holding the elements the Fold covers unchanged and zeros elsewhere, and the base sector's
words stay. (R285, R286, R289, R294, R295, R300) -/
def Obligations.SliceFold : Prop :=
  ∀ (s u : State) (n ix : Nat) (tr : Transit) (here : List Nat) (dec : SliceDec) (r : Req) (p : Loc),
    s.sliceTurn n ix [.memFold] tr here = some (u, r, p) →
    let v := (u.decodeBase n p 4 dec).mergeFlush n p.set p.line p.sector
    let served (x : State) : Prop := exec (.sliceFold n ix tr here dec) s = .next (s.sliceLeft (x.wrote n p r) n ix here r)
    let covered (i : Nat) : Bool := r.segs.any fun g => decide (g.off ≤ 8 * i) && decide (8 * i < g.off + g.len)
    (∀ w c, v.baseSec n p = some (w, c) → c.valid = true → c.etag = 0 → r.epoch = 0 →
      ∃ (x : State) (d : Sector), served x ∧ x.baseSec n p = some (w, d) ∧
        d.valid = true ∧ d.etag = 0 ∧ d.dirty = !p.expl ∧ d.fresh = false ∧
        (∀ i, i < 32 → d.word i = if covered i then foldWord r.etype (c.word i) ((foldSector r).word i) else c.word i) ∧
        (∀ i, i ∈ d.poison ↔ i ∈ c.poison ∨ i ∈ (foldSector r).poison)) ∧
    (∀ y0 e g y' w, v.takeEntry n r.mod r.epoch = (y0, some e) → r.epoch ≠ 0 → let y := y0.drainAt n p dec
      (∀ b c, y.baseSec n p = some (b, c) → c.etag = 0 ∨ c.etag = e) →
      (∀ k ∈ (y.slice n).sides p.set p.line, k.1 ≠ e) → y.stateLines n p.set < y.epochQuota n →
      y.takeWay n p.set 64 false r.collar dec.wb = (y', g) → g = .way w →
      ∃ x : State, served x ∧
        (let l := (x.slice n).line p.set w
         l.kind = .side ∧ l.line = p.line ∧ l.entry = e ∧ l.etype = r.etype ∧
          (p.sector < 8 → (l.sec false p.sector).valid = true ∧ (l.sec false p.sector).side = true ∧ (l.sec false p.sector).dirty = false ∧
            (l.sec false p.sector).etag = e ∧ (l.sec false p.sector).words = (foldSector r).words)) ∧
        ∀ st wy, ¬(st = p.set ∧ wy = w) → wy < 16 → w < 16 → (x.slice n).line st wy = (y'.slice n).line st wy)

/-- Each completes. HBM_FILL_DONE in the channel's order takes the fill out, and only fills of streams that go on then come behind the others; a fill that allocates, for a line still cached and a
sector not valid, gives that sector the words that HBM holds, clean and committed, with the poison marks of HBM when the
controller meets no new uncorrectable word; the read of a tile that waited for it, in a line without side-lines and with no merge
entry, is answered with the bytes it asks for. CORRECTED_SECTOR_SEND answers a tile's request that waited for its correction,
with the data that it held. MERGE_TIMEOUT writes the entry's bytes under its mask into its word of the cached sector, leaves the other words, and
removes the entry. WRITE_BACK_ACK on a channel that answers removes the awaited copy from the entry; with the last one the entry
goes and the sector, if it still holds what was written, is clean. (R258, R259, R266, R269, R323, R328, R335, R337) -/
def Obligations.SliceUpkeep : Prop :=
  ∀ (s : State) (n ix : Nat),
    (∀ (u : State) (here : List Nat) (h b : HbmIn) (f : Fill) (w : Nat), s.fillTurn n ix here h = some (u, f) →
      let p := placeOf n (f.line % 768) f.line f.sector
      (f.reqs = [] → leads (exec (.hbmFillDone n ix here h b) s) fun z => ∃ more, (z.slice n).fills = (u.slice n).fills.eraseIdx ix ++ more) ∧
      (f.alloc = true → f.line < 2 ^ 21 → f.sector < 8 → (s.slice n).find f.line = some w →
        (((s.slice n).line (f.line % 768) w).sec false f.sector).valid = false → s.twinOf n f.line = none → s.chanRetired n = false →
        h.ue = [] →
        let c := s.hbmSec n f.line f.sector
        (f.reqs = [] → (∀ t ∈ (s.slice n).streams, ¬(t.1 < t.2 ∧ t.2 < t.1 + s.prefDepth n)) → leads (exec (.hbmFillDone n ix here h b) s) fun z => ∃ d, z.baseSec n p = some (w, d) ∧ d.valid = true ∧
          d.words = c.1 ∧ d.poison = c.2 ∧ d.etag = 0 ∧ d.dirty = false) ∧
        (∀ j r t e, f.reqs = [j] → s.req j = some r → r.kind = .memRead → r.src = .tile t e → (s.slice n).sides (f.line % 768) f.line = [] →
          (∀ g ∈ (u.slice n).fills.eraseIdx ix, g.at_ p = false) →
          (∀ m ∈ (s.slice n).merge, ¬(m.set = f.line % 768 ∧ m.line = f.line ∧ m.sector = f.sector)) →
          leads (exec (.hbmFillDone n ix here h b) s) fun z => z.req j =
            some { r with stage := .reply, status := 0, data := pick r c, zero := secZero c.1 c.2 }))) ∧
    (∀ r t e, s.req ix = some r → r.tgt = n → r.stage = .waitCorr → r.src = .tile t e →
      leads (exec (.correctedSectorSend n ix) s) fun z => z.req ix = some { r with stage := .reply } ∧ z.slices = s.slices) ∧
    (∀ m w c, (s.slice n).merge[ix]? = some m → m.line < 2 ^ 21 → m.set = m.line % 768 → m.sector < 8 → m.word < 32 →
      let p := placeOf n m.set m.line m.sector
      s.baseSec n p = some (w, c) →
      leads (exec (.mergeTimeout n ix) s) fun z => (∃ d, z.baseSec n p = some (w, d) ∧
        d.word m.word = BitVec.ofNat 64 (leNat (mergeBytes m.mask m.bytes (leBytes 8 (c.word m.word).toNat))) ∧
        (∀ i, i < 32 → i ≠ m.word → d.word i = c.word i) ∧ d.valid = c.valid ∧ d.dirty = c.dirty ∧ d.etag = c.etag) ∧
        ∀ k ∈ (z.slice n).merge, k ∈ (s.slice n).merge ∧ ¬(k.line = m.line ∧ k.set = m.set ∧ k.sector = m.sector ∧ k.word = m.word)) ∧
    (∀ (w : TwinWb) (copyB : Bool), (s.slice n).wbs[ix]? = some w → (if copyB then w.waitB else w.waitA) = true →
      let copy := if copyB then s.twinOf n w.line else some (n, w.line)
      (∀ c, copy = some c → s.chanBusy c.1 = false) →
      ((if copyB then w.waitA else w.waitB) = true → leads (exec (.writeBackAck n ix copyB) s) fun z =>
        ∃ more, (z.slice n).wbs = (s.slice n).wbs.set ix { w with waitA := w.waitA && copyB, waitB := w.waitB && !copyB } ++ more) ∧
      ((if copyB then w.waitA else w.waitB) = false → leads (exec (.writeBackAck n ix copyB) s) fun z =>
        (∃ more, (z.slice n).wbs = (s.slice n).wbs.eraseIdx ix ++ more) ∧
        ∀ v c, let p := placeOf n (w.line % 768) w.line w.sector
          w.line < 2 ^ 21 → w.sector < 8 → s.baseSec n p = some (v, c) → c.words = w.words → c.poison = w.poison → c.etag = 0 →
          (∀ m ∈ (s.slice n).merge, ¬(m.set = w.line % 768 ∧ m.line = w.line ∧ m.sector = w.sector)) →
          (∀ b e, copy = some b → s.epochAt b.1 b.2 = some e → ¬(b.1 = n ∧ e.line = w.line)) →
          z.baseSec n p = some (v, { c with dirty := false })))

/-- Each completes. FLOOR_SCRUB of a sector that is valid, not fresh and not being written: where no new word is uncorrectable
no line changes; where the metadata of the line is lost every sector of it is poisoned, in a cached line dirty too; a clean
cached sector with one becomes invalid, to be filled again; any other keeps its words and has those words marked as poisoned.
Only the sector scrubbed changes. HBM_SCRUB of a line outside the populated rows, of a channel that is not in service or a stack
in self-refresh does nothing; where a line that is no Twin reads without error, only the counters, the channel's accesses
and what its collar has used and waited there differ; where it holds
uncorrectable words and nothing of it is cached, those words are marked as poisoned in HBM. (R270, R271, R332, R338, R699) -/
def Obligations.Scrubs : Prop :=
  ∀ (s : State) (n : Nat),
    (∀ (set way sector : Nat) (dec : SliceDec), way < 16 → sector < 8 →
      let expl := decide (way < s.explWays n)
      let l := (s.slice n).line set way
      let c := l.sec expl sector
      s.on (F.floorScrubEnable (n / 64)) = true → c.valid = true → c.fresh = false →
      (∀ m ∈ (s.slice n).merge, ¬(m.set = set ∧ m.sector = sector ∧ m.line = if expl then 2 ^ 21 + way else l.line)) →
      (dec.metaUe = false → (∀ i ∈ dec.ue, i ∈ c.poison) → leads (exec (.floorScrub n set way sector dec) s) fun z => z.slices = s.slices) ∧
      (dec.metaUe = true → leads (exec (.floorScrub n set way sector dec) s) fun z => ∀ k, k < 8 → (expl = true ∨ l.kind = .cache) →
        let d := ((z.slice n).line set way).sec expl k
        d.valid = true ∧ (expl = false → d.dirty = true) ∧ d.words = (l.sec expl k).words ∧ ∀ i, i < 32 → i ∈ d.poison) ∧
      (dec.metaUe = false → (∃ i ∈ dec.ue, i ∉ c.poison) → leads (exec (.floorScrub n set way sector dec) s) fun z =>
        (let d := ((z.slice n).line set way).sec expl sector
         if l.kind = .cache ∧ c.dirty = false then expl = false → d.valid = false
         else d.words = c.words ∧ d.valid = true ∧ d.dirty = c.dirty ∧ ∀ i, i ∈ d.poison ↔ i ∈ c.poison ∨ i ∈ dec.ue) ∧
        ∀ st wy, wy < 16 → ¬(st = set ∧ wy = way) → (z.slice n).line st wy = (s.slice n).line st wy)) ∧
    (∀ (line : Nat) (a b : List HbmIn),
      (s.slicePopulated n = false ∨ s.selfRef.contains (n / 16) = true ∨ s.rd (F.hbmcChStatState (n / 16) (n % 16)) ≠ 1 ∨
        chanBytes ≤ 2048 * line → exec (.hbmScrub n line a b) s = .next s) ∧
      (s.twinOf n line = none → (∀ h ∈ a, h.ce = [] ∧ h.ue = []) → leads (exec (.hbmScrub n line a b) s) fun z =>
        z = { s with counters := z.counters, acts := z.acts, credits := z.credits, lat := z.lat, freeCtr := z.freeCtr, regs := z.regs } ∧
        ∀ k, k ≠ R.hbmcChEsc (n / 16) (n % 16) → z.reg k = s.reg k) ∧
      (s.twinOf n line = none → line < 2 ^ 21 → (s.slice n).find line = none → s.slicePopulated n = true →
        s.selfRef.contains (n / 16) = false → s.on (F.hbmcScrubEnable (n / 16)) = true →
        s.rd (F.hbmcChStatState (n / 16) (n % 16)) = 1 → 2048 * line < chanBytes → (∀ w ∈ (s.slice n).wbs, w.line ≠ line) →
        (∀ g, s.segOf n line = some g → s.isMirror g = false) →
        leads (exec (.hbmScrub n line a b) s) fun z => ∀ sec, sec < 8 →
          (z.hbmSec n line sec).1 = (s.hbmSec n line sec).1 ∧
          ∀ i, i ∈ (z.hbmSec n line sec).2 ↔ i ∈ (s.hbmSec n line sec).2 ∨ (i < 32 ∧ i ∈ (a.getD sec .quiet).ue)))

/-- Each completes. COMMIT_DRAIN, on a channel that takes requests, drains the slice's first Committed entry and frees it; where the entry holds one cached sector
in place, without side-lines, a last-use mark or a merge entry, the sector keeps its words and becomes an ordinary committed
one. DROP_WALK_DONE frees a Dropping entry; where it holds one such sector in place, the sector becomes invalid, and where that
sector is explicit with an undo copy, it has the words of that copy and etag 0. (R306, R308, R292, R294) -/
def Obligations.EpochSlices : Prop :=
  ∀ (s : State) (n e : Nat) (met : List SliceDec), 1 ≤ e → e ≤ 15 → twf (fun _ => Line.none_) (s.slice n).lines = true →
    (s.rd (etState n e) = etCOMMITTED → (∀ k, 1 ≤ k → k < e → s.rd (etState n k) ≠ etCOMMITTED) → s.chanBusy n = false →
      leads (exec (.commitDrain n met) s) fun z => z.rd (etState n e) = etFREE ∧
        ∀ p w c, s.entryPlaces n e = [p] → s.baseSec n p = some (w, c) → p.expl = false → c.etag = e → c.pendDrop = false →
          (s.slice n).sides p.set p.line = [] → (s.slice n).merge = [] → s.on (F.sliceStatRemoved n) = false →
          z.baseSec n p = some (w, { c with etag := 0 })) ∧
    (s.rd (etState n e) = etDROPPING → leads (exec (.dropWalkDone n e) s) fun z => z.rd (etState n e) = etFREE ∧
      ∀ p w c, s.entryPlaces n e = [p] → s.baseSec n p = some (w, c) → c.etag = e →
        (s.slice n).sides p.set p.line = [] → (s.slice n).merge = [] →
        (p.expl = false → z.baseSec n p = some (w, Sector.none_)) ∧
        (p.expl = true → w < 16 → ∀ k, (s.slice n).undo p.set p.way = some k → k ≠ w →
          (((s.slice n).line p.set k).sec false p.sector).fresh = false → ∃ d, z.baseSec n p = some (w, d) ∧ d.valid = true ∧ d.etag = 0 ∧
            d.words = (((s.slice n).line p.set k).sec false p.sector).words))

/-- Each completes outside a pass. SLICE_MODE_SET of a populated slice gives it the mode and split, and every way that changes
between explicit and cached is empty afterwards in every set. KENNEL_ENABLE gives the window its range and its control bits; its
persistence in effect is the one asked for, or Sticky where Pinned would pass the cap; then the lines that the slices hold take the windows
of their addresses and leave where a quota is passed, which with no line cached changes nothing (that this happens at once is the model's
choice, log entry 103). FLOOR_HASH_WRITE, FLOOR_PERM_WRITE,
FLOOR_TWIN_WRITE and PORT_ROUTE_WRITE give the writable bits of the word written, keep its others, and leave all three copies of that table
good, which crc_ok says in full where the die's other tables are good; a route written then takes effect. Nothing else changes before that.
(R251, R252, R263, R276, R325, R400, R417) -/
def Obligations.KeeperTables : Prop :=
  ∀ (s : State) (n : Nat) (v : W64),
    let table (o : Host.Outcome State Fault Refusal) (a : Nat) (t : TableKind) (i : Nat) (after : State → State) : Prop :=
      ∃ w : State, o = .next (after w) ∧ w = { s with regs := w.regs, keep := { s.keep with copies := w.keep.copies } } ∧
        (∀ k, k ∉ [a, mapStat t i] → w.reg k = s.reg k) ∧ w.copies t i = allPass ∧
        ((∀ x ∈ mapTables t i, x ≠ (t, i) → s.copies x.1 x.2 = allPass) → w.rd ⟨mapStat t i, 0, 3⟩ = 7) ∧
        ∀ d, regDefAt a = some d → w.reg a = (s.reg a &&& ~~~ (BitVec.ofNat 64 d.rw)) ||| (v &&& BitVec.ofNat 64 d.rw)
    (∀ mode split, n < 512 → s.pass = none → s.slicePopulated n = true → mode < 4 → split < 4 →
      twf (fun _ => Line.none_) (s.slice n).lines = true →
      leads (exec (.sliceModeSet n mode split) s) fun z =>
        z.rd (F.sliceCfgMode n) = mode ∧ z.rd (F.sliceCfgSplitWays n) = split ∧ z.rd (F.sliceStatMode n) = (if mode = 3 then 0 else mode) ∧
        z.explWays n = modeWays mode split ∧
        ∀ set way, way < 16 → decide (way < s.explWays n) ≠ decide (way < modeWays mode split) → (z.slice n).line set way = Line.none_) ∧
    (∀ ctrl : W64, n < 64 → ∃ z : State, exec (.kennelEnable n v ctrl) s = .next z.retag.trimSets ∧
      z.reg (R.kenlRange n) = v &&& 0x003FFFFFFFFFFFFF ∧ (∀ i, i < 8 → (z.reg (R.kenlCtrl n)).getLsbD i = ctrl.getLsbD i) ∧
      (let asked := ctrl.toNat / 2 % 4
       (asked ≠ 3 ∨ ctrl.getLsbD 0 = false → z.rd (F.kenlCtrlPersEff n) = asked) ∧
       (asked = 3 → ctrl.getLsbD 0 = true → z.rd (F.kenlCtrlPersEff n) = 3 ∨ z.rd (F.kenlCtrlPersEff n) = 2)) ∧
      z = { s with regs := z.regs, counters := z.counters } ∧ (∀ a, a ≠ R.kenlRange n → a ≠ R.kenlCtrl n → z.reg a = s.reg a) ∧
      ((∀ x ∈ s.slices, ∀ q ∈ x.2.lines, q.2.kind ≠ .cache) → z.retag.trimSets = z)) ∧
    (∀ f, f < 8 → s.pass = none →
      (n < 768 → table (exec (.floorHashWrite f n v) s) (R.floorHash f n) .hashMap f id ∧ table (exec (.floorTwinWrite f n v) s) (R.floorTwin f n) .twin f id) ∧
      (n < 18624 → table (exec (.floorPermWrite f n v) s) (R.floorPerm f n) .perm f id)) ∧
    (∀ p, p < s.variant.portDies → n < 4096 →
      table (exec (.portRouteWrite p n v) s) (R.portRoute p n) .route p State.rerouted)

/-- Each completes. TILE_WINDOW_PACKET in its turn at a tile whose bay has power: the packet leaves those that wait, and where its header
is lost on the tile's shaft that is all; otherwise, where the window check passes (tile present, window open with this generation,
sender in range, operation allowed without a doorbell, bytes aligned and inside) the packet's bytes are written from the window's
base plus its offset, every other byte of every scratchpad stays, and its RESP leaves with OK; and where the check fails no byte
changes and the RESP leaves with the check's status. TILE_WIN_CLOSE_DONE and MWIN_CLOSED of a Closing
window leave it Closed, with its generation as it was and no command waiting for that; what waits for the windows of a module that
retires then goes on (R484). WIN_REOPEN_DELAY_END of a delayed module
window that is still Closed opens it with its next generation and the command's range, senders and operations. (R165, R166,
R167, R168, R399, R406, R409) -/
def Obligations.Windows : Prop :=
  ∀ (s : State) (ix t n w l : Nat) (tr : Transit) (errs : List SpdErr) (p : Packet),
    (s.fab.tilePkts[ix]? = some (l, p) → s.tilePktNext ix p = true → s.mapHeld = false → (s.tilePresent p.tile = true → s.bayGated (bayOf p.tile) = false) →
      let out : State := { s with fab := { s.fab with tilePkts := s.fab.tilePkts.eraseIdx ix } }
      let path := if s.tilePresent p.tile then (out.toTile l p).pktPath p.tile 2 (out.linkBark l) tr p else (out, some p)
      let k := p.winIdx % 4
      let u := path.1
      let ad := 256 * u.rd (F.tileWinBase p.tile k) + p.offset
      let st := u.tileWinCheck p
      (st = rOK ↔ u.tilePresent p.tile = true ∧ u.rd (F.tileWinState p.tile k) = 1 ∧ u.rd (F.tileWinGen p.tile k) = p.gen ∧
        u.rd (F.tileWinSrcLo p.tile k) ≤ p.src ∧ p.src ≤ u.rd (F.tileWinSrcHi p.tile k) ∧ p.doorbell = false ∧
        u.on (if p.typ = pSIGNAL then F.tileWinOpSig p.tile k else F.tileWinOpDep p.tile k) = true ∧
        p.offset % 8 = 0 ∧ p.data.length % 8 = 0 ∧ p.offset + p.data.length ≤ 256 * (u.rd (F.tileWinLenM1 p.tile k) + 1)) ∧
      (path.2 = none ↔ s.tilePresent p.tile = true ∧ tr.lost = true) ∧
      (path.2 = none → exec (.tileWindowPacket ix tr errs) s = .next u ∧ u.fab.tilePkts = s.fab.tilePkts.eraseIdx ix ∧ u.tiles = s.tiles) ∧
      (path.2 ≠ none → ∃ v : State, exec (.tileWindowPacket ix tr errs) s = .next (v.sendPkt (respTo p u.moduleId st false)) ∧
        v.fab.tilePkts = s.fab.tilePkts.eraseIdx ix ∧
        ∀ j a, v.spdByte j a = if st = rOK ∧ j = p.tile ∧ ad ≤ a ∧ a < ad + p.data.length then p.data.getD (a - ad) 0 else s.spdByte j a)) ∧
    (t < tileCount → n < 4 → s.rd (F.tileWinState t n) = 2 → leads (exec (.tileWinCloseDone t n) s) fun z =>
      z.rd (F.tileWinState t n) = 0 ∧ z.rd (F.tileWinGen t n) = s.rd (F.tileWinGen t n) ∧
        ∀ x ∈ z.host.waits, x.why ≠ .tilewinClose t n) ∧
    (w < 1024 → s.rd (F.winCtrlState w) = 2 → s.mwinQuiet w = true →
      ∃ z : State, exec (.mwinClosed w) s = .next z.retireStep ∧
        z.rd (F.winCtrlState w) = 0 ∧ z.rd (F.winCtrlGen w) = s.rd (F.winCtrlGen w) ∧ (∀ x ∈ z.host.waits, x.why ≠ .mwinClose w) ∧
        (∀ g ∈ z.fab.raised, g ∈ s.fab.raised) ∧ (s.host.retiring = false → s.boot.linkPhase ≠ 1 → z.retireStep = z)) ∧
    (∀ e : Entry, w < 1024 → s.fab.winDelays[ix]? = some ⟨w, some e⟩ → bf (parm e 1) 0 10 = w → s.rd (F.winCtrlState w) = 0 →
      parm e 2 + 256 * (bf (parm e 3) 0 32 + 1) ≤ s.variant.hbmBytes → parm e 2 % 256 = 0 →
      leads (exec (.winReopenDelayEnd ix) s) fun z =>
        z.fab.winDelays = s.fab.winDelays.eraseIdx ix ∧ z.rd (F.winCtrlState w) = 1 ∧
        z.rd (F.winCtrlGen w) = nextGen (s.rd (F.winCtrlGen w)) ∧ z.mwinRange w = (parm e 2, 256 * (bf (parm e 3) 0 32 + 1)) ∧
        z.rd (F.winLenSrcLo w) = bf (parm e 4) 0 14 ∧ z.rd (F.winLenSrcHi w) = bf (parm e 4) 16 14 ∧
        z.rd (F.winCtrlOpDep w) = bf (parm e 5) 0 1 ∧ z.rd (F.winCtrlOpFold w) = bf (parm e 5) 1 1 ∧
        z.rd (F.winCtrlOpSig w) = bf (parm e 5) 2 1 ∧ z.rd (F.winCtrlOpCall w) = bf (parm e 5) 3 1 ∧ ∀ x ∈ z.host.waits, x.e ≠ e)

/-- Each completes. BOND_SCAN_START sets the die's busy bit, changes no other register, and starts the scan at its first bond.
BOND_SCAN_STEP tests the bond whose turn it is, and the next bond then has its turn, the first one after the last: a bond that
passes changes nothing else but the busy bit, which clears with the last bond of the scan; the first failure in a group is recorded as
waiting for its spare while a pass runs and as on its spare otherwise, a second failure in the group as bad, and a bond known to
fail is not recorded again. CLOCK_BOND_LOSS records the loss of a sector's clock bond; with that direction's bond already lost
the clock group is exhausted, its repair pending while a pass runs. That the bonds' turns are in one fixed order is the model's
choice (log entry 27). (R233, R234, R235, R236, R513) -/
def Obligations.Bonds : Prop :=
  ∀ (s : State) (d : Nat), d < 8 →
    leads (exec (.bondScanStart d) s) (fun z => z = { s with regs := z.regs, deck := { s.deck with scan := z.deck.scan } } ∧
      (∀ a, a ≠ (F.deckBondScanBusy d).addr → z.reg a = s.reg a) ∧ z.on (F.deckBondScanBusy d) = true ∧ z.scanAt d = 0 ∧
      ∀ k, k ≠ d → z.scanAt k = s.scanAt k) ∧
    (∀ (b : BondRef), b = scanBond (s.scanAt d) → (s.on (F.deckBondScanEnable d) = true ∨ s.on (F.deckBondScanBusy d) = true) →
      let turn (z : State) : Prop := z.scanAt d = (if s.scanAt d + 1 = bondCount then 0 else s.scanAt d + 1) ∧ ∀ k, k ≠ d → z.scanAt k = s.scanAt k
      let known := s.deck.bonds.any fun f => decide (f.die = d) && sameGroup f.bond b && decide (f.bond.bond = b.bond)
      let used := s.deck.bonds.any fun f => decide (f.die = d) && sameGroup f.bond b
      leads (exec (.bondScanStep d b false) s) (fun z => z = { s with regs := z.regs, deck := { s.deck with scan := z.deck.scan } } ∧
        (∀ a, a ≠ (F.deckBondScanBusy d).addr → z.reg a = s.reg a) ∧ turn z ∧
        z.rd (F.deckBondScanBusy d) = if s.scanAt d + 1 = bondCount then 0 else s.rd (F.deckBondScanBusy d)) ∧
      (known = true → leads (exec (.bondScanStep d b true) s) fun z => z.deck = { s.deck with scan := z.deck.scan } ∧ turn z) ∧
      (known = false → s.pass ≠ none → leads (exec (.bondScanStep d b true) s) fun z => turn z ∧
        z.deck.bonds = s.deck.bonds ++ [⟨d, b, if used then 2 else 0, 1, s.epoch⟩] ∧ z.on (F.deckBondLogValid d) = true ∧
        (bondShaft b = true → z.on (F.deckShaftStatRepairPending d b.unit) = true) ∧
        (used = true → ∃ x ∈ z.deck.exhausted, x.1 = d ∧ sameGroup x.2 b = true)) ∧
      (known = false → used = false → s.pass = none → leads (exec (.bondScanStep d b true) s) fun z => turn z ∧
        ⟨d, b, 1, 1, s.epoch⟩ ∈ z.deck.bonds ∧ ∀ f ∈ z.deck.bonds, f.st ≠ 0)) ∧
    (∀ (sector : Nat) (up : Bool), sector < 160 →
      (s.deck.clockLost.contains (d, sector, up) = false → exec (.clockBondLoss d sector up) s =
        .next { s with deck := { s.deck with clockLost := s.deck.clockLost ++ [(d, sector, up)] } }) ∧
      (s.deck.clockLost.contains (d, sector, up) = true → s.pass ≠ none → leads (exec (.clockBondLoss d sector up) s) fun z =>
        z.on (F.deckShaftStatRepairPending d sector) = true ∧
        ∃ x ∈ z.deck.exhausted, x.1 = d ∧ sameGroup x.2 ⟨0, sector, 154 + b2n up, 1⟩ = true))

/-- Each completes on a link that is Up. LINK_FLIT_RECEIVE: the data flit that is next in order with a good CRC advances the
next expected number modulo 4,096 and ends any gap, and one that holds a whole well-formed packet leaves exactly that packet, as
its words spell it, behind those that wait to be served; a data flit that fails changes no packet and no number, opens a gap,
sends a nak with the number of the last flit received in order, and is recorded in LINK_ERR; a sixteenth nak in a row without
progress starts a retrain. Of the flits that may leave the one with the strongest bid leaves next, under a header with its sequence number, the number of the last flit
received in order and a pool's credit total: a count that covers a request
loses its bytes and gains its reservation with time, and one served beyond its count counts as LEASH_OUT below level 9. The pools' turns
in the headers are the model's choice (log entry 32). NAK_REPEAT sends the nak again, CONTROL_FLIT_SEND a control flit with ack_seq and a nak exactly in a
gap; LINK_CREDIT_STALL is recorded as kind 5. (R358, R360, R382, R383, R385, R386, R387, R388, R390, R397, R421) -/
def Obligations.LinkFlits : Prop :=
  (∀ (s : State) (a : Arbiter) (u : EvUnit) (collar lv bytes : Nat),
    let z := s.grant a u collar lv bytes
    (s.inLeash a collar bytes = true → z = { s with credits := z.credits } ∧ s.owed a collar + 1000 * bytes ≤ 2000 * s.gain a collar ∧
      (∀ (y : State) (n : Nat), y.credits = z.credits → y.gain a collar = s.gain a collar → y.now = s.now + n →
        y.owed a collar = s.owed a collar + 1000 * bytes - n * s.gain a collar) ∧
      ∀ b d, b.key d ≠ a.key collar → z.owed b d = s.owed b d) ∧
    (s.inLeash a collar bytes = false → z = if lv < 9 then s.bump Ev.leashOut u 1 else s)) ∧
  (∀ (s : State) (l : Nat) (f : TxFlit), s.nextFlit l = some f → f ∈ (s.link l).ready ∧
    (∀ g ∈ (s.link l).ready, (s.flitBid l g).beats (s.flitBid l f) = false) ∧
    ∃ c, ((s.sendFlit l f).link l).hdr = some c ∧ c.seq = s.rd (F.linkStatTxSeq l) ∧ c.ackSeq = ((s.link l).rxNext + 4095) % 4096 ∧
      c.ctl = false ∧ c.nak = false ∧ c.vl = f.vl ∧ c.rpool = f.rpool ∧ c.sop = f.sop ∧ c.eop = f.eop ∧ c.words = f.body.length ∧
      (c.crRpool = true → c.crVl = 3) ∧ c.crTotal = (s.link l).freedTx.getD (if c.crRpool then 8 else c.crVl) 0 % 1024) ∧
  ∀ (s : State) (l : Nat) (f : Flit) (fec : FecIn), s.linkExists l = true → s.rd (F.linkStatState l) = lkUp →
    let x := s.link l
    let pool := if f.vl = 3 ∧ f.rpool = true then 8 else f.vl
    let ack := (x.rxNext + 4095) % 4096
    let pkt := Packet.ofWords f.body ((List.range f.body.length).filter fun i => f.poison.getLsbD i)
    (fec.flagged = false → f.crcOk = true → f.ctl = false → f.nak = false → f.seq = x.rxNext →
      leads (exec (.linkFlitReceive l f fec) s) fun z => (z.link l).rxNext = (x.rxNext + 1) % 4096 ∧ (z.link l).gap = false ∧
        (f.sop = true → f.eop = true → poolSize pool ≠ 0 → pkt.formOk = true → mgmtReserved pkt = false →
          z.fab.inbox = s.fab.inbox ++ [⟨l, pkt, 1⟩])) ∧
    (fec.flagged = true ∨ f.crcOk = false → f.ctl = false → leads (exec (.linkFlitReceive l f fec) s) fun z =>
      (z.link l).gap = true ∧ (z.link l).rxNext = x.rxNext ∧ z.fab = s.fab ∧ z.on (F.linkErrValid l) = true ∧
      (s.on (F.linkErrValid l) = false → z.rd (F.linkErrKind l) = b2n fec.flagged ∧ z.rd (F.linkErrSeq l) = f.seq % 2 ^ (F.linkErrSeq l).w) ∧
      ∃ c, (z.link l).hdr = some c ∧ c.ctl = true ∧ c.nak = true ∧ c.ackSeq = ack) ∧
    (fec.flagged = false → f.crcOk = true → f.nak = true → f.ackSeq = s.rd (F.linkStatAckSeq l) → x.naks = 15 →
      leads (exec (.linkFlitReceive l f fec) s) fun z => z.rd (F.linkStatState l) = lkRetrain) ∧
    (x.gap = true → leads (exec (.nakRepeat l) s) fun z => ∃ c, (z.link l).hdr = some c ∧ c.ctl = true ∧ c.nak = true ∧ c.ackSeq = ack ∧
      z = { s with links := z.links }) ∧
    (((s.pump l).link l).wait = x.wait → leads (exec (.controlFlitSend l) s) fun z => ∃ c, (z.link l).hdr = some c ∧ c.ctl = true ∧ c.nak = x.gap ∧
      c.ackSeq = ack ∧ c.seq = s.rd (F.linkStatTxSeq l) ∧ z = { s with links := z.links }) ∧
    (∀ vl, (∃ g ∈ x.wait, g.poolOf = vl) → x.credit vl = 0 → leads (exec (.linkCreditStall l vl) s) fun z =>
      z.on (F.linkErrValid l) = true ∧ (s.on (F.linkErrValid l) = false → z.rd (F.linkErrKind l) = 5 ∧ z.on (F.linkErrMulti l) = s.on (F.linkErrMulti l)) ∧
      (s.on (F.linkErrValid l) = true → z.on (F.linkErrMulti l) = true ∧ z.rd (F.linkErrKind l) = s.rd (F.linkErrKind l)))

/-- Each completes on a link that exists. LINK_ENABLE enables it and, Disabled and live, it trains; LINK_DISABLE disables it and
leaves it Disabled at width 0. LINK_RETRAIN_REQUEST and a LINK_LOSS_OF_LOCK of a lane in use take an Up link to Retraining.
LINK_TRAINING_DONE of a Training link and LINK_RETRAIN_DONE of a Retraining one lead to Up, at the widest form that the good
lanes allow, or to Down where that is narrower than the least width allowed; lanes whose symbols fail too often are left out, and a retrain that the host did not ask for never widens
the link. NO_SIGNAL_TIMEOUT takes a Retraining link Down, and so does RETRAIN_LIMIT_EXPIRY once its limit has passed (0 acts as 2 ms, more
than 20 as 20); AUTO_RESTORE trains a live enabled Down link
where it may. PORT_BRIDGE_FAIL takes every link of the port die Down but for those Disabled. (R379, R392, R393, R394, R395,
R419, R420, R571) -/
def Obligations.LinkStates : Prop :=
  ∀ (s : State) (l : Nat), s.linkExists l = true →
    let st := s.rd (F.linkStatState l)
    let goes (o : Host.Outcome State Fault Refusal) (n : Nat) : Prop := leads o fun z => z.rd (F.linkStatState l) = n
    let up (o : Host.Outcome State Fault Refusal) (w : Nat × Nat) : Prop :=
      (s.widthOk l w.1 = true → leads o fun z => z.rd (F.linkStatState l) = lkUp ∧ z.rd (F.linkStatWidth l) = w.1 ∧
        z.rd (F.linkStatLanesGood l) = w.2) ∧
      (s.widthOk l w.1 = false → leads o fun z => z.rd (F.linkStatState l) = lkDown ∧ z.rd (F.linkStatWidth l) = 0 ∧ (z.link l).replay = [])
    leads (exec (.linkEnable l) s) (fun z => z.on (F.linkCtrlEnable l) = true ∧
      z.rd (F.linkStatState l) = if st = lkDisabled ∧ s.linkLive l = true then lkTraining else st) ∧
    leads (exec (.linkDisable l) s) (fun z => z.on (F.linkCtrlEnable l) = false ∧ z.rd (F.linkStatState l) = lkDisabled ∧
      (st ≠ lkDisabled → z.rd (F.linkStatWidth l) = 0 ∧ (z.link l).replay = [])) ∧
    (st = lkUp → goes (exec (.linkRetrainRequest l) s) lkRetrain) ∧
    (∀ lanes, st = lkUp → lanes % 16 &&& s.rd (F.linkStatLanesGood l) ≠ 0 → goes (exec (.linkLossOfLock l lanes) s) lkRetrain) ∧
    (∀ r : LinkTrain, st = lkTraining → up (exec (.linkTrainingDone l r) s) (bestWidth (s.quadLanes l r.lanes))) ∧
    (∀ r : LinkTrain, st = lkRetrain →
      let lanes := s.quadLanes l (r.lanes % 16 &&& (15 - (s.link l).noisy % 16))
      up (exec (.linkRetrainDone l r) s)
        (if (s.link l).widen then bestWidth lanes else bestUpTo (s.rd (F.linkStatWidth l)) (s.rd (F.linkStatLanesGood l)) lanes)) ∧
    (∀ cap old lanes, 1 ≤ cap → lanes % 16 ≠ 0 → (bestUpTo cap old lanes).1 ≤ cap ∧
      (lanes &&& old = old → old ≠ 0 → bestUpTo cap old lanes = (cap, old))) ∧
    (st = lkRetrain → goes (exec (.noSignalTimeout l) s) lkDown ∧
      ((s.link l).since + 1000000 * (let v := s.rd (F.linkCtrlRetrainLimMs l); if v = 0 then 2 else if 20 < v then 20 else v) ≤ s.now →
        goes (exec (.retrainLimitExpiry l) s) lkDown) ∧
      (s.now < (s.link l).since + 1000000 * (let v := s.rd (F.linkCtrlRetrainLimMs l); if v = 0 then 2 else if 20 < v then 20 else v) →
        exec (.retrainLimitExpiry l) s = .next s)) ∧
    (st = lkDown → s.linkLive l = true → s.on (F.linkCtrlEnable l) = true → s.on (F.linkCtrlAutoRestore l) = true →
      goes (exec (.autoRestore l) s) lkTraining) ∧
    (leads (exec (.portBridgeFail (l / 8)) s) fun z => l / 8 ∈ z.fab.bridges ∧ z.linkExists l = false ∧
      z.rd (F.linkStatState l) = if st = lkDisabled then lkDisabled else lkDown)

/-- Each completes. FENCE_HOLD_END ends the hold whose old link has nothing left of it, and no other, and the destination's entry in its port
die is marked as fenced only while another hold of it lasts there; before that it ends none. RESP_TIMEOUT of a packet that is awaited puts it in doubt: with epoch 0 its request
is answered UNREACHABLE, with a pass epoch it is answered inside the module and the epoch is to be discarded, and a held Signal
waits to be sent again. RESEND_AFTER_LIFE takes a Signal out of those that wait and sends it again with a new birth, awaited
once. SIGNAL_RECORD_EXPIRY forgets that record of the window and no other. (R400, R404, R405, R431, R515) -/
def Obligations.PacketTimers : Prop :=
  ∀ (s : State) (ix : Nat),
    (∀ f, s.fab.fences[ix]? = some f →
      (s.drained f = true → leads (exec (.fenceHoldEnd ix) s) fun z =>
        (z.fab.fences.map fun g => (g.die, g.dst, g.link)) = (s.fab.fences.eraseIdx ix).map (fun g => (g.die, g.dst, g.link)) ∧
        ((∀ g ∈ s.fab.fences.eraseIdx ix, ¬(g.die = f.die ∧ g.dst = f.dst)) → z.rd (routeFld f.die f.dst 15 1) = 0)) ∧
      (s.drained f = false → leads (exec (.fenceHoldEnd ix) s) fun z => z.fab.fences = s.fab.fences)) ∧
    (∀ a, s.fab.awaits[ix]? = some a → a.waiting = none → a.pkt.src = s.moduleId →
      let typ := a.pkt.typ
      (typ = pSIGNAL → a.pkt.reqKind = 3 → leads (exec (.respTimeout ix) s) fun z => z.fab = { s.fab with resend := s.fab.resend ++ [a.pkt] }) ∧
      (typ = pDEPOSIT ∨ typ = pFOLD ∨ typ = pCALL → leads (exec (.respTimeout ix) s) fun z =>
        (∃ x : InPkt, z.fab.inbox = s.fab.inbox ++ [x] ∧ x.pkt.typ = pRESP ∧ x.pkt.code = (if a.pkt.epoch = 0 then rUNREACHABLE else rOK) ∧
          answers a x.pkt = true) ∧
        z.fab.doubt = s.fab.doubt ++ (if a.pkt.epoch = 0 then [] else [a.pkt.epoch]) ∧ z.fab.awaits = s.fab.awaits)) ∧
    (∀ p, s.fab.resend[ix]? = some p → p.typ = pSIGNAL → leads (exec (.resendAfterLife ix) s) fun z =>
      z.fab.resend = s.fab.resend.eraseIdx ix ∧
      z.fab.awaits = (s.fab.awaits.filter fun a => decide (a.pkt ≠ p)) ++
        [⟨{ p with src := s.moduleId, birth := s.now / 1000 % 65536 }, none, s.now, none⟩]) ∧
    (∀ w r, (s.fab.sigRecs.filter fun q => decide (q.win = w))[ix]? = some r → leads (exec (.signalRecordExpiry w ix) s) fun z =>
      (∀ q, q ∈ z.fab.sigRecs ↔ q ∈ s.fab.sigRecs ∧ q ≠ r) ∧ z = { s with fab := { s.fab with sigRecs := z.fab.sigRecs } })

/-- Each completes in its turn. DEPOSIT_ARRIVAL, FOLD_ARRIVAL and SIGNAL_ARRIVAL at a module window: where the window check
passes (compute in service, no table in Hold, window open with this generation, sender in range, operation and doorbell allowed,
bytes aligned and inside) and its pages may be written, the packet lands: one request of its kind for each 256-byte block, with
the packet's epoch (a Signal's with 0); otherwise it is refused whole with the check's status. One of an aborted epoch is
refused UNREACHABLE; a Signal accepted before is answered OK and not written again; a Signal that lands is recorded. Packets for
a tile wait for their tile. CALL_ARRIVAL queues the Call at its port die, and CALL_SERVE, while no snapshot drains and the channels of its
bytes take requests, gives the oldest one a free engine, which sends the committed bytes that its read brings back as return Deposits, each
under an index of the port die that no other has while one is free and each after the RESP of the one before; the first refusal ends the
Call with its status. That a Call whose read the dead table refuses ends with BUS_ERROR is the model's reading (log entry 98), as is that its
engine sends one Deposit at a time (log entry 76). (R399, R407, R408, R411, R412, R514, R515) -/
def Obligations.WindowArrivals : Prop :=
  (∀ (s v : State) (l : Nat) (p : Packet), s.packetTurn l p = some v →
    let u := v.wake
    let open_ := u.aborted p = false ∧ p.wkind ≠ 1 ∧ u.mwinCheck p = rOK
    let free : Prop := ∀ b ∈ (u.landBlocks p).1, u.refused b.1 true = false
    let turned (o : Host.Outcome State Fault Refusal) : Prop :=
      (u.aborted p = true → o = .next (u.refusePkt p rUNREACHABLE)) ∧
      (u.aborted p = false → p.wkind ≠ 1 → u.mwinCheck p ≠ rOK → o = .next ((u.bump Ev.mwinRefuse .module 1).refusePkt p (u.mwinCheck p)))
    (u.mwinCheck p = rOK ↔ u.rd F.bootPartCompute = 1 ∧ u.keep.hold = none ∧ u.rd (F.winCtrlState p.winIdx) = 1 ∧
      u.rd (F.winCtrlGen p.winIdx) = p.gen ∧ u.rd (F.winLenSrcLo p.winIdx) ≤ p.src ∧ p.src ≤ u.rd (F.winLenSrcHi p.winIdx) ∧
      u.on (opFld p) = true ∧ (p.doorbell = true → u.on (F.winCtrlDbEn p.winIdx) = true) ∧ p.offset % 8 = 0 ∧
      (if p.typ = pCALL then p.lenM1 + 1 else p.data.length) % 8 = 0 ∧ p.offset + targetLen p ≤ (u.mwinRange p.winIdx).2) ∧
    (p.typ = pDEPOSIT →
      (open_ → free → leads (exec (.depositArrival l p) s) fun z => landed u z l p .memWrite p.epoch) ∧
      (u.aborted p = false → p.wkind = 1 → u.rd F.bootPartCompute = 1 → exec (.depositArrival l p) s =
        .next { u with fab := { u.fab with tilePkts := u.fab.tilePkts ++ [(l, p)] } }) ∧ turned (exec (.depositArrival l p) s)) ∧
    (p.typ = pFOLD → (open_ → free → leads (exec (.foldArrival l p) s) fun z => landed u z l p .memFold p.epoch) ∧
      turned (exec (.foldArrival l p) s)) ∧
    (p.typ = pSIGNAL →
      let k : SigRec := ⟨p.winIdx, p.src, p.epoch, p.offset⟩
      let again := p.wkind = 0 ∧ p.epoch ≠ 0 ∧ k ∈ v.fab.sigRecs
      (again → exec (.signalArrival l p) s = .next (v.refusePkt p rOK)) ∧
      (¬again → open_ → free → leads (exec (.signalArrival l p) s) fun z => landed u z l p .memWrite 0 ∧ k ∈ z.fab.sigRecs ∧
        ((u.fab.sigRecs.filter fun r => decide (r.win = k.win)).length < 64 → z.fab.sigRecs = u.fab.sigRecs ++ [k])) ∧
      (¬again → turned (exec (.signalArrival l p) s))) ∧
    (p.typ = pCALL → (open_ → leads (exec (.callArrival l p) s) fun z =>
      z.fab = { u.fab with calls := u.fab.calls ++ [⟨if l < 64 then l / 8 else l - 64, p, 8, 0, []⟩] }) ∧ turned (exec (.callArrival l p) s))) ∧
    (∀ (s : State) (port k : Nat) (c : CallJob) (met : List SliceDec), s.fab.calls.find? (fun c => decide (c.port = port) && decide (c.eng = 8)) = some c → k < 8 →
      (∀ d ∈ s.fab.calls, ¬(d.port = port ∧ d.eng = k)) → (∀ j, j < k → ∃ d ∈ s.fab.calls, d.port = port ∧ d.eng = j) →
      let a := (s.mwinRange c.pkt.winIdx).1 + c.pkt.offset
      let n := c.pkt.lenM1 + 1
      s.snapDrains = false → s.memBusy a n = false →
      let got := ((s.settleFills a n met).ringOnce (portFloor port) a n c.pkt.collar).readAt false c.pkt.collar a n met
      (got.2 = none → leads (exec (.callServe port met) s) fun z => c ∉ z.fab.calls ∧
        ∃ v : State, v.fab = { got.1.fab with calls := got.1.fab.calls.filter fun x => decide (x ≠ c) } ∧
          z = v.sendPkt (respTo c.pkt v.moduleId rBUS_ERROR false)) ∧
      ∀ data, got.2 = some data →
      let cuts := remCut 1 (data.length / 8 + 2) (leNat ((c.pkt.data.drop 8).take 8) % 2 ^ 40) 0 data.length
      ∃ ps : List Packet, ps.length = cuts.length ∧
        (∀ (j : Nat) (w : WPiece) (q : Packet), cuts[j]? = some w → ps[j]? = some q → q.typ = pDEPOSIT ∧ q.ret = true ∧ q.dst = c.pkt.src ∧ q.reqKind = 1 ∧
          q.reqPort = port ∧ q.offset = w.addr % 2 ^ 40 ∧ q.epoch = c.pkt.epoch ∧ q.data = ((data.drop w.walk).take w.len).map (·.b)) ∧
        (let d : CallJob := { c with eng := k, left := ps }
         exec (.callServe port met) s = .next
          (({ got.1 with fab := { got.1.fab with calls := got.1.fab.calls.map fun x => if x = c then d else x } } : State).callSend d))) ∧
    (∀ (u : State) (d : CallJob) (p : Packet) (r : List Packet), d.left = p :: r →
      ∃ k, u.callSend d = ({ u with fab := { u.fab with calls := u.fab.calls.map fun x => if x = d then { d with tag := k, left := r } else x } } : State).request
          { p with reqTag := k } none ∧
        (∀ j, j < 64 → (∀ a ∈ u.fab.awaits, ¬(a.pkt.reqKind = 1 ∧ a.pkt.reqPort = d.port ∧ a.pkt.reqTag = j)) →
          k < 64 ∧ ∀ a ∈ u.fab.awaits, ¬(a.pkt.reqKind = 1 ∧ a.pkt.reqPort = d.port ∧ a.pkt.reqTag = k))) ∧
    (∀ (s v : State) (l : Nat) (p : Packet) (a : Await) (c : CallJob), s.packetTurn l p = some v → p.typ = pRESP → p.reqKind = 1 → p.unprot = false →
      v.awaited p = some a → v.fab.calls.find? (fun c => decide (c.port = p.reqPort) && decide (c.eng < 8) && decide (c.tag = p.reqTag)) = some c →
      let u : State := { v with fab := { v.fab with awaits := v.fab.awaits.erase a } }
      (p.code = 0 → c.left ≠ [] → exec (.respArrival l p) s = .next (u.callSend c).tryLaunch) ∧
      (p.code ≠ 0 ∨ c.left = [] → ∃ w : State, w.fab = { u.fab with calls := u.fab.calls.filter fun x => decide (x ≠ c) } ∧
        exec (.respArrival l p) s = .next (w.sendPkt (respTo c.pkt w.moduleId p.code false)).tryLaunch))

/-- Each completes in its turn. RESP_ARRIVAL for an awaited packet of an engine: the packet is awaited no more and its request
is answered with the RESP's status; one that nothing awaits changes nothing of what is awaited. NOTICE_COMMIT: in every slice
the sender's Open entry of that epoch is Committed. NOTICE_ABORT: the epoch is the sender's newest aborted one unless a newer is
known, and in every slice its Open entry is Dropping unless packets of it are still landing. NOTICE_ABORT_ACK of the current
epoch: the sender is awaited no more. NOTICE_UNPROTECTED of the current epoch marks the running pass non-replayable, cause 3 if
it is the first. NOTICE_IN_DOUBT without a request of this module adds its epoch to those to be discarded. (R299, R300, R305,
R308, R309, R399, R404, R514) -/
def Obligations.Notices : Prop :=
  ∀ (s v : State) (l : Nat) (p : Packet), s.packetTurn l p = some v →
    (p.typ = pRESP →
      (v.awaited p = none → (∀ w ∈ v.host.waits, ∀ n c b, w.why ≠ .launch n c b) → leads (exec (.respArrival l p) s) fun z => z.fab.awaits = v.fab.awaits) ∧
      (∀ a id r, v.awaited p = some a → p.reqKind = 0 → a.req = some id → v.req id = some r → p.unprot = false →
        (∀ w ∈ v.host.waits, ∀ n c b, w.why ≠ .launch n c b) →
        leads (exec (.respArrival l p) s) fun z => z.fab.awaits = v.fab.awaits.erase a ∧
          z.req id = some { r with stage := .reply, status := p.code })) ∧
    (isNotice p nCommit = true → leads (exec (.noticeCommit l p) s) fun z => ∀ n e, n < 512 →
      v.entryOf n p.src p.epoch [etOPEN] = some e → z.rd (etState n e) = etCOMMITTED) ∧
    (isNotice p nAbort = true → leads (exec (.noticeAbort l p) s) fun z =>
      (∀ n e, n < 512 → v.entryOf n p.src p.epoch [etOPEN] = some e →
        (∀ k ∈ v.fab.landings, ¬(k.pkt.src = p.src ∧ k.pkt.epoch = p.epoch ∧ k.pkt.ret = false)) → z.rd (etState n e) = etDROPPING) ∧
      ((∀ a ∈ v.fab.aborts, a.1 ≠ p.src) ∨ newer p.epoch (tget (fun _ => 0) v.fab.aborts p.src) = true →
        tget (fun _ => 0) z.fab.aborts p.src = p.epoch) ∧
      ∀ m, m ≠ p.src → tget (fun _ => 0) z.fab.aborts m = tget (fun _ => 0) v.fab.aborts m) ∧
    (isNotice p nAbortAck = true → ∀ q, v.pass = some q → p.epoch = v.epoch → leads (exec (.noticeAbortAck l p) s) fun z =>
      ∃ q', z.pass = some q' ∧ (∀ m, m ∈ q'.acks ↔ m ∈ q.acks ∧ m ≠ p.src) ∧ q' = { q with acks := q'.acks }) ∧
    (isNotice p nUnprot = true → v.pass ≠ none → p.epoch = v.epoch → leads (exec (.noticeUnprotected l p) s) fun z =>
      z.on F.keepPassStatNonrep = true ∧
        z.rd F.keepPassStatNonrepCause = if v.on F.keepPassStatNonrep = true then v.rd F.keepPassStatNonrepCause else nrCOLLISION) ∧
    (isNotice p nInDoubt = true → v.awaited p = none → leads (exec (.noticeInDoubt l p) s) fun z =>
      z.fab = { v.fab with doubt := v.fab.doubt ++ (if p.epoch = 0 then [] else [p.epoch]) })

/-- Each completes in its turn while the Keeper runs. JOIN with a valid ID makes the sender known as the link's peer, and
answers it; a JOIN with this module's own valid ID while step S11 runs makes the join fail: the ID is not valid in any port die,
and the step fails with 0x1C. JOIN_ACK makes the peer known and, if it accepts, its link is awaited no more. MGMT_RETIRE: no
route uses the link any more. RETIRE_ACK: the link's acknowledgement is awaited no more. (R538, R539, R540, R545, R484) -/
def Obligations.Management : Prop :=
  ∀ (s v : State) (l : Nat) (p : Packet), s.packetTurn l p = some v → s.keep.restarting = false → l < 64 →
    (isMgmt p 1 = true →
      (mgmtValid p = true → ¬(p.src = v.moduleId ∧ v.on (F.portSelfValid 0) = true) → leads (exec (.join l p) s) fun z =>
        z.on (F.linkStatPeerValid l) = true ∧ z.rd (F.linkStatPeerModule l) = p.src % 2 ^ 14 ∧
        ∃ f, f ∈ (z.link l).wait ++ (z.link l).replay.map (·.2) ∧ f.pkt.typ = pMGMT ∧ (f.pkt.mgmt.map (·.kind)) = some 2) ∧
      (mgmtValid p = true → p.src = v.moduleId → v.on (F.portSelfValid 0) = true → v.boot.running = true → v.rd F.bootStatusStep = 11 →
        leads (exec (.join l p) s) fun z => (∀ k, k < s.variant.portDies → z.on (F.portSelfValid k) = false) ∧ z.boot.running = false ∧
          z.rd F.bootStatusState = 3 ∧ z.rd F.bootStatusResult = 0x1C)) ∧
    (isMgmt p 2 = true → mgmtValid p = true → (p.mgmt.any fun h => decide (h.status = 1)) = false →
      leads (exec (.joinAck l p) s) fun z => z.on (F.linkStatPeerValid l) = true ∧ z.rd (F.linkStatPeerModule l) = p.src % 2 ^ 14 ∧
        l ∉ z.boot.joinWait) ∧
    (isMgmt p 3 = true → leads (exec (.mgmtRetire l p) s) fun z => l ∈ z.fab.leaving ∧ ∀ d m, z.routeOf d m ≠ some l) ∧
    (isMgmt p 4 = true → leads (exec (.retireAck l p) s) fun z => l ∉ z.fab.retireWait)

/-- Each completes in its turn. PACK_UP of a child on an enabled tree, for the current or a later operation and not seen before,
joins the packets kept while no operation is active here, and marks the child as in when it is of the current one; one seen
before only counts. PACK_DOWN from the parent for the current operation, but for a broadcast, ends the operation: op_seq counts
up modulo 65,536, the tree is idle, and last_status is the packet's. A stale one only counts. PACK_TIMEOUT of an operation that
is active makes the tree's state TIMEOUT and leaves the operation. FABRIC_RESET_PACKET from the parent begins a compute reset in
the fabric form that keeps HBM as it asks; the running pass is gone. SNAPSHOT_FREEZE of an armed slot whose barrier is complete
and whose drains are done opens it with the commit epoch and the time, and sends the first chunk if it reads clean. (R432, R434,
R439, R446, R451, R456, R541, R543) -/
def Obligations.PackRows : Prop :=
  (∀ (s v : State) (l : Nat) (p : Packet) (h : PackHdr), s.packetTurn l p = some v → p.typ = pPACK → p.pack = some h → h.tree < 16 →
    v.on (F.packTreeCtrlEnable h.tree) = true →
    let t := h.tree
    let x := v.tree t
    let old := seqBefore h.opSeq x.opSeq
    let again := x.ups.any fun q => decide (q.src = p.src) && decide (q.pack.map (·.opSeq) = some h.opSeq)
    (∀ k, h.up = true → h.kind ≠ kTIME → ((v.kids t).find? fun k => decide (v.kid t k = some p.src)) = some k →
      (old = true ∨ again = true → leads (exec (.packUp l p) s) fun z => z.trees = v.trees) ∧
      (old = false → again = false → x.op = none → x.starts = [] → leads (exec (.packUp l p) s) fun z =>
        z.tree t = { x with ups := x.ups ++ [p] } ∧ (∀ j, j ≠ t → z.tree j = v.tree j) ∧
        (h.opSeq = x.opSeq → (z.rd (F.packTreeStatKidsIn t)).testBit k = true))) ∧
    (h.up = false → v.isRoot t = false → v.rd (F.packTreeCtrlParent t) = p.src →
      (h.kind ≠ kTIME → h.kind ≠ kRESET → old = true → leads (exec (.packDown l p) s) fun z => z.trees = v.trees) ∧
      (h.kind ≠ kTIME → h.kind ≠ kRESET → h.kind ≠ kBROADCAST → h.opSeq = x.opSeq → x.starts = [] → x.downs = [] →
        leads (exec (.packDown l p) s) fun z => (z.tree t).opSeq = (x.opSeq + 1) % 65536 ∧ (z.tree t).op = none ∧
          z.rd (F.packTreeStatState t) = 0 ∧ z.rd (F.packTreeStatLastStatus t) = h.status % 16) ∧
      (h.kind = kRESET → old = false → x.resetSeq ≠ some h.opSeq → s.keep.restarting = false → v.boot.reset = none → leads (exec (.fabricResetPacket l p) s) fun z =>
        z.boot.reset = some ⟨bit h.aux 0, true, false⟩ ∧ z.rd F.bootPartCompute = 2 ∧ z.on F.bootPartFabric = true ∧ z.pass = none ∧
          z.heldSigs = []))) ∧
  (∀ (s : State) (t : Nat), t < 16 → s.rd (F.packTreeStatState t) = 1 → (s.tree t).op ≠ none → leads (exec (.packTimeout t) s) fun z =>
    z.rd (F.packTreeStatState t) = 2 ∧ z.trees = s.trees) ∧
  (∀ (s : State) (k : Nat) (x : SnapSt), k < 2 → s.snap k = some x → s.rd (F.packSnapStatState k) = snARMED → x.promoting = true → x.barrier = true →
    s.drainsLeft = false → x.stopping = false → ∀ a cs, planChunks x.plan = a :: cs → x.next = 0 →
    let u := (s.wrs [(F.packSnapStatState k, snOPEN), (F.packSnapStatEpoch k, s.commitEpoch)]).setSnap k (some { x with time := s.now })
    anyPois (u.readCommitted 1 a 0x200000).2 = false → leads (exec (.snapshotFreeze k) s) fun z =>
      z.rd (F.packSnapStatState k) = snOPEN ∧ z.rd (F.packSnapStatEpoch k) = s.commitEpoch % 2 ^ 32 ∧
      (∃ y, z.snap k = some y ∧ y.time = s.now ∧ y.next = 1 ∧ y.out = x.out ++ [(0, 1024)]) ∧
      z.fab.awaits.length = s.fab.awaits.length + 1024)

/-- Each completes. CHANNEL_RETRAIN_DONE of a channel that retrains, while no launch is held: with a rate the channel is in service with its lane repairs,
the lanes left unrepaired known and no lane pending, and no command waits for it; with two lanes of one pseudo-channel left
unrepaired it is retired with cause 2, and without a rate with cause 1. COMPUTE_RESET_DONE of a reset whose
pass has ended: the reset is over, no request is in flight, every epoch entry is free, every tile window is Closed, HBM contents
are lost exactly where they were not to be kept, and the compute partition is in service again unless the module is halted,
which it stays where a Module-fatal fault came meanwhile; no command waits for the reset. (R337, R338, R345, R541, R542, R544,
R546) -/
def Obligations.RetrainAndReset : Prop :=
  ∀ (s : State),
    (∀ r : ChanTrain, r.chan < 512 → s.slicePopulated r.chan = true → (∀ w ∈ s.host.waits, ∀ n c b, w.why ≠ .launch n c b) →
      let h := r.chan / 16
      let c := r.chan % 16
      s.rd (F.hbmcChStatState h c) = 2 →
      let two := ∃ i j : Nat, i < j ∧ j < r.unrep.length ∧ r.unrep.getD i 0 / 32 = r.unrep.getD j 0 / 32
      (r.rate ≠ none → ¬two → leads (exec (.channelRetrainDone r) s) fun z => z.rd (F.hbmcChStatState h c) = 1 ∧
        z.rd (F.hbmcChStatLanesRepPc0 h c) = r.rep0 % 2 ^ (F.hbmcChStatLanesRepPc0 h c).w ∧
        z.rd (F.hbmcChStatLanesRepPc1 h c) = r.rep1 % 2 ^ (F.hbmcChStatLanesRepPc1 h c).w ∧
        z.on (F.hbmcChStatLaneUnrep h c) = decide (r.unrep ≠ []) ∧ z.rd (F.hbmcChStatLanePending h c) = 0 ∧
        (∀ x ∈ z.laneHits, x.chan = r.chan → x.what < 1024 ∨ ∃ i ∈ r.unrep, x.what = 2048 + i) ∧
        (∀ i ∈ r.unrep, ∃ x ∈ z.laneHits, x.chan = r.chan ∧ x.what = 2048 + i) ∧ ∀ w ∈ z.host.waits, w.why ≠ .retrainChan r.chan) ∧
      (r.rate ≠ none → two → leads (exec (.channelRetrainDone r) s) fun z => z.rd (F.hbmcChStatState h c) = 3 ∧
        z.rd (F.hbmcChStatRetireCause h c) = 2 ∧ ∀ w ∈ z.host.waits, w.why ≠ .retrainChan r.chan) ∧
      (r.rate = none → leads (exec (.channelRetrainDone r) s) fun z => z.rd (F.hbmcChStatState h c) = 3 ∧
        z.rd (F.hbmcChStatRetireCause h c) = 1 ∧ ∀ w ∈ z.host.waits, w.why ≠ .retrainChan r.chan)) ∧
    (∀ r : ResetSt, s.boot.reset = some r → s.pass = none → s.keep.restarting = false →
      leads (exec .computeResetDone s) fun z => z.boot.reset = none ∧ z.reqs = [] ∧ z.hbmGen = s.hbmGen + (if r.keep then 0 else 1) ∧
        z.on F.bootPartHbmKept = r.keep ∧ (∀ n e, n < 512 → 1 ≤ e → e ≤ 15 → z.rd (etState n e) = etFREE) ∧
        (∀ t n, t < tileCount → n < 4 → z.rd (F.tileWinState t n) = 0) ∧
        (s.rd F.keepFaultStatState ≠ 2 → z.rd F.bootPartCompute = 1) ∧
        (s.rd F.keepFaultStatState = 2 → r.halt = true → z.rd F.bootPartCompute = 3 ∧ z.rd F.keepFaultStatState = 2) ∧
        ∀ w ∈ z.host.waits, w.why ≠ .computeReset)

/-- Of a command that may start: an admin command from another queue than 0 completes with INVALID_OPCODE and does nothing else,
and no command from queue 0 does for its scope. A job command whose job is not open, or not of the session that owns its queue,
completes with NO_JOB and does nothing else (the module ready and not halted, its reserved fields 0). JOB_OPEN with a job open
completes with JOB_LIMIT and does nothing else. (R469) -/
def Obligations.CommandScopes : Prop :=
  ∀ (s : State) (e : Entry), s.cmdReady e = true →
    let u := s.cmdStart e
    (e.sq ≠ 0 → ∀ c ∈ adminCmds e, leads (exec c s) fun z => posted u z e sINVALID_OPCODE 0) ∧
    (e.sq = 0 → ∀ sc g used, u.cmdCheck e sc g used ≠ some sINVALID_OPCODE) ∧
    (u.rd F.keepFaultStatState ≠ 2 → u.on F.bootStatusReady = true → e.rsv = 0 →
      (∀ j, u.job = some j → j.handle = e.job → u.on (F.cmdqQcfgOwned e.sq) = true → u.rd (F.cmdqQcfgSession e.sq) ≠ j.session) →
      ∀ c ∈ jobCmds e, extraBits e c.2 = false → leads (exec c.1 s) fun z => posted u z e sNO_JOB 0) ∧
    (s.cmdTurn e .jobQueue ⟨false, true, true, true⟩ [(1, [(0, 4)])] = some u → bf (parm e 1) 0 4 ≤ 12 → u.host.retiring = false → u.job ≠ none →
      leads (exec (.jobOpen e) s) fun z => posted u z e sJOB_LIMIT 0)

/-- A command that may not start (its queue disabled or stopped, step S2 not done, the Keeper restarting, or a fence with
commands before it) changes nothing. A start adds one to its queue's commands in progress, sets busy, wakes the partition from
Gate or Retain, and counts HOST_CMD. Of commands that start: in a halted module all but NOP, LOG_READ, TELEM_SNAPSHOT,
IDENTITY_READ and PARTITION_RESET complete with PARTITION_DOWN, an admin command with a reserved field set with INVALID_FIELD,
and a job command but JOB_CLOSE, PLACE_QUERY and PASS_COMMIT, which R303 answers, after a Job-fatal fault with JOB_FATAL and its
cause; each does nothing else.
That a fenced command which must wait is tried again later is the model's reading. (R463, R466, R468, R474, R518, R519, R521,
R579) -/
def Obligations.CommandChecks : Prop :=
  ∀ (s : State) (e : Entry),
    (s.cmdReady e = false → ∀ c ∈ [.nop e, .jobOpen e] ++ adminCmds e ++ (jobCmds e).map (·.1), exec c s = .next s) ∧
    (s.cmdReady e = true →
      let u := s.cmdStart e
      ((u.queue e.sq).out = (s.queue e.sq).out + 1 ∧ u.rd (F.cmdqQcfgBusy e.sq) = 1 ∧ (∀ q, q ≠ e.sq → u.queue q = s.queue q) ∧
        u.rd F.pwrmWakeTolCurrent = (if s.rd F.pwrmWakeTolCurrent = 1 ∨ s.rd F.pwrmWakeTolCurrent = 2 then 0 else s.rd F.pwrmWakeTolCurrent) ∧
        u.counters = bumpFuel 65 Ev.hostCmd .module 1 s.counters ∧ onlyRegs { s with host := u.host, counters := u.counters } u [R.cmdqQcfg e.sq, R.pwrmWakeTol]) ∧
      (u.rd F.keepFaultStatState = 2 → u.rd F.pwrmWakeTolCurrent < 3 →
        (e.sq = 0 → ∀ c ∈ adminCmds e, c ∉ [.logRead e, .telemSnapshot e, .identityRead e, .computeResetLocal e, .linkReset e] →
          leads (exec c s) fun z => posted u z e sPARTITION_DOWN 0) ∧
        leads (exec (.jobOpen e) s) (fun z => posted u z e sPARTITION_DOWN 0) ∧
        ∀ c ∈ jobCmds e, leads (exec c.1 s) fun z => posted u z e sPARTITION_DOWN 0) ∧
      (u.rd F.keepFaultStatState ≠ 2 → e.rsv ≠ 0 → e.sq = 0 → ∀ c ∈ adminCmds e, leads (exec c s) fun z => posted u z e sINVALID_FIELD 0) ∧
      (u.rd F.keepFaultStatState ≠ 2 → u.on F.bootStatusReady = true → e.rsv = 0 → u.computeDown = false →
        (∃ j, u.job = some j ∧ j.handle = e.job ∧ u.on (F.cmdqQcfgOwned e.sq) = true ∧ u.rd (F.cmdqQcfgSession e.sq) = j.session) →
        u.on F.keepFaultStatJobFatal = true → u.rd F.keepFaultStatFatalCause ≠ 0 →
        ∀ c ∈ jobCmds e, c.1 ∉ [.jobClose e, .placeQuery e, .passCommit e] → extraBits e c.2 = false →
          leads (exec c.1 s) fun z => posted u z e sJOB_FATAL (u.rd F.keepFaultStatFatalCause)))

/-- Each completes when its own checks pass, and does nothing else than said. NOP only completes. EVENT_MASK sets the mask of
notices. COLLAR_CFG sets KEEP_COLLAR_CFG, and with esc_en 0 every escalation step is 0. MEASURE_READ writes the measurements to
the host, or with a buffer below 576 bytes writes nothing and gives the bytes needed. IDENTITY_READ writes the identity record.
Where the host's memory fails, HOST_DMA is the outcome and only the record of host errors may change. COUNTER_CFG applies every
entry, or none where one is not valid: a counter named by one entry takes its selection and clears or keeps its count, and one
that no entry names keeps all. (R468, R470, R476, R370, R630, R653, R655, R658) -/
def Obligations.InfoCommands : Prop :=
  ∀ (s u : State) (e : Entry),
    (s.cmdTurn e .any ⟨true, false, false, true⟩ [] = some u → leads (exec (.nop e) s) fun z => posted u z e sOK 0) ∧
    (s.cmdTurn e .admin .plain [(1, [(0, 16)])] = some u →
      leads (exec (.eventMask e) s) fun z => posted { u with host := { u.host with mask := parm e 1 % 2 ^ 16 } } z e sOK 0) ∧
    (s.cmdTurn e .admin .plain [(1, [(0, 6)])] = some u → leads (exec (.collarCfg e) s) fun z => ∃ v, posted v z e sOK 0 ∧
      v.reg R.keepCollarCfg = BitVec.ofNat 64 (parm e 1 % 2 ^ 6) ∧
      (v.on F.keepCollarCfgEscEn = false → ∀ n, n < 512 → v.reg (R.sliceEsc n) = 0 ∧ v.reg (R.hbmcChEsc (n / 16) (n % 16)) = 0) ∧
      onlyRegs u v (R.keepCollarCfg :: if v.on F.keepCollarCfgEscEn = true then [] else
        (List.range 512).flatMap fun n => [R.sliceEsc n, R.hbmcChEsc (n / 16) (n % 16)])) ∧
    (s.cmdTurn e .admin .plain [(1, [(3, 61)]), (2, [(0, 32)])] = some u →
      (parm e 2 % 2 ^ 32 < 576 → leads (exec (.measureRead e) s) fun z => posted u z e sINVALID_FIELD 576) ∧
      (576 ≤ parm e 2 % 2 ^ 32 → e.inp.wrOk = true →
        leads (exec (.measureRead e) s) fun z => posted (u.hostWrite (parm e 1) u.measBytes) z e sOK 576) ∧
      (576 ≤ parm e 2 % 2 ^ 32 → e.inp.wrOk = false →
        leads (exec (.measureRead e) s) fun z => ∃ v, posted v z e sHOST_DMA 0 ∧ onlyRegs u v [R.hostwErr])) ∧
    (s.cmdTurn e .admin ⟨true, false, false, true⟩ [(1, [(3, 61)])] = some u →
      (e.inp.wrOk = true → leads (exec (.identityRead e) s) fun z => posted (u.hostWrite (parm e 1) (mgets u.fw.eeprom 0 512)) z e sOK 0) ∧
      (e.inp.wrOk = false → leads (exec (.identityRead e) s) fun z => ∃ v, posted v z e sHOST_DMA 0 ∧ onlyRegs u v [R.hostwErr])) ∧
    (s.cmdTurn e .admin .plain [(1, [(3, 61)]), (2, [(0, 16)])] = some u →
      let n := parm e 2 % 2 ^ 16
      ∀ bs, e.inp.read = some bs → 8 * n ≤ bs.length →
        let vs := (leWords n bs).map (·.toNat)
        ((∃ x ∈ vs, u.selOk x = false) → leads (exec (.counterCfg e) s) fun z => posted u z e sINVALID_FIELD 0) ∧
        ((∀ x ∈ vs, u.selOk x = true) → leads (exec (.counterCfg e) s) fun z => ∃ v, posted v z e sOK 0 ∧ v = { u with counters := v.counters } ∧
          (∀ k, (∀ x ∈ vs, selKey x ≠ k) → v.counter k = u.counter k) ∧
          ∀ (i x : Nat), vs[i]? = some x → (∀ (j y : Nat), j ≠ i → vs[j]? = some y → selKey y ≠ selKey x) →
            v.counter (selKey x) = { u.counter (selKey x) with
              event := bf x 23 12, chain := x.testBit 35, allInst := x.testBit 36, instance_ := if bf x 0 2 = 3 then bf x 2 15 else 0,
              count := if x.testBit 37 = true then 0 else (u.counter (selKey x)).count }))

/-- A LOG_READ with a buffer of at least 32 bytes, its own checks passed, writes a header of 32 bytes (the index of the first
record written, the number of records written, the lost count, and zeros), then the oldest unread records, as many whole ones of
32 bytes as the buffer holds; it completes OK with the bytes written. With clear after read the records written are read and the
lost count is 0; else the log stays. Nothing else changes. That a shorter buffer is INVALID_FIELD is the model's choice. (R524)
-/
def Obligations.LogRead : Prop :=
  ∀ (s u : State) (e : Entry), s.cmdTurn e .admin ⟨true, false, false, true⟩ [(1, [(3, 61)]), (2, [(0, 32)]), (3, [(0, 1)])] = some u →
    e.inp.wrOk = true → 32 ≤ parm e 2 % 2 ^ 32 →
      let rs := u.keep.log.take ((parm e 2 % 2 ^ 32 - 32) / 32)
      let bytes := leBytes 2 (u.rd F.keepLogStatNextIndex + 65536 - u.rd F.keepLogStatUnread) ++ leBytes 2 rs.length ++ leBytes 2 (u.rd F.keepLogStatLost)
        ++ List.replicate 26 0 ++ rs.flatMap (·.bytes)
      bytes.length = 32 + 32 * rs.length ∧
      (bit (parm e 3) 0 = false → leads (exec (.logRead e) s) fun z => posted (u.hostWrite (parm e 1) bytes) z e sOK bytes.length) ∧
      (bit (parm e 3) 0 = true → leads (exec (.logRead e) s) fun z => ∃ v, posted (v.hostWrite (parm e 1) bytes) z e sOK bytes.length ∧
        v.keep = { u.keep with log := u.keep.log.drop rs.length } ∧ v.rd F.keepLogStatUnread = u.rd F.keepLogStatUnread - rs.length ∧
        v.rd F.keepLogStatLost = 0 ∧ v.rd F.keepLogStatNextIndex = u.rd F.keepLogStatNextIndex ∧
        onlyRegs { u with keep := v.keep } v [R.keepLogStat])

/-- TELEM_SNAPSHOT, its own checks passed: with one pending it completes with BUSY; with an instant outside TIME_NOW plus 10 us
to 10 s with INVALID_FIELD; else it waits for its instant, the next whole microsecond for 0. The latch, at its instant and not
before, writes the header and one entry of 16 bytes for each counter that selects an event and is not the upper half of a chain,
and the command completes OK with the bytes written; while the Keeper restarts it is held in shadow copies. The counters go on.
The order of the entries is the model's choice (log entry 65). (R632, R633, R521, R474) -/
def Obligations.Telemetry : Prop :=
  (∀ (s u : State) (e : Entry), s.cmdTurn e .admin ⟨true, false, false, true⟩ [(1, [(3, 61)]), (2, [(0, 64)])] = some u →
    let t := parm e 2
    ((∃ w ∈ u.host.waits, w.why = .telem) → leads (exec (.telemSnapshot e) s) fun z => posted u z e sBUSY 0) ∧
    ((∀ w ∈ u.host.waits, w.why ≠ .telem) →
      (t ≠ 0 → t < u.now + 10000 ∨ u.now + 10000000000 < t → leads (exec (.telemSnapshot e) s) fun z => posted u z e sINVALID_FIELD 0) ∧
      (t = 0 ∨ u.now + 10000 ≤ t ∧ t ≤ u.now + 10000000000 → leads (exec (.telemSnapshot e) s) fun z => ∃ at_, waits
        { u with time := { u.time with telemAt := at_, shadow := none } } z e .telem ∧ (t ≠ 0 → at_ = t) ∧
        (t = 0 → u.now < at_ ∧ at_ ≤ u.now + 1000 ∧ at_ % 1000 = 0)))) ∧
  (∀ (s : State) (w : Waiting), s.host.waits.filter (fun x : Waiting => decide (x.why = Wait.telem)) = [w] → w.e.sq < 16 → s.time.shadow = none →
    s.telemBytes.length = 32 + 16 * (s.counters.filter fun p => inSnapshot p.1 p.2).length ∧ s.telemBytes.take 8 = leBytes 8 s.time.telemAt ∧
    (s.now < s.time.telemAt → exec .telemLatch s = .next s) ∧
    (s.time.telemAt ≤ s.now → s.keep.restarting = true → exec .telemLatch s = .next { s with time := { s.time with shadow := some s.telemBytes } }) ∧
    (s.time.telemAt ≤ s.now → s.keep.restarting = false → w.e.inp.wrOk = true → w.e.inp.read = none → leads (exec .telemLatch s) fun z =>
      posted ({ s with host := { s.host with waits := s.host.waits.filter fun x : Waiting => decide (x.why ≠ Wait.telem) } }.hostWrite (parm w.e 1) s.telemBytes) z w.e
        sOK s.telemBytes.length))

/-- Each completes when its own checks pass. PWR_POLICY with a cap from 1,000 to 4,000 W sets the cap and the highest point; the
effective cap and the guard's limits follow the converters in regulation, the refill rate the effective cap and the Muzzle
levels, and, from step S5 on, each deck die falls at once to the point that its limits allow and rises to it where no pass runs.
PWR_WAKE_TOL writes the tolerance and the deepest state that it allows, which is its result, and wakes the partition where the
present state's latency is above it. THERMAL_CFG sets the grace time from 50 to 2,000 ms. TIME_CFG sets PTP, PPS out and the
domain; with no grandmaster selected nothing is lost, and one selected when PTP goes off is selected no more, nor does the
timebase stay Locked to it. A value out of range completes with INVALID_FIELD. Registers that a command does not name stay.
(R560, R566, R570, R578, R579, R581, R601, R603, R618, R635) -/
def Obligations.PolicyCommands : Prop :=
  ∀ (s u : State) (e : Entry),
    (s.cmdTurn e .admin .plain [(1, [(0, 13)]), (2, [(0, 2)])] = some u →
      let w := parm e 1 % 2 ^ 13
      (w < 1000 ∨ 4000 < w → leads (exec (.pwrPolicy e) s) fun z => posted u z e sINVALID_FIELD 0) ∧
      (1000 ≤ w → w ≤ 4000 → leads (exec (.pwrPolicy e) s) fun z => ∃ v, posted v z e sOK 0 ∧
        onlyRegs { u with counters := v.counters, credits := v.credits } v [R.pwrmCap, R.pwrmGuard, R.pwrmOpp] ∧
        v.rd F.pwrmCapCapW = w ∧ v.rd F.pwrmCapMaxOpp = parm e 2 % 4 ∧
        v.rd F.pwrmCapEffCapW = (if u.rd F.pwrmStatConvOk = 2 then min w 2600 else w) ∧
        v.rd F.pwrmGuardShortW = (if u.rd F.pwrmStatConvOk = 2 then 3200 else 4800) ∧
        v.rd F.pwrmGuardLongW = (if u.rd F.pwrmStatConvOk = 2 then 2600 else 4000) ∧
        (∃ m, m ≤ 3 ∧ (∀ d, d < 8 → u.rd (F.thrmUnitLevel d) ≤ m) ∧ u.rd F.thrmStatRefillLvl ≤ m ∧
          (m = u.rd F.thrmStatRefillLvl ∨ ∃ d, d < 8 ∧ m = u.rd (F.thrmUnitLevel d)) ∧
          v.rd F.pwrmCapRefillW = v.rd F.pwrmCapEffCapW * (100 - 15 * m) / 100) ∧
        ∀ d, d < 8 → v.dieOpp d =
          if u.on F.bootStatusDoneValid = true ∧ 5 ≤ u.rd F.bootStatusDoneUpto ∧ (u.dieOpp d < v.oppLimit d ∨ u.pass = none) then v.oppLimit d
          else u.dieOpp d)) ∧
    (s.cmdTurn e .admin .plain [(1, [(0, 32)])] = some u →
      let us := parm e 1 % 2 ^ 32
      let c := if 400000 ≤ us then 4 else if 20000 ≤ us then 3 else if 200 ≤ us then 2 else if 1 ≤ us then 1 else 0
      leads (exec (.pwrWakeTol e) s) fun z => ∃ v, posted v z e sOK c ∧ onlyRegs { u with power := v.power } v [R.pwrmWakeTol] ∧
        v.rd F.pwrmWakeTolTolUs = us ∧ v.rd F.pwrmWakeTolChosen = c ∧ v.rd F.pwrmWakeTolCurrent = u.rd F.pwrmWakeTolCurrent ∧
        v.power = { u.power with waking := if us < wakeUs (u.rd F.pwrmWakeTolCurrent) then some c else u.power.waking }) ∧
    (s.cmdTurn e .admin .plain [(1, [(0, 11)])] = some u →
      let g := parm e 1 % 2 ^ 11
      (g < 50 ∨ 2000 < g → leads (exec (.thermalCfg e) s) fun z => posted u z e sINVALID_FIELD 0) ∧
      (50 ≤ g → g ≤ 2000 → leads (exec (.thermalCfg e) s) fun z => ∃ v, posted v z e sOK 0 ∧ onlyRegs u v [R.thrmCfg] ∧ v.rd F.thrmCfgGraceMs = g) ∧
      (127 < bf (parm e 1) 3 8 → leads (exec (.timeCfg e) s) fun z => posted u z e sINVALID_FIELD 0) ∧
      (bf (parm e 1) 3 8 ≤ 127 → leads (exec (.timeCfg e) s) fun z => ∃ v, posted v z e sOK 0 ∧
        v.rd F.timeCfgPtp = bf (parm e 1) 0 2 ∧ v.rd F.timeCfgPpsOut = bf (parm e 1) 2 1 ∧ v.rd F.timeCfgDomain = bf (parm e 1) 3 8 ∧
        (u.time.master = none → onlyRegs { u with power := v.power } v [R.timeCfg] ∧
          v.power = { u.power with ppsOut := if bf (parm e 1) 2 1 = 1 ∧ 2 ≤ u.rd F.timeStatState then u.power.ppsOut else 0 }) ∧
        (u.time.master ≠ none → bf (parm e 1) 0 2 = 0 → v.time.master = none ∧ v.rd F.timeStatGmValid = 0 ∧ v.rd F.timeGmClockId = 0 ∧
          (u.rd F.timeStatSource = 1 → v.rd F.timeStatState ≠ 2))))

/-- Each completes when its own checks pass. SESSION_OPEN gives the lowest free session and the named queues to it; with a named
queue taken or no session free it is BUSY. SESSION_CLOSE of a session without the job frees its queues. JOB_OPEN, no job open,
gives a handle, an empty job of the queue's session, the epoch quota, a full energy account with its correction at 1, and a tile
map that folds in every failure since the last. JOB_CLOSE without a running pass closes the job: none is open, its tiles read 0
everywhere and their windows are Closed, the pages of its tensors have no right, and no slice has explicit ways; with one it
discards the pass without replay and waits. (R462, R469, R470, R15, R313, R574, R575, R171, R153, R252, R249, R307) -/
def Obligations.SessionsAndJobs : Prop :=
  (∀ (s u : State) (e : Entry), s.cmdTurn e .admin .plain [(1, [(1, 15)])] = some u →
    let named (q : Nat) : Prop := 1 ≤ q ∧ q ≤ 15 ∧ (parm e 1).testBit q = true
    ((∃ q, named q ∧ u.on (F.cmdqQcfgOwned q) = true) ∨ (∀ k, k < 16 → ∃ x ∈ u.host.sessions, x.1 = k) →
      leads (exec (.sessionOpen e) s) fun z => posted u z e sBUSY 0) ∧
    ∀ k, k < 16 → (∀ x ∈ u.host.sessions, x.1 ≠ k) → (∀ j, j < k → ∃ x ∈ u.host.sessions, x.1 = j) →
      (∀ q, named q → u.on (F.cmdqQcfgOwned q) = false) → leads (exec (.sessionOpen e) s) fun z => ∃ v qs, posted v z e sOK k ∧
        (∀ q, q ∈ qs ↔ named q) ∧ v = { u with regs := v.regs, host := { u.host with sessions := u.host.sessions ++ [(k, qs)] } } ∧
        (∀ q, named q → v.on (F.cmdqQcfgOwned q) = true ∧ v.rd (F.cmdqQcfgSession q) = k) ∧
        ∀ a, (∀ q, named q → a ≠ R.cmdqQcfg q) → v.reg a = u.reg a) ∧
  (∀ (s u : State) (e : Entry), s.cmdTurn e .admin .plain [(1, [(0, 4)])] = some u →
    let k := parm e 1 % 16
    ((∀ x ∈ u.host.sessions, x.1 ≠ k) → leads (exec (.sessionClose e) s) fun z => posted u z e sINVALID_FIELD 0) ∧
    ((∃ x ∈ u.host.sessions, x.1 = k) → (∀ j, u.job = some j → j.session ≠ k) → leads (exec (.sessionClose e) s) fun z => ∃ v, posted v z e sOK 0 ∧
      v = { u with regs := v.regs, host := { u.host with sessions := u.host.sessions.filter fun x => decide (x.1 ≠ k) } } ∧
      ∀ x ∈ u.host.sessions, x.1 = k → ∀ q ∈ x.2, q < 16 → v.on (F.cmdqQcfgOwned q) = false)) ∧
  (∀ (s u : State) (e : Entry), s.cmdTurn e .jobQueue ⟨false, true, true, true⟩ [(1, [(0, 4)])] = some u → parm e 1 % 16 ≤ 12 →
    u.host.retiring = false → u.job = none → leads (exec (.jobOpen e) s) fun z => ∃ v, posted v z e sOK u.host.nextHandle ∧
      v.job = some ⟨u.host.nextHandle, u.rd (F.cmdqQcfgSession e.sq), [], [], false, [], [], false, false⟩ ∧
      (∀ f, f < 8 → v.rd (F.floorEpochCfgQuota f) = parm e 1 % 16) ∧ v.acctBal = v.acctCap ∧ v.rd F.pwrmAcctF = 256 ∧
      v.newFails = [] ∧ (∀ k, k < 1280 → v.bad k = u.badNow k) ∧ v.rd F.bootDefectUsableTiles = v.usable ∧ (v.meas 6).parts = [] ∧
      (v.meas 6).count = (u.meas 6).count + 1) ∧
  ∀ (s u : State) (e : Entry) (j : Job), s.cmdTurn e .job ⟨false, false, false, true⟩ [] = some u → u.job = some j → j.closing = false →
    (∀ t ∈ u.jobTiles, t < tileCount) →
    (u.pass = none → leads (exec (.jobClose e) s) fun z => z.job = none ∧ z.on F.keepFaultStatJobFatal = false ∧
      (∀ t ∈ u.jobTiles, (∀ a, a < 0x40000 → z.spdByte t a = 0) ∧ ∀ n, n < 4 → z.rd (F.tileWinState t n) = 0) ∧
      (∀ n, n < 512 → z.slicePopulated n = true → z.explWays n = 0) ∧
      (∀ x ∈ j.tensors, ∀ p, x.place = some p → ∀ r ∈ tensorRuns x.cls p.addr x.bytes, ∀ a, r.1 ≤ a → a < r.1 + r.2 → pageOf a < pageCount →
        z.right (pageOf a) = 0) ∧
      ∀ w ∈ z.host.waits, w.why ≠ .jobClose ∧ jobWait w.why = false) ∧
    (∀ p, u.pass = some p → p.step = 0 → (∀ r ∈ u.reqs, r.stage ≠ .lost) → leads (exec (.jobClose e) s) fun z => (∃ k, z.job = some { j with closing := true } ∧
      z.pass = some { p with aborted := true, step := 1, late := k }) ∧ z.rd F.keepPassStatState = psDISCARDING ∧
      (∀ t ∈ u.jobTiles, z.rd (F.tileCtrlRun t) = 0) ∧ ∃ w ∈ z.host.waits, w = ⟨e, .jobClose⟩)

/-- Each completes when its own checks pass; what a command does not name stays. TENSOR_DECL adds a tensor with its class and
persistence and gives its index; STAGE_LOAD adds a stage whose image is whole and whose declaration keeps every limit of R19,
gives its index, updates measurement 6 and empties near caches and Scent slots, and an image that breaks one is STAGE_INVALID;
both are JOB_SEALED after a placement. PLACE of a job without stages is STAGE_INVALID, one for which no placement is lawful
writes the 256-byte record and is PLACE_NOFIT, one that has an image with poison is POISON and seals nothing, and any other seals
the job with the regions and addresses of a lawful placement, maps its segments on every floor and gives each tile its place in
its stage. PLACE_QUERY writes the reply, or with too short a buffer gives the bytes needed; before a placement it is NOT_PLACED.
Which lawful placement is taken is open (log entry 8). (R19, R20, R27, R144,
R471, R473, R654, R34, R35, R245, R136) -/
def Obligations.StagesAndPlacement : Prop :=
  (∀ (s u : State) (e : Entry) (j : Job), s.cmdTurn e .job ⟨false, true, true, false⟩ [(1, [(0, 64)]), (2, [(0, 7)])] = some u → u.job = some j →
    let cls := parm e 2 % 8
    let pers := parm e 2 / 8 % 8
    (parm e 1 % 0x200000 ≠ 0 ∨ 4 < cls ∨ 4 < pers → leads (exec (.tensorDecl e) s) fun z => posted u z e sINVALID_FIELD 0) ∧
    (parm e 1 % 0x200000 = 0 → cls ≤ 4 → pers ≤ 4 → j.tensors.length < 65536 →
      (j.sealed = true → leads (exec (.tensorDecl e) s) fun z => posted u z e sJOB_SEALED 0) ∧
      (j.sealed = false → leads (exec (.tensorDecl e) s) fun z => posted
        { u with job := some { j with tensors := j.tensors ++ [⟨parm e 1, cls, pers, (parm e 2).testBit 6, none, 0, false⟩] } } z e sOK j.tensors.length))) ∧
  (∀ (s u : State) (e : Entry) (j : Job) (bs : List Byte),
    s.cmdTurn e .job ⟨false, true, true, false⟩ [(1, [(3, 61)]), (2, [(0, 32)]), (3, [(0, 5), (8, 9), (17, 3)]), (4, [(0, 32)])] = some u →
    u.job = some j → e.inp.read = some bs → parm e 2 % 2 ^ 32 ≤ bs.length →
    (j.sealed = true → leads (exec (.stageLoad e) s) fun z => posted u z e sJOB_SEALED 0) ∧
    (j.sealed = false → parseStage e bs = none → leads (exec (.stageLoad e) s) fun z => posted u z e sSTAGE_INVALID 0) ∧
    (∀ g, parseStage e bs = some g →
      (1 ≤ g.tiles ∧ g.tiles ≤ 25600 ∧ (g.h = 0 ∧ g.w = 0 ∨ 1 ≤ g.h ∧ g.h ≤ 160 ∧ 1 ≤ g.w ∧ g.w ≤ 160 ∧ g.h * g.w = g.tiles) ∧ g.down ≤ 102400 ∧
        g.up ≤ 102400 ∧ g.refs.length ≤ 256 ∧ g.streams.length ≤ 16 ∧ g.entry % 16 = 0 ∧ g.region = none ∧ g.parts.length ≤ 8 ∧
        g.energy = leNat ((bs.drop 20).take 4)) ∧
      (j.sealed = false → j.stages.length < 256 → leads (exec (.stageLoad e) s) fun z => ∃ v, posted v z e sOK j.stages.length ∧
        v = { u with job := some { j with stages := j.stages ++ [g] }, tiles := v.tiles, fw := v.fw } ∧
        (∀ t, v.tile t = { u.tile t with near := [], scent := [] }) ∧
        (v.meas 6).parts = (u.meas 6).parts ++ [bs.take (parm e 2 % 2 ^ 32)] ∧ (v.meas 6).count = (u.meas 6).count + 1))) ∧
  (∀ (s u : State) (e : Entry) (j : Job), s.cmdTurn e .job ⟨false, true, true, false⟩ [(1, [(3, 61)]), (2, [(0, 8)]), (3, [(3, 61)])] = some u →
    u.job = some j →
    (j.sealed = true → leads (exec (.place e) s) fun z => posted u z e sJOB_SEALED 0) ∧
    (j.sealed = false → j.stages = [] → leads (exec (.place e) s) fun z => posted u z e sSTAGE_INVALID 0) ∧
    (j.sealed = false → j.stages ≠ [] → undefTensor j = false → parm e 2 % 256 = 0 →
      (∀ xs, u.choose j [] = .inr xs → (∀ p, p ∈ u.plans j → u.lawful j [] p = false ∨ u.usable < (j.stages.map (·.tiles)).sum) ∧ (e.inp.wrOk = true → (shortBytes xs).length = 256 ∧
        leads (exec (.place e) s) fun z => posted (u.hostWrite (parm e 3) (shortBytes xs)) z e sPLACE_NOFIT 0)) ∧
      (∀ c, u.choose j [] = .inl c → e.inp.imagePoison = true → leads (exec (.place e) s) fun z => posted u z e sPOISON 0) ∧
      (∀ p h m, u.choose j [] = .inl (p, h, m) → e.inp.imagePoison = false → u.lawful j [] p = true ∧ leads (exec (.place e) s) fun z => ∃ k, z.job = some k ∧ k.sealed = true ∧ k.handle = j.handle ∧
        k.stages.map (·.region) = p.stages.map some ∧ k.tensors.map (·.place) = p.tensors.map some ∧
        k.stages.map (·.image) = j.stages.map (·.image) ∧
        (∀ g ∈ p.segs, ∀ f, f < 8 → z.reg (R.floorHash f g.seg) = BitVec.ofNat 64 ((if g.near = true then 2 else 1) + g.floor * 4 + g.base * 256)) ∧
        ∀ r ∈ p.stages, ∀ t ∈ planTiles r, z.rd (F.tileIdX t) = t % 160 - r.base % 160 ∧ z.rd (F.tileIdY t) = t / 160 - r.base / 160 ∧
          z.rd (F.tileIdWM1 t) = r.w - 1 ∧ z.rd (F.tileIdHM1 t) = r.h - 1))) ∧
  ∀ (s u : State) (e : Entry) (j : Job), s.cmdTurn e .job ⟨false, false, false, true⟩ [(1, [(3, 61)]), (2, [(0, 32)])] = some u → u.job = some j →
    (u.placeReply j).length = 32 + 16 * j.stages.length + 32 * j.tensors.length + j.met.length ∧
    (j.sealed = false → leads (exec (.placeQuery e) s) fun z => posted u z e sNOT_PLACED 0) ∧
    (j.sealed = true → parm e 2 % 2 ^ 32 < (u.placeReply j).length →
      leads (exec (.placeQuery e) s) fun z => posted u z e sINVALID_FIELD (u.placeReply j).length) ∧
    (j.sealed = true → (u.placeReply j).length ≤ parm e 2 % 2 ^ 32 → e.inp.wrOk = true →
      leads (exec (.placeQuery e) s) fun z => posted (u.hostWrite (parm e 1) (u.placeReply j)) z e sOK (u.placeReply j).length)

/-- Each completes when its own checks pass. PASS_LAUNCH before a placement is NOT_PLACED; with a pass uncommitted it is held
and nothing else changes; with nothing that holds it, a retraining channel included, the pass starts: its number, collar and command, one launch, the next epoch
in KEEP_PASS_STAT with the state Running and no replay, and every tile of the job Run from its stage's entry with its seed.
PASS_COMMIT of the uncommitted pass is kept with it in local mode, and before the pass ends in fabric mode too; a second one is
BUSY, one for a held launch waits, one that names a tree that is no commit tree is REFUSED, and any other pass number is
INVALID_FIELD. When every tile of the job is Done the pass is Ended and its completion is posted once, with the replays, the
tiles' flags and the epoch; that a pass discarded after its end has no second one is the model's choice (log entry 89). (R21,
R22, R23, R96, R127, R128, R302, R303, R316, R356, R470, R575) -/
def Obligations.LaunchAndCommit : Prop :=
  (∀ (s u : State) (e : Entry) (j : Job), s.cmdTurn e .job .jobCmd [(1, [(0, 32)]), (2, [(0, 5)])] = some u → u.job = some j →
    let n := parm e 1 % 2 ^ 32
    let c := parm e 2 % 16
    let again := (parm e 2).testBit 4
    (c < 2 → leads (exec (.passLaunch e) s) fun z => posted u z e sINVALID_FIELD 0) ∧
    (2 ≤ c → j.sealed = false → leads (exec (.passLaunch e) s) fun z => posted u z e sNOT_PLACED 0) ∧
    (2 ≤ c → j.sealed = true → j.closing = false →
      (u.pass ≠ none → leads (exec (.passLaunch e) s) fun z => waits u z e (.launch n c again)) ∧
      (u.pass = none → u.snapHolds = false → u.retraining = false → u.rd F.keepFaultStatState = 0 → u.on F.keepFaultStatJobFatal = false → u.energyOk c = true →
        (∀ w ∈ u.host.waits, ∀ m d b, w.why ≠ .launch m d b) → u.heldCommit n = false →
        (u.launchLoads (again || !j.loaded) e.inp.imagePoison).2 = true → u.jobTiles.Nodup → (∀ t ∈ u.jobTiles, t < tileCount) →
        leads (exec (.passLaunch e) s) fun z => (∃ p, z.pass = some p ∧ p.number = n ∧ p.collar = c ∧ p.launch = e ∧ p.launches = 1 ∧ p.step = 0 ∧
            p.commit = none ∧ p.posted = false) ∧
          z.job = some { j with loaded := true } ∧ z.epochCtr = nextEpoch u.epochCtr ∧ z.epoch = u.epochCtr % 2 ^ 32 ∧
          z.rd F.keepPassStatState = psRUNNING ∧ z.rd F.keepPassStatReplays = 0 ∧ z.on F.keepPassStatNonrep = false ∧ z.host.waits = u.host.waits ∧
          ∀ g ∈ u.stages, ∀ t ∈ stageTiles g, z.rd (F.tileStatState t.1) = stRun ∧ z.rd (F.tileCtrlRun t.1) = 1 ∧
            (z.tile t.1).pc = 16 * (g.entry / 16 % 2 ^ 14) ∧ z.reg (R.tileSrState t.1) = (seedOf g.seed t.2 n).setWidth 64))) ∧
  (∀ (s : State) (p : Pass), s.pass = some p → s.rd F.keepPassStatState = psRUNNING → (∀ t ∈ s.jobTiles, s.rd (F.tileStatState t) = stDone) →
    p.commit = none ∨ p.fabric = false →
    let flags := s.jobTiles.foldl (fun m t => m ||| s.rd (F.tileFpFlagsAll t)) 0
    s.passEnd.rd F.keepPassStatState = psENDED ∧ s.passEnd.pass = some { p with posted := true } ∧
      (p.posted = false → ∃ v : State, v.host = s.host ∧
        posted v s.passEnd p.launch (s.endStatus p) ((p.launches - 1) % 8 + flags % 64 * 8 + s.epoch * 2 ^ 32)) ∧
      (p.posted = true → s.passEnd.host = s.host)) ∧
  ∀ (s u : State) (e : Entry), s.cmdTurn e .job ⟨false, false, true, true⟩ [(1, [(0, 32)]), (2, [(0, 5)])] = some u →
    let n := parm e 1 % 2 ^ 32
    let fab := (parm e 2).testBit 0
    let tree := parm e 2 / 2 % 16
    let ok := fab = false ∨ u.on (F.packTreeCtrlEnable tree) = true ∧ u.on (F.packTreeCtrlCommit tree) = true
    ((∀ p, u.pass = some p → p.number ≠ n) → u.heldLaunch n = false → leads (exec (.passCommit e) s) fun z => posted u z e sINVALID_FIELD 0) ∧
    ((∀ p, u.pass = some p → p.number ≠ n) → u.heldLaunch n = true →
      (u.heldCommit n = true → leads (exec (.passCommit e) s) fun z => posted u z e sBUSY 0) ∧
      (u.heldCommit n = false → (¬ ok → leads (exec (.passCommit e) s) fun z => posted u z e sREFUSED 0) ∧
        (ok → leads (exec (.passCommit e) s) fun z => waits u z e (.commit n fab tree)))) ∧
    ∀ p, u.pass = some p → p.number = n →
      (p.commit ≠ none → leads (exec (.passCommit e) s) fun z => posted u z e sBUSY 0) ∧
      (p.commit = none → ¬ ok → leads (exec (.passCommit e) s) fun z => posted u z e sREFUSED 0) ∧
      (p.commit = none → ok → fab = false ∨ u.rd F.keepPassStatState ≠ psENDED → leads (exec (.passCommit e) s) fun z =>
        z.pass = some { p with commit := some e, fabric := fab, tree := tree } ∧ z.on F.keepPassStatFabric = fab ∧
        onlyRegs { u with pass := z.pass } z [R.keepPassStat])

/-- Each completes. At the commit instant of an ended pass that may commit (in local mode, with its barrier complete, or alone
after a discard that followed its arrival; no request in doubt; no launch, KENNEL_SET, snapshot, retired slice or exhausted bond
group waiting) the entries of its epoch become Committed in every slice, the epoch is the last committed one, the held Signals
leave and are awaited, no destination is left to notify, and no pass is left. DISCARD for a tile fault of kind Program stops
every tile of the job, makes the state Discarding and keeps the cause; for a hardware fault of a tile of a whole sector it keeps
the tile for a remap; a discard of a non-replayable pass is Job-fatal with cause 2, whatever its cause, a hardware fault of one
launched eight times with cause 5. With the engines idle and nothing in doubt the abort notices leave, the held Signals go and
every entry of the epoch is Dropping. With every abort acknowledged and no walk left the pass may replay, or ends where a
Program fault was its cause. A Job-fatal or non-replayable pass ends there, with the tiles and the tile map left as they are; a
failed tile of a whole sector is recorded for the next map. The replay counts as a launch of the same number under the next
epoch, once no channel retrains; where a load that it needs reads poison the pass is Job-fatal instead. An abort that stays unacknowledged is Job-fatal with cause 6, or during a compute reset is waited for no more. The end of
the in-doubt hold leaves nothing in doubt. (R302, R304, R307, R308, R310, R22, R301, R37, R404, R500, R502, R518) -/
def Obligations.PassEnds : Prop :=
  (∀ (s : State) (p : Pass) (e : Entry), s.pass = some p → p.commit = some e → s.rd F.keepPassStatState = psENDED →
    p.fabric = false ∨ p.barrier = true ∨ p.late = true → s.epoch ∉ s.fab.doubt →
    s.keep.restarting = false → (∀ w ∈ s.host.waits, w.why ≠ .kennel ∧ ∀ n c b, w.why ≠ .launch n c b) → s.snap 0 = none → s.snap 1 = none → s.bound.slices = [] →
    s.deck.exhausted = [] → (∀ h ∈ s.heldSigs, h.pkt.typ = pSIGNAL) → leads (exec .commitInstant s) fun z => z.pass = none ∧
      z.rd F.keepPassStatState = psIDLE ∧ z.commitEpoch = s.epoch ∧ z.heldSigs = [] ∧ z.fab.dests = [] ∧
      z.fab.awaits.length = s.fab.awaits.length + s.heldSigs.length ∧
      ∀ n k, n < 512 → s.entryOf n s.moduleId s.epoch [etOPEN] = some k → z.rd (etState n k) = etCOMMITTED) ∧
  (∀ (s : State) (p : Pass) (f : FaultIn) (c : Nat), s.pass = some p → p.step = 0 → s.keep.restarting = false → s.rd F.keepPassStatState ≠ psCOMMITTING →
    (∀ r ∈ s.reqs, r.stage ≠ .lost) → (∀ t ∈ s.jobTiles, t < tileCount) → p.fatal = none → p.program = none → s.tileCause f.unit = some c →
    (f.source = 0 ∧ cMSEQ ≤ c ∨ f.source = 12 ∧ c ≤ cWDOG ∧ s.bad (f.unit / 20) = [] ∧ p.remaps = []) → leads (exec (.discard f) s) fun z =>
      z.rd F.keepPassStatState = psDISCARDING ∧ (∀ t ∈ s.jobTiles, z.rd (F.tileCtrlRun t) = 0) ∧ ∃ q, z.pass = some q ∧ q.step = 1 ∧ q.number = p.number ∧
        (s.on F.keepPassStatNonrep = true → p.aborted = false → q.fatal = some 2) ∧
        (f.source = 0 → q.program = some (c, f.unit) ∧ (s.on F.keepPassStatNonrep = false ∨ p.aborted = true → q.fatal = none)) ∧
        (f.source = 12 → q.remaps = [f.unit] ∧ (f.unit / 20, s.physPos f.unit) ∈ z.newFails ∧
          (s.on F.keepPassStatNonrep = false → 8 ≤ p.launches → p.aborted = false → q.fatal = some 5) ∧
          (s.on F.keepPassStatNonrep = false ∨ p.aborted = true → p.launches < 8 → q.fatal = none))) ∧
  (∀ (s : State) (p : Pass), s.pass = some p → s.keep.restarting = false →
    (p.step = 1 → s.enginesIdle = true → s.epoch ∉ s.fab.doubt → leads (exec .discardEnginesIdle s) fun z =>
      z.pass = some { p with step := 3, acks := s.fab.dests } ∧ z.heldSigs = [] ∧ z.fab.dests = [] ∧
      ∀ n k, n < 512 → s.entryOf n s.moduleId s.epoch [etOPEN] = some k → z.rd (etState n k) = etDROPPING) ∧
    (p.step = 3 → p.acks = [] → s.marksLeft s.moduleId s.epoch [etOPEN, etDROPPING] = false → s.snap 0 = none → s.snap 1 = none →
      (∀ j, s.job = some j → j.closing = false) → s.job ≠ none → p.aborted = false →
      (p.fatal ≠ none ∨ s.on F.keepPassStatNonrep = true) → ∀ bad ue, leads (exec (.discardAcksComplete bad ue) s) fun z => z.pass = none ∧
        z.rd F.keepPassStatState = psHALTED ∧ z.on F.keepFaultStatJobFatal = true ∧ z.tiles = s.tiles ∧ z.badPos = s.badPos) ∧
    (p.step = 3 → p.acks = [] → s.marksLeft s.moduleId s.epoch [etOPEN, etDROPPING] = false → p.fatal = none → p.aborted = false →
      s.on F.keepPassStatNonrep = false → s.deck.exhausted = [] → ∀ ue,
      (p.program = none → (∀ g ∈ s.stages, ∀ d ∈ g.parts, bf d.toNat 0 3 ≠ kResident) → leads (exec (.discardAcksComplete false ue) s) fun z =>
        z.pass = some { p with step := 6, replay := true, remaps := [] }) ∧
      (p.program ≠ none → (∀ g ∈ s.stages, ∀ d ∈ g.parts, bf d.toNat 0 3 ≠ kResident) → s.snap 0 = none → s.snap 1 = none →
        (∀ j, s.job = some j → j.closing = false) → leads (exec (.discardAcksComplete false ue) s) fun z => z.pass = none ∧ z.rd F.keepPassStatState = psIDLE ∧
          ∀ w ∈ z.host.waits, ∀ n c b, w.why ≠ .launch n c b)) ∧
    (p.step = 6 → s.retraining = false → ∀ bad, (s.launchLoads false bad).2 = false → s.job ≠ none → leads (exec (.replayLaunch bad) s) fun z => z.pass = none ∧
      z.rd F.keepPassStatState = psHALTED ∧ z.on F.keepFaultStatJobFatal = true) ∧
    (p.step = 6 → s.retraining = false → ∀ bad, (s.launchLoads false bad).2 = true → leads (exec (.replayLaunch bad) s) fun z => (∃ q, z.pass = some q ∧ q.number = p.number ∧ q.launch = p.launch ∧ q.launches = p.launches + 1 ∧
        q.step = 0 ∧ q.replay = false) ∧ z.epoch = s.epochCtr % 2 ^ 32 ∧ z.epochCtr = nextEpoch s.epochCtr ∧ z.rd F.keepPassStatState = psRUNNING ∧
      z.rd F.keepPassStatReplays = p.launches % 2 ^ F.keepPassStatReplays.w)) ∧
  (∀ (s : State) (p : Pass), s.pass = some p → p.step = 3 → p.acks ≠ [] →
    (s.boot.reset = none → leads (exec .abortAckTimeout s) fun z => z.pass = some { p with acks := [], fatal := if p.fatal = none then some 6 else p.fatal }) ∧
    (s.boot.reset ≠ none → exec .abortAckTimeout s = .next { s with pass := some { p with acks := [] } })) ∧
  ∀ s : State, exec .inDoubtHoldEnd s = .next { s with fab := { s.fab with doubt := [] } }

/-- Each completes when its own checks pass. EXCH_DECLARE with a segment size of 2 to the 16 to 30 declares the window: size,
number of segments and base stand in HOSTW_EXCH, its pages have right 3 and its segments are mapped; EXCH_DIR sets the direction
of the named segments whose owner is NONE and of no other, else it is BUSY. KEEP_DECLARE places a new keep area below the window
and beside the others with pages of right 3, KEEP_RELEASE takes it back with pages of right 0; with a job open each is BUSY.
LEASH_SET whose sums fit 90 % of the nominal capacities takes effect at once (a changed slice target starts its measured
latencies again, and the collar's counts are full), or during a pass waits for its boundary; else, or with anything for collar 0
or 1, it is OVERCOMMIT. KENNEL_SET with a pass uncommitted waits; else
it enables its tensor's window with the persistence, droppable bit and quota of the command and gives the persistence in effect;
the cached lines follow their windows and quotas at once (log entry 103), and with no slice in use nothing else changes.
Where a keep area is placed is open (log entry 40). (R28, R245, R249, R470, R477, R491, R492, R362, R365, R367, R29, R263) -/
def Obligations.AreasAndSettings : Prop :=
  (∀ (s u : State) (e : Entry), s.cmdTurn e .admin ⟨false, false, true, true⟩ [(1, [(0, 5)])] = some u →
    let k := parm e 1 % 32
    (k < 16 ∨ 30 < k → leads (exec (.exchDeclare e) s) fun z => posted u z e sINVALID_FIELD 0) ∧
    (16 ≤ k → k ≤ 30 → u.job ≠ none → leads (exec (.exchDeclare e) s) fun z => posted u z e sBUSY 0) ∧
    (16 ≤ k → k ≤ 30 → u.job = none → leads (exec (.exchDeclare e) s) fun z => ∃ v, posted v z e sOK u.variant.exchBase ∧
      v = { u with regs := v.regs, keep := { u.keep with copies := v.keep.copies } } ∧
      v.on F.hostwExchDeclared = true ∧ v.rd F.hostwExchSegLog2 = k ∧ v.rd F.hostwExchNSeg = min 8192 ((2 ^ 32 - 0x10000) / 2 ^ k) ∧
      16 * v.rd F.hostwExchBase = u.variant.exchBase ∧
      ∀ a, u.variant.exchBase ≤ a → a < u.variant.exchBase + 2 ^ 32 → v.right (pageOf a) = 3 ∧ v.segKind (a / segBytes) ≠ 0)) ∧
  (∀ (s u : State) (e : Entry), s.cmdTurn e .admin ⟨false, false, true, true⟩ [(1, [(0, 26)]), (2, [(0, 2)])] = some u →
    let a := parm e 1 % 2 ^ 13
    let n := parm e 1 / 2 ^ 13 % 2 ^ 13
    (u.rd F.hostwExchNSeg < a + n → leads (exec (.exchDir e) s) fun z => posted u z e sINVALID_FIELD 0) ∧
    (a + n ≤ u.rd F.hostwExchNSeg →
      ((∃ i, a ≤ i ∧ i < a + n ∧ u.flagWord i % 4 ≠ 0) → leads (exec (.exchDir e) s) fun z => posted u z e sBUSY 0) ∧
      ((∀ i, a ≤ i → i < a + n → u.flagWord i % 4 = 0) → leads (exec (.exchDir e) s) fun z => ∃ v, posted v z e sOK 0 ∧ v = { u with regs := v.regs } ∧
        ∀ i, v.segDir i = if a ≤ i ∧ i < a + n then parm e 2 % 4 else u.segDir i))) ∧
  (∀ (s u : State) (e : Entry), s.cmdTurn e .admin ⟨false, false, true, true⟩ [(1, [(0, 64)])] = some u →
    let n := parm e 1
    (n = 0 ∨ n % 0x200000 ≠ 0 → leads (exec (.keepDeclare e) s) fun z => posted u z e sINVALID_FIELD 0) ∧
    (n ≠ 0 → n % 0x200000 = 0 → u.job ≠ none ∨ 8 ≤ u.host.keeps.length → leads (exec (.keepDeclare e) s) fun z => posted u z e sBUSY 0) ∧
    (n ≠ 0 → n % 0x200000 = 0 → u.job = none → u.host.keeps.length < 8 → (∀ k ∈ u.host.keeps, k.1 + k.2 ≤ u.variant.exchBase) → n ≤ u.variant.exchBase →
      u.host.keeps = [] ∨ u.keepPlace n ≠ none → leads (exec (.keepDeclare e) s) fun z => ∃ v a, posted v z e sOK a ∧
        v = { u with regs := v.regs, freeCtr := v.freeCtr, keep := { u.keep with copies := v.keep.copies }, host := { u.host with keeps := u.host.keeps ++ [(a, n)] } } ∧ a + n ≤ u.variant.exchBase ∧
        (∀ k ∈ u.host.keeps, k.1 + k.2 ≤ a ∨ a + n ≤ k.1) ∧ ∀ x, a ≤ x → x < a + n → v.right (pageOf x) = 3) ∧
    (∀ k, u.host.keeps.find? (fun k => decide (k.1 = parm e 1)) = some k →
      (u.job ≠ none ∨ u.winOver k.1 k.2 = true → leads (exec (.keepRelease e) s) fun z => posted u z e sBUSY 0) ∧
      (u.job = none → u.winOver k.1 k.2 = false → leads (exec (.keepRelease e) s) fun z => ∃ v, posted v z e sOK 0 ∧
        v = { u with regs := v.regs, keep := { u.keep with copies := v.keep.copies }, host := { u.host with keeps := u.host.keeps.erase k } } ∧
        ∀ x, k.1 ≤ x → x < k.1 + k.2 → pageOf x < pageCount → v.right (pageOf x) = 0)) ∧
    ((∀ k ∈ u.host.keeps, k.1 ≠ parm e 1) → leads (exec (.keepRelease e) s) fun z => posted u z e sINVALID_FIELD 0)) ∧
  (∀ (s u : State) (e : Entry), s.cmdTurn e .admin .plain [(1, [(0, 4)]), (2, [(0, 63)]), (3, [(0, 42)]), (4, [(0, 32)])] = some u →
    let c := parm e 1 % 16
    let v : List Nat := [bf (parm e 2) 0 21, bf (parm e 2) 21 21, bf (parm e 2) 42 21, bf (parm e 3) 0 21, bf (parm e 3) 21 21, bf (parm e 4) 0 16, bf (parm e 4) 16 16]
    let fits := ∀ cls, cls < 5 → 10 * (((List.range 16).map fun k => if k = c then v.getD cls 0 else u.leashSet k cls).sum) ≤ 9 * u.nominal cls
    (¬ fits → leads (exec (.leashSet e) s) fun z => posted u z e sOVERCOMMIT 0) ∧
    (c < 2 → (∃ x ∈ v, x ≠ 0) → leads (exec (.leashSet e) s) fun z => posted u z e sOVERCOMMIT 0) ∧
    (fits → (2 ≤ c ∨ ∀ x ∈ v, x = 0) →
      (u.rd F.keepPassStatState = psRUNNING → leads (exec (.leashSet e) s) fun z =>
        posted { u with bound := { u.bound with leashes := u.bound.leashes ++ [(c, v)] } } z e sOK 0) ∧
      (u.rd F.keepPassStatState ≠ psRUNNING → u.bound.leashes = [] → leads (exec (.leashSet e) s) fun z => ∃ w, posted w z e sOK 0 ∧
        w = { u with regs := w.regs, lat := w.lat, credits := w.credits, counters := w.counters, host := w.host } ∧
        (∀ key, tget (fun _ => (0, 0)) w.credits key = if key % 16 = c then (0, 0) else tget (fun _ => (0, 0)) u.credits key) ∧
        (∀ key, (key % 16 ≠ c → tget (fun _ => 0) w.lat key = tget (fun _ => 0) u.lat key) ∧ (key % 16 = c → key < 8192 → u.rd (F.keepLatTgtSliceNs c) ≠ v.getD 5 0 → tget (fun _ => 0) w.lat key = 0)) ∧
        (∀ k cls, k < 16 → cls < 5 → w.leash k cls = if k = c then v.getD cls 0 else u.leash k cls) ∧
        w.rd (F.keepLatTgtSliceNs c) = v.getD 5 0 ∧ w.rd (F.keepLatTgtHbmNs c) = v.getD 6 0))) ∧
  ∀ (s u : State) (e : Entry) (j : Job), s.cmdTurn e .job .jobCmd [(1, [(0, 16)]), (2, [(0, 7)])] = some u → u.job = some j →
    (j.sealed = false → leads (exec (.kennelSet e) s) fun z => posted u z e sNOT_PLACED 0) ∧
    ∀ x pl, j.sealed = true → j.tensors[parm e 1 % 2 ^ 16]? = some x → x.cls ≠ 4 → x.place = some pl → pl.kennel < 64 →
      (u.pass ≠ none → leads (exec (.kennelSet e) s) fun z => waits u z e .kennel) ∧
      (u.pass = none → leads (exec (.kennelSet e) s) fun z => ∃ y v, posted v z e (if parm e 2 % 4 = 3 ∧ y.rd (F.kenlCtrlPersEff pl.kennel) = 2 then sPIN_CAP else sOK)
          (y.rd (F.kenlCtrlPersEff pl.kennel)) ∧ y.on (F.kenlCtrlEnable pl.kennel) = true ∧ y.rd (F.kenlCtrlPers pl.kennel) = parm e 2 % 4 ∧
        y.on (F.kenlCtrlDroppable pl.kennel) = (parm e 2).testBit 2 ∧ y.rd (F.kenlCtrlQuota pl.kennel) = parm e 2 / 8 % 16 ∧
        (parm e 2 % 4 ≠ 3 → y.rd (F.kenlCtrlPersEff pl.kennel) = parm e 2 % 4) ∧
        onlyRegs { u with counters := y.counters } y [R.kenlRange pl.kennel, R.kenlCtrl pl.kennel] ∧ v = { y.retag.trimSets with job := v.job } ∧
        (u.slices = [] → v = { y with job := v.job }))

/-- Each completes when its own checks pass. MWIN_OPEN of a Closed window whose range lies in one region on pages of right 2 or
3 opens it at its next generation with the base, length, sources and operations of the command, and its pages have right 3;
TILEWIN_OPEN opens a Closed window of a tile of the job inside its window regions; a generation closed less than 10 ms ago
delays either. MWIN_CLOSE and TILEWIN_CLOSE take an Open window to Closing and wait. A window in the wrong state is
WINDOW_STATE, one out of bounds WINDOW_BOUNDS. ROUTE_SET with entries that name links of the variant writes the routes of the
named modules in every port die and of no other, and waits exactly while one of them is fenced. (R164, R165, R168, R400, R405,
R406, R409, R418, R470, R694) -/
def Obligations.WindowsAndRoutes : Prop :=
  (∀ (s u : State) (e : Entry),
    s.cmdTurn e .admin .plain [(1, [(0, 10)]), (2, [(0, 64)]), (3, [(0, 32)]), (4, [(0, 14), (16, 14)]), (5, [(0, 11)])] = some u → parm e 2 % 256 = 0 →
    let w := parm e 1 % 1024
    let n := 256 * (parm e 3 % 2 ^ 32 + 1)
    let g := nextGen (u.rd (F.winCtrlGen w))
    (u.rd (F.winCtrlState w) ≠ 0 → leads (exec (.mwinOpen e) s) fun z => posted u z e sWINDOW_STATE 0) ∧
    (u.rd (F.winCtrlState w) = 0 →
      (u.mwinFits (parm e 2) n = false → leads (exec (.mwinOpen e) s) fun z => posted u z e sWINDOW_BOUNDS 0) ∧
      (u.mwinFits (parm e 2) n = true →
        (u.reopenSoon w g = true → leads (exec (.mwinOpen e) s) fun z => waits
          { u with fab := { u.fab with winDelays := u.fab.winDelays ++ [⟨w, some e⟩] } } z e (.mwinOpen w)) ∧
        (u.reopenSoon w g = false → leads (exec (.mwinOpen e) s) fun z => ∃ v, posted v z e sOK g ∧ v = { u with regs := v.regs, fab := v.fab, fw := v.fw } ∧
          v.rd (F.winCtrlState w) = 1 ∧ v.rd (F.winCtrlGen w) = g ∧ v.mwinRange w = (parm e 2, n) ∧ v.rd (F.winLenSrcLo w) = bf (parm e 4) 0 14 ∧
          v.rd (F.winLenSrcHi w) = bf (parm e 4) 16 14 ∧ v.on (F.winCtrlOpDep w) = (parm e 5).testBit 0 ∧ v.on (F.winCtrlOpFold w) = (parm e 5).testBit 1 ∧
          v.on (F.winCtrlOpSig w) = (parm e 5).testBit 2 ∧ v.on (F.winCtrlOpCall w) = (parm e 5).testBit 3 ∧ v.on (F.winCtrlDbEn w) = (parm e 5).testBit 4 ∧
          v.rd (F.winCtrlDbVec w) = bf (parm e 5) 5 6 ∧ (∀ p ∈ pagesOf (parm e 2) n, v.right p = 3) ∧
          (∀ p, p < pageCount → p ∉ pagesOf (parm e 2) n → v.right p = u.right p) ∧
          ∀ k, k < 1024 → k ≠ w → v.reg (R.winCtrl k) = u.reg (R.winCtrl k) ∧ v.reg (R.winLen k) = u.reg (R.winLen k))))) ∧
  (∀ (s u : State) (e : Entry), s.cmdTurn e .admin .plain [(1, [(0, 10)])] = some u →
    let w := parm e 1 % 1024
    (u.rd (F.winCtrlState w) = 0 → leads (exec (.mwinClose e) s) fun z => posted u z e sWINDOW_STATE 0) ∧
    (u.rd (F.winCtrlState w) = 1 → leads (exec (.mwinClose e) s) fun z => ∃ v, waits v z e (.mwinClose w) ∧ v.rd (F.winCtrlState w) = 2 ∧
      onlyRegs { u with fab := v.fab } v [R.winCtrl w] ∧ ⟨w, u.rd (F.winCtrlGen w), u.now⟩ ∈ v.fab.winClosed)) ∧
  (∀ (s u : State) (e : Entry) (j : Job), e.rsv = 0 → s.cmdTurn e .job .jobCmd ((List.range 7).map fun k => (k + 1, [(0, 64)])) = some u →
    u.job = some j → j.sealed = true →
    let t := parm e 1 % 2 ^ 15
    let k := parm e 1 / 2 ^ 16 % 4
    let g := nextGen (u.rd (F.tileWinGen t k))
    t ∈ u.jobTiles →
    (extraBits e [(1, [(0, 18)]), (2, [(0, 18)]), (3, [(0, 10)]), (4, [(0, 14), (16, 14)]), (5, [(0, 2)])] = false → parm e 2 % 256 = 0 →
      (u.rd (F.tileWinState t k) ≠ 0 → leads (exec (.tilewinOpen e) s) fun z => posted u z e sWINDOW_STATE 0) ∧
      (u.rd (F.tileWinState t k) = 0 →
        (u.inWindowRegion t (parm e 2) (256 * (parm e 3 % 1024 + 1)) = false → leads (exec (.tilewinOpen e) s) fun z => posted u z e sWINDOW_BOUNDS 0) ∧
        (u.inWindowRegion t (parm e 2) (256 * (parm e 3 % 1024 + 1)) = true → u.reopenSoon (keyTile t k) g = true → leads (exec (.tilewinOpen e) s) fun z => waits
          { u with fab := { u.fab with winDelays := u.fab.winDelays ++ [⟨keyTile t k, some e⟩] } } z e (.tilewinOpen t k)) ∧
        (u.inWindowRegion t (parm e 2) (256 * (parm e 3 % 1024 + 1)) = true → u.reopenSoon (keyTile t k) g = false →
          leads (exec (.tilewinOpen e) s) fun z => ∃ v, posted v z e sOK g ∧ onlyRegs { u with fw := v.fw } v [R.tileWin t k] ∧
            v.rd (F.tileWinState t k) = 1 ∧ v.rd (F.tileWinGen t k) = g ∧ 256 * v.rd (F.tileWinBase t k) = parm e 2 ∧
            v.rd (F.tileWinLenM1 t k) = parm e 3 % 1024 ∧ v.rd (F.tileWinSrcLo t k) = bf (parm e 4) 0 14 ∧ v.rd (F.tileWinSrcHi t k) = bf (parm e 4) 16 14 ∧
            v.on (F.tileWinOpDep t k) = (parm e 5).testBit 0 ∧ v.on (F.tileWinOpSig t k) = (parm e 5).testBit 1))) ∧
    (extraBits e [(1, [(0, 18)])] = false →
      (u.rd (F.tileWinState t k) = 0 → leads (exec (.tilewinClose e) s) fun z => posted u z e sWINDOW_STATE 0) ∧
      (u.rd (F.tileWinState t k) = 1 → leads (exec (.tilewinClose e) s) fun z => ∃ v, waits v z e (.tilewinClose t k) ∧ v.rd (F.tileWinState t k) = 2 ∧
        onlyRegs { u with fab := v.fab } v [R.tileWin t k]))) ∧
  ∀ (s u : State) (e : Entry) (bs : List Byte), s.cmdTurn e .admin .plain [(1, [(3, 61)]), (2, [(0, 29)])] = some u →
    let m := parm e 2 % 2 ^ 14
    let n := parm e 2 / 2 ^ 14 % 2 ^ 15
    (n = 0 ∨ 16384 < m + n → leads (exec (.routeSet e) s) fun z => posted u z e sINVALID_FIELD 0) ∧
    (n ≠ 0 → m + n ≤ 16384 → e.inp.read = some bs → 2 * n ≤ bs.length →
      let entry (i : Nat) : Nat := leNat ((bs.drop (2 * i)).take 2)
      ((∃ i, i < n ∧ u.routeBad (entry i) = true) → leads (exec (.routeSet e) s) fun z => posted u z e sINVALID_FIELD 0) ∧
      ((∀ i, i < n → u.routeBad (entry i) = false) → leads (exec (.routeSet e) s) fun z =>
        (∀ p k, p < u.variant.portDies → k < 16384 → z.rd (routeFld p k 0 14) = if m ≤ k ∧ k < m + n then entry (k - m) else u.rd (routeFld p k 0 14)) ∧
        (⟨e, .routeSet ((List.range n).map fun i => u.routeEntries (m + i))⟩ ∈ z.host.waits ↔ ∃ f ∈ z.fab.fences, m ≤ f.dst ∧ f.dst < m + n)))

/-- Each completes when its own checks pass. TREE_SET refused by R427 is TREE_INVALID and changes nothing; else the tree is
loaded and enabled with the parent, home, bits and children of the command, its op_seq 0, idle with no input in, and nothing else
changed but the bark of its combining buffer. TREE_DISABLE of an idle tree clears its enable; of one whose operation a host command started, it also
ends that operation and uses its op_seq. PACK_OP, for a barrier, a reduction and a broadcast: on a tree that is disabled or a
commit tree, and a broadcast away from the root, it is REFUSED; behind an active operation it joins the starts that wait; on an
idle tree it is the active operation, with its state, kind, op_seq and inputs in PACK_TREE_STAT while a child's packet is
missing; on a leaf it sends its up packet; on a lone root it completes with OK, its op_seq and one member, a reduction after its
values are in host memory; a broadcast at the root uses its op_seq at once. SNAPSHOT is BUSY while a slot is Armed, Committed or
being drained; else it reads the plan's first word and then the plan from its address in module memory, and during a pass, with a well-formed
plan, it arms the other slot of a Valid one (either, with none Valid: log entry 38) and waits. That a disabled tree
refuses a PACK_OP is read by inference (log entry 37). (R426, R427, R430, R432, R433, R434, R435, R440, R446, R453, R456, R470) -/
def Obligations.TreeCommands : Prop :=
  (∀ (s u : State) (e : Entry), s.cmdTurn e .admin .plain [(1, [(0, 24)]), (2, kidFields), (3, kidFields)] = some u →
    let w := parm e 1
    let t := w % 16
    (u.treeInvalid e = true → leads (exec (.treeSet e) s) fun z => posted u z e sTREE_INVALID 0) ∧
    (u.treeInvalid e = false → leads (exec (.treeSet e) s) fun z => ∃ v, posted v z e sOK 0 ∧ v = { u with regs := v.regs, trees := v.trees, freeCtr := v.freeCtr } ∧
      v.tree t = TreeSt.reset ∧ (∀ k, k ≠ t → v.tree k = u.tree k) ∧
      (∀ a, a ∉ [R.packTreeCtrl t, R.packTreeKids0 t, R.packTreeKids1 t, R.packTreeStat t, R.keepBarkPack] → v.reg a = u.reg a) ∧
      v.rd (F.packTreeStatState t) = 0 ∧ v.rd (F.packTreeStatKidsIn t) = 0 ∧ v.on (F.packTreeStatLocalIn t) = false ∧ v.on (F.packTreeCtrlEnable t) = true ∧
      v.on (F.packTreeCtrlHasParent t) = w.testBit 4 ∧ v.rd (F.packTreeCtrlParent t) = w / 2 ^ 5 % 2 ^ 14 ∧ v.rd (F.packTreeCtrlHome t) = w / 2 ^ 19 % 8 ∧
      v.on (F.packTreeCtrlCommit t) = w.testBit 22 ∧ v.on (F.packTreeCtrlTime t) = w.testBit 23 ∧ v.reg (R.packTreeKids0 t) = e.w2 ∧
      v.reg (R.packTreeKids1 t) = e.w3 ∧ v.rd (F.packTreeCtrlNChild t) = (v.kids t).length)) ∧
  (∀ (s u : State) (e : Entry), s.cmdTurn e .admin .plain [(1, [(0, 4)])] = some u →
    (∀ w ∈ u.host.waits, ∀ n c r, w.why ≠ .launch n c r) →
    let t := parm e 1 % 16
    ((u.tree t).op = none → (u.tree t).starts = [] → leads (exec (.treeDisable e) s) fun z => ∃ v, posted v z e sOK 0 ∧
      v = { u with regs := v.regs, trees := v.trees } ∧ (∀ k, v.tree k = u.tree k) ∧ (∀ a, a ≠ R.packTreeCtrl t → v.reg a = u.reg a) ∧
      v.on (F.packTreeCtrlEnable t) = false) ∧
    (∀ o e', (u.tree t).op = some o → o.by_ = .host e' → leads (exec (.treeDisable e) s) fun z => z.on (F.packTreeCtrlEnable t) = false ∧
      (z.tree t).op = none ∧ (z.tree t).starts = [] ∧ (z.tree t).opSeq = ((u.tree t).opSeq + 1) % 65536 ∧ z.rd (F.packTreeStatState t) = 0 ∧
      z.rd (F.packTreeStatLastStatus t) = kTIMEOUT)) ∧
  (∀ (s u : State) (e : Entry) (i : Instr) (vals : List W64), s.cmdTurn e .admin .plain [(1, [(0, 16)]), (2, [(3, 61)]), (3, [(3, 61)])] = some u →
    let w := parm e 1
    let t := w % 16
    let kind := w / 16 % 16
    let n := if kind = kBARRIER then 0 else if kind = kBROADCAST then 32 else w / 2 ^ 13 % 8 + 1
    let x := u.tree t
    let o : PackOp := ⟨kind, w / 2 ^ 8 % 8, w / 2 ^ 11 % 4, w / 2 ^ 13 % 8, 0, vals, .host e⟩
    (i, kind) ∈ [(Instr.packOpBarrier e, kBARRIER), (.packOpReduction e, kREDUCTION), (.packOpBroadcast e, kBROADCAST)] →
    (packOpBad w = true → leads (exec i s) fun z => posted u z e sINVALID_FIELD 0) ∧
    (packOpBad w = false → kind ≠ kBARRIER → e.inp.read = none → leads (exec i s) fun z => ∃ v, posted v z e sHOST_DMA 0 ∧ onlyRegs u v [R.hostwErr]) ∧
    (packOpBad w = false → (kind = kBARRIER ∨ ∃ bs, e.inp.read = some bs ∧ 8 * n ≤ bs.length ∧ vals = leWords n bs) → (kind = kBARRIER → vals = []) →
      (u.on (F.packTreeCtrlEnable t) = false ∨ u.on (F.packTreeCtrlCommit t) = true ∨ (kind = kBROADCAST ∧ u.isRoot t = false) →
        leads (exec i s) fun z => posted u z e sREFUSED (x.opSeq % 65536)) ∧
      (u.on (F.packTreeCtrlEnable t) = true → u.on (F.packTreeCtrlCommit t) = false → (kind = kBROADCAST → u.isRoot t = true) →
        (x.op ≠ none → leads (exec i s) fun z => z = { u with trees := z.trees } ∧ z.tree t = { x with starts := x.starts ++ [o] } ∧
          ∀ k, k ≠ t → z.tree k = u.tree k) ∧
        (x.op = none → x.starts = [] →
          (kind ≠ kBROADCAST → (∃ k ∈ u.kids t, u.upOf t k = none) → leads (exec i s) fun z => z = { u with regs := z.regs, counters := z.counters, trees := z.trees, freeCtr := z.freeCtr } ∧
            z.tree t = { x with op := some o } ∧ (∀ k, k ≠ t → z.tree k = u.tree k) ∧ (∀ a, a ≠ R.packTreeStat t → a ≠ R.keepBarkPack → z.reg a = u.reg a) ∧
            z.rd (F.packTreeStatState t) = 1 ∧ z.rd (F.packTreeStatKind t) = kind ∧ z.rd (F.packTreeStatOpSeq t) = x.opSeq % 65536 ∧
            z.on (F.packTreeStatLocalIn t) = true ∧ ∀ k, k < 8 → (z.rd (F.packTreeStatKidsIn t)).testBit k = decide (k ∈ u.kids t ∧ u.upOf t k ≠ none)) ∧
          (kind ≠ kBROADCAST → u.kids t = [] → u.isRoot t = false → x.lastUp ≠ some x.opSeq →
            leads (exec i s) fun z => z.tree t = { x with op := some o, lastUp := some x.opSeq } ∧ z.host = u.host) ∧
          (u.kids t = [] → u.isRoot t = true → x.lastUp ≠ some x.opSeq → (kind = kREDUCTION → e.inp.wrOk = true) →
            leads (exec i s) fun z => ∃ v, posted v z e sOK (x.opSeq % 65536 + 2 ^ 32) ∧ (v.tree t).op = none ∧ (v.tree t).opSeq = (x.opSeq + 1) % 65536 ∧
              v = { u with regs := v.regs, counters := v.counters, trees := v.trees, freeCtr := v.freeCtr,
                           host := { u.host with mem := if kind = kREDUCTION then msets u.host.mem (parm e 3) (valBytes vals) else u.host.mem } } ∧
              v.rd (F.packTreeStatState t) = 0 ∧ v.rd (F.packTreeStatLastStatus t) = kOK) ∧
          (kind = kBROADCAST → leads (exec i s) fun z => (z.tree t).op = none ∧ (z.tree t).opSeq = (x.opSeq + 1) % 65536 ∧
            z.rd (F.packTreeStatState t) = 0 ∧ z.rd (F.packTreeStatKind t) = kBROADCAST))))) ∧
  ∀ (s u : State) (e : Entry), s.cmdTurn e .admin ⟨false, false, true, true⟩ [(1, [(0, 4)]), (2, [(0, 64)]), (3, [(0, 64)])] = some u →
    (u.snapBusy = true → leads (exec (.snapshot e) s) fun z => posted u z e sBUSY 0) ∧
    let a := parm e 3
    let r1 := u.readCommitted 0 a 8
    let n := planWords (leNat (r1.2.map (·.b)))
    let r2 := r1.1.readCommitted 0 a (8 * n)
    let w := r2.1
    let plan := leWords n (r2.2.map (·.b))
    (u.snapBusy = false → a % 8 = 0 → u.inMemory a 8 = true → r1.1.inMemory a (8 * n) = true → anyPois r2.2 = false → w.planOk plan = true →
      w.pass ≠ none →
      leads (exec (.snapshot e) s) fun z => z = { w with regs := z.regs, counters := z.counters, snaps := z.snaps, freeCtr := z.freeCtr } ∧
        ∃ k, (k = 0 ∨ k = 1) ∧ (w.rd (F.packSnapStatState 0) = snVALID → k = 1) ∧
          (w.rd (F.packSnapStatState 0) ≠ snVALID → w.rd (F.packSnapStatState 1) = snVALID → k = 0) ∧
        z.rd (F.packSnapStatState k) = snARMED ∧ z.rd (F.packSnapStatCause k) = 0 ∧ z.rd (F.packSnapStatChunks k) = 0 ∧ z.reg (R.packSnapId k) = e.w2 ∧
        ∃ x, z.snap k = some x ∧ x.tree = parm e 1 % 16 ∧ x.plan = plan ∧ x.next = 0 ∧ x.out = [] ∧ x.barrier = false ∧ x.record = false ∧
          x.stopping = false ∧ x.e = some e)

/-- Each completes when its own checks pass. FABRIC_RESET is REFUSED but at the root of an enabled tree, and BUSY during a link
reset; else it waits, and the compute partition is in reset in the fabric form with the pass gone, joining a reset in progress
whose keep setting stands. PARTITION_RESET is BUSY during either reset; of the compute partition it waits, the partition is in
reset in the local form and a running pass is marked to be discarded without replay; of the link partition it is BUSY while a
job is open, and else waits with the partition in reset for the RETIRE_ACKs of the links that are Up for at most 100 ms. RETIRE
is BUSY while a job is open; else every Open module window is Closing and it waits for those that close and for the links that are
Up, and with neither the module is retired at once. RETRAIN of a link retrains one that is Up and is over at once for one that is Down or Disabled (log
entry 62); of a channel it marks the channel for the next pass boundary, or retrains it now when no pass is uncommitted, and is
CHANNEL_LOST for a retired one. That a link reset makes FABRIC_RESET and RETIRE BUSY is the model's choice (log entry 60).
(R337, R394, R451, R470, R484, R541, R543, R545, R546, R547) -/
def Obligations.ResetCommands : Prop :=
  (∀ (s u : State) (e : Entry), s.cmdTurn e .admin ⟨false, true, false, true⟩ [(1, [(0, 4)]), (2, [(0, 1)])] = some u →
    let t := parm e 1 % 16
    (u.on (F.packTreeCtrlEnable t) = false ∨ u.isRoot t = false → leads (exec (.fabricReset e) s) fun z => posted u z e sREFUSED 0) ∧
    (u.on (F.packTreeCtrlEnable t) = true → u.isRoot t = true →
      (u.boot.linkPhase ≠ 0 → leads (exec (.fabricReset e) s) fun z => posted u z e sBUSY 0) ∧
      (u.boot.linkPhase = 0 → leads (exec (.fabricReset e) s) fun z => ⟨e, .computeReset⟩ ∈ z.host.waits ∧
        (u.boot.reset = none → z.boot.reset = some ⟨(parm e 2).testBit 0, true, false⟩ ∧ z.rd F.bootPartCompute = 2 ∧ z.on F.bootPartFabric = true ∧
          z.pass = none ∧ z.heldSigs = [] ∧ z.fab.dests = [] ∧ z.fab.doubt = []) ∧
        ∀ r, u.boot.reset = some r → z.boot.reset = some { r with fabric := true } ∧ (r.fabric = false → z.pass = none ∧ z.on F.bootPartFabric = true)))) ∧
  (∀ (s u : State) (e : Entry), s.cmdTurn e .admin ⟨true, true, false, true⟩ [(1, [(0, 3)])] = some u →
    let k := parm e 1 % 4
    (u.boot.reset ≠ none ∨ u.boot.linkPhase ≠ 0 →
      (k = 0 → leads (exec (.computeResetLocal e) s) fun z => posted u z e sBUSY 0) ∧ (k = 1 → leads (exec (.linkReset e) s) fun z => posted u z e sBUSY 0)) ∧
    (u.boot.reset = none → u.boot.linkPhase = 0 →
      (k = 0 → leads (exec (.computeResetLocal e) s) fun z => ⟨e, .computeReset⟩ ∈ z.host.waits ∧ z.rd F.bootPartCompute = 2 ∧
        z.boot.reset = some ⟨(parm e 1).testBit 2, false, false⟩ ∧ z.on F.bootPartFabric = false ∧ (u.pass = none → z.pass = none) ∧
        ∀ p, u.pass = some p → ∃ q, z.pass = some q ∧ q.aborted = true ∧ (p.step = 0 → q.step = 1)) ∧
      (k = 1 → u.job ≠ none → leads (exec (.linkReset e) s) fun z => posted u z e sBUSY 0) ∧
      (k = 1 → u.job = none → (∃ l, l < u.variant.links ∧ u.linkExists l = true ∧ u.rd (F.linkStatState l) = lkUp) →
        leads (exec (.linkReset e) s) fun z => ⟨e, .linkReset⟩ ∈ z.host.waits ∧ z.rd F.bootPartLink = 2 ∧
          z.boot = { u.boot with linkPhase := 1, linkAt := u.now + 100000000 } ∧
          (∀ l, l ∈ z.fab.retireWait ↔ l < u.variant.links ∧ u.rd (F.linkStatState l) = lkUp) ∧ ∀ l, z.rd (F.linkStatState l) = u.rd (F.linkStatState l)))) ∧
  (∀ (s u : State) (e : Entry), s.cmdTurn e .admin .plain [] = some u →
    (u.job ≠ none ∨ u.boot.linkPhase ≠ 0 → leads (exec (.retire e) s) fun z => posted u z e sBUSY 0) ∧
    (u.job = none → u.boot.linkPhase = 0 → leads (exec (.retire e) s) fun z => z.host.retiring = true ∧
      (∀ w, w < 1024 → z.rd (F.winCtrlState w) = if u.rd (F.winCtrlState w) = 1 then 2 else u.rd (F.winCtrlState w)) ∧
      ((∃ l, l < u.variant.links ∧ u.linkExists l = true ∧ u.rd (F.linkStatState l) = lkUp) →
        ⟨e, .retire ((List.range 1024).filter fun w => decide (u.rd (F.winCtrlState w) = 1))⟩ ∈ z.host.waits ∧ z.host.retired = false ∧
        ∀ l, l ∈ z.fab.retireWait ↔ l < u.variant.links ∧ u.rd (F.linkStatState l) = lkUp) ∧
      ((∃ w, w < 1024 ∧ (u.rd (F.winCtrlState w) = 1 ∨ u.rd (F.winCtrlState w) = 2)) → z.host.retired = false ∧ z.selfRef = u.selfRef ∧
        ⟨e, .retire ((List.range 1024).filter fun w => decide (u.rd (F.winCtrlState w) = 1))⟩ ∈ z.host.waits) ∧
      ((∀ l, l < u.variant.links → u.rd (F.linkStatState l) ≠ lkUp) → (∀ w, w < 1024 → u.rd (F.winCtrlState w) ≠ 1 ∧ u.rd (F.winCtrlState w) ≠ 2) →
        z.host.retired = true ∧ (∀ w ∈ z.host.waits, ∀ ws, w.why ≠ .retire ws) ∧
        ∀ h, h < 32 → u.stackPopulated h = true → h ∈ z.selfRef))) ∧
  ∀ (s u : State) (e : Entry), s.cmdTurn e .admin ⟨false, true, false, true⟩ [(1, [(0, 10)])] = some u →
    let n := parm e 1 / 2 % 512
    (parm e 1 % 2 = 0 →
      (u.linkExists n = false → leads (exec (.retrainLink e) s) fun z => posted u z e sINVALID_FIELD 0) ∧
      (n < 64 → u.linkExists n = true →
        (u.rd F.bootPartLink = 2 → leads (exec (.retrainLink e) s) fun z => posted u z e sPARTITION_DOWN 0) ∧
        (u.rd F.bootPartLink ≠ 2 →
          (u.rd (F.linkStatState n) ≤ lkDown → leads (exec (.retrainLink e) s) fun z => posted u z e sOK 0) ∧
          (lkDown < u.rd (F.linkStatState n) → leads (exec (.retrainLink e) s) fun z => ⟨e, .retrainLink n⟩ ∈ z.host.waits ∧ (z.link n).widen = true ∧
            z.rd (F.linkStatState n) = if u.rd (F.linkStatState n) = lkUp then lkRetrain else u.rd (F.linkStatState n))))) ∧
    (parm e 1 % 2 = 1 →
      (u.slicePopulated n = false → leads (exec (.retrainChannel e) s) fun z => posted u z e sINVALID_FIELD 0) ∧
      (u.slicePopulated n = true →
        (u.boot.reset ≠ none → leads (exec (.retrainChannel e) s) fun z => posted u z e sPARTITION_DOWN 0) ∧
        (u.boot.reset = none →
          (u.chanRetired n = true → leads (exec (.retrainChannel e) s) fun z => posted u z e sCHANNEL_LOST 0) ∧
          (u.chanRetired n = false → leads (exec (.retrainChannel e) s) fun z => ⟨e, .retrainChan n⟩ ∈ z.host.waits ∧
            (u.pass = none → z.rd (F.hbmcChStatState (n / 16) (n % 16)) = 2 ∧ z.bound.lanes = []) ∧
            (u.pass ≠ none → n ∈ z.bound.lanes ∧ z.regs = u.regs)))))

/-- Over a PCIe link that is up, a write of the tail or head index sets that index and nothing else of the registers, and a head
write that makes room posts a held completion. Enabling a queue at rest starts it with both indices at 0 and the phase of a
first pass (log entry 39), and enabling one that still runs clears its stop; disabling one with nothing outstanding lets it rest
at once, and one with commands outstanding runs on. COMMAND_FETCH at the queue whose turn it is passes the turn on; a fenced
command waits while commands of its queue are outstanding; any other fetched entry moves the head on modulo the ring size and
then acts exactly as the row of its opcode; an opcode that no row has ends with INVALID_OPCODE; a failed fetch sets err and
stops the queue, and HOSTW_ERR takes the entry's address as that of a module DMA that failed. HOST_DMA_TIMEOUT stops a queue at
its fetch in the same way, and ends a waiting TELEM_SNAPSHOT with HOST_DMA. (R462, R463, R464, R465, R466, R468, R470, R475,
R483, R485, R487, R488) -/
def Obligations.HostRings : Prop :=
  (∀ (s : State) (q v : Nat), s.host.linkUp = true → q < 16 →
    (leads (exec (.sqTailWrite q v) s) fun z => onlyRegs s z [R.cmdqSqTail q] ∧ z.rd (F.cmdqSqTailIndex q) = v % 4096) ∧
    (leads (exec (.cqHeadWrite q v) s) fun z => z.rd (F.cmdqCqHeadIndex q) = v % 4096 ∧ (∀ a, a ≠ R.cmdqCqHead q → z.reg a = s.reg a) ∧
      (∀ k, k ≠ q → z.queue k = s.queue k) ∧
      ((s.queue q).held = [] → z.host.mem = s.host.mem ∧ z.host.msix = s.host.msix ∧ (z.queue q).tail = (s.queue q).tail) ∧
      ∀ c, (s.queue q).held = [c] → (s.wr (F.cmdqCqHeadIndex q) v).cqRoom q = true → s.keep.restarting = false →
        (z.queue q).held = [] ∧ (z.queue q).tail = ((s.queue q).tail + 1) % s.ringSize q ∧
        mgets z.host.mem (4096 * s.rd (F.cmdqCqBaseAddr q) + 16 * (s.queue q).tail + 8) 8 = leBytes 8 c.result.toNat)) ∧
  (∀ (s : State) (q : Nat), s.host.linkUp = true → q < 16 →
    (leads (exec (.queueEnable q) s) fun z => z.on (F.cmdqQcfgEnable q) = true ∧ onlyRegs { s with host := z.host } z [R.cmdqQcfg q] ∧
      (∀ k, k ≠ q → z.queue k = s.queue k) ∧
      (s.on (F.cmdqQcfgEnable q) = false → z.queue q = if (s.queue q).run then { s.queue q with stopped := false } else { Queue.reset with run := true })) ∧
    (leads (exec (.queueDisable q) s) fun z => z.on (F.cmdqQcfgEnable q) = false ∧ onlyRegs { s with host := z.host } z [R.cmdqQcfg q] ∧
      (∀ k, k ≠ q → z.queue k = s.queue k) ∧
      z.queue q = if (s.queue q).out = 0 ∧ (s.queue q).held = [] then { s.queue q with run := false } else s.queue q)) ∧
  (∀ (s : State) (q : Nat) (r : RawEntry), s.keeperRuns = true → s.host.linkUp = true → s.fetchTurn = some q →
    let e := rawCommand q r
    let op := (r.words.getD 0 0).toNat % 256
    let s1 : State := { s with host := { s.host with turn := (q + 1) % 16 } }
    let u := s1.setQueue q { s.queue q with head := ((s.queue q).head + 1) % s.ringSize q }
    (e.fence = true → (s.queue q).out ≠ 0 → leads (exec (.commandFetch q (some r)) s) fun z => z = s1) ∧
    (e.fence = false ∨ (s.queue q).out = 0 →
      (∀ i, (op, i) ∈ opcodeRows e → exec (.commandFetch q (some r)) s = exec i u) ∧
      (op ∉ [0x00, 0x01, 0x02, 0x03, 0x04, 0x05, 0x06, 0x07, 0x08, 0x09, 0x0A, 0x10, 0x11, 0x12, 0x13, 0x14, 0x15, 0x16, 0x17, 0x18, 0x19, 0x1A, 0x1B, 0x1C, 0x1D,
          0x20, 0x21, 0x22, 0x23, 0x28, 0x29, 0x2A, 0x30, 0x31, 0x32, 0x33, 0x38, 0x39, 0x3A, 0x3B, 0x40, 0x41, 0x48, 0x49] →
        u.cmdReady e = true → leads (exec (.commandFetch q (some r)) s) fun z => posted (u.cmdStart e) z e sINVALID_OPCODE 0)) ∧
    (leads (exec (.commandFetch q none) s) fun z => onlyRegs { s with host := z.host } z [R.cmdqQcfg q, R.hostwErr] ∧ z.on (F.cmdqQcfgErr q) = true ∧
      hostErred s z 6 3 (4096 * s.rd (F.cmdqSqBaseAddr q) + 64 * (s.queue q).head) ∧
      z.on (F.cmdqQcfgEnable q) = s.on (F.cmdqQcfgEnable q) ∧ z.queue q = { s.queue q with stopped := true } ∧ (∀ k, k ≠ q → z.queue k = s.queue k) ∧
      z.host.turn = (q + 1) % 16)) ∧
  ∀ (s : State) (q : Nat), s.keeperRuns = true → q < 16 →
    (s.fetchable q = true → leads (exec (.hostDmaTimeout q none) s) fun z => onlyRegs { s with host := z.host } z [R.cmdqQcfg q, R.hostwErr] ∧
      hostErred s z 6 3 (4096 * s.rd (F.cmdqSqBaseAddr q) + 64 * (s.queue q).head) ∧ z.on (F.cmdqQcfgErr q) = true ∧ z.queue q = { s.queue q with stopped := true } ∧ ∀ k, k ≠ q → z.queue k = s.queue k) ∧
    ∀ id w, (s.host.waits.find? fun w => decide (w.why = Wait.telem) && decide (w.e.sq = q) && decide (w.e.cmdId = id)) = some w →
      leads (exec (.hostDmaTimeout q (some id)) s) fun z => ∃ v, posted v z w.e sHOST_DMA 0 ∧ w ∉ v.host.waits ∧
        (∀ x, x ≠ w → (x ∈ v.host.waits ↔ x ∈ s.host.waits)) ∧ hostErred s v 6 3 (parm w.e 1)

/-- Over a link that is up. A BAR2 read lets fills of its sectors end, makes one access of the host's collar to each sector from
exch_base on and returns the committed bytes that they give, with all ones for a poisoned byte and EP set then, and a BAR2 write
puts its bytes there in the same way; each waits while a channel that it needs retrains or rests (log entry 98); a partition that
is out of service, an unmapped page, a read that the dead table refuses, poisoned data and a write that the owner table refuses are
recorded in HOSTW_ERR or HOSTW_VIOL, and such a write changes no byte of memory. A BAR4 write changes exactly its bytes of the
staging area, and one outside it or during S2 only HOSTW_ERR. A register write of 4 or 8 bytes, aligned and in a block that its
writer may write, to a register whose bits start no action, changes exactly that register (a latency target or the collar
settings also the measured latencies and escalation steps) and of it only the bits that it carries: an RW bit that no other row
writes takes its value and an RW1C bit clears where it carries a 1, with a record of corrected words its count; the ring bases
of an enabled queue and the fields of a module window that is not Closed stay, and any 1 written to the
count of lost notices clears it; an HBMC, LINK or PORT instance of an unpopulated site ignores a write; a write of the wrong size or
alignment, outside every block, or to a block that only the Keeper writes is dropped and recorded. A GO written to BOOT_STEP
that names the next step starts it, and any other gives ORDER. When the PCIe link goes down, or PERST# is asserted, every queue
is reset and disabled, no launch is held any more, the log takes record 33, and the pass goes on; PCIE_LINK_UP restores the link
with PERST# released. FUNCTION_LEVEL_RESET disables every queue, and without an open job no session is left. (R460, R461, R477,
R481, R482, R483, R485, R494, R530, R549, R675, R691) -/
def Obligations.HostAccesses : Prop :=
  (∀ (s : State) (off len : Nat) (met : List SliceDec), s.host.linkUp = true →
    let u := s.wake
    let a := u.variant.exchBase + off
    let got := (u.settleFills a len met).readAt false u.hostCollar a len met
    let answers (z : State) (status : Nat) (ep : Bool) (data : List Byte) : Prop :=
      z.host.readStatus = status ∧ z.host.readEp = ep ∧ z.host.readData = data
    (u.bar2Down = true → leads (exec (.bar2Read off len met) s) fun z => hostErred u z 2 1 off ∧ answers z 2 false []) ∧
    (u.bar2Down = false → u.bar2Ur off len = true → leads (exec (.bar2Read off len met) s) fun z => hostErred u z 0 1 off ∧ answers z 1 false []) ∧
    (u.bar2Down = false → u.bar2Ur off len = false → u.memBusy a len = true → exec (.bar2Read off len met) s = .next u) ∧
    (u.bar2Down = false → u.bar2Ur off len = false → u.memBusy a len = false →
      (got.2 = none → leads (exec (.bar2Read off len met) s) fun z => hostErred got.1 z 0 1 off ∧ answers z 1 false []) ∧
      ∀ bs, got.2 = some bs → leads (exec (.bar2Read off len met) s) fun z =>
        answers z 0 (anyPois bs) (bs.map fun b => if b.p then 0xFF else b.b) ∧ (anyPois bs = true → hostErred got.1 z 3 1 off) ∧
        onlyRegs { got.1 with host := { got.1.host with readStatus := 0, readEp := anyPois bs, readData := z.host.readData }, counters := z.counters } z
          (if anyPois bs then [R.hostwErr] else []))) ∧
  (∀ (s : State) (off : Nat) (data : List Byte) (met : List SliceDec), s.host.linkUp = true →
    let u := s.wake
    let a := u.variant.exchBase + off
    (u.bar2Down = true → leads (exec (.bar2Write off data met) s) fun z => hostErred u z 2 1 off ∧ z.slices = u.slices ∧ z.hbm = u.hbm) ∧
    (u.bar2Down = false → u.bar2Ur off data.length = true → leads (exec (.bar2Write off data met) s) fun z =>
      hostErred u z 0 1 off ∧ z.host.aer = true ∧ z.slices = u.slices ∧ z.hbm = u.hbm) ∧
    (u.bar2Down = false → u.bar2Ur off data.length = false →
      (∀ flag i, u.ownerRefuses off data = some (flag, i) → leads (exec (.bar2Write off data met) s) fun z =>
        recorded u z F.hostwViolValid F.hostwViolMulti
          [(F.hostwViolFlag, b2n flag), (F.hostwViolSegment, i), (F.hostwViolOffset, off), (F.hostwViolOwner, u.flagWord i % 4)] ∧
        z.slices = u.slices ∧ z.hbm = u.hbm ∧ z.splits = u.splits) ∧
      (u.ownerRefuses off data = none → u.memBusy a data.length = true → exec (.bar2Write off data met) s = .next u) ∧
      (u.ownerRefuses off data = none → u.memBusy a data.length = false → leads (exec (.bar2Write off data met) s) fun z =>
        z = ((u.settleFills a data.length met).bump Ev.hostBar2Wr .module 1).poke a (data.map fun b => ⟨b, false⟩) u.hostCollar met))) ∧
  (∀ (s : State) (off : Nat) (data : List Byte), s.host.linkUp = true →
    (2 ^ 25 < off + data.length → leads (exec (.bar4Write off data) s) fun z => hostErred s z 0 2 off ∧ z.host.aer = true ∧ z.fw = s.fw) ∧
    (off + data.length ≤ 2 ^ 25 →
      (s.bar4Open = false → leads (exec (.bar4Write off data) s) fun z => hostErred s z 5 2 off ∧ z.fw = s.fw) ∧
      (s.bar4Open = true → leads (exec (.bar4Write off data) s) fun z => z = { s with fw := { s.fw with bar4 := z.fw.bar4 } } ∧
        ∀ a, mget z.fw.bar4 a = if off ≤ a ∧ a < off + data.length then data.getD (a - off) 0 else mget s.fw.bar4 a))) ∧
  (∀ (s : State) (off size : Nat) (v : W64), s.host.linkUp = true →
    ((size ≠ 4 ∧ size ≠ 8) ∨ off % size ≠ 0 → leads (exec (.registerWrite off size v .host) s) fun z =>
      hostErred s z 1 0 off ∧ onlyRegs { s with counters := z.counters, host := { s.host with aer := true } } z [R.hostwErr]) ∧
    (size = 4 ∨ size = 8 → off % size = 0 →
      (blockAt off = none → leads (exec (.registerWrite off size v .host) s) fun z =>
        hostErred s z 0 0 off ∧ onlyRegs { s with counters := z.counters, host := { s.host with aer := true } } z [R.hostwErr]) ∧
      (∀ c, blockAt off = some (false, c) → leads (exec (.registerWrite off size v .host) s) fun z =>
        hostErred s z (if c = true ∧ s.computeDown = true then 2 else 4) 0 off ∧ onlyRegs s z [R.hostwErr]) ∧
      (off = R.bootStep → v.getLsbD 4 = true → s.boot.running = false →
        (v.toNat % 16 = s.nextStep → v.toNat % 16 ≤ 12 → leads (exec (.registerWrite off size v .host) s) fun z =>
          z.boot = { s.boot with running := true, src := some .boot } ∧ z.rd F.bootStatusStep = v.toNat % 16 ∧ z.rd F.bootStatusState = 1) ∧
        (v.toNat % 16 ≠ s.nextStep → leads (exec (.registerWrite off size v .host) s) fun z => z.boot = s.boot ∧ z.rd F.bootStatusResult = 0x10)))) ∧
  (∀ (s : State) (off size : Nat) (v : W64) (by_ : Writer) (hostOk c : Bool) (d : RegDef), size = 4 ∨ size = 8 → off % size = 0 →
    blockAt off = some (hostOk, c) → (c = true → s.computeDown = false) → (by_ = .host → s.host.linkUp = true ∧ hostOk = true ∧ off ≠ R.bootStep) →
    let a := off / 8 * 8
    let lo := 8 * (off % 8)
    let carried (i : Nat) : Bool := decide (lo ≤ i ∧ i < lo + 8 * size)
    let held : Bool := decide (0x2000 ≤ a ∧ a < 0x2400) && s.on (F.cmdqQcfgEnable ((a - 0x2000) / 0x40))
    let open_ : Bool := decide (0x10000 ≤ a ∧ a < 0x14000 ∧ s.rd (F.winCtrlState ((a - 0x10000) / 0x10)) ≠ 0)
    let frozen : Bool := open_ || (held && (decide (a % 0x40 = 0) || decide (a % 0x40 = 8)))
    let absent : Bool := decide (0x18000 ≤ a ∧ a < 0x20000 ∧ s.variant.stacksPerFloor ≤ (a - 0x18000) / 0x400 % 4) ||
      decide (0x20000 ≤ a ∧ a < 0x28000 ∧ s.variant.links ≤ (a - 0x20000) / 0x200) || decide (0x200000 ≤ a ∧ a < 0x300000 ∧ s.variant.portDies ≤ (a - 0x200000) / 0x20000)
    let tgt : Bool := decide (R.keepLatTgt 0 ≤ a ∧ a ≤ R.keepLatTgt 15)
    let count (i : Nat) : Bool := ceReg a && d.w1c.testBit 0 && decide (off % 8 = 0) && v.getLsbD 0 && decide (32 ≤ i ∧ i < 48)
    regDefAt a = some d → (a = R.cmdqEvtLost → v.toNat % 2 ^ 16 = 0) → actReg a = false →
    (absent = true → exec (.registerWrite off size v by_) s = .next s) ∧
    (absent = false → leads (exec (.registerWrite off size v by_) s) fun z =>
      onlyRegs { s with lat := z.lat } z (a :: if tgt = true ∨ a = R.keepCollarCfg then s.lat.map fun p => (escField p.1).addr else []) ∧
      (tgt = false → z.lat = s.lat) ∧ ∀ i, i < 64 →
      (z.reg a).getLsbD i =
        ((if carried i = true ∧ d.rw.testBit i = true ∧ (ownRow a).testBit i = false ∧ frozen = false then v.getLsbD (i - lo) else (s.reg a).getLsbD i) &&
          !(carried i && d.w1c.testBit i && v.getLsbD (i - lo)) && !count i))) ∧
  (∀ (s : State) (size : Nat) (v : W64), s.host.linkUp = true → size = 4 ∨ size = 8 → v.toNat % 2 ^ 16 ≠ 0 →
    leads (exec (.registerWrite R.cmdqEvtLost size v .host) s) fun z => onlyRegs s z [R.cmdqEvtLost] ∧ z.rd F.cmdqEvtLostCount = 0) ∧
  (∀ (s : State), s.host.linkUp = true →
    let down (z : State) : Prop := z.host.linkUp = false ∧ (∀ q, q < 16 → z.queue q = Queue.reset ∧ z.on (F.cmdqQcfgEnable q) = false ∧ z.on (F.cmdqQcfgBusy q) = false) ∧
      (∀ w ∈ z.host.waits, 16 ≤ w.e.sq ∧ ∀ n c r, w.why ≠ .launch n c r) ∧ z.keep.log.getLast?.map (·.source) = some 33 ∧ z.tiles = s.tiles ∧ z.reqs = s.reqs ∧ z.job = s.job ∧
      (z.pass = none ↔ s.pass = none) ∧ ∀ p p', s.pass = some p → z.pass = some p' → p'.number = p.number ∧ p'.step = p.step ∧ p'.commit.isSome = p.commit.isSome
    (leads (exec .pcieLinkDown s) down) ∧
    (s.power.powered = true → leads (exec .perstAssert s) fun z => down z ∧ z.power = { s.power with perst := true }) ∧
    (leads (exec .functionLevelReset s) fun z => (∀ q, q < 16 → z.on (F.cmdqQcfgEnable q) = false ∧ (z.queue q).run = false) ∧
      (s.job = none → z.host.sessions = [] ∧ z.tiles = s.tiles))) ∧
  ∀ (s : State), s.power.powered = true → leads (exec .pcieLinkUp s) fun z =>
    z = { s with host := { s.host with linkUp := true }, power := { s.power with perst := false } }

/-- Each step does its work in its turn and ends with its result, a BRINGUP_STEP completing with it (log entries 56 and 57). S0
fails with SUPPLY outside 40 to 60 V or with fewer than 3 converters, and warns with 3; S1 fails with ROM, or takes the identity
record; S2 fails as its image fails R645, or runs it; S3 uses the fuse entries exactly when the digest matches; S4 fails with
RAIL; S5 fails with PLL, or every deck die goes to the point its limits allow; S6 fails with BIST_FATAL, or the merged map is
the union of fuse entries and findings; S7 fails with HBM where a stack has the wrong height or a floor has no channel left, and
every populated channel is in service or retired with one rate for all; S8 fails with FLOOR_INIT, or no segment is mapped, every
right is 0 and every epoch entry is free; S9 fails with TABLE, or builds the tile map and the compute partition is in service;
S10 puts the link partition into service and ends exactly when every enabled link rests; S11 sets the module ID and waits for
the Up links; S12 makes the module ready. STEP_LIMIT_EXPIRY fails a step with TIMEOUT, but S10 and S11 succeed. FW_STAGE keeps
an image that passes R645, and one that fails leaves nothing staged; FW_ACTIVATE restarts the Keeper into a staged image while
no job is open. (R14, R530, R531, R533, R535, R537, R540, R550, R645, R648, R650, R651) -/
def Obligations.BringUp : Prop :=
  (∀ (s v : State) (src : StepSrc) (vin conv : Nat), s.stepTurn 0 src = some v →
    let n := ((List.range 4).filter fun i => conv.testBit i).length
    (vin < 40000 ∨ 60000 < vin ∨ n < 3 → leads (exec (.stepS0 src vin conv) s) fun z => stepEnded v z 0 0x11) ∧
    (40000 ≤ vin → vin ≤ 60000 → 3 ≤ n → leads (exec (.stepS0 src vin conv) s) fun z => ∃ w, stepEnded w z 0 (if n = 3 then 2 else 1) ∧
      w.rd F.pwrmStatConvOk = n ∧ w.rd F.pwrmStatVin = vin / 10 ∧ (∀ i, i < 4 → w.rd (convState i) = if conv.testBit i then 0 else 1) ∧
      w.power.hotSwap = true ∧ (n = 3 → w.on F.bootWarnConvMissing = true))) ∧
  (∀ (s v : State) (src : StepSrc), s.stepTurn 1 src = some v →
    (leads (exec (.stepS1 src false) s) fun z => stepEnded v z 1 0x12) ∧
    (leads (exec (.stepS1 src true) s) fun z => ∃ w, stepEnded w z 1 1 ∧ w = { v with regs := w.regs, fw := { v.fw with meas := w.fw.meas } } ∧
      w.on F.attsIdStatRecordOk = recordOk v.identity ∧
      w.rd F.attsIdStatPart = (if recordOk v.identity = true then imgAt v.identity 4 2 else v.variant.partCode) ∧
      (∀ i, i = 1 ∨ i = 5 → (w.meas i).count = (v.meas i).count + 1 ∧ (w.meas i).time = v.now) ∧ (w.meas 5).parts = [v.identity])) ∧
  (∀ (s v : State) (src : StepSrc), s.stepTurn 2 src = some v →
    let b := v.bar4Image
    (∀ c, v.imageStatus b none = some c → leads (exec (.stepS2 src) s) fun z => stepEnded v z 2 c) ∧
    (v.imageStatus b none = none → leads (exec (.stepS2 src) s) fun z => ∃ w, stepEnded w z 2 1 ∧ w.fw.image = b ∧ w.on F.attsFwStatRunning = true ∧
      w.rd F.attsFwVerVersion = imgAt b 20 8 ∧ w.rd F.attsFwStatFused = v.rd F.attsFwStatFused ∧ (w.meas 2).parts = [b.take 256] ∧
      (∀ i, i = 2 ∨ i = 3 → (w.meas i).count = (v.meas i).count + 1))) ∧
  (∀ (s v : State) (src : StepSrc) (fuses : List Byte), s.stepTurn 3 src = some v →
    let n := leNat (fuses.take 8) / 16 % 2 ^ 11
    let body := fuses.take (8 + 4 * n)
    let es := (List.range n).map fun i => BitVec.ofNat 32 (leNat ((fuses.drop (8 + 4 * i)).take 4))
    leads (exec (.stepS3 src fuses) s) fun z => ∃ w,
      (body.length = 8 + 4 * n ∧ sha3 body = (fuses.drop (8 + 4 * n)).take 64 → stepEnded w z 3 1 ∧ w.on F.fuseStatDigestOk = true ∧
        w.boot.fuse = es.filter entryOk ∧ w.rd F.fuseStatIgnored = (es.filter fun e => !entryOk e).length) ∧
      (¬ (body.length = 8 + 4 * n ∧ sha3 body = (fuses.drop (8 + 4 * n)).take 64) → stepEnded w z 3 2 ∧ w.on F.fuseStatDigestOk = false ∧
        w.boot.fuse = [] ∧ w.on F.bootWarnFuseDigest = true) ∧
      w.on F.fuseStatReadDone = true ∧ w.rd F.fuseStatEntries = n ∧ (w.meas 4).parts = [body]) ∧
  (∀ (s v : State) (src : StepSrc), s.stepTurn 4 src = some v → ∀ domains : List Bool,
    (false ∈ domains → leads (exec (.stepS4 src domains) s) fun z => stepEnded v z 4 0x16) ∧
    (false ∉ domains → leads (exec (.stepS4 src domains) s) fun z => ∃ w, stepEnded w z 4 1 ∧ onlyRegs v w ((List.range 8).map R.thrmFcal))) ∧
  (∀ (s v : State) (src : StepSrc), s.stepTurn 5 src = some v →
    (leads (exec (.stepS5 src false) s) fun z => stepEnded v z 5 0x17) ∧
    (leads (exec (.stepS5 src true) s) fun z => ∃ y, stepEnded v y 5 1 ∧ onlyRegs { y with counters := z.counters, credits := z.credits } z [R.pwrmOpp] ∧
      ∀ d, d < 8 → z.dieOpp d = y.oppLimit d)) ∧
  (∀ (s v : State) (src : StepSrc) (findings : List W32), s.stepTurn 6 src = some v →
    (∀ u : W32, leads (exec (.stepS6 src findings (some u)) s) fun z => ∃ w, stepEnded w z 6 0x18 ∧ onlyRegs v w [R.testStat] ∧
      w.on F.testStatFatal = true ∧ w.rd F.testStatFatalUnit = u.toNat) ∧
    (leads (exec (.stepS6 src findings none) s) fun z => ∃ w, stepEnded w z 6 (if w.on F.bootWarnReturn = true ∨ w.on F.bootWarnExhausted = true then 2 else 1) ∧
      w.on F.testStatDone = true ∧ ∀ e, e ∈ w.boot.merged ↔ e ∈ v.boot.fuse ∨ (e ∈ findings ∧ entryOk e = true))) ∧
  (∀ (s v : State) (src : StepSrc) (chans : List ChanTrain), s.stepTurn 7 src = some v →
    (leads (exec (.stepS7 src chans false) s) fun z => stepEnded v z 7 0x19) ∧
    (leads (exec (.stepS7 src chans true) s) fun z => ∃ w r, stepEnded w z 7 r ∧ (r = 1 ∨ r = 2 ∨ r = 0x19) ∧
      (r = 0x19 ↔ ∃ f, f < 8 ∧ ∀ n, n < 512 → n / 64 = f → v.slicePopulated n = true → w.chanRetired n = true) ∧
      (∀ n, n < 512 → v.slicePopulated n = true → w.rd (F.hbmcChStatState (n / 16) (n % 16)) = 1 ∨ w.chanRetired n = true) ∧
      ∀ h, h < 32 → w.rd (F.hbmcCfgRate h) = w.rd (F.hbmcCfgRate 0))) ∧
  (∀ (s v : State) (src : StepSrc), s.stepTurn 8 src = some v →
    (leads (exec (.stepS8 src false) s) fun z => stepEnded v z 8 0x1A) ∧
    (leads (exec (.stepS8 src true) s) fun z => ∃ w, stepEnded w z 8 1 ∧ (∀ g, w.segKind g = 0) ∧ (∀ p, p < pageCount → w.right p = 0) ∧
      (∀ n e, n < 512 → 1 ≤ e → e ≤ 15 → w.rd (etState n e) = etFREE) ∧ w.slices = [] ∧ w.splits = [])) ∧
  (∀ (s v : State) (src : StepSrc), s.stepTurn 9 src = some v →
    (leads (exec (.stepS9 src false) s) fun z => stepEnded v z 9 0x1B) ∧
    (leads (exec (.stepS9 src true) s) fun z => ∃ w, stepEnded w z 9 (if w.rd F.bootDefectShort = 0 then 1 else 2) ∧
      (∀ k, k < 1280 → w.bad k = v.badNow k) ∧ w.newFails = [] ∧ w.rd F.bootPartCompute = (if v.rd F.keepFaultStatState = 2 then 3 else 1) ∧
      (w.rd F.bootDefectShort ≠ 0 → w.on F.bootWarnShortSector = true))) ∧
  (∀ (s v : State) (src : StepSrc) (links : List LinkTrain), s.stepTurn 10 src = some v → leads (exec (.stepS10 src links) s) fun z =>
    z.rd F.bootPartLink = 1 ∧ (z.boot.running = true ↔ ∃ l, l < z.variant.links ∧ z.linkRests l = false)) ∧
  (∀ (s v : State) (src : StepSrc), s.stepTurn 11 src = some v →
    let id := match v.boot.src with | some (.cmd e) => parm e 2 % 2 ^ 14 | _ => v.rd F.bootStepModuleId
    (v.on (F.portSelfValid 0) = true → leads (exec (.stepS11 src) s) fun z => z = v) ∧
    (v.on (F.portSelfValid 0) = false → leads (exec (.stepS11 src) s) fun z =>
      (∀ p, p < v.variant.portDies → z.rd (F.portSelfModuleId p) = id ∧ z.on (F.portSelfValid p) = true) ∧
      ((∀ l, l < v.variant.links → v.rd (F.linkStatState l) ≠ lkUp) → z.boot.running = false ∧ z.rd F.bootStatusResult = 1 ∧ z.rd F.bootStatusDoneUpto = 11) ∧
      ((∃ l, l < v.variant.links ∧ v.rd (F.linkStatState l) = lkUp) → z.boot.running = true ∧
        ∀ l, l ∈ z.boot.joinWait ↔ l < v.variant.links ∧ v.rd (F.linkStatState l) = lkUp))) ∧
  (∀ (s v : State) (src : StepSrc), s.stepTurn 12 src = some v → leads (exec (.stepS12 src) s) fun z => stepEnded v z 12 1) ∧
  (∀ s : State, s.boot.running = true →
    (s.rd F.bootStatusStep = 10 → leads (exec .stepLimitExpiry s) fun z => ∃ w r, stepEnded w z 10 r ∧ onlyRegs s w [R.bootWarn] ∧ (r = 1 ∨ r = 2) ∧
      (r = 2 ↔ ∃ l, l < s.variant.links ∧ ((s.on (F.linkCtrlEnable l) = true ∧ s.rd (F.linkStatState l) ≠ lkUp) ∨
        (s.rd (F.linkStatState l) = lkUp ∧ s.rd (F.linkStatWidth l) < 3)))) ∧
    (s.rd F.bootStatusStep = 11 → leads (exec .stepLimitExpiry s) fun z => ∃ w, stepEnded w z 11 2 ∧ w.on F.bootWarnJoinPartial = true ∧ w.boot.joinWait = []) ∧
    (s.rd F.bootStatusStep ≠ 10 → s.rd F.bootStatusStep ≠ 11 → leads (exec .stepLimitExpiry s) fun z => stepEnded s z (s.rd F.bootStatusStep) 0x1D)) ∧
  (∀ (s u : State) (e : Entry), s.cmdTurn e .admin .plain [(1, [(0, 26)])] = some u →
    let n := parm e 1 % 2 ^ 26
    (0x2000000 < n → leads (exec (.fwStage e) s) fun z => posted u z e sINVALID_FIELD 0) ∧
    (n ≤ 0x2000000 →
      (u.imageStatus u.bar4Image (some n) = none → leads (exec (.fwStage e) s) fun z => ∃ v, posted v z e sOK 0 ∧
        v = { u with regs := v.regs, fw := { u.fw with staged := u.bar4Image } } ∧ v.on F.attsFwStatStaged = true) ∧
      ∀ c, u.imageStatus u.bar4Image (some n) = some c → leads (exec (.fwStage e) s) fun z => ∃ v st, posted v z e st 0 ∧ v.fw = { u.fw with staged := [] } ∧
        v.on F.attsFwStatStaged = false ∧ (c = brSIG_INVALID → st = sSIG_INVALID) ∧ (c = brROLLBACK → st = sROLLBACK) ∧ st / 256 = 2)) ∧
  ∀ (s u : State) (e : Entry), s.cmdTurn e .admin .plain [] = some u →
    (u.job ≠ none → leads (exec (.fwActivate e) s) fun z => posted u z e sBUSY 0) ∧
    (u.job = none → u.on F.attsFwStatStaged = false → leads (exec (.fwActivate e) s) fun z => posted u z e sNOT_READY 0) ∧
    (u.job = none → u.on F.attsFwStatStaged = true → leads (exec (.fwActivate e) s) fun z =>
      z = { u with keep := { u.keep with restarting := true }, host := { u.host with waits := u.host.waits ++ [⟨e, .activate⟩] },
                   fw := { u.fw with prev := u.fw.image, activating := true } })

/-- Each completes. POWER_APPLIED powers a module whose PWR_OFF is low, as a fall of PWR_OFF does with the EN loop closed;
EN_LOOP_OPEN, PWR_OFF_HIGH and INPUT_TRIP make a powered module lose its power: it is unpowered, every register but the fuse
counts is at its reset value, job, pass, tiles, slices, requests, links and trees are gone, HBM contents are lost, and the
host's memory and the EEPROM stay; INPUT_RESTORE powers a tripped one. CONVERTER_FAULT takes a converter out and sets the
effective cap and the limits of the guard by the number left, and with one or none left it is Module-fatal. RAIL_FAULT of a rail
of the first row is Module-fatal and clears supply_ok, of VHP darkens four rings and retires the channels of their stacks, of a
stack's supply retires its channels, of a port die's supply takes its links out of service. PHASE_FAIL counts a phase, and the
phase limit of a VDK rail follows the phases left; BOND_ZONE_OVERCURRENT flags the zone and above 150 % bounds the point of the
die; REGL_CELL_FAIL takes a cell out and the state of its macro follows the cells left. PWRM_UPDATE sets the averages of every
rail it samples, the outputs of the converters in regulation and the input voltage, and a rail that is back ends its fault. The
guard's action and release set PWRM_GUARD and PWRM_STAT only. ENERGY_ACCOUNT_UPDATE adds the refill up to C and takes the energy
measured, down to -C. What else an input trip takes with it is the model's choice (log entry 50). (R541, R559, R560, R563, R568,
R569, R571, R572, R573, R574, R670, R679) -/
def Obligations.PowerEvents : Prop :=
  let lost (s z : State) : Prop := z.power.powered = false ∧ z.job = none ∧ z.pass = none ∧ z.tiles = [] ∧ z.slices = [] ∧ z.reqs = [] ∧ z.links = [] ∧
    z.trees = [] ∧ z.host.queues = [] ∧ z.host.waits = [] ∧ z.host.mem = s.host.mem ∧ z.fw.eeprom = s.fw.eeprom ∧ z.hbmGen = s.hbmGen + 1 ∧
    z.variant = s.variant ∧ z.pending = s.pending ∧ (∀ a, a ≠ R.attsFwStat → z.reg a = regReset s.variant a) ∧ z.rd F.attsFwStatFused = s.rd F.attsFwStatFused ∧
    z.rd F.attsFwStatRevoked = s.rd F.attsFwStatRevoked
  (∀ s : State, leads (exec .powerApplied s) fun z =>
    z = { s with power := { s.power with enLoop := true, powered := s.power.powered || !s.power.pwrOff, tripped := s.power.tripped && (s.power.pwrOff || s.power.powered) } }) ∧
  (∀ s : State, s.power.powered = true → (leads (exec .enLoopOpen s) fun z => lost s z ∧ z.power.enLoop = false ∧ z.power.tripped = false) ∧
    (leads (exec .pwrOffHigh s) fun z => lost s z ∧ z.power.pwrOff = true ∧ z.power.tripped = false) ∧
    ∀ mv ma, (mv < 38000 ∨ 62000 < mv ∨ 140000 < ma → leads (exec (.inputTrip mv ma) s) fun z => lost s z ∧ z.power.tripped = true ∧
        z.power.enLoop = s.power.enLoop) ∧
      (38000 ≤ mv → mv ≤ 62000 → (mv < 40000 ∨ 60000 < mv) → leads (exec (.inputWarn mv) s) fun z => onlyRegs s z [R.pwrmStat] ∧ z.on F.pwrmStatInputWarn = true)) ∧
  (∀ s : State, s.power.powered = false →
    (s.power.pwrOff = true → leads (exec .pwrOffFall s) fun z =>
      z = { s with power := { s.power with pwrOff := false, powered := s.power.enLoop, tripped := s.power.tripped && !s.power.enLoop } }) ∧
    ∀ mv, s.power.tripped = true → s.power.enLoop = true → s.power.pwrOff = false → 40000 ≤ mv → mv ≤ 60000 →
      leads (exec (.inputRestore mv) s) fun z => z = { s with power := { s.power with powered := true, tripped := false } }) ∧
  (∀ (s : State) (i : Nat), i < 4 → s.rd (convState i) = 0 → 1 ≤ s.rd F.pwrmStatConvOk → leads (exec (.converterFault i) s) fun z =>
    let n := s.rd F.pwrmStatConvOk - 1
    z.rd (convState i) = 1 ∧ z.rd (convOut i) = 0 ∧ z.rd F.pwrmStatConvOk = n ∧ z.on F.pwrmStatSupplyOk = (s.power.rails.isEmpty && decide (2 ≤ n)) ∧
    z.rd F.pwrmCapEffCapW = (if n = 2 then min (s.rd F.pwrmCapCapW) 2600 else s.rd F.pwrmCapCapW) ∧ z.rd F.pwrmGuardShortW = (if n = 2 then 3200 else 4800) ∧
    z.rd F.pwrmGuardLongW = (if n = 2 then 2600 else 4000) ∧ (n ≤ 1 → z.rd F.keepFaultStatState = 2 ∧ (s.boot.reset = none → z.rd F.bootPartCompute = 3))) ∧
  (∀ (s : State) (n : Nat), s.railExists n = true → n ≠ 144 → n ≠ 145 → leads (exec (.railFault (.rail n)) s) fun z =>
    z.rd F.pwrmStatRailFault = (if s.rd F.pwrmStatRailFault = 0xFF then n else s.rd F.pwrmStatRailFault) ∧
    (n < 24 ∨ 146 ≤ n → n ∈ z.power.rails ∧ z.on F.pwrmStatSupplyOk = false ∧ z.rd F.keepFaultStatState = 2 ∧
      (s.rd F.keepFaultStatState ≠ 2 → z.rd F.keepFaultStatMfatalCause = 4) ∧ (n < 24 → z.on (F.pwrmPhaseStatLost n) = true)) ∧
    (24 ≤ n → n < 32 → ∀ h, h / 4 = n - 24 → z.rd (F.reglStatState h) = 3 ∧ (s.stackPopulated h = true → ∀ c, c < 16 → z.chanRetired (16 * h + c) = true)) ∧
    (32 ≤ n → n < 128 → ∀ c, c < 16 → z.chanRetired (16 * ((n - 32) % 32) + c) = true) ∧
    (128 ≤ n → n < 144 → (n - 128) % 8 ∈ z.power.darkPorts ∧ ∀ k, k < 8 → z.rd (F.linkStatState (8 * ((n - 128) % 8) + k)) ≤ lkDown)) ∧
  (∀ (s : State) (rail : Nat), rail < 24 → s.rd (F.pwrmPhaseStatFailed rail) < s.rd (F.pwrmPhaseStatInstalled rail) →
    let working := s.rd (F.pwrmPhaseStatInstalled rail) - s.rd (F.pwrmPhaseStatFailed rail) - 1
    let old := s.rd F.pwrmOppPhaseLimD / 4 ^ rail % 4
    leads (exec (.phaseFail rail) s) fun z => z.rd (F.pwrmPhaseStatFailed rail) = s.rd (F.pwrmPhaseStatFailed rail) + 1 ∧
      (working = 0 → rail ∈ z.power.rails ∧ z.rd F.keepFaultStatState = 2) ∧
      (rail < 8 → 1 ≤ working → working ≤ 3 → z.rd F.keepFaultStatState = 2) ∧
      (rail < 8 → 4 ≤ working → z.rd F.pwrmOppPhaseLimD / 4 ^ rail % 4 =
        max old (if 10 ≤ working then 0 else if 8 ≤ working then 1 else if working = 7 then 2 else 3)) ∧
      (8 ≤ rail → 1 ≤ working → z.rd F.pwrmOppPhaseLimD = s.rd F.pwrmOppPhaseLimD ∧ z.power.rails = s.power.rails)) ∧
  (∀ (s : State) (d n : Nat) (big : Bool), d < 8 → n < 16 → leads (exec (.bondZoneOvercurrent d n big) s) fun z =>
    (∀ k, k < 16 → (z.rd (F.pwrmBondOver125 d)).testBit k = ((s.rd (F.pwrmBondOver125 d)).testBit k || decide (k = n)) ∧
      (z.rd (F.pwrmBondOver150 d)).testBit k = ((s.rd (F.pwrmBondOver150 d)).testBit k || (big && decide (k = n)))) ∧
    z.rd F.pwrmOppPhaseLimD / 4 ^ d % 4 = max (s.rd F.pwrmOppPhaseLimD / 4 ^ d % 4) (if big then 1 else 0)) ∧
  (∀ (s : State) (m cell : Nat), m < 97 → cell < 4 → (s.rd (F.reglStatCellsOk m)).testBit cell = true → leads (exec (.reglCellFail m cell) s) fun z =>
    let n := ((List.range 4).filter fun k => (s.rd (F.reglStatCellsOk m)).testBit k && decide (k ≠ cell)).length
    let st := max (s.rd (F.reglStatState m)) (if n = 3 then 1 else if n = 2 then 2 else 3)
    (∀ k, k < 4 → (z.rd (F.reglStatCellsOk m)).testBit k = ((s.rd (F.reglStatCellsOk m)).testBit k && decide (k ≠ cell))) ∧ z.rd (F.reglStatState m) = st ∧
    (st ≠ s.rd (F.reglStatState m) → (m = 64 → st = 3 → z.rd F.keepFaultStatState = 2) ∧
      (m < 32 → s.stackPopulated m = true → (st = 2 → z.on (F.hbmcCfgHalfRate m) = true) ∧ (st = 3 → ∀ c, c < 16 → z.chanRetired (16 * m + c) = true)) ∧
      (32 ≤ m → m ≠ 64 → st = 3 → z.rd (F.linkStatState (if m < 64 then m - 32 else m - 33)) ≤ lkDown))) ∧
  (∀ (s : State) (rails : List RailSample) (conv : List Nat) (vin : Nat), (rails.map (·.n)).Nodup → conv.length = 4 →
    leads (exec (.pwrmUpdate rails conv vin) s) fun z =>
      (∀ x ∈ rails, s.railExists x.n = true → z.rd (F.pwrmCurAvg x.n) = x.avg % 2 ^ 16 ∧ z.rd (F.pwrmCurPeak x.n) = x.peak % 2 ^ 16 ∧
        z.rd (F.pwrmCurMv x.n) = x.mv % 2 ^ 17) ∧
      (∀ i, i < 4 → z.rd (convOut i) = if s.rd (convState i) = 0 then conv.getD i 0 % 2 ^ 11 else s.rd (convOut i)) ∧ z.rd F.pwrmStatVin = vin / 10 % 2 ^ 16 ∧
      (∀ n, n ∈ z.power.rails ↔ n ∈ s.power.rails ∧ ¬ ∃ x ∈ rails, x.n = n ∧ s.railExists n = true ∧ s.railBack x = true) ∧
      z.on F.pwrmStatSupplyOk = (z.power.rails.isEmpty && decide (2 ≤ s.rd F.pwrmStatConvOk))) ∧
  (∀ s : State, (∀ stop, s.power.powered = true → leads (exec (.guardAct stop) s) fun z => onlyRegs s z [R.pwrmGuard, R.pwrmStat] ∧
      z.rd F.pwrmGuardAction = (if stop then 2 else 1) ∧ z.on F.pwrmStatGuardActive = true) ∧
    leads (exec .guardRelease s) fun z => onlyRegs s z [R.pwrmGuard, R.pwrmStat] ∧ z.rd F.pwrmGuardAction = 0 ∧ z.on F.pwrmStatGuardActive = false) ∧
  ∀ (s : State) (mj : Nat), s.keeperRuns = true → (∀ w ∈ s.host.waits, ∀ n c r, w.why ≠ .launch n c r) →
    leads (exec (.energyAccountUpdate mj) s) fun z => onlyRegs { s with power := z.power } z [R.pwrmAcct] ∧
      (∀ c : Int, c = s.acctCap → z.acctBal = max (-c) (min (s.acctBal + s.rd F.pwrmCapRefillW) c - mj)) ∧ z.rd F.pwrmAcctF = s.rd F.pwrmAcctF ∧
      z.power = { s.power with passMj := if s.rd F.keepPassStatState = psRUNNING then s.power.passMj + mj else s.power.passMj }

/-- Each completes. BAY_IDLE_GATE gates a bay exactly when it has no placed tile, or all of them rest and idle_us is not 0.
BAY_POWER_UP_TEST of the bay whose turn it is powers it up when 16 plus the declared slopes is at most 40, else defers it;
BAY_HALF_RATE_START ends the deferral at half rate; BAY_UP ends the gating and the power-up. IDLE_ENTRY enters the chosen state
where the partition may idle, and from Sleep on the tiles lose their state; IDLE_WAKE leaves it; SELF_REFRESH_ENTRY puts a stack
with nothing left to do into self-refresh. CAGE_INSERT grants power of at most 25 W while all grants stay within 400 W, once S10
has begun; CAGE_REMOVE takes the cage and its two links out. HBM_TEMP_POLL sets the temperatures, the refresh bit and the
bandwidth cap of its stack by R333 and R334. THERMAL_POLL measures each die whose sensors are all in service and agree as its
hottest sensor, and Heel is raised while a unit is at caution. GRACE_EXPIRY and MUZZLE_STEP raise by 1, up to 3, exactly the
levels that units at caution raise, and MUZZLE_FALL lowers by 1 those whose raisers all are 5 degrees below. HW_TRIP is Module-
fatal with cause 3, records the first trip, and a port die's takes its links out. That units raising one level together raise it
once is the model's choice (log entry 55). (R333, R334, R335, R576, R577, R578, R579, R601, R604, R605, R606, R677) -/
def Obligations.BaysIdleThermal : Prop :=
  (∀ (s : State) (d b : Nat), d < 8 → b < 20 →
    (s.bayGated (d, b) = false → (d, b) ∉ s.power.upping →
      let may := s.bayTiles (d, b) = [] ∨ ((∀ t ∈ s.bayTiles (d, b), s.rd (F.tileStatState t) = stIdle ∨ s.rd (F.tileStatState t) = stDone) ∧
        s.rd F.pwrmBayCfgIdleUs ≠ 0)
      (may → leads (exec (.bayIdleGate d b) s) fun z => onlyRegs s z [R.pwrmBay d] ∧ ∀ k, k < 20 → z.bayGated (d, k) = (s.bayGated (d, k) || decide (k = b))) ∧
      (¬ may → leads (exec (.bayIdleGate d b) s) fun z => z = s)) ∧
    (∀ slope : Int, s.bayTurn d = some b → (s.on (F.pwrmBayUpBusy d) = true → s.on (F.pwrmBayDeferred d) = true) →
      leads (exec (.bayPowerUpTest d b slope) s) fun z => onlyRegs { s with counters := z.counters } z [R.pwrmBay d] ∧ z.on (F.pwrmBayUpBusy d) = true ∧
        z.rd (F.pwrmBayBayUp d) = b ∧ z.on (F.pwrmBayDeferred d) = decide (24 < slope) ∧ z.rd (F.pwrmBayGated d) = s.rd (F.pwrmBayGated d)) ∧
    (s.on (F.pwrmBayDeferred d) = true → s.rd (F.pwrmBayBayUp d) = b → leads (exec (.bayHalfRateStart d b) s) fun z => onlyRegs s z [R.pwrmBay d] ∧
      z.on (F.pwrmBayDeferred d) = false ∧ z.on (F.pwrmBayHalfRate d) = true ∧ z.rd (F.pwrmBayGated d) = s.rd (F.pwrmBayGated d)) ∧
    (s.on (F.pwrmBayUpBusy d) = true → s.on (F.pwrmBayDeferred d) = false → s.rd (F.pwrmBayBayUp d) = b → leads (exec (.bayUp d b) s) fun z =>
      onlyRegs { s with counters := z.counters, power := z.power } z [R.pwrmBay d] ∧ (∀ k, k < 20 → z.bayGated (d, k) = (s.bayGated (d, k) && decide (k ≠ b))) ∧
      z.on (F.pwrmBayUpBusy d) = false ∧ z.on (F.pwrmBayHalfRate d) = false ∧ ∀ x, x ∈ z.power.upping ↔ x ∈ s.power.upping ∧ x ≠ (d, b))) ∧
  (∀ s : State,
    (s.rd F.pwrmWakeTolCurrent < s.rd F.pwrmWakeTolChosen → s.power.waking = none → s.mayIdle (s.rd F.pwrmWakeTolChosen) = true → s.keep.restarting = false →
      leads (exec .idleEntry s) fun z => z.rd F.pwrmWakeTolCurrent = s.rd F.pwrmWakeTolChosen ∧
        (s.rd F.pwrmWakeTolChosen < 3 → z.tiles = s.tiles ∧ onlyRegs { s with counters := z.counters } z [R.pwrmWakeTol]) ∧
        (3 ≤ s.rd F.pwrmWakeTolChosen → z.tiles = [] ∧ z.power.upping = [] ∧ ∀ t n, t < tileCount → n < 4 → z.rd (F.tileWinGen t n) = s.rd (F.tileWinGen t n))) ∧
    (∀ n, s.power.waking = some n → leads (exec .idleWake s) fun z => z.rd F.pwrmWakeTolCurrent = min n (s.rd F.pwrmWakeTolCurrent) ∧
      z.power = { s.power with waking := none } ∧ (3 ≤ s.rd F.pwrmWakeTolCurrent → n < 3 → z.selfRef = []) ∧
      (s.rd F.pwrmWakeTolCurrent = 4 → n < 4 → z.slices = [] ∧ z.splits = [])) ∧
    ∀ h, s.stackPopulated h = true → h ∉ s.selfRef → s.mayRefresh = true → s.copyDue h = false →
      (∀ c, c < 16 → (s.slice (16 * h + c)).fills = [] ∧ (s.slice (16 * h + c)).wbs = []) →
      leads (exec (.selfRefreshEntry h) s) fun z => z = { s with selfRef := s.selfRef ++ [h] }) ∧
  (∀ (s : State) (c : Nat), 2 * c < s.variant.links →
    (∀ m : CageType, s.cage c = none → leads (exec (.cageInsert c m) s) fun z => z = { s with power := z.power } ∧ z.cage c = some m ∧
      (∀ k, k ≠ c → z.cage k = s.cage k ∧ (k ∈ z.power.granted ↔ k ∈ s.power.granted)) ∧
      (c ∈ z.power.granted ↔ c ∈ s.power.granted ∨ (s.rd F.bootPartLink ≠ 0 ∧ m.power ≤ 25 ∧ s.cagePower + m.power ≤ 400))) ∧
    (s.cage c ≠ none → leads (exec (.cageRemove c) s) fun z => z.cage c = none ∧ c ∉ z.power.granted ∧ (∀ k, k ≠ c → z.cage k = s.cage k) ∧
      z.rd (F.linkStatState (2 * c)) ≤ lkDown ∧ z.rd (F.linkStatState (2 * c + 1)) ≤ lkDown)) ∧
  (∀ (s : State) (h : Nat) (temp : Option Nat), h < 32 → s.stackPopulated h = true →
    let others := ((List.range 4).map (· + 4 * (h / 4))).filter fun k => decide (k ≠ h) && s.stackPopulated k
    let rep := match temp with
      | some t => t * 10000000
      | none => (others.foldl (fun m k => max m (tget (fun _ => 0) s.therm.hbm k)) 0) + 50000000
    let est := rep + s.rd (F.hbmcTcalK h) * s.stackPower h
    leads (exec (.hbmTempPoll h temp) s) fun z => onlyRegs { s with therm := z.therm } z [R.hbmcTcal h, R.hbmcTemp h] ∧
      z.rd (F.hbmcTempReported h) = min 255 (rep / 10000000) ∧ z.rd (F.hbmcTempEstimated h) = min 255 (est / 10000000) ∧
      z.rd (F.hbmcTempGoverning h) = min 255 (est / 10000000) ∧ z.rd (F.hbmcTcalK h) = s.rd (F.hbmcTcalK h) ∧
      (z.on (F.hbmcTempRefiHalf h) = true ↔ 850000000 ≤ est ∨ (s.on (F.hbmcTempRefiHalf h) = true ∧ 820000000 ≤ est)) ∧
      (let o := s.rd (F.hbmcTempThrottle h)
       z.rd (F.hbmcTempThrottle h) = if 980000000 ≤ est then 2 else if 950000000 ≤ est then (if o = 2 then 2 else 1) else if 920000000 ≤ est then (if o = 0 then 0 else 1)
         else 0) ∧ tget (fun _ => 0) z.therm.hbm h = est) ∧
  (∀ (s : State) (r : ThermalIn), s.keeperRuns = true → leads (exec (.thermalPoll r) s) fun z =>
    ((∃ n, n < 88 ∧ s.thermUnit n = true ∧ cautionOf n ≤ z.rd (F.thrmUnitGoverning n)) → z.on F.thrmStatHeel = true) ∧
    ∀ n, n < 24 → s.thermUnit n = true →
      let rs := if n < 8 then r.deck.getD n [] else if n < 16 then r.floor.getD (n - 8) [] else r.port.getD (n - 16) []
      let is := List.range ((gridOf n).1 * (gridOf n).2)
      (∀ i ∈ is, s.sensorIn n i = true ∧ s.disagrees n i rs = false) →
        z.rd (F.thrmUnitMeasured n) = min 255 ((is.map fun i => rs.getD i 0).foldl max 0 / 4) ∧ z.rd (F.thrmUnitExcluded n) = 0) ∧
  (∀ s : State, s.keeperRuns = true →
    (s.therm.grace = true → leads (exec .graceExpiry s) fun z => z.therm.grace = false ∧ z.rd F.thrmStatGraceLeft = 0 ∧ ∀ l ∈ allLevels,
      z.rd (levelFld l) = if ∃ n ∈ s.atCaution, levelOf n = l then min 3 (s.rd (levelFld l) + 1) else s.rd (levelFld l)) ∧
    (leads (exec .muzzleStep s) fun z => ∀ l ∈ allLevels,
      z.rd (levelFld l) = if ∃ n ∈ s.atCaution, n ∈ s.therm.raised ∧ levelOf n = l then min 3 (s.rd (levelFld l) + 1) else s.rd (levelFld l)) ∧
    leads (exec .muzzleFall s) fun z => ∀ l ∈ allLevels,
      z.rd (levelFld l) = if ∀ n ∈ s.therm.raised, levelOf n = l → n ∈ s.therm.below then s.rd (levelFld l) - 1 else s.rd (levelFld l)) ∧
  ∀ (s : State) (n sensor temp : Nat), n < 24 → s.thermUnit n = true → sensor < (gridOf n).1 * (gridOf n).2 → s.sensorIn n sensor = true → 110 ≤ temp →
    leads (exec (.hwTrip n sensor temp) s) fun z => z.rd F.keepFaultStatState = 2 ∧ (s.rd F.keepFaultStatState ≠ 2 → z.rd F.keepFaultStatMfatalCause = 3) ∧
      (s.boot.reset = none → z.rd F.bootPartCompute = 3) ∧ z.on F.thrmTripValid = true ∧
      (s.on F.thrmTripValid = false → z.rd F.thrmTripKind = n / 8 ∧ z.rd F.thrmTripIndex = n % 8 ∧ z.rd F.thrmTripSensor = sensor ∧ z.rd F.thrmTripTemp = temp % 256 ∧
        z.rd F.thrmTripSource = 0) ∧
      (16 ≤ n → n - 16 ∈ z.power.darkPorts ∧ ∀ k, k < 8 → z.rd (F.linkStatState (8 * (n - 16) + k)) ≤ lkDown)

/-- Each completes. PTP_ANNOUNCE of the module's domain selects the grandmaster whose data set wins, as the one in use or a
better one does, and shows its clock; another changes nothing. PTP_SYNC from the selected grandmaster is a sample of master time
plus correction plus path delay less the port's timestamp, of the source in use, or monitored by a member of the time tree.
PTP_DELAY_RESP sets the path delay to half of both ways together. PPS_IN_EDGE is stamped and is a sample toward a whole second:
the nearest, or in Free-run the next; with another source it is monitored. PPS_OUT_PULSE raises PPS out for 100 ms at a whole
second while it is on and the state is Locked or Holdover, else changes nothing. TIME_SOURCE_LOSS of the source in use acquires
the next source, or enters Holdover where none is left; of another source it leaves the state alone. TIME_PACKET_SEND of the
root sends a packet with its time to every child. TIME_PACKET from the parent is a sample of aux plus the edge's delay, unless
the parent's route has changed or it is more than 10 µs off while Locked, and then goes to the children with this module's own
time. TIME_DELAY_MEASURE sends an up packet with its time, or takes the answer: half the round trip less the parent's holding
time. How many samples count toward lock, what a lost PPS counts, and which packet is the answer are the model's choice (log
entries 63, 64, 66). (R442, R617, R618, R619, R620, R622, R623, R624) -/
def Obligations.TimeSources : Prop :=
  (∀ (s : State) (a : Announce), s.keeperRuns = true →
    let hears := (s.rd F.timeCfgPtp = 1 ∨ s.rd F.timeCfgPtp = 2) ∧ a.dom = s.rd F.timeCfgDomain
    let wins := ∀ m, s.time.master = some m → a.clock = m.clock ∨ lexLess a.data m.data = true
    (hears → wins → leads (exec (.ptpAnnounce a) s) fun z => onlyRegs { s with time := { s.time with master := some a } } z [R.timeStat, R.timeGm] ∧
      z.rd F.timeGmClockId = a.clock % 2 ^ 64 ∧ z.on F.timeStatGmValid = true ∧ z.rd F.timeStatState = s.rd F.timeStatState ∧
      z.rd F.timeStatSource = s.rd F.timeStatSource) ∧
    (¬ (hears ∧ wins) → leads (exec (.ptpAnnounce a) s) fun z => z = s)) ∧
  (∀ (s : State) (src dom : Nat) (master rx corr : Int) (m : Announce), s.keeperRuns = true → s.ptpOn = true → dom = s.rd F.timeCfgDomain →
    s.time.master = some m → m.clock = src →
    (s.timeMember = false → leads (exec (.ptpSync src master rx corr dom) s) fun z => sampled s z tsPTP (master + corr + s.time.delayPtp - rx)) ∧
    (s.timeMember = true → leads (exec (.ptpSync src master rx corr dom) s) fun z => onlyRegs s z [R.timeOffset] ∧
      monitored s z (master + corr + s.time.delayPtp - rx))) ∧
  (∀ (s : State) (d : DelayIn), s.keeperRuns = true → s.ptpOn = true →
    leads (exec (.ptpDelayResp d) s) fun z => z = { s with time := { s.time with delayPtp := ((d.t2 - d.t1) + (d.t4 - d.t3)) / 2 } }) ∧
  (∀ s : State, s.power.powered = true →
    leads (exec .ppsInEdge s) fun z => z.rd F.timePpsInStamp = s.now ∧ z.time.pps = some s.now ∧ (s.keeperRuns = true →
      ∃ theta : Int, ((s.now : Int) + theta) % 1000000000 = 0 ∧
        (if s.rd F.timeStatState = tmFREE then 0 ≤ theta ∧ theta < 1000000000 else -500000000 < theta ∧ theta ≤ 500000000) ∧
        if s.timeMember = true ∨ (s.ptpOn = true ∧ s.time.master ≠ none) then monitored s z theta else sampled s z tsPPS theta)) ∧
  (∀ s : State, leads (exec .ppsOutPulse s) fun z => z = if s.power.powered = true ∧ s.on F.timeCfgPpsOut = true ∧
      (s.rd F.timeStatState = tmLOCKED ∨ s.rd F.timeStatState = tmHOLDOVER) ∧ s.now % 1000000000 = 0 then { s with power := { s.power with ppsOut := s.now + 100000000 } }
    else s) ∧
  (∀ (s : State) (src : Nat), s.keeperRuns = true → 1 ≤ src → src ≤ 3 →
    let next : Option Nat := if s.timeMember = true then (if src = tsPACK then none else some tsPACK)
      else if s.ptpOn = true ∧ s.time.master ≠ none ∧ src ≠ tsPTP then some tsPTP
      else if s.time.pps ≠ none ∧ src ≠ tsPPS then some tsPPS else none
    leads (exec (.timeSourceLoss src) s) fun z => (src = tsPTP → z.time.master = none ∧ z.on F.timeStatGmValid = false) ∧ (src = tsPPS → z.time.pps = none) ∧
      (s.rd F.timeStatSource ≠ src ∨ s.rd F.timeStatState = tmFREE → z.rd F.timeStatState = s.rd F.timeStatState ∧ z.rd F.timeStatSource = s.rd F.timeStatSource) ∧
      (s.rd F.timeStatSource = src → s.rd F.timeStatState ≠ tmFREE →
        (∀ k, next = some k → z.rd F.timeStatState = tmACQUIRING ∧ z.rd F.timeStatSource = k ∧ z.time.run = 0) ∧
        (next = none → z.rd F.timeStatState = tmHOLDOVER ∧ z.rd F.timeStatSource = 0 ∧ z.time.holdAt = s.now ∧ z.reg R.timeAdj = s.reg R.timeAdj))) ∧
  (∀ (s : State) (t : Nat), s.timeTree = some t →
    (s.isRoot t = true → s.on F.packCfgTimeEn = true → leads (exec .timePacketSend s) fun z => z = s.timeSent t) ∧
    (s.isRoot t = false → leads (exec (.timeDelayMeasure none) s) fun z => ∃ w : State, w = { s with trees := w.trees } ∧
      w.tree t = { s.tree t with sentAt := some s.now } ∧ (∀ k, k ≠ t → w.tree k = s.tree k) ∧
      z = w.launchPkt (packPkt { tree := t, kind := kTIME, up := true, rop := 0, dtype := 0, countM1 := 0, child := s.parentSlot t, status := 0,
                                 opSeq := (s.tree t).opSeq, members := 0, aux := s.now } (s.rd (F.packTreeCtrlParent t)) []))) ∧
  ∀ (s v : State) (l : Nat) (p : Packet) (h : PackHdr), s.packetTurn l p = some v → p.typ = pPACK → p.pack = some h → h.up = false → h.kind = kTIME →
    v.timeTree = some h.tree → v.isRoot h.tree = false → v.rd (F.packTreeCtrlParent h.tree) = p.src →
    let x := v.tree h.tree
    let theta : Int := h.aux + x.delay - v.now
    let route := v.routeOf (v.rd (F.packTreeCtrlHome h.tree)) p.src
    let fresh := x.route ≠ none ∧ route = x.route
    (leads (exec (.timePacket l p) s) fun z => ∃ w, z = w.timeSent h.tree ∧
      (v.keeperRuns = true → fresh → ¬ (v.rd F.timeStatState = tmLOCKED ∧ 10000 < theta.natAbs) → sampled v w tsPACK theta) ∧
      (v.keeperRuns = true → ¬ fresh ∨ (v.rd F.timeStatState = tmLOCKED ∧ 10000 < theta.natAbs) → w = { v with counters := w.counters }) ∧
      (v.keeperRuns = false → w = v)) ∧
    ∀ (t2 : Int) (t1 : Nat), x.sentAt = some t1 →
      leads (exec (.timeDelayMeasure (some ⟨l, p, t2⟩)) s) fun z => z = { v with trees := z.trees } ∧
        z.tree h.tree = { x with delay := (((v.now : Int) - t1) - ((h.aux : Int) - t2)) / 2, route := route, sentAt := none } ∧
        ∀ k, k ≠ h.tree → z.tree k = v.tree k

/-- Each completes. KEEPER_WATCHDOG_EXPIRY and KEEPER_MEM_UE restart the running Keeper: the restart is counted, the corrected
words of the Keeper's memories that they report are counted in KEEP_MEM_ERR (log entry 100: that these rows report them), and
an image that no longer matches or a third restart within 10 minutes is Module-fatal; else only registers, counters, the
Keeper's own state and held completions differ. An expiry while a new image starts puts the image before it back. KEEPER_RESTART_DONE ends
the restart: no command that was in progress is left waiting but an activation or a telemetry snapshot, and the SPDM responder
asks for a resynchronisation where a transcript had begun. FUSE_ADVANCE begins where S12 has succeeded and the running image
advances beyond the fused count; FUSE_BLOWN blows one fuse, the count before the revocations, lowest slot first, updates
measurement 3, and ends the advance with the last. TABLE_CHECK decides by the copies that pass as R509's table states: nothing,
a rewrite, or Hold, in which KEEP_FAULT_STAT says so; differ is set exactly where passing copies differ, and bit i of crc_ok where
copy i of every table of the die passes; a check that passes ends the table's Hold. Of the SPDM requests, GET_VERSION begins a transcript; each other one is answered with ERROR after a restart that
cut the transcript, before its time, or in another version, else with its response, which joins the transcript; CHALLENGE and
signed measurements end with ATTS's signature over it; only slot 0 exists; another request is UnsupportedRequest; DOE Discovery
names the two types; DOE Abort discards the transcript. The codes of SPDM and DOE are the model's choice (log entry 14), and
what a restart undoes is read by inference (log entry 48). (R467, R509, R510, R519, R520, R521, R649, R654, R656, R657) -/
def Obligations.KeeperAndResponder : Prop :=
  (∀ (s : State) (ce : Nat) (ok : Bool) (i : Instr), s.keeperRuns = true → s.fw.activating = false →
    i ∈ [Instr.keeperWatchdogExpiry ce ok, .keeperMemUe ce ok] →
    let n := ((s.keep.restarts ++ [s.now]).filter fun t => decide (s.now < t + 600000000000)).length
    leads (exec i s) fun z => z.keep.restarting = true ∧ z.rd F.keepWdogTotal = min (s.rd F.keepWdogTotal + 1) (2 ^ 20 - 1) ∧ z.rd F.keepWdogRecent = min 15 n ∧
      (i = .keeperMemUe ce ok → z.on F.keepMemErrUeValid = true) ∧ z.rd F.keepMemErrCeCount = min (s.rd F.keepMemErrCeCount + ce) 65535 ∧
      z.on F.keepMemErrCeValid = (s.on F.keepMemErrCeValid || decide (0 < ce)) ∧
      (ok = true → n < 3 → z = { s with regs := z.regs, counters := z.counters, keep := z.keep, host := { s.host with queues := z.host.queues } }) ∧
      (ok = false ∨ 3 ≤ n → z.rd F.keepFaultStatState = 2 ∧ (s.boot.reset = none → z.rd F.bootPartCompute = 3) ∧
        (s.rd F.keepFaultStatState ≠ 2 → z.rd F.keepFaultStatMfatalCause = if ok = false then 2 else 1))) ∧
  (∀ (s : State) (ce : Nat) (ok : Bool), s.fw.activating = true → leads (exec (.keeperWatchdogExpiry ce ok) s) fun z => z.keep.restarting = true ∧ z.fw.activating = false ∧
    z.fw.image = s.fw.prev ∧ z.fw.staged = [] ∧ z.on F.attsFwStatStaged = false ∧ ∀ w ∈ z.host.waits, w ∈ s.host.waits ∧ w.why ≠ .activate) ∧
  (∀ s : State, s.keep.restarting = true → leads (exec .keeperRestartDone s) fun z => z.keep.restarting = false ∧
    (∀ w ∈ z.host.waits, w ∈ s.host.waits ∧ (w.why = .activate ∨ w.why = Wait.telem)) ∧ z.rd F.attsSpdmStatState = 0 ∧
    (s.rd F.attsSpdmStatState ≠ 0 → z.fw.transcript = [] ∧ z.fw.resync = true) ∧
    (s.fw.activating = true → z.fw.activating = false ∧ z.fw.image = s.fw.staged ∧ z.fw.staged = [] ∧ z.on F.attsFwStatRunning = true ∧
      z.rd F.attsFwStatSvn = imgSvn s.fw.staged % 128 ∧ z.rd F.attsFwStatKeyIndex = imgKey s.fw.staged % 4 ∧ z.on F.attsFwStatStaged = false)) ∧
  (∀ s : State,
    (s.on F.bootStatusReady = true → s.keep.restarting = false → imgAdvance s.fw.image = true → s.rd F.attsFwStatFused < s.rd F.attsFwStatSvn →
      leads (exec .fuseAdvance s) fun z => onlyRegs s z [R.attsFwStat] ∧ z.on F.attsFwStatAdvancing = true ∧ z.rd F.attsFwStatFused = s.rd F.attsFwStatFused) ∧
    (s.on F.attsFwStatAdvancing = true → s.keep.restarting = false →
      let left : State → List Nat := fun x => (List.range 4).filter fun k => (imgRevoke s.fw.image).testBit k && !(x.rd F.attsFwStatRevoked).testBit k
      leads (exec .fuseBlown s) fun z => onlyRegs { s with fw := { s.fw with meas := z.fw.meas } } z [R.attsFwStat] ∧ (z.meas 3).count = (s.meas 3).count + 1 ∧
        (s.rd F.attsFwStatFused < s.rd F.attsFwStatSvn → z.rd F.attsFwStatFused = s.rd F.attsFwStatFused + 1 ∧ z.rd F.attsFwStatRevoked = s.rd F.attsFwStatRevoked) ∧
        (s.rd F.attsFwStatSvn ≤ s.rd F.attsFwStatFused → z.rd F.attsFwStatFused = s.rd F.attsFwStatFused ∧
          ∀ j, (z.rd F.attsFwStatRevoked).testBit j = ((s.rd F.attsFwStatRevoked).testBit j || decide ((left s).head? = some j))) ∧
        z.on F.attsFwStatAdvancing = (decide (z.rd F.attsFwStatFused < z.rd F.attsFwStatSvn) || !(left z).isEmpty))) ∧
  (∀ (s : State) (t : TableKind) (i : Nat) (c : CopyRead), s.tableAt t i = true → c.crc.length = 3 → c.id.length = 3 →
    let pass := ((c.crc.zip c.id).filter (·.1)).map (·.2)
    let fix := (∃ a, pass = [a, a] ∨ pass = [a]) ∨ ∃ a b, a ≠ b ∧ (pass = [a, a, b] ∨ pass = [a, b, a] ∨ pass = [b, a, a])
    let same := ∃ a, pass = [a, a, a]
    (same ∨ fix → s.keep.hold ≠ some (t, i) → leads (exec (.tableCheck t i c) s) fun z =>
      z = { s with regs := z.regs, counters := z.counters, keep := z.keep, host := z.host } ∧ z.keep.hold = s.keep.hold ∧ z.copies t i = allPass ∧
      (∀ t' i', s.tableAt t' i' = true → (t', i') ≠ (t, i) → z.copies t' i' = s.copies t' i') ∧
      (∀ k, k < 3 → ((z.rd ⟨mapStat t i, 0, 3⟩).testBit k = true ↔ ∀ x ∈ mapTables t i, (z.copies x.1 x.2).getD k false = true)) ∧
      (same → onlyRegs { s with keep := { s.keep with copies := z.keep.copies } } z [mapStat t i] ∧ z.rd ⟨mapStat t i, 3, 1⟩ = s.rd ⟨mapStat t i, 3, 1⟩) ∧
      (fix → z.rd ⟨mapStat t i, 3, 1⟩ = if pass.length = 3 then 1 else s.rd ⟨mapStat t i, 3, 1⟩)) ∧
    (same ∨ fix → s.keep.hold = some (t, i) → leads (exec (.tableCheck t i c) s) fun z => z.keep.hold = none ∧
      z.rd F.keepFaultStatState = if s.rd F.keepFaultStatState = 1 then 0 else s.rd F.keepFaultStatState) ∧
    (¬ (same ∨ fix) → s.keep.hold = none → leads (exec (.tableCheck t i c) s) fun z => z.keep.hold = some (t, i) ∧ z.rd F.keepFaultStatHoldTable = holdCode t ∧
      (∀ k, z.copies t i = c.crc ∧ (c.crc.getD k false = false → (z.rd ⟨mapStat t i, 0, 3⟩).testBit k = false)) ∧
      z.rd ⟨mapStat t i, 3, 1⟩ = (if 2 ≤ pass.length then 1 else s.rd ⟨mapStat t i, 3, 1⟩) ∧
      z.rd F.keepFaultStatState = (if s.rd F.keepFaultStatState = 0 then 1 else s.rd F.keepFaultStatState) ∧
      (s.pass = none → s.job ≠ none → z.on F.keepFaultStatJobFatal = true ∧
        (s.on F.keepFaultStatJobFatal = false → z.rd F.keepFaultStatFatalCause = 7)))) ∧
  (∀ (s : State) (m : SpdmMsg), s.keeperRuns = true → s.host.linkUp = true →
    let req : List Byte := [BitVec.ofNat 8 m.version, BitVec.ofNat 8 m.code, BitVec.ofNat 8 m.p1, BitVec.ofNat 8 m.p2] ++ m.body
    let errs : State → List Byte → Prop := fun z r => onlyRegs { s with fw := { s.fw with response := r } } z [R.attsSpdmStat] ∧
      z.rd F.attsSpdmStatState = s.rd F.attsSpdmStatState ∧ z.rd F.attsSpdmStatErrors = min (s.rd F.attsSpdmStatErrors + 1) 65535
    let answers : State → Nat → Nat → Bool → Nat → Prop := fun z code p1 signed st =>
      onlyRegs { s with fw := z.fw } z [R.attsSpdmStat] ∧ z.rd F.attsSpdmStatState = st ∧ z.rd F.attsSpdmStatErrors = s.rd F.attsSpdmStatErrors ∧
        ∃ body, let r : List Byte := [0x13, BitVec.ofNat 8 code, BitVec.ofNat 8 p1, 0] ++ body
          let tr := s.fw.transcript ++ req ++ r
          if signed = true then z.fw = { s.fw with transcript := [], response := r ++ Config.mldsaSign (identityXi s.fw.seed) tr s.fw.signs, signs := s.fw.signs + 1 } ∧
            z.rd F.attsSpdmStatSigned = min (s.rd F.attsSpdmStatSigned + 1) 65535
          else z.fw = { s.fw with transcript := tr, response := r } ∧ z.rd F.attsSpdmStatSigned = s.rd F.attsSpdmStatSigned
    (m.code = 0x84 → leads (exec (.getVersion m) s) fun z => onlyRegs { s with fw := z.fw } z [R.attsSpdmStat] ∧ z.rd F.attsSpdmStatState = 1 ∧
      z.fw = { s.fw with transcript := req ++ [0x10, 0x04, 0, 0, 0, 1, 0x00, 0x13], response := [0x10, 0x04, 0, 0, 0, 1, 0x00, 0x13], resync := false }) ∧
    (∀ (i : Instr) (code least : Nat), (i, code, least) ∈ [(Instr.getCapabilities m, 0xE1, 1), (.negotiateAlgorithms m, 0xE3, 1), (.getDigests m, 0x81, 2),
        (.getCertificate m, 0x82, 2), (.challenge m, 0x83, 2), (.getMeasurements m, 0xE0, 2)] → m.code = code →
      (s.fw.resync = true → leads (exec i s) fun z => errs z [0x13, 0x7F, 0x43, 0]) ∧
      (s.fw.resync = false → s.rd F.attsSpdmStatState < least → leads (exec i s) fun z => errs z [0x13, 0x7F, 0x04, 0]) ∧
      (s.fw.resync = false → least ≤ s.rd F.attsSpdmStatState → m.version ≠ 0x13 → leads (exec i s) fun z => errs z [0x13, 0x7F, 0x41, 0])) ∧
    (s.fw.resync = false → m.version = 0x13 → 1 ≤ s.rd F.attsSpdmStatState →
      (m.code = 0xE1 → leads (exec (.getCapabilities m) s) fun z => answers z 0x61 0 false (s.rd F.attsSpdmStatState)) ∧
      (m.code = 0xE3 → leads (exec (.negotiateAlgorithms m) s) fun z => answers z 0x63 0 false 2) ∧
      (2 ≤ s.rd F.attsSpdmStatState →
        (m.code = 0x81 → leads (exec (.getDigests m) s) fun z => answers z 0x01 0 false (s.rd F.attsSpdmStatState)) ∧
        (m.code = 0x82 → leads (exec (.getCertificate m) s) fun z =>
          if m.p1 % 16 = 0 then answers z 0x02 0 false (s.rd F.attsSpdmStatState) else errs z [0x13, 0x7F, 0x01, 0]) ∧
        (m.code = 0x83 → leads (exec (.challenge m) s) fun z =>
          if m.p1 = 0 then answers z 0x03 0 true (s.rd F.attsSpdmStatState) else errs z [0x13, 0x7F, 0x01, 0]) ∧
        (m.code = 0xE0 → leads (exec (.getMeasurements m) s) fun z =>
          if m.p2 ≤ 7 ∨ m.p2 = 0xFF then answers z 0x60 (if m.p2 = 0 then 7 else 0) (decide (m.p1 % 2 = 1)) (s.rd F.attsSpdmStatState)
          else errs z [0x13, 0x7F, 0x01, 0]))) ∧
    (m.code ∉ [0x84, 0xE1, 0xE3, 0x81, 0x82, 0x83, 0xE0] → leads (exec (.unsupportedSpdmRequest m) s) fun z =>
      errs z (if s.fw.resync = true then [0x13, 0x7F, 0x43, 0] else [0x13, 0x7F, 0x07, BitVec.ofNat 8 m.code])) ∧
    (∀ n, leads (exec (.doeDiscovery n) s) fun z => z = { s with fw := { s.fw with response :=
      if n = 0 then [0x01, 0x00, 0x00, 0x01] else if n = 1 then [0x01, 0x00, 0x01, 0x00] else [0xFF, 0xFF, 0x00, 0x00] } }) ∧
    leads (exec .doeAbort s) fun z => onlyRegs { s with fw := { s.fw with transcript := [], response := [] } } z [R.attsSpdmStat] ∧ z.rd F.attsSpdmStatState = 0)

/-- For every command c and state s, the step of s with c at the front of its queue is exec of c on s with the queue's rest. Every
command of every row, with whatever operands and in every state, completes with a next state, in which the queue and the module's
part are as before: none faults and none is refused. On an empty queue the step is one idle nanosecond, in which the timebase of a module that has its power counts 1, and a module
without power does nothing. What a step does on an empty queue is the model's choice (log entry 1). (R541, R614, R687) -/
def Obligations.FrontCommand : Prop :=
  (∀ (c : Instr) (s : State) (rest : List Instr), step { s with pending := c :: rest } = exec c { s with pending := rest }) ∧
  (∀ (c : Instr) (s : State), leads (exec c s) fun t => t.pending = s.pending ∧ t.variant = s.variant) ∧
  ∀ s : State, s.pending = [] → leads (step s) fun z => (s.clockRuns = false → z = s) ∧ (s.clockRuns = true → z.now = (s.now + 1) % 2 ^ 64)

/-- At reset every register reads the value that its register map gives for reset, so that no bring-up step has run and the
timebase is 0; every register of a tile is 0; no command waits, no job, pass, request, link, tree or snapshot exists, and no
queue runs; and every memory and the registers are in their canonical form. Values that the spec leaves open at reset, such as a
tile's registers and the memories before bring-up, are the model's choice (log entry 6). (R127, R462, R541, R550, R614) -/
def Obligations.ResetState : Prop :=
  let s := State.reset
  s.sound ∧ (∀ a, s.reg a = regReset s.variant a) ∧ s.reg R.bootStatus = 0 ∧ s.now = 0 ∧ s.pending = [] ∧ s.job = none ∧ s.pass = none ∧ s.reqs = [] ∧
    (∀ t r, (s.tile t).sreg r = 0 ∧ (s.tile t).pc = 0 ∧ ∀ l, (s.tile t).lane r l = 0) ∧ (∀ l, s.link l = LinkSt.reset) ∧ (∀ t, s.tree t = TreeSt.reset) ∧
    (∀ k, s.snap k = none) ∧ (∀ q, (s.queue q).run = false) ∧ s.host.waits = [] ∧ s.power.powered = false ∧ s.host.linkUp = false

/-- For every packet whose fields fit their places: the packet read from its words is the packet itself, with every header
field, the pack or management header and the marks of poisoned words; and its flits carry those words in order, at most 30 in
each, the first flit alone starting the packet and the last alone ending it, on its own virtual lane. (R385, R396, R397, R430,
R538) -/
def Obligations.PacketRoundTrip : Prop :=
  ∀ p : Packet, packetFits p = true →
    Packet.ofWords p.words (p.poison.map (· + p.lead)) = p ∧
    (p.flits.flatMap (·.body) = p.words ∧ ∀ k f, p.flits[k]? = some f → f.body ≠ [] ∧ f.body.length ≤ 30 ∧ (f.sop = true ↔ k = 0) ∧
      (f.eop = true ↔ k + 1 = p.flits.length) ∧ f.vl = p.vl ∧ (f.rpool = true ↔ p.typ = pRESP) ∧ f.pkt = p)

/-- From every state whose registers, host memory, BAR4 and HBM are in canonical form (keys strictly rising, no entry equal to
what an unlisted one reads as), a step that answers a next state leaves them so; it takes the front command from the queue and
nothing else, and it never changes which part the module is. That the queue is first in, first out, is the model's choice (log
entry 1). (R541, R687) -/
def Obligations.StepInvariant : Prop :=
  ∀ s t : State, s.sound → step s = .next t → t.sound ∧ t.pending = s.pending.tail ∧ t.variant = s.variant
end

