-- ==== Sys2Proof/Laws/Bits.lean ====
section
/-! SUPPORT. Laws of bit fields of numbers. -/

namespace Sys2Proof.Machine

theorem bf_lt (v lo w : Nat) : bf v lo w < 2 ^ w := Nat.mod_lt _ (Nat.two_pow_pos w)

/-- A field replaced, as bits. -/
theorem bfSet_testBit (v lo w f i : Nat) :
    (bfSet v lo w f).testBit i = if lo ≤ i ∧ i < lo + w then f.testBit (i - lo) else v.testBit i := by
  have key : bfSet v lo w f = v % 2 ^ lo + 2 ^ lo * (f % 2 ^ w + 2 ^ w * (v / 2 ^ lo / 2 ^ w)) := by
    simp only [bfSet, bf]
    have h1 : v = v % 2 ^ lo + 2 ^ lo * (v / 2 ^ lo) := (Nat.mod_add_div _ _).symm
    have h2 : v / 2 ^ lo = v / 2 ^ lo % 2 ^ w + 2 ^ w * (v / 2 ^ lo / 2 ^ w) := (Nat.mod_add_div _ _).symm
    generalize v / 2 ^ lo % 2 ^ w = c at h2 ⊢
    generalize v / 2 ^ lo / 2 ^ w = q at h2 ⊢
    generalize v % 2 ^ lo = r at h1 ⊢
    rw [h2] at h1
    generalize f % 2 ^ w = g
    rw [h1, Nat.mul_comm c, Nat.mul_comm g]
    simp only [Nat.mul_add]; omega
  rw [key]
  rw [Nat.add_comm, Nat.testBit_two_pow_mul_add _ (Nat.mod_lt _ (Nat.two_pow_pos lo))]
  by_cases h : i < lo
  · rw [if_pos h, if_neg (by omega), Nat.testBit_mod_two_pow]; simp [h]
  · rw [if_neg h, Nat.add_comm, Nat.testBit_two_pow_mul_add _ (Nat.mod_lt _ (Nat.two_pow_pos w))]
    by_cases h2 : i - lo < w
    · rw [if_pos h2, if_pos (by omega), Nat.testBit_mod_two_pow]; simp [h2]
    · rw [if_neg h2, if_neg (by omega), Nat.testBit_div_two_pow, Nat.testBit_div_two_pow]
      congr 1; omega

theorem bf_testBit (v lo w i : Nat) : (bf v lo w).testBit i = (decide (i < w) && v.testBit (i + lo)) := by
  simp [bf, Nat.testBit_mod_two_pow, Nat.testBit_div_two_pow]

/-- The field written is read back, modulo its width. -/
@[simp] theorem bf_bfSet (v lo w f : Nat) : bf (bfSet v lo w f) lo w = f % 2 ^ w := by
  apply Nat.eq_of_testBit_eq; intro i
  rw [bf_testBit, bfSet_testBit, Nat.testBit_mod_two_pow]
  by_cases h : i < w
  · rw [if_pos (by omega), Nat.add_sub_cancel]
  · simp [h]

/-- A field apart from the one written keeps its value. -/
theorem bf_bfSet_ne (v lo w f lo' w' : Nat) (h : lo + w ≤ lo' ∨ lo' + w' ≤ lo) : bf (bfSet v lo w f) lo' w' = bf v lo' w' := by
  apply Nat.eq_of_testBit_eq; intro i
  rw [bf_testBit, bf_testBit, bfSet_testBit]
  by_cases h2 : i < w'
  · rw [if_neg (by omega)]
  · simp [h2]

theorem bf_mod (v lo w n : Nat) (h : lo + w ≤ n) : bf (v % 2 ^ n) lo w = bf v lo w := by
  apply Nat.eq_of_testBit_eq; intro i
  rw [bf_testBit, bf_testBit, Nat.testBit_mod_two_pow]
  by_cases h2 : i < w
  · have : i + lo < n := by omega
    simp [this]
  · simp [h2]

end Sys2Proof.Machine
end

