-- ==== Sys2Proof/Laws/Table.lean ====
section
/-! SUPPORT. Laws of the sparse tables: a read after a write, the keys a write leaves alone, and the canonical form. -/

namespace Sys2Proof.Machine

section
variable {α : Type}

@[simp] theorem tget_nil (d : Nat → α) (k : Nat) : tget d [] k = d k := rfl

theorem tget_cons (d : Nat → α) (j : Nat) (v : α) (t : List (Nat × α)) (k : Nat) :
    tget d ((j, v) :: t) k = if k = j then v else tget d t k := rfl

theorem tget_drop (d : Nat → α) (k : Nat) (m : List (Nat × α)) (a : Nat) :
    tget d (m.filter fun p => decide (p.1 ≠ k)) a = if a = k then d a else tget d m a := by
  induction m with
  | nil => simp
  | cons p t ih =>
    obtain ⟨j, w⟩ := p
    by_cases h : j = k <;> by_cases h1 : a = k <;> by_cases h2 : a = j <;> simp_all [tget_cons]

/-- What a read gives after a write: the value at the key, what was there elsewhere. -/
theorem tget_tset [DecidableEq α] (d : Nat → α) (m : List (Nat × α)) (k : Nat) (v : α) (a : Nat) :
    tget d (tset d m k v) a = if a = k then v else tget d m a := by
  induction m with
  | nil =>
    simp only [tset]
    by_cases h : a = k <;> by_cases h2 : v = d k <;> simp_all [tget_cons]
  | cons p t ih =>
    obtain ⟨j, w⟩ := p
    have hd := tget_drop d k t a
    simp only [tset]
    split
    · by_cases h : a = k <;> by_cases h2 : v = d k <;> by_cases h3 : a = j <;>
        simp only [h2, if_true, if_false, tget_cons, hd] <;> simp_all
    · split
      · rw [ih, tget_cons]; by_cases h : a = k <;> simp_all
      · simp only [tget_cons, ih]; by_cases h : a = j <;> by_cases h2 : a = k <;> simp_all

/-- A dropped key range reads the default; every other key reads what it read. -/
theorem tget_tclear (d : Nat → α) (lo hi : Nat) (m : List (Nat × α)) (a : Nat) :
    tget d (tclear lo hi m) a = if lo ≤ a ∧ a ≤ hi then d a else tget d m a := by
  induction m with
  | nil => simp [tclear]
  | cons p t ih =>
    obtain ⟨j, w⟩ := p
    simp only [tclear] at ih
    simp only [tclear, List.filter_cons]
    by_cases h : lo ≤ j ∧ j ≤ hi
    · rw [if_neg (by simp [h]), ih, tget_cons]
      by_cases h1 : lo ≤ a ∧ a ≤ hi
      · rw [if_pos h1, if_pos h1]
      · rw [if_neg h1, if_neg h1, if_neg (by rintro rfl; exact h1 h)]
    · rw [if_pos (by simp only [Bool.not_eq_true', Bool.and_eq_false_iff, decide_eq_false_iff_not]; omega), tget_cons, tget_cons, ih]
      by_cases h2 : a = j
      · subst h2; rw [if_pos rfl, if_neg h, if_pos rfl]
      · rw [if_neg h2, if_neg h2]

variable [DecidableEq α]

@[simp] theorem tget_tset_same (d : Nat → α) (m : List (Nat × α)) (k : Nat) (v : α) : tget d (tset d m k v) k = v := by
  simp [tget_tset]

theorem tget_tset_ne (d : Nat → α) (m : List (Nat × α)) (k : Nat) (v : α) {a : Nat} (h : a ≠ k) :
    tget d (tset d m k v) a = tget d m a := by simp [tget_tset, h]

/-! ## The canonical form -/

/-- The canonical form, said of the list. -/
theorem twf_iff (d : Nat → α) (m : List (Nat × α)) :
    twf d m = true ↔ m.Pairwise (fun p q => p.1 < q.1) ∧ ∀ p ∈ m, p.2 ≠ d p.1 := by
  induction m with
  | nil => simp [twf]
  | cons p t ih =>
    obtain ⟨j, v⟩ := p
    simp only [twf, Bool.and_eq_true, decide_eq_true_eq, ih, List.pairwise_cons, List.mem_cons, forall_eq_or_imp]
    constructor
    · rintro ⟨⟨h1, h2⟩, h3, h4⟩
      refine ⟨⟨?_, h3⟩, h1, h4⟩
      intro q hq
      cases t with
      | nil => simp at hq
      | cons r u =>
        obtain ⟨k, w⟩ := r
        simp only [decide_eq_true_eq] at h2
        rcases List.mem_cons.mp hq with rfl | hq
        · exact h2
        · exact Nat.lt_trans h2 ((List.pairwise_cons.mp h3).1 q hq)
    · rintro ⟨⟨h1, h2⟩, h3, h4⟩
      refine ⟨⟨h3, ?_⟩, h2, h4⟩
      cases t with
      | nil => rfl
      | cons r u => simpa using h1 r (by simp)

/-- An entry of a table after a write. -/
theorem tset_mem (d : Nat → α) (m : List (Nat × α)) (k : Nat) (v : α) (p : Nat × α) (h : p ∈ tset d m k v) :
    p = (k, v) ∧ v ≠ d k ∨ p ∈ m := by
  induction m with
  | nil => simp only [tset] at h; split at h <;> simp_all
  | cons q t ih =>
    obtain ⟨j, w⟩ := q
    simp only [tset] at h
    split at h
    · split at h <;> simp only [List.mem_cons, List.mem_filter] at h ⊢ <;> tauto
    · split at h
      · have := ih h; simp only [List.mem_cons]; tauto
      · simp only [List.mem_cons] at h ⊢
        rcases h with h | h
        · exact .inr (.inl h)
        · have := ih h; tauto

/-- A write keeps the canonical form. -/
theorem twf_tset (d : Nat → α) (m : List (Nat × α)) (k : Nat) (v : α) (h : twf d m = true) : twf d (tset d m k v) = true := by
  rw [twf_iff] at h ⊢
  refine ⟨?_, fun p hp => ?_⟩
  · replace h := h.1
    induction m with
    | nil => simp only [tset]; split <;> simp
    | cons q t ih =>
      obtain ⟨j, w⟩ := q
      obtain ⟨h1, h2⟩ := List.pairwise_cons.mp h
      have hm : ((j, w) :: t.filter fun p => decide (p.1 ≠ k)).Pairwise (fun p q => p.1 < q.1) :=
        List.pairwise_cons.mpr ⟨fun q hq => h1 q (List.mem_filter.mp hq).1, h2.filter _⟩
      simp only [tset]
      split
      · rename_i hlt
        split
        · exact hm
        · refine List.pairwise_cons.mpr ⟨fun q hq => ?_, hm⟩
          rcases List.mem_cons.mp hq with rfl | hq
          · exact hlt
          · exact Nat.lt_trans hlt (h1 q (List.mem_filter.mp hq).1)
      · split
        · exact ih h2
        · refine List.pairwise_cons.mpr ⟨fun q hq => ?_, ih h2⟩
          rcases tset_mem d t k v q hq with ⟨rfl, -⟩ | hq
          · show j < k; omega
          · exact h1 q hq
  · rcases tset_mem d m k v p hp with ⟨rfl, hv⟩ | hp
    · exact hv
    · exact h.2 p hp

/-- A filter keeps the canonical form. -/
theorem twf_filter (d : Nat → α) (f : Nat × α → Bool) (m : List (Nat × α)) (h : twf d m = true) : twf d (m.filter f) = true := by
  rw [twf_iff] at h ⊢
  exact ⟨h.1.filter _, fun p hp => h.2 p (List.mem_filter.mp hp).1⟩

/-- Dropping a key range keeps the canonical form. -/
theorem twf_tclear (d : Nat → α) (lo hi : Nat) (m : List (Nat × α)) (h : twf d m = true) : twf d (tclear lo hi m) = true :=
  twf_filter d _ m h

theorem twf_tsets (d : Nat → α) (ws m : List (Nat × α)) (h : twf d m = true) : twf d (tsets d m ws) = true := by
  induction ws generalizing m with
  | nil => exact h
  | cons p t ih => exact ih _ (twf_tset d m p.1 p.2 h)

/-- Equal contents are equal data. -/
theorem twf_ext (d : Nat → α) (m n : List (Nat × α)) (hm : twf d m = true) (hn : twf d n = true)
    (h : ∀ k, tget d m k = tget d n k) : m = n := by
  rw [twf_iff] at hm hn
  have mem : ∀ (l : List (Nat × α)), l.Pairwise (fun p q => p.1 < q.1) → ∀ k v, (k, v) ∈ l → tget d l k = v := by
    intro l
    induction l with
    | nil => simp
    | cons p t ih =>
      obtain ⟨j, w⟩ := p
      intro hp k v hm
      obtain ⟨h1, h2⟩ := List.pairwise_cons.mp hp
      rcases List.mem_cons.mp hm with he | hm
      · cases he; simp [tget_cons]
      · have : j < k := h1 _ hm
        rw [tget_cons, if_neg (by omega)]; exact ih h2 k v hm
  have get : ∀ (l : List (Nat × α)) k, tget d l k ≠ d k → (k, tget d l k) ∈ l := by
    intro l k
    induction l with
    | nil => simp
    | cons p t ih =>
      obtain ⟨j, w⟩ := p
      simp only [tget_cons]
      split
      · rename_i he; subst he; simp
      · intro hne; exact List.mem_cons_of_mem _ (ih hne)
  have sub : ∀ (a b : List (Nat × α)), a.Pairwise (fun p q => p.1 < q.1) → (∀ p ∈ a, p.2 ≠ d p.1) →
      (∀ k, tget d a k = tget d b k) → ∀ p ∈ a, p ∈ b := by
    intro a b ha hd he p hp
    obtain ⟨k, v⟩ := p
    have h1 := mem a ha k v hp
    have h2 : v ≠ d k := hd _ hp
    have h3 := get b k (by rw [← he, h1]; exact h2)
    rwa [← he, h1] at h3
  refine List.Perm.eq_of_pairwise (le := fun p q => p.1 < q.1) (by intro a b _ _ h1 h2; omega) hm.1 hn.1 ?_
  have nd : ∀ (l : List (Nat × α)), l.Pairwise (fun p q => p.1 < q.1) → l.Nodup :=
    fun l hl => hl.imp (fun {a b} hlt he => by subst he; exact Nat.lt_irrefl _ hlt)
  rw [List.perm_ext_iff_of_nodup (nd m hm.1) (nd n hn.1)]
  exact fun p => ⟨sub m n hm.1 hm.2 h p, sub n m hn.1 hn.2 (fun k => (h k).symm) p⟩

end

/-! ## Bytes of memory -/

@[simp] theorem mget_nil (a : Nat) : mget [] a = 0 := rfl

theorem mget_mset (m : List (Nat × Byte)) (k : Nat) (b : Byte) (a : Nat) : mget (mset m k b) a = if a = k then b else mget m a :=
  tget_tset zeroByte m k b a

/-- A read after a write of bytes: the byte written within the range, what was there outside it. -/
theorem mget_msets (m : List (Nat × Byte)) (k : Nat) (bs : List Byte) (a : Nat) :
    mget (msets m k bs) a = if k ≤ a ∧ a < k + bs.length then bs.getD (a - k) 0 else mget m a := by
  induction bs generalizing m k with
  | nil =>
    have : ¬(k ≤ a ∧ a < k + ([] : List Byte).length) := by simp
    rw [if_neg this]; rfl
  | cons b t ih =>
    simp only [msets, ih, mget_mset, List.length_cons]
    by_cases h : a = k
    · subst h; rw [if_neg (by omega), if_pos rfl, if_pos (by omega)]; simp
    · by_cases h2 : k + 1 ≤ a ∧ a < k + 1 + t.length
      · have : a - k = (a - (k + 1)) + 1 := by omega
        rw [if_pos h2, if_pos (by omega), this]; simp
      · rw [if_neg h2, if_neg h, if_neg (by omega)]

/-- A byte outside the range written keeps its value. -/
theorem mget_msets_out (m : List (Nat × Byte)) (k : Nat) (bs : List Byte) {a : Nat} (h : a < k ∨ k + bs.length ≤ a) :
    mget (msets m k bs) a = mget m a := by rw [mget_msets, if_neg (by omega)]

/-- What was written is read. -/
theorem mgets_msets (m : List (Nat × Byte)) (k : Nat) (bs : List Byte) : mgets (msets m k bs) k bs.length = bs := by
  apply List.ext_getElem
  · simp [mgets]
  · intro i h1 h2
    simp only [mgets, List.getElem_map, List.getElem_range, mget_msets]
    rw [if_pos ⟨by omega, by omega⟩, Nat.add_sub_cancel_left]
    simp [List.getD_eq_getElem?_getD, h2]

/-- A write of bytes keeps the canonical form. -/
theorem twf_msets (m : List (Nat × Byte)) (k : Nat) (bs : List Byte) (h : twf zeroByte m = true) :
    twf zeroByte (msets m k bs) = true := by
  induction bs generalizing m k with
  | nil => exact h
  | cons b t ih => exact ih _ _ (twf_tset zeroByte m k b h)

@[simp] theorem mgets_length (m : List (Nat × Byte)) (a n : Nat) : (mgets m a n).length = n := by simp [mgets]

/-! ## Little-endian numbers -/

@[simp] theorem leBytes_length (n v : Nat) : (leBytes n v).length = n := by
  induction n generalizing v with
  | zero => rfl
  | succ n ih => simp [leBytes, ih]

theorem leNat_lt (bs : List Byte) : leNat bs < 256 ^ bs.length := by
  induction bs with
  | nil => simp [leNat]
  | cons b t ih =>
    have := b.isLt
    simp only [leNat, List.length_cons, Nat.pow_succ]; omega

/-- The bytes of a number spell it, modulo their width. -/
theorem leNat_leBytes (n v : Nat) : leNat (leBytes n v) = v % 256 ^ n := by
  induction n generalizing v with
  | zero => simp [leNat, leBytes, Nat.mod_one]
  | succ n ih =>
    simp only [leNat, leBytes, ih, BitVec.toNat_ofNat]
    rw [show (256 : Nat) ^ (n + 1) = 2 ^ 8 * 256 ^ n by rw [Nat.pow_succ, Nat.mul_comm]; rfl, Nat.mod_mul]; rfl

/-- A number's bytes are the bytes that spell it. -/
theorem leBytes_leNat (bs : List Byte) : leBytes bs.length (leNat bs) = bs := by
  induction bs with
  | nil => rfl
  | cons b t ih =>
    have := b.isLt
    simp only [List.length_cons, leBytes, leNat]
    rw [show (b.toNat + 256 * leNat t) / 256 = leNat t by omega, ih]
    congr 1
    apply BitVec.eq_of_toNat_eq; simp only [BitVec.toNat_ofNat]; omega

end Sys2Proof.Machine
end

