-- ==== Sys2Proof/Laws/Ops.lean ====
section
/-! SUPPORT. What the named operations over registers and tiles do: what a read gives after each. -/

namespace Sys2Proof.Machine

/-! ## Registers -/

/-- A register after a write of a register. -/
theorem State.reg_setReg (s : State) (a : Nat) (v : W64) (b : Nat) : (s.setReg a v).reg b = if b = a then v else s.reg b :=
  tget_tset _ _ _ _ _

@[simp] theorem State.reg_setReg_same (s : State) (a : Nat) (v : W64) : (s.setReg a v).reg a = v := by simp [State.reg_setReg]

theorem State.reg_setReg_ne (s : State) {a b : Nat} (v : W64) (h : b ≠ a) : (s.setReg a v).reg b = s.reg b := by
  simp [State.reg_setReg, h]

/-- A register other than the field's own after a write of a field. -/
theorem State.reg_wr_ne (s : State) (f : Fld) (v : Nat) {b : Nat} (h : b ≠ f.addr) : (s.wr f v).reg b = s.reg b :=
  State.reg_setReg_ne s _ h

@[simp] theorem State.reg_wr_same (s : State) (f : Fld) (v : Nat) :
    (s.wr f v).reg f.addr = BitVec.ofNat 64 (bfSet (s.reg f.addr).toNat f.lo f.w v) := by simp [State.wr]

/-- A field reads back what was written, modulo its width. -/
theorem State.rd_wr_same (s : State) (f : Fld) (v : Nat) (h : f.lo + f.w ≤ 64) : (s.wr f v).rd f = v % 2 ^ f.w := by
  simp only [State.rd, State.reg_wr_same, BitVec.toNat_ofNat]
  rw [bf_mod _ _ _ _ h, bf_bfSet]

/-- A field of another register keeps its value. -/
theorem State.rd_wr_addr (s : State) (f g : Fld) (v : Nat) (h : g.addr ≠ f.addr) : (s.wr f v).rd g = s.rd g := by
  simp only [State.rd, State.reg_wr_ne s f v h]

/-- A field apart from the one written keeps its value. -/
theorem State.rd_wr_apart (s : State) (f g : Fld) (v : Nat) (hg : g.lo + g.w ≤ 64) (h : f.lo + f.w ≤ g.lo ∨ g.lo + g.w ≤ f.lo) :
    (s.wr f v).rd g = s.rd g := by
  by_cases ha : g.addr = f.addr
  · simp only [State.rd, ha, State.reg_wr_same, BitVec.toNat_ofNat]
    rw [bf_mod _ _ _ _ hg, bf_bfSet_ne _ _ _ _ _ _ h]
  · exact State.rd_wr_addr s f g v ha

/-- Several field writes touch only their registers. -/
theorem State.wrs_only (s : State) (ws : List (Fld × Nat)) : onlyRegs s (s.wrs ws) (ws.map fun p => p.1.addr) := by
  induction ws generalizing s with
  | nil => exact ⟨rfl, fun _ _ => rfl⟩
  | cons p t ih =>
    obtain ⟨h1, h2⟩ := ih (s.wr p.1 p.2)
    refine ⟨?_, fun a ha => ?_⟩
    · show (s.wr p.1 p.2).wrs t = _; rw [h1]; rfl
    · simp only [List.map_cons, List.mem_cons, not_or] at ha
      exact (h2 a ha.2).trans (State.reg_wr_ne s p.1 p.2 ha.1)

/-- A register after a range of registers has been reset. -/
theorem State.reg_resetRegs (s : State) (lo hi a : Nat) :
    (s.resetRegs lo hi).reg a = if lo ≤ a ∧ a ≤ hi then regReset s.variant a else s.reg a := tget_tclear _ _ _ _ _

/-! ## Tiles -/

/-- A tile after a change of a tile. -/
theorem State.tile_modTile (s : State) (t : Nat) (f : TileSt → TileSt) (k : Nat) :
    (s.modTile t f).tile k = if k = t then f (s.tile t) else s.tile k := tget_tset _ _ _ _ _

@[simp] theorem State.tile_modTile_same (s : State) (t : Nat) (f : TileSt → TileSt) : (s.modTile t f).tile t = f (s.tile t) := by
  simp [State.tile_modTile]

theorem State.tile_modTile_ne (s : State) (t : Nat) (f : TileSt → TileSt) {k : Nat} (h : k ≠ t) :
    (s.modTile t f).tile k = s.tile k := by simp [State.tile_modTile, h]

/-- A change of a tile touches nothing else. -/
theorem State.modTile_only (s : State) (t : Nat) (f : TileSt → TileSt) : onlyTile s (s.modTile t f) t :=
  ⟨rfl, fun _ h => State.tile_modTile_ne s t f h⟩

/-- A scalar register after a write of a scalar register: s0 discards it. -/
theorem TileSt.sreg_setSreg (x : TileSt) (n : Nat) (v : W32) (m : Nat) :
    (x.setSreg n v).sreg m = if m = n ∧ n ≠ 0 then v else x.sreg m := by
  simp only [TileSt.setSreg, TileSt.sreg]
  by_cases h : n = 0 <;> by_cases h1 : m = 0 <;> by_cases h2 : m = n <;> simp_all [tget_tset]

/-- Where a slot has its turn, `issue` executes it in the state of its turn. -/
theorem State.issue_of_slotTurn (s : State) (t k : Nat) (errs : List SpdErr) (is : Bundle → Bool)
    (act : Bundle → Option (List W64) → Option (List W64) → State → State) {u : State} {sq hd : Option (List W64)}
    (h : s.slotTurn t k errs is = some (u, sq, hd)) :
    s.issue t k errs is act = (act (s.bundle t) sq hd u).slotDone t k (s.bundle t) := by
  simp only [State.slotTurn] at h
  split at h
  · rename_i hk
    split at h
    · rename_i hd0
      cases h
      simp only [State.issue, hd0, hk, and_self, if_true, ne_eq, not_false_eq_true]
    · rename_i hd0
      split at h
      · cases h
      · rename_i hc
        split at h
        · rename_i s1 h1 h2
          split at h
          · rename_i s2 sq' hd' h3
            cases h
            simp only [State.issue, hd0, hk, hc, h1, h3, and_self, or_true, if_true, if_false, Bool.false_eq_true]
          · cases h
        · cases h
  · cases h

theorem findIdx_none_of_clean (bs : List PB) (h : anyPois bs = false) : bs.findIdx? (·.p) = none := by
  simp only [anyPois, List.any_eq_false, Bool.not_eq_true] at h
  rw [List.findIdx?_eq_none_iff]; intro x hx; exact h x hx

/-- Where a descriptor has its turn, `beginDesc` opens it and makes its requests. -/
theorem State.beginDesc_of_descTurn (s : State) (t n : Nat) (ops : List Nat) (errs : List SpdErr)
    (act : State → Chain → List W64 → Nat → Nat → State) {u : State} {c : Chain} {d : List W64} {tgt : Nat}
    (h : s.descTurn t n ops errs = some (u, c, d, tgt)) :
    s.beginDesc t n ops errs act = (act u c d c.next tgt).finishDesc t n c.next errs := by
  simp only [State.descTurn] at h
  split at h
  · cases h
  · rename_i c' hc
    split at h
    · cases h
    · rename_i h1
      split at h
      · cases h
      · rename_i h2
        split at h
        · cases h
        · rename_i h3
          simp only [Bool.or_eq_true, not_or, Bool.not_eq_true, Bool.not_eq_true'] at h3
          obtain ⟨⟨⟨hp, hb⟩, hr⟩, he⟩ := h3
          have hr := Option.isNone_iff_eq_none.mp (by simpa using hr : (State.nearRange _ t _).isNone = true)
          simp only [Bool.not_eq_false] at he
          split at h
          · rename_i tgt' ht
            cases h
            simp only [State.beginDesc, hc, h1, if_false, h2, findIdx_none_of_clean _ hp, hb, hr, he, ht, Bool.false_eq_true,
              Bool.not_true]
          · cases h

end Sys2Proof.Machine
end

