-- ==== Sys2Proof/Laws/Spd.lean ====
section
/-! SUPPORT. What the scratchpad operations do to the bytes that reads return: a read changes none, a write changes exactly the bytes
it stores, whatever passes through the gather buffer. -/

namespace Sys2Proof.Machine

/-- The byte that a read of a scratchpad returns: the gather buffer's where it holds one, else the bank's. -/
def TileSt.byteAt (x : TileSt) (k : Nat) : Byte :=
  match x.gather.find? (fun g => decide (g.word = k / 8)) with
  | some g => if g.mask.getLsbD (k % 8) then (leBytes 8 g.bytes.toNat).getD (k % 8) 0 else mget x.mem k
  | none => mget x.mem k

/-! ## Bookkeeping: what does not touch bytes -/

theorem State.tile_bump (s : State) (ev : Nat) (u : EvUnit) (n k : Nat) : (s.bump ev u n).tile k = s.tile k := rfl
theorem State.tile_setReg (s : State) (a : Nat) (v : W64) (k : Nat) : (s.setReg a v).tile k = s.tile k := rfl
theorem State.tile_wr (s : State) (f : Fld) (v k : Nat) : (s.wr f v).tile k = s.tile k := rfl
theorem State.tile_satAdd (s : State) (f : Fld) (v k : Nat) : (s.satAdd f v).tile k = s.tile k := rfl
theorem State.tile_wrs (s : State) (ws : List (Fld × Nat)) (k : Nat) : (s.wrs ws).tile k = s.tile k := by
  rw [(State.wrs_only s ws).1]; rfl
theorem State.tile_record (s : State) (v m : Fld) (ws : List (Fld × Nat)) (k : Nat) : (s.record v m ws).tile k = s.tile k := by
  simp only [State.record]; split <;> simp [State.tile_wrs, State.tile_wr]

theorem State.tile_spdCeCount (s : State) (t k : Nat) : (s.spdCeCount t).tile k = s.tile k := rfl
theorem State.tile_freshRead (s : State) (t w : Nat) (errs : List SpdErr) (k : Nat) : (s.freshRead t w errs).tile k = s.tile k := by
  simp only [State.freshRead]; split <;> rfl

theorem State.tile_spdCe (s : State) (t w k : Nat) :
    (s.spdCe t w).tile k = if k = t then (if (s.tile t).ceWb.contains w then s.tile t else { s.tile t with ceWb := (s.tile t).ceWb ++ [w] })
      else s.tile k := by
  simp only [State.spdCe, State.tile_modTile, State.tile_spdCeCount]
  rfl

theorem State.byteAt_spdCe (s : State) (t w k j : Nat) : ((s.spdCe t w).tile k).byteAt j = (s.tile k).byteAt j := by
  rw [State.tile_spdCe]; split
  · rename_i h; subst h; split <;> rfl
  · rfl

theorem State.byteAt_spdUe (s : State) (t w src k j : Nat) : ((s.spdUe t w src).tile k).byteAt j = (s.tile k).byteAt j := by
  simp only [State.spdUe, State.tile_modTile]
  split
  · rename_i h; subst h; rw [State.tile_record]; rfl
  · rw [State.tile_record]; rfl

theorem State.byteAt_spdDecode (s : State) (t w src : Nat) (errs : List SpdErr) (k j : Nat) :
    ((s.spdDecode t w src errs).tile k).byteAt j = (s.tile k).byteAt j := by
  simp only [State.spdDecode]
  split
  · rw [State.tile_freshRead]
  · split
    · rw [State.byteAt_spdUe, State.tile_freshRead]
    · split
      · rw [State.byteAt_spdCe, State.tile_freshRead]
      · rw [State.tile_freshRead]

theorem State.gather_spdDecode (s : State) (t w src : Nat) (errs : List SpdErr) (k : Nat) :
    ((s.spdDecode t w src errs).tile k).gather = (s.tile k).gather := by
  simp only [State.spdDecode]
  split
  · rw [State.tile_freshRead]
  · split
    · simp only [State.spdUe, State.tile_modTile]
      split
      · rename_i h; subst h; simp only [State.tile_record, State.tile_bump, State.tile_freshRead]
      · rw [State.tile_record, State.tile_bump, State.tile_freshRead]
    · split
      · rw [State.tile_spdCe]; split
        · rename_i h; subst h; split <;> simp only [State.tile_freshRead]
        · rw [State.tile_freshRead]
      · rw [State.tile_freshRead]

theorem State.mem_spdDecode (s : State) (t w src : Nat) (errs : List SpdErr) (k : Nat) :
    ((s.spdDecode t w src errs).tile k).mem = (s.tile k).mem := by
  simp only [State.spdDecode]
  split
  · rw [State.tile_freshRead]
  · split
    · simp only [State.spdUe, State.tile_modTile]
      split
      · rename_i h; subst h; simp only [State.tile_record, State.tile_bump, State.tile_freshRead]
      · rw [State.tile_record, State.tile_bump, State.tile_freshRead]
    · split
      · rw [State.tile_spdCe]; split
        · rename_i h; subst h; split <;> simp only [State.tile_freshRead]
        · rw [State.tile_freshRead]
      · rw [State.tile_freshRead]

/-! ## Merging bytes -/

@[simp] theorem mergeBytes_length (m : BitVec 8) (a b : List Byte) : (mergeBytes m a b).length = 8 := by simp [mergeBytes]

theorem mergeBytes_get (m : BitVec 8) (a b : List Byte) {i : Nat} (h : i < 8) :
    (mergeBytes m a b).getD i 0 = if m.getLsbD i then a.getD i 0 else b.getD i 0 := by
  simp [mergeBytes, List.getD_eq_getElem?_getD, h]

theorem wordBytes_get (x : TileSt) (w : Nat) {i : Nat} (h : i < 8) : (x.wordBytes w).getD i 0 = mget x.mem (8 * w + i) := by
  simp [TileSt.wordBytes, mgets, List.getD_eq_getElem?_getD, h]

/-- A list of 8 bytes survives the passage through a 64-bit word. -/
theorem leBytes_pack (bs : List Byte) (h : bs.length = 8) : leBytes 8 (BitVec.ofNat 64 (leNat bs)).toNat = bs := by
  have hl : leNat bs < 2 ^ 64 := by have := leNat_lt bs; rw [h] at this; omega
  rw [BitVec.toNat_ofNat, Nat.mod_eq_of_lt hl, ← h, leBytes_leNat]

/-! ## The gather buffer -/

/-- A word stored whole: its bytes are the ones stored, every other byte is what it was. -/
theorem TileSt.byteAt_putWord (x : TileSt) (w : Nat) (bs : List Byte) (p : Bool) (h : bs.length = 8) (k : Nat) :
    ({ x.putWord w bs p with gather := x.gather.filter fun g => decide (g.word ≠ w) } : TileSt).byteAt k
      = if k / 8 = w then bs.getD (k % 8) 0 else x.byteAt k := by
  simp only [TileSt.byteAt, TileSt.putWord]
  by_cases hw : k / 8 = w
  · have : (x.gather.filter fun g => decide (g.word ≠ w)).find? (fun g => decide (g.word = k / 8)) = none := by
      rw [List.find?_eq_none]; intro g hg; have := (List.mem_filter.mp hg).2; simp_all
    rw [this, if_pos hw, mget_msets, if_pos (by omega), show k - 8 * w = k % 8 by omega]
  · have : (x.gather.filter fun g => decide (g.word ≠ w)).find? (fun g => decide (g.word = k / 8))
        = x.gather.find? (fun g => decide (g.word = k / 8)) := by
      rw [List.find?_filter]; congr 1; funext g
      by_cases hg : g.word = k / 8 <;> simp [hg, hw]
    rw [this, if_neg hw, mget_msets_out _ _ _ (by omega)]

/-- A gather entry written to its bank: its own bytes are those it held, over the bank's; every other byte is what it was. -/
theorem State.byteAt_gatherPut (s : State) (t : Nat) (g : Gather) (errs : List SpdErr) (j k : Nat) :
    ((s.gatherPut t g errs).tile j).byteAt k =
      if j = t ∧ k / 8 = g.word then
        (if g.mask.getLsbD (k % 8) then (leBytes 8 g.bytes.toNat).getD (k % 8) 0 else mget (s.tile t).mem k)
      else (s.tile j).byteAt k := by
  simp only [State.gatherPut]
  generalize hw : (decide (g.mask = 0xFF) || (s.tile t).fresh g.word) = whole
  have key : ∀ v : State, (∀ i, (v.tile i).gather = (s.tile i).gather) → (∀ i, (v.tile i).mem = (s.tile i).mem) →
      ∀ p, ((v.modTile t fun x => { x.putWord g.word (mergeBytes g.mask (leBytes 8 g.bytes.toNat) (x.wordBytes g.word)) p with
        gather := x.gather.filter fun h => decide (h.word ≠ g.word) }).tile j).byteAt k =
      if j = t ∧ k / 8 = g.word then
        (if g.mask.getLsbD (k % 8) then (leBytes 8 g.bytes.toNat).getD (k % 8) 0 else mget (s.tile t).mem k)
      else (s.tile j).byteAt k := by
    intro v hg hm p
    rw [State.tile_modTile]
    by_cases hj : j = t
    · subst hj
      rw [if_pos rfl, TileSt.byteAt_putWord _ _ _ _ (mergeBytes_length ..)]
      by_cases hk : k / 8 = g.word
      · rw [if_pos hk, if_pos ⟨rfl, hk⟩, mergeBytes_get _ _ _ (Nat.mod_lt _ (by omega)),
          wordBytes_get _ _ (Nat.mod_lt _ (by omega)), hm, ← hk, Nat.div_add_mod]
      · rw [if_neg hk, if_neg (by simp [hk])]
        simp only [TileSt.byteAt, hg, hm]
    · rw [if_neg hj, if_neg (by simp [hj])]
      simp only [TileSt.byteAt, hg, hm]
  cases whole
  · exact key _ (fun i => by simp [State.tile_bump, State.gather_spdDecode]) (fun i => by simp [State.tile_bump, State.mem_spdDecode]) _
  · exact key _ (fun i => rfl) (fun i => rfl) _

/-- Writing the first entry of a word changes no byte. -/
theorem State.byteAt_gatherPut_found (s : State) (t : Nat) (g : Gather) (errs : List SpdErr) (j k : Nat)
    (h : (s.tile t).gather.find? (fun q => decide (q.word = g.word)) = some g) :
    ((s.gatherPut t g errs).tile j).byteAt k = (s.tile j).byteAt k := by
  rw [State.byteAt_gatherPut]
  split
  · rename_i hk; obtain ⟨rfl, hk⟩ := hk; simp only [TileSt.byteAt, hk, h]
  · rfl

theorem State.byteAt_gatherFlush (s : State) (t w : Nat) (errs : List SpdErr) (j k : Nat) :
    ((s.gatherFlush t w errs).tile j).byteAt k = (s.tile j).byteAt k := by
  simp only [State.gatherFlush]
  split
  · rename_i g hg
    have hw : g.word = w := by simpa using List.find?_some hg
    exact State.byteAt_gatherPut_found _ _ _ _ _ _ (by rw [hw]; exact hg)
  · rfl

/-- After a word's gather entry has been flushed, the buffer holds none for it, and its other entries as before. -/
theorem State.gather_gatherPut (s : State) (t : Nat) (g : Gather) (errs : List SpdErr) (j : Nat) :
    ((s.gatherPut t g errs).tile j).gather =
      if j = t then (s.tile t).gather.filter (fun h => decide (h.word ≠ g.word)) else (s.tile j).gather := by
  simp only [State.gatherPut]
  generalize (decide (g.mask = 0xFF) || (s.tile t).fresh g.word) = whole
  rw [State.tile_modTile]
  cases whole <;> split <;> simp [State.tile_bump, State.gather_spdDecode]

theorem State.find_gatherFlush (s : State) (t w : Nat) (errs : List SpdErr) :
    ((s.gatherFlush t w errs).tile t).gather.find? (fun g => decide (g.word = w)) = none := by
  simp only [State.gatherFlush]
  split
  · rename_i g hg
    have hw : g.word = w := by simpa using List.find?_some hg
    rw [State.gather_gatherPut, if_pos rfl, List.find?_eq_none]
    intro h hm; have := (List.mem_filter.mp hm).2; simp_all
  · rename_i hn; exact hn

theorem State.find_gatherFlush_none (s : State) (t w v : Nat) (errs : List SpdErr)
    (h : (s.tile t).gather.find? (fun g => decide (g.word = v)) = none) :
    ((s.gatherFlush t w errs).tile t).gather.find? (fun g => decide (g.word = v)) = none := by
  simp only [State.gatherFlush]
  split
  · rw [State.gather_gatherPut, if_pos rfl, List.find?_eq_none]
    intro g hm; exact (List.find?_eq_none.mp h) g (List.mem_filter.mp hm).1
  · exact h

/-- A narrow write: the bytes of its mask are the new ones, every other byte is what it was. -/
theorem State.byteAt_gatherAdd (s : State) (t w : Nat) (mask : BitVec 8) (bytes : List Byte) (p : Bool) (owner serial : Nat)
    (errs : List SpdErr) (j k : Nat) :
    ((s.gatherAdd t w mask bytes p owner serial errs).tile j).byteAt k =
      if j = t ∧ k / 8 = w ∧ mask.getLsbD (k % 8) = true then bytes.getD (k % 8) 0 else (s.tile j).byteAt k := by
  have h8 : k % 8 < 8 := Nat.mod_lt _ (by omega)
  simp only [State.gatherAdd]
  split
  · rename_i g hg
    have hw : g.word = w := by simpa using List.find?_some hg
    have hb : leBytes 8 (BitVec.ofNat 64 (leNat (mergeBytes mask bytes (leBytes 8 g.bytes.toNat)))).toNat
        = mergeBytes mask bytes (leBytes 8 g.bytes.toNat) := leBytes_pack _ (mergeBytes_length ..)
    split
    · rw [State.byteAt_gatherPut]
      simp only [hb, mergeBytes_get _ _ _ h8, BitVec.getLsbD_or, hw]
      by_cases hj : j = t ∧ k / 8 = w
      · obtain ⟨rfl, hk⟩ := hj
        simp only [TileSt.byteAt, hk, hg, and_self, if_true, true_and]
        by_cases h1 : g.mask.getLsbD (k % 8) <;> by_cases h2 : mask.getLsbD (k % 8) <;> simp [h1, h2]
      · rw [if_neg hj, if_neg (by tauto)]
    · rw [State.tile_modTile]
      by_cases hj : j = t
      · subst hj
        rw [if_pos rfl]
        have hf : ∀ g' : Gather, g'.word = w → ((s.tile j).gather.map fun h => if h.word = w then g' else h).find?
            (fun q => decide (q.word = k / 8)) = if k / 8 = w then some g' else (s.tile j).gather.find? (fun q => decide (q.word = k / 8)) := by
          intro g' hg'
          clear hb
          revert hg
          induction (s.tile j).gather with
          | nil => simp
          | cons a l ih =>
            intro hg
            simp only [List.map_cons, List.find?_cons] at hg ⊢
            by_cases ha : a.word = w
            · by_cases hk : k / 8 = w
              · simp [ha, hk, hg']
              · have : ¬ w = k / 8 := fun h => hk h.symm
                simp only [ha, if_true, hg', this, decide_false, hk, if_false]
                clear ih hg
                induction l with
                | nil => simp
                | cons b l ih =>
                  simp only [List.map_cons, List.find?_cons]
                  by_cases hb : b.word = w
                  · simp only [hb, if_true, hg', this, decide_false]; exact ih
                  · simp only [hb, if_false]; split <;> [rfl; exact ih]
            · simp only [ha, decide_false] at hg
              have ih := ih hg
              by_cases hk : a.word = k / 8
              · have : ¬ k / 8 = w := fun h => ha (hk.trans h)
                simp [hk, this]
              · simp only [ha, if_false, hk, decide_false]; exact ih
        simp only [TileSt.byteAt]
        rw [hf _ (by exact hw)]
        by_cases hk : k / 8 = w
        · simp only [hk, if_true, hb, BitVec.getLsbD_or, mergeBytes_get _ _ _ h8, hg, true_and]
          by_cases h1 : g.mask.getLsbD (k % 8) <;> by_cases h2 : mask.getLsbD (k % 8) <;> simp [h1, h2]
        · simp only [hk, if_false, false_and, and_false]
      · rw [if_neg hj, if_neg (by tauto)]
  · rename_i hn
    have hb : leBytes 8 (BitVec.ofNat 64 (leNat (mergeBytes mask bytes []))).toNat = mergeBytes mask bytes [] :=
      leBytes_pack _ (mergeBytes_length ..)
    have key : ∀ v : State, (∀ i, ((v.tile i).byteAt k) = (s.tile i).byteAt k) →
        ((v.tile t).gather.find? (fun q => decide (q.word = w)) = none) →
        ((v.modTile t fun x => { x with gather := x.gather ++
          [⟨w, mask, BitVec.ofNat 64 (leNat (mergeBytes mask bytes [])), p, owner, serial⟩] }).tile j).byteAt k =
        if j = t ∧ k / 8 = w ∧ mask.getLsbD (k % 8) = true then bytes.getD (k % 8) 0 else (s.tile j).byteAt k := by
      intro v hv hf
      rw [State.tile_modTile]
      by_cases hj : j = t
      · subst hj
        rw [if_pos rfl, ← hv]
        simp only [TileSt.byteAt, List.find?_append]
        by_cases hk : k / 8 = w
        · simp only [hk, hf, true_and, List.find?_cons, decide_true, Option.or, hb, mergeBytes_get _ _ _ h8]
          by_cases h2 : mask.getLsbD (k % 8) <;> simp [h2]
        · have hk' : ¬ w = k / 8 := fun h => hk h.symm
          simp only [hk, false_and, and_false, if_false, List.find?_cons, hk', decide_false, List.find?_nil, Option.or_none]
      · rw [if_neg hj, if_neg (by tauto), hv]
    split
    · rename_i g a b c r hl
      refine key _ (fun i => ?_) ?_
      · rw [State.tile_bump, State.byteAt_gatherPut_found]; rw [hl]; simp
      · rw [State.tile_bump, State.gather_gatherPut, if_pos rfl, List.find?_eq_none]
        intro q hm; exact (List.find?_eq_none.mp hn) q (List.mem_filter.mp hm).1
    · exact key _ (fun _ => rfl) hn

/-! ## Reads and writes of bytes -/

/-- A fold over words that keeps a property keeps it. -/
theorem foldl_keep {β γ : Type} (f : γ → β → γ) (P : γ → Prop) (l : List β) (s : γ) (h : P s) (hf : ∀ u x, P u → P (f u x)) :
    P (l.foldl f s) := by
  induction l generalizing s with
  | nil => exact h
  | cons a l ih => exact ih _ (hf _ _ h)

/-- A read changes no byte. -/
theorem State.byteAt_spdRead (s : State) (t a n src : Nat) (errs : List SpdErr) (j k : Nat) :
    ((s.spdRead t a n src errs).1.tile j).byteAt k = (s.tile j).byteAt k := by
  simp only [State.spdRead]
  exact foldl_keep _ (fun u : State => (u.tile j).byteAt k = (s.tile j).byteAt k) _ _ rfl fun u w h => by
    simp only [State.readWord]; rw [State.byteAt_spdDecode, State.byteAt_gatherFlush, h]

theorem mem_wordsOf (a n w : Nat) : w ∈ wordsOf a n ↔ n ≠ 0 ∧ a / 8 ≤ w ∧ w ≤ (a + n - 1) / 8 := by
  simp only [wordsOf]
  split
  · simp_all
  · simp only [List.mem_map, List.mem_range]
    constructor
    · rintro ⟨i, h1, rfl⟩; omega
    · rintro ⟨h1, h2, h3⟩; exact ⟨w - a / 8, by omega, by omega⟩

/-- The bytes that a read returns. -/
theorem State.spdRead_get (s : State) (t a n src : Nat) (errs : List SpdErr) (i : Nat) (h : i < n) :
    ((s.spdRead t a n src errs).2.getD i ⟨0, false⟩).b = (s.tile t).byteAt (a + i) := by
  have hb := State.byteAt_spdRead s t a n src errs t (a + i)
  have hf : ((s.spdRead t a n src errs).1.tile t).gather.find? (fun g => decide (g.word = (a + i) / 8)) = none := by
    have hm : (a + i) / 8 ∈ wordsOf a n := by rw [mem_wordsOf]; omega
    simp only [State.spdRead]
    revert hm
    generalize wordsOf a n = l
    clear hb
    induction l generalizing s with
    | nil => simp
    | cons v l ih =>
      intro hm
      simp only [List.foldl_cons]
      by_cases hv : (a + i) / 8 ∈ l
      · exact ih _ hv
      · have hv : (a + i) / 8 = v := by simpa [hv] using hm
        clear ih hm
        refine foldl_keep (γ := State) _ (fun u : State => (u.tile t).gather.find? (fun g => decide (g.word = (a + i) / 8)) = none) _ _ ?_ ?_
        · simp only [State.readWord]; rw [State.gather_spdDecode, hv]; exact State.find_gatherFlush ..
        · intro u x hu; simp only [State.readWord]; rw [State.gather_spdDecode]; exact State.find_gatherFlush_none _ _ _ _ _ hu
  rw [← hb]
  have hd : ((s.spdRead t a n src errs).2.getD i ⟨0, false⟩).b = mget ((s.spdRead t a n src errs).1.tile t).mem (a + i) := by
    simp [State.spdRead, List.getD_eq_getElem?_getD, h]
  rw [hd]; unfold TileSt.byteAt; simp only [hf]

/-- The byte of the statements is the byte that the gather buffer and the bank hold. -/
theorem State.spdByte_eq (s : State) (t a : Nat) : s.spdByte t a = (s.tile t).byteAt a := by
  have h := State.spdRead_get s t a 1 0 [] 0 (by omega)
  rw [Nat.add_zero] at h
  rw [← h]; unfold State.spdByte
  cases (s.spdRead t a 1 0 []).2 <;> rfl

theorem maskOf (f : Nat → Bool) (i : Nat) (h : i < 8) :
    (BitVec.ofNat 8 (leNat [BitVec.ofNat 8 ((List.range 8).foldl (fun m i => if f i then m + 2 ^ i else m) 0)])).getLsbD i = f i := by
  have hr : List.range 8 = [0, 1, 2, 3, 4, 5, 6, 7] := rfl
  rw [hr]
  simp only [List.foldl_cons, List.foldl_nil, leNat]
  generalize h0 : f 0 = b0; generalize h1 : f 1 = b1; generalize h2 : f 2 = b2; generalize h3 : f 3 = b3
  generalize h4 : f 4 = b4; generalize h5 : f 5 = b5; generalize h6 : f 6 = b6; generalize h7 : f 7 = b7
  have e : f i = [b0, b1, b2, b3, b4, b5, b6, b7].getD i false := by
    subst h0 h1 h2 h3 h4 h5 h6 h7
    rcases (by omega : i = 0 ∨ i = 1 ∨ i = 2 ∨ i = 3 ∨ i = 4 ∨ i = 5 ∨ i = 6 ∨ i = 7) with rfl | rfl | rfl | rfl | rfl | rfl | rfl | rfl <;> rfl
  rw [e]
  clear e h0 h1 h2 h3 h4 h5 h6 h7 hr f
  rcases (by omega : i = 0 ∨ i = 1 ∨ i = 2 ∨ i = 3 ∨ i = 4 ∨ i = 5 ∨ i = 6 ∨ i = 7) with rfl | rfl | rfl | rfl | rfl | rfl | rfl | rfl <;>
    (clear h; revert b0 b1 b2 b3 b4 b5 b6 b7; decide)

/-- One word of a write of bytes. -/
theorem State.byteAt_wordStep (s : State) (t a : Nat) (bs : List PB) (owner serial : Nat) (errs : List SpdErr) (w j k : Nat) :
    (((if (wordPart a bs w).1 = 0xFF then
        s.modTile t fun x => { x.putWord w (wordPart a bs w).2.1 (wordPart a bs w).2.2 with
          gather := x.gather.filter fun g => decide (g.word ≠ w) }
      else s.gatherAdd t w (wordPart a bs w).1 (wordPart a bs w).2.1 (wordPart a bs w).2.2 owner serial errs) : State).tile j).byteAt k =
      if j = t ∧ k / 8 = w ∧ a ≤ k ∧ k < a + bs.length then (bs.getD (k - a) ⟨0, false⟩).b else (s.tile j).byteAt k := by
  have h8 : k % 8 < 8 := Nat.mod_lt _ (by omega)
  have hm : ∀ i, i < 8 → (wordPart a bs w).1.getLsbD i = (decide (a ≤ 8 * w + i) && decide (8 * w + i < a + bs.length)) := fun i hi =>
    maskOf (fun i => decide (a ≤ 8 * w + i) && decide (8 * w + i < a + bs.length)) i hi
  have hb : ∀ i, i < 8 → (wordPart a bs w).2.1.getD i 0 =
      if (decide (a ≤ 8 * w + i) && decide (8 * w + i < a + bs.length)) = true then (bs.getD (8 * w + i - a) ⟨0, false⟩).b else 0 := by
    intro i hi; simp [wordPart, List.getD_eq_getElem?_getD, hi]
  have hl : (wordPart a bs w).2.1.length = 8 := by simp [wordPart]
  split
  · rename_i hf
    rw [State.tile_modTile]
    by_cases hj : j = t
    · subst hj
      rw [if_pos rfl, TileSt.byteAt_putWord _ _ _ _ hl]
      by_cases hk : k / 8 = w
      · have hin := hm (k % 8) h8
        rw [hf] at hin
        have hin : (decide (a ≤ 8 * w + k % 8) && decide (8 * w + k % 8 < a + bs.length)) = true := by
          rw [← hin]; generalize k % 8 = i at h8; revert i; decide
        have he : 8 * w + k % 8 = k := by omega
        rw [if_pos hk, hb _ h8, if_pos hin]
        rw [he] at hin ⊢
        rw [if_pos (by simpa [hk] using hin)]
      · rw [if_neg hk, if_neg (by tauto)]
    · rw [if_neg hj, if_neg (by tauto)]
  · rw [State.byteAt_gatherAdd]
    by_cases hk : j = t ∧ k / 8 = w
    · obtain ⟨rfl, hk⟩ := hk
      have he : 8 * w + k % 8 = k := by omega
      simp only [hk, true_and, hm _ h8, hb _ h8, he]
      by_cases h1 : a ≤ k ∧ k < a + bs.length
      · simp [h1]
      · rw [if_neg (by simpa using h1), if_neg h1]
    · rw [if_neg (by tauto), if_neg (by tauto)]

/-- A write of bytes: exactly the bytes stored change. -/
theorem State.byteAt_spdWrite (s : State) (t a : Nat) (bs : List PB) (owner serial : Nat) (errs : List SpdErr) (j k : Nat) :
    ((s.spdWrite t a bs owner serial errs).tile j).byteAt k =
      if j = t ∧ a ≤ k ∧ k < a + bs.length then (bs.getD (k - a) ⟨0, false⟩).b else (s.tile j).byteAt k := by
  have gen : ∀ (l : List Nat) (s : State), ((l.foldl (fun s w =>
      if (wordPart a bs w).1 = 0xFF then
        s.modTile t fun x => { x.putWord w (wordPart a bs w).2.1 (wordPart a bs w).2.2 with
          gather := x.gather.filter fun g => decide (g.word ≠ w) }
      else s.gatherAdd t w (wordPart a bs w).1 (wordPart a bs w).2.1 (wordPart a bs w).2.2 owner serial errs) s).tile j).byteAt k =
      if j = t ∧ k / 8 ∈ l ∧ a ≤ k ∧ k < a + bs.length then (bs.getD (k - a) ⟨0, false⟩).b else (s.tile j).byteAt k := by
    intro l
    induction l with
    | nil => intro s; simp
    | cons w l ih =>
      intro s
      rw [List.foldl_cons, ih, State.byteAt_wordStep]
      by_cases h1 : j = t ∧ a ≤ k ∧ k < a + bs.length <;> by_cases h2 : k / 8 ∈ l <;> by_cases h3 : k / 8 = w <;> simp_all
  have := gen (wordsOf a bs.length) s
  simp only [State.spdWrite]
  rw [this]
  have hm : (a ≤ k ∧ k < a + bs.length) → k / 8 ∈ wordsOf a bs.length := fun h => by rw [mem_wordsOf]; omega
  by_cases h1 : j = t ∧ a ≤ k ∧ k < a + bs.length
  · rw [if_pos ⟨h1.1, hm h1.2, h1.2⟩, if_pos h1]
  · rw [if_neg (by tauto), if_neg h1]

/-! ## What scratchpad operations leave of a tile -/

/-- Two states of a tile differ at most in its scratchpad: bytes, fresh bits, poison marks, gather buffer and noted errors. -/
def TileSt.sameUnits (x y : TileSt) : Prop :=
  y = { x with mem := y.mem, live := y.live, poison := y.poison, gather := y.gather, ceWb := y.ceWb, ueSeen := y.ueSeen }

theorem TileSt.sameUnits_refl (x : TileSt) : x.sameUnits x := rfl

theorem TileSt.sameUnits_trans {x y z : TileSt} (h : x.sameUnits y) (k : y.sameUnits z) : x.sameUnits z := by
  unfold TileSt.sameUnits at *; rw [k, h]

theorem State.units_modTile (s v : State) (t j : Nat) (f : TileSt → TileSt) (h : ∀ i, (s.tile i).sameUnits (v.tile i))
    (hf : ∀ x : TileSt, x.sameUnits (f x)) : (s.tile j).sameUnits ((v.modTile t f).tile j) := by
  rw [State.tile_modTile]
  split
  · rename_i hj; subst hj; exact TileSt.sameUnits_trans (h _) (hf _)
  · exact h j

theorem State.units_spdDecode (s : State) (t w src : Nat) (errs : List SpdErr) (j : Nat) :
    (s.tile j).sameUnits ((s.spdDecode t w src errs).tile j) := by
  simp only [State.spdDecode]
  split
  · rw [State.tile_freshRead]; rfl
  · split
    · simp only [State.spdUe]
      exact State.units_modTile _ _ _ _ _ (fun i => by rw [State.tile_record, State.tile_bump, State.tile_freshRead]; rfl) fun _ => rfl
    · split
      · simp only [State.tile_spdCe, State.tile_freshRead]
        split
        · rename_i hj; subst hj; split <;> rfl
        · rfl
      · rw [State.tile_freshRead]; rfl

theorem State.units_gatherPut (s : State) (t : Nat) (g : Gather) (errs : List SpdErr) (j : Nat) :
    (s.tile j).sameUnits ((s.gatherPut t g errs).tile j) := by
  simp only [State.gatherPut]
  generalize (decide (g.mask = 0xFF) || (s.tile t).fresh g.word) = whole
  cases whole
  · exact State.units_modTile _ _ _ _ _ (fun i => State.units_spdDecode ..) fun _ => rfl
  · exact State.units_modTile _ _ _ _ _ (fun i => rfl) fun _ => rfl

theorem State.units_gatherFlush (s : State) (t w : Nat) (errs : List SpdErr) (j : Nat) :
    (s.tile j).sameUnits ((s.gatherFlush t w errs).tile j) := by
  simp only [State.gatherFlush]
  split
  · exact State.units_gatherPut ..
  · rfl

/-- A read touches no unit of any tile. -/
theorem State.units_spdRead (s : State) (t a n src : Nat) (errs : List SpdErr) (j : Nat) :
    (s.tile j).sameUnits ((s.spdRead t a n src errs).1.tile j) := by
  simp only [State.spdRead]
  exact foldl_keep _ (fun u : State => (s.tile j).sameUnits (u.tile j)) _ _ rfl fun u w h =>
    TileSt.sameUnits_trans h (TileSt.sameUnits_trans (State.units_gatherFlush ..) (State.units_spdDecode ..))

theorem State.units_gatherAdd (s : State) (t w : Nat) (mask : BitVec 8) (bytes : List Byte) (p : Bool) (owner serial : Nat)
    (errs : List SpdErr) (j : Nat) : (s.tile j).sameUnits ((s.gatherAdd t w mask bytes p owner serial errs).tile j) := by
  simp only [State.gatherAdd]
  split
  · split
    · exact State.units_gatherPut ..
    · exact State.units_modTile _ _ _ _ _ (fun i => rfl) fun _ => rfl
  · split
    · exact State.units_modTile _ _ _ _ _ (fun i => State.units_gatherPut ..) fun _ => rfl
    · exact State.units_modTile _ _ _ _ _ (fun i => rfl) fun _ => rfl

/-- A write touches no unit of any tile. -/
theorem State.units_spdWrite (s : State) (t a : Nat) (bs : List PB) (owner serial : Nat) (errs : List SpdErr) (j : Nat) :
    (s.tile j).sameUnits ((s.spdWrite t a bs owner serial errs).tile j) := by
  simp only [State.spdWrite]
  refine foldl_keep _ (fun u : State => (s.tile j).sameUnits (u.tile j)) _ _ rfl fun u w h => TileSt.sameUnits_trans h ?_
  split
  · exact State.units_modTile _ _ _ _ _ (fun i => rfl) fun _ => rfl
  · exact State.units_gatherAdd ..

end Sys2Proof.Machine
end

