-- ==== Sys2Proof/Laws/State.lean ====
section
/-! SUPPORT. What each update of the state leaves in each field. -/

namespace Sys2Proof.Machine

variable (s : State)

section
variable (a : Nat) (v : W64)

@[simp] theorem State.regs_of_setReg : (s.setReg a v).regs = tset (regReset s.variant) s.regs a v := rfl
@[simp] theorem State.pending_setReg : (s.setReg a v).pending = s.pending := rfl
@[simp] theorem State.variant_setReg : (s.setReg a v).variant = s.variant := rfl
@[simp] theorem State.counters_setReg : (s.setReg a v).counters = s.counters := rfl
@[simp] theorem State.freeCtr_setReg : (s.setReg a v).freeCtr = s.freeCtr := rfl
@[simp] theorem State.tiles_setReg : (s.setReg a v).tiles = s.tiles := rfl
@[simp] theorem State.reqs_setReg : (s.setReg a v).reqs = s.reqs := rfl
@[simp] theorem State.nextReq_setReg : (s.setReg a v).nextReq = s.nextReq := rfl
@[simp] theorem State.job_setReg : (s.setReg a v).job = s.job := rfl
@[simp] theorem State.pass_setReg : (s.setReg a v).pass = s.pass := rfl
@[simp] theorem State.epochCtr_setReg : (s.setReg a v).epochCtr = s.epochCtr := rfl
@[simp] theorem State.commitEpoch_setReg : (s.setReg a v).commitEpoch = s.commitEpoch := rfl
@[simp] theorem State.heldSigs_setReg : (s.setReg a v).heldSigs = s.heldSigs := rfl
@[simp] theorem State.slices_setReg : (s.setReg a v).slices = s.slices := rfl
@[simp] theorem State.hbm_setReg : (s.setReg a v).hbm = s.hbm := rfl
@[simp] theorem State.hbmMark_setReg : (s.setReg a v).hbmMark = s.hbmMark := rfl
@[simp] theorem State.hbmGen_setReg : (s.setReg a v).hbmGen = s.hbmGen := rfl
@[simp] theorem State.splits_setReg : (s.setReg a v).splits = s.splits := rfl
@[simp] theorem State.laneHits_setReg : (s.setReg a v).laneHits = s.laneHits := rfl
@[simp] theorem State.ueHits_setReg : (s.setReg a v).ueHits = s.ueHits := rfl
@[simp] theorem State.selfRef_setReg : (s.setReg a v).selfRef = s.selfRef := rfl
@[simp] theorem State.badPos_setReg : (s.setReg a v).badPos = s.badPos := rfl
@[simp] theorem State.newFails_setReg : (s.setReg a v).newFails = s.newFails := rfl
@[simp] theorem State.bypass_setReg : (s.setReg a v).bypass = s.bypass := rfl
@[simp] theorem State.caps_setReg : (s.setReg a v).caps = s.caps := rfl
@[simp] theorem State.lat_setReg : (s.setReg a v).lat = s.lat := rfl
@[simp] theorem State.credits_setReg : (s.setReg a v).credits = s.credits := rfl
@[simp] theorem State.turns_setReg : (s.setReg a v).turns = s.turns := rfl
@[simp] theorem State.acts_setReg : (s.setReg a v).acts = s.acts := rfl
@[simp] theorem State.links_setReg : (s.setReg a v).links = s.links := rfl
@[simp] theorem State.fab_setReg : (s.setReg a v).fab = s.fab := rfl
@[simp] theorem State.trees_setReg : (s.setReg a v).trees = s.trees := rfl
@[simp] theorem State.snaps_setReg : (s.setReg a v).snaps = s.snaps := rfl
@[simp] theorem State.deck_setReg : (s.setReg a v).deck = s.deck := rfl
@[simp] theorem State.bound_setReg : (s.setReg a v).bound = s.bound := rfl
@[simp] theorem State.boot_setReg : (s.setReg a v).boot = s.boot := rfl
@[simp] theorem State.fw_setReg : (s.setReg a v).fw = s.fw := rfl
@[simp] theorem State.time_setReg : (s.setReg a v).time = s.time := rfl
@[simp] theorem State.therm_setReg : (s.setReg a v).therm = s.therm := rfl
@[simp] theorem State.power_setReg : (s.setReg a v).power = s.power := rfl
@[simp] theorem State.host_setReg : (s.setReg a v).host = s.host := rfl
@[simp] theorem State.keep_setReg : (s.setReg a v).keep = s.keep := rfl
end

section
variable (f : Fld) (v : Nat)

@[simp] theorem State.pending_wr : (s.wr f v).pending = s.pending := rfl
@[simp] theorem State.variant_wr : (s.wr f v).variant = s.variant := rfl
@[simp] theorem State.counters_wr : (s.wr f v).counters = s.counters := rfl
@[simp] theorem State.freeCtr_wr : (s.wr f v).freeCtr = s.freeCtr := rfl
@[simp] theorem State.tiles_wr : (s.wr f v).tiles = s.tiles := rfl
@[simp] theorem State.reqs_wr : (s.wr f v).reqs = s.reqs := rfl
@[simp] theorem State.nextReq_wr : (s.wr f v).nextReq = s.nextReq := rfl
@[simp] theorem State.job_wr : (s.wr f v).job = s.job := rfl
@[simp] theorem State.pass_wr : (s.wr f v).pass = s.pass := rfl
@[simp] theorem State.epochCtr_wr : (s.wr f v).epochCtr = s.epochCtr := rfl
@[simp] theorem State.commitEpoch_wr : (s.wr f v).commitEpoch = s.commitEpoch := rfl
@[simp] theorem State.heldSigs_wr : (s.wr f v).heldSigs = s.heldSigs := rfl
@[simp] theorem State.slices_wr : (s.wr f v).slices = s.slices := rfl
@[simp] theorem State.hbm_wr : (s.wr f v).hbm = s.hbm := rfl
@[simp] theorem State.hbmMark_wr : (s.wr f v).hbmMark = s.hbmMark := rfl
@[simp] theorem State.hbmGen_wr : (s.wr f v).hbmGen = s.hbmGen := rfl
@[simp] theorem State.splits_wr : (s.wr f v).splits = s.splits := rfl
@[simp] theorem State.laneHits_wr : (s.wr f v).laneHits = s.laneHits := rfl
@[simp] theorem State.ueHits_wr : (s.wr f v).ueHits = s.ueHits := rfl
@[simp] theorem State.selfRef_wr : (s.wr f v).selfRef = s.selfRef := rfl
@[simp] theorem State.badPos_wr : (s.wr f v).badPos = s.badPos := rfl
@[simp] theorem State.newFails_wr : (s.wr f v).newFails = s.newFails := rfl
@[simp] theorem State.bypass_wr : (s.wr f v).bypass = s.bypass := rfl
@[simp] theorem State.caps_wr : (s.wr f v).caps = s.caps := rfl
@[simp] theorem State.lat_wr : (s.wr f v).lat = s.lat := rfl
@[simp] theorem State.credits_wr : (s.wr f v).credits = s.credits := rfl
@[simp] theorem State.turns_wr : (s.wr f v).turns = s.turns := rfl
@[simp] theorem State.acts_wr : (s.wr f v).acts = s.acts := rfl
@[simp] theorem State.links_wr : (s.wr f v).links = s.links := rfl
@[simp] theorem State.fab_wr : (s.wr f v).fab = s.fab := rfl
@[simp] theorem State.trees_wr : (s.wr f v).trees = s.trees := rfl
@[simp] theorem State.snaps_wr : (s.wr f v).snaps = s.snaps := rfl
@[simp] theorem State.deck_wr : (s.wr f v).deck = s.deck := rfl
@[simp] theorem State.bound_wr : (s.wr f v).bound = s.bound := rfl
@[simp] theorem State.boot_wr : (s.wr f v).boot = s.boot := rfl
@[simp] theorem State.fw_wr : (s.wr f v).fw = s.fw := rfl
@[simp] theorem State.time_wr : (s.wr f v).time = s.time := rfl
@[simp] theorem State.therm_wr : (s.wr f v).therm = s.therm := rfl
@[simp] theorem State.power_wr : (s.wr f v).power = s.power := rfl
@[simp] theorem State.host_wr : (s.wr f v).host = s.host := rfl
@[simp] theorem State.keep_wr : (s.wr f v).keep = s.keep := rfl
end

section
variable (lo hi : Nat)

@[simp] theorem State.regs_of_resetRegs : (s.resetRegs lo hi).regs = tclear lo hi s.regs := rfl
@[simp] theorem State.pending_resetRegs : (s.resetRegs lo hi).pending = s.pending := rfl
@[simp] theorem State.variant_resetRegs : (s.resetRegs lo hi).variant = s.variant := rfl
@[simp] theorem State.counters_resetRegs : (s.resetRegs lo hi).counters = s.counters := rfl
@[simp] theorem State.freeCtr_resetRegs : (s.resetRegs lo hi).freeCtr = s.freeCtr := rfl
@[simp] theorem State.tiles_resetRegs : (s.resetRegs lo hi).tiles = s.tiles := rfl
@[simp] theorem State.reqs_resetRegs : (s.resetRegs lo hi).reqs = s.reqs := rfl
@[simp] theorem State.nextReq_resetRegs : (s.resetRegs lo hi).nextReq = s.nextReq := rfl
@[simp] theorem State.job_resetRegs : (s.resetRegs lo hi).job = s.job := rfl
@[simp] theorem State.pass_resetRegs : (s.resetRegs lo hi).pass = s.pass := rfl
@[simp] theorem State.epochCtr_resetRegs : (s.resetRegs lo hi).epochCtr = s.epochCtr := rfl
@[simp] theorem State.commitEpoch_resetRegs : (s.resetRegs lo hi).commitEpoch = s.commitEpoch := rfl
@[simp] theorem State.heldSigs_resetRegs : (s.resetRegs lo hi).heldSigs = s.heldSigs := rfl
@[simp] theorem State.slices_resetRegs : (s.resetRegs lo hi).slices = s.slices := rfl
@[simp] theorem State.hbm_resetRegs : (s.resetRegs lo hi).hbm = s.hbm := rfl
@[simp] theorem State.hbmMark_resetRegs : (s.resetRegs lo hi).hbmMark = s.hbmMark := rfl
@[simp] theorem State.hbmGen_resetRegs : (s.resetRegs lo hi).hbmGen = s.hbmGen := rfl
@[simp] theorem State.splits_resetRegs : (s.resetRegs lo hi).splits = s.splits := rfl
@[simp] theorem State.laneHits_resetRegs : (s.resetRegs lo hi).laneHits = s.laneHits := rfl
@[simp] theorem State.ueHits_resetRegs : (s.resetRegs lo hi).ueHits = s.ueHits := rfl
@[simp] theorem State.selfRef_resetRegs : (s.resetRegs lo hi).selfRef = s.selfRef := rfl
@[simp] theorem State.badPos_resetRegs : (s.resetRegs lo hi).badPos = s.badPos := rfl
@[simp] theorem State.newFails_resetRegs : (s.resetRegs lo hi).newFails = s.newFails := rfl
@[simp] theorem State.bypass_resetRegs : (s.resetRegs lo hi).bypass = s.bypass := rfl
@[simp] theorem State.caps_resetRegs : (s.resetRegs lo hi).caps = s.caps := rfl
@[simp] theorem State.lat_resetRegs : (s.resetRegs lo hi).lat = s.lat := rfl
@[simp] theorem State.credits_resetRegs : (s.resetRegs lo hi).credits = s.credits := rfl
@[simp] theorem State.turns_resetRegs : (s.resetRegs lo hi).turns = s.turns := rfl
@[simp] theorem State.acts_resetRegs : (s.resetRegs lo hi).acts = s.acts := rfl
@[simp] theorem State.links_resetRegs : (s.resetRegs lo hi).links = s.links := rfl
@[simp] theorem State.fab_resetRegs : (s.resetRegs lo hi).fab = s.fab := rfl
@[simp] theorem State.trees_resetRegs : (s.resetRegs lo hi).trees = s.trees := rfl
@[simp] theorem State.snaps_resetRegs : (s.resetRegs lo hi).snaps = s.snaps := rfl
@[simp] theorem State.deck_resetRegs : (s.resetRegs lo hi).deck = s.deck := rfl
@[simp] theorem State.bound_resetRegs : (s.resetRegs lo hi).bound = s.bound := rfl
@[simp] theorem State.boot_resetRegs : (s.resetRegs lo hi).boot = s.boot := rfl
@[simp] theorem State.fw_resetRegs : (s.resetRegs lo hi).fw = s.fw := rfl
@[simp] theorem State.time_resetRegs : (s.resetRegs lo hi).time = s.time := rfl
@[simp] theorem State.therm_resetRegs : (s.resetRegs lo hi).therm = s.therm := rfl
@[simp] theorem State.power_resetRegs : (s.resetRegs lo hi).power = s.power := rfl
@[simp] theorem State.host_resetRegs : (s.resetRegs lo hi).host = s.host := rfl
@[simp] theorem State.keep_resetRegs : (s.resetRegs lo hi).keep = s.keep := rfl
end

section
variable (k : Nat) (c : Counter)

@[simp] theorem State.counters_of_setCounter : (s.setCounter k c).counters = tset (fun _ => Counter.reset) s.counters k c := rfl
@[simp] theorem State.pending_setCounter : (s.setCounter k c).pending = s.pending := rfl
@[simp] theorem State.variant_setCounter : (s.setCounter k c).variant = s.variant := rfl
@[simp] theorem State.regs_setCounter : (s.setCounter k c).regs = s.regs := rfl
@[simp] theorem State.freeCtr_setCounter : (s.setCounter k c).freeCtr = s.freeCtr := rfl
@[simp] theorem State.tiles_setCounter : (s.setCounter k c).tiles = s.tiles := rfl
@[simp] theorem State.reqs_setCounter : (s.setCounter k c).reqs = s.reqs := rfl
@[simp] theorem State.nextReq_setCounter : (s.setCounter k c).nextReq = s.nextReq := rfl
@[simp] theorem State.job_setCounter : (s.setCounter k c).job = s.job := rfl
@[simp] theorem State.pass_setCounter : (s.setCounter k c).pass = s.pass := rfl
@[simp] theorem State.epochCtr_setCounter : (s.setCounter k c).epochCtr = s.epochCtr := rfl
@[simp] theorem State.commitEpoch_setCounter : (s.setCounter k c).commitEpoch = s.commitEpoch := rfl
@[simp] theorem State.heldSigs_setCounter : (s.setCounter k c).heldSigs = s.heldSigs := rfl
@[simp] theorem State.slices_setCounter : (s.setCounter k c).slices = s.slices := rfl
@[simp] theorem State.hbm_setCounter : (s.setCounter k c).hbm = s.hbm := rfl
@[simp] theorem State.hbmMark_setCounter : (s.setCounter k c).hbmMark = s.hbmMark := rfl
@[simp] theorem State.hbmGen_setCounter : (s.setCounter k c).hbmGen = s.hbmGen := rfl
@[simp] theorem State.splits_setCounter : (s.setCounter k c).splits = s.splits := rfl
@[simp] theorem State.laneHits_setCounter : (s.setCounter k c).laneHits = s.laneHits := rfl
@[simp] theorem State.ueHits_setCounter : (s.setCounter k c).ueHits = s.ueHits := rfl
@[simp] theorem State.selfRef_setCounter : (s.setCounter k c).selfRef = s.selfRef := rfl
@[simp] theorem State.badPos_setCounter : (s.setCounter k c).badPos = s.badPos := rfl
@[simp] theorem State.newFails_setCounter : (s.setCounter k c).newFails = s.newFails := rfl
@[simp] theorem State.bypass_setCounter : (s.setCounter k c).bypass = s.bypass := rfl
@[simp] theorem State.caps_setCounter : (s.setCounter k c).caps = s.caps := rfl
@[simp] theorem State.lat_setCounter : (s.setCounter k c).lat = s.lat := rfl
@[simp] theorem State.credits_setCounter : (s.setCounter k c).credits = s.credits := rfl
@[simp] theorem State.turns_setCounter : (s.setCounter k c).turns = s.turns := rfl
@[simp] theorem State.acts_setCounter : (s.setCounter k c).acts = s.acts := rfl
@[simp] theorem State.links_setCounter : (s.setCounter k c).links = s.links := rfl
@[simp] theorem State.fab_setCounter : (s.setCounter k c).fab = s.fab := rfl
@[simp] theorem State.trees_setCounter : (s.setCounter k c).trees = s.trees := rfl
@[simp] theorem State.snaps_setCounter : (s.setCounter k c).snaps = s.snaps := rfl
@[simp] theorem State.deck_setCounter : (s.setCounter k c).deck = s.deck := rfl
@[simp] theorem State.bound_setCounter : (s.setCounter k c).bound = s.bound := rfl
@[simp] theorem State.boot_setCounter : (s.setCounter k c).boot = s.boot := rfl
@[simp] theorem State.fw_setCounter : (s.setCounter k c).fw = s.fw := rfl
@[simp] theorem State.time_setCounter : (s.setCounter k c).time = s.time := rfl
@[simp] theorem State.therm_setCounter : (s.setCounter k c).therm = s.therm := rfl
@[simp] theorem State.power_setCounter : (s.setCounter k c).power = s.power := rfl
@[simp] theorem State.host_setCounter : (s.setCounter k c).host = s.host := rfl
@[simp] theorem State.keep_setCounter : (s.setCounter k c).keep = s.keep := rfl
end

section
variable (t : Nat) (x : TileSt)

@[simp] theorem State.tiles_of_setTile : (s.setTile t x).tiles = tset (fun _ => TileSt.reset) s.tiles t x := rfl
@[simp] theorem State.pending_setTile : (s.setTile t x).pending = s.pending := rfl
@[simp] theorem State.variant_setTile : (s.setTile t x).variant = s.variant := rfl
@[simp] theorem State.regs_setTile : (s.setTile t x).regs = s.regs := rfl
@[simp] theorem State.counters_setTile : (s.setTile t x).counters = s.counters := rfl
@[simp] theorem State.freeCtr_setTile : (s.setTile t x).freeCtr = s.freeCtr := rfl
@[simp] theorem State.reqs_setTile : (s.setTile t x).reqs = s.reqs := rfl
@[simp] theorem State.nextReq_setTile : (s.setTile t x).nextReq = s.nextReq := rfl
@[simp] theorem State.job_setTile : (s.setTile t x).job = s.job := rfl
@[simp] theorem State.pass_setTile : (s.setTile t x).pass = s.pass := rfl
@[simp] theorem State.epochCtr_setTile : (s.setTile t x).epochCtr = s.epochCtr := rfl
@[simp] theorem State.commitEpoch_setTile : (s.setTile t x).commitEpoch = s.commitEpoch := rfl
@[simp] theorem State.heldSigs_setTile : (s.setTile t x).heldSigs = s.heldSigs := rfl
@[simp] theorem State.slices_setTile : (s.setTile t x).slices = s.slices := rfl
@[simp] theorem State.hbm_setTile : (s.setTile t x).hbm = s.hbm := rfl
@[simp] theorem State.hbmMark_setTile : (s.setTile t x).hbmMark = s.hbmMark := rfl
@[simp] theorem State.hbmGen_setTile : (s.setTile t x).hbmGen = s.hbmGen := rfl
@[simp] theorem State.splits_setTile : (s.setTile t x).splits = s.splits := rfl
@[simp] theorem State.laneHits_setTile : (s.setTile t x).laneHits = s.laneHits := rfl
@[simp] theorem State.ueHits_setTile : (s.setTile t x).ueHits = s.ueHits := rfl
@[simp] theorem State.selfRef_setTile : (s.setTile t x).selfRef = s.selfRef := rfl
@[simp] theorem State.badPos_setTile : (s.setTile t x).badPos = s.badPos := rfl
@[simp] theorem State.newFails_setTile : (s.setTile t x).newFails = s.newFails := rfl
@[simp] theorem State.bypass_setTile : (s.setTile t x).bypass = s.bypass := rfl
@[simp] theorem State.caps_setTile : (s.setTile t x).caps = s.caps := rfl
@[simp] theorem State.lat_setTile : (s.setTile t x).lat = s.lat := rfl
@[simp] theorem State.credits_setTile : (s.setTile t x).credits = s.credits := rfl
@[simp] theorem State.turns_setTile : (s.setTile t x).turns = s.turns := rfl
@[simp] theorem State.acts_setTile : (s.setTile t x).acts = s.acts := rfl
@[simp] theorem State.links_setTile : (s.setTile t x).links = s.links := rfl
@[simp] theorem State.fab_setTile : (s.setTile t x).fab = s.fab := rfl
@[simp] theorem State.trees_setTile : (s.setTile t x).trees = s.trees := rfl
@[simp] theorem State.snaps_setTile : (s.setTile t x).snaps = s.snaps := rfl
@[simp] theorem State.deck_setTile : (s.setTile t x).deck = s.deck := rfl
@[simp] theorem State.bound_setTile : (s.setTile t x).bound = s.bound := rfl
@[simp] theorem State.boot_setTile : (s.setTile t x).boot = s.boot := rfl
@[simp] theorem State.fw_setTile : (s.setTile t x).fw = s.fw := rfl
@[simp] theorem State.time_setTile : (s.setTile t x).time = s.time := rfl
@[simp] theorem State.therm_setTile : (s.setTile t x).therm = s.therm := rfl
@[simp] theorem State.power_setTile : (s.setTile t x).power = s.power := rfl
@[simp] theorem State.host_setTile : (s.setTile t x).host = s.host := rfl
@[simp] theorem State.keep_setTile : (s.setTile t x).keep = s.keep := rfl
end

section
variable (t : Nat) (f : TileSt → TileSt)

@[simp] theorem State.tiles_of_modTile : (s.modTile t f).tiles = tset (fun _ => TileSt.reset) s.tiles t (f (s.tile t)) := rfl
@[simp] theorem State.pending_modTile : (s.modTile t f).pending = s.pending := rfl
@[simp] theorem State.variant_modTile : (s.modTile t f).variant = s.variant := rfl
@[simp] theorem State.regs_modTile : (s.modTile t f).regs = s.regs := rfl
@[simp] theorem State.counters_modTile : (s.modTile t f).counters = s.counters := rfl
@[simp] theorem State.freeCtr_modTile : (s.modTile t f).freeCtr = s.freeCtr := rfl
@[simp] theorem State.reqs_modTile : (s.modTile t f).reqs = s.reqs := rfl
@[simp] theorem State.nextReq_modTile : (s.modTile t f).nextReq = s.nextReq := rfl
@[simp] theorem State.job_modTile : (s.modTile t f).job = s.job := rfl
@[simp] theorem State.pass_modTile : (s.modTile t f).pass = s.pass := rfl
@[simp] theorem State.epochCtr_modTile : (s.modTile t f).epochCtr = s.epochCtr := rfl
@[simp] theorem State.commitEpoch_modTile : (s.modTile t f).commitEpoch = s.commitEpoch := rfl
@[simp] theorem State.heldSigs_modTile : (s.modTile t f).heldSigs = s.heldSigs := rfl
@[simp] theorem State.slices_modTile : (s.modTile t f).slices = s.slices := rfl
@[simp] theorem State.hbm_modTile : (s.modTile t f).hbm = s.hbm := rfl
@[simp] theorem State.hbmMark_modTile : (s.modTile t f).hbmMark = s.hbmMark := rfl
@[simp] theorem State.hbmGen_modTile : (s.modTile t f).hbmGen = s.hbmGen := rfl
@[simp] theorem State.splits_modTile : (s.modTile t f).splits = s.splits := rfl
@[simp] theorem State.laneHits_modTile : (s.modTile t f).laneHits = s.laneHits := rfl
@[simp] theorem State.ueHits_modTile : (s.modTile t f).ueHits = s.ueHits := rfl
@[simp] theorem State.selfRef_modTile : (s.modTile t f).selfRef = s.selfRef := rfl
@[simp] theorem State.badPos_modTile : (s.modTile t f).badPos = s.badPos := rfl
@[simp] theorem State.newFails_modTile : (s.modTile t f).newFails = s.newFails := rfl
@[simp] theorem State.bypass_modTile : (s.modTile t f).bypass = s.bypass := rfl
@[simp] theorem State.caps_modTile : (s.modTile t f).caps = s.caps := rfl
@[simp] theorem State.lat_modTile : (s.modTile t f).lat = s.lat := rfl
@[simp] theorem State.credits_modTile : (s.modTile t f).credits = s.credits := rfl
@[simp] theorem State.turns_modTile : (s.modTile t f).turns = s.turns := rfl
@[simp] theorem State.acts_modTile : (s.modTile t f).acts = s.acts := rfl
@[simp] theorem State.links_modTile : (s.modTile t f).links = s.links := rfl
@[simp] theorem State.fab_modTile : (s.modTile t f).fab = s.fab := rfl
@[simp] theorem State.trees_modTile : (s.modTile t f).trees = s.trees := rfl
@[simp] theorem State.snaps_modTile : (s.modTile t f).snaps = s.snaps := rfl
@[simp] theorem State.deck_modTile : (s.modTile t f).deck = s.deck := rfl
@[simp] theorem State.bound_modTile : (s.modTile t f).bound = s.bound := rfl
@[simp] theorem State.boot_modTile : (s.modTile t f).boot = s.boot := rfl
@[simp] theorem State.fw_modTile : (s.modTile t f).fw = s.fw := rfl
@[simp] theorem State.time_modTile : (s.modTile t f).time = s.time := rfl
@[simp] theorem State.therm_modTile : (s.modTile t f).therm = s.therm := rfl
@[simp] theorem State.power_modTile : (s.modTile t f).power = s.power := rfl
@[simp] theorem State.host_modTile : (s.modTile t f).host = s.host := rfl
@[simp] theorem State.keep_modTile : (s.modTile t f).keep = s.keep := rfl
end

section
variable (r : Req)

@[simp] theorem State.reqs_of_setReq : (s.setReq r).reqs = s.reqs.map fun q => if q.id = r.id then r else q := rfl
@[simp] theorem State.pending_setReq : (s.setReq r).pending = s.pending := rfl
@[simp] theorem State.variant_setReq : (s.setReq r).variant = s.variant := rfl
@[simp] theorem State.regs_setReq : (s.setReq r).regs = s.regs := rfl
@[simp] theorem State.counters_setReq : (s.setReq r).counters = s.counters := rfl
@[simp] theorem State.freeCtr_setReq : (s.setReq r).freeCtr = s.freeCtr := rfl
@[simp] theorem State.tiles_setReq : (s.setReq r).tiles = s.tiles := rfl
@[simp] theorem State.nextReq_setReq : (s.setReq r).nextReq = s.nextReq := rfl
@[simp] theorem State.job_setReq : (s.setReq r).job = s.job := rfl
@[simp] theorem State.pass_setReq : (s.setReq r).pass = s.pass := rfl
@[simp] theorem State.epochCtr_setReq : (s.setReq r).epochCtr = s.epochCtr := rfl
@[simp] theorem State.commitEpoch_setReq : (s.setReq r).commitEpoch = s.commitEpoch := rfl
@[simp] theorem State.heldSigs_setReq : (s.setReq r).heldSigs = s.heldSigs := rfl
@[simp] theorem State.slices_setReq : (s.setReq r).slices = s.slices := rfl
@[simp] theorem State.hbm_setReq : (s.setReq r).hbm = s.hbm := rfl
@[simp] theorem State.hbmMark_setReq : (s.setReq r).hbmMark = s.hbmMark := rfl
@[simp] theorem State.hbmGen_setReq : (s.setReq r).hbmGen = s.hbmGen := rfl
@[simp] theorem State.splits_setReq : (s.setReq r).splits = s.splits := rfl
@[simp] theorem State.laneHits_setReq : (s.setReq r).laneHits = s.laneHits := rfl
@[simp] theorem State.ueHits_setReq : (s.setReq r).ueHits = s.ueHits := rfl
@[simp] theorem State.selfRef_setReq : (s.setReq r).selfRef = s.selfRef := rfl
@[simp] theorem State.badPos_setReq : (s.setReq r).badPos = s.badPos := rfl
@[simp] theorem State.newFails_setReq : (s.setReq r).newFails = s.newFails := rfl
@[simp] theorem State.bypass_setReq : (s.setReq r).bypass = s.bypass := rfl
@[simp] theorem State.caps_setReq : (s.setReq r).caps = s.caps := rfl
@[simp] theorem State.lat_setReq : (s.setReq r).lat = s.lat := rfl
@[simp] theorem State.credits_setReq : (s.setReq r).credits = s.credits := rfl
@[simp] theorem State.turns_setReq : (s.setReq r).turns = s.turns := rfl
@[simp] theorem State.acts_setReq : (s.setReq r).acts = s.acts := rfl
@[simp] theorem State.links_setReq : (s.setReq r).links = s.links := rfl
@[simp] theorem State.fab_setReq : (s.setReq r).fab = s.fab := rfl
@[simp] theorem State.trees_setReq : (s.setReq r).trees = s.trees := rfl
@[simp] theorem State.snaps_setReq : (s.setReq r).snaps = s.snaps := rfl
@[simp] theorem State.deck_setReq : (s.setReq r).deck = s.deck := rfl
@[simp] theorem State.bound_setReq : (s.setReq r).bound = s.bound := rfl
@[simp] theorem State.boot_setReq : (s.setReq r).boot = s.boot := rfl
@[simp] theorem State.fw_setReq : (s.setReq r).fw = s.fw := rfl
@[simp] theorem State.time_setReq : (s.setReq r).time = s.time := rfl
@[simp] theorem State.therm_setReq : (s.setReq r).therm = s.therm := rfl
@[simp] theorem State.power_setReq : (s.setReq r).power = s.power := rfl
@[simp] theorem State.host_setReq : (s.setReq r).host = s.host := rfl
@[simp] theorem State.keep_setReq : (s.setReq r).keep = s.keep := rfl
end

section
variable (i : Nat)

@[simp] theorem State.reqs_of_dropReq : (s.dropReq i).reqs = s.reqs.filter fun q => decide (q.id ≠ i) := rfl
@[simp] theorem State.pending_dropReq : (s.dropReq i).pending = s.pending := rfl
@[simp] theorem State.variant_dropReq : (s.dropReq i).variant = s.variant := rfl
@[simp] theorem State.regs_dropReq : (s.dropReq i).regs = s.regs := rfl
@[simp] theorem State.counters_dropReq : (s.dropReq i).counters = s.counters := rfl
@[simp] theorem State.freeCtr_dropReq : (s.dropReq i).freeCtr = s.freeCtr := rfl
@[simp] theorem State.tiles_dropReq : (s.dropReq i).tiles = s.tiles := rfl
@[simp] theorem State.nextReq_dropReq : (s.dropReq i).nextReq = s.nextReq := rfl
@[simp] theorem State.job_dropReq : (s.dropReq i).job = s.job := rfl
@[simp] theorem State.pass_dropReq : (s.dropReq i).pass = s.pass := rfl
@[simp] theorem State.epochCtr_dropReq : (s.dropReq i).epochCtr = s.epochCtr := rfl
@[simp] theorem State.commitEpoch_dropReq : (s.dropReq i).commitEpoch = s.commitEpoch := rfl
@[simp] theorem State.heldSigs_dropReq : (s.dropReq i).heldSigs = s.heldSigs := rfl
@[simp] theorem State.slices_dropReq : (s.dropReq i).slices = s.slices := rfl
@[simp] theorem State.hbm_dropReq : (s.dropReq i).hbm = s.hbm := rfl
@[simp] theorem State.hbmMark_dropReq : (s.dropReq i).hbmMark = s.hbmMark := rfl
@[simp] theorem State.hbmGen_dropReq : (s.dropReq i).hbmGen = s.hbmGen := rfl
@[simp] theorem State.splits_dropReq : (s.dropReq i).splits = s.splits := rfl
@[simp] theorem State.laneHits_dropReq : (s.dropReq i).laneHits = s.laneHits := rfl
@[simp] theorem State.ueHits_dropReq : (s.dropReq i).ueHits = s.ueHits := rfl
@[simp] theorem State.selfRef_dropReq : (s.dropReq i).selfRef = s.selfRef := rfl
@[simp] theorem State.badPos_dropReq : (s.dropReq i).badPos = s.badPos := rfl
@[simp] theorem State.newFails_dropReq : (s.dropReq i).newFails = s.newFails := rfl
@[simp] theorem State.bypass_dropReq : (s.dropReq i).bypass = s.bypass := rfl
@[simp] theorem State.caps_dropReq : (s.dropReq i).caps = s.caps := rfl
@[simp] theorem State.lat_dropReq : (s.dropReq i).lat = s.lat := rfl
@[simp] theorem State.credits_dropReq : (s.dropReq i).credits = s.credits := rfl
@[simp] theorem State.turns_dropReq : (s.dropReq i).turns = s.turns := rfl
@[simp] theorem State.acts_dropReq : (s.dropReq i).acts = s.acts := rfl
@[simp] theorem State.links_dropReq : (s.dropReq i).links = s.links := rfl
@[simp] theorem State.fab_dropReq : (s.dropReq i).fab = s.fab := rfl
@[simp] theorem State.trees_dropReq : (s.dropReq i).trees = s.trees := rfl
@[simp] theorem State.snaps_dropReq : (s.dropReq i).snaps = s.snaps := rfl
@[simp] theorem State.deck_dropReq : (s.dropReq i).deck = s.deck := rfl
@[simp] theorem State.bound_dropReq : (s.dropReq i).bound = s.bound := rfl
@[simp] theorem State.boot_dropReq : (s.dropReq i).boot = s.boot := rfl
@[simp] theorem State.fw_dropReq : (s.dropReq i).fw = s.fw := rfl
@[simp] theorem State.time_dropReq : (s.dropReq i).time = s.time := rfl
@[simp] theorem State.therm_dropReq : (s.dropReq i).therm = s.therm := rfl
@[simp] theorem State.power_dropReq : (s.dropReq i).power = s.power := rfl
@[simp] theorem State.host_dropReq : (s.dropReq i).host = s.host := rfl
@[simp] theorem State.keep_dropReq : (s.dropReq i).keep = s.keep := rfl
end

section
variable (n : Nat) (f : SliceSt → SliceSt)

@[simp] theorem State.slices_of_modSlice : (s.modSlice n f).slices = tset (fun _ => SliceSt.reset) s.slices n (f (s.slice n)) := rfl
@[simp] theorem State.pending_modSlice : (s.modSlice n f).pending = s.pending := rfl
@[simp] theorem State.variant_modSlice : (s.modSlice n f).variant = s.variant := rfl
@[simp] theorem State.regs_modSlice : (s.modSlice n f).regs = s.regs := rfl
@[simp] theorem State.counters_modSlice : (s.modSlice n f).counters = s.counters := rfl
@[simp] theorem State.freeCtr_modSlice : (s.modSlice n f).freeCtr = s.freeCtr := rfl
@[simp] theorem State.tiles_modSlice : (s.modSlice n f).tiles = s.tiles := rfl
@[simp] theorem State.reqs_modSlice : (s.modSlice n f).reqs = s.reqs := rfl
@[simp] theorem State.nextReq_modSlice : (s.modSlice n f).nextReq = s.nextReq := rfl
@[simp] theorem State.job_modSlice : (s.modSlice n f).job = s.job := rfl
@[simp] theorem State.pass_modSlice : (s.modSlice n f).pass = s.pass := rfl
@[simp] theorem State.epochCtr_modSlice : (s.modSlice n f).epochCtr = s.epochCtr := rfl
@[simp] theorem State.commitEpoch_modSlice : (s.modSlice n f).commitEpoch = s.commitEpoch := rfl
@[simp] theorem State.heldSigs_modSlice : (s.modSlice n f).heldSigs = s.heldSigs := rfl
@[simp] theorem State.hbm_modSlice : (s.modSlice n f).hbm = s.hbm := rfl
@[simp] theorem State.hbmMark_modSlice : (s.modSlice n f).hbmMark = s.hbmMark := rfl
@[simp] theorem State.hbmGen_modSlice : (s.modSlice n f).hbmGen = s.hbmGen := rfl
@[simp] theorem State.splits_modSlice : (s.modSlice n f).splits = s.splits := rfl
@[simp] theorem State.laneHits_modSlice : (s.modSlice n f).laneHits = s.laneHits := rfl
@[simp] theorem State.ueHits_modSlice : (s.modSlice n f).ueHits = s.ueHits := rfl
@[simp] theorem State.selfRef_modSlice : (s.modSlice n f).selfRef = s.selfRef := rfl
@[simp] theorem State.badPos_modSlice : (s.modSlice n f).badPos = s.badPos := rfl
@[simp] theorem State.newFails_modSlice : (s.modSlice n f).newFails = s.newFails := rfl
@[simp] theorem State.bypass_modSlice : (s.modSlice n f).bypass = s.bypass := rfl
@[simp] theorem State.caps_modSlice : (s.modSlice n f).caps = s.caps := rfl
@[simp] theorem State.lat_modSlice : (s.modSlice n f).lat = s.lat := rfl
@[simp] theorem State.credits_modSlice : (s.modSlice n f).credits = s.credits := rfl
@[simp] theorem State.turns_modSlice : (s.modSlice n f).turns = s.turns := rfl
@[simp] theorem State.acts_modSlice : (s.modSlice n f).acts = s.acts := rfl
@[simp] theorem State.links_modSlice : (s.modSlice n f).links = s.links := rfl
@[simp] theorem State.fab_modSlice : (s.modSlice n f).fab = s.fab := rfl
@[simp] theorem State.trees_modSlice : (s.modSlice n f).trees = s.trees := rfl
@[simp] theorem State.snaps_modSlice : (s.modSlice n f).snaps = s.snaps := rfl
@[simp] theorem State.deck_modSlice : (s.modSlice n f).deck = s.deck := rfl
@[simp] theorem State.bound_modSlice : (s.modSlice n f).bound = s.bound := rfl
@[simp] theorem State.boot_modSlice : (s.modSlice n f).boot = s.boot := rfl
@[simp] theorem State.fw_modSlice : (s.modSlice n f).fw = s.fw := rfl
@[simp] theorem State.time_modSlice : (s.modSlice n f).time = s.time := rfl
@[simp] theorem State.therm_modSlice : (s.modSlice n f).therm = s.therm := rfl
@[simp] theorem State.power_modSlice : (s.modSlice n f).power = s.power := rfl
@[simp] theorem State.host_modSlice : (s.modSlice n f).host = s.host := rfl
@[simp] theorem State.keep_modSlice : (s.modSlice n f).keep = s.keep := rfl
end

section
variable (l : Nat) (f : LinkSt → LinkSt)

@[simp] theorem State.links_of_modLink : (s.modLink l f).links = tset (fun _ => LinkSt.reset) s.links l (f (s.link l)) := rfl
@[simp] theorem State.pending_modLink : (s.modLink l f).pending = s.pending := rfl
@[simp] theorem State.variant_modLink : (s.modLink l f).variant = s.variant := rfl
@[simp] theorem State.regs_modLink : (s.modLink l f).regs = s.regs := rfl
@[simp] theorem State.counters_modLink : (s.modLink l f).counters = s.counters := rfl
@[simp] theorem State.freeCtr_modLink : (s.modLink l f).freeCtr = s.freeCtr := rfl
@[simp] theorem State.tiles_modLink : (s.modLink l f).tiles = s.tiles := rfl
@[simp] theorem State.reqs_modLink : (s.modLink l f).reqs = s.reqs := rfl
@[simp] theorem State.nextReq_modLink : (s.modLink l f).nextReq = s.nextReq := rfl
@[simp] theorem State.job_modLink : (s.modLink l f).job = s.job := rfl
@[simp] theorem State.pass_modLink : (s.modLink l f).pass = s.pass := rfl
@[simp] theorem State.epochCtr_modLink : (s.modLink l f).epochCtr = s.epochCtr := rfl
@[simp] theorem State.commitEpoch_modLink : (s.modLink l f).commitEpoch = s.commitEpoch := rfl
@[simp] theorem State.heldSigs_modLink : (s.modLink l f).heldSigs = s.heldSigs := rfl
@[simp] theorem State.slices_modLink : (s.modLink l f).slices = s.slices := rfl
@[simp] theorem State.hbm_modLink : (s.modLink l f).hbm = s.hbm := rfl
@[simp] theorem State.hbmMark_modLink : (s.modLink l f).hbmMark = s.hbmMark := rfl
@[simp] theorem State.hbmGen_modLink : (s.modLink l f).hbmGen = s.hbmGen := rfl
@[simp] theorem State.splits_modLink : (s.modLink l f).splits = s.splits := rfl
@[simp] theorem State.laneHits_modLink : (s.modLink l f).laneHits = s.laneHits := rfl
@[simp] theorem State.ueHits_modLink : (s.modLink l f).ueHits = s.ueHits := rfl
@[simp] theorem State.selfRef_modLink : (s.modLink l f).selfRef = s.selfRef := rfl
@[simp] theorem State.badPos_modLink : (s.modLink l f).badPos = s.badPos := rfl
@[simp] theorem State.newFails_modLink : (s.modLink l f).newFails = s.newFails := rfl
@[simp] theorem State.bypass_modLink : (s.modLink l f).bypass = s.bypass := rfl
@[simp] theorem State.caps_modLink : (s.modLink l f).caps = s.caps := rfl
@[simp] theorem State.lat_modLink : (s.modLink l f).lat = s.lat := rfl
@[simp] theorem State.credits_modLink : (s.modLink l f).credits = s.credits := rfl
@[simp] theorem State.turns_modLink : (s.modLink l f).turns = s.turns := rfl
@[simp] theorem State.acts_modLink : (s.modLink l f).acts = s.acts := rfl
@[simp] theorem State.fab_modLink : (s.modLink l f).fab = s.fab := rfl
@[simp] theorem State.trees_modLink : (s.modLink l f).trees = s.trees := rfl
@[simp] theorem State.snaps_modLink : (s.modLink l f).snaps = s.snaps := rfl
@[simp] theorem State.deck_modLink : (s.modLink l f).deck = s.deck := rfl
@[simp] theorem State.bound_modLink : (s.modLink l f).bound = s.bound := rfl
@[simp] theorem State.boot_modLink : (s.modLink l f).boot = s.boot := rfl
@[simp] theorem State.fw_modLink : (s.modLink l f).fw = s.fw := rfl
@[simp] theorem State.time_modLink : (s.modLink l f).time = s.time := rfl
@[simp] theorem State.therm_modLink : (s.modLink l f).therm = s.therm := rfl
@[simp] theorem State.power_modLink : (s.modLink l f).power = s.power := rfl
@[simp] theorem State.host_modLink : (s.modLink l f).host = s.host := rfl
@[simp] theorem State.keep_modLink : (s.modLink l f).keep = s.keep := rfl
end

section
variable (f : FabricSt → FabricSt)

@[simp] theorem State.fab_of_modFab : (s.modFab f).fab = f s.fab := rfl
@[simp] theorem State.pending_modFab : (s.modFab f).pending = s.pending := rfl
@[simp] theorem State.variant_modFab : (s.modFab f).variant = s.variant := rfl
@[simp] theorem State.regs_modFab : (s.modFab f).regs = s.regs := rfl
@[simp] theorem State.counters_modFab : (s.modFab f).counters = s.counters := rfl
@[simp] theorem State.freeCtr_modFab : (s.modFab f).freeCtr = s.freeCtr := rfl
@[simp] theorem State.tiles_modFab : (s.modFab f).tiles = s.tiles := rfl
@[simp] theorem State.reqs_modFab : (s.modFab f).reqs = s.reqs := rfl
@[simp] theorem State.nextReq_modFab : (s.modFab f).nextReq = s.nextReq := rfl
@[simp] theorem State.job_modFab : (s.modFab f).job = s.job := rfl
@[simp] theorem State.pass_modFab : (s.modFab f).pass = s.pass := rfl
@[simp] theorem State.epochCtr_modFab : (s.modFab f).epochCtr = s.epochCtr := rfl
@[simp] theorem State.commitEpoch_modFab : (s.modFab f).commitEpoch = s.commitEpoch := rfl
@[simp] theorem State.heldSigs_modFab : (s.modFab f).heldSigs = s.heldSigs := rfl
@[simp] theorem State.slices_modFab : (s.modFab f).slices = s.slices := rfl
@[simp] theorem State.hbm_modFab : (s.modFab f).hbm = s.hbm := rfl
@[simp] theorem State.hbmMark_modFab : (s.modFab f).hbmMark = s.hbmMark := rfl
@[simp] theorem State.hbmGen_modFab : (s.modFab f).hbmGen = s.hbmGen := rfl
@[simp] theorem State.splits_modFab : (s.modFab f).splits = s.splits := rfl
@[simp] theorem State.laneHits_modFab : (s.modFab f).laneHits = s.laneHits := rfl
@[simp] theorem State.ueHits_modFab : (s.modFab f).ueHits = s.ueHits := rfl
@[simp] theorem State.selfRef_modFab : (s.modFab f).selfRef = s.selfRef := rfl
@[simp] theorem State.badPos_modFab : (s.modFab f).badPos = s.badPos := rfl
@[simp] theorem State.newFails_modFab : (s.modFab f).newFails = s.newFails := rfl
@[simp] theorem State.bypass_modFab : (s.modFab f).bypass = s.bypass := rfl
@[simp] theorem State.caps_modFab : (s.modFab f).caps = s.caps := rfl
@[simp] theorem State.lat_modFab : (s.modFab f).lat = s.lat := rfl
@[simp] theorem State.credits_modFab : (s.modFab f).credits = s.credits := rfl
@[simp] theorem State.turns_modFab : (s.modFab f).turns = s.turns := rfl
@[simp] theorem State.acts_modFab : (s.modFab f).acts = s.acts := rfl
@[simp] theorem State.links_modFab : (s.modFab f).links = s.links := rfl
@[simp] theorem State.trees_modFab : (s.modFab f).trees = s.trees := rfl
@[simp] theorem State.snaps_modFab : (s.modFab f).snaps = s.snaps := rfl
@[simp] theorem State.deck_modFab : (s.modFab f).deck = s.deck := rfl
@[simp] theorem State.bound_modFab : (s.modFab f).bound = s.bound := rfl
@[simp] theorem State.boot_modFab : (s.modFab f).boot = s.boot := rfl
@[simp] theorem State.fw_modFab : (s.modFab f).fw = s.fw := rfl
@[simp] theorem State.time_modFab : (s.modFab f).time = s.time := rfl
@[simp] theorem State.therm_modFab : (s.modFab f).therm = s.therm := rfl
@[simp] theorem State.power_modFab : (s.modFab f).power = s.power := rfl
@[simp] theorem State.host_modFab : (s.modFab f).host = s.host := rfl
@[simp] theorem State.keep_modFab : (s.modFab f).keep = s.keep := rfl
end

section
variable (t : Nat) (f : TreeSt → TreeSt)

@[simp] theorem State.trees_of_modTree : (s.modTree t f).trees = tset (fun _ => TreeSt.reset) s.trees t (f (s.tree t)) := rfl
@[simp] theorem State.pending_modTree : (s.modTree t f).pending = s.pending := rfl
@[simp] theorem State.variant_modTree : (s.modTree t f).variant = s.variant := rfl
@[simp] theorem State.regs_modTree : (s.modTree t f).regs = s.regs := rfl
@[simp] theorem State.counters_modTree : (s.modTree t f).counters = s.counters := rfl
@[simp] theorem State.freeCtr_modTree : (s.modTree t f).freeCtr = s.freeCtr := rfl
@[simp] theorem State.tiles_modTree : (s.modTree t f).tiles = s.tiles := rfl
@[simp] theorem State.reqs_modTree : (s.modTree t f).reqs = s.reqs := rfl
@[simp] theorem State.nextReq_modTree : (s.modTree t f).nextReq = s.nextReq := rfl
@[simp] theorem State.job_modTree : (s.modTree t f).job = s.job := rfl
@[simp] theorem State.pass_modTree : (s.modTree t f).pass = s.pass := rfl
@[simp] theorem State.epochCtr_modTree : (s.modTree t f).epochCtr = s.epochCtr := rfl
@[simp] theorem State.commitEpoch_modTree : (s.modTree t f).commitEpoch = s.commitEpoch := rfl
@[simp] theorem State.heldSigs_modTree : (s.modTree t f).heldSigs = s.heldSigs := rfl
@[simp] theorem State.slices_modTree : (s.modTree t f).slices = s.slices := rfl
@[simp] theorem State.hbm_modTree : (s.modTree t f).hbm = s.hbm := rfl
@[simp] theorem State.hbmMark_modTree : (s.modTree t f).hbmMark = s.hbmMark := rfl
@[simp] theorem State.hbmGen_modTree : (s.modTree t f).hbmGen = s.hbmGen := rfl
@[simp] theorem State.splits_modTree : (s.modTree t f).splits = s.splits := rfl
@[simp] theorem State.laneHits_modTree : (s.modTree t f).laneHits = s.laneHits := rfl
@[simp] theorem State.ueHits_modTree : (s.modTree t f).ueHits = s.ueHits := rfl
@[simp] theorem State.selfRef_modTree : (s.modTree t f).selfRef = s.selfRef := rfl
@[simp] theorem State.badPos_modTree : (s.modTree t f).badPos = s.badPos := rfl
@[simp] theorem State.newFails_modTree : (s.modTree t f).newFails = s.newFails := rfl
@[simp] theorem State.bypass_modTree : (s.modTree t f).bypass = s.bypass := rfl
@[simp] theorem State.caps_modTree : (s.modTree t f).caps = s.caps := rfl
@[simp] theorem State.lat_modTree : (s.modTree t f).lat = s.lat := rfl
@[simp] theorem State.credits_modTree : (s.modTree t f).credits = s.credits := rfl
@[simp] theorem State.turns_modTree : (s.modTree t f).turns = s.turns := rfl
@[simp] theorem State.acts_modTree : (s.modTree t f).acts = s.acts := rfl
@[simp] theorem State.links_modTree : (s.modTree t f).links = s.links := rfl
@[simp] theorem State.fab_modTree : (s.modTree t f).fab = s.fab := rfl
@[simp] theorem State.snaps_modTree : (s.modTree t f).snaps = s.snaps := rfl
@[simp] theorem State.deck_modTree : (s.modTree t f).deck = s.deck := rfl
@[simp] theorem State.bound_modTree : (s.modTree t f).bound = s.bound := rfl
@[simp] theorem State.boot_modTree : (s.modTree t f).boot = s.boot := rfl
@[simp] theorem State.fw_modTree : (s.modTree t f).fw = s.fw := rfl
@[simp] theorem State.time_modTree : (s.modTree t f).time = s.time := rfl
@[simp] theorem State.therm_modTree : (s.modTree t f).therm = s.therm := rfl
@[simp] theorem State.power_modTree : (s.modTree t f).power = s.power := rfl
@[simp] theorem State.host_modTree : (s.modTree t f).host = s.host := rfl
@[simp] theorem State.keep_modTree : (s.modTree t f).keep = s.keep := rfl
end

section
variable (k : Nat) (x : Option SnapSt)

@[simp] theorem State.snaps_of_setSnap : (s.setSnap k x).snaps = tset (fun _ => none) s.snaps k x := rfl
@[simp] theorem State.pending_setSnap : (s.setSnap k x).pending = s.pending := rfl
@[simp] theorem State.variant_setSnap : (s.setSnap k x).variant = s.variant := rfl
@[simp] theorem State.regs_setSnap : (s.setSnap k x).regs = s.regs := rfl
@[simp] theorem State.counters_setSnap : (s.setSnap k x).counters = s.counters := rfl
@[simp] theorem State.freeCtr_setSnap : (s.setSnap k x).freeCtr = s.freeCtr := rfl
@[simp] theorem State.tiles_setSnap : (s.setSnap k x).tiles = s.tiles := rfl
@[simp] theorem State.reqs_setSnap : (s.setSnap k x).reqs = s.reqs := rfl
@[simp] theorem State.nextReq_setSnap : (s.setSnap k x).nextReq = s.nextReq := rfl
@[simp] theorem State.job_setSnap : (s.setSnap k x).job = s.job := rfl
@[simp] theorem State.pass_setSnap : (s.setSnap k x).pass = s.pass := rfl
@[simp] theorem State.epochCtr_setSnap : (s.setSnap k x).epochCtr = s.epochCtr := rfl
@[simp] theorem State.commitEpoch_setSnap : (s.setSnap k x).commitEpoch = s.commitEpoch := rfl
@[simp] theorem State.heldSigs_setSnap : (s.setSnap k x).heldSigs = s.heldSigs := rfl
@[simp] theorem State.slices_setSnap : (s.setSnap k x).slices = s.slices := rfl
@[simp] theorem State.hbm_setSnap : (s.setSnap k x).hbm = s.hbm := rfl
@[simp] theorem State.hbmMark_setSnap : (s.setSnap k x).hbmMark = s.hbmMark := rfl
@[simp] theorem State.hbmGen_setSnap : (s.setSnap k x).hbmGen = s.hbmGen := rfl
@[simp] theorem State.splits_setSnap : (s.setSnap k x).splits = s.splits := rfl
@[simp] theorem State.laneHits_setSnap : (s.setSnap k x).laneHits = s.laneHits := rfl
@[simp] theorem State.ueHits_setSnap : (s.setSnap k x).ueHits = s.ueHits := rfl
@[simp] theorem State.selfRef_setSnap : (s.setSnap k x).selfRef = s.selfRef := rfl
@[simp] theorem State.badPos_setSnap : (s.setSnap k x).badPos = s.badPos := rfl
@[simp] theorem State.newFails_setSnap : (s.setSnap k x).newFails = s.newFails := rfl
@[simp] theorem State.bypass_setSnap : (s.setSnap k x).bypass = s.bypass := rfl
@[simp] theorem State.caps_setSnap : (s.setSnap k x).caps = s.caps := rfl
@[simp] theorem State.lat_setSnap : (s.setSnap k x).lat = s.lat := rfl
@[simp] theorem State.credits_setSnap : (s.setSnap k x).credits = s.credits := rfl
@[simp] theorem State.turns_setSnap : (s.setSnap k x).turns = s.turns := rfl
@[simp] theorem State.acts_setSnap : (s.setSnap k x).acts = s.acts := rfl
@[simp] theorem State.links_setSnap : (s.setSnap k x).links = s.links := rfl
@[simp] theorem State.fab_setSnap : (s.setSnap k x).fab = s.fab := rfl
@[simp] theorem State.trees_setSnap : (s.setSnap k x).trees = s.trees := rfl
@[simp] theorem State.deck_setSnap : (s.setSnap k x).deck = s.deck := rfl
@[simp] theorem State.bound_setSnap : (s.setSnap k x).bound = s.bound := rfl
@[simp] theorem State.boot_setSnap : (s.setSnap k x).boot = s.boot := rfl
@[simp] theorem State.fw_setSnap : (s.setSnap k x).fw = s.fw := rfl
@[simp] theorem State.time_setSnap : (s.setSnap k x).time = s.time := rfl
@[simp] theorem State.therm_setSnap : (s.setSnap k x).therm = s.therm := rfl
@[simp] theorem State.power_setSnap : (s.setSnap k x).power = s.power := rfl
@[simp] theorem State.host_setSnap : (s.setSnap k x).host = s.host := rfl
@[simp] theorem State.keep_setSnap : (s.setSnap k x).keep = s.keep := rfl
end

section
variable (f : Pass → Pass)

@[simp] theorem State.pass_of_modPass : (s.modPass f).pass = s.pass.map f := rfl
@[simp] theorem State.pending_modPass : (s.modPass f).pending = s.pending := rfl
@[simp] theorem State.variant_modPass : (s.modPass f).variant = s.variant := rfl
@[simp] theorem State.regs_modPass : (s.modPass f).regs = s.regs := rfl
@[simp] theorem State.counters_modPass : (s.modPass f).counters = s.counters := rfl
@[simp] theorem State.freeCtr_modPass : (s.modPass f).freeCtr = s.freeCtr := rfl
@[simp] theorem State.tiles_modPass : (s.modPass f).tiles = s.tiles := rfl
@[simp] theorem State.reqs_modPass : (s.modPass f).reqs = s.reqs := rfl
@[simp] theorem State.nextReq_modPass : (s.modPass f).nextReq = s.nextReq := rfl
@[simp] theorem State.job_modPass : (s.modPass f).job = s.job := rfl
@[simp] theorem State.epochCtr_modPass : (s.modPass f).epochCtr = s.epochCtr := rfl
@[simp] theorem State.commitEpoch_modPass : (s.modPass f).commitEpoch = s.commitEpoch := rfl
@[simp] theorem State.heldSigs_modPass : (s.modPass f).heldSigs = s.heldSigs := rfl
@[simp] theorem State.slices_modPass : (s.modPass f).slices = s.slices := rfl
@[simp] theorem State.hbm_modPass : (s.modPass f).hbm = s.hbm := rfl
@[simp] theorem State.hbmMark_modPass : (s.modPass f).hbmMark = s.hbmMark := rfl
@[simp] theorem State.hbmGen_modPass : (s.modPass f).hbmGen = s.hbmGen := rfl
@[simp] theorem State.splits_modPass : (s.modPass f).splits = s.splits := rfl
@[simp] theorem State.laneHits_modPass : (s.modPass f).laneHits = s.laneHits := rfl
@[simp] theorem State.ueHits_modPass : (s.modPass f).ueHits = s.ueHits := rfl
@[simp] theorem State.selfRef_modPass : (s.modPass f).selfRef = s.selfRef := rfl
@[simp] theorem State.badPos_modPass : (s.modPass f).badPos = s.badPos := rfl
@[simp] theorem State.newFails_modPass : (s.modPass f).newFails = s.newFails := rfl
@[simp] theorem State.bypass_modPass : (s.modPass f).bypass = s.bypass := rfl
@[simp] theorem State.caps_modPass : (s.modPass f).caps = s.caps := rfl
@[simp] theorem State.lat_modPass : (s.modPass f).lat = s.lat := rfl
@[simp] theorem State.credits_modPass : (s.modPass f).credits = s.credits := rfl
@[simp] theorem State.turns_modPass : (s.modPass f).turns = s.turns := rfl
@[simp] theorem State.acts_modPass : (s.modPass f).acts = s.acts := rfl
@[simp] theorem State.links_modPass : (s.modPass f).links = s.links := rfl
@[simp] theorem State.fab_modPass : (s.modPass f).fab = s.fab := rfl
@[simp] theorem State.trees_modPass : (s.modPass f).trees = s.trees := rfl
@[simp] theorem State.snaps_modPass : (s.modPass f).snaps = s.snaps := rfl
@[simp] theorem State.deck_modPass : (s.modPass f).deck = s.deck := rfl
@[simp] theorem State.bound_modPass : (s.modPass f).bound = s.bound := rfl
@[simp] theorem State.boot_modPass : (s.modPass f).boot = s.boot := rfl
@[simp] theorem State.fw_modPass : (s.modPass f).fw = s.fw := rfl
@[simp] theorem State.time_modPass : (s.modPass f).time = s.time := rfl
@[simp] theorem State.therm_modPass : (s.modPass f).therm = s.therm := rfl
@[simp] theorem State.power_modPass : (s.modPass f).power = s.power := rfl
@[simp] theorem State.host_modPass : (s.modPass f).host = s.host := rfl
@[simp] theorem State.keep_modPass : (s.modPass f).keep = s.keep := rfl
end

section
variable (f : Job → Job)

@[simp] theorem State.job_of_modJob : (s.modJob f).job = s.job.map f := rfl
@[simp] theorem State.pending_modJob : (s.modJob f).pending = s.pending := rfl
@[simp] theorem State.variant_modJob : (s.modJob f).variant = s.variant := rfl
@[simp] theorem State.regs_modJob : (s.modJob f).regs = s.regs := rfl
@[simp] theorem State.counters_modJob : (s.modJob f).counters = s.counters := rfl
@[simp] theorem State.freeCtr_modJob : (s.modJob f).freeCtr = s.freeCtr := rfl
@[simp] theorem State.tiles_modJob : (s.modJob f).tiles = s.tiles := rfl
@[simp] theorem State.reqs_modJob : (s.modJob f).reqs = s.reqs := rfl
@[simp] theorem State.nextReq_modJob : (s.modJob f).nextReq = s.nextReq := rfl
@[simp] theorem State.pass_modJob : (s.modJob f).pass = s.pass := rfl
@[simp] theorem State.epochCtr_modJob : (s.modJob f).epochCtr = s.epochCtr := rfl
@[simp] theorem State.commitEpoch_modJob : (s.modJob f).commitEpoch = s.commitEpoch := rfl
@[simp] theorem State.heldSigs_modJob : (s.modJob f).heldSigs = s.heldSigs := rfl
@[simp] theorem State.slices_modJob : (s.modJob f).slices = s.slices := rfl
@[simp] theorem State.hbm_modJob : (s.modJob f).hbm = s.hbm := rfl
@[simp] theorem State.hbmMark_modJob : (s.modJob f).hbmMark = s.hbmMark := rfl
@[simp] theorem State.hbmGen_modJob : (s.modJob f).hbmGen = s.hbmGen := rfl
@[simp] theorem State.splits_modJob : (s.modJob f).splits = s.splits := rfl
@[simp] theorem State.laneHits_modJob : (s.modJob f).laneHits = s.laneHits := rfl
@[simp] theorem State.ueHits_modJob : (s.modJob f).ueHits = s.ueHits := rfl
@[simp] theorem State.selfRef_modJob : (s.modJob f).selfRef = s.selfRef := rfl
@[simp] theorem State.badPos_modJob : (s.modJob f).badPos = s.badPos := rfl
@[simp] theorem State.newFails_modJob : (s.modJob f).newFails = s.newFails := rfl
@[simp] theorem State.bypass_modJob : (s.modJob f).bypass = s.bypass := rfl
@[simp] theorem State.caps_modJob : (s.modJob f).caps = s.caps := rfl
@[simp] theorem State.lat_modJob : (s.modJob f).lat = s.lat := rfl
@[simp] theorem State.credits_modJob : (s.modJob f).credits = s.credits := rfl
@[simp] theorem State.turns_modJob : (s.modJob f).turns = s.turns := rfl
@[simp] theorem State.acts_modJob : (s.modJob f).acts = s.acts := rfl
@[simp] theorem State.links_modJob : (s.modJob f).links = s.links := rfl
@[simp] theorem State.fab_modJob : (s.modJob f).fab = s.fab := rfl
@[simp] theorem State.trees_modJob : (s.modJob f).trees = s.trees := rfl
@[simp] theorem State.snaps_modJob : (s.modJob f).snaps = s.snaps := rfl
@[simp] theorem State.deck_modJob : (s.modJob f).deck = s.deck := rfl
@[simp] theorem State.bound_modJob : (s.modJob f).bound = s.bound := rfl
@[simp] theorem State.boot_modJob : (s.modJob f).boot = s.boot := rfl
@[simp] theorem State.fw_modJob : (s.modJob f).fw = s.fw := rfl
@[simp] theorem State.time_modJob : (s.modJob f).time = s.time := rfl
@[simp] theorem State.therm_modJob : (s.modJob f).therm = s.therm := rfl
@[simp] theorem State.power_modJob : (s.modJob f).power = s.power := rfl
@[simp] theorem State.host_modJob : (s.modJob f).host = s.host := rfl
@[simp] theorem State.keep_modJob : (s.modJob f).keep = s.keep := rfl
end

section
variable (f : DeckSt → DeckSt)

@[simp] theorem State.deck_of_modDeck : (s.modDeck f).deck = f s.deck := rfl
@[simp] theorem State.pending_modDeck : (s.modDeck f).pending = s.pending := rfl
@[simp] theorem State.variant_modDeck : (s.modDeck f).variant = s.variant := rfl
@[simp] theorem State.regs_modDeck : (s.modDeck f).regs = s.regs := rfl
@[simp] theorem State.counters_modDeck : (s.modDeck f).counters = s.counters := rfl
@[simp] theorem State.freeCtr_modDeck : (s.modDeck f).freeCtr = s.freeCtr := rfl
@[simp] theorem State.tiles_modDeck : (s.modDeck f).tiles = s.tiles := rfl
@[simp] theorem State.reqs_modDeck : (s.modDeck f).reqs = s.reqs := rfl
@[simp] theorem State.nextReq_modDeck : (s.modDeck f).nextReq = s.nextReq := rfl
@[simp] theorem State.job_modDeck : (s.modDeck f).job = s.job := rfl
@[simp] theorem State.pass_modDeck : (s.modDeck f).pass = s.pass := rfl
@[simp] theorem State.epochCtr_modDeck : (s.modDeck f).epochCtr = s.epochCtr := rfl
@[simp] theorem State.commitEpoch_modDeck : (s.modDeck f).commitEpoch = s.commitEpoch := rfl
@[simp] theorem State.heldSigs_modDeck : (s.modDeck f).heldSigs = s.heldSigs := rfl
@[simp] theorem State.slices_modDeck : (s.modDeck f).slices = s.slices := rfl
@[simp] theorem State.hbm_modDeck : (s.modDeck f).hbm = s.hbm := rfl
@[simp] theorem State.hbmMark_modDeck : (s.modDeck f).hbmMark = s.hbmMark := rfl
@[simp] theorem State.hbmGen_modDeck : (s.modDeck f).hbmGen = s.hbmGen := rfl
@[simp] theorem State.splits_modDeck : (s.modDeck f).splits = s.splits := rfl
@[simp] theorem State.laneHits_modDeck : (s.modDeck f).laneHits = s.laneHits := rfl
@[simp] theorem State.ueHits_modDeck : (s.modDeck f).ueHits = s.ueHits := rfl
@[simp] theorem State.selfRef_modDeck : (s.modDeck f).selfRef = s.selfRef := rfl
@[simp] theorem State.badPos_modDeck : (s.modDeck f).badPos = s.badPos := rfl
@[simp] theorem State.newFails_modDeck : (s.modDeck f).newFails = s.newFails := rfl
@[simp] theorem State.bypass_modDeck : (s.modDeck f).bypass = s.bypass := rfl
@[simp] theorem State.caps_modDeck : (s.modDeck f).caps = s.caps := rfl
@[simp] theorem State.lat_modDeck : (s.modDeck f).lat = s.lat := rfl
@[simp] theorem State.credits_modDeck : (s.modDeck f).credits = s.credits := rfl
@[simp] theorem State.turns_modDeck : (s.modDeck f).turns = s.turns := rfl
@[simp] theorem State.acts_modDeck : (s.modDeck f).acts = s.acts := rfl
@[simp] theorem State.links_modDeck : (s.modDeck f).links = s.links := rfl
@[simp] theorem State.fab_modDeck : (s.modDeck f).fab = s.fab := rfl
@[simp] theorem State.trees_modDeck : (s.modDeck f).trees = s.trees := rfl
@[simp] theorem State.snaps_modDeck : (s.modDeck f).snaps = s.snaps := rfl
@[simp] theorem State.bound_modDeck : (s.modDeck f).bound = s.bound := rfl
@[simp] theorem State.boot_modDeck : (s.modDeck f).boot = s.boot := rfl
@[simp] theorem State.fw_modDeck : (s.modDeck f).fw = s.fw := rfl
@[simp] theorem State.time_modDeck : (s.modDeck f).time = s.time := rfl
@[simp] theorem State.therm_modDeck : (s.modDeck f).therm = s.therm := rfl
@[simp] theorem State.power_modDeck : (s.modDeck f).power = s.power := rfl
@[simp] theorem State.host_modDeck : (s.modDeck f).host = s.host := rfl
@[simp] theorem State.keep_modDeck : (s.modDeck f).keep = s.keep := rfl
end

section
variable (f : BootSt → BootSt)

@[simp] theorem State.boot_of_modBoot : (s.modBoot f).boot = f s.boot := rfl
@[simp] theorem State.pending_modBoot : (s.modBoot f).pending = s.pending := rfl
@[simp] theorem State.variant_modBoot : (s.modBoot f).variant = s.variant := rfl
@[simp] theorem State.regs_modBoot : (s.modBoot f).regs = s.regs := rfl
@[simp] theorem State.counters_modBoot : (s.modBoot f).counters = s.counters := rfl
@[simp] theorem State.freeCtr_modBoot : (s.modBoot f).freeCtr = s.freeCtr := rfl
@[simp] theorem State.tiles_modBoot : (s.modBoot f).tiles = s.tiles := rfl
@[simp] theorem State.reqs_modBoot : (s.modBoot f).reqs = s.reqs := rfl
@[simp] theorem State.nextReq_modBoot : (s.modBoot f).nextReq = s.nextReq := rfl
@[simp] theorem State.job_modBoot : (s.modBoot f).job = s.job := rfl
@[simp] theorem State.pass_modBoot : (s.modBoot f).pass = s.pass := rfl
@[simp] theorem State.epochCtr_modBoot : (s.modBoot f).epochCtr = s.epochCtr := rfl
@[simp] theorem State.commitEpoch_modBoot : (s.modBoot f).commitEpoch = s.commitEpoch := rfl
@[simp] theorem State.heldSigs_modBoot : (s.modBoot f).heldSigs = s.heldSigs := rfl
@[simp] theorem State.slices_modBoot : (s.modBoot f).slices = s.slices := rfl
@[simp] theorem State.hbm_modBoot : (s.modBoot f).hbm = s.hbm := rfl
@[simp] theorem State.hbmMark_modBoot : (s.modBoot f).hbmMark = s.hbmMark := rfl
@[simp] theorem State.hbmGen_modBoot : (s.modBoot f).hbmGen = s.hbmGen := rfl
@[simp] theorem State.splits_modBoot : (s.modBoot f).splits = s.splits := rfl
@[simp] theorem State.laneHits_modBoot : (s.modBoot f).laneHits = s.laneHits := rfl
@[simp] theorem State.ueHits_modBoot : (s.modBoot f).ueHits = s.ueHits := rfl
@[simp] theorem State.selfRef_modBoot : (s.modBoot f).selfRef = s.selfRef := rfl
@[simp] theorem State.badPos_modBoot : (s.modBoot f).badPos = s.badPos := rfl
@[simp] theorem State.newFails_modBoot : (s.modBoot f).newFails = s.newFails := rfl
@[simp] theorem State.bypass_modBoot : (s.modBoot f).bypass = s.bypass := rfl
@[simp] theorem State.caps_modBoot : (s.modBoot f).caps = s.caps := rfl
@[simp] theorem State.lat_modBoot : (s.modBoot f).lat = s.lat := rfl
@[simp] theorem State.credits_modBoot : (s.modBoot f).credits = s.credits := rfl
@[simp] theorem State.turns_modBoot : (s.modBoot f).turns = s.turns := rfl
@[simp] theorem State.acts_modBoot : (s.modBoot f).acts = s.acts := rfl
@[simp] theorem State.links_modBoot : (s.modBoot f).links = s.links := rfl
@[simp] theorem State.fab_modBoot : (s.modBoot f).fab = s.fab := rfl
@[simp] theorem State.trees_modBoot : (s.modBoot f).trees = s.trees := rfl
@[simp] theorem State.snaps_modBoot : (s.modBoot f).snaps = s.snaps := rfl
@[simp] theorem State.deck_modBoot : (s.modBoot f).deck = s.deck := rfl
@[simp] theorem State.bound_modBoot : (s.modBoot f).bound = s.bound := rfl
@[simp] theorem State.fw_modBoot : (s.modBoot f).fw = s.fw := rfl
@[simp] theorem State.time_modBoot : (s.modBoot f).time = s.time := rfl
@[simp] theorem State.therm_modBoot : (s.modBoot f).therm = s.therm := rfl
@[simp] theorem State.power_modBoot : (s.modBoot f).power = s.power := rfl
@[simp] theorem State.host_modBoot : (s.modBoot f).host = s.host := rfl
@[simp] theorem State.keep_modBoot : (s.modBoot f).keep = s.keep := rfl
end

section
variable (f : FwSt → FwSt)

@[simp] theorem State.fw_of_modFw : (s.modFw f).fw = f s.fw := rfl
@[simp] theorem State.pending_modFw : (s.modFw f).pending = s.pending := rfl
@[simp] theorem State.variant_modFw : (s.modFw f).variant = s.variant := rfl
@[simp] theorem State.regs_modFw : (s.modFw f).regs = s.regs := rfl
@[simp] theorem State.counters_modFw : (s.modFw f).counters = s.counters := rfl
@[simp] theorem State.freeCtr_modFw : (s.modFw f).freeCtr = s.freeCtr := rfl
@[simp] theorem State.tiles_modFw : (s.modFw f).tiles = s.tiles := rfl
@[simp] theorem State.reqs_modFw : (s.modFw f).reqs = s.reqs := rfl
@[simp] theorem State.nextReq_modFw : (s.modFw f).nextReq = s.nextReq := rfl
@[simp] theorem State.job_modFw : (s.modFw f).job = s.job := rfl
@[simp] theorem State.pass_modFw : (s.modFw f).pass = s.pass := rfl
@[simp] theorem State.epochCtr_modFw : (s.modFw f).epochCtr = s.epochCtr := rfl
@[simp] theorem State.commitEpoch_modFw : (s.modFw f).commitEpoch = s.commitEpoch := rfl
@[simp] theorem State.heldSigs_modFw : (s.modFw f).heldSigs = s.heldSigs := rfl
@[simp] theorem State.slices_modFw : (s.modFw f).slices = s.slices := rfl
@[simp] theorem State.hbm_modFw : (s.modFw f).hbm = s.hbm := rfl
@[simp] theorem State.hbmMark_modFw : (s.modFw f).hbmMark = s.hbmMark := rfl
@[simp] theorem State.hbmGen_modFw : (s.modFw f).hbmGen = s.hbmGen := rfl
@[simp] theorem State.splits_modFw : (s.modFw f).splits = s.splits := rfl
@[simp] theorem State.laneHits_modFw : (s.modFw f).laneHits = s.laneHits := rfl
@[simp] theorem State.ueHits_modFw : (s.modFw f).ueHits = s.ueHits := rfl
@[simp] theorem State.selfRef_modFw : (s.modFw f).selfRef = s.selfRef := rfl
@[simp] theorem State.badPos_modFw : (s.modFw f).badPos = s.badPos := rfl
@[simp] theorem State.newFails_modFw : (s.modFw f).newFails = s.newFails := rfl
@[simp] theorem State.bypass_modFw : (s.modFw f).bypass = s.bypass := rfl
@[simp] theorem State.caps_modFw : (s.modFw f).caps = s.caps := rfl
@[simp] theorem State.lat_modFw : (s.modFw f).lat = s.lat := rfl
@[simp] theorem State.credits_modFw : (s.modFw f).credits = s.credits := rfl
@[simp] theorem State.turns_modFw : (s.modFw f).turns = s.turns := rfl
@[simp] theorem State.acts_modFw : (s.modFw f).acts = s.acts := rfl
@[simp] theorem State.links_modFw : (s.modFw f).links = s.links := rfl
@[simp] theorem State.fab_modFw : (s.modFw f).fab = s.fab := rfl
@[simp] theorem State.trees_modFw : (s.modFw f).trees = s.trees := rfl
@[simp] theorem State.snaps_modFw : (s.modFw f).snaps = s.snaps := rfl
@[simp] theorem State.deck_modFw : (s.modFw f).deck = s.deck := rfl
@[simp] theorem State.bound_modFw : (s.modFw f).bound = s.bound := rfl
@[simp] theorem State.boot_modFw : (s.modFw f).boot = s.boot := rfl
@[simp] theorem State.time_modFw : (s.modFw f).time = s.time := rfl
@[simp] theorem State.therm_modFw : (s.modFw f).therm = s.therm := rfl
@[simp] theorem State.power_modFw : (s.modFw f).power = s.power := rfl
@[simp] theorem State.host_modFw : (s.modFw f).host = s.host := rfl
@[simp] theorem State.keep_modFw : (s.modFw f).keep = s.keep := rfl
end

section
variable (f : TimeSt → TimeSt)

@[simp] theorem State.time_of_modTime : (s.modTime f).time = f s.time := rfl
@[simp] theorem State.pending_modTime : (s.modTime f).pending = s.pending := rfl
@[simp] theorem State.variant_modTime : (s.modTime f).variant = s.variant := rfl
@[simp] theorem State.regs_modTime : (s.modTime f).regs = s.regs := rfl
@[simp] theorem State.counters_modTime : (s.modTime f).counters = s.counters := rfl
@[simp] theorem State.freeCtr_modTime : (s.modTime f).freeCtr = s.freeCtr := rfl
@[simp] theorem State.tiles_modTime : (s.modTime f).tiles = s.tiles := rfl
@[simp] theorem State.reqs_modTime : (s.modTime f).reqs = s.reqs := rfl
@[simp] theorem State.nextReq_modTime : (s.modTime f).nextReq = s.nextReq := rfl
@[simp] theorem State.job_modTime : (s.modTime f).job = s.job := rfl
@[simp] theorem State.pass_modTime : (s.modTime f).pass = s.pass := rfl
@[simp] theorem State.epochCtr_modTime : (s.modTime f).epochCtr = s.epochCtr := rfl
@[simp] theorem State.commitEpoch_modTime : (s.modTime f).commitEpoch = s.commitEpoch := rfl
@[simp] theorem State.heldSigs_modTime : (s.modTime f).heldSigs = s.heldSigs := rfl
@[simp] theorem State.slices_modTime : (s.modTime f).slices = s.slices := rfl
@[simp] theorem State.hbm_modTime : (s.modTime f).hbm = s.hbm := rfl
@[simp] theorem State.hbmMark_modTime : (s.modTime f).hbmMark = s.hbmMark := rfl
@[simp] theorem State.hbmGen_modTime : (s.modTime f).hbmGen = s.hbmGen := rfl
@[simp] theorem State.splits_modTime : (s.modTime f).splits = s.splits := rfl
@[simp] theorem State.laneHits_modTime : (s.modTime f).laneHits = s.laneHits := rfl
@[simp] theorem State.ueHits_modTime : (s.modTime f).ueHits = s.ueHits := rfl
@[simp] theorem State.selfRef_modTime : (s.modTime f).selfRef = s.selfRef := rfl
@[simp] theorem State.badPos_modTime : (s.modTime f).badPos = s.badPos := rfl
@[simp] theorem State.newFails_modTime : (s.modTime f).newFails = s.newFails := rfl
@[simp] theorem State.bypass_modTime : (s.modTime f).bypass = s.bypass := rfl
@[simp] theorem State.caps_modTime : (s.modTime f).caps = s.caps := rfl
@[simp] theorem State.lat_modTime : (s.modTime f).lat = s.lat := rfl
@[simp] theorem State.credits_modTime : (s.modTime f).credits = s.credits := rfl
@[simp] theorem State.turns_modTime : (s.modTime f).turns = s.turns := rfl
@[simp] theorem State.acts_modTime : (s.modTime f).acts = s.acts := rfl
@[simp] theorem State.links_modTime : (s.modTime f).links = s.links := rfl
@[simp] theorem State.fab_modTime : (s.modTime f).fab = s.fab := rfl
@[simp] theorem State.trees_modTime : (s.modTime f).trees = s.trees := rfl
@[simp] theorem State.snaps_modTime : (s.modTime f).snaps = s.snaps := rfl
@[simp] theorem State.deck_modTime : (s.modTime f).deck = s.deck := rfl
@[simp] theorem State.bound_modTime : (s.modTime f).bound = s.bound := rfl
@[simp] theorem State.boot_modTime : (s.modTime f).boot = s.boot := rfl
@[simp] theorem State.fw_modTime : (s.modTime f).fw = s.fw := rfl
@[simp] theorem State.therm_modTime : (s.modTime f).therm = s.therm := rfl
@[simp] theorem State.power_modTime : (s.modTime f).power = s.power := rfl
@[simp] theorem State.host_modTime : (s.modTime f).host = s.host := rfl
@[simp] theorem State.keep_modTime : (s.modTime f).keep = s.keep := rfl
end

section
variable (f : ThermSt → ThermSt)

@[simp] theorem State.therm_of_modTherm : (s.modTherm f).therm = f s.therm := rfl
@[simp] theorem State.pending_modTherm : (s.modTherm f).pending = s.pending := rfl
@[simp] theorem State.variant_modTherm : (s.modTherm f).variant = s.variant := rfl
@[simp] theorem State.regs_modTherm : (s.modTherm f).regs = s.regs := rfl
@[simp] theorem State.counters_modTherm : (s.modTherm f).counters = s.counters := rfl
@[simp] theorem State.freeCtr_modTherm : (s.modTherm f).freeCtr = s.freeCtr := rfl
@[simp] theorem State.tiles_modTherm : (s.modTherm f).tiles = s.tiles := rfl
@[simp] theorem State.reqs_modTherm : (s.modTherm f).reqs = s.reqs := rfl
@[simp] theorem State.nextReq_modTherm : (s.modTherm f).nextReq = s.nextReq := rfl
@[simp] theorem State.job_modTherm : (s.modTherm f).job = s.job := rfl
@[simp] theorem State.pass_modTherm : (s.modTherm f).pass = s.pass := rfl
@[simp] theorem State.epochCtr_modTherm : (s.modTherm f).epochCtr = s.epochCtr := rfl
@[simp] theorem State.commitEpoch_modTherm : (s.modTherm f).commitEpoch = s.commitEpoch := rfl
@[simp] theorem State.heldSigs_modTherm : (s.modTherm f).heldSigs = s.heldSigs := rfl
@[simp] theorem State.slices_modTherm : (s.modTherm f).slices = s.slices := rfl
@[simp] theorem State.hbm_modTherm : (s.modTherm f).hbm = s.hbm := rfl
@[simp] theorem State.hbmMark_modTherm : (s.modTherm f).hbmMark = s.hbmMark := rfl
@[simp] theorem State.hbmGen_modTherm : (s.modTherm f).hbmGen = s.hbmGen := rfl
@[simp] theorem State.splits_modTherm : (s.modTherm f).splits = s.splits := rfl
@[simp] theorem State.laneHits_modTherm : (s.modTherm f).laneHits = s.laneHits := rfl
@[simp] theorem State.ueHits_modTherm : (s.modTherm f).ueHits = s.ueHits := rfl
@[simp] theorem State.selfRef_modTherm : (s.modTherm f).selfRef = s.selfRef := rfl
@[simp] theorem State.badPos_modTherm : (s.modTherm f).badPos = s.badPos := rfl
@[simp] theorem State.newFails_modTherm : (s.modTherm f).newFails = s.newFails := rfl
@[simp] theorem State.bypass_modTherm : (s.modTherm f).bypass = s.bypass := rfl
@[simp] theorem State.caps_modTherm : (s.modTherm f).caps = s.caps := rfl
@[simp] theorem State.lat_modTherm : (s.modTherm f).lat = s.lat := rfl
@[simp] theorem State.credits_modTherm : (s.modTherm f).credits = s.credits := rfl
@[simp] theorem State.turns_modTherm : (s.modTherm f).turns = s.turns := rfl
@[simp] theorem State.acts_modTherm : (s.modTherm f).acts = s.acts := rfl
@[simp] theorem State.links_modTherm : (s.modTherm f).links = s.links := rfl
@[simp] theorem State.fab_modTherm : (s.modTherm f).fab = s.fab := rfl
@[simp] theorem State.trees_modTherm : (s.modTherm f).trees = s.trees := rfl
@[simp] theorem State.snaps_modTherm : (s.modTherm f).snaps = s.snaps := rfl
@[simp] theorem State.deck_modTherm : (s.modTherm f).deck = s.deck := rfl
@[simp] theorem State.bound_modTherm : (s.modTherm f).bound = s.bound := rfl
@[simp] theorem State.boot_modTherm : (s.modTherm f).boot = s.boot := rfl
@[simp] theorem State.fw_modTherm : (s.modTherm f).fw = s.fw := rfl
@[simp] theorem State.time_modTherm : (s.modTherm f).time = s.time := rfl
@[simp] theorem State.power_modTherm : (s.modTherm f).power = s.power := rfl
@[simp] theorem State.host_modTherm : (s.modTherm f).host = s.host := rfl
@[simp] theorem State.keep_modTherm : (s.modTherm f).keep = s.keep := rfl
end

section
variable (f : PowerSt → PowerSt)

@[simp] theorem State.power_of_modPower : (s.modPower f).power = f s.power := rfl
@[simp] theorem State.pending_modPower : (s.modPower f).pending = s.pending := rfl
@[simp] theorem State.variant_modPower : (s.modPower f).variant = s.variant := rfl
@[simp] theorem State.regs_modPower : (s.modPower f).regs = s.regs := rfl
@[simp] theorem State.counters_modPower : (s.modPower f).counters = s.counters := rfl
@[simp] theorem State.freeCtr_modPower : (s.modPower f).freeCtr = s.freeCtr := rfl
@[simp] theorem State.tiles_modPower : (s.modPower f).tiles = s.tiles := rfl
@[simp] theorem State.reqs_modPower : (s.modPower f).reqs = s.reqs := rfl
@[simp] theorem State.nextReq_modPower : (s.modPower f).nextReq = s.nextReq := rfl
@[simp] theorem State.job_modPower : (s.modPower f).job = s.job := rfl
@[simp] theorem State.pass_modPower : (s.modPower f).pass = s.pass := rfl
@[simp] theorem State.epochCtr_modPower : (s.modPower f).epochCtr = s.epochCtr := rfl
@[simp] theorem State.commitEpoch_modPower : (s.modPower f).commitEpoch = s.commitEpoch := rfl
@[simp] theorem State.heldSigs_modPower : (s.modPower f).heldSigs = s.heldSigs := rfl
@[simp] theorem State.slices_modPower : (s.modPower f).slices = s.slices := rfl
@[simp] theorem State.hbm_modPower : (s.modPower f).hbm = s.hbm := rfl
@[simp] theorem State.hbmMark_modPower : (s.modPower f).hbmMark = s.hbmMark := rfl
@[simp] theorem State.hbmGen_modPower : (s.modPower f).hbmGen = s.hbmGen := rfl
@[simp] theorem State.splits_modPower : (s.modPower f).splits = s.splits := rfl
@[simp] theorem State.laneHits_modPower : (s.modPower f).laneHits = s.laneHits := rfl
@[simp] theorem State.ueHits_modPower : (s.modPower f).ueHits = s.ueHits := rfl
@[simp] theorem State.selfRef_modPower : (s.modPower f).selfRef = s.selfRef := rfl
@[simp] theorem State.badPos_modPower : (s.modPower f).badPos = s.badPos := rfl
@[simp] theorem State.newFails_modPower : (s.modPower f).newFails = s.newFails := rfl
@[simp] theorem State.bypass_modPower : (s.modPower f).bypass = s.bypass := rfl
@[simp] theorem State.caps_modPower : (s.modPower f).caps = s.caps := rfl
@[simp] theorem State.lat_modPower : (s.modPower f).lat = s.lat := rfl
@[simp] theorem State.credits_modPower : (s.modPower f).credits = s.credits := rfl
@[simp] theorem State.turns_modPower : (s.modPower f).turns = s.turns := rfl
@[simp] theorem State.acts_modPower : (s.modPower f).acts = s.acts := rfl
@[simp] theorem State.links_modPower : (s.modPower f).links = s.links := rfl
@[simp] theorem State.fab_modPower : (s.modPower f).fab = s.fab := rfl
@[simp] theorem State.trees_modPower : (s.modPower f).trees = s.trees := rfl
@[simp] theorem State.snaps_modPower : (s.modPower f).snaps = s.snaps := rfl
@[simp] theorem State.deck_modPower : (s.modPower f).deck = s.deck := rfl
@[simp] theorem State.bound_modPower : (s.modPower f).bound = s.bound := rfl
@[simp] theorem State.boot_modPower : (s.modPower f).boot = s.boot := rfl
@[simp] theorem State.fw_modPower : (s.modPower f).fw = s.fw := rfl
@[simp] theorem State.time_modPower : (s.modPower f).time = s.time := rfl
@[simp] theorem State.therm_modPower : (s.modPower f).therm = s.therm := rfl
@[simp] theorem State.host_modPower : (s.modPower f).host = s.host := rfl
@[simp] theorem State.keep_modPower : (s.modPower f).keep = s.keep := rfl
end

section
variable (f : HostSt → HostSt)

@[simp] theorem State.host_of_modHost : (s.modHost f).host = f s.host := rfl
@[simp] theorem State.pending_modHost : (s.modHost f).pending = s.pending := rfl
@[simp] theorem State.variant_modHost : (s.modHost f).variant = s.variant := rfl
@[simp] theorem State.regs_modHost : (s.modHost f).regs = s.regs := rfl
@[simp] theorem State.counters_modHost : (s.modHost f).counters = s.counters := rfl
@[simp] theorem State.freeCtr_modHost : (s.modHost f).freeCtr = s.freeCtr := rfl
@[simp] theorem State.tiles_modHost : (s.modHost f).tiles = s.tiles := rfl
@[simp] theorem State.reqs_modHost : (s.modHost f).reqs = s.reqs := rfl
@[simp] theorem State.nextReq_modHost : (s.modHost f).nextReq = s.nextReq := rfl
@[simp] theorem State.job_modHost : (s.modHost f).job = s.job := rfl
@[simp] theorem State.pass_modHost : (s.modHost f).pass = s.pass := rfl
@[simp] theorem State.epochCtr_modHost : (s.modHost f).epochCtr = s.epochCtr := rfl
@[simp] theorem State.commitEpoch_modHost : (s.modHost f).commitEpoch = s.commitEpoch := rfl
@[simp] theorem State.heldSigs_modHost : (s.modHost f).heldSigs = s.heldSigs := rfl
@[simp] theorem State.slices_modHost : (s.modHost f).slices = s.slices := rfl
@[simp] theorem State.hbm_modHost : (s.modHost f).hbm = s.hbm := rfl
@[simp] theorem State.hbmMark_modHost : (s.modHost f).hbmMark = s.hbmMark := rfl
@[simp] theorem State.hbmGen_modHost : (s.modHost f).hbmGen = s.hbmGen := rfl
@[simp] theorem State.splits_modHost : (s.modHost f).splits = s.splits := rfl
@[simp] theorem State.laneHits_modHost : (s.modHost f).laneHits = s.laneHits := rfl
@[simp] theorem State.ueHits_modHost : (s.modHost f).ueHits = s.ueHits := rfl
@[simp] theorem State.selfRef_modHost : (s.modHost f).selfRef = s.selfRef := rfl
@[simp] theorem State.badPos_modHost : (s.modHost f).badPos = s.badPos := rfl
@[simp] theorem State.newFails_modHost : (s.modHost f).newFails = s.newFails := rfl
@[simp] theorem State.bypass_modHost : (s.modHost f).bypass = s.bypass := rfl
@[simp] theorem State.caps_modHost : (s.modHost f).caps = s.caps := rfl
@[simp] theorem State.lat_modHost : (s.modHost f).lat = s.lat := rfl
@[simp] theorem State.credits_modHost : (s.modHost f).credits = s.credits := rfl
@[simp] theorem State.turns_modHost : (s.modHost f).turns = s.turns := rfl
@[simp] theorem State.acts_modHost : (s.modHost f).acts = s.acts := rfl
@[simp] theorem State.links_modHost : (s.modHost f).links = s.links := rfl
@[simp] theorem State.fab_modHost : (s.modHost f).fab = s.fab := rfl
@[simp] theorem State.trees_modHost : (s.modHost f).trees = s.trees := rfl
@[simp] theorem State.snaps_modHost : (s.modHost f).snaps = s.snaps := rfl
@[simp] theorem State.deck_modHost : (s.modHost f).deck = s.deck := rfl
@[simp] theorem State.bound_modHost : (s.modHost f).bound = s.bound := rfl
@[simp] theorem State.boot_modHost : (s.modHost f).boot = s.boot := rfl
@[simp] theorem State.fw_modHost : (s.modHost f).fw = s.fw := rfl
@[simp] theorem State.time_modHost : (s.modHost f).time = s.time := rfl
@[simp] theorem State.therm_modHost : (s.modHost f).therm = s.therm := rfl
@[simp] theorem State.power_modHost : (s.modHost f).power = s.power := rfl
@[simp] theorem State.keep_modHost : (s.modHost f).keep = s.keep := rfl
end

section
variable (q : Nat) (x : Queue)

@[simp] theorem State.pending_setQueue : (s.setQueue q x).pending = s.pending := rfl
@[simp] theorem State.variant_setQueue : (s.setQueue q x).variant = s.variant := rfl
@[simp] theorem State.regs_setQueue : (s.setQueue q x).regs = s.regs := rfl
@[simp] theorem State.counters_setQueue : (s.setQueue q x).counters = s.counters := rfl
@[simp] theorem State.freeCtr_setQueue : (s.setQueue q x).freeCtr = s.freeCtr := rfl
@[simp] theorem State.tiles_setQueue : (s.setQueue q x).tiles = s.tiles := rfl
@[simp] theorem State.reqs_setQueue : (s.setQueue q x).reqs = s.reqs := rfl
@[simp] theorem State.nextReq_setQueue : (s.setQueue q x).nextReq = s.nextReq := rfl
@[simp] theorem State.job_setQueue : (s.setQueue q x).job = s.job := rfl
@[simp] theorem State.pass_setQueue : (s.setQueue q x).pass = s.pass := rfl
@[simp] theorem State.epochCtr_setQueue : (s.setQueue q x).epochCtr = s.epochCtr := rfl
@[simp] theorem State.commitEpoch_setQueue : (s.setQueue q x).commitEpoch = s.commitEpoch := rfl
@[simp] theorem State.heldSigs_setQueue : (s.setQueue q x).heldSigs = s.heldSigs := rfl
@[simp] theorem State.slices_setQueue : (s.setQueue q x).slices = s.slices := rfl
@[simp] theorem State.hbm_setQueue : (s.setQueue q x).hbm = s.hbm := rfl
@[simp] theorem State.hbmMark_setQueue : (s.setQueue q x).hbmMark = s.hbmMark := rfl
@[simp] theorem State.hbmGen_setQueue : (s.setQueue q x).hbmGen = s.hbmGen := rfl
@[simp] theorem State.splits_setQueue : (s.setQueue q x).splits = s.splits := rfl
@[simp] theorem State.laneHits_setQueue : (s.setQueue q x).laneHits = s.laneHits := rfl
@[simp] theorem State.ueHits_setQueue : (s.setQueue q x).ueHits = s.ueHits := rfl
@[simp] theorem State.selfRef_setQueue : (s.setQueue q x).selfRef = s.selfRef := rfl
@[simp] theorem State.badPos_setQueue : (s.setQueue q x).badPos = s.badPos := rfl
@[simp] theorem State.newFails_setQueue : (s.setQueue q x).newFails = s.newFails := rfl
@[simp] theorem State.bypass_setQueue : (s.setQueue q x).bypass = s.bypass := rfl
@[simp] theorem State.caps_setQueue : (s.setQueue q x).caps = s.caps := rfl
@[simp] theorem State.lat_setQueue : (s.setQueue q x).lat = s.lat := rfl
@[simp] theorem State.credits_setQueue : (s.setQueue q x).credits = s.credits := rfl
@[simp] theorem State.turns_setQueue : (s.setQueue q x).turns = s.turns := rfl
@[simp] theorem State.acts_setQueue : (s.setQueue q x).acts = s.acts := rfl
@[simp] theorem State.links_setQueue : (s.setQueue q x).links = s.links := rfl
@[simp] theorem State.fab_setQueue : (s.setQueue q x).fab = s.fab := rfl
@[simp] theorem State.trees_setQueue : (s.setQueue q x).trees = s.trees := rfl
@[simp] theorem State.snaps_setQueue : (s.setQueue q x).snaps = s.snaps := rfl
@[simp] theorem State.deck_setQueue : (s.setQueue q x).deck = s.deck := rfl
@[simp] theorem State.bound_setQueue : (s.setQueue q x).bound = s.bound := rfl
@[simp] theorem State.boot_setQueue : (s.setQueue q x).boot = s.boot := rfl
@[simp] theorem State.fw_setQueue : (s.setQueue q x).fw = s.fw := rfl
@[simp] theorem State.time_setQueue : (s.setQueue q x).time = s.time := rfl
@[simp] theorem State.therm_setQueue : (s.setQueue q x).therm = s.therm := rfl
@[simp] theorem State.power_setQueue : (s.setQueue q x).power = s.power := rfl
@[simp] theorem State.keep_setQueue : (s.setQueue q x).keep = s.keep := rfl
end

end Sys2Proof.Machine
end

