-- ==== Sys2Proof/Tests/Slice0.lean ====
section
/-! SUPPORT. Tests: the well-formedness check refuses ill-formed commands; every statement's hypotheses are met by a state given here; small
steps give what the spec gives (the rule stands at each test). -/

namespace Sys2Proof.Tests

open Sys2Proof Machine

set_option Elab.async false

/-! ## States -/

/-- A powered module after S12, its host link up, its ID 5, its compute and link partitions in service, queues 0 and 1 running. -/
def up : State :=
  let s := State.reset.wrs [(F.bootStatusStep, 12), (F.bootStatusState, 2), (F.bootStatusResult, 1), (F.bootStatusDoneUpto, 12),
    (F.bootStatusDoneValid, 1), (F.bootStatusReady, 1), (F.bootPartCompute, 1), (F.bootPartLink, 1)]
  let s := (List.range 8).foldl (fun s p => s.wrs [(F.portSelfModuleId p, 5), (F.portSelfValid p, 1), (F.pwrmBayGated p, 0)]) s
  let s := [0, 1].foldl (fun s q => (s.wrs [(F.cmdqQcfgEnable q, 1), (F.cmdqQcfgLog2Size q, 4), (F.cmdqSqBaseAddr q, 1 + q),
    (F.cmdqCqBaseAddr q, 3 + q), (F.cmdqQcfgVector q, 7)]).setQueue q { Queue.reset with run := true, out := 1 }) s
  { s with power := { s.power with enLoop := true, powered := true }, host := { s.host with linkUp := true, sessions := [(1, [1])] } }

/-- Tile 0 runs, with an instruction region of 256 bytes at 0 and a buffer region behind it, and this bundle at its pc 0. -/
def onTile (b : List Byte) : State :=
  let s := up.wrs [(F.tileStatState 0, stRun), (F.tileCtrlRun 0, 1), (F.tileSpdPartKind 0 0, kInstr), (F.tileSpdPartLenM1 0 0, 0),
    (F.tileSpdPartKind 0 1, kBuffer), (F.tileSpdPartBase 0 1, 1), (F.tileSpdPartLenM1 0 1, 1022)]
  s.modTile 0 fun x => (x.putWord 0 (b.take 8) false).putWord 1 (b.drop 8) false

/-- The 16 bytes of a bundle from its slots' bits (R105 to R108): matrix, fetch, vector, scalar. -/
def bundle (m f v s : Nat) : List Byte := leBytes 16 (m + f * 2 ^ 16 + v * 2 ^ 40 + s * 2 ^ 88)

/-- A scalar slot (R108). -/
def sSlot (op sd sa sb imm : Nat) : Nat := op + sd * 2 ^ 7 + sa * 2 ^ 12 + sb * 2 ^ 17 + imm * 2 ^ 22

/-- A command on queue 1 with this job handle and its words 1 to 3. -/
def cmd (job : Nat) (w1 w2 w3 : Nat) : Entry :=
  { sq := 1, fence := false, noIrq := false, rsv := 0, cmdId := 9, job := job, w1 := BitVec.ofNat 64 w1, w2 := BitVec.ofNat 64 w2, w3 := BitVec.ofNat 64 w3,
    w4 := 0, w5 := 0, w6 := 0, w7 := 0, inp := ⟨none, true, false, []⟩ }

/-- The same on the admin queue. -/
def admin (w1 w2 w3 : Nat) : Entry := { cmd 0 w1 w2 w3 with sq := 0 }

/-- The offsets of the windows' and the slices' registers. -/
def winOrSlice (a : Nat) : Bool :=
  (decide (0x10000 ≤ a) && decide (a < 0x18000)) || (decide (0x80000 ≤ a) && decide (a < 0x100000))

theorem wos_iff {a : Nat} : winOrSlice a = true ↔ 0x10000 ≤ a ∧ a < 0x18000 ∨ 0x80000 ≤ a ∧ a < 0x100000 := by
  simp only [winOrSlice, Bool.or_eq_true, Bool.and_eq_true, decide_eq_true_eq]

theorem families_low : (regDefs.all fun d => decide (d.reset % 4 = 0) ||
    ((decide (0x18000 ≤ d.base + d.off) || decide (d.base + d.off + d.stride * (d.insts - 1) + d.step * (d.count - 1) < 0x10000)) &&
     (decide (0x100000 ≤ d.base + d.off) || decide (d.base + d.off + d.stride * (d.insts - 1) + d.step * (d.count - 1) < 0x80000)))) = true := by decide +kernel

/-- Nothing has written it, and it is none of a slice's first two registers, whose reset depends on the part. -/
theorem reset_low (v : Variant) (a : Nat) (ha : winOrSlice a = true) (hp : a < 0x80000 ∨ 16 ≤ (a - 0x80000) % 0x400) : (regReset v a).toNat % 4 = 0 := by
  rw [wos_iff] at ha
  have hb : buildBits v a % 4 = 0 := by
    have h1 : ¬(0x18000 ≤ a ∧ a < 0x20000 ∧ (a - 0x18000) % 0x400 = 0) := by omega
    have h2 : ¬(0x80000 ≤ a ∧ a < 0x100000 ∧ (a - 0x80000) % 0x400 = 0) := by omega
    have h3 : ¬(0x80000 ≤ a ∧ a < 0x100000 ∧ (a - 0x80000) % 0x400 = 8) := by omega
    have h4 : ¬(0x200000 ≤ a ∧ a < 0x300000 ∧ (a - 0x200000) % 0x20000 = 8) := by omega
    have h5 : ¬(0x8100 ≤ a ∧ a < 0x81C0) := by omega
    unfold buildBits
    rw [if_neg h1, if_neg h2, if_neg h3, if_neg h4, if_neg h5]
  unfold regReset
  split
  · rename_i d hd
    have h1 := List.mem_of_find?_eq_some hd
    have h2 := List.find?_some hd
    have h3 := List.all_eq_true.mp families_low d h1
    simp only [RegDef.covers, Bool.and_eq_true, decide_eq_true_eq] at h2
    simp only [Bool.or_eq_true, Bool.and_eq_true, decide_eq_true_eq] at h3
    have h4 : d.reset % 4 = 0 := by omega
    rw [BitVec.toNat_ofNat]
    omega
  · rfl

/-- Two low bits of a window's or slice's register that nothing has written. -/
theorem untouched_low {s : State} (hs : (s.regs.all fun p => !winOrSlice p.1) = true) (a lo : Nat) (hl : lo = 0) (ha : winOrSlice a = true)
    (hp : a < 0x80000 ∨ 16 ≤ (a - 0x80000) % 0x400) : s.rd ⟨a, lo, 2⟩ = 0 := by
  subst hl
  have key : ∀ m : List (Nat × W64), (m.all fun p => !winOrSlice p.1) = true → tget (regReset s.variant) m a = regReset s.variant a := by
    intro m
    induction m with
    | nil => intro _; rfl
    | cons p t ih =>
      intro h
      simp only [List.all_cons, Bool.and_eq_true, Bool.not_eq_true'] at h
      have : a ≠ p.1 := fun e => by rw [e, h.1] at ha; cases ha
      rw [tget_cons, if_neg this, ih h.2]
  have h1 := reset_low s.variant a ha hp
  simp only [State.rd, State.reg, key _ hs, bf]
  omega

theorem no_windows {s : State} (hs : (s.regs.all fun p => !winOrSlice p.1) = true) (w : Nat) (h : w < 1024) : s.rd (F.winCtrlState w) = 0 :=
  untouched_low hs (R.winCtrl w) _ rfl (wos_iff.mpr (by unfold R.winCtrl; omega)) (by unfold R.winCtrl; omega)

theorem no_winOver {s : State} (hs : (s.regs.all fun p => !winOrSlice p.1) = true) (a n : Nat) : s.winOver a n = false := by
  simp only [State.winOver, List.any_eq_false, List.mem_range]
  intro w hw
  simp [no_windows hs w hw]

theorem no_entries {s : State} (hs : (s.regs.all fun p => !winOrSlice p.1) = true) (m e : Nat) (st : List Nat) (h0 : st.contains 0 = false) :
    s.marksLeft m e st = false := by
  have he : ∀ k ∈ entries, 1 ≤ k ∧ k ≤ 15 := by decide
  simp only [State.marksLeft, List.any_eq_false, List.mem_range]
  intro n hn
  have : s.entryOf n m e st = none := by
    simp only [State.entryOf, List.find?_eq_none]
    intro k hk
    have hk := he k hk
    have : s.rd (etState n k) = 0 := untouched_low hs (R.sliceEtab n (k - 1)) _ rfl (wos_iff.mpr (by unfold R.sliceEtab; omega)) (by unfold R.sliceEtab; omega)
    rw [this, h0]; simp
  simp [this]

theorem no_winUse {s : State} (hs : (s.regs.all fun p => !winOrSlice p.1) = true) : ((List.range 1024).any fun w => decide (s.rd (F.winCtrlState w) = 1)) = false := by
  simp only [List.any_eq_false, List.mem_range]
  intro w hw
  simp [no_windows hs w hw]

/-! ## Scalar slot -/

/-- A scalar slot alone on tile 0, its operands s31 and s0, imm at its greatest: the turns of ScalarArithmetic. -/
def wScalarArithmetic : List Bool :=
  ((List.range 11).map fun k => ((onTile (bundle 0 0 0 (sSlot (k + 1) 31 31 31 0))).slotTurn 0 3 [] (isRRR (k + 1) 31 31 31)).isSome)
    ++ [((onTile (bundle 0 0 0 (sSlot 12 0 31 0 0x3FFFF))).slotTurn 0 3 [] (isRRI 12 0 31 0x3FFFF)).isSome,
        ((onTile (bundle 0 0 0 (sSlot 13 31 0 0 0x20000))).slotTurn 0 3 [] (isRRI 13 31 0 0x20000)).isSome,
        ((onTile (bundle 0 0 0 (sSlot 14 31 0 0 0x3FFFF))).slotTurn 0 3 [] fun b => decide (b.sOp = 14) && decide (b.sd = 31) && decide (b.imm = 0x3FFFF)).isSome]

theorem wit_ScalarArithmetic : wScalarArithmetic.all id = true := by decide +kernel

/-- LW without poison, LW of a poisoned word, SW at the last place of the buffer region. -/
def wScalarMemory : List Bool :=
  let lw := onTile (bundle 0 0 0 (sSlot 15 4 0 0 0x104))
  let bad := lw.modTile 0 fun x => x.putWord 0x20 (leBytes 8 7) true
  [(lw.slotTurn 0 3 [] (isRRI 15 4 0 0x104)).any fun x => !anyPois (x.1.spdRead 0 0x104 4 0 []).2,
   (bad.slotTurn 0 3 [] (isRRI 15 4 0 0x104)).any fun x => anyPois (x.1.spdRead 0 0x104 4 0 []).2,
   ((onTile (bundle 0 0 0 (sSlot 16 0 0 31 0x1FFFC))).slotTurn 0 3 [] fun b => decide (b.sOp = 16) && decide (b.sa = 0) && decide (b.sb = 31)
     && decide (b.imm = 0x1FFFC)).isSome]

theorem wit_ScalarMemory : wScalarMemory.all id = true := by decide +kernel

/-- A branch of each kind, LOOP, WAIT, CSRR, the three CSRW, and END with an empty and with a full scoreboard. -/
def wScalarControl : List Bool :=
  let go (op sd sa imm : Nat) : State := onTile (bundle 0 0 0 (sSlot op sd sa 0 imm))
  let turn (op sa imm : Nat) (i : Imm) : Bool := ((go op 0 sa imm).slotTurn 0 3 [] fun b => isI op i b && decide (b.sa = sa)).isSome
  let sb (s : State) : State := s.modTile 0 fun x => { x with sb := [⟨0x400, 63, 1, 1, 0, 0, 0⟩] }
  [turn 17 0 3 3, turn 18 31 0x3FFFF 0x3FFFF, ((go 19 0 0 2).slotTurn 0 3 [] (isI 19 2)).isSome, turn 20 0 1 1,
   ((go 21 0 0 0).slotTurn 0 3 [] (isI 21 0)).isSome, ((go 22 31 0 0x30).slotTurn 0 3 [] fun b => isI 22 0x30 b && decide (b.sd = 31)).isSome,
   turn 23 0 0x120 0x120, turn 23 31 0x128 0x128, turn 23 31 0x130 0x130,
   ((go 24 0 0 0).slotTurn 0 3 [] fun b => decide (b.sOp = 24)).any fun u =>
     let w := (u.1.setTile 0 { u.1.tile 0 with ended := true }).slotDone 0 3 ((go 24 0 0 0).bundle 0)
     (w.tile 0).sb.isEmpty && w.running 0 && (w.tile 0).ended,
   ((sb (go 24 0 0 0)).slotTurn 0 3 [] fun b => decide (b.sOp = 24)).any fun u =>
     let w := (u.1.setTile 0 { u.1.tile 0 with ended := true }).slotDone 0 3 ((go 24 0 0 0).bundle 0)
     !(w.tile 0).sb.isEmpty]

theorem wit_ScalarControl : wScalarControl.all id = true := by decide +kernel

/-- ADD alone in its bundle, ADD before a vector slot's turn is over, in a loop body's last bundle with two and one iterations left, in a bundle
with a taken branch. -/
def wBundleEnd : List Bool :=
  let s := onTile (bundle 0 0 0 (sSlot 1 1 2 3 0))
  let is := isRRR 1 1 2 3
  let marked (s : State) : Option (TileSt × Option Nat) := (s.slotTurn 0 3 [] is).map fun u =>
    let w := u.1.setS 0 1 ((u.1.tile 0).sreg 2 + (u.1.tile 0).sreg 3)
    let m := { w.tile 0 with done := (w.tile 0).done + 8 }
    (m, m.nextSlot (s.bundle 0))
  let lp (s : State) (l : LoopLvl) : State := s.modTile 0 fun x => { x with loops := [l] }
  let run (s : State) : Bool := s.rd (F.tileStatState 0) ≠ stHalt
  let plain (m : Option (TileSt × Option Nat)) (p : TileSt → Bool) : Bool := m.any fun x => x.2.isNone && x.1.branch.isNone && p x.1
  [run s, plain (marked s) fun m => m.loops.isEmpty, plain (marked (lp s ⟨0, 16, 2⟩)) fun m => m.pc ≠ 16,
   plain (marked (lp s ⟨0, 0, 2⟩)) fun m => m.pc = 0, plain (marked (lp s ⟨0, 0, 1⟩)) fun m => m.pc = 0,
   (marked (s.modTile 0 fun x => { x with branch := some 48, done := 7 })).any fun x => x.2.isNone && x.1.branch = some 48]

theorem wit_BundleEnd : wBundleEnd.all id = true := by decide +kernel

/-! ## Vector slot -/

/-- A vector slot in the compute form (R107) alone on tile 0. -/
def onVC (op vd va vb vc m typ : Nat) : State :=
  onTile (bundle 0 0 (op + vd * 2 ^ 6 + va * 2 ^ 10 + vb * 2 ^ 14 + vc * 2 ^ 18 + typ * 2 ^ 22 + m * 2 ^ 28) 0)

/-- Its turn, with the operands that the slot names. -/
def vTurn (op vd va vb vc m typ : Nat) : Option (State × VC) :=
  let s := onVC op vd va vb vc m typ
  let v := (s.bundle 0).vc
  (s.slotTurn 0 2 [] (isVC op v)).map fun u => (u.1, v)

/-- Every operation of VectorArithmetic with every type it allows: a register its own source, and every mask register. -/
def wVectorArithmetic : List Bool :=
  let float := [1, 2, 3, 5, 6].flatMap fun op => [0, 1].map fun ty => (vTurn op 15 15 0 0 3 ty).any fun r => decide (r.2.typ.toNat < 2)
  let int := [1, 2, 3, 5, 6].map fun op => (vTurn op 0 1 15 0 0 2).any fun r => decide (2 ≤ r.2.typ.toNat)
  float ++ [(vTurn 4 1 2 3 4 0 0).isSome, (vTurn 4 1 2 3 1 0 1).isSome] ++ int ++ [7, 8, 9, 10, 11, 12].map fun op => (vTurn op 7 7 7 0 1 2).isSome

theorem wit_VectorArithmetic : wVectorArithmetic.all id = true := by decide +kernel

/-- The compares with every type, into the last mask register, and VSEL. -/
def wVectorCompare : List Bool :=
  ([13, 14, 15].flatMap fun op => [0, 1, 2].map fun ty => (vTurn op 3 1 2 0 3 ty).isSome) ++ [(vTurn 16 15 1 2 0 2 0).isSome]

theorem wit_VectorCompare : wVectorCompare.all id = true := by decide +kernel

/-- The special functions and conversions; VMXP into each element size, its blocks of 32 elements. -/
def wVectorConvert : List Bool :=
  ([17, 18, 19, 20, 21, 22, 23, 24].map fun op => (vTurn op 2 1 3 0 1 0).isSome)
    ++ [2, 6].map fun f => (vTurn 25 2 1 f 0 0 0).any fun r =>
      let blk (k : Nat) := mxPack f ((List.range 32).map fun _ => Round.rne)
        ((List.range 32).map fun i => fmtFp32.decode ((r.1.tile 0).lane 1 (32 * k + i)).toNat)
      decide ((blk 0).2.length = 32) && decide ((blk 1).2.length = 32)

theorem wit_VectorConvert : wVectorConvert.all id = true := by decide +kernel

/-- VRSUM of floating and of INT32 lanes, VBCS, VMOVS. -/
def wVectorReduce : List Bool :=
  [(vTurn 26 2 1 0 0 0 0).isSome, (vTurn 26 2 2 0 0 3 2).any fun r => decide (2 ≤ r.2.typ.toNat), (vTurn 27 15 15 1 0 0 2).isSome,
   (vTurn 28 15 15 3 15 0 1).isSome]

theorem wit_VectorReduce : wVectorReduce.all id = true := by decide +kernel

/-- The memory form (R107): VLD and VLDW with and without a poisoned word, VST and VSTN. -/
def wVectorMemory : List Bool :=
  let st (op nf : Nat) : State := onTile (bundle 0 0 (op + 3 * 2 ^ 6 + 0 * 2 ^ 10 + 32 * 2 ^ 15 + 1 * 2 ^ 30 + nf * 2 ^ 32) 0)
  let bad (s : State) : State := s.modTile 0 fun x => x.putWord 0x20 (leBytes 8 1) true
  let go (s : State) (op : Nat) (p : State → Bool) : Bool := (s.slotTurn 0 2 [] (isVM op (s.bundle 0).vm)).any fun u => p u.1
  let clean (n : Nat) (u : State) : Bool := !anyPois (u.spdRead 0 0x100 n 0 []).2
  [go (st 32 0) 32 (clean 256), go (bad (st 32 0)) 32 fun u => !clean 256 u, go (st 34 1) 34 (clean 128), go (bad (st 34 2)) 34 fun u => !clean 64 u,
   go (st 33 0) 33 fun _ => true, go (st 35 0) 35 fun _ => true, go (st 35 2) 35 fun _ => true]

theorem wit_VectorMemory : wVectorMemory.all id = true := by decide +kernel

/-! ## Array, engines, faults, upkeep -/

/-- An INT8 sequence of one step pair and one block (R66): A at 0x1000, B at 0x2000, C at 0x8000. -/
def seqDesc : List W64 :=
  [BitVec.ofNat 64 (10 + 10 * 2 ^ 4 + 2 ^ 12 + 2 ^ 24 + 2 ^ 32), BitVec.ofNat 64 (0x1000 + 256 * 2 ^ 18 + 256 * 2 ^ 36),
   BitVec.ofNat 64 (0x2000 + 256 * 2 ^ 18 + 256 * 2 ^ 36), BitVec.ofNat 64 (0x8000 + 64 * 2 ^ 18 + 64 * 2 ^ 36), 512, 0, 0, 0]

/-- A chain head of one descriptor and 64 bytes to read at 0x1000 (R183). -/
def headDesc : List W64 := [BitVec.ofNat 64 (1 + 2 ^ 8 + 0x1000 * 2 ^ 16 + 63 * 2 ^ 34), 0, 0, 0, 0, 0, 0, 0]

/-- Words in a tile's scratchpad from a word on. -/
def putWords (s : State) (t w : Nat) (ws : List W64) : State :=
  s.modTile t fun x => (ws.zip (List.range ws.length)).foldl (fun x p => x.putWord (w + p.2) (leBytes 8 p.1.toNat) false) x

/-- A bundle that starts the sequence at 0x100, and one that starts the chain at 0x40 on engine 0, with their units idle or busy, the chain also
where the tile has halted since and during a discard; a FENCE. -/
def wUnitStarts : List Bool :=
  let m := putWords (onTile (bundle (1 + 4 * 4) 0 0 0)) 0 32 seqDesc
  let f := putWords (onTile (bundle 0 (1 + 1 * 2 ^ 4) 0 0)) 0 8 headDesc
  let q : Seq := ⟨seqDesc, 0, 0, 0, 0⟩
  let run (s : State) : State := s.modTile 0 fun x => { x with mtx := { x.mtx with running := some q }, fe0 := ⟨some ⟨0, 0, 1, false, false, 0, 0, 0, 0, 0, false, 0, [], 0, 0, 0, false, false, false, false, false, 0⟩, none⟩ }
  let part (s : State) : State := s.modTile 0 fun x => { x with done := 16, headWords := some headDesc }
  let go0 (s : State) (p : TileSt → Bool) : Bool := (s.slotTurn 0 0 [] (·.mGo)).any fun u => u.2.1.isSome && p (u.1.tile 0)
  let go1 (s : State) (p : TileSt → Bool) : Bool := (s.slotTurn 0 1 [] (·.fStart)).any fun u => u.2.2.isSome && p (u.1.tile 0)
  [go0 m fun x => x.mtx.running.isNone, go0 (run m) fun x => x.mtx.running.isSome, go1 f fun x => (x.engine 0).running.isNone,
   go1 (run f) fun x => (x.engine 0).running.isSome,
   ((((part f).wr (F.tileStatState 0) stHalt).slotTurn 0 1 [] (·.fStart)).any fun u => u.2.2.isSome && decide (u.1.rd (F.tileStatState 0) = stHalt)),
   ((((part (run f)).wr F.keepPassStatState 3).slotTurn 0 1 [] (·.fStart)).any fun u => u.2.2.isSome && decide (u.1.rd F.keepPassStatState = 3)),
   ((onTile (bundle 0 (1 + 2 * 2 ^ 2) 0 0)).slotTurn 0 1 [] fun b => b.fGo && decide (b.fOp = 2)).isSome]

theorem wit_UnitStarts : wUnitStarts.all id = true := by decide +kernel

/-- A running sequence with a further column block, one while two blocks drain and the older is at its last two rows, one a further row block, and at its last block; a poisoned operand; a row that passes,
one that is unchecked, one that fails; a row to write whole. -/
def wMatrixBlocks : List Bool :=
  let at_ (n m nb mb : Nat) : State := (onTile (bundle 0 0 0 0)).modTile 0 fun x => { x with mtx := { x.mtx with
    running := some ⟨BitVec.ofNat 64 (10 + 10 * 2 ^ 4 + 2 ^ 12 + n * 2 ^ 24 + m * 2 ^ 32) :: seqDesc.drop 1, 0, mb, nb, 0⟩ } }
  let ok (s : State) (p : Seq → Bool) : Bool := match (s.tile 0).mtx.running with
    | some q => !(s.tile 0).mtx.halted && !(s.tile 0).mtx.full && (match s.blockIn 0 q.desc q.mb q.nb [] with
        | (_, _, none) => true | _ => false) && p q
    | none => false
  let two (k : Nat) : State := (at_ 2 1 0 0).modTile 0 fun x => { x with mtx := { x.mtx with
    blocks := [⟨seqDesc, 0, 0, 0, 0, 0, List.replicate k (List.replicate 17 0)⟩, ⟨seqDesc, 0, 0, 1, 1, 0, List.replicate 8 (List.replicate 17 0)⟩] } }
  let poisoned : State := (at_ 1 1 0 0).modTile 0 fun x => x.putWord 0x200 (leBytes 8 0) true
  let rows : List (List W32) := List.replicate 8 (List.replicate 17 0)
  let dr (en : Nat) : State := ((onTile (bundle 0 0 0 0)).wr (F.tileTallyTolEnable 0) en).modTile 0 fun x =>
    { x with mtx := { x.mtx with blocks := [⟨seqDesc, 0, 0, 0, 0, 0, rows⟩] } }
  let fails (s : State) (upset : List W32) : Bool := match (s.tile 0).mtx.blocks with
    | b :: _ =>
      let row := (List.range 17).map fun i => ((b.rows.getD 7 []).getD i 0) ^^^ (upset.getD i 0)
      tallyCheck (decide (fmtClass (sqAFmt b.desc) = 5)) (relShift (s.rd (F.tileTallyTolRelShift 0))) (s.rd (F.tileTallyTolFloorExp 0)) (row.take 16)
        (row.getD 16 0) = .fail
    | [] => false
  [ok (at_ 2 1 0 0) fun q => q.nb + 1 < sqN q.desc, ok (two 2) fun q => q.nb + 1 < sqN q.desc, ((two 3).tile 0).mtx.full,
   decide (((at_ 2 1 0 0).tile 0).mtx.blocks.length < 2), ((two 2).tile 0).mtx.blocks.any fun b => decide (b.rows.length ≤ 2), ok (at_ 1 2 0 0) fun q => sqN q.desc ≤ q.nb + 1 ∧ q.mb + 1 < sqM q.desc,
   ok (at_ 1 1 0 0) fun q => sqN q.desc ≤ q.nb + 1 ∧ sqM q.desc ≤ q.mb + 1,
   (poisoned.tile 0).mtx.running.any (fun q => !(poisoned.tile 0).mtx.halted && !(poisoned.tile 0).mtx.full && match poisoned.blockIn 0 q.desc q.mb q.nb [] with
     | (_, _, some e) => decide (e.cause = cPOISON) | _ => false), !fails (dr 1) [], !(dr 0).on (F.tileTallyTolEnable 0),
   (dr 1).on (F.tileTallyTolEnable 0) && fails (dr 1) [1], !sqAdd seqDesc, !(dr 1).on (F.tileTallyLogValid 0)]

theorem wit_MatrixBlocks : wMatrixBlocks.all id = true := by decide +kernel

/-- A bundle with a reserved scalar opcode; LW held by a write of the array, LW out of its region; a tile without and with a recorded fault. -/
def wBundleFaults : List Bool :=
  let bad := onTile (bundle 0 0 0 (sSlot 127 0 0 0 0))
  let lw := (onTile (bundle 0 0 0 (sSlot 15 4 0 0 0x200))).modTile 0 fun x => { x with sb := [⟨0x200, 63, 2, 0, 0, 4, 0⟩] }
  let out := onTile (bundle 0 0 0 (sSlot 15 4 0 0 0x201))
  let ready (s : State) : Bool := decide ((s.tile 0).done = 0) && s.canIssue 0 && (s.fetchFault 0 []).2.isNone
  let go (s : State) (p : Verdict → Bool) : Bool := ready s && (decodeFaults (s.tile 0) (s.bundle 0)).isEmpty && decide ((s.tile 0).nextSlot (s.bundle 0) = some 3) &&
    p ((s.fetchFault 0 []).1.verdict 0 (s.bundle 0) []).2
  [ready bad && !(decodeFaults (bad.tile 0) (bad.bundle 0)).isEmpty && (namedDescs (bad.tile 0) (bad.bundle 0)).isEmpty, isRRI 15 4 0 0x200 (lw.bundle 0), go lw fun | .hold _ => true | _ => false,
   isRRI 15 4 0 0x201 (out.bundle 0), go out fun | .fault _ _ => true | _ => false, !bad.on (F.tileFaultValid 0),
   (bad.wr (F.tileFaultValid 0) 1).on (F.tileFaultValid 0)]

theorem wit_BundleFaults : wBundleFaults.all id = true := by decide +kernel

/-- A command of a tile that changes its state. -/
def wTileFrame : List Bool :=
  [slotTile (.add 0 1 0 0 []) = some 0, slotTile (.rowDrain 25599 [] []) = some 25599,
   match exec (.add 0 1 0 0 []) (onTile (bundle 0 0 0 (sSlot 1 1 0 0 0))) with | .next _ => true | _ => false]

theorem wit_TileFrame : wTileFrame.all id = true := by decide +kernel

/-- The last tile at rest and in Halt, tile 0 running; ranges that end with the scratchpad; the compute partition in service. -/
def wTileControl : List Bool :=
  [decide (25599 < tileCount), (up.wr (F.tileStatState 25599) stHalt).rd (F.tileStatState 25599) = stHalt, !up.computeDown, up.rd (F.tileStatState 25599) ≠ stHalt, decide (1023 + 0 < 1024), decide (0 + 1023 < 1024), !up.running 25599,
   (onTile (bundle 0 0 0 0)).running 0]

theorem wit_TileControl : wTileControl.all id = true := by decide +kernel

/-- A gather entry; a fresh word, a clean live word, the last live word with the scrubber on; scoreboard entries that are done, of a running
tile, and of an engine that awaits a reply. -/
def wTileUpkeep : List Bool :=
  let s := (onTile (bundle 0 0 0 0)).modTile 0 fun x => { (x.putWord 32767 (leBytes 8 5) false) with gather := [⟨40, 1, 7, false, 3, 0⟩], sb := [⟨0x400, 7, 1, 0, 9, 0, 0⟩] }
  let e : SbEntry := ⟨0x400, 7, 1, 0, 9, 0, 0⟩
  let x := s.tile 0
  [x.gather[0]?.isSome, x.fresh 50, !x.fresh 32767, x.gather.all (fun g => decide (g.word ≠ 32767)), !x.bad 32767, (s.wr (F.tileSpdCtrlScrubEn 0) 1).on (F.tileSpdCtrlScrubEn 0), decide (8 * 32767 < spdSize),
   x.sb[0]? = some e, !s.entryBusy 0 e, s.running 0]

theorem wit_TileUpkeep : wTileUpkeep.all id = true := by decide +kernel

/-! ## Fetch -/

/-- The module with segment 0 of HBM mapped as Spread and every right on its first page and on the first page of the floor aperture. -/
def mapped : State :=
  let s := (List.range 8).foldl (fun s f => s.wr (F.floorHashKind f 0) 1) up
  (s.setRight 0 3).setRight 589824 3

/-- Tile 0 of that module with a chain on engine 0 whose one descriptor, at 0x80, is `d`; its extents are 0x1000 to 0x1FFF. -/
def fetching (d : List W64) : State :=
  let s := mapped.wrs [(F.tileStatState 0, stRun), (F.tileCtrlRun 0, 1), (F.tileSpdPartKind 0 0, kInstr), (F.tileSpdPartKind 0 1, kBuffer),
    (F.tileSpdPartBase 0 1, 1), (F.tileSpdPartLenM1 0 1, 1022), (F.tileIdWM1 0, 1)]
  let c : Chain := ⟨3, 0x40, 1, true, true, 0x1000, 4095, 0x1000, 4095, 0, false, 0, [], 0, 0xFF, 0, false, false, false, false, false, 0⟩
  (s.modTile 0 fun x => { (d.zip (List.range 8)).foldl (fun x p => x.putWord (16 + p.2) (leBytes 8 p.1.toNat) false) x with fe0 := ⟨some c, none⟩ })

/-- A descriptor (R187): op, flags of word 0, run, source, destination, remote window. -/
def fdesc (op flags run src dst win : Nat) : List W64 :=
  [BitVec.ofNat 64 (op + flags + (if op = 0 then 0 else 2 * 2 ^ 12) + run * 2 ^ 32), BitVec.ofNat 64 src, BitVec.ofNat 64 dst, 0, 0, 0, 0, BitVec.ofNat 64 win]

/-- Every operation in its turn: LOAD of 256 bytes, a near LOAD, STORE, FOLD, PULL, PUSH, SETFLAG, NOP. -/
def wFetchInModule : List Bool :=
  let go (op : Nat) (d : List W64) (p : List W64 → Bool) : Bool := ((fetching d).descTurn 0 0 [op] []).any fun x => p x.2.2.1
  [go 1 (fdesc 1 0 255 0 0x1000 0) fun d => !dNear d, go 1 (fdesc 1 (2 ^ 11) 255 0 0x1F00 0) fun d => dNear d, go 2 (fdesc 2 0 7 0x1000 0 0) fun _ => true,
   go 3 (fdesc 3 0 7 0x1FF8 0 0) fun _ => true, go 4 (fdesc 4 0 7 0x1000 0x1000 0) fun _ => true, go 5 (fdesc 5 0 7 0x1000 0x1000 0) fun _ => true,
   go 10 (fdesc 10 0 0 5 0 0) fun _ => true, ((fetching (fdesc 0 0 0 0 0 0)).descTurn 0 0 [0, 11, 12, 13, 14, 15] []).isSome]

theorem wit_FetchInModule : wFetchInModule.all id = true := by decide +kernel

/-- A SIGNAL's descriptor in a pass of the smallest part, whose slices of floor 0 are in this mode and have an Open entry of the pass, with these
lines. -/
def signalling (mode : Nat) (lines : List (Nat × Line)) : State :=
  let s := fetching (fdesc 8 0 0 5 8 6)
  let p : Pass := ⟨1, 2, cmd 1 1 2 0, false, none, false, 0, false, false, 0, none, none, false, false, [], [], 1, [], 0, [], false, false, 0⟩
  let tab := (List.range 32).flatMap fun n => [((F.sliceStatMode n).addr, BitVec.ofNat 64 mode), (R.sliceEtab n 0, BitVec.ofNat 64 (1 + 4 + 5 * 2 ^ 4))]
  { s with variant := .bt1608, pass := some p, regs := s.regs ++ tab, slices := (List.range 32).map fun n => (n, { SliceSt.reset with lines := lines }) }

/-- Its turn, and whether the slice `n` has a hold line with room. -/
def signalRoom (s : State) (n : Nat) : Option HoldAt :=
  (s.descTurn 0 0 [8] []).map fun x =>
    let u := x.1
    let sig := u.remPkt 0 0 x.2.2.1 pSIGNAL (dDst x.2.2.1) (pbOf 8 (dSrc x.2.2.1) false)
    let noted : State := { u with fab := { u.fab with dests := if sig.dst ≠ u.moduleId ∧ !u.fab.dests.contains sig.dst then u.fab.dests ++ [sig.dst] else u.fab.dests } }
    (noted.holdRoom n u.epoch (dCollar x.2.2.1)).2

/-- Every slice of floor 0 has a hold line; none has a way for one. -/
def roomy : State := signalling 0 [(5, ⟨.hold, 0, 64, 0, 1, 0, false, []⟩)]
def full : State := signalling 2 []

/-- Way 5 of set 0 takes the record; the quota is used up. -/
def gotWay (r : HoldAt) : Bool := decide (r = .at_ 0 5)
def noQuota (r : HoldAt) : Bool := decide (r = .none_ epQUOTA)

theorem holds_roomy : ((List.range 32).all fun n => (signalRoom roomy n).any gotWay) = true := by decide +kernel
theorem holds_full : ((List.range 32).all fun n => (signalRoom full n).any noQuota) = true := by decide +kernel

/-- Whichever slice holds the Signals of tile 0, it is one of these. -/
theorem holdAt_lt (s : State) (h : s.variant = .bt1608) : s.holdAt 0 < 32 := by
  have h0 : tileDie 0 = 0 := by decide
  have h2 := Nat.mod_lt (Config.holdSlice (160 * tileDie 0 + s.shaftSector 0)) (show 0 < s.variant.chansPerFloor by rw [h]; decide)
  have h1 : s.variant.chansPerFloor = 32 := by rw [h]; rfl
  unfold State.holdAt
  omega

/-- A SIGNAL's turn comes, and its record finds this. -/
theorem signal_turn (s : State) (p : HoldAt → Bool) (ht : ((s.descTurn 0 0 [8] []).any fun x => decide (x.1.variant = .bt1608) && x.1.pass.isSome) = true)
    (h : ((List.range 32).all fun n => (signalRoom s n).any p) = true) :
    ∃ x, s.descTurn 0 0 [8] [] = some x ∧ x.1.pass ≠ none ∧ ∃ r, signalRoom s (x.1.holdAt 0) = some r ∧ p r = true := by
  obtain ⟨x, hx, hv⟩ := (Option.any_eq_true _ _).mp ht
  simp only [Bool.and_eq_true, decide_eq_true_eq] at hv
  exact ⟨x, hx, Option.isSome_iff_ne_none.mp hv.2, (Option.any_eq_true _ _).mp
    (List.all_eq_true.mp h (x.1.holdAt 0) (List.mem_range.mpr (holdAt_lt _ hv.1)))⟩

theorem wit_FetchRemote_held : ∃ x, roomy.descTurn 0 0 [8] [] = some x ∧ x.1.pass ≠ none ∧ ∃ r, signalRoom roomy (x.1.holdAt 0) = some r ∧ gotWay r = true :=
  signal_turn roomy gotWay (by decide +kernel) holds_roomy

theorem wit_FetchRemote_quota : ∃ x, full.descTurn 0 0 [8] [] = some x ∧ x.1.pass ≠ none ∧ ∃ r, signalRoom full (x.1.holdAt 0) = some r ∧ noQuota r = true :=
  signal_turn full noQuota (by decide +kernel) holds_full

/-- The remote operations in their turn; SIGNAL outside a pass and within one. -/
def wFetchRemote : List Bool :=
  let go (s : State) (op : Nat) (p : State → Bool) : Bool := (s.descTurn 0 0 [op] []).any fun x => p x.1
  let sig := fetching (fdesc 8 0 0 5 8 6)
  [go (fetching (fdesc 6 0 7 0x1000 0 6)) 6 fun _ => true, go (fetching (fdesc 7 0 7 0x1000 0 6)) 7 fun _ => true, go sig 8 fun u => u.pass.isNone,
   go roomy 8 fun u => u.pass.isSome, go (fetching (fdesc 9 0 7 0 8 6)) 9 fun _ => true]

theorem wit_FetchRemote : wFetchRemote.all id = true := by decide +kernel

/-- A request of tile 0's engine 0 with number 0. -/
def reqOf (kind : ReqKind) (tgt addr : Nat) (segs : List Seg) (stage : Stage) : Req :=
  { id := 0, kind := kind, src := .tile 0 0, chain := 3, desc := 0, tgt := tgt, addr := addr, segs := segs, data := [], collar := 2, tag := 0, mod := 5, epoch := 0,
    etype := 0, lastUse := false, late := false, stage := stage, status := 0, zero := false, unprot := false, here := false, down := false, coll := false, time := 0 }

/-- A way without errors. -/
def calm : Transit := .clean

/-- Mesh requests at a region that allows them and at the instruction region; replies of each kind at their engine. -/
def wTileRequests : List Bool :=
  let s := fetching (fdesc 4 0 7 0x1000 0x1000 0)
  let put (r : Req) : State := { s with reqs := [r], nextReq := 1 }
  let at_ (r : Req) (allow : List Nat) (yes : Bool) : Bool := (put r).req 0 = some r && r.stage = .toTarget && (put r).meshNext r && !(put r).mapHeld &&
    !(put r).bayGated (bayOf r.tgt) && match (put r).meshPath r false calm with
      | (u, some q) => (q.segs.all fun g => u.spdAllowed q.tgt (q.addr + g.off) g.len allow) == yes
      | _ => false
  let back (r : Req) (p : Req → Bool) : Bool := (put r).req 0 = some r && r.stage = .reply && r.src = .tile 0 0 && (!r.kind.mesh || (put r).meshNext r) && match (put r).replyPath 0 calm r with
      | (_, some q) => p q
      | _ => false
  [at_ (reqOf .meshRead 0 0x1000 [⟨0, 0, 8⟩] .toTarget) meshRead true, at_ (reqOf .meshRead 0 0 [⟨0, 0, 8⟩] .toTarget) meshRead false,
   at_ (reqOf .meshWrite 0 0x3FFF8 [⟨0, 0, 8⟩] .toTarget) meshWriteK true, back (reqOf .memRead 0 0 [⟨0, 0, 8⟩] .reply) fun _ => true,
   back (reqOf .nearFill 0 0 [⟨0, 0, 8⟩] .reply) fun q => !q.late, back { reqOf .nearFill 0 0 [⟨0, 0, 8⟩] .reply with late := true } fun _ => true,
   back { reqOf .probe 0 0 [⟨0, 0, 256⟩] .reply with zero := true } fun q => q.zero, back { reqOf .probe 0 0 [⟨0, 0, 256⟩] .reply with status := 7 } fun q => q.status ≠ 0,
   back (reqOf .meshRead 0 0 [⟨0, 0, 8⟩] .reply) fun _ => true, back (reqOf .probe 0 0 [⟨0, 0, 256⟩] .reply) fun q => q.status = 0 && !q.zero]

theorem wit_TileRequests : wTileRequests.all id = true := by decide +kernel

/-! ## Slices -/

/-- A sector of words 7, valid and clean. -/
def sec7 : Sector := { Sector.none_ with valid := true, words := List.replicate 32 7 }

/-- Slice 0, set 0, way 0 holds line 0 as a cache line whose sector 0 is `c`; the request `r` stands there. -/
def slicing (c : Option Sector) (r : Req) : State :=
  let s := match c with
    | some c => mapped.modSlice 0 fun x => x.setLine 0 0 ⟨.cache, 0, 64, 1, 0, 0, false, [c]⟩
    | none => mapped
  { s with reqs := [r], nextReq := 1 }

/-- Its place. -/
def place0 : Loc := placeOf 0 0 0 0

/-- An access that meets nothing. -/
def quiet : SliceDec := .quiet

/-- Reads: a hit for a tile, for another module, and of committed contents only; the misses with a cached line and without one; a dead line with the
trap set; a read that waits with a weaker bid than another. -/
def wSliceRead : List Bool :=
  let r := reqOf .memRead 0 0 [⟨0, 0, 256⟩] .toTarget
  let at_ (s : State) (here : List Nat) (dec : SliceDec) (f : State → Req → Loc → Bool) : Bool := (s.sliceTurn 0 0 [.memRead, .nearFill] calm here).any fun x =>
    let v0 := x.1.mergeFlush 0 x.2.2.set x.2.2.line x.2.2.sector
    f ((if x.2.1.epoch ≠ 0 then v0.drainAt 0 x.2.2 dec else v0).metaCheck 0 x.2.2 dec) x.2.1 x.2.2
  let trap (v : State) (p : Loc) : Bool := (v.slice 0).dead.contains p.line && v.on (F.floorDbgDeadTrap 0)
  let hit (s : State) (dec : SliceDec) : Bool := at_ s [] dec fun v r p => match v.baseSec 0 p with
    | some (w, c) => c.valid && decide (((v.slice 0).line p.set w).kind ≠ .side) && (!r.committedOnly || c.etag = 0) && (c.fresh || dec.ue.all fun i => c.poison.contains i) &&
        (v.slice 0).fills.isEmpty && !trap v p
    | none => false
  let miss (s : State) : Bool := at_ s [] quiet fun v r p =>
    !(match v.baseSec 0 p with | some (_, c) => c.valid | none => false) && !(v.slice 0).dead.contains p.line && (v.slice 0).fills.isEmpty &&
      (((v.slice 0).find p.line).isSome || v.on (F.sliceStatRemoved 0) || decide ((v.allocate 0 p.set p.line (v.kennelOf r.addr) false r.collar []).2 ≠ .later))
  let dead := ((slicing (some sec7) r).wr (F.floorDbgDeadTrap 0) 1).modSlice 0 fun x => { x with dead := [0] }
  let two : State := { slicing (some sec7) r with reqs := [r, { reqOf .memRead 0 0 [⟨0, 0, 256⟩] .toTarget with id := 1, src := .tile 20 0, collar := 9 }], nextReq := 2 }
  [hit (slicing (some sec7) r) quiet, hit (slicing (some { sec7 with poison := [31] }) { r with lastUse := true, epoch := 3 }) { quiet with ce := [2], ue := [31] },
   hit (slicing (some sec7) { r with src := .peer 3 }) quiet, miss (slicing none r), miss (slicing (some Sector.none_) r), at_ dead [] quiet fun v r p => trap v p && r.src = .tile 0 0,
   at_ two [1] quiet fun v _ _ => ((two.enter 0 [1, 0]).req 1).any (fun q => q.here && v.inOrder 0 q)]

theorem wit_SliceRead : wSliceRead.all id = true := by decide +kernel

/-- A whole committed write, one under an Open entry, one of the last seven bytes of a word into the merge buffer; a probe. -/
def wSliceWrite : List Bool :=
  let whole (e : Nat) : Req := { reqOf .memWrite 0 0 [⟨0, 0, 256⟩] .toTarget with data := List.replicate 256 ⟨1, false⟩, epoch := e }
  let part : Req := { reqOf .memWrite 0 0 [⟨0, 249, 7⟩] .toTarget with data := List.replicate 7 ⟨1, false⟩ }
  let at_ (r : Req) (f : State → Req → Loc → Bool) : Bool := ((slicing (some sec7) r).sliceTurn 0 0 [.memWrite] calm []).any fun x =>
    f (x.1.decodeBase 0 x.2.2 5 quiet) x.2.1 x.2.2
  let clean (v : State) (p : Loc) : Bool := (v.baseSec 0 p).any fun y => y.2.valid && decide (y.2.etag = 0)
  [at_ (whole 0) fun v r p => clean v p && r.epoch = 0 && r.segs = [⟨0, 0, 256⟩] && r.data.length = 256,
   at_ (whole 9) fun v r p => match (v.drainAt 0 p quiet).takeEntry 0 r.mod r.epoch with
     | (y, some e) => clean y p && ((y.baseSec 0 p).any fun z => !z.2.dirty) && decide (e ≠ 0) && !p.expl && decide (r.epoch ≠ 0) && decide (y.stateLines 0 p.set < y.epochQuota 0)
     | _ => false,
   at_ part fun v r p => clean v p && r.epoch = 0 && r.segs = [⟨0, 249, 7⟩] && r.data.length = 7 && decide (249 / 8 = (249 + 7 - 1) / 8) && (v.slice 0).merge.isEmpty,
   ((slicing (some sec7) (reqOf .probe 0 0 [⟨0, 0, 256⟩] .toTarget)).sliceTurn 0 0 [.probe] calm []).isSome]

theorem wit_SliceWrite : wSliceWrite.all id = true := by decide +kernel

/-- A committed Fold, and one under an entry into a new side-line. -/
def wSliceFold : List Bool :=
  let fold (e : Nat) : Req := { reqOf .memFold 0 0 [⟨0, 8, 16⟩] .toTarget with data := List.replicate 16 ⟨1, false⟩, epoch := e }
  let at_ (r : Req) (f : State → Req → Loc → Bool) : Bool := ((slicing (some sec7) r).sliceTurn 0 0 [.memFold] calm []).any fun x =>
    f ((x.1.decodeBase 0 x.2.2 4 quiet).mergeFlush 0 x.2.2.set x.2.2.line x.2.2.sector) x.2.1 x.2.2
  [at_ (fold 0) fun v r p => (v.baseSec 0 p).any fun y => y.2.valid && decide (y.2.etag = 0) && decide (r.epoch = 0),
   at_ (fold 9) fun v r p => match (v.drainAt 0 p quiet).takeEntry 0 r.mod r.epoch with
     | (y, some e) => decide (r.epoch ≠ 0) && ((y.baseSec 0 p).all fun z => decide (z.2.etag = 0 ∨ z.2.etag = e)) && ((y.slice 0).sides p.set p.line).all (fun k => decide (k.1 ≠ e)) &&
         decide (y.stateLines 0 p.set < y.epochQuota 0) && (match (y.takeWay 0 p.set 64 false r.collar []).2 with | .way _ => true | _ => false)
     | _ => false]

theorem wit_SliceFold : wSliceFold.all id = true := by decide +kernel

/-- A fill without a requester and one for a tile's read, that allocate; a sector that waited for its correction; a merge entry of the last word;
a write-back with both copies awaited and with one. -/
def wSliceUpkeep : List Bool :=
  let r := reqOf .memRead 0 0 [⟨0, 0, 256⟩] .waitFill
  let fill (reqs : List Nat) : State := (slicing (some Sector.none_) r).modSlice 0 fun x => { x with fills := [⟨0, 0, 0, true, false, reqs, 0, 2, false, false⟩] }
  let okFill (s : State) : Bool := match s.fillTurn 0 0 [] .quiet with
    | some (_, f) => f.alloc && decide (f.line < 2 ^ 21) && decide (f.sector < 8) && ((s.slice 0).find f.line).any (fun w =>
        !(((s.slice 0).line (f.line % 768) w).sec false f.sector).valid) && (s.twinOf 0 f.line).isNone && !s.chanRetired 0
    | none => false
  let m : MergeEnt := ⟨0, 0, 0, 31, 0x80, List.replicate 8 1, false⟩
  let sm := (slicing (some sec7) r).modSlice 0 fun x => { x with merge := [m] }
  let wb (a b : Bool) : State := (slicing (some sec7) r).modSlice 0 fun x => { x with wbs := [⟨0, 0, 0, List.replicate 32 7, [], a, b, false, 2, 0⟩] }
  let rc := { r with stage := .waitCorr }
  [okFill (fill []), okFill (fill [0]) && (fill [0]).req 0 = some r && ((fill [0]).slice 0).sides 0 0 = [] && ((fill []).slice 0).streams.isEmpty, (slicing none rc).req 0 = some rc && rc.tgt = 0,
   (sm.slice 0).merge[0]? = some m && (sm.baseSec 0 place0).isSome, ((wb true true).slice 0).wbs[0]?.any fun w => w.waitA && w.waitB && !(wb true true).chanBusy 0,
   ((wb false true).slice 0).wbs[0]?.any fun w => w.waitB && !w.waitA && (((wb false true).baseSec 0 place0).any fun y => y.2.words = w.words && y.2.poison = w.poison && y.2.etag = 0)]

theorem wit_SliceUpkeep : wSliceUpkeep.all id = true := by decide +kernel

/-- Floor scrub of a clean, a dirty and an unharmed sector; HBM scrub past the populated rows, without errors, and with an uncorrectable word. -/
def wScrubs : List Bool :=
  let s (c : Sector) : State := (slicing (some c) (reqOf .memRead 0 0 [] .reply)).wr (F.floorScrubEnable 0) 1
  let ok (c : Sector) : Bool := (s c).on (F.floorScrubEnable 0) && (((s c).slice 0).line 0 0).sec false 0 = c && c.valid && !c.fresh && ((s c).slice 0).merge.isEmpty &&
    !decide (0 < (s c).explWays 0)
  let h := mapped.wrs [(F.hbmcScrubEnable 0, 1), (F.hbmcChStatState 0 0, 1)]
  [ok sec7, ok { sec7 with dirty := true }, decide (chanBytes ≤ 2048 * (chanBytes / 2048)), (h.twinOf 0 5).isNone, ((h.slice 0).find 5).isNone, h.slicePopulated 0,
   !h.selfRef.contains 0, h.on (F.hbmcScrubEnable 0), decide (h.rd (F.hbmcChStatState 0 0) = 1), decide (2048 * 5 < chanBytes), ((h.slice 0).wbs).isEmpty,
   (h.segOf 0 5).all fun g => !h.isMirror g]

theorem wit_Scrubs : wScrubs.all id = true := by decide +kernel

/-- The last entry Committed with one sector; Dropping with a cached sector, and with an explicit one that has its undo copy. -/
def wEpochSlices : List Bool :=
  let c := { sec7 with etag := 15 }
  let s (st : Nat) : State := (slicing (some c) (reqOf .memRead 0 0 [] .reply)).wr (etState 0 15) st
  let x := ((mapped.wrs [(F.sliceStatMode 0, 2), (F.sliceCfgMode 0, 2), (etState 0 15, etDROPPING)])).modSlice 0 fun y =>
    (y.setLine 0 0 ⟨.expl, 2 ^ 21, 64, 0, 0, 0, false, [c]⟩).setLine 0 1 ⟨.undo, 2 ^ 21, 64, 0, 0, 0, false, [sec7]⟩
  let one (s : State) (expl : Bool) : Bool := match s.entryPlaces 0 15 with
    | [p] => p.expl == expl && (s.baseSec 0 p).any (fun y => y.2.etag = 15 && !y.2.pendDrop) && ((s.slice 0).sides p.set p.line).isEmpty && (s.slice 0).merge.isEmpty
    | _ => false
  [decide ((s 2).rd (etState 0 15) = etCOMMITTED), (List.range 14).all fun k => decide ((s 2).rd (etState 0 (k + 1)) ≠ etCOMMITTED), one (s 2) false,
   !(s 2).on (F.sliceStatRemoved 0), !(s 2).chanBusy 0, decide ((s 3).rd (etState 0 15) = etDROPPING), one (s 3) false, decide (x.rd (etState 0 15) = etDROPPING), one x true,
   (x.slice 0).undo 0 0 = some 1 && !(((x.slice 0).line 0 1).sec false 0).fresh, [s 2, s 3, x].all fun s => twf (fun _ => Line.none_) (s.slice 0).lines]

theorem wit_EpochSlices : wEpochSlices.all id = true := by decide +kernel

/-- The last slice of a floor that is populated, the last window, the last entries of the tables; a way that changes its kind. -/
def wKeeperTables : List Bool :=
  [twf (fun _ => Line.none_) (up.slice 0).lines, up.pass.isNone, up.slicePopulated (64 * 7 + up.variant.chansPerFloor - 1), decide (64 * 7 + up.variant.chansPerFloor - 1 < 512),
   decide (11 < up.explWays 0) != decide (11 < modeWays 1 2), (regDefAt (R.floorHash 7 767)).isSome, (regDefAt (R.floorPerm 7 18623)).isSome,
   (regDefAt (R.portRoute (up.variant.portDies - 1) 4095)).isSome, decide (up.variant.portDies - 1 < up.variant.portDies), (0x06 : W64).toNat / 2 % 4 = 3, (0x07 : W64).getLsbD 0]

theorem wit_KeeperTables : wKeeperTables.all id = true := by decide +kernel

/-! ## Windows and bonds -/

/-- A packet for tile 0's window 0, from module 9. -/
def tilePkt : Packet :=
  { Packet.blank with typ := pDEPOSIT, collar := 2, dst := 5, src := 9, wkind := 1, winIdx := 0, gen := 3, offset := 8, tile := 0, data := List.replicate 8 7 }

/-- Tile 0 has its map entry and window 0 open over 256 bytes from 0x1000, for senders 9 to 9. -/
def windowed : State :=
  fetching [] |>.wrs [(F.tileWinState 0 0, 1), (F.tileWinGen 0 0, 3), (F.tileWinBase 0 0, 16), (F.tileWinSrcLo 0 0, 9), (F.tileWinSrcHi 0 0, 9), (F.tileWinOpDep 0 0, 1)]

/-- A packet that a tile window accepts, one that it refuses, one lost on the shaft; windows that close; a delayed open. -/
def wWindows : List Bool :=
  let s (p : Packet) : State := windowed.modFab fun f => { f with tilePkts := [(2, p)] }
  let bad := { tilePkt with offset := 256 }
  let turn (p : Packet) : Bool := (s p).fab.tilePkts[0]? = some (2, p) && (s p).tilePktNext 0 p && !(s p).mapHeld && (s p).tilePresent p.tile && !(s p).bayGated (bayOf p.tile)
  let path (p : Packet) (tr : Transit) : State × Option Packet := let o : State := { s p with fab := { (s p).fab with tilePkts := [] } }
    (o.toTile 2 p).pktPath p.tile 2 (o.linkBark 2) tr p
  let at_ (p : Packet) (st : Nat) : Bool := turn p && (path p calm).2.isSome && (path p calm).1.tileWinCheck p = st
  let c := up.wrs [(F.tileWinState 575 3, 2), (F.winCtrlState 1023, 2)]
  let e := cmd 0 1023 (up.variant.hbmBytes - 256) 0
  let d := up.modFab fun f => { f with winDelays := [⟨1023, some e⟩] }
  [at_ tilePkt rOK, at_ bad rWINDOW_BOUNDS, turn tilePkt && (path tilePkt { calm with lost := true }).2.isNone, c.rd (F.tileWinState 575 3) = 2, c.rd (F.winCtrlState 1023) = 2 && c.mwinQuiet 1023 && !c.host.retiring && decide (c.boot.linkPhase ≠ 1),
   let far := { tilePkt with tile := 25600 }; (s far).fab.tilePkts[0]? = some (2, far) && (s far).tilePktNext 0 far && !(s far).tilePresent 25600,
   d.fab.winDelays[0]? = some ⟨1023, some e⟩ && bf (parm e 1) 0 10 = 1023 && d.rd (F.winCtrlState 1023) = 0 &&
     decide (parm e 2 + 256 * (bf (parm e 3) 0 32 + 1) ≤ up.variant.hbmBytes) && parm e 2 % 256 = 0]

theorem wit_Windows : wWindows.all id = true := by decide +kernel

/-- The last die: a bond that passes, a first failure, a second in its group within a pass, the scan's last bond; a clock bond lost once and twice. -/
def wBonds : List Bool :=
  let b := scanBond 0
  let s := up.wr (F.deckBondScanEnable 7) 1
  let s1 : State := { s with deck := { s.deck with bonds := [⟨7, { b with bond := 3 }, 1, 0, 0⟩], clockLost := [(7, 159, true)] } }
  let at_ (s : State) (k : Nat) : State := { s with deck := { s.deck with scan := [(7, k)] } }
  let inPass (s : State) : State := { s with pass := some ⟨1, 2, cmd 1 1 2 0, false, none, false, 0, false, false, 0, none, none, false, false, [], [], 1, [], 0, [], false, false, 0⟩ }
  let known (s : State) (b : BondRef) : Bool := s.deck.bonds.any fun f => decide (f.die = 7) && sameGroup f.bond b && decide (f.bond.bond = b.bond)
  let used (s : State) (b : BondRef) : Bool := s.deck.bonds.any fun f => decide (f.die = 7) && sameGroup f.bond b
  let turn (s : State) (b : BondRef) : Bool := decide (b = scanBond (s.scanAt 7)) && s.on (F.deckBondScanEnable 7)
  [turn s b && bondOk b, turn (at_ s (bondCount - 1)) ⟨3, 63, 0, 16⟩ && bondOk ⟨3, 63, 0, 16⟩, turn (at_ s1 3) (scanBond 3) && known s1 (scanBond 3),
   turn s1 b && !known s1 b && used s1 b && (inPass s1).pass.isSome, turn s b && !known s b && !used s b && s.pass.isNone,
   !s.deck.clockLost.contains (7, 159, true), s1.deck.clockLost.contains (7, 159, true)]

theorem wit_Bonds : wBonds.all id = true := by decide +kernel

/-! ## Links -/

/-- The last link of the module, Up. -/
def lastLink : Nat := up.variant.links - 1

/-- The module with its last link in this state. -/
def linked (st : Nat) : State := up.wrs [(F.linkStatState lastLink, st), (F.linkStatLanesGood lastLink, 15), (F.linkStatWidth lastLink, 3), (F.linkCtrlEnable lastLink, 1)]

/-- A flit with its CRC. -/
def signed (f : Flit) : Flit := { f with crc := crc32 f.bytes }

/-- A flit that holds a whole packet. -/
def oneFlit (p : Packet) : Flit :=
  signed (match p.flits with
  | [t] => ⟨0, 0, false, false, t.vl, t.rpool, true, true, 0, false, 0, t.body, 0, 0⟩
  | _ => ⟨0, 0, false, true, 0, false, false, false, 0, false, 0, [], 0, 0⟩)

/-- A good flit, a bad one, a sixteenth nak, a gap, a pool that waits without credit; a flit that may leave; a request within its leash and one beyond. -/
def wLinkFlits : List Bool :=
  let l := lastLink
  let s := linked lkUp
  let f := oneFlit { tilePkt with lenM1 := 7 }
  let pkt := Packet.ofWords f.body ((List.range f.body.length).filter fun i => f.poison.getLsbD i)
  let pool := if f.vl = 3 ∧ f.rpool = true then 8 else f.vl
  let g := s.modLink l fun x => { x with gap := true, naks := 15 }
  let h := s.modLink l fun x => { x with wait := tilePkt.flits, sent := (List.range 9).map poolSize }
  let leashed := s.wr (F.keepLeashMbps (8 * 15 + lLINK)) 1000
  let nk := signed { f with nak := true, ackSeq := 0 }
  [s.linkExists l && s.rd (F.linkStatState l) = lkUp, !f.ctl && !f.nak && f.seq = (s.link l).rxNext && f.sop && f.eop && decide (poolSize pool ≠ 0) && pkt.formOk && !mgmtReserved pkt,
   nk.nak && nk.ackSeq = g.rd (F.linkStatAckSeq l) && (g.link l).naks = 15, (g.link l).gap,
   ((s.pump l).link l).wait = (s.link l).wait, (h.link l).wait.any (fun t => t.poolOf = 0 && (h.link l).credit 0 = 0),
   ((s.modLink l fun x => { x with wait := tilePkt.flits }).nextFlit l).isSome, leashed.inLeash (linkArb l) 15 256 && !leashed.inLeash (linkArb l) 8 256]

theorem bytes_crc (f : Flit) (c : W32) : ({ f with crc := c }).bytes = f.bytes := by simp only [Flit.bytes, Flit.header]

theorem next_ne (c : W32) : c + 1 ≠ c := fun h => by bv_omega

/-- The CRC of a signed flit is right. -/
theorem wit_LinkFlits_crc (f : Flit) : (signed f).crcOk = true := by
  unfold signed Flit.crcOk
  exact decide_eq_true (congrArg crc32 (bytes_crc f _).symm)

/-- Another is wrong. -/
theorem wit_LinkFlits_crcBad (f : Flit) : { f with crc := crc32 f.bytes + 1 }.crcOk = false := by
  unfold Flit.crcOk
  exact decide_eq_false fun h => next_ne _ (h.trans (congrArg crc32 (bytes_crc f _)))

theorem wit_LinkFlits : wLinkFlits.all id = true := by decide +kernel

/-- Each state of the last link; widths that suffice and that do not; a link that is live. -/
def wLinkStates : List Bool :=
  let l := lastLink
  let wide (s : State) : Bool := s.widthOk l (bestWidth (s.quadLanes l 15)).1 && !s.widthOk l (bestWidth (s.quadLanes l 0)).1
  let d := (linked lkDown).wr (F.linkCtrlAutoRestore l) 1
  [(linked lkDisabled).linkExists l && (linked lkDisabled).linkLive l, (linked lkUp).rd (F.linkStatState l) = lkUp && decide (8 % 16 &&& (linked lkUp).rd (F.linkStatLanesGood l) ≠ 0),
   (linked lkTraining).rd (F.linkStatState l) = lkTraining && wide (linked lkTraining), (linked lkRetrain).rd (F.linkStatState l) = lkRetrain && wide (linked lkRetrain) &&
     decide (15 &&& (linked lkRetrain).rd (F.linkStatLanesGood l) = 15), d.rd (F.linkStatState l) = lkDown && d.linkLive l && d.on (F.linkCtrlEnable l) && d.on (F.linkCtrlAutoRestore l),
   decide ((linked lkRetrain).now < ((linked lkRetrain).link l).since + 2000000),
   decide (((linked lkRetrain).link l).since + 20000000 ≤ (((linked lkRetrain).wr F.timeNowNs 20000000).wr (F.linkCtrlRetrainLimMs l) 255).now),
   bestUpTo 2 3 15 = (2, 3), bestUpTo 2 3 14 = (2, 12), bestUpTo 1 2 4 = (1, 4)]

theorem wit_LinkStates : wLinkStates.all id = true := by decide +kernel

/-- A fence hold of the last module; awaited Deposits and held Signals; a record of the last window. -/
def wPacketTimers : List Bool :=
  let p : Packet := { tilePkt with src := 5, dst := 9, wkind := 0 }
  let sg : Packet := { p with typ := pSIGNAL, reqKind := 3 }
  let r : SigRec := ⟨1023, 9, 3, 8⟩
  let s := up.modFab fun f => { f with fences := [⟨0, 16383, 0, []⟩], awaits := [⟨p, none, 0, none⟩, ⟨{ p with epoch := 4 }, none, 0, none⟩, ⟨sg, none, 0, none⟩], resend := [sg], sigRecs := [⟨1, 9, 3, 8⟩, r] }
  let busy := (s.modFab fun f => { f with fences := [⟨7, 9, 5, []⟩] }).modLink 5 fun x => { x with replay := p.flits.map fun t => (0, { t with die := 7 }) }
  [busy.fab.fences[0]? = some ⟨7, 9, 5, []⟩ && !busy.drained ⟨7, 9, 5, []⟩, s.fab.fences[0]? = some ⟨0, 16383, 0, []⟩ && s.drained ⟨0, 16383, 0, []⟩ && (s.fab.fences.eraseIdx 0).isEmpty, s.fab.awaits[0]? = some ⟨p, none, 0, none⟩ && p.src = s.moduleId && p.typ = pDEPOSIT,
   (s.fab.awaits[1]?.any fun a => decide (a.pkt.epoch ≠ 0) && a.pkt.src = s.moduleId), s.fab.awaits[2]? = some ⟨sg, none, 0, none⟩ && sg.typ = pSIGNAL && sg.reqKind = 3 && sg.src = s.moduleId,
   s.fab.resend[0]? = some sg, (s.fab.sigRecs.filter fun q => decide (q.win = 1023))[0]? = some r]

theorem wit_PacketTimers : wPacketTimers.all id = true := by decide +kernel

/-! ## Arrivals -/

/-- A packet on link 0, whose window 1023 covers the first 256 bytes of HBM and is open for every operation of sender 9. -/
def arriving (p : Packet) : State :=
  let s := (mapped.wrs [(F.linkStatState 0, lkUp), (F.winCtrlState 1023, 1), (F.winCtrlGen 1023, 3), (F.winLenSrcLo 1023, 9), (F.winLenSrcHi 1023, 9), (F.winCtrlOpDep 1023, 1),
    (F.winCtrlOpFold 1023, 1), (F.winCtrlOpSig 1023, 1), (F.winCtrlOpCall 1023, 1), (F.linkStatPeerModule 0, 9), (F.linkStatPeerValid 0, 1)])
  s.modFab fun f => { f with inbox := [⟨0, p, 1⟩] }

/-- A packet for that window. -/
def winP (typ : Nat) : Packet :=
  { Packet.blank with typ := typ, collar := 2, dst := 5, src := 9, winIdx := 1023, gen := 3, offset := 248, data := List.replicate 8 7, epoch := 2, lenM1 := 7 }

/-- Each kind accepted and refused; an aborted epoch; a tile's packet; a Signal that comes again; a Call to be served, and one whose read the
dead table refuses. -/
def wWindowArrivals : List Bool :=
  let turn (s : State) (p : Packet) (f : State → Bool) : Bool := (s.packetTurn 0 p).any fun v => f v
  let open_ (typ : Nat) : Bool := turn (arriving (winP typ)) (winP typ) fun v => let u := v.wake
    !u.aborted (winP typ) && u.mwinCheck (winP typ) = rOK && (u.landBlocks (winP typ)).1.all fun b => !u.refused b.1 true
  let bad (typ : Nat) : Packet := { winP typ with src := 10 }
  let shut (typ : Nat) : Bool := turn (arriving (bad typ)) (bad typ) fun v => !v.wake.aborted (bad typ) && decide (v.wake.mwinCheck (bad typ) ≠ rOK)
  let late (typ : Nat) : Bool := turn ((arriving (winP typ)).modFab fun f => { f with aborts := [(9, 5)] }) (winP typ) fun v => v.wake.aborted (winP typ)
  let tp : Packet := { winP pDEPOSIT with wkind := 1 }
  let c : CallJob := ⟨0, winP pCALL, 8, 0, []⟩
  let busy : CallJob := { c with eng := 0 }
  let sc := mapped.modFab fun f => { f with calls := [busy, c] }
  let k : SigRec := ⟨1023, 9, 2, 248⟩
  let read (s : State) : Option (List PB) :=
    let a := (s.mwinRange c.pkt.winIdx).1 + c.pkt.offset
    if s.snapDrains || s.memBusy a (c.pkt.lenM1 + 1) then none
    else (((s.settleFills a (c.pkt.lenM1 + 1) []).ringOnce (portFloor 0) a (c.pkt.lenM1 + 1) c.pkt.collar).readAt false c.pkt.collar a (c.pkt.lenM1 + 1) []).2
  let ap (s : State) : State := s.wrs [(F.winCtrlState 1023, 1), (F.floorDbgDeadTrap 0, 1)]
  let dead := (ap sc).modSlice 0 fun x => { x with dead := [0] }
  let ret : Packet := { winP pDEPOSIT with src := 5, dst := 9, reqKind := 1, reqPort := 0, reqTag := 63, ret := true }
  let rp (code : Nat) : Packet := { Packet.blank with typ := pRESP, dst := 5, src := 9, code := code, reqKind := 1, reqPort := 0, reqTag := 63, epoch := 2 }
  let answered (code : Nat) (left : List Packet) : Bool :=
    turn ((arriving (rp code)).modFab fun f => { f with awaits := [⟨ret, none, 0, none⟩], calls := [{ c with eng := 0, tag := 63, left := left }] }) (rp code) fun v =>
      (v.awaited (rp code)).isSome && (v.fab.calls.find? fun c => decide (c.port = 0) && decide (c.eng < 8) && decide (c.tag = 63)).any fun c => decide (c.left = left)
  [open_ pDEPOSIT, open_ pFOLD, open_ pSIGNAL, open_ pCALL, shut pDEPOSIT, shut pFOLD, shut pSIGNAL, shut pCALL, late pDEPOSIT, late pFOLD, late pSIGNAL, late pCALL,
   turn (arriving tp) tp fun v => !v.wake.aborted tp && v.wake.rd F.bootPartCompute = 1,
   turn ((arriving (winP pSIGNAL)).modFab fun f => { f with sigRecs := [k] }) (winP pSIGNAL) fun v => k ∈ v.fab.sigRecs,
   sc.fab.calls.find? (fun c => decide (c.port = 0) && decide (c.eng = 8)) = some c && sc.fab.calls.all (fun d => decide (¬(d.port = 0 ∧ d.eng = 1))) && sc.fab.calls.any (fun d => d.port = 0 && d.eng = 0),
   (read (ap sc)).isSome, !dead.snapDrains && !dead.memBusy ((dead.mwinRange c.pkt.winIdx).1 + c.pkt.offset) (c.pkt.lenM1 + 1) && (read dead).isNone &&
     dead.fab.calls = sc.fab.calls, answered rOK [winP pDEPOSIT], answered rWINDOW_BOUNDS [winP pDEPOSIT], answered rOK []]

theorem wit_WindowArrivals : wWindowArrivals.all id = true := by decide +kernel

/-- A RESP that is awaited and one that is not; each notice. -/
def wNotices : List Bool :=
  let turn (s : State) (p : Packet) (f : State → Bool) : Bool := (s.packetTurn 0 p).any fun v => f v
  let resp : Packet := { Packet.blank with typ := pRESP, dst := 5, src := 9, code := rOK }
  let note (code : Nat) : Packet := { Packet.blank with typ := pNOTICE, collar := 1, dst := 5, src := 9, code := code, epoch := 3, reqKind := 3 }
  let r := reqOf .remote 0 0 [⟨0, 0, 8⟩] .toTarget
  let a : Await := ⟨{ winP pDEPOSIT with dst := 9, src := 5, epoch := 0 }, some 0, 0, none⟩
  let c : Chain := ⟨3, 0x40, 1, true, true, 0x1000, 4095, 0x1000, 4095, 0, false, 0, [], 0, 0xFF, 0, false, false, false, false, false, 0⟩
  let sr := ((arriving resp).modFab fun f => { f with awaits := [a] }).modTile 0 fun x => { x with fe0 := ⟨some c, none⟩ }
  let sr := { sr with reqs := [r], nextReq := 1 }
  let noWait (v : State) : Bool := v.host.waits.isEmpty
  let sn (code : Nat) : State := (arriving (note code)).wrs [(etState 511 15, etOPEN), (etModule 511 15, 9), (etEpoch 511 15, 3)]
  let p : Pass := ⟨1, 2, cmd 1 1 2 0, false, none, false, 0, false, false, 0, none, none, false, false, [], [], 1, [], 0, [9], false, false, 0⟩
  let sp (code : Nat) : State := { (arriving (note code)).wr F.keepPassStatEpoch 3 with pass := some p }
  [turn (arriving resp) resp fun v => v.awaited resp = none && noWait v,
   turn sr resp fun v => v.awaited resp = some a && v.req 0 = some r && resp.reqKind = 0 && !resp.unprot && v.fab.awaits.all (fun b => b.waiting.isNone) && noWait v &&
     (v.chain resp.reqTile resp.reqEngine).any fun c => c.status = 0,
   turn (sn nCommit) (note nCommit) fun v => v.entryOf 511 9 3 [etOPEN] = some 15,
   turn (sn nAbort) (note nAbort) fun v => v.entryOf 511 9 3 [etOPEN] = some 15 && v.fab.landings.isEmpty && v.fab.aborts.isEmpty,
   turn (sp nAbortAck) (note nAbortAck) fun v => v.pass = some p && v.epoch = 3, turn (sp nUnprot) (note nUnprot) fun v => v.pass.isSome && v.epoch = 3,
   turn (arriving (note nInDoubt)) (note nInDoubt) fun v => v.awaited (note nInDoubt) = none,
   isNotice (note nCommit) nCommit, isNotice (note nAbort) nAbort, isNotice (note nAbortAck) nAbortAck, isNotice (note nUnprot) nUnprot, isNotice (note nInDoubt) nInDoubt]

theorem wit_Notices : wNotices.all id = true := by decide +kernel

/-- JOIN, JOIN_ACK, RETIRE and RETIRE_ACK on link 0; a JOIN with this module's own ID in step S11. -/
def wManagement : List Bool :=
  let m (kind src : Nat) : Packet := { Packet.blank with typ := pMGMT, src := src, mgmt := some ⟨kind, 0, true, 1, 0⟩ }
  let turn (s : State) (p : Packet) (f : State → Bool) : Bool := !s.keep.restarting && (s.packetTurn 0 p).any fun v => f v
  let own := { (arriving (m 1 5)).wr F.bootStatusStep 11 with boot := { up.boot with running := true } }
  [turn (arriving (m 1 9)) (m 1 9) fun v => isMgmt (m 1 9) 1 && mgmtValid (m 1 9) && decide ((m 1 9).src ≠ v.moduleId),
   turn own (m 1 5) fun v => isMgmt (m 1 5) 1 && mgmtValid (m 1 5) && (m 1 5).src = v.moduleId && v.on (F.portSelfValid 0) && v.boot.running && v.rd F.bootStatusStep = 11,
   turn (arriving (m 2 9)) (m 2 9) fun _ => isMgmt (m 2 9) 2 && mgmtValid (m 2 9) && !((m 2 9).mgmt.any fun h => decide (h.status = 1)),
   turn (arriving (m 3 9)) (m 3 9) fun _ => isMgmt (m 3 9) 3, turn (arriving (m 4 9)) (m 4 9) fun _ => isMgmt (m 4 9) 4]

theorem wit_Management : wManagement.all id = true := by decide +kernel

/-! ## Pack lane -/

theorem reset_line (set way : Nat) : SliceSt.reset.line set way = Line.none_ := by simp [SliceSt.line, SliceSt.reset]

theorem reset_find (line : Nat) : SliceSt.reset.find line = none := by
  simp [SliceSt.find, reset_line, Line.none_]

theorem reset_sides (set line : Nat) : SliceSt.reset.sides set line = [] := by
  simp [SliceSt.sides, reset_line, Line.none_]

/-- Nothing that bears on a read of a cold module has changed: only counters and activations. -/
def Same (s z : State) : Prop := ∃ c a, z = { s with counters := c, acts := a }

theorem Same.bump {s z : State} (h : Same s z) (ev : Nat) (u : EvUnit) (n : Nat) : Same s (z.bump ev u n) := by
  obtain ⟨c, a, rfl⟩ := h
  exact ⟨_, a, rfl⟩

theorem Same.activate {s z : State} (h : Same s z) (ch : Nat) : Same s (z.activate ch) := by
  obtain ⟨c, a, rfl⟩ := h
  unfold State.activate
  dsimp only
  split
  · exact ⟨_, _, rfl⟩
  · exact ⟨_, _, rfl⟩

theorem Same.trans {s z w : State} (h : Same s z) (k : Same z w) : Same s w := by
  obtain ⟨c, a, rfl⟩ := h
  obtain ⟨d, b, rfl⟩ := k
  exact ⟨d, b, rfl⟩

theorem Same.locBand {s z : State} (h : Same s z) (f fuel b u : Nat) : z.locBand f fuel b u = s.locBand f fuel b u := by
  have hb : z.bandSlices f = s.bandSlices f := by
    obtain ⟨c, a, rfl⟩ := h
    rfl
  induction fuel generalizing b u with
  | zero => rfl
  | succ n ih => simp only [State.locBand, hb, ih]

theorem Same.locate {s z : State} (h : Same s z) (a : Nat) : z.locate a = s.locate a := by
  have hh : z.locHbm = s.locHbm := by
    obtain ⟨c, a, rfl⟩ := h
    rfl
  simp only [State.locate, hh, h.locBand]

/-- A place whose slice is removed, on a channel in service, with no Twin and nothing marked in HBM. -/
structure Cold (s : State) (p : Loc) : Prop where
  slices : s.slices = []
  marks : s.hbmMark = []
  plain : p.expl = false
  removed : s.on (F.sliceStatRemoved p.slice) = true
  serving : s.chanRetired p.slice = false
  single : s.twinOf p.slice p.line = none
  quiet : s.host.met = []

theorem Cold.of_same {s z : State} {p : Loc} (h : Cold s p) (e : Same s z) : Cold z p := by
  obtain ⟨c, a, rfl⟩ := e
  exact ⟨h.1, h.2, h.3, h.4, h.5, h.6, h.7⟩

theorem Cold.slice {s : State} {p : Loc} (h : Cold s p) (n : Nat) : s.slice n = SliceSt.reset := by simp [State.slice, h.slices]

/-- The channel's read of a cold place brings unmarked words. -/
theorem Cold.fetch {s : State} {p : Loc} (h : Cold s p) (src : Nat) :
    ∃ z w, s.fetchSector p.slice p.line p.sector src .quiet .quiet = (z, w, [], 0) ∧ Same s z := by
  have hm : (s.hbmSec p.slice p.line p.sector).2 = [] := by simp [State.hbmSec, h.marks, unmarked]
  refine ⟨(s.bump Ev.hbmRd (.slice p.slice) 1).activate p.slice, (s.hbmSec p.slice p.line p.sector).1, ?_,
    (Same.bump (s := s) (z := s) ⟨_, _, rfl⟩ Ev.hbmRd (.slice p.slice) 1).activate p.slice⟩
  simp [State.fetchSector, h.single, h.serving, State.hbmRead, hm, HbmIn.quiet, poisUnion]

/-- A read at once of a cold place: a miss that allocates nothing. -/
theorem Cold.read {s : State} {p : Loc} (h : Cold s p) :
    ∃ z w, s.readSec p false 1 .quiet = (z, some (w, [])) ∧ Same s z := by
  have hb := Same.bump (s := s) (z := s) ⟨_, _, rfl⟩ Ev.sliceMiss (.slice p.slice) 1
  have hc := h.of_same hb
  obtain ⟨z, w, h1, h2⟩ := hc.fetch hsFILL
  have hz := hb.trans h2
  have hcz := h.of_same hz
  have hf : s.mergeFlush p.slice p.set p.line p.sector = s := by simp [State.mergeFlush, h.slice, SliceSt.reset]
  have hw : s.baseSec p.slice p = none := by simp [State.baseSec, State.wayOf, h.plain, h.slice, reset_find]
  have hd : s.deadRead p.slice p.line = s := by simp [State.deadRead, State.isDead, h.slice, SliceSt.reset]
  have ht : s.deadTrap p.slice p.line = false := by simp [State.deadTrap, State.isDead, h.slice, SliceSt.reset]
  have hq : (s.bump Ev.sliceMiss (.slice p.slice) 1).fillNow p.slice p 1 hsFILL .quiet = (z, w, []) := by
    have h1' := h1
    simp only [SliceDec.quiet]
    simp [State.fillNow, State.atOnce, State.grantOnce, State.latencyOnce, hc.slice, reset_find, hc.removed, h1', State.sliceUe]
  have hst : z.stream p.slice p.line true [] = z := by simp [State.stream, hcz.removed]
  refine ⟨z, w, ?_, hz⟩
  simp [State.readSec, State.grantOnce, hf, State.metaCheck, SliceDec.quiet, hd, ht, hw]
  have hq' := hq
  simp only [SliceDec.quiet] at hq'
  simp [hq', hst, State.addSides, hcz.slice, reset_sides]

/-- Cold places read one after another leave only clean bytes. -/
theorem cold_fold {s : State} (f : State × Option (List PB) → Nat × Nat → State × Option (List PB))
    (hf : ∀ z xs b p z' v, z.locate b.1 = some p → z.readSec p false 1 .quiet = (z', some v) → f (z, some xs) b = (z', some (xs ++ secBytes v)))
    (bs : List (Nat × Nat)) : ∀ (z : State) (xs : List PB), (∀ b ∈ bs, ∃ p, s.locate b.1 = some p ∧ Cold s p) → Same s z → (∀ x ∈ xs, x.p = false) →
      ∃ z' ys, bs.foldl f (z, some xs) = (z', some ys) ∧ ∀ x ∈ ys, x.p = false := by
  induction bs with
  | nil => exact fun z xs _ _ h => ⟨z, xs, rfl, h⟩
  | cons b bs ih =>
    intro z xs hb hz hx
    obtain ⟨p, h1, h2⟩ := hb b (by simp)
    have h3 : z.locate b.1 = some p := (hz.locate b.1).trans h1
    obtain ⟨z', w, h4, h5⟩ := (h2.of_same hz).read
    have h6 := hz.trans h5
    rw [List.foldl_cons, hf z xs b p z' _ h3 h4]
    refine ih z' _ (fun k hk => hb k (by simp [hk])) h6 fun x hx' => ?_
    rcases List.mem_append.1 hx' with h | h
    · exact hx x h
    · simp only [secBytes, List.mem_map] at h
      obtain ⟨i, -, rfl⟩ := h
      simp

theorem getD_same {α β : Type} (b : β) (l : List α) (i : Nat) : (l.map fun _ => b).getD i b = b := by
  rw [List.getD_eq_getElem?_getD, List.getElem?_map]
  cases l[i]? <;> rfl

/-- The bytes of cold places read clean. -/
theorem cold_read {s : State} (a n : Nat) (hm : s.host.met = []) (hl : ∀ b, b < a + n → ∃ p, s.locate b = some p ∧ Cold s p) :
    anyPois (s.readCommitted 1 a n).2 = false := by
  have hb : ∀ b ∈ (sectorsOf a n).zip (List.range (sectorsOf a n).length), ∃ p, s.locate b.1 = some p ∧ Cold s p := by
    intro b hb
    have hb := (List.of_mem_zip hb).1
    simp only [sectorsOf, List.mem_map, List.mem_range] at hb
    obtain ⟨i, hi, hb⟩ := hb
    exact hl b.1 (by omega)
  unfold anyPois State.readCommitted State.readAt
  simp only [hm, List.find?_nil, Option.map_none, Option.getD_none, List.isEmpty_nil, ↓reduceIte]
  generalize hF : List.foldl _ (s, some []) _ = r
  obtain ⟨z', ys, rfl, h2⟩ : ∃ z' ys, r = (z', some ys) ∧ ∀ x ∈ ys, x.p = false := by
    rw [← hF]
    exact cold_fold (s := s) _ (fun z xs b p z' v h1 h2 => by simp only [h1, getD_same, h2]) _ s [] hb ⟨_, _, rfl⟩ (by simp)
  rw [List.any_eq_false]
  intro x hx
  have := h2 x (List.mem_of_mem_drop (List.mem_of_mem_take hx))
  simp [this]

/-- A slot armed for a snapshot of the first 2 MiB of segment 0, mapped Near floor 0, whose slices are removed. -/
def armed : State :=
  let x : SnapSt := ⟨0, [1, 0, 0, 0, BitVec.ofNat 64 0x200000], 0, [], ⟨[], []⟩, 0, true, false, true, 0, none, false⟩
  let s := (mapped.wr (F.floorHashKind 0 0) 2).wrs ((List.range 64).map fun n => (F.sliceStatRemoved n, 1))
  (s.wr (F.packSnapStatState 1) snARMED).setSnap 1 (some x)

/-- The same as the freeze opens it. -/
def opened : State :=
  (armed.wrs [(F.packSnapStatState 1, snOPEN), (F.packSnapStatEpoch 1, armed.commitEpoch)]).setSnap 1 (some ⟨0, [1, 0, 0, 0, BitVec.ofNat 64 0x200000], 0, [], ⟨[], []⟩, armed.now, true, false, true, 0, none, false⟩)

/-- The lines of a segment Near floor 0 are cold where every slice of that floor is removed, and none is a Twin. -/
theorem near_cold {s : State} (h1 : 0x200000 < s.variant.hbmBytes) (h2 : s.segKind 0 = 2) (h3 : s.rd (F.floorHashNearFloor 0 0) = 0)
    (h4 : s.variant.chansPerFloor ≤ 64) (h5 : 0 < s.variant.chansPerFloor) (h6 : s.slices = []) (h7 : s.hbmMark = [])
    (h8 : ∀ n < 64, s.on (F.sliceStatRemoved n) = true ∧ s.chanRetired n = false) (h9 : ∀ g ∈ s.mapped, s.mirrorOf g = none) (h10 : s.host.met = [])
    (b : Nat) (h : b < 0 + 0x200000) : ∃ p, s.locate b = some p ∧ Cold s p := by
  have e1 : b / segBytes = 0 := Nat.div_eq_of_lt (by simp only [segBytes]; omega)
  have e2 : ¬s.variant.hbmBytes ≤ b := by omega
  have e3 : b < apertureBase := by simp only [apertureBase]; omega
  have e4 (n line : Nat) : s.twinOf n line = none := by
    unfold State.twinOf
    cases h : s.segOf n line with
    | none => rfl
    | some g =>
      unfold State.segOf at h
      simp [State.copyB, h9 g (List.mem_of_find?_eq_some h)]
  simp only [State.locate, e3, ↓reduceIte, State.locHbm, e1, h2, e2, h3]
  refine ⟨_, rfl, ?_⟩
  simp only [nearHash, cachedAt, Nat.mul_zero, Nat.zero_add]
  generalize b % segBytes / 2048 = l
  have hn := h8 ((l % s.variant.chansPerFloor + l / s.variant.chansPerFloor) % s.variant.chansPerFloor)
    (Nat.lt_of_lt_of_le (Nat.mod_lt _ h5) h4)
  exact ⟨h6, h7, rfl, hn.1, hn.2, e4 _ _, h10⟩

theorem opened_cold : 0x200000 < opened.variant.hbmBytes ∧ opened.segKind 0 = 2 ∧ opened.rd (F.floorHashNearFloor 0 0) = 0 ∧
    opened.variant.chansPerFloor ≤ 64 ∧ 0 < opened.variant.chansPerFloor ∧ opened.slices = [] ∧ opened.hbmMark = [] ∧ opened.host.met = [] := by decide +kernel

theorem opened_slices : ∀ n < 64, opened.on (F.sliceStatRemoved n) = true ∧ opened.chanRetired n = false := by decide +kernel

theorem opened_mirrors : ∀ g ∈ opened.mapped, opened.mirrorOf g = none := by decide +kernel

theorem opened_clean : anyPois (opened.readCommitted 1 0 0x200000).2 = false := by
  obtain ⟨h1, h2, h3, h4, h5, h6, h7, h8⟩ := opened_cold
  exact cold_read _ _ h8 (near_cold h1 h2 h3 h4 h5 h6 h7 opened_slices opened_mirrors h8)

/-- The slot's first chunk reads clean at the freeze. -/
theorem wit_PackFreeze : ∃ x a cs, armed.snap 1 = some x ∧ armed.rd (F.packSnapStatState 1) = snARMED ∧ x.promoting = true ∧ x.barrier = true ∧ x.stopping = false ∧ armed.drainsLeft = false ∧
    planChunks x.plan = a :: cs ∧ x.next = 0 ∧
    anyPois (((armed.wrs [(F.packSnapStatState 1, snOPEN), (F.packSnapStatEpoch 1, armed.commitEpoch)]).setSnap 1 (some { x with time := armed.now })).readCommitted 1 a
      0x200000).2 = false := by
  refine ⟨⟨0, [1, 0, 0, 0, BitVec.ofNat 64 0x200000], 0, [], ⟨[], []⟩, 0, true, false, true, 0, none, false⟩, 0, [], ?_, ?_, rfl, rfl, rfl, ?_, ?_, rfl, ?_⟩
  · decide +kernel
  · decide +kernel
  · decide +kernel
  · decide +kernel
  · exact opened_clean

/-- Up and down packets of a child 9 and of a parent 9 on tree 15; a time that ran out. -/
def wPackRows : List Bool :=
  let h : PackHdr := ⟨15, kREDUCTION, true, 0, 0, 0, 0, 0, 5, 2, 0⟩
  let pk (h : PackHdr) : Packet := { Packet.blank with typ := pPACK, collar := 1, dst := 5, src := 9, pack := some h }
  let kid : State := ((arriving (pk h)).wrs [(F.packTreeCtrlEnable 15, 1)]).setReg (R.packTreeKids1 15) (BitVec.ofNat 64 ((9 + 2 ^ 14) * 2 ^ 48))
  let par (h : PackHdr) : State := (arriving (pk h)).wrs [(F.packTreeCtrlEnable 15, 1), (F.packTreeCtrlHasParent 15, 1), (F.packTreeCtrlParent 15, 9)]
  let at_ (s : State) (t : TreeSt) : State := { s with trees := tset (fun _ => TreeSt.reset) s.trees 15 t }
  let turn (s : State) (h : PackHdr) (f : State → TreeSt → Bool) : Bool := (s.packetTurn 0 (pk h)).any fun v => v.on (F.packTreeCtrlEnable 15) && f v (v.tree 15)
  let seen (x : TreeSt) (h : PackHdr) : Bool := x.ups.any fun q => decide (q.src = 9) && decide (q.pack.map (·.opSeq) = some h.opSeq)
  let my (v : State) : Bool := ((v.kids 15).find? fun k => decide (v.kid 15 k = some 9)) = some 7
  let down : PackHdr := { h with up := false }
  let reset : PackHdr := { down with kind := kRESET, aux := 1 }
  let op : PackOp := ⟨kREDUCTION, 0, 0, 0, 0, [], .mailbox⟩
  [turn (at_ kid ⟨5, none, [], [pk h], [], none, none, 0, none, none⟩) h fun v x => my v && seen x h, turn (at_ kid ⟨6, none, [], [], [], none, none, 0, none, none⟩) h fun v x => my v && seqBefore h.opSeq x.opSeq,
   turn (at_ kid ⟨5, none, [], [], [], none, none, 0, none, none⟩) h fun v x => my v && !seqBefore h.opSeq x.opSeq && !seen x h && x.op = none && x.starts = [] && h.opSeq = x.opSeq,
   turn (at_ (par down) ⟨6, none, [], [], [], none, none, 0, none, none⟩) down fun v x => !v.isRoot 15 && v.rd (F.packTreeCtrlParent 15) = 9 && seqBefore h.opSeq x.opSeq,
   turn (at_ (par down) ⟨5, none, [], [], [], none, none, 0, none, none⟩) down fun v x => !v.isRoot 15 && v.rd (F.packTreeCtrlParent 15) = 9 && h.opSeq = x.opSeq && x.starts = [] && x.downs = [],
   turn (at_ (par reset) ⟨5, none, [], [], [], none, none, 0, none, none⟩) reset fun v x => !v.isRoot 15 && v.rd (F.packTreeCtrlParent 15) = 9 && !seqBefore h.opSeq x.opSeq && decide (x.resetSeq ≠ some reset.opSeq) && !(par reset).keep.restarting && v.boot.reset.isNone,
   let s := at_ (up.wr (F.packTreeStatState 15) 1) ⟨5, some op, [], [], [], none, none, 0, none, none⟩; s.rd (F.packTreeStatState 15) = 1 && decide ((s.tree 15).op ≠ none)]

theorem wit_PackRows : wPackRows.all id = true := by decide +kernel

/-- The last populated channel retrains, with unrepaired lanes of one pseudo-channel or not; compute resets that end, halted and not. -/
def wRetrainAndReset : List Bool :=
  let c := 64 * 7 + up.variant.chansPerFloor - 1
  let s := up.wr (F.hbmcChStatState (c / 16) (c % 16)) 2
  let r (halt : Bool) : State := { up.wr F.keepFaultStatState (if halt then 2 else 0) with boot := { up.boot with reset := some ⟨false, false, halt⟩ } }
  let two (l : List Nat) : Bool := (List.range l.length).any fun j => (List.range j).any fun i => decide (l.getD i 0 / 32 = l.getD j 0 / 32)
  [two [3, 5], !two [3, 40], !two [], decide (c < 512) && s.slicePopulated c && s.host.waits.isEmpty && s.rd (F.hbmcChStatState (c / 16) (c % 16)) = 2, (r true).pass.isNone && !(r true).keep.restarting && (r true).rd F.keepFaultStatState = 2,
   decide ((r false).rd F.keepFaultStatState ≠ 2) && (r false).boot.reset = some ⟨false, false, false⟩]

theorem wit_RetrainAndReset : wRetrainAndReset.all id = true := by decide +kernel

/-! ## Commands -/

/-- The module with job 1 of session 1, whose queue is 1. -/
def jobbed : State :=
  { up.wrs [(F.cmdqQcfgOwned 1, 1), (F.cmdqQcfgSession 1, 1)] with job := some ⟨1, 1, [], [], true, [], [], true, false⟩ }

/-- The same after a Job-fatal fault, and halted. -/
def fatal : State := jobbed.wrs [(F.keepFaultStatJobFatal, 1), (F.keepFaultStatFatalCause, 3)]
def halted : State := jobbed.wr F.keepFaultStatState 2

/-- Commands of either scope that may start; a job command without its job; a second job. -/
def wCommandScopes : List Bool :=
  let u := up.cmdStart (cmd 1 0 0 0)
  [up.cmdReady (cmd 1 0 0 0) && (cmd 1 0 0 0).sq = 1, up.cmdReady (admin 0 0 0) && (admin 0 0 0).sq = 0,
   decide (u.rd F.keepFaultStatState ≠ 2) && u.on F.bootStatusReady && (cmd 1 0 0 0).rsv = 0 && u.job.isNone && (jobCmds (cmd 1 0 0 0)).all fun c => !extraBits (cmd 1 0 0 0) c.2,
   (jobbed.cmdTurn (cmd 0 12 0 0) .jobQueue ⟨false, true, true, true⟩ [(1, [(0, 4)])]).any fun u => decide (bf (parm (cmd 0 12 0 0) 1) 0 4 ≤ 12) && !u.host.retiring && u.job.isSome]

theorem wit_CommandScopes : wCommandScopes.all id = true := by decide +kernel

/-- A stopped queue; a start; a halted module; reserved bits; a Job-fatal fault. -/
def wCommandChecks : List Bool :=
  let e := cmd 1 0 0 0
  let a := admin 0 0 0
  let r := { a with rsv := 1 }
  let u := fatal.cmdStart e
  [!(up.setQueue 1 { Queue.reset with stopped := true }).cmdReady e, up.cmdReady e, halted.cmdReady a && (halted.cmdStart a).rd F.keepFaultStatState = 2 && decide ((halted.cmdStart a).rd F.pwrmWakeTolCurrent < 3),
   up.cmdReady r && decide ((up.cmdStart r).rd F.keepFaultStatState ≠ 2) && decide (r.rsv ≠ 0) && r.sq = 0,
   fatal.cmdReady e && decide (u.rd F.keepFaultStatState ≠ 2) && u.on F.bootStatusReady && !u.computeDown && (u.job.any fun j => j.handle = e.job && u.rd (F.cmdqQcfgSession e.sq) = j.session) &&
     u.on (F.cmdqQcfgOwned e.sq) && u.on F.keepFaultStatJobFatal && decide (u.rd F.keepFaultStatFatalCause ≠ 0) && (jobCmds e).all fun c => !extraBits e c.2]

theorem wit_CommandChecks : wCommandChecks.all id = true := by decide +kernel

/-- Each command of information past its checks; the host's memory failing; entries of COUNTER_CFG that are valid and not. -/
def wInfoCommands : List Bool :=
  let bad (e : Entry) : Entry := { e with inp := ⟨none, false, false, []⟩ }
  let m (n : Nat) : Entry := admin 0x1000 n 0
  let mt (e : Entry) : Bool := (up.cmdTurn e .admin .plain [(1, [(3, 61)]), (2, [(0, 32)])]).isSome
  let idt (e : Entry) : Bool := (up.cmdTurn e .admin ⟨true, false, false, true⟩ [(1, [(3, 61)])]).isSome
  let cc (v : Nat) : Entry := { admin 0x1000 1 0 with inp := ⟨some (leBytes 8 v), true, false, []⟩ }
  let ct (v : Nat) (ok : Bool) : Bool := (up.cmdTurn (cc v) .admin .plain [(1, [(3, 61)]), (2, [(0, 16)])]).any fun u =>
    (cc v).inp.read = some (leBytes 8 v) && (leWords 1 (leBytes 8 v)).all fun x => u.selOk x.toNat == ok
  [(up.cmdTurn (admin 0 0 0) .any ⟨true, false, false, true⟩ []).isSome, (up.cmdTurn (admin 0xFFFF 0 0) .admin .plain [(1, [(0, 16)])]).isSome,
   (up.cmdTurn (admin 63 0 0) .admin .plain [(1, [(0, 6)])]).isSome, mt (m 575) && decide (parm (m 575) 2 % 2 ^ 32 = 575), mt (m 576) && (m 576).inp.wrOk, mt (bad (m 576)) && !(bad (m 576)).inp.wrOk,
   idt (admin 0x1000 0 0), idt (bad (admin 0x1000 0 0)), ct 0 true, ct (2 ^ 38) false]

theorem wit_InfoCommands : wInfoCommands.all id = true := by decide +kernel

/-- LOG_READ with room for one record, without and with clear. -/
def wLogRead : List Bool :=
  [(admin 0x1000 64 0), (admin 0x1000 64 1)].map fun e => (up.cmdTurn e .admin ⟨true, false, false, true⟩ [(1, [(3, 61)]), (2, [(0, 32)]), (3, [(0, 1)])]).isSome && e.inp.wrOk &&
    decide (32 ≤ parm e 2 % 2 ^ 32)

theorem wit_LogRead : wLogRead.all id = true := by decide +kernel

/-- A snapshot with one pending, at an instant out of range, at once and at the last instant; its latch before, while the Keeper restarts, and now. -/
def wTelemetry : List Bool :=
  let e (t : Nat) : Entry := admin 0x1000 t 0
  let turn (s : State) (e : Entry) (f : State → Bool) : Bool := (s.cmdTurn e .admin ⟨true, false, false, true⟩ [(1, [(3, 61)]), (2, [(0, 64)])]).any fun u => f u
  let w : Waiting := ⟨e 0, .telem⟩
  let s : State := { up with host := { up.host with waits := [w] } }
  let at_ (t : Nat) : State := { s with time := { s.time with telemAt := t } }
  let ok (s : State) : Bool := s.host.waits.filter (fun x : Waiting => decide (x.why = Wait.telem)) = [w] && s.time.shadow.isNone
  [turn s (e 0) fun u => u.host.waits.any fun w => decide (w.why = .telem), turn up (e 9999) fun u => u.host.waits.isEmpty && decide (9999 < u.now + 10000),
   turn up (e 0) fun u => u.host.waits.isEmpty, turn up (e 10000000000) fun u => decide (u.now + 10000 ≤ 10000000000 ∧ 10000000000 ≤ u.now + 10000000000),
   ok (at_ 5) && decide ((at_ 5).now < (at_ 5).time.telemAt), ok { at_ 0 with keep := { s.keep with restarting := true } }, ok (at_ 0) && !(at_ 0).keep.restarting && w.e.inp.wrOk && w.e.inp.read = none]

theorem wit_Telemetry : wTelemetry.all id = true := by decide +kernel

/-- Values in and out of range of each policy; a grandmaster selected when PTP goes off. -/
def wPolicyCommands : List Bool :=
  let gm : State := { up with time := { up.time with master := some ⟨9, 0, []⟩ } }
  let p (s : State) (e : Entry) (used : List (Nat × List (Nat × Nat))) (f : State → Bool) : Bool := (s.cmdTurn e .admin .plain used).any fun u => f u
  let pol := [(1, [(0, 13)]), (2, [(0, 2)])]
  let t := [(1, [(0, 11)])]
  [p up (admin 999 3 0) pol fun _ => true, p up (admin 4000 3 0) pol fun _ => decide (parm (admin 4000 3 0) 1 % 2 ^ 13 ≤ 4000), p up (admin 400000 0 0) [(1, [(0, 32)])] fun _ => true,
   p up (admin 49 0 0) t fun _ => true, p up (admin 50 0 0) t fun _ => true, p up (admin (128 * 8) 0 0) t fun _ => decide (127 < bf (parm (admin (128 * 8) 0 0) 1) 3 8),
   p up (admin (127 * 8) 0 0) t fun u => decide (bf (parm (admin (127 * 8) 0 0) 1) 3 8 ≤ 127) && u.time.master.isNone, p gm (admin 0 0 0) t fun u => u.time.master.isSome]

theorem wit_PolicyCommands : wPolicyCommands.all id = true := by decide +kernel

/-! ## Jobs and passes -/

/-- A stage of one tile with an instruction region. -/
def stage1 : StageSt := ⟨1, 1, 1, 0, 0, 0, 0, [1], [], [], List.replicate 16 0, 0, 0, 7, none⟩

/-- The job's module with these stages, placed or not. -/
def staged (gs : List StageSt) (isPlaced : Bool) : State := { jobbed with job := some ⟨1, 1, gs, [], isPlaced, [], [], isPlaced, false⟩ }

/-- A job of one tile, placed on the last logical tile. -/
def placed1 : State := staged [{ stage1 with region := some ⟨25599, 1, 1⟩ }] true

/-- A PLACE of job 1 whose images hold poison or not. -/
def placing (poison : Bool) : Entry := { cmd 1 0x1000 0 0x2000 with inp := ⟨none, true, poison, []⟩ }

/-- A pass of job 1 with number 1. -/
def pass1 : Pass := ⟨1, 2, cmd 1 1 2 0, false, none, false, 0, false, false, 0, none, none, false, false, [], [], 1, [], 0, [], false, false, 0⟩

/-- The pass of that job in this state of KEEP_PASS_STAT. -/
def passing (st : Nat) (p : Pass) : State := { placed1.wrs [(F.keepPassStatState, st), (F.keepPassStatEpoch, 4)] with pass := some p }

/-- Sessions free and taken; JOB_OPEN; JOB_CLOSE with and without a pass. -/
def wSessionsAndJobs : List Bool :=
  let so (s : State) (f : State → Bool) : Bool := (s.cmdTurn (admin 0x8000 0 0) .admin .plain [(1, [(1, 15)])]).any fun u => f u
  let sc (s : State) (k : Nat) (f : State → Bool) : Bool := (s.cmdTurn (admin k 0 0) .admin .plain [(1, [(0, 4)])]).any fun u => f u
  let free := up.wrs [(F.cmdqQcfgOwned 1, 1), (F.cmdqQcfgSession 1, 1)]
  let jc (s : State) (f : State → Job → Bool) : Bool := (s.cmdTurn (cmd 1 0 0 0) .job ⟨false, false, false, true⟩ []).any fun u => u.job.any fun j =>
    !j.closing && u.jobTiles.all (fun t => decide (t < tileCount)) && f u j
  [so (up.wr (F.cmdqQcfgOwned 15) 1) fun u => u.on (F.cmdqQcfgOwned 15), so up fun u => u.host.sessions.all (fun x => decide (x.1 ≠ 0)) && !u.on (F.cmdqQcfgOwned 15),
   sc up 0 fun u => u.host.sessions.all fun x => decide (x.1 ≠ 0), sc up 1 fun u => u.host.sessions.any (fun x => x.1 = 1) && u.job.isNone,
   (free.cmdTurn (cmd 0 12 0 0) .jobQueue ⟨false, true, true, true⟩ [(1, [(0, 4)])]).any fun u => decide (parm (cmd 0 12 0 0) 1 % 16 ≤ 12) && !u.host.retiring && u.job.isNone,
   jc placed1 fun u _ => u.pass.isNone, jc (passing psRUNNING pass1) fun u _ => u.pass.any (fun p => p.step = 0) && u.reqs.isEmpty]

theorem wit_SessionsAndJobs : wSessionsAndJobs.all id = true := by decide +kernel

/-- The least placement of one tile. -/
def onePlan : Plan := ⟨[⟨0, 1, 1⟩], [], [], []⟩

theorem nones_mem {α β : Type} (f : α → List (Option β)) (hf : ∀ x, none ∈ f x) (xs : List α) : xs.map (fun _ => none) ∈ choices (xs.map f) := by
  induction xs with
  | nil => simp [choices]
  | cons x xs ih => exact List.mem_flatMap.2 ⟨none, hf x, List.mem_map.2 ⟨_, ih, rfl⟩⟩

theorem nones_drop {α β : Type} (xs : List α) : (xs.map fun _ => (none : Option β)).filterMap id = [] := by
  induction xs <;> simp_all

/-- A job of one tile is placed where its least placement is lawful. -/
theorem choose_one {s : State} {j : Job} {g : StageSt} (h1 : j.stages = [g]) (h2 : j.tensors = []) (h3 : ⟨0, 1, 1⟩ ∈ regionsOf g)
    (h4 : (j.stages.map (·.tiles)).sum ≤ s.usable) (h5 : s.meets false j [] onePlan = true) : ∃ c, s.choose j [] = .inl c := by
  have hm : onePlan ∈ s.plans j := by
    refine List.mem_flatMap.2 ⟨[⟨0, 1, 1⟩], ?_, List.mem_flatMap.2 ⟨[], ?_, List.mem_flatMap.2
      ⟨_, nones_mem segPlans (fun g => List.mem_cons_self) (List.range s.variant.segments), List.mem_map.2
      ⟨_, nones_mem modePlans (fun n => List.mem_cons_self) (List.range 512), by rw [nones_drop, nones_drop]; rfl⟩⟩⟩⟩
    · rw [h1]
      exact List.mem_flatMap.2 ⟨_, h3, by simp [choices]⟩
    · rw [h2]
      simp [choices]
  have hc : s.canPlace false j [] = true := by
    unfold State.canPlace
    rw [Bool.and_eq_true]
    exact ⟨by simpa using h4, List.any_eq_true.2 ⟨_, hm, h5⟩⟩
  exact ⟨_, by simp only [State.choose, hc, Bool.or_true, ↓reduceIte]; rfl⟩

/-- Declarations in and out of range, before and after a placement; an image that is whole and one that is not; placements that succeed and not; queries. -/
def wStagesAndPlacement : List Bool :=
  let j (s : State) (e : Entry) (g : Gate) (used : List (Nat × List (Nat × Nat))) (f : State → Job → Bool) : Bool :=
    (s.cmdTurn e .job g used).any fun u => u.job.any fun j => f u j
  let td (s : State) (b c : Nat) (f : Job → Bool) : Bool := j s (cmd 1 b c 0) ⟨false, true, true, false⟩ [(1, [(0, 64)]), (2, [(0, 7)])] fun _ x => f x
  let img := leBytes 4 1 ++ leBytes 2 1 ++ [1, 1] ++ leBytes 16 0 ++ [1, 0, 0, 0] ++ leBytes 4 16 ++ List.replicate 32 0 ++ leBytes 8 1 ++ List.replicate 16 0
  let se (bs : List Byte) : Entry := { cmd 1 0x1000 bs.length 0 with inp := ⟨some bs, true, false, []⟩ }
  let sl (s : State) (bs : List Byte) (ok : Bool) (f : Job → Bool) : Bool :=
    j s (se bs) ⟨false, true, true, false⟩ [(1, [(3, 61)]), (2, [(0, 32)]), (3, [(0, 5), (8, 9), (17, 3)]), (4, [(0, 32)])] fun _ x => (parseStage (se bs) bs).isSome == ok && f x
  let pl (s : State) (f : State → Job → Bool) : Bool := j s (placing false) ⟨false, true, true, false⟩ [(1, [(3, 61)]), (2, [(0, 8)]), (3, [(3, 61)])] f
  let q (s : State) (n : Nat) (f : State → Job → Bool) : Bool := j s (cmd 1 0x1000 n 0) ⟨false, false, false, true⟩ [(1, [(3, 61)]), (2, [(0, 32)])] f
  let big := { stage1 with tiles := 25600, h := 160, w := 160 }
  [td (staged [] false) 0x100000 0 fun _ => true, td (staged [] false) 0x200000 (4 + 4 * 8) fun x => !x.sealed, td (staged [] true) 0x200000 (4 + 4 * 8) fun x => x.sealed,
   sl (staged [] false) img true fun x => !x.sealed, sl (staged [] false) (img.take 80) false fun x => !x.sealed, sl (staged [] true) img true fun x => x.sealed,
   pl (staged [stage1] true) fun _ x => x.sealed, pl (staged [] false) fun _ x => x.stages.isEmpty,
   pl (staged [big, big] false) fun u x => !x.sealed && !undefTensor x && (placing false).inp.wrOk && (match u.choose x [] with | .inr _ => true | _ => false),
   q (staged [stage1] false) 0 fun _ x => !x.sealed, q placed1 47 fun u x => x.sealed && (u.placeReply x).length = 48, q placed1 48 fun u x => x.sealed && decide ((u.placeReply x).length ≤ 48)]

theorem wit_StagesAndPlacement : wStagesAndPlacement.all id = true := by decide +kernel

/-- Placements that succeed, of images without and with poison. -/
theorem wit_Placed (poison : Bool) : ∃ u j c, (staged [stage1] false).cmdTurn (placing poison) .job ⟨false, true, true, false⟩
    [(1, [(3, 61)]), (2, [(0, 8)]), (3, [(3, 61)])] = some u ∧ u.job = some j ∧ j.sealed = false ∧ j.stages ≠ [] ∧ undefTensor j = false ∧
    parm (placing poison) 2 % 256 = 0 ∧ (placing poison).inp.imagePoison = poison ∧ u.choose j [] = .inl c := by
  have h : (((staged [stage1] false).cmdTurn (placing poison) .job ⟨false, true, true, false⟩ [(1, [(3, 61)]), (2, [(0, 8)]), (3, [(3, 61)])]).any fun u => u.job.any fun j =>
      j = ⟨1, 1, [stage1], [], false, [], [], false, false⟩ && decide ((j.stages.map (·.tiles)).sum ≤ u.usable) && u.meets false j [] onePlan) = true := by
    cases poison <;> decide +kernel
  obtain ⟨u, hu, h⟩ := (Option.any_eq_true _ _).1 h
  obtain ⟨j, hj, h⟩ := (Option.any_eq_true _ _).1 h
  simp only [Bool.and_eq_true, decide_eq_true_eq] at h
  obtain ⟨⟨rfl, h1⟩, h2⟩ := h
  obtain ⟨c, hc⟩ := choose_one rfl rfl (List.mem_flatMap.2 ⟨(1, 1), by decide, List.mem_map.2 ⟨0, by simp, rfl⟩⟩) h1 h2
  exact ⟨u, _, c, hu, hj, rfl, by simp, by cases poison <;> decide, by cases poison <;> rfl, rfl, hc⟩

/-- A launch on collar 1, before a placement, held, and at once; the end of a pass, a first one and one after a replay; commits of another pass, a held launch, and the running pass, kept twice, on no tree, and kept. -/
def wLaunchAndCommit : List Bool :=
  let e (w2 : Nat) : Entry := cmd 1 1 w2 0
  let j (s : State) (e : Entry) (f : State → Job → Bool) : Bool := (s.cmdTurn e .job .jobCmd [(1, [(0, 32)]), (2, [(0, 5)])]).any fun u => u.job.any fun j => f u j
  let pc (s : State) (e : Entry) (f : State → Bool) : Bool := (s.cmdTurn e .job ⟨false, false, true, true⟩ [(1, [(0, 32)]), (2, [(0, 5)])]).any fun u => f u
  let done (b : Bool) : Bool := let s := (passing psRUNNING { pass1 with posted := b }).wr (F.tileStatState 25599) stDone
    s.rd F.keepPassStatState = psRUNNING && s.jobTiles = [25599] && s.rd (F.tileStatState 25599) = stDone && s.pass.any fun p => p.commit.isNone && p.posted == b
  let held (ws : List Waiting) : State := { placed1 with host := { placed1.host with waits := ws } }
  let l : Waiting := ⟨e 2, .launch 1 2 false⟩
  let ok (u : State) (e : Entry) : Bool := !bit (parm e 2) 0 || (u.on (F.packTreeCtrlEnable (parm e 2 / 2 % 16)) && u.on (F.packTreeCtrlCommit (parm e 2 / 2 % 16)))
  [j placed1 (e 1) fun _ _ => true, j (staged [stage1] false) (e 2) fun _ x => !x.sealed, j (passing psRUNNING pass1) (e 2) fun u x => x.sealed && !x.closing && u.pass.isSome,
   j placed1 (e 18) fun u x => x.sealed && u.pass.isNone && !u.snapHolds && !u.retraining && u.rd F.keepFaultStatState = 0 && !u.on F.keepFaultStatJobFatal && u.energyOk 2 && u.host.waits.isEmpty &&
     !u.heldCommit 1 && (u.launchLoads (true || !x.loaded) false).2 && u.jobTiles = [25599] && decide (25599 < tileCount),
   done false, done true, pc placed1 (e 0) fun u => u.pass.isNone && !u.heldLaunch 1, pc (held [l, ⟨e 0, .commit 1 false 0⟩]) (e 0) fun u => u.pass.isNone && u.heldLaunch 1 && u.heldCommit 1,
   pc (held [l]) (e 31) fun u => u.heldLaunch 1 && !u.heldCommit 1 && !ok u (e 31), pc (held [l]) (e 0) fun u => u.heldLaunch 1 && !u.heldCommit 1 && ok u (e 0),
   pc (passing psENDED { pass1 with commit := some (e 0) }) (e 0) fun u => u.pass.any fun p => p.number = 1 && p.commit.isSome,
   pc (passing psENDED pass1) (e 31) fun u => u.pass.any (fun p => p.number = 1 && p.commit.isNone) && !ok u (e 31), pc (passing psENDED pass1) (e 0) fun u => u.pass.any (fun p => p.number = 1 && p.commit.isNone)]

theorem wit_LaunchAndCommit : wLaunchAndCommit.all id = true := by decide +kernel

/-- A commit with a held Signal; discards for both causes; each step of a discard; the replay; an abort that stays unacknowledged. -/
def wPassEnds : List Bool :=
  let sg : HeldSig := ⟨{ Packet.blank with typ := pSIGNAL, dst := 9, src := 5, epoch := 4, reqKind := 3 }, 0, 0, 0⟩
  let c := ({ passing psENDED { pass1 with commit := some (cmd 1 1 0 0) } with heldSigs := [sg] }).wrs [(etState 511 15, etOPEN), (etModule 511 15, 5), (etEpoch 511 15, 4)]
  let late := { c with pass := some { pass1 with commit := some (cmd 1 1 0 0), fabric := true, late := true } }
  let run := passing psRUNNING pass1
  let d (src cause : Nat) : Bool :=
    let r := run.wrs [(F.tileFaultValid 25599, 1), (F.tileFaultCause 25599, cause), (F.tileStatState 25599, stHalt)]
    r.pass.any (fun p => p.step = 0 && p.fatal.isNone && p.program.isNone && p.remaps.isEmpty) && !r.keep.restarting && decide (r.rd F.keepPassStatState ≠ psCOMMITTING) &&
      r.reqs.isEmpty && r.jobTiles = [25599] && r.tileCause 25599 = some cause && r.bad (25599 / 20) = [] && (src = 0 && decide (cMSEQ ≤ cause) || src = 12 && decide (cause ≤ cWDOG))
  let st (p : Pass) (f : State → Bool) : Bool := f (passing psDISCARDING p) && !(passing psDISCARDING p).keep.restarting
  let bare := ((passing psDISCARDING { pass1 with step := 6 }).wr (F.tileSpdPartKind 25599 0) kInstr).modTile 25599 fun x => { x with reload := [0] }
  let noRes (s : State) : Bool := s.stages.all fun g => g.parts.all fun d => decide (bf d.toNat 0 3 ≠ kResident)
  [(c.pass.any fun p => p.commit.isSome && !p.fabric) && (late.pass.any fun p => p.commit.isSome && p.fabric && !p.barrier && p.late) && !c.fab.doubt.contains c.epoch && c.rd F.keepPassStatState = psENDED && !c.keep.restarting && c.host.waits.isEmpty && c.snap 0 = none && c.snap 1 = none && c.bound.slices = [] &&
     c.deck.exhausted = [] && c.heldSigs.all (fun h => h.pkt.typ = pSIGNAL) && c.entryOf 511 c.moduleId c.epoch [etOPEN] = some 15,
   d 0 cMSEQ, d 12 cWDOG, st { pass1 with step := 3, fatal := some 4 } fun s => s.snap 0 = none && s.snap 1 = none && s.job.any fun j => !j.closing, st { pass1 with step := 1 } fun s => s.enginesIdle && !s.fab.doubt.contains s.epoch,
   st { pass1 with step := 3 } fun s => (s.regs.all fun p => !winOrSlice p.1) && noRes s && !s.on F.keepPassStatNonrep, st { pass1 with step := 3, program := some (cMSEQ, 25599) } fun s => s.snap 0 = none && s.snap 1 = none && noRes s &&
     s.job.all fun j => !j.closing, st { pass1 with step := 6 } fun s => (s.launchLoads false true).2 && !s.retraining,
   (bare.pass.any fun p => p.step = 6) && !(bare.launchLoads false true).2 && !bare.keep.restarting && bare.job.isSome && !bare.retraining, st { pass1 with step := 3, acks := [9] } fun s => s.boot.reset.isNone,
   decide ({ passing psDISCARDING { pass1 with step := 3, acks := [9] } with boot := { up.boot with reset := some ⟨true, false, false⟩ } }.boot.reset ≠ none)]

/-- What the discard's third step asks of the slices, from the fifth item. -/
theorem wit_PassEnds_marks : (passing psDISCARDING { pass1 with step := 3 }).marksLeft 5 4 [etOPEN, etDROPPING] = false :=
  no_entries (by decide +kernel) _ _ _ (by decide)

theorem wit_PassEnds : wPassEnds.all id = true := by decide +kernel

/-! ## Areas, settings, windows, routes -/

/-- EXCH, KEEP and LEASH commands in and out of range, with and without a job; a kennel before a placement, with a pass, and at once
(no window lies over the released area: `no_winOver`). -/
def wAreasAndSettings : List Bool :=
  let g : Gate := ⟨false, false, true, true⟩
  let xd (s : State) (k : Nat) (f : State → Bool) : Bool := (s.cmdTurn (admin k 0 0) .admin g [(1, [(0, 5)])]).any fun u => f u
  let xr (s : State) (a n : Nat) (f : State → Bool) : Bool := (s.cmdTurn (admin (a + n * 2 ^ 13) 2 0) .admin g [(1, [(0, 26)]), (2, [(0, 2)])]).any fun u => f u
  let kp (s : State) (n : Nat) (f : State → Bool) : Bool := (s.cmdTurn (admin n 0 0) .admin g [(1, [(0, 64)])]).any fun u => f u
  let ls (c : Nat) (s : State) (w2 : Nat) (f : State → Bool) : Bool :=
    (s.cmdTurn (admin c w2 0) .admin .plain [(1, [(0, 4)]), (2, [(0, 63)]), (3, [(0, 42)]), (4, [(0, 32)])]).any fun u => f u
  let win := (mapped.wrs [(F.hostwExchDeclared, 1), (F.hostwExchNSeg, 8192)])
  let x : Loc := (win.locate win.variant.exchBase).getD place0
  let win := (win.wr (F.floorHashKind 0 (win.variant.exchBase / segBytes)) 1)
  let owned := let p := (win.locate win.variant.exchBase).getD x; win.hbmPut p.slice p.line p.sector [1] []
  let area := { up with host := { up.host with keeps := [(up.variant.exchBase - 0x200000, 0x200000)] } }
  let overWin := area.wrs [(F.winCtrlState 0, 1), (F.winCtrlBase 0, (up.variant.exchBase - 256) / 256)]
  let eight := { up with host := { up.host with keeps := List.replicate 8 (0, 0x200000) } }
  let run := up.wr F.keepPassStatState psRUNNING
  let t : TensorSt := ⟨0x200000, 0, 0, false, some ⟨0, false, 0, 0, 63, 2⟩, 2, false⟩
  let kn (s : State) (f : State → Job → Bool) : Bool := (s.cmdTurn (cmd 1 0 (1 + 4 + 15 * 8) 0) .job .jobCmd [(1, [(0, 16)]), (2, [(0, 7)])]).any fun u => u.job.any fun j => f u j
  let kj (isPlaced : Bool) : State := { jobbed with job := some ⟨1, 1, [], [t], isPlaced, [], [], true, false⟩ }
  let fits (u : State) (w2 : Nat) : Bool := (List.range 5).all fun cls =>
    decide (10 * (((List.range 16).map fun k => if k = 15 then (if cls = 0 then w2 else 0) else u.leashSet k cls).sum) ≤ 9 * u.nominal cls)
  [xd up 15 fun _ => true, xd up 31 fun _ => true, xd jobbed 16 fun u => u.job.isSome, xd up 30 fun u => u.job.isNone, xr win 8191 2 fun u => u.rd F.hostwExchNSeg = 8192,
   xr owned 0 1 fun u => decide (u.flagWord 0 % 4 ≠ 0), xr win 0 1 fun u => u.flagWord 0 % 4 = 0, kp up 0x100000 fun _ => true, kp jobbed 0x200000 fun u => u.job.isSome,
   kp eight 0x200000 fun u => u.job.isNone && u.host.keeps.length = 8, kp area 0x200000 fun u => u.job.isNone && u.host.keeps.all (fun k => decide (k.1 + k.2 ≤ u.variant.exchBase)) && (u.keepPlace 0x200000).isSome,
   kp overWin (up.variant.exchBase - 0x200000) fun u => (u.host.keeps.find? fun k => decide (k.1 = up.variant.exchBase - 0x200000)).any fun k => u.winOver k.1 k.2,
   kp area (up.variant.exchBase - 0x200000) fun u => (u.host.keeps.find? fun k => decide (k.1 = up.variant.exchBase - 0x200000)).isSome && u.job.isNone && (u.regs.all fun p => !winOrSlice p.1),
   kp area 0 fun u => u.host.keeps.all fun k => decide (k.1 ≠ 0), ls 15 up (2 ^ 21 - 1) fun u => !fits u (2 ^ 21 - 1), ls 1 up 1 fun _ => true, ls 15 run 92160 fun u => fits u 92160 && u.rd F.keepPassStatState = psRUNNING,
   ls 15 up 92160 fun u => fits u 92160 && decide (u.rd F.keepPassStatState ≠ psRUNNING) && u.bound.leashes = [], kn (kj false) fun _ j => !j.sealed,
   kn { kj true with pass := some pass1 } fun u j => j.sealed && u.pass.isSome && j.tensors[0]? = some t, kn (kj true) fun u j => j.sealed && u.pass.isNone && j.tensors[0]? = some t && decide (t.cls ≠ 4) && u.slices = []]

theorem wit_AreasAndSettings : wAreasAndSettings.all id = true := by decide +kernel

/-- Windows opened in the wrong state, out of bounds, too soon and at once; closed; routes that name links and do not. -/
def wWindowsAndRoutes : List Bool :=
  let mo (s : State) (a : Nat) (f : State → Bool) : Bool :=
    (s.cmdTurn (admin 1023 a 0) .admin .plain [(1, [(0, 10)]), (2, [(0, 64)]), (3, [(0, 32)]), (4, [(0, 14), (16, 14)]), (5, [(0, 11)])]).any fun u => a % 256 = 0 && f u
  let mc (s : State) : Bool := (s.cmdTurn (admin 1023 0 0) .admin .plain [(1, [(0, 10)])]).isSome
  let isOpen := mapped.wr (F.winCtrlState 1023) 1
  let soon := mapped.modFab fun f => { f with winClosed := [⟨1023, nextGen 0, 0⟩] }
  let tp := placed1.wrs [(F.tileSpdPartKind 25599 1, kWindow), (F.tileSpdPartBase 25599 1, 1), (F.tileSpdPartLenM1 25599 1, 0)]
  let te (a : Nat) : Entry := cmd 1 (25599 + 3 * 2 ^ 16) a 0
  let tw (s : State) (e : Entry) (f : State → Bool) : Bool := (s.cmdTurn e .job .jobCmd ((List.range 7).map fun k => (k + 1, [(0, 64)]))).any fun u =>
    e.rsv = 0 && u.job.any (·.sealed) && u.jobTiles.contains 25599 && f u
  let ok (e : Entry) : Bool := !extraBits e [(1, [(0, 18)]), (2, [(0, 18)]), (3, [(0, 10)]), (4, [(0, 14), (16, 14)]), (5, [(0, 2)])]
  let re (n v : Nat) : Entry := { admin 0x1000 (16383 + n * 2 ^ 14) 0 with inp := ⟨some (leBytes 2 v), true, false, []⟩ }
  let rs (n v : Nat) (f : State → Bool) : Bool := (up.cmdTurn (re n v) .admin .plain [(1, [(3, 61)]), (2, [(0, 29)])]).any fun u => f u
  [mo isOpen 0 fun u => decide (u.rd (F.winCtrlState 1023) ≠ 0), mo mapped 0x200000 fun u => u.rd (F.winCtrlState 1023) = 0 && !u.mwinFits 0x200000 256,
   mo soon 0 fun u => u.mwinFits 0 256 && u.reopenSoon 1023 (nextGen (u.rd (F.winCtrlGen 1023))),
   mo mapped 0x1FFF00 fun u => u.rd (F.winCtrlState 1023) = 0 && u.mwinFits 0x1FFF00 256 && !u.reopenSoon 1023 (nextGen (u.rd (F.winCtrlGen 1023))), mc mapped, mc isOpen,
   ok (te 256) && tw (tp.wr (F.tileWinState 25599 3) 1) (te 256) fun u => decide (u.rd (F.tileWinState 25599 3) = 1),
   tw tp (te 512) fun u => u.rd (F.tileWinState 25599 3) = 0 && !u.inWindowRegion 25599 512 256,
   tw tp (te 256) fun u => u.inWindowRegion 25599 256 256 && u.rd (F.tileWinState 25599 3) = 0 && !u.reopenSoon (keyTile 25599 3) (nextGen (u.rd (F.tileWinGen 25599 3))),
   tw (tp.modFab fun f => { f with winClosed := [⟨keyTile 25599 3, nextGen 0, 0⟩] }) (te 256) fun u => u.inWindowRegion 25599 256 256 &&
     u.reopenSoon (keyTile 25599 3) (nextGen (u.rd (F.tileWinGen 25599 3))),
   !extraBits (te 0) [(1, [(0, 18)])], tw tp (te 0) fun u => u.rd (F.tileWinState 25599 3) = 0, tw (tp.wr (F.tileWinState 25599 3) 1) (te 0) fun u => u.rd (F.tileWinState 25599 3) = 1,
   rs 0 0 fun _ => true, rs 1 (63 + 64) fun u => u.routeBad (63 + 64) == decide (u.variant.links ≤ 63), rs 1 (2 ^ 14) fun u => u.routeBad (2 ^ 14), rs 1 64 fun u => !u.routeBad 64 && (re 1 64).inp.read = some (leBytes 2 64)]

theorem wit_WindowsAndRoutes : wWindowsAndRoutes.all id = true := by decide +kernel

/-! ## Trees -/

/-- TREE_SET valid and not; TREE_DISABLE idle and active; PACK_OP bad, without memory, refused, behind another, with children, on a leaf, on a lone root, a broadcast; SNAPSHOT
busy and armed. -/
def wTreeCommands : List Bool :=
  let ts (w1 w2 : Nat) (f : State → Entry → Bool) : Bool := (up.cmdTurn (admin w1 w2 0) .admin .plain [(1, [(0, 24)]), (2, kidFields), (3, kidFields)]).any fun u => f u (admin w1 w2 0)
  let noLaunch (u : State) : Bool := u.host.waits.isEmpty
  let td (s : State) (f : State → Bool) : Bool := (s.cmdTurn (admin 15 0 0) .admin .plain [(1, [(0, 4)])]).any fun u => noLaunch u && f u
  let at_ (s : State) (t : TreeSt) : State := { s with trees := tset (fun _ => TreeSt.reset) s.trees 15 t }
  let tree (bits : Nat) (kid : Bool) : State := (up.setReg (R.packTreeKids1 15) (if kid then BitVec.ofNat 64 ((9 + 2 ^ 14) * 2 ^ 48) else 0)).wrs
    [(F.packTreeCtrlEnable 15, bits % 2), (F.packTreeCtrlHasParent 15, bits / 2 % 2), (F.packTreeCtrlCommit 15, bits / 4)]
  let byHost : PackOp := ⟨kBARRIER, 0, 0, 0, 0, [], .host (admin 31 0 0)⟩
  let busy := at_ (tree 1 false) ⟨5, some byHost, [], [], [], none, none, 0, none, none⟩
  let w (kind : Nat) : Nat := 15 + kind * 16
  let e (kind : Nat) (bs : Option (List Byte)) : Entry := { admin (w kind) 0x1000 0x2000 with inp := ⟨bs, true, false, []⟩ }
  let po (s : State) (kind : Nat) (bs : Option (List Byte)) (f : State → TreeSt → Bool) : Bool :=
    (s.cmdTurn (e kind bs) .admin .plain [(1, [(0, 16)]), (2, [(3, 61)]), (3, [(3, 61)])]).any fun u => f u (u.tree 15)
  let b8 := some (leBytes 8 7)
  let b256 := some (leBytes 256 7)
  let idle (x : TreeSt) : Bool := x.op.isNone && x.starts.isEmpty
  let en (u : State) : Bool := u.on (F.packTreeCtrlEnable 15) && !u.on (F.packTreeCtrlCommit 15)
  let each (s : State) (f : State → TreeSt → Bool) : Bool := po s kBARRIER none f && po s kREDUCTION b8 f
  let kinds (s : State) (f : State → TreeSt → Bool) : Bool := each s f && po s kBROADCAST b256 f
  let place := (mapped.locate 0).getD place0
  let plan : List W64 := [0x101, 0, 0, 0, 0, 0, BitVec.ofNat 64 0x200000]
  let sn (s : State) (f : State → Bool) : Bool :=
    (s.cmdTurn (admin 15 1 0) .admin ⟨false, false, true, true⟩ [(1, [(0, 4)]), (2, [(0, 64)]), (3, [(0, 64)])]).any fun u => f u
  let snap := { mapped.hbmPut place.slice place.line place.sector plan [] with pass := some pass1 }
  [ts 15 0 fun u e => !u.treeInvalid e, ts (15 + 16 + 5 * 32) 0 fun u e => u.treeInvalid e, td (tree 1 false) fun u => idle (u.tree 15), td busy fun u => (u.tree 15).op = some byHost,
   packOpBad (15 + kREDUCTION * 16 + 5 * 256) && (up.cmdTurn (admin (15 + kREDUCTION * 16 + 5 * 256) 0 0) .admin .plain [(1, [(0, 16)]), (2, [(3, 61)]), (3, [(3, 61)])]).isSome,
   [kBARRIER, kREDUCTION, kBROADCAST].all fun k => !packOpBad (w k) && bf (w k) 4 4 = k, po up kREDUCTION none fun _ _ => true, po up kBROADCAST none fun _ _ => true,
   kinds (tree 0 false) fun u _ => !u.on (F.packTreeCtrlEnable 15), kinds (tree 5 false) fun u _ => u.on (F.packTreeCtrlCommit 15), po (tree 3 false) kBROADCAST b256 fun u _ => !u.isRoot 15,
   kinds busy fun u x => en u && u.isRoot 15 && x.op.isSome, each (tree 1 true) fun u x => en u && idle x && u.kids 15 = [7] && (u.upOf 15 7).isNone,
   each (tree 3 false) fun u x => en u && idle x && u.kids 15 = [] && !u.isRoot 15 && decide (x.lastUp ≠ some x.opSeq),
   kinds (tree 1 false) fun u x => en u && idle x && u.kids 15 = [] && u.isRoot 15 && decide (x.lastUp ≠ some x.opSeq),
   po (tree 1 true) kBROADCAST b256 fun u x => en u && idle x && u.isRoot 15, leWords 1 (leBytes 8 7) = [7],
   sn (up.wr (F.packSnapStatState 1) snCOMMITTED) fun u => u.snapBusy, sn snap fun u =>
     let r1 := u.readCommitted 0 0 8
     let r2 := r1.1.readCommitted 0 0 56
     !u.snapBusy && u.inMemory 0 8 && r1.1.inMemory 0 56 && planWords (leNat (r1.2.map (·.b))) = 7 && !anyPois r2.2 && r2.1.planOk (leWords 7 (r2.2.map (·.b))) && r2.1.pass.isSome]

theorem wit_TreeCommands : wTreeCommands.all id = true := by decide +kernel

/-! ## Resets, retirement, retraining -/

/-- Each command in each of its cases. -/
def wResetCommands : List Bool :=
  let fr (s : State) (f : State → Bool) : Bool := (s.cmdTurn (admin 15 1 0) .admin ⟨false, true, false, true⟩ [(1, [(0, 4)]), (2, [(0, 1)])]).any fun u => f u
  let pr (s : State) (w : Nat) (f : State → Bool) : Bool := (s.cmdTurn (admin w 0 0) .admin ⟨true, true, false, true⟩ [(1, [(0, 3)])]).any fun u => f u
  let rt (s : State) (f : State → Bool) : Bool := (s.cmdTurn (admin 0 0 0) .admin .plain []).any fun u => f u
  let rc (s : State) (k n : Nat) (f : State → Bool) : Bool := (s.cmdTurn (admin (k + 2 * n) 0 0) .admin ⟨false, true, false, true⟩ [(1, [(0, 10)])]).any fun u => f u
  let root := up.wr (F.packTreeCtrlEnable 15) 1
  let boot (s : State) (r : Option ResetSt) (p : Nat) : State := { s with boot := { s.boot with reset := r, linkPhase := p } }
  let anyUp (u : State) : Bool := (List.range u.variant.links).any fun l => u.linkExists l && decide (u.rd (F.linkStatState l) = lkUp)
  let local_ : ResetSt := ⟨true, false, false⟩
  let running (s : State) : State := { s with pass := some pass1 }
  let c := 64 * 7 + up.variant.chansPerFloor - 1
  let idle (u : State) : Bool := u.boot.reset.isNone && u.boot.linkPhase = 0
  [fr up fun u => !u.on (F.packTreeCtrlEnable 15), fr (boot root none 1) fun u => u.on (F.packTreeCtrlEnable 15) && u.isRoot 15 && decide (u.boot.linkPhase ≠ 0), fr root fun u => u.isRoot 15 && idle u,
   fr (boot root (some local_) 0) fun u => u.boot.reset = some local_ && u.boot.linkPhase = 0, fr (boot root (some { local_ with fabric := true }) 0) fun u => u.boot.reset.isSome && u.boot.linkPhase = 0,
   [0, 1].all fun k => pr (boot up (some local_) 0) k (fun u => u.boot.reset.isSome) && pr (boot up none 2) k fun u => decide (u.boot.linkPhase ≠ 0), pr up 4 fun u => idle u && u.pass.isNone,
   pr (running up) 4 fun u => idle u && u.pass.isSome, pr jobbed 1 fun u => idle u && u.job.isSome, pr (linked lkUp) 1 fun u => idle u && u.job.isNone && anyUp u,
   rt jobbed fun u => u.job.isSome, rt (boot up none 1) fun u => decide (u.boot.linkPhase ≠ 0), rt (linked lkUp) fun u => u.job.isNone && u.boot.linkPhase = 0 && anyUp u, rt up fun u => u.job.isNone && u.boot.linkPhase = 0 && !anyUp u && (u.regs.all fun p => !winOrSlice p.1),
   rt (mapped.wr (F.winCtrlState 1023) 1) fun u => u.job.isNone && u.boot.linkPhase = 0 && !anyUp u && u.rd (F.winCtrlState 1023) = 1,
   rt (mapped.wr (F.winCtrlState 0) 2) fun u => u.job.isNone && u.rd (F.winCtrlState 0) = 2,
   rc up 0 up.variant.links fun u => !u.linkExists up.variant.links, rc (up.wr F.bootPartLink 2) 0 lastLink fun u => u.linkExists lastLink && u.rd F.bootPartLink = 2 && decide (lastLink < 64),
   rc (linked lkDown) 0 lastLink fun u => decide (u.rd F.bootPartLink ≠ 2) && decide (u.rd (F.linkStatState lastLink) ≤ lkDown), rc (linked lkUp) 0 lastLink fun u => u.linkExists lastLink && decide (lkDown < u.rd (F.linkStatState lastLink)),
   rc { up with variant := .bt1608 } 1 511 fun u => !u.slicePopulated 511, rc (boot up (some local_) 0) 1 c fun u => u.slicePopulated c && u.boot.reset.isSome,
   rc (up.wr (F.hbmcChStatState (c / 16) (c % 16)) 3) 1 c fun u => u.chanRetired c && u.boot.reset.isNone, rc up 1 c fun u => !u.chanRetired c && u.boot.reset.isNone && u.pass.isNone,
   rc (running up) 1 c fun u => !u.chanRetired c && u.boot.reset.isNone && u.pass.isSome]

theorem wit_ResetCommands : wResetCommands.all id = true := by decide +kernel

/-! ## The host's interface -/

/-- Indices; a held completion that finds room; queues enabled and disabled; fetches of each kind; timeouts. -/
def wHostRings : List Bool :=
  let c : Completion := ⟨9, 0, 7, false, true⟩
  let hq := up.setQueue 15 { Queue.reset with held := [c] }
  let hq := hq.wrs [(F.cmdqQcfgLog2Size 15, 4), (F.cmdqCqBaseAddr 15, 5)]
  let f := (up.wr (F.cmdqSqTailIndex 1) 3)
  let r (w0 : Nat) : RawEntry := ⟨[BitVec.ofNat 64 w0, 0, 0, 0, 0, 0, 0, 0], ⟨none, true, false, []⟩⟩
  let turn (s : State) : Bool := s.keeperRuns && s.host.linkUp && s.fetchTurn = some 1
  let u := ({ f with host := { f.host with turn := 2 } } : State)
  let u := u.setQueue 1 { u.queue 1 with head := ((u.queue 1).head + 1) % u.ringSize 1 }
  let w : Waiting := ⟨{ cmd 0 0x1000 0 0 with sq := 15 }, .telem⟩
  let fenced := rawCommand 1 (r (2 ^ 8))
  [up.host.linkUp, (hq.queue 15).held = [c] && (hq.wr (F.cmdqCqHeadIndex 15) 8).cqRoom 15 && !hq.keep.restarting, (up.queue 15).held = [], !up.on (F.cmdqQcfgEnable 15), up.on (F.cmdqQcfgEnable 1),
   turn f && fenced.fence && decide ((f.queue 1).out ≠ 0), turn f && !(rawCommand 1 (r 0x00)).fence && (opcodeRows (rawCommand 1 (r 0x00))).any fun x => x.1 = 0x00,
   turn f && !(rawCommand 1 (r 0xFF)).fence && u.cmdReady (rawCommand 1 (r 0xFF)), f.keeperRuns && f.fetchable 1,
   let s : State := { f with host := { f.host with waits := [w] } }; (s.host.waits.find? fun w => decide (w.why = Wait.telem) && decide (w.e.sq = 15) && decide (w.e.cmdId = 9)) = some w && s.keeperRuns]

theorem wit_HostRings : wHostRings.all id = true := by decide +kernel

/-- Accesses over BAR2 and BAR4 in service and out of it, one that the dead table refuses; register writes of each kind, to an open window and to an
unpopulated site among them; a GO; the link. -/
def wHostAccesses : List Bool :=
  let base := up.variant.exchBase
  let m := (List.range 8).foldl (fun s f => s.wr (F.floorHashKind f (base / segBytes)) 1) up
  let x := (m.setRight (pageOf base) 3).wrs [(F.hostwExchDeclared, 1), (F.hostwExchSegLog2, 16), (F.hostwExchNSeg, 8191)]
  let at_ (s : State) (f : State → Bool) : Bool := s.host.linkUp && f s.wake
  let pois := let p := (x.locate base).getD place0; x.hbmPut p.slice p.line p.sector [] [31]
  let owned := let p := (x.locate base).getD place0; x.hbmPut p.slice p.line p.sector [1] []
  let theirs := let p := (x.locate base).getD place0; x.hbmPut p.slice p.line p.sector [2] []
  let dead := let p := (x.locate base).getD place0; (x.modSlice p.slice fun y => { y with dead := [p.line] }).wr (F.floorDbgDeadTrap (p.slice / 64)) 1
  let b8 : List Byte := List.replicate 8 0
  let got (u : State) (n : Nat) : Option (List PB) := if u.memBusy (base + 0) n then none else ((u.settleFills (base + 0) n []).readAt false u.hostCollar (base + 0) n []).2
  let busy (s : State) (a : Nat) : State := let n := ((x.locate a).getD place0).slice; s.wr (F.hbmcChStatState (n / 16) (n % 16)) 2
  let reg (off size : Nat) (host : Bool) (s : State) : Bool := decide (size = 4 ∨ size = 8) && off % size = 0 && s.host.linkUp &&
    (blockAt off).any (fun b => (!host || b.1) && (!b.2 || !s.computeDown)) && (regDefAt (off / 8 * 8)).isSome && decide (off ≠ R.bootStep) && !actReg (off / 8 * 8)
  let early := up.wrs [(F.bootStatusDoneUpto, 11)]
  [at_ (up.wr F.bootPartCompute 3) fun u => u.bar2Down, at_ up fun u => !u.bar2Down && u.bar2Ur 0 8, at_ x fun u => !u.bar2Down && !u.bar2Ur 0 8 && (got u 8).any fun bs => !anyPois bs,
   at_ (busy x base) fun u => !u.bar2Down && !u.bar2Ur 0 8 && u.memBusy (base + 0) 8, at_ (busy owned (base + 0x10000)) fun u => !u.bar2Ur 0x10000 8 && u.ownerRefuses 0x10000 b8 = none && u.memBusy (base + 0x10000) 8,
   at_ dead fun u => !u.bar2Down && !u.bar2Ur 0 8 && !u.memBusy (base + 0) 8 && got u 8 = none,
   at_ pois fun u => !u.bar2Down && !u.bar2Ur 0 256 && (got u 256).any anyPois, at_ theirs fun u => !u.bar2Ur 0x10000 8 && (u.ownerRefuses 0x10000 b8).isSome,
   at_ owned fun u => !u.bar2Ur 0x10000 8 && u.ownerRefuses 0x10000 b8 = none && !u.memBusy (base + 0x10000) 8, up.host.linkUp && decide (2 ^ 25 < 2 ^ 25 - 7 + b8.length), up.bar4Open && decide (2 ^ 25 - 8 + b8.length ≤ 2 ^ 25),
   !(up.wr F.bootStatusDoneValid 0).bar4Open, decide (R.thrmCfg % 8 = 0), (blockAt 0x7FFFFFFFFF).isNone, [R.cmdqQcfg 0, R.keepPassStat].any fun o => (blockAt o).any fun b => !b.1,
   !early.boot.running && early.nextStep = 12, reg R.cmdqEvtCfg 8 true up, reg (R.cmdqSqBase 15) 8 true up, reg (R.cmdqQcfg 1) 4 true up, reg (R.cmdqQcfg 1 + 4) 4 true up, reg R.hostwErr 8 true up,
   reg (R.tileFpCtrl 575) 8 false up, (let s := up.wr (F.winCtrlState 1023) 1; reg (R.winLen 1023) 8 false s && s.rd (F.winCtrlState ((R.winLen 1023 - 0x10000) / 0x10)) ≠ 0),
   (let s : State := { up with variant := .bt1608 }; reg (R.hbmcCfg 31) 4 false s && s.variant.stacksPerFloor ≤ 31 % 4),
   (let s : State := { up with variant := .bt3204 }; reg (R.linkErr 63) 8 false s && s.variant.links ≤ 63),
   (let s : State := { up with variant := .bt3204 }; reg (R.portSelf 7) 8 false s && s.variant.portDies ≤ 7), reg (R.sliceErr 511) 8 false up && ceReg (R.sliceErr 511),
   reg (R.keepLatTgt 15) 8 false up, reg R.keepCollarCfg 8 false up, up.host.linkUp && up.power.powered]

theorem wit_HostAccesses : wHostAccesses.all id = true := by decide +kernel

/-! ## Bring-up -/

/-- The module at bring-up step `k`: the steps before it are done, and none runs. -/
def before (k : Nat) : State :=
  up.wrs [(F.bootStatusDoneValid, if k = 0 then 0 else 1), (F.bootStatusDoneUpto, k - 1), (F.bootStatusReady, 0), (F.bootPartCompute, if k ≤ 9 then 0 else 1),
    (F.bootPartLink, if k ≤ 10 then 0 else 1), (F.attsIdStatPart, up.variant.partCode)] |> fun s => (List.range 8).foldl (fun s p => s.wr (F.portSelfValid p) 0) s

/-- Each step in its turn; links that rest and do not; an ID that is valid before S11; a step that runs when its time ends; FW_STAGE and FW_ACTIVATE. -/
def wBringUp : List Bool :=
  let turn (k : Nat) (f : State → Bool) : Bool := ((before k).stepTurn k .boot).any f
  let byCmd (k : Nat) : Bool := ({ up.wr F.bootStatusDoneUpto (k - 1) with boot := up.boot }.stepTurn k (.cmd (admin k 77 0))).isSome
  let fuses := leBytes 8 1 ++ sha3 (leBytes 8 1)
  let runs (k : Nat) : State := { (before k).wrs [(F.bootStatusStep, k)] with boot := { up.boot with running := true, src := some .boot } }
  let train := (runs 10).wrs [(F.bootPartLink, 1), (F.linkStatState 0, lkTraining), (F.linkCtrlEnable 0, 1)]
  let upLink := (runs 11).wr (F.linkStatState 0) lkUp
  let st (n : Nat) (f : State → Entry → Bool) : Bool := (up.cmdTurn (admin n 0 0) .admin .plain [(1, [(0, 26)])]).any fun u => f u (admin n 0 0)
  let act (s : State) (f : State → Bool) : Bool := (s.cmdTurn (admin 0 0 0) .admin .plain []).any f
  [turn 0 fun _ => true, turn 1 fun _ => true, turn 2 fun v => (v.imageStatus v.bar4Image none).isSome, turn 3 fun _ => (fuses.take 8).length = 8 && sha3 (fuses.take 8) = (fuses.drop 8).take 64,
   turn 4 fun _ => true, turn 5 fun _ => true, turn 6 fun _ => true, turn 7 fun _ => true, turn 8 fun _ => true, turn 9 fun _ => true, turn 10 fun _ => true, turn 11 fun v => !v.on (F.portSelfValid 0),
   turn 12 fun _ => true, (train.stepTurn 10 .boot).isSome, ((upLink.wr (F.portSelfValid 0) 1).stepTurn 11 .boot).any fun v => v.on (F.portSelfValid 0),
   (upLink.stepTurn 11 .boot).any fun v => !v.on (F.portSelfValid 0) && v.rd (F.linkStatState 0) = lkUp, (runs 10).boot.running && (runs 10).rd F.bootStatusStep = 10, (runs 11).rd F.bootStatusStep = 11,
   (runs 12).boot.running && (runs 12).rd F.bootStatusStep = 12, byCmd 5, st 0x2000001 fun _ _ => true, st 0x2000 fun u _ => (u.imageStatus u.bar4Image (some 0x2000)).isSome,
   act jobbed fun u => u.job.isSome, act up fun u => u.job.isNone && !u.on F.attsFwStatStaged, act (up.wr F.attsFwStatStaged 1) fun u => u.on F.attsFwStatStaged]

theorem wit_BringUp : wBringUp.all id = true := by decide +kernel

/-- The digest of no bytes (FIPS 202's example for the empty message), first byte first. -/
def digest0 : List Byte :=
  (leBytes 64 0xa69f73cca23a9ac5c8b567dc185a756e97c982164fe25859e0d1dcc1475c80a615b2123af1f5f94c11e3e9402c3ac558f500199d95b6d3e301758586281dcd26).reverse

/-- SHA3-512 of the empty message (R533, R645 name FIPS 202). -/
theorem test_sha3_empty : sha3 [] = digest0 := by decide +kernel

/-- The header of an image without a body, for every part, of key slot 0. -/
def imgHead : List Byte := leBytes 4 0x54535242 ++ leBytes 2 1 ++ [0, 0, 1, 0, 0, 0] ++ leBytes 4 0 ++ leBytes 4 7 ++ leBytes 8 9 ++ leBytes 4 0 ++ digest0

/-- A public key, all zeros. -/
def pub0 : List Byte := List.replicate 2592 0

/-- The module at S2 with that image in BAR4, whose slot 0 is programmed for that key. -/
def imaged : State := { (before 2) with fw := { up.fw with keys := [sha3 pub0], bar4 := msets [] 0 imgHead } }

/-- A memory that holds these bytes from 0 on, and nothing else. -/
theorem mgets_from_0 (h : List Byte) (n : Nat) (hn : h.length ≤ n) : mgets (msets [] 0 h) 0 n = h ++ List.replicate (n - h.length) 0 := by
  apply List.ext_getElem
  · simp; omega
  · intro i h1 h2
    simp only [mgets, List.getElem_map, List.getElem_range, mget_msets, List.getElem_append, Nat.zero_add, Nat.zero_le, true_and, Nat.sub_zero]
    by_cases h3 : i < h.length <;> simp [h3]

theorem imaged_form : imaged.bar4Image = imgHead ++ List.replicate (0x2000 - imgHead.length) 0 := by
  have hl : imgHead.length ≤ 0x2000 := by decide +kernel
  have hn : min 0x2000000 (0x2000 + leNat (mgets imaged.fw.bar4 12 4)) = 0x2000 := by decide +kernel
  unfold State.bar4Image
  rw [hn]
  exact mgets_from_0 imgHead 0x2000 hl

theorem imaged_status (c : Option Nat) (hc : c = none ∨ c = some 0x2000) (hv : ∀ m g, Config.mldsaVerify pub0 m g = true) :
    imaged.imageStatus (imgHead ++ List.replicate (0x2000 - imgHead.length) 0) c = none := by
  have hk : ((imgHead ++ List.replicate (0x2000 - imgHead.length) 0).drop 0x100).take 2592 = pub0 := by decide +kernel
  have hd : (imgHead ++ List.replicate (0x2000 - imgHead.length) (0 : Byte)).drop 0x2000 = [] := by decide +kernel
  have hi : imgKey (imgHead ++ List.replicate (0x2000 - imgHead.length) 0) = 0 := by decide +kernel
  have he : imaged.fw.keys = [sha3 pub0] := rfl
  unfold State.imageStatus
  simp only [hk, hv, hd, hi, he, test_sha3_empty]
  rw [if_neg, if_neg, if_neg, if_neg (by simp), if_neg, if_neg]
  · decide +kernel
  · decide +kernel
  · rintro (h | h)
    · exact h rfl
    · revert h; decide +kernel
  · decide +kernel
  · rcases hc with rfl | rfl <;> decide +kernel

/-- Where the signature of that image verifies (its verdict is uninterpreted, log entry 13), the image is valid, for S2 and for FW_STAGE. -/
theorem wit_BringUp_image (hv : ∀ m g, Config.mldsaVerify pub0 m g = true) :
    imaged.imageStatus imaged.bar4Image none = none ∧ imaged.imageStatus imaged.bar4Image (some 0x2000) = none ∧ (imaged.stepTurn 2 .boot).isSome = true := by
  rw [imaged_form]
  exact ⟨imaged_status none (.inl rfl) hv, imaged_status _ (.inr rfl) hv, by decide +kernel⟩

/-! ## Power, bays, heat -/

/-- The module with every stack populated, four converters, phases on every rail, and four cells in every ring. -/
def rich : State :=
  let s := (List.range 32).foldl (fun s h => s.wr (F.hbmcCfgPopulated h) 1) (up.wrs [(F.pwrmStatConvOk, 4), (F.pwrmStatSupplyOk, 1), (F.pwrmCapCapW, 4000)])
  let s := (List.range 24).foldl (fun s r => s.wr (F.pwrmPhaseStatInstalled r) 12) s
  (List.range 97).foldl (fun s m => s.wr (F.reglStatCellsOk m) 15) s

/-- A module without power; converters, rails, phases, zones and cells at the ends of their ranges; an account without waiting launches. -/
def wPowerEvents : List Bool :=
  let off : State := { up with power := { up.power with powered := false, pwrOff := true } }
  let trip : State := { up with power := { up.power with powered := false, tripped := true, enLoop := true, pwrOff := false } }
  [up.power.powered, !off.power.powered && off.power.pwrOff, !trip.power.powered && trip.power.tripped && trip.power.enLoop && !trip.power.pwrOff, rich.rd (convState 3) = 0 && decide (1 ≤ rich.rd F.pwrmStatConvOk),
   [0, 23, 24, 31, 32, 127, 128, 143, 146, 147].all fun n => rich.railExists n || decide (128 ≤ n), rich.railExists (128 + up.variant.portDies - 1), [146, 147].all rich.railExists,
   [0, 7, 8, 23].all fun r => decide (rich.rd (F.pwrmPhaseStatFailed r) < rich.rd (F.pwrmPhaseStatInstalled r)), (rich.wr (F.pwrmPhaseStatFailed 0) 11).rd (F.pwrmPhaseStatInstalled 0) = 12,
   (rich.wr (F.pwrmPhaseStatFailed 7) 8).rd (F.pwrmPhaseStatFailed 7) = 8, [0, 31, 32, 64, 96].all fun m => (rich.rd (F.reglStatCellsOk m)).testBit 3, rich.keeperRuns && rich.host.waits.isEmpty]

theorem wit_PowerEvents : wPowerEvents.all id = true := by decide +kernel


/-- Bays with and without resting tiles, powering up, deferred; idle entries and wakes; stacks; cages; a poll of quiet sensors; levels; a trip of the last port die. -/
def wBaysIdleThermal : List Bool :=
  let b := bayOf 25599
  let gate (s : State) (may : Bool) : Bool := !s.bayGated b && !s.power.upping.contains b && (decide (s.bayTiles b = []) ||
    (s.bayTiles b).all (fun t => s.rd (F.tileStatState t) = stIdle || s.rd (F.tileStatState t) = stDone) && s.rd F.pwrmBayCfgIdleUs ≠ 0) == may
  let upping : State := { rich with power := { rich.power with upping := [(7, 19)] } }
  let busy := upping.wrs [(F.pwrmBayUpBusy 7, 1), (F.pwrmBayBayUp 7, 19)]
  let late := busy.wr (F.pwrmBayDeferred 7) 1
  let idle (c : Nat) (s : State) : State := s.wr F.pwrmWakeTolChosen c
  let ok (s : State) : Bool := decide (s.rd F.pwrmWakeTolCurrent < s.rd F.pwrmWakeTolChosen) && s.power.waking.isNone && s.mayIdle (s.rd F.pwrmWakeTolChosen) && !s.keep.restarting
  let wake (cur n : Nat) : State := { rich.wr F.pwrmWakeTolCurrent cur with power := { rich.power with waking := some n } }
  let cage : State := { rich with power := { rich.power with cages := [(0, some ⟨true, true, false, 20⟩)], granted := [0] } }
  let quiet := List.replicate 64 160
  let poll : ThermalIn := ⟨List.replicate 8 quiet, List.replicate 8 (quiet.take 48), List.replicate 8 (quiet.take 16), []⟩
  let hot := { rich.wrs [(F.thrmUnitGoverning 7, 91), (F.thrmStatHeel, 1)] with therm := { rich.therm with grace := true } }
  let n := 16 + up.variant.portDies - 1
  [gate (rich.wr F.pwrmBayCfgIdleUs 5) true, gate (placed1.wrs [(F.pwrmBayCfgIdleUs, 5), (F.tileStatState 25599, stDone)]) true, gate (placed1.wrs [(F.pwrmBayCfgIdleUs, 5), (F.tileStatState 25599, stRun)]) false,
   upping.bayTurn 7 = some 19 && !upping.on (F.pwrmBayUpBusy 7), late.bayTurn 7 = some 19 && late.on (F.pwrmBayDeferred 7), late.on (F.pwrmBayDeferred 7) && late.rd (F.pwrmBayBayUp 7) = 19,
   busy.on (F.pwrmBayUpBusy 7) && !busy.on (F.pwrmBayDeferred 7) && busy.rd (F.pwrmBayBayUp 7) = 19, ok (idle 2 rich), (wake 4 0).power.waking = some 0, (wake 4 3).rd F.pwrmWakeTolCurrent = 4,
   (wake 3 0).mayRefresh && (wake 3 0).stackPopulated 31 && !(wake 3 0).selfRef.contains 31 && !(wake 3 0).copyDue 31 && (List.range 16).all (fun c => ((wake 3 0).slice (16 * 31 + c)).fills.isEmpty && ((wake 3 0).slice (16 * 31 + c)).wbs.isEmpty),
   decide (2 * (up.variant.links / 2 - 1) < up.variant.links) && (rich.cage (up.variant.links / 2 - 1)).isNone, (cage.cage 0).isSome, rich.stackPopulated 31, rich.keeperRuns && rich.thermUnit 23 == decide (7 < up.variant.portDies),
   [0, 8, 16].all fun u => rich.thermUnit u && (let rs := if u < 8 then poll.deck.getD u [] else if u < 16 then poll.floor.getD (u - 8) [] else poll.port.getD (u - 16) []
     (List.range ((gridOf u).1 * (gridOf u).2)).all fun i => rich.sensorIn u i && !rich.disagrees u i rs),
   hot.keeperRuns && hot.therm.grace && hot.atCaution = [7], decide (n < 24) && rich.thermUnit n && decide (15 < (gridOf n).1 * (gridOf n).2) && rich.sensorIn n 15]

/-- The same at level 4, where no window may be in use. -/
theorem wit_idle4 : (rich.wr F.pwrmWakeTolChosen 4).mayIdle 4 = true := by
  have h := no_winUse (s := rich.wr F.pwrmWakeTolChosen 4) (by decide +kernel)
  have h1 : (decide ((rich.wr F.pwrmWakeTolChosen 4).rd F.bootPartCompute = 1) && (rich.wr F.pwrmWakeTolChosen 4).pass.isNone &&
    !((rich.wr F.pwrmWakeTolChosen 4).host.waits.any fun w => usesCompute w.why) && (rich.wr F.pwrmWakeTolChosen 4).job.isNone) = true := by decide +kernel
  simpa [State.mayIdle, h, and_assoc] using h1

theorem wit_BaysIdleThermal : wBaysIdleThermal.all id = true := by decide +kernel

/-! ## Time -/

/-- Announcements heard and not; samples of each source; losses; the root and a member of the time tree; packets fresh and late; an answer that is awaited. -/
def wTimeSources : List Bool :=
  let a : Announce := ⟨7, 0, [1, 2]⟩
  let ptp := up.wr F.timeCfgPtp 1
  let gm (m : Announce) : State := { ptp with time := { ptp.time with master := some m } }
  let tree (s : State) (parent : Bool) : State := s.wrs [(F.packTreeCtrlEnable 15, 1), (F.packTreeCtrlTime 15, 1), (F.packTreeCtrlHasParent 15, b2n parent), (F.packTreeCtrlParent 15, 9), (F.packCfgTimeEn, 1)]
  let lose (src st : Nat) (s : State) : State := s.wrs [(F.timeStatSource, src), (F.timeStatState, st)]
  let pps : State := { up with time := { up.time with pps := some 5 } }
  let h (aux : Nat) : PackHdr := ⟨15, kTIME, false, 0, 0, 0, 0, 0, 0, 0, aux⟩
  let pk (aux : Nat) : Packet := { Packet.blank with typ := pPACK, dst := 5, src := 9, pack := some (h aux) }
  let down (aux : Nat) (t : TreeSt) (st : Nat) : State := { (tree (arriving (pk aux)) true).wrs [(F.timeStatState, st), (routeFld 0 9 0 6, 0), (routeFld 0 9 6 1, 1)] with trees := tset (fun _ => TreeSt.reset) [] 15 t }
  let turn (s : State) (aux : Nat) (f : State → TreeSt → Bool) : Bool := (s.packetTurn 0 (pk aux)).any fun v => v.timeTree = some 15 && !v.isRoot 15 && v.rd (F.packTreeCtrlParent 15) = 9 && f v (v.tree 15)
  let fresh (v : State) (x : TreeSt) : Bool := x.route ≠ none && v.routeOf (v.rd (F.packTreeCtrlHome 15)) 9 = x.route
  let t0 : TreeSt := { TreeSt.reset with route := some 0, sentAt := some 0 }
  [ptp.keeperRuns && ptp.rd F.timeCfgPtp = 1 && a.dom = ptp.rd F.timeCfgDomain && ptp.time.master.isNone, up.rd F.timeCfgPtp = 0, decide (a.clock ≠ 9) && lexLess a.data [1, 3],
   (gm a).ptpOn && !(gm a).timeMember && (gm a).time.master = some a, (tree (gm a) true).timeMember && (tree (gm a) true).keeperRuns, ptp.ptpOn, up.power.powered && up.keeperRuns,
   (gm a).ptpOn && (gm a).time.master.isSome, let s := up.wrs [(F.timeCfgPpsOut, 1), (F.timeStatState, tmHOLDOVER)]; s.on F.timeCfgPpsOut && s.now % 1000000000 = 0,
   (lose tsPPS tmLOCKED up).rd F.timeStatSource = tsPPS && !(lose tsPPS tmLOCKED up).timeMember, (lose tsPTP tmLOCKED pps).time.pps.isSome, (lose tsPTP tmFREE up).rd F.timeStatState = tmFREE,
   (tree up false).timeTree = some 15 && (tree up false).isRoot 15 && (tree up false).on F.packCfgTimeEn, (tree up true).timeTree = some 15 && !(tree up true).isRoot 15,
   turn (down 5 t0 0) 5 fun v x => v.keeperRuns && fresh v x && x.sentAt = some 0, turn (down 20000 t0 tmLOCKED) 20000 fun v x => v.keeperRuns && fresh v x && v.rd F.timeStatState = tmLOCKED,
   turn (down 5 TreeSt.reset 0) 5 fun v x => !fresh v x, turn { down 5 t0 0 with keep := { up.keep with restarting := true } } 5 fun v _ => !v.keeperRuns]

theorem wit_TimeSources : wTimeSources.all id = true := by decide +kernel

/-! ## The Keeper and the responder -/

/-- Restarts, activations, fuses that are left to blow, tables in each state, SPDM requests in and out of their turn. -/
def wKeeperAndResponder : List Bool :=
  let restarting : State := { up with keep := { up.keep with restarting := true } }
  let act (s : State) : State := { s with fw := { s.fw with activating := true } }
  let img : List Byte := List.replicate 7 0 ++ [0x1F, 5] ++ List.replicate 300 0
  let adv : State := { up.wr F.attsFwStatSvn 5 with fw := { up.fw with image := img } }
  let blow (fused : Nat) : State := { (adv.wrs [(F.attsFwStatAdvancing, 1), (F.attsFwStatFused, fused)]) with keep := up.keep }
  let hold : State := { up with keep := { up.keep with hold := some (.perm, 7) } }
  let i (t : TableKind) : Nat := match t with | .route => 15 | .window => up.variant.portDies - 1 | _ => 7
  let st (n : Nat) : State := up.wr F.attsSpdmStatState n
  [up.keeperRuns && !up.fw.activating, (act up).fw.activating, restarting.keep.restarting, (act restarting).fw.activating && restarting.keep.restarting, adv.on F.bootStatusReady && !adv.keep.restarting && imgAdvance adv.fw.image &&
     decide (adv.rd F.attsFwStatFused < adv.rd F.attsFwStatSvn), (blow 4).on F.attsFwStatAdvancing && decide ((blow 4).rd F.attsFwStatFused < (blow 4).rd F.attsFwStatSvn), decide ((blow 5).rd F.attsFwStatSvn ≤ (blow 5).rd F.attsFwStatFused),
   [TableKind.tileMap, .hashMap, .twin, .perm, .route, .window].all fun t => up.tableAt t (i t), up.keep.hold.isNone && up.pass.isNone && up.job.isNone, jobbed.keep.hold.isNone && jobbed.job.isSome && jobbed.pass.isNone,
   hold.keep.hold = some (.perm, 7), up.keeperRuns && up.host.linkUp && !up.fw.resync, { up with fw := { up.fw with resync := true } }.fw.resync, decide ((st 0).rd F.attsSpdmStatState < 1), (st 1).rd F.attsSpdmStatState = 1,
   decide (2 ≤ (st 2).rd F.attsSpdmStatState)]

theorem wit_KeeperAndResponder : wKeeperAndResponder.all id = true := by decide +kernel

/-! ## The whole machine -/

/-- A packet of each kind that fits; a step from a sound state with a command in front. -/
def wMachine : List Bool :=
  let pk : Packet := { Packet.blank with typ := pPACK, dst := 16383, src := 9, pack := some ⟨15, kREDUCTION, true, 4, 3, 7, 7, 15, 65535, 5, 9⟩, data := List.replicate 64 3, poison := [7] }
  let mg : Packet := { Packet.blank with typ := pMGMT, src := 9, mgmt := some ⟨1, 63, true, 1, 15⟩ }
  [packetFits tilePkt, packetFits { tilePkt with wkind := 0, winIdx := 1023, offset := 2 ^ 40 - 1, data := List.replicate 2048 1, poison := [0, 255] }, packetFits pk, packetFits mg]

theorem wit_PacketRoundTrip : wMachine.all id = true := by decide +kernel

/-- The state after reset with a command in front. -/
def oneLeft : State := { State.reset with pending := [.powerApplied, .nop (admin 0 0 0)] }

theorem wit_StepInvariant : oneLeft.sound ∧ ∃ t, step oneLeft = .next t := by
  refine ⟨by unfold State.sound; decide +kernel, ?_⟩
  have h : (match step oneLeft with | .next _ => true | _ => false) = true := by decide +kernel
  revert h
  cases step oneLeft with
  | next t => exact fun _ => ⟨t, rfl⟩
  | fault f => exact fun h => nomatch h
  | refused r => exact fun h => nomatch h

theorem wit_FrontCommand : State.reset.pending = [] := rfl

/-! ## Small steps, their results worked out by hand from the rules named -/

/-- A property of the next state. -/
def nx (o : Host.Outcome State Fault Refusal) (p : State → Bool) : Bool := match o with | .next s => p s | _ => false

/-- Tile 0 with scalar registers 2 and 3, about to execute this scalar slot. -/
def alu (op a b sd imm : Nat) : State := ((onTile (bundle 0 0 0 (sSlot op sd 2 3 imm))).setS 0 2 (BitVec.ofNat 32 a)).setS 0 3 (BitVec.ofNat 32 b)

/-- Scalar register of tile 0 afterwards. -/
def sIs (o : Host.Outcome State Fault Refusal) (r v : Nat) : Bool := nx o fun s => ((s.tile 0).sreg r).toNat = v

/-- ADD wraps modulo 2³² (R109). -/
theorem test_add_wraps : sIs (exec (.add 0 1 2 3 []) (alu 1 0xFFFFFFFF 3 1 0)) 1 2 = true := by decide +kernel
/-- A write of s0 is discarded (R109). -/
theorem test_add_s0 : sIs (exec (.add 0 0 2 3 []) (alu 1 4 3 0 0)) 0 0 = true := by decide +kernel
/-- 3 − 5 wraps (R109). -/
theorem test_sub_wraps : sIs (exec (.sub 0 1 2 3 []) (alu 2 3 5 1 0)) 1 0xFFFFFFFE = true := by decide +kernel
/-- A shift takes the low 5 bits of its count: 33 shifts by 1 (R109). -/
theorem test_shl_count : sIs (exec (.shl 0 1 2 3 []) (alu 6 0x80000001 33 1 0)) 1 2 = true := by decide +kernel
/-- SRA keeps the sign (R109). -/
theorem test_sra_sign : sIs (exec (.sra 0 1 2 3 []) (alu 8 0xFFFFFFF8 1 1 0)) 1 0xFFFFFFFC = true := by decide +kernel
/-- −1 is below 1 signed and above it unsigned (R109). -/
theorem test_slt_signed : sIs (exec (.slt 0 1 2 3 []) (alu 10 0xFFFFFFFF 1 1 0)) 1 1 = true := by decide +kernel
theorem test_sltu_unsigned : sIs (exec (.sltu 0 1 2 3 []) (alu 11 0xFFFFFFFF 1 1 0)) 1 0 = true := by decide +kernel
/-- ADDI extends its immediate by sign, ORI by zero (R109). -/
theorem test_addi_sign : sIs (exec (.addi 0 1 2 0x3FFFF []) { alu 12 5 0 1 0x3FFFF with tiles := (onTile (bundle 0 0 0 (sSlot 12 1 2 0 0x3FFFF))).setS 0 2 5 |>.tiles }) 1 4 = true := by
  decide +kernel
theorem test_ori_zero : sIs (exec (.ori 0 1 2 0x3FFFF []) ((onTile (bundle 0 0 0 (sSlot 13 1 2 0 0x3FFFF))).setS 0 2 0x80000000)) 1 0x8003FFFF = true := by decide +kernel
/-- LUI shifts its immediate left by 14 (R109). -/
theorem test_lui : sIs (exec (.lui 0 1 0x3FFFF []) (onTile (bundle 0 0 0 (sSlot 14 1 0 0 0x3FFFF)))) 1 0xFFFFC000 = true := by decide +kernel
/-- LW reads the 4 bytes at its address, the lowest byte first (R109, R112). -/
theorem test_lw : sIs (exec (.lw 0 4 0 0x104 []) ((onTile (bundle 0 0 0 (sSlot 15 4 0 0 0x104))).modTile 0 fun x => x.putWord 0x20 [1, 2, 3, 4, 5, 6, 7, 8] false)) 4 0x08070605 = true := by
  decide +kernel
/-- An LW address that is no multiple of 4 halts the tile with ALIGN (R112). -/
theorem test_lw_align : nx (exec (.lw 0 4 0 0x102 []) (onTile (bundle 0 0 0 (sSlot 15 4 0 0 0x102)))) (fun s => s.rd (F.tileFaultCause 0) = cALIGN && s.rd (F.tileStatState 0) = stHalt) = true := by
  decide +kernel
/-- JMP goes 2 bundles ahead: byte 32 (R109). -/
theorem test_jmp : nx (exec (.jmp 0 2 []) (onTile (bundle 0 0 0 (sSlot 19 0 0 0 2)))) (fun s => (s.tile 0).pc = 32) = true := by decide +kernel
/-- BRZ on s0 is taken, BRNZ is not (R109). -/
theorem test_brz_taken : nx (exec (.brz 0 0 3 []) (onTile (bundle 0 0 0 (sSlot 17 0 0 0 3)))) (fun s => (s.tile 0).pc = 48) = true := by decide +kernel
theorem test_brnz_not : nx (exec (.brnz 0 0 3 []) (onTile (bundle 0 0 0 (sSlot 18 0 0 0 3)))) (fun s => (s.tile 0).pc = 16) = true := by decide +kernel
/-- A branch out of the instruction region raises RANGE (R112). -/
theorem test_jmp_range : nx (exec (.jmp 0 0x3FFFF []) (onTile (bundle 0 0 0 (sSlot 19 0 0 0 0x3FFFF)))) (fun s => s.rd (F.tileFaultCause 0) = cRANGE) = true := by decide +kernel
/-- A LOOP with imm 0 raises OPCODE, one with count 0 skips its body (R111). -/
theorem test_loop_imm0 : nx (exec (.loop 0 0 0 []) (onTile (bundle 0 0 0 (sSlot 20 0 0 0 0)))) (fun s => s.rd (F.tileFaultCause 0) = cOPCODE) = true := by decide +kernel
theorem test_loop_skips : nx (exec (.loop 0 0 2 []) (onTile (bundle 0 0 0 (sSlot 20 0 0 0 2)))) (fun s => (s.tile 0).pc = 48 && (s.tile 0).loops.isEmpty) = true := by decide +kernel

/-- Tile 0 about to execute a vector slot, its lanes 0 of v1, v2 and v4 set. -/
def lanes3 (op vd vb vc m typ a b c : Nat) : State :=
  let set (s : State) (r v : Nat) : State := s.modTile 0 fun x => x.putLanes r (fun l => decide (l = 0)) [BitVec.ofNat 32 v]
  set (set (set (onVC op vd 1 vb vc m typ) 1 a) 2 b) 4 c

/-- Lane of a vector register afterwards, and the flags of the tile. -/
def vIs (i : Nat → VC → List SpdErr → Instr) (s : State) (r l v flags : Nat) : Bool :=
  nx (exec (i 0 (s.bundle 0).vc []) s) fun z => ((z.tile 0).lane r l).toNat = v && (z.reg (R.tileFpFlags 0)).toNat = flags

/-- 1 + 2 = 3 in FP32, no flag (R85). -/
theorem test_vadd : vIs .vadd (lanes3 1 3 2 0 0 0 0x3F800000 0x40000000 0) 3 0 0x40400000 0 = true := by decide +kernel
/-- 1 + 2⁻²⁴ is halfway and goes to the even 1: inexact (R85, R89). -/
theorem test_vadd_even : vIs .vadd (lanes3 1 3 2 0 0 0 0x3F800000 0x33800000 0) 3 0 0x3F800000 0x10 = true := by decide +kernel
/-- INT32 addition wraps (R114). -/
theorem test_vadd_int : vIs .vadd (lanes3 1 3 2 0 0 2 0x7FFFFFFF 1 0) 3 0 0x80000000 0 = true := by decide +kernel
/-- Both halves of packed BF16: 1 × 2 and 2 × 2 (R114). -/
theorem test_vmul_bf16 : vIs .vmul (lanes3 3 3 2 0 0 1 0x40003F80 0x40004000 0) 3 0 0x40804000 0 = true := by decide +kernel
/-- 2 × 2 + (−1) = 3 (R114). -/
theorem test_vfma : vIs .vfma (lanes3 4 3 2 4 0 0 0x40000000 0x40000000 0xBF800000) 3 0 0x40400000 0 = true := by decide +kernel
/-- 3·10⁹ saturates to the greatest integer with the invalid flag, a NaN gives 0 (R92). -/
theorem test_vcvti_limit : vIs .vcvti (lanes3 22 3 0 0 0 0 0x4F32D05E 0 0) 3 0 0x7FFFFFFF 1 = true := by decide +kernel
theorem test_vcvti_nan : vIs .vcvti (lanes3 22 3 0 0 0 0 0x7FC00000 0 0) 3 0 0 1 = true := by decide +kernel
/-- VPKB puts va in the low half and vb in the high half (R114). -/
theorem test_vpkb : vIs .vpkb (lanes3 23 3 2 0 0 0 0x3F800000 0x40000000 0) 3 0 0x40003F80 0 = true := by decide +kernel
/-- VRSUM of one lane that is not 0: the sum in lane 0, 0 in lane 1 (R704). -/
theorem test_vrsum : vIs .vrsum (lanes3 26 3 0 0 0 2 7 0 0) 3 0 7 0 = true := by decide +kernel
/-- VCEQ into m0 raises OPCODE (R114). -/
theorem test_vceq_m0 : let s := lanes3 13 4 2 0 0 0 0 0 0
    nx (exec (.vceq 0 (s.bundle 0).vc []) s) (fun z => z.rd (F.tileFaultCause 0) = cOPCODE) = true := by decide +kernel

/-- NOP's completion entry on queue 1 (R464): cmd_id 9, status 0, sq_head 0, queue 1, phase 1, result 0; its vector is raised. -/
theorem test_nop_completion : nx (exec (.nop (cmd 0 0 0 0)) up) (fun s => mgets s.host.mem 0x4000 16 = [9, 0, 0, 0, 0, 0x10, 0, 0x80, 0, 0, 0, 0, 0, 0, 0, 0]) = true := by decide +kernel
/-- An admin command on queue 1 ends with INVALID_OPCODE (R469). -/
theorem test_admin_scope : nx (exec (.eventMask (cmd 0 1 0 0)) up) (fun s => leNat (mgets s.host.mem 0x4002 2) = sINVALID_OPCODE && s.host.mask = up.host.mask) = true := by decide +kernel
/-- A write of the tail index (R465). -/
theorem test_sq_tail : nx (exec (.sqTailWrite 3 17) up) (fun s => s.rd (F.cmdqSqTailIndex 3) = 17) = true := by decide +kernel
/-- BAR4 takes a byte at its last offset once S1 is done (R460). -/
theorem test_bar4_last : nx (exec (.bar4Write 0x1FFFFFF [0xAB]) up) (fun s => mget s.fw.bar4 0x1FFFFFF = 0xAB) = true := by decide +kernel
/-- Fewer than three converters end S0 with SUPPLY (R531). -/
theorem test_s0_supply : nx (exec (.stepS0 .boot 48000 0b0011) (before 0)) (fun s => s.rd F.bootStatusResult = 0x11 && s.rd F.bootStatusState = 3) = true := by decide +kernel
/-- PWR_OFF rises: nothing is left but the fuses (R541). -/
theorem test_pwr_off : nx (exec .pwrOffHigh up) (fun s => s.now = 0 && !s.power.powered && s.rd F.bootStatusDoneUpto = 0) = true := by decide +kernel
/-- A link trains with all lanes and comes Up whole (R393, R394). -/
theorem test_link_up : nx (exec (.linkTrainingDone 0 ⟨0, 15, 0, false, 3, 9, true, 0, 0⟩) (up.wrs [(F.linkStatState 0, lkTraining), (F.linkCtrlEnable 0, 1)]))
    (fun s => s.rd (F.linkStatState 0) = lkUp && s.rd (F.linkStatWidth 0) = 3 && s.rd (F.linkStatPeerModule 0) = 9) = true := by decide +kernel
/-- Lanes 2 and 3 alone give half width (R394). -/
theorem test_link_half : nx (exec (.linkTrainingDone 0 ⟨0, 12, 0, false, 3, 9, true, 0, 0⟩) (up.wrs [(F.linkStatState 0, lkTraining), (F.linkCtrlEnable 0, 1)]))
    (fun s => s.rd (F.linkStatWidth 0) = 2 && s.rd (F.linkStatLanesGood 0) = 12) = true := by decide +kernel
/-- A Deposit to an open window leaves one request for its sector; one past the window's end is refused (R407, R408). -/
theorem test_deposit : nx (exec (.depositArrival 0 (winP pDEPOSIT)) (arriving (winP pDEPOSIT))) (fun s => s.reqs.length = 1 && s.fab.landings.length = 1 && s.fab.inbox.isEmpty) = true := by
  decide +kernel
theorem test_deposit_bounds : let p := { winP pDEPOSIT with offset := 256 }
    nx (exec (.depositArrival 0 p) (arriving p)) (fun s => s.reqs.isEmpty && s.fab.landings.isEmpty && s.fab.inbox.isEmpty) = true := by decide +kernel
/-- A lone root's barrier completes at once with one member (R434, R470). -/
theorem test_barrier : nx (exec (.packOpBarrier (admin (15 + kBARRIER * 16) 0 0)) (up.wr (F.packTreeCtrlEnable 15) 1))
    (fun s => mgets s.host.mem 0x3008 8 = [0, 0, 0, 0, 1, 0, 0, 0] && (s.tree 15).opSeq = 1) = true := by decide +kernel
/-- On an empty queue the timebase counts a nanosecond (R614; log entry 1). -/
theorem test_empty_queue : nx (step up) (fun s => s.now = 1) = true := by decide +kernel
/-- Commands leave the queue in order (log entry 1). -/
theorem test_fifo : nx (step { up with pending := [.eventMask (admin 5 0 0), .eventMask (admin 6 0 0)] }) (fun s => s.host.mask = 5 && s.pending = [.eventMask (admin 6 0 0)]) = true := by decide +kernel

/-! ## Well-formedness refuses each operand out of its range -/

/-- Each field of an entry; each start of a step; tiles, slices, links and lines; bonds. -/
theorem test_wf_shared :
    ((Instr.nop (admin 0 0 0)).wf && !(Instr.nop { admin 0 0 0 with sq := 16 }).wf && !(Instr.nop { admin 0 0 0 with rsv := 2 ^ 22 }).wf
      && !(Instr.nop { admin 0 0 0 with cmdId := 2 ^ 16 }).wf && !(Instr.nop { admin 0 0 0 with job := 2 ^ 16 }).wf
      && (Instr.stepS2 .boot).wf && !(Instr.stepS2 (.cmd { admin 0 0 0 with sq := 16 })).wf && !(Instr.stepS0 .boot 48000 16).wf
      && (Instr.tileStop 25599).wf && !(Instr.tileStop 25600).wf && !(Instr.add 25600 1 2 3 []).wf
      && !(Instr.bondScanStep 0 ⟨4, 0, 0, 0⟩ false).wf && !(Instr.bondScanStep 0 ⟨0, 160, 0, 0⟩ false).wf && !(Instr.bondScanStep 0 ⟨0, 0, 156, 0⟩ false).wf
      && !(Instr.bondScanStep 0 ⟨0, 0, 0, 32⟩ false).wf && !(Instr.bondScanStep 8 ⟨0, 0, 0, 0⟩ false).wf) = true := by decide +kernel

/-- Slices, links, and the lines of packets. -/
theorem test_wf_places :
    ((Instr.commitDrain 511 []).wf && !(Instr.commitDrain 512 []).wf && (Instr.linkEnable 63).wf && !(Instr.linkEnable 64).wf && (Instr.packUp 71 Packet.blank).wf
      && !(Instr.packUp 72 Packet.blank).wf && !(Instr.join 64 Packet.blank).wf && !(Instr.portBridgeFail 8).wf && !(Instr.callServe 8 []).wf
      && !(Instr.linkCreditStall 0 9).wf && !(Instr.linkLossOfLock 0 16).wf && !(Instr.channelRetrainDone ⟨512, none, 0, 0, []⟩).wf) = true := by decide +kernel

/-- Queues, registers, power, heat, time, tables. -/
theorem test_wf_block :
    (!(Instr.sqTailWrite 16 0).wf && !(Instr.sqTailWrite 0 4096).wf && !(Instr.cqHeadWrite 0 4096).wf && !(Instr.queueEnable 16).wf && !(Instr.queueDisable 16).wf
      && !(Instr.commandFetch 16 none).wf && !(Instr.hostDmaTimeout 16 none).wf && !(Instr.registerWrite (2 ^ 26) 8 0 .host).wf && !(Instr.registerWrite 0 2 0 .host).wf
      && !(Instr.converterFault 4).wf && !(Instr.phaseFail 24).wf && !(Instr.bondZoneOvercurrent 8 0 true).wf && !(Instr.bondZoneOvercurrent 0 16 true).wf
      && !(Instr.reglCellFail 97 0).wf && !(Instr.reglCellFail 0 4).wf && !(Instr.bayUp 8 0).wf && !(Instr.bayUp 0 20).wf && !(Instr.selfRefreshEntry 32).wf
      && !(Instr.cageRemove 32).wf && !(Instr.hwTrip 24 0 0).wf && !(Instr.hbmTempPoll 32 none).wf && !(Instr.ptpAnnounce ⟨0, 256, []⟩).wf
      && !(Instr.timeSourceLoss 0).wf && !(Instr.timeSourceLoss 4).wf && !(Instr.tableCheck .perm 16 ⟨[true, true, true], [0, 0, 0]⟩).wf
      && !(Instr.tableCheck .perm 0 ⟨[true], [0, 0, 0]⟩).wf && !(Instr.tableCheck .perm 0 ⟨[true, true, true], []⟩).wf) = true := by decide +kernel

/-- Tiles, slices, windows, trees, floors. -/
theorem test_wf_units :
    (!(Instr.scoreboardRetire 0 16).wf && !(Instr.tileWatchdogExpiry 0 16).wf && !(Instr.tileRun 0 (2 ^ 14)).wf && !(Instr.bulkClear 0 1024 0).wf
      && !(Instr.bulkClear 0 0 1024).wf && !(Instr.gatherTimeout 0 4 []).wf && !(Instr.spdCeWriteback 0 32768).wf && !(Instr.tileWinCloseDone 0 4).wf
      && !(Instr.load 0 2 []).wf && !(Instr.dropWalkDone 0 0).wf && !(Instr.dropWalkDone 0 16).wf && !(Instr.sliceModeSet 0 4 0).wf && !(Instr.sliceModeSet 0 0 4).wf
      && !(Instr.kennelEnable 64 0 0).wf && !(Instr.floorHashWrite 8 0 0).wf && !(Instr.floorHashWrite 0 768 0).wf && !(Instr.floorPermWrite 0 18624 0).wf
      && !(Instr.floorTwinWrite 0 768 0).wf && !(Instr.portRouteWrite 8 0 0).wf && !(Instr.portRouteWrite 0 4096 0).wf && !(Instr.signalRecordExpiry 1024 0).wf
      && !(Instr.discardAcksComplete false [(25600, 0)]).wf && !(Instr.discardAcksComplete false [(0, 32768)]).wf && !(Instr.packTimeout 16).wf && !(Instr.snapshotFreeze 2).wf && !(Instr.mwinClosed 1024).wf && !(Instr.clockBondLoss 8 0 true).wf
      && !(Instr.clockBondLoss 0 160 true).wf) = true := by decide +kernel

end Sys2Proof.Tests
end

section
/-! The host's queues, and what a command in its turn posts (R464, R465, R475). -/

namespace Sys2Proof.Machine

theorem leads_next {t : State} {p : State → Prop} (h : p t) : leads (.next t) p := ⟨t, rfl, h⟩

/-! ## Bit fields of the words of a command -/

theorem bf_zero (v w : Nat) : bf v 0 w = v % 2 ^ w := by simp [bf]

theorem bit_eq_testBit (v i : Nat) : bit v i = v.testBit i := (Nat.testBit_eq_decide_div_mod_eq).symm

/-! ## The queues of the host -/

theorem State.queue_setQueue (s : State) (q : Nat) (x : Queue) (k : Nat) :
    (s.setQueue q x).queue k = if k = q then x else s.queue k := tget_tset _ _ _ _ _

@[simp] theorem State.queue_setQueue_same (s : State) (q : Nat) (x : Queue) : (s.setQueue q x).queue q = x := by
  simp [State.queue_setQueue]

@[simp] theorem State.queue_wr (s : State) (f : Fld) (v q : Nat) : (s.wr f v).queue q = s.queue q := rfl

@[simp] theorem State.queue_hostWrite (s : State) (a : Nat) (bs : List Byte) (q : Nat) : (s.hostWrite a bs).queue q = s.queue q := rfl

@[simp] theorem State.queue_msix (s : State) (v q : Nat) : (s.msix v).queue q = s.queue q := rfl

@[simp] theorem State.rd_setQueue (s : State) (q : Nat) (x : Queue) (f : Fld) : (s.setQueue q x).rd f = s.rd f := rfl

@[simp] theorem State.rd_hostWrite (s : State) (a : Nat) (bs : List Byte) (f : Fld) : (s.hostWrite a bs).rd f = s.rd f := rfl

@[simp] theorem State.mem_setQueue (s : State) (q : Nat) (x : Queue) : (s.setQueue q x).host.mem = s.host.mem := rfl

@[simp] theorem State.msix_setQueue (s : State) (q : Nat) (x : Queue) : (s.setQueue q x).host.msix = s.host.msix := rfl

@[simp] theorem State.mem_hostWrite (s : State) (a : Nat) (bs : List Byte) : (s.hostWrite a bs).host.mem = msets s.host.mem a bs := rfl

@[simp] theorem State.msix_hostWrite (s : State) (a : Nat) (bs : List Byte) : (s.hostWrite a bs).host.msix = s.host.msix := rfl

@[simp] theorem State.mem_msix (s : State) (v : Nat) : (s.msix v).host.mem = s.host.mem := rfl

/-- A message counts at its vector. -/
theorem State.msix_msix (s : State) (v k : Nat) :
    tget (fun _ => 0) (s.msix v).host.msix k =
      if k = v % 64 then tget (fun _ => 0) s.host.msix (v % 64) + 1 else tget (fun _ => 0) s.host.msix k := tget_tset _ _ _ _ _

/-- The busy bit of a queue leaves every other field of its configuration. -/
theorem State.rd_wr_busy (s : State) (q v : Nat) (f : Fld) (hf : f.lo + f.w ≤ 64) (h : f.lo + f.w ≤ 11 ∨ 12 ≤ f.lo) :
    (s.wr (F.cmdqQcfgBusy q) v).rd f = s.rd f :=
  State.rd_wr_apart s _ f v hf (by simp only [F.cmdqQcfgBusy]; omega)

/-- A stopped queue takes no notice of what `posted` says. -/
theorem posted_queueRest {v z : State} {e : Entry} {st r : Nat} (h : posted v z e st r) : posted v (z.queueRest e.sq) e st r := by
  unfold State.queueRest
  split
  · exact h
  · obtain ⟨hz, hregs, hhost, hne, hout, hhead, hopen, hheld⟩ := h
    refine ⟨?_, hregs, ?_, ?_, ?_, ?_, ?_, ?_⟩
    · rw [hz]; rfl
    · simp only [State.setQueue, State.modHost]; rw [hhost]
    · intro q hq
      rw [State.queue_setQueue, if_neg hq, hne q hq]
    · simpa using hout
    · simpa using hhead
    · simpa using hopen
    · simpa using hheld

/-- The queue's next completion entry, as `postNow` writes it. -/
def State.entryWord (s : State) (q : Nat) (c : Completion) : Nat :=
  c.cmdId % 2 ^ 16 + c.status % 2 ^ 16 * 2 ^ 16 + (s.queue q).head % 2 ^ 12 * 2 ^ 32 + q % 16 * 2 ^ 44 + b2n c.notice * 2 ^ 48 +
    b2n (s.queue q).phase * 2 ^ 63

/-- Nothing but queues, memory and interrupt messages on the host's side differs. -/
def hostPosts (s w : State) : Prop :=
  w = { s with host := { s.host with queues := w.host.queues, mem := w.host.mem, msix := w.host.msix } }

theorem hostPosts.trans {s w z : State} (h : hostPosts s w) (h' : hostPosts w z) : hostPosts s z := by
  unfold hostPosts at *; rw [h', h]

theorem hostPosts_setQueue (s : State) (q : Nat) (x : Queue) : hostPosts s (s.setQueue q x) := rfl

theorem hostPosts_hostWrite (s : State) (a : Nat) (bs : List Byte) : hostPosts s (s.hostWrite a bs) := rfl

theorem hostPosts_msix (s : State) (v : Nat) : hostPosts s (s.msix v) := rfl

theorem hostPosts_postNow (s : State) (q : Nat) (c : Completion) : hostPosts s (s.postNow q c) := by
  have h := fun a bs x => (hostPosts_hostWrite s a bs).trans (hostPosts_setQueue _ q x)
  unfold State.postNow
  split
  · exact (h _ _ _).trans (hostPosts_msix _ _)
  · exact h _ _ _

theorem State.queue_postNow (s : State) (q : Nat) (c : Completion) (k : Nat) :
    (s.postNow q c).queue k = if k = q then
      { s.queue q with tail := ((s.queue q).tail + 1) % s.ringSize q,
                       phase := if ((s.queue q).tail + 1) % s.ringSize q = 0 then !(s.queue q).phase else (s.queue q).phase }
    else s.queue k := by
  unfold State.postNow; split <;> simp only [State.queue_msix, State.queue_setQueue, State.queue_hostWrite]

theorem State.mem_postNow (s : State) (q : Nat) (c : Completion) :
    (s.postNow q c).host.mem = msets s.host.mem (4096 * s.rd (F.cmdqCqBaseAddr q) + 16 * (s.queue q).tail)
      (leBytes 8 (s.entryWord q c) ++ leBytes 8 c.result.toNat) := by
  unfold State.postNow State.entryWord; split <;> simp only [State.mem_msix, State.mem_setQueue, State.mem_hostWrite]

/-- A command's completion raises its queue's vector, unless the command wants no interrupt. -/
theorem State.msix_postNow (s : State) (q : Nat) (c : Completion) (hc : c.notice = false) (k : Nat) :
    tget (fun _ => 0) (s.postNow q c).host.msix k =
      tget (fun _ => 0) s.host.msix k + (if c.irq = true ∧ k = s.rd (F.cmdqQcfgVector q) % 64 then 1 else 0) := by
  unfold State.postNow
  split
  · rename_i hi
    simp only [hi, hc, Bool.false_eq_true, if_false, true_and, State.msix_msix, State.msix_setQueue, State.msix_hostWrite,
      State.rd_setQueue, State.rd_hostWrite]
    split <;> simp_all
  · rename_i hi
    simp only [hi, Bool.false_eq_true, false_and, if_false, State.msix_setQueue, State.msix_hostWrite, Nat.add_zero]

/-- A command of one of the queues completes (R464, R465): what `posted` says, and nothing else. -/
theorem State.complete_posted (v : State) {e : Entry} (st r : Nat) (hq : e.sq < 16) : posted v (v.complete e st r) e st r := by
  unfold State.complete
  rw [if_neg (by omega)]
  refine posted_queueRest ?_
  set x := v.queue e.sq with hx
  set u := (v.setQueue e.sq { x with out := x.out - 1 }).wr (F.cmdqQcfgBusy e.sq) (b2n (decide (1 < x.out))) with hu
  have hux : u.queue e.sq = { x with out := x.out - 1 } := by simp [hu]
  have hne : ∀ q, q ≠ e.sq → u.queue q = v.queue q := fun q hq => by simp [hu, State.queue_setQueue, hq]
  have hsize : u.ringSize e.sq = v.ringSize e.sq := by
    simp only [State.ringSize, hu]
    rw [State.rd_wr_busy _ _ _ _ (by simp [F.cmdqQcfgLog2Size]) (by simp [F.cmdqQcfgLog2Size])]; rfl
  have hvec : u.rd (F.cmdqQcfgVector e.sq) = v.rd (F.cmdqQcfgVector e.sq) := by
    rw [hu, State.rd_wr_busy _ _ _ _ (by simp [F.cmdqQcfgVector]) (by simp [F.cmdqQcfgVector])]; rfl
  have hbase : u.rd (F.cmdqCqBaseAddr e.sq) = v.rd (F.cmdqCqBaseAddr e.sq) := by
    rw [hu, State.rd_wr_addr _ _ _ _ (by simp [F.cmdqCqBaseAddr, F.cmdqQcfgBusy, R.cmdqCqBase, R.cmdqQcfg])]; rfl
  have hidx : u.rd (F.cmdqCqHeadIndex e.sq) = v.rd (F.cmdqCqHeadIndex e.sq) := by
    rw [hu, State.rd_wr_addr _ _ _ _ (by simp [F.cmdqCqHeadIndex, F.cmdqQcfgBusy, R.cmdqCqHead, R.cmdqQcfg])]; rfl
  have hroom : u.cqRoom e.sq = v.cqRoom e.sq := by simp only [State.cqRoom, hsize, hidx, hux, hx]
  have hregs : u.regs = (v.wr (F.cmdqQcfgBusy e.sq) (if 1 < x.out then 1 else 0)).regs := by
    simp only [hu, b2n, decide_eq_true_eq]; rfl
  have hpre : u = { v with regs := u.regs, host := { v.host with queues := u.host.queues } } := rfl
  unfold State.post
  split
  · rename_i hrun
    have hrun : x.run = false := by simpa [hux] using hrun
    exact ⟨rfl, hregs, rfl, hne, by rw [hux], by rw [hux], by simp [← hx, hrun], by simp [← hx, hrun]⟩
  split
  · rename_i hopen
    simp only [hroom, hux, Bool.and_eq_true, List.isEmpty_iff, Bool.not_eq_true'] at hopen
    obtain ⟨⟨hheld, hcq⟩, hrest⟩ := hopen
    have hring : v.ringOpen e := ⟨hheld, hcq, hrest⟩
    have hposts := hostPosts_postNow u e.sq ⟨e.cmdId, st, BitVec.ofNat 64 r, false, !e.noIrq⟩
    refine ⟨?_, ?_, ?_, fun q hqne => ?_, ?_, ?_, fun _ _ => ⟨?_, ?_, ?_, ?_, fun k => ?_⟩, fun _ h => absurd hring h⟩
    · rw [hposts, hpre]
    · rw [hposts]; exact hregs
    · rw [hposts, hpre]
    · rw [State.queue_postNow, if_neg hqne, hne q hqne]
    · rw [State.queue_postNow, if_pos rfl, hux]
    · rw [State.queue_postNow, if_pos rfl, hux]
    · rw [State.mem_postNow, hbase, hux]
      simp [State.entryWord, State.compWord, b2n, hu, ← hx]
    · rw [State.queue_postNow, if_pos rfl, hux, hsize]
    · rw [State.queue_postNow, if_pos rfl, hux]; exact hheld
    · rw [State.queue_postNow, if_pos rfl, hux, hsize]
    · rw [State.msix_postNow _ _ _ rfl, hvec]; simp [hu]
  · rename_i hopen
    have hring : ¬ v.ringOpen e := fun ⟨hheld, hcq, hrest⟩ => hopen (by
      simp only [hroom, hux, hcq, Bool.and_true, Bool.and_eq_true, Bool.not_eq_true']
      exact ⟨by simp [hx, hheld], hrest⟩)
    refine ⟨rfl, hregs, rfl, fun q hqne => ?_, ?_, ?_, fun _ h => absurd h hring, fun _ _ => ?_⟩
    · rw [State.queue_setQueue, if_neg hqne, hne q hqne]
    · simp [hux, hx]
    · simp [hux, hx]
    · simp [hx, hu]

/-! ## Commands in their turn -/

/-- A command in its turn is the command of one of the queues. -/
theorem State.sq_lt_of_cmdTurn {s u : State} {e : Entry} {sc : Scope} {g : Gate} {used : List (Nat × List (Nat × Nat))}
    (h : s.cmdTurn e sc g used = some u) : e.sq < 16 := by
  simp only [State.cmdTurn] at h
  split at h
  · rename_i hc
    have hr := hc.1
    simp only [State.cmdReady, Bool.and_eq_true, decide_eq_true_eq] at hr
    omega
  · cases h

/-- A command in its turn has its own effect in the state of its turn. -/
theorem State.cmd_of_cmdTurn {s u : State} {e : Entry} {sc : Scope} {g : Gate} {used : List (Nat × List (Nat × Nat))}
    (h : s.cmdTurn e sc g used = some u) (f : State → State) : s.cmd e sc g used f = f u := by
  simp only [State.cmdTurn] at h
  split at h
  · rename_i hc
    obtain ⟨hready, hcheck⟩ := hc
    cases h
    simp only [State.cmd, hready, hcheck, Bool.not_true, Bool.false_eq_true, if_false]
  · cases h

/-- A command whose own effect is to complete from a state `v`. -/
theorem cmd_posts {s u v : State} {e : Entry} {sc : Scope} {g : Gate} {used : List (Nat × List (Nat × Nat))}
    (h : s.cmdTurn e sc g used = some u) {f : State → State} {st r : Nat} (hf : f u = v.complete e st r) :
    leads (.next (s.cmd e sc g used f)) fun z => posted v z e st r := by
  rw [State.cmd_of_cmdTurn h, hf]
  exact leads_next (v.complete_posted st r (State.sq_lt_of_cmdTurn h))

end Sys2Proof.Machine
end

section
/-! The clause on the end of a pass, where no queue sent the launch. -/

namespace Sys2Proof.Machine

/-! ## The end of a pass that no queue launched -/

theorem State.host_energyEnd (s : State) : s.energyEnd.host = s.host := by
  unfold State.energyEnd State.free
  dsimp only
  split
  · rfl
  · split <;> rfl

/-- A command that no queue sent has no completion (R485). -/
theorem State.complete_of_noQueue (s : State) {e : Entry} (st r : Nat) (hq : 16 ≤ e.sq) : s.complete e st r = s := if_pos hq

theorem State.host_postEnd_of_noQueue (s : State) {p : Pass} (hq : 16 ≤ p.launch.sq) : (s.postEnd p).host = s.host := by
  unfold State.postEnd
  rw [State.complete_of_noQueue _ _ _ hq]
  split <;> rfl

theorem State.pass_postEnd_of_noQueue (s : State) {p : Pass} (hq : 16 ≤ p.launch.sq) (hs : s.pass = some p) :
    ∃ b, (s.postEnd p).pass = some { p with posted := b } := by
  unfold State.postEnd
  rw [State.complete_of_noQueue _ _ _ hq]
  split
  · exact ⟨p.posted, hs⟩
  · exact ⟨true, by simp [State.modPass, hs]⟩

/-- A pass without a commit command does not arrive at a barrier. -/
theorem State.arrive_of_noCommit {s : State} {p : Pass} (hs : s.pass = some p) (hc : p.commit = none) : s.arrive = s := by
  unfold State.arrive
  simp [hs, hc]

theorem State.pass_energyEnd (s : State) : s.energyEnd.pass = s.pass := by
  unfold State.energyEnd State.free
  dsimp only
  split
  · rfl
  · split <;> rfl

theorem State.host_passEnd_of_noQueue {s : State} {p : Pass} (hs : s.pass = some p) (hq : 16 ≤ p.launch.sq) (hc : p.commit = none) :
    s.passEnd.host = s.host := by
  unfold State.passEnd
  simp only [hs]
  split
  · rfl
  · have hpass : (s.energyEnd.wr F.keepPassStatState psENDED).pass = some p := (State.pass_energyEnd s).trans hs
    obtain ⟨b, hb⟩ := State.pass_postEnd_of_noQueue _ hq hpass
    rw [State.arrive_of_noCommit hb hc, State.host_postEnd_of_noQueue _ hq]
    exact State.host_energyEnd s

/-- A pass in its first launch whose queue was cut off: `noEntry`'s queue number 16 stands for none (R485). -/
def cutOffPass : Pass :=
  { number := 0, collar := 2, launch := noEntry, posted := false, commit := none, fabric := false, tree := 0, arrived := false, barrier := false,
    step := 0, fatal := none, program := none, replay := false, aborted := false, wrote := [], acks := [], launches := 1, stalls := [], poisons := 0,
    remaps := [], heel := false, late := false, first := 0 }

/-- `cutOffPass` runs for a job without tiles, and the record under number 16 counts a command in progress. -/
def cutOffState : State :=
  { State.reset with regs := [(R.keepPassStat, 1)], pass := some cutOffPass,
                     host := { State.reset.host with queues := [(16, { Queue.reset with out := 1 })] } }

theorem cutOffState_running : cutOffState.rd F.keepPassStatState = psRUNNING := by decide

theorem cutOffState_out : (cutOffState.queue 16).out = 1 := by decide

end Sys2Proof.Machine
end

section
open Sys2Proof Sys2Proof.Machine

/-- Refutes O44: its clause on the end of a pass does not ask that the launch came from a queue. Of `cutOffPass` the launch has queue number
16, that is none (R485): `State.complete` posts nothing and the host's side stays, while `posted` wants one command less in progress under
that number. -/
theorem not_launchAndCommit : ¬ Obligations.LaunchAndCommit := by
  unfold Obligations.LaunchAndCommit
  intro ⟨_, hend, _⟩
  obtain ⟨-, -, hpost, -⟩ := hend cutOffState cutOffPass rfl cutOffState_running (fun _ ht => nomatch ht) (.inl rfl)
  obtain ⟨v, hv, -, -, -, -, hout, -⟩ := hpost rfl
  have hhost : cutOffState.passEnd.host = cutOffState.host := State.host_passEnd_of_noQueue (p := cutOffPass) rfl (by decide) rfl
  have hafter : (cutOffState.passEnd.queue 16).out = 1 := by rw [State.queue, hhost]; exact cutOffState_out
  have hbefore : (v.queue 16).out = 1 := by rw [State.queue, hv]; exact cutOffState_out
  have hless : (cutOffState.passEnd.queue 16).out = (v.queue 16).out - 1 := hout
  rw [hafter, hbefore] at hless
  exact absurd hless (by decide)

end

section
/-! What the slices and the channels do to the registers of the tables: nothing. -/

namespace Sys2Proof.Machine

/-- Registers of the kennel windows, and of the hash map, Twin entries and permissions of the floors. -/
def tableReg (a : Nat) : Prop := 0x6000 ≤ a ∧ a < 0x6400 ∨ 0x400000 ≤ a ∧ a < 0xC00000 ∧ 0x10000 ≤ a % 0x100000

/-- The registers of the tables read as before. -/
def tablesKept (s w : State) : Prop := w.variant = s.variant ∧ ∀ a, tableReg a → w.reg a = s.reg a

theorem tablesKept.refl (s : State) : tablesKept s s := ⟨rfl, fun _ _ => rfl⟩

theorem tablesKept.trans {s w z : State} (h : tablesKept s w) (h' : tablesKept w z) : tablesKept s z :=
  ⟨h'.1.trans h.1, fun a ha => (h'.2 a ha).trans (h.2 a ha)⟩

/-- A change of something other than registers. -/
theorem tablesKept.of_regs {s w : State} (hv : w.variant = s.variant) (hr : w.regs = s.regs) : tablesKept s w :=
  ⟨hv, fun a _ => by simp only [State.reg, hv, hr]⟩

theorem tablesKept_foldl {β : Type} (f : State → β → State) (l : List β) (s : State) (h : ∀ u, ∀ x ∈ l, tablesKept u (f u x)) :
    tablesKept s (l.foldl f s) := by
  induction l generalizing s with
  | nil => exact .refl s
  | cons x l ih =>
    exact (h s x List.mem_cons_self).trans (ih _ fun u y hy => h u y (List.mem_cons_of_mem _ hy))

theorem tablesKept_setReg (s : State) {a : Nat} (v : W64) (ha : ¬ tableReg a) : tablesKept s (s.setReg a v) :=
  ⟨rfl, fun _ hb => State.reg_setReg_ne s v (fun h => ha (by rwa [← h]))⟩

theorem tablesKept_wr (s : State) (f : Fld) (v : Nat) (hf : ¬ tableReg f.addr) : tablesKept s (s.wr f v) := tablesKept_setReg s _ hf

theorem tablesKept_wrs (s : State) (ws : List (Fld × Nat)) (hf : ∀ p ∈ ws, ¬ tableReg p.1.addr) : tablesKept s (s.wrs ws) :=
  tablesKept_foldl _ ws s fun u p hp => tablesKept_wr u _ _ (hf p hp)

theorem tablesKept_record (s : State) (valid multi : Fld) (ws : List (Fld × Nat)) (hv : ¬ tableReg valid.addr) (hm : ¬ tableReg multi.addr)
    (hf : ∀ p ∈ ws, ¬ tableReg p.1.addr) : tablesKept s (s.record valid multi ws) := by
  unfold State.record
  split
  · exact tablesKept_wr s _ _ hm
  · exact (tablesKept_wrs s ws hf).trans (tablesKept_wr _ _ _ hv)

theorem tablesKept_modSlice (s : State) (n : Nat) (f : SliceSt → SliceSt) : tablesKept s (s.modSlice n f) := .of_regs rfl rfl

theorem tablesKept_bump (s : State) (ev : Nat) (u : EvUnit) (n : Nat) : tablesKept s (s.bump ev u n) := .of_regs rfl rfl

/-! ## The merge buffer and the channels -/

theorem tablesKept_mergeApply (s : State) (n : Nat) (m : MergeEnt) : tablesKept s (s.mergeApply n m) := by
  unfold State.mergeApply
  dsimp only
  split
  · exact tablesKept_modSlice s n _
  · exact (tablesKept_modSlice s n _).trans (tablesKept_modSlice _ n _)

theorem tablesKept_mergeFlush (s : State) (n set line sector : Nat) : tablesKept s (s.mergeFlush n set line sector) :=
  tablesKept_foldl _ _ s fun u m _ => tablesKept_mergeApply u n m

theorem tablesKept_mergeFlushLine (s : State) (n set line : Nat) : tablesKept s (s.mergeFlushLine n set line) :=
  tablesKept_foldl _ _ s fun u m _ => tablesKept_mergeApply u n m

theorem tablesKept_mergeAll (s : State) (n : Nat) : tablesKept s (s.mergeAll n) :=
  tablesKept_foldl _ _ s fun u m _ => tablesKept_mergeApply u n m

theorem tablesKept_mergeAdd (s : State) (n : Nat) (p : Loc) (word : Nat) (mask : BitVec 8) (bytes : List Byte) (pois : Bool) :
    tablesKept s (s.mergeAdd n p word mask bytes pois) := by
  unfold State.mergeAdd
  dsimp only
  split
  · split
    · exact tablesKept_mergeApply s n _
    · exact tablesKept_modSlice s n _
  · refine tablesKept.trans ?_ (tablesKept_modSlice _ n _)
    split
    · split
      · exact (tablesKept_mergeApply s n _).trans (tablesKept_bump _ _ _ _)
      · exact .refl s
    · exact .refl s

theorem tablesKept_activate (s : State) (ch : Nat) : tablesKept s (s.activate ch) := by
  unfold State.activate
  extract_lets k s1
  have h1 : tablesKept s s1 := .of_regs rfl rfl
  split
  · exact h1.trans (tablesKept_bump _ _ _ _)
  · exact h1

theorem tablesKept_hbmSet (s : State) (k : Nat) (bs : List Byte) : tablesKept s (s.hbmSet k bs) := .of_regs rfl rfl

theorem tablesKept_hbmPut (s : State) (ch line sec : Nat) (words : List W64) (poison : List Nat) :
    tablesKept s (s.hbmPut ch line sec words poison) := by
  unfold State.hbmPut
  extract_lets k s1 s2
  have h1 : tablesKept s s1 := tablesKept_hbmSet s _ _
  clear_value s1
  have h2 : tablesKept s1 s2 := .of_regs rfl rfl
  exact ((h1.trans h2).trans (tablesKept_bump _ _ _ _)).trans (tablesKept_activate _ ch)

theorem tablesKept_putOne (s : State) (ch line sec : Nat) (words : List W64) (poison : List Nat) :
    tablesKept s (s.putOne ch line sec words poison) := by
  unfold State.putOne
  split
  · exact .refl s
  · exact tablesKept_hbmPut s _ _ _ _ _

theorem tablesKept_grant (s : State) (a : Arbiter) (u : EvUnit) (collar lv bytes : Nat) : tablesKept s (s.grant a u collar lv bytes) := by
  unfold State.grant
  split
  · exact .of_regs rfl rfl
  · split
    · exact tablesKept_bump s _ _ _
    · exact .refl s

/-- Collars 0 and 1 have no leash, and no latency is measured for them. -/
theorem State.atOnce_low (s : State) (hbm : Bool) (n bytes : Nat) {col : Nat} (hc : col < 2) : s.atOnce hbm n col bytes = s := by
  simp only [State.atOnce, State.grantOnce, State.latencyOnce, hc, if_true, true_or]

theorem tablesKept_putBack (s : State) (ch line sec : Nat) (words : List W64) (poison : List Nat) {col : Nat} (hc : col < 2) :
    tablesKept s (s.putBack ch line sec words poison col) := by
  unfold State.putBack
  split
  · exact .refl s
  · rw [State.atOnce_low _ _ _ _ hc]; exact tablesKept_putOne s _ _ _ _ _

theorem tablesKept_crossRing (s : State) (a b collar lv bytes : Nat) : tablesKept s (s.crossRing a b collar lv bytes) :=
  tablesKept_foldl _ _ s fun u _ _ => tablesKept_grant u _ _ _ _ _

/-- A read of a sector that meets no error counts and records nothing in a register. -/
theorem tablesKept_hbmRead (s : State) (ch line sec src : Nat) : tablesKept s (s.hbmRead ch line sec src .quiet).1 := by
  simp only [State.hbmRead, HbmIn.quiet, List.filter_nil, List.isEmpty_nil, if_true, List.take_nil, List.foldl_nil]
  have h := (tablesKept_bump s Ev.hbmRd (.slice ch) 1).trans (tablesKept_activate _ ch)
  split
  · exact h
  · exact h.trans (tablesKept_bump _ _ _ _)

theorem tablesKept_epochSec (s : State) (ch : Nat) (e : EpochAt) : tablesKept s (s.epochSec ch e).1 := by
  unfold State.epochSec
  extract_lets s1 fromHbm
  have h1 : tablesKept s s1 := tablesKept_mergeFlush s _ _ _ _
  have h2 : tablesKept s fromHbm.1 := by
    unfold fromHbm
    split
    · exact h1
    · exact h1.trans (tablesKept_hbmRead s1 ch e.line e.sector hsNARROW)
  clear_value fromHbm
  split
  · dsimp only
    split
    · exact h1
    · exact h2
  · exact h2

/-! ## Ways of a set -/

theorem tablesKept_startWbs (s : State) (n line : Nat) (b : Nat × Nat) (dirty : List (Nat × Sector)) (col : Nat) :
    tablesKept s (s.startWbs n line b dirty col) := tablesKept_modSlice s n _

/-- A way emptied for the Keeper or for what no collar asked for, its write-back meeting nothing. -/
theorem tablesKept_evict (s : State) (n set way : Nat) {col : Nat} (hc : col < 2) : tablesKept s (s.evict n set way col []).1 := by
  unfold State.evict
  dsimp only
  split
  · exact tablesKept_modSlice s n _
  · have h1 : tablesKept s ((s.mergeFlushLine n set ((s.slice n).line set way).line).wbDecode n set way []) :=
      tablesKept_mergeFlushLine s _ _ _
    generalize (s.mergeFlushLine n set ((s.slice n).line set way).line).wbDecode n set way [] = s1 at h1 ⊢
    split
    · split
      · exact h1.trans (tablesKept_modSlice s1 n _)
      · exact h1.trans (tablesKept_startWbs s1 _ _ _ _ _)
    · split
      · exact h1
      · exact (h1.trans (tablesKept_foldl _ _ s1 fun u k _ => tablesKept_putBack u _ _ _ _ _ hc)).trans (tablesKept_modSlice _ n _)

theorem tablesKept_takeWay (s : State) (n set k : Nat) (stream : Bool) {col : Nat} (hc : col < 2) :
    tablesKept s (s.takeWay n set k stream col []).1 := by
  unfold State.takeWay
  split
  · exact .refl s
  · exact tablesKept_evict s _ _ _ hc

theorem tablesKept_allocate (s : State) (n set line kennel : Nat) (pref : Bool) {col : Nat} (hc : col < 2) :
    tablesKept s (s.allocate n set line kennel pref col []).1 := by
  have h := tablesKept_takeWay s n set kennel (pref || decide (s.persOf kennel = 0)) hc
  unfold State.allocate
  split
  · rename_i s1 w heq
    rw [heq] at h
    exact h.trans (tablesKept_modSlice s1 n _)
  · exact h

/-! ## Write-backs -/

theorem tablesKept_putEpoch (s : State) (ch line v : Nat) : tablesKept s (s.putEpoch ch line v) := by
  unfold State.putEpoch
  split
  · exact .refl s
  · rename_i e _
    have h1 := tablesKept_epochSec s ch e
    generalize s.epochSec ch e = r at h1 ⊢
    obtain ⟨s1, old⟩ := r
    dsimp only at h1 ⊢
    refine h1.trans ?_
    have hput : ∀ u f p k m bs b, tablesKept s1 u → tablesKept s1 ((u.modSlice ch f).mergeAdd ch p k m bs b) :=
      fun u f p k m bs b h => (h.trans (tablesKept_modSlice u ch f)).trans (tablesKept_mergeAdd _ _ _ _ _ _ _)
    cases (s1.slice ch).find e.line with
    | some w => exact hput s1 _ _ _ _ _ _ (.refl s1)
    | none =>
      dsimp only
      split
      · refine hput _ _ _ _ _ _ _ ?_
        split
        · exact .refl s1
        · exact tablesKept_allocate s1 _ _ _ _ _ (by omega)
      · refine .trans ?_ (tablesKept_putOne _ _ _ _ _ _)
        split
        · exact .refl s1
        · exact tablesKept_allocate s1 _ _ _ _ _ (by omega)

/-- A sector written whole leaves the split table, which the floor's status counts (R349). -/
theorem tablesKept_unsplit (s : State) (n line sec : Nat) : tablesKept s (s.unsplit n line sec) := by
  unfold State.unsplit
  split
  · refine .trans (.of_regs rfl rfl) (tablesKept_wr _ _ _ ?_)
    simp only [tableReg, F.floorSplitStatUsed, R.floorSplitStat]; omega
  · exact .refl s

theorem tablesKept_writeBack (s : State) (n line sec : Nat) (words : List W64) (poison : List Nat) (whole : Bool) {col : Nat} (hc : col < 2) :
    tablesKept s (s.writeBack n line sec words poison whole col) := by
  have hepoch : ∀ (u : State) (ch line : Nat), tablesKept u (if u.chanRetired ch then u else u.putEpoch ch line u.commitEpoch) := by
    intro u ch line
    split
    · exact .refl u
    · exact tablesKept_putEpoch u _ _ _
  unfold State.writeBack
  split
  · exact tablesKept_putBack s _ _ _ _ _ hc
  · rename_i b _
    extract_lets s1 s2 s3 s4 s5
    have h2 : tablesKept s s2 := (tablesKept_modSlice s n _).trans (tablesKept_putBack s1 _ _ _ _ _ hc)
    have h3 : tablesKept s s3 := h2.trans (hepoch s2 n line)
    have h4 : tablesKept s s4 := h3.trans ((tablesKept_crossRing s3 _ _ _ _ _).trans (tablesKept_putBack _ _ _ _ _ _ hc))
    have h5 : tablesKept s s5 := h4.trans (hepoch s4 b.1 b.2)
    split
    · exact h5.trans (tablesKept_unsplit s5 _ _ _)
    · exact h5

theorem tablesKept_cleanLine (s : State) (n set way : Nat) {col : Nat} (hc : col < 2) : tablesKept s (s.cleanLine n set way col) := by
  unfold State.cleanLine
  refine (tablesKept_mergeFlushLine s _ _ _).trans (tablesKept_foldl _ _ _ fun u k _ => ?_)
  dsimp only
  split
  · exact tablesKept_writeBack u _ _ _ _ _ _ hc
  · exact .refl u

/-! ## Kennel windows -/

theorem tablesKept_trimSets (s : State) : tablesKept s s.trimSets := by
  refine tablesKept_foldl _ _ s fun u x _ => tablesKept_foldl _ _ u fun u set _ => tablesKept_foldl _ _ u fun u i _ => ?_
  dsimp only
  split
  · exact .refl u
  · split
    · exact (tablesKept_cleanLine u _ _ _ (by omega)).trans (tablesKept_modSlice _ _ _)
    · exact .refl u

theorem tablesKept_retag (s : State) : tablesKept s s.retag := by
  refine tablesKept_foldl _ _ s fun u x _ => tablesKept_foldl _ _ u fun u q _ => ?_
  dsimp only
  split
  · exact .refl u
  · exact tablesKept_modSlice u _ _

/-! ## Drains -/

theorem tablesKept_twinLog (s : State) (n line sec kind winner ea eb : Nat) : tablesKept s (s.twinLog n line sec kind winner ea eb) := by
  unfold State.twinLog
  refine tablesKept_record s _ _ _ ?_ ?_ fun p hp => ?_
  · simp only [tableReg, F.floorTwinLogValid, R.floorTwinLog]; omega
  · simp only [tableReg, F.floorTwinLogMulti, R.floorTwinLog]; omega
  · simp only [List.mem_cons, List.not_mem_nil, or_false] at hp
    obtain rfl | rfl | rfl | rfl | rfl | rfl | rfl := hp <;>
      simp only [tableReg, F.floorTwinLogKind, F.floorTwinLogSlice, F.floorTwinLogLine, F.floorTwinLogSector, F.floorTwinLogWinner,
        F.floorTwinEpEpochA, F.floorTwinEpEpochB, R.floorTwinLog, R.floorTwinEp] <;> omega

theorem tablesKept_lineEpoch (s : State) (ch line : Nat) : tablesKept s (s.lineEpoch ch line).1 := by
  unfold State.lineEpoch
  split
  · exact tablesKept_epochSec s _ _
  · exact .refl s

theorem tablesKept_bothEpochs (s : State) (n line : Nat) (tb : Nat × Nat) : tablesKept s (s.bothEpochs n line tb).1 :=
  (tablesKept_lineEpoch s n line).trans (tablesKept_lineEpoch _ tb.1 tb.2)

theorem tablesKept_of_hostPosts {s w : State} (h : hostPosts s w) : tablesKept s w := by
  unfold hostPosts at h
  exact .of_regs (by rw [h]) (by rw [h])

theorem tablesKept_notice (s : State) (kind status result : Nat) : tablesKept s (s.notice kind status result) := by
  unfold State.notice
  split
  · exact .refl s
  · split
    · exact tablesKept_of_hostPosts (hostPosts_setQueue s _ _)
    · split
      · exact tablesKept_of_hostPosts (hostPosts_postNow s _ _)
      · exact tablesKept_wr s _ _ (by simp only [tableReg, F.cmdqEvtLostCount, R.cmdqEvtLost]; omega)

theorem tablesKept_faultLog (s : State) (source cls unitKind unit action cause detail : Nat) :
    tablesKept s (s.faultLog source cls unitKind unit action cause detail) := by
  have hlog : ¬ tableReg R.keepLogStat := by simp only [tableReg, R.keepLogStat]; omega
  unfold State.faultLog
  extract_lets r idx full k s1 s2 s3 s4
  have h1 : tablesKept s s1 := .of_regs rfl rfl
  have h2 : tablesKept s s2 := h1.trans (tablesKept_wr s1 _ _ hlog)
  have h3 : tablesKept s s3 := by
    unfold s3
    split
    · exact h2.trans (tablesKept_wr s2 _ _ hlog)
    · exact h2.trans (tablesKept_wr s2 _ _ hlog)
  have h4 : tablesKept s s4 := by
    unfold s4
    split
    · exact h3.trans (tablesKept_bump s3 _ _ _)
    · split
      · exact h3.trans (tablesKept_bump s3 _ _ _)
      · exact h3
  exact h4.trans (tablesKept_notice s4 _ _ _)

/-- A sector read from HBM where the reads meet no error. -/
theorem tablesKept_fetchSector (s : State) (n line sec src : Nat) : tablesKept s (s.fetchSector n line sec src .quiet .quiet).1 := by
  unfold State.fetchSector
  split
  · split
    · exact .refl s
    · exact tablesKept_hbmRead s n line sec src
  · rename_i tb _
    split
    · exact .refl s
    · dsimp only
      have hA : tablesKept s (if s.chanRetired n then (s, (⟨(s.hbmSec n line sec).1, [], allWords⟩ : HbmGot))
          else s.hbmRead n line sec src .quiet).1 := by
        split
        · exact .refl s
        · exact tablesKept_hbmRead s _ _ _ _
      generalize (if s.chanRetired n then (s, (⟨(s.hbmSec n line sec).1, [], allWords⟩ : HbmGot))
          else s.hbmRead n line sec src .quiet) = ra at hA ⊢
      obtain ⟨s1, ga⟩ := ra
      dsimp only at hA ⊢
      split
      · exact hA
      · have hE : tablesKept s ((s1.bump Ev.twinRead (.slice n) 1).bothEpochs n line tb).1 :=
          (hA.trans (tablesKept_bump s1 _ _ _)).trans (tablesKept_bothEpochs _ _ _ _)
        generalize (s1.bump Ev.twinRead (.slice n) 1).bothEpochs n line tb = re at hE ⊢
        obtain ⟨s2, ea, eb⟩ := re
        dsimp only at hE ⊢
        split
        · exact hE.trans (tablesKept_twinLog s2 _ _ _ _ _ _ _)
        · have hB : tablesKept s (s2.hbmRead tb.1 tb.2 sec hsTWIN .quiet).1 := hE.trans (tablesKept_hbmRead s2 _ _ _ _)
          generalize s2.hbmRead tb.1 tb.2 sec hsTWIN .quiet = rb at hB ⊢
          obtain ⟨s3, gb⟩ := rb
          dsimp only at hB ⊢
          split
          · split
            · exact hB
            · exact hB.trans ((((tablesKept_hbmPut s3 _ _ _ _ _).trans (tablesKept_bump _ _ _ _)).trans (tablesKept_twinLog _ _ _ _ _ _ _ _)).trans
                (tablesKept_faultLog _ _ _ _ _ _ _ _))
          · split
            · exact hB.trans (tablesKept_twinLog s3 _ _ _ _ _ _ _)
            · exact hB.trans (tablesKept_twinLog s3 _ _ _ _ _ _ _)

theorem tablesKept_setBase (s : State) (n : Nat) (p : Loc) (w : Nat) (x : Sector) : tablesKept s (s.setBase n p w x) :=
  tablesKept_modSlice s n _

theorem tablesKept_allocateNow (s : State) (n set line : Nat) {col : Nat} (hc : col < 2) : tablesKept s (s.allocateNow n set line col []).1 := by
  unfold State.allocateNow
  extract_lets k s1
  have h1 : tablesKept s s1 := by
    unfold s1
    split
    · split
      · exact .refl s
      · exact (((tablesKept_mergeFlushLine s _ _ _).trans (.refl _)).trans (tablesKept_cleanLine _ _ _ _ hc)).trans (tablesKept_modSlice _ _ _)
    · exact .refl s
  have h2 := h1.trans (tablesKept_allocate s1 n set line k false hc)
  split
  · rename_i heq; rw [heq] at h2; exact h2
  · rename_i heq; rw [heq] at h2; exact h2

theorem tablesKept_drainInto (s : State) (n : Nat) (p : Loc) (v : List W64 × List Nat) (twin : Nat) :
    tablesKept s (s.drainInto n p v twin []) := by
  unfold State.drainInto
  have h1 : tablesKept s (if s.on (F.sliceStatRemoved n) then (s, none) else s.allocateNow n p.set p.line 1 []).1 := by
    split
    · exact .refl s
    · exact tablesKept_allocateNow s _ _ _ (by omega)
  split
  · rename_i heq; rw [heq] at h1; exact h1.trans (tablesKept_setBase _ _ _ _ _)
  · rename_i heq; rw [heq] at h1
    exact (h1.trans (tablesKept_bump _ _ _ _)).trans (tablesKept_writeBack _ _ _ _ _ _ _ (by omega))

theorem tablesKept_modCommitted (s : State) (n : Nat) (p : Loc) (whole : Bool) {col : Nat} (hc : col < 2)
    (f : List W64 × List Nat → List W64 × List Nat) : tablesKept s (s.modCommitted n p .quiet whole col f) := by
  unfold State.modCommitted
  split
  · split
    · exact tablesKept_modSlice s _ _
    · exact .refl s
  · dsimp only
    refine .trans ?_ (tablesKept_writeBack _ _ _ _ _ _ _ hc)
    split
    · exact .refl s
    · rw [State.atOnce_low _ _ _ _ hc]; exact tablesKept_fetchSector s _ _ _ _

theorem tablesKept_dropMark (s : State) (n : Nat) (p : Loc) : tablesKept s (s.dropMark n p) := by
  unfold State.dropMark
  split
  · exact .refl s
  · dsimp only
    split
    · exact .refl s
    · split <;> exact (tablesKept_setBase s _ _ _ _).trans (tablesKept_modSlice _ _ _)

theorem tablesKept_dropUndo (s : State) (n set way sector : Nat) : tablesKept s (s.dropUndo n set way sector) := by
  unfold State.dropUndo
  split
  · exact .refl s
  · exact tablesKept_modSlice s _ _

theorem tablesKept_dropSide (s : State) (n set way sector : Nat) : tablesKept s (s.dropSide n set way sector) := tablesKept_modSlice s n _

theorem tablesKept_sideBit (s : State) (n : Nat) (p : Loc) : tablesKept s (s.sideBit n p) := by
  unfold State.sideBit
  split
  · exact .refl s
  · dsimp only
    split
    · exact .refl s
    · exact tablesKept_setBase s _ _ _ _

theorem tablesKept_drainSec (s : State) (n : Nat) (p : Loc) (e : Nat) : tablesKept s (s.drainSec n p e .quiet) := by
  unfold State.drainSec
  extract_lets s1 s2 s3
  have h2 : tablesKept s s2 := by
    have h1 : tablesKept s s1 := tablesKept_mergeFlush s _ _ _ _
    unfold s2
    split
    · split
      · rename_i w c _ _
        extract_lets s3 s4
        have h3 : tablesKept s s3 := h1.trans (tablesKept_setBase s1 n p w _)
        have h4 : tablesKept s s4 := by
          unfold s4
          split
          · exact h3.trans (tablesKept_dropUndo s3 _ _ _ _)
          · exact h3
        split
        · exact h4.trans (tablesKept_dropMark s4 _ _)
        · exact h4
      · exact h1
    · exact h1
  clear_value s2
  split
  · exact h2
  · extract_lets sl c
    split
    · exact h2
    · have h3 : tablesKept s s3 := h2.trans (tablesKept_bump s2 _ _ _)
      have hread : tablesKept s (match s3.baseSec n p with
          | some (_, b) => if b.valid then (s3, b.words, b.poison, b.twin) else s3.fetchSector n p.line p.sector hsFILL SliceDec.quiet.a SliceDec.quiet.b
          | none => s3.fetchSector n p.line p.sector hsFILL SliceDec.quiet.a SliceDec.quiet.b).1 := by
        split
        · split
          · exact h3
          · exact h3.trans (tablesKept_fetchSector s3 _ _ _ _)
        · exact h3.trans (tablesKept_fetchSector s3 _ _ _ _)
      dsimp only
      refine .trans ?_ (tablesKept_sideBit _ _ _)
      split
      · refine .trans ?_ (tablesKept_setBase _ _ _ _ _)
        split
        · refine .trans (.trans ?_ (tablesKept_dropSide _ n _ _ _)) (tablesKept_modCommitted _ _ _ _ (by omega) _)
          exact hread
        · refine .trans ?_ (tablesKept_dropSide _ n _ _ _)
          exact hread
      · refine .trans (.trans ?_ (tablesKept_dropSide _ n _ _ _)) (tablesKept_drainInto _ _ _ _ _)
        exact hread

/-! ## Modes of a slice -/

/-- The registers of a slice of the module are none of the tables'. -/
theorem not_tableReg_slice {a : Nat} (h : 0x80000 ≤ a) (h' : a < 0x100000) : ¬ tableReg a := by
  simp only [tableReg]; omega

theorem not_tableReg_sliceEtab {n e : Nat} (hn : n < 512) (he : e ∈ entries) : ¬ tableReg (R.sliceEtab n (e - 1)) := by
  simp only [entries, List.mem_map, List.mem_range] at he
  obtain ⟨k, hk, rfl⟩ := he
  exact not_tableReg_slice (by simp only [R.sliceEtab]; omega) (by simp only [R.sliceEtab]; omega)

section
variable {n : Nat} (hn : n < 512)
include hn

theorem tablesKept_countLines (s : State) : tablesKept s (s.countLines n) :=
  tablesKept_foldl _ _ s fun u e he => by
    split
    · exact .refl u
    · exact tablesKept_wr u _ _ (not_tableReg_sliceEtab hn he)

theorem tablesKept_drainEntry (s : State) {e : Nat} (he : e ∈ entries) : tablesKept s (s.drainEntry n e []) := by
  unfold State.drainEntry
  refine .trans (.trans (.trans (tablesKept_foldl _ _ s fun u p _ => ?_) (tablesKept_foldl _ _ _ fun u q _ => ?_))
    (tablesKept_setReg _ _ (not_tableReg_sliceEtab hn he))) (tablesKept_countLines hn _)
  · exact tablesKept_drainSec u n p.1 e
  split
  · exact tablesKept_modSlice u _ _
  · exact .refl u

theorem tablesKept_drainAll (s : State) : tablesKept s (s.drainAll n) :=
  tablesKept_foldl _ _ s fun u e he => by
    split
    · exact tablesKept_drainEntry hn u he
    · exact .refl u

theorem tablesKept_loseState (s : State) (l : Line) : tablesKept s (s.loseState n l) :=
  tablesKept_foldl _ _ s fun u e he => by
    split
    · exact tablesKept_wr u _ _ (not_tableReg_sliceEtab hn he)
    · exact .refl u

theorem tablesKept_clearWay (s : State) (way : Nat) (expl : Bool) : tablesKept s (s.clearWay n way expl) :=
  tablesKept_foldl _ _ s fun u q _ => by
    dsimp only
    split
    · exact .refl u
    · refine .trans (.trans ?_ (tablesKept_loseState hn _ _)) (tablesKept_modSlice _ _ _)
      split
      · exact tablesKept_cleanLine u _ _ _ (by omega)
      · exact .refl u

/-- A new mode of a slice of the module changes no table. -/
theorem tablesKept_setMode (s : State) (mode split : Nat) : tablesKept s (s.setMode n mode split) := by
  unfold State.setMode
  split
  · exact .refl s
  · extract_lets e e' s1
    have h1 : tablesKept s s1 := by
      refine ((tablesKept_mergeAll s n).trans (tablesKept_drainAll hn _)).trans (tablesKept_wrs _ _ fun p hp => ?_)
      simp only [List.mem_cons, List.not_mem_nil, or_false] at hp
      obtain rfl | rfl | rfl := hp <;>
        exact not_tableReg_slice (by simp only [F.sliceCfgMode, F.sliceCfgSplitWays, F.sliceStatMode, R.sliceCfg, R.sliceStat]; omega)
          (by simp only [F.sliceCfgMode, F.sliceCfgSplitWays, F.sliceStatMode, R.sliceCfg, R.sliceStat]; omega)
    refine (h1.trans (tablesKept_foldl _ _ s1 fun u w _ => ?_)).trans (tablesKept_countLines hn _)
    split
    · exact tablesKept_clearWay hn u _ _
    · exact .refl u

end

end Sys2Proof.Machine
end

section
/-! Hash segments and rights of pages: what is read after they are written. -/

namespace Sys2Proof.Machine

/-- Nothing but registers and the marks of the tables' copies differs. -/
def mapsOnly (s w : State) : Prop := w = { s with regs := w.regs, keep := { s.keep with copies := w.keep.copies } }

theorem mapsOnly.refl (s : State) : mapsOnly s s := rfl

theorem mapsOnly.trans {s w z : State} (h : mapsOnly s w) (h' : mapsOnly w z) : mapsOnly s z := by
  unfold mapsOnly at *; rw [h', h]

theorem mapsOnly_foldl {β : Type} (f : State → β → State) (l : List β) (s : State) (h : ∀ u x, mapsOnly u (f u x)) : mapsOnly s (l.foldl f s) :=
  foldl_keep f (mapsOnly s) l s (.refl s) fun u x hu => hu.trans (h u x)

theorem mapsOnly_setReg (s : State) (a : Nat) (v : W64) : mapsOnly s (s.setReg a v) := rfl

theorem mapsOnly_wrs (s : State) (ws : List (Fld × Nat)) : mapsOnly s (s.wrs ws) := mapsOnly_foldl _ ws s fun u _ => mapsOnly_setReg u _ _

theorem mapsOnly_setCopies (s : State) (t : TableKind) (i : Nat) (ok : List Bool) : mapsOnly s (s.setCopies t i ok) := rfl

theorem mapsOnly_setHash (s : State) (g v : Nat) : mapsOnly s (s.setHash g v) :=
  mapsOnly_foldl _ _ s fun u _ => (mapsOnly_setReg u _ _).trans (mapsOnly_setCopies _ _ _ _)

theorem mapsOnly_setRight (s : State) (p v : Nat) : mapsOnly s (s.setRight p v) := by
  unfold State.setRight
  split
  · exact .refl s
  · exact mapsOnly_foldl _ _ s fun u _ => mapsOnly_setReg u _ _

theorem mapsOnly_setRights (s : State) (a n v : Nat) : mapsOnly s (s.setRights a n v) := by
  unfold State.setRights
  split
  · exact .refl s
  · exact mapsOnly_foldl _ _ s fun u _ => mapsOnly_setRight u _ _

theorem mapsOnly.variant {s w : State} (h : mapsOnly s w) : w.variant = s.variant := by rw [h]

/-! ## The hash map -/

theorem State.reg_setCopies_hash (s : State) (f : Nat) (ok : List Bool) {a : Nat} (ha : a ≠ R.floorMapStat f) :
    (s.setCopies .hashMap f ok).reg a = s.reg a := State.reg_wr_ne _ _ _ ha

/-- A register after the hash entry of a segment has been written on some floors. -/
theorem State.reg_setHash_floors (g : Nat) (v : W64) {a : Nat} (ha : ∀ f, a ≠ R.floorMapStat f) (fs : List Nat) (s : State) :
    (fs.foldl (fun s f => (s.setReg (R.floorHash f g) v).setCopies .hashMap f allPass) s).reg a =
      if a ∈ fs.map (R.floorHash · g) then v else s.reg a := by
  induction fs generalizing s with
  | nil => simp
  | cons k fs ih =>
    rw [List.foldl_cons, ih, State.reg_setCopies_hash _ _ _ (ha k), State.reg_setReg]
    by_cases hk : a = R.floorHash k g
    · simp [hk]
    · simp [hk]

theorem State.reg_setHash (s : State) (g v : Nat) {a : Nat} (ha : ∀ f, a ≠ R.floorMapStat f) :
    (s.setHash g v).reg a = if a ∈ (List.range 8).map (R.floorHash · g) then BitVec.ofNat 64 v else s.reg a :=
  State.reg_setHash_floors g _ ha _ s

theorem floorHash_ne_mapStat {f g : Nat} (hg : g < 768) (k : Nat) : R.floorHash f g ≠ R.floorMapStat k := by
  simp only [R.floorHash, R.floorMapStat]; omega

/-- A segment's entry as written, on each floor. -/
theorem State.reg_setHash_same (s : State) {g : Nat} (v : Nat) (hg : g < 768) {f : Nat} (hf : f < 8) :
    (s.setHash g v).reg (R.floorHash f g) = BitVec.ofNat 64 v := by
  rw [State.reg_setHash s g v (floorHash_ne_mapStat hg), if_pos (List.mem_map.2 ⟨f, List.mem_range.2 hf, rfl⟩)]

/-- Another segment's entry. -/
theorem State.reg_setHash_ne (s : State) {g g' : Nat} (v : Nat) (hg : g < 768) (hg' : g' < 768) (h : g' ≠ g) (f : Nat) :
    (s.setHash g v).reg (R.floorHash f g') = s.reg (R.floorHash f g') := by
  rw [State.reg_setHash s g v (floorHash_ne_mapStat hg'), if_neg]
  rintro hm
  obtain ⟨k, -, hk⟩ := List.mem_map.1 hm
  simp only [R.floorHash] at hk; omega

theorem Variant.segments_le (v : Variant) : Variant.segments v ≤ 768 := by cases v <;> decide

theorem State.segKind_setHash_ne (s : State) {g h : Nat} (v : Nat) (hg : g < 768) (hh : h < 768) (hne : g ≠ h) :
    (s.setHash h v).segKind g = s.segKind g := by
  have hrd : (s.setHash h v).rd (F.floorHashKind 0 g) = s.rd (F.floorHashKind 0 g) := by
    simp only [State.rd, F.floorHashKind, State.reg_setHash_ne s v hh hg hne]
  simp only [State.segKind, (mapsOnly_setHash s h v).variant, hrd]

/-- An entry of the Spread hash maps its segment. -/
theorem State.segKind_setHash_spread (s : State) {g : Nat} (b : Nat) (hg : g < s.variant.segments) :
    (s.setHash g (1 + b * 2 ^ 8)).segKind g = 1 := by
  have hg' : g < 768 := by have := Variant.segments_le s.variant; omega
  have hk : (s.setHash g (1 + b * 2 ^ 8)).rd (F.floorHashKind 0 g) = 1 := by
    simp only [State.rd, F.floorHashKind, State.reg_setHash_same s _ hg' (show 0 < 8 by omega), BitVec.toNat_ofNat, bf]
    omega
  simp only [State.segKind, (mapsOnly_setHash s g _).variant, hk, if_neg (Nat.not_le.2 hg)]
  decide

/-- A segment mapped under the Spread hash where it is unmapped. -/
def State.mapSeg (s : State) (g : Nat) : State :=
  if s.segKind g = 0 then s.setHash g (1 + g * Variant.footMiB s.variant * 2 ^ 8) else s

theorem State.mapSpread_eq (s : State) (a n : Nat) : s.mapSpread a n = (segsOf a n).foldl State.mapSeg s := rfl

theorem mapsOnly_mapSeg (s : State) (g : Nat) : mapsOnly s (s.mapSeg g) := by
  unfold State.mapSeg
  split
  · exact mapsOnly_setHash s _ _
  · exact .refl s

theorem mapsOnly_mapSpread (s : State) (a n : Nat) : mapsOnly s (s.mapSpread a n) := mapsOnly_foldl _ _ s mapsOnly_mapSeg

theorem State.segKind_mapSeg_same (s : State) {g : Nat} (hg : g < s.variant.segments) : (s.mapSeg g).segKind g ≠ 0 := by
  unfold State.mapSeg
  split
  · rw [State.segKind_setHash_spread s _ hg]; decide
  · assumption

/-- A mapped segment stays mapped while others are. -/
theorem State.segKind_mapSeg (s : State) {g h : Nat} (hg : g < s.variant.segments) (hh : h < s.variant.segments) (hk : s.segKind g ≠ 0) :
    (s.mapSeg h).segKind g ≠ 0 := by
  by_cases hgh : g = h
  · exact hgh ▸ State.segKind_mapSeg_same s hg
  · unfold State.mapSeg
    split
    · have hle := Variant.segments_le s.variant
      rwa [State.segKind_setHash_ne s _ (by omega) (by omega) hgh]
    · exact hk

/-- Every segment of a list within HBM is mapped once the list is. -/
theorem State.segKind_mapSegs (gs : List Nat) (s : State) (hs : ∀ h ∈ gs, h < s.variant.segments) {g : Nat} (hg : g < s.variant.segments)
    (h : g ∈ gs ∨ s.segKind g ≠ 0) : (gs.foldl State.mapSeg s).segKind g ≠ 0 := by
  induction gs generalizing s with
  | nil => simpa using h
  | cons k gs ih =>
    have hv := (mapsOnly_mapSeg s k).variant
    have hk := hs k List.mem_cons_self
    refine ih _ (fun m hm => hv ▸ hs m (List.mem_cons_of_mem _ hm)) (hv ▸ hg) ?_
    rcases h with h | h
    · rcases List.mem_cons.1 h with rfl | h
      · exact .inr (State.segKind_mapSeg_same s hg)
      · exact .inl h
    · exact .inr (State.segKind_mapSeg s hg hk h)

theorem mem_segsOf {a n x : Nat} (h1 : a ≤ x) (h2 : x < a + n) : x / segBytes ∈ segsOf a n := by
  unfold segsOf
  rw [if_neg (by omega)]
  refine List.mem_map.2 ⟨x / segBytes - a / segBytes, List.mem_range.2 ?_, ?_⟩ <;> simp only [segBytes] <;> omega

theorem segsOf_le {a n g : Nat} (h : g ∈ segsOf a n) : g ≤ (a + n - 1) / segBytes := by
  unfold segsOf at h
  split at h
  · cases h
  · obtain ⟨i, hi, rfl⟩ := List.mem_map.1 h
    rw [List.mem_range] at hi
    have : a / segBytes ≤ (a + n - 1) / segBytes := Nat.div_le_div_right (by omega)
    omega

/-! ## Rights of pages -/

/-- One page's right in the word of its floor. -/
def State.setRightAt (s : State) (p v f : Nat) : State :=
  s.setReg (R.floorPerm f (p / 32)) (BitVec.ofNat 64 (bfSet (s.reg (R.floorPerm f (p / 32))).toNat (2 * (p % 32)) 2 v))

theorem State.setRight_eq (s : State) {p : Nat} (v : Nat) (hp : p < pageCount) :
    s.setRight p v = (List.range 8).foldl (fun s f => s.setRightAt p v f) s := by
  rw [State.setRight, if_neg (Nat.not_le.2 hp)]; rfl

/-- A register that is no word of the permission table. -/
theorem State.reg_setRight_ne (s : State) (p v : Nat) {a : Nat} (ha : ∀ f w, f < 8 → w < 18624 → a ≠ R.floorPerm f w) :
    (s.setRight p v).reg a = s.reg a := by
  by_cases hp : p < pageCount
  · rw [State.setRight_eq s v hp]
    have hw : p / 32 < 18624 := by simp only [pageCount] at hp; omega
    have key : ∀ (fs : List Nat) (u : State), (∀ f ∈ fs, f < 8) → (fs.foldl (fun s f => s.setRightAt p v f) u).reg a = u.reg a := by
      intro fs
      induction fs with
      | nil => intro u _; rfl
      | cons f fs ih =>
        intro u hf
        rw [List.foldl_cons, ih _ fun k hk => hf k (List.mem_cons_of_mem _ hk)]
        exact State.reg_setReg_ne u _ (ha f _ (hf f List.mem_cons_self) hw)
    exact key _ s fun f hf => List.mem_range.1 hf
  · rw [State.setRight, if_pos (Nat.not_lt.1 hp)]

theorem State.reg_setRights_ne (s : State) (b n v : Nat) {a : Nat} (ha : ∀ f w, f < 8 → w < 18624 → a ≠ R.floorPerm f w) :
    (s.setRights b n v).reg a = s.reg a := by
  unfold State.setRights
  split
  · rfl
  · exact foldl_keep _ (fun u : State => u.reg a = s.reg a) _ s rfl fun u i hu => (State.reg_setRight_ne u _ _ ha).trans hu

/-- The right of a page after a floor's word has been written. -/
theorem State.right_setRightAt (s : State) {p q : Nat} (v : Nat) (hp : p < pageCount) (hq : q < pageCount) {f : Nat} :
    (s.setRightAt p v f).right q = if f = 0 ∧ q = p then v % 4 else s.right q := by
  simp only [pageCount] at hp hq
  simp only [State.right, State.setRightAt, State.reg_setReg]
  by_cases hw : R.floorPerm 0 (q / 32) = R.floorPerm f (p / 32)
  · simp only [R.floorPerm] at hw
    have hf : f = 0 := by omega
    subst hf
    have hpq : q / 32 = p / 32 := by omega
    rw [if_pos (by rw [hpq]), BitVec.toNat_ofNat, bf_mod _ _ _ _ (by omega)]
    by_cases h : q = p
    · subst h; simp
    · rw [if_neg (fun hh => h hh.2), bf_bfSet_ne _ _ _ _ _ _ (by omega), hpq]
  · rw [if_neg hw, if_neg]
    rintro ⟨rfl, rfl⟩
    exact hw rfl

/-- The right of a page after the right of a page has been written. -/
theorem State.right_setRight (s : State) {p q : Nat} (v : Nat) (hp : p < pageCount) (hq : q < pageCount) :
    (s.setRight p v).right q = if q = p then v % 4 else s.right q := by
  rw [State.setRight_eq s v hp, show List.range 8 = [0, 1, 2, 3, 4, 5, 6, 7] from rfl]
  simp only [List.foldl_cons, List.foldl_nil, State.right_setRightAt _ v hp hq]
  simp

/-- A page that has a right keeps it when some page is given that right. -/
theorem State.right_setRight_keep (s : State) {p q v : Nat} (hv : v < 4) (hq : q < pageCount) (h : s.right q = v) :
    (s.setRight p v).right q = v := by
  by_cases hp : p < pageCount
  · rw [State.right_setRight s v hp hq, h, Nat.mod_eq_of_lt hv, ite_self]
  · rwa [State.setRight, if_pos (Nat.not_lt.1 hp)]

/-- Every page of a range has the right that the range was given. -/
theorem State.right_setRights (s : State) {a n x v : Nat} (hv : v < 4) (h1 : a ≤ x) (h2 : x < a + n) (hx : pageOf x < pageCount) :
    (s.setRights a n v).right (pageOf x) = v := by
  unfold State.setRights
  rw [if_neg (by omega)]
  have hmem : x / 0x200000 - a / 0x200000 ∈ List.range ((a + n - 1) / 0x200000 - a / 0x200000 + 1) := by
    rw [List.mem_range]; omega
  have hpage : pageOf (a + 0x200000 * (x / 0x200000 - a / 0x200000)) = pageOf x := by
    unfold pageOf apertureBase
    split <;> split <;> omega
  generalize List.range ((a + n - 1) / 0x200000 - a / 0x200000 + 1) = is at hmem ⊢
  have key : ∀ (is : List Nat) (u : State), (u.right (pageOf x) = v ∨ x / 0x200000 - a / 0x200000 ∈ is) →
      (is.foldl (fun s i => s.setRight (pageOf (a + 0x200000 * i)) v) u).right (pageOf x) = v := by
    intro is
    induction is with
    | nil => intro u h; simpa using h
    | cons i is ih =>
      intro u h
      rw [List.foldl_cons]
      refine ih _ ?_
      by_cases hi : i = x / 0x200000 - a / 0x200000
      · rw [hi, hpage, State.right_setRight u v hx hx, if_pos rfl]
        exact .inl (Nat.mod_eq_of_lt hv)
      · rcases h with h | h
        · exact .inl (State.right_setRight_keep u hv hx h)
        · exact .inr ((List.mem_cons.1 h).resolve_left (Ne.symm hi))
  exact key is s (.inr hmem)

theorem segKind_eq_of_reg {s w : State} (hv : w.variant = s.variant) (g : Nat) (h : w.reg (R.floorHash 0 g) = s.reg (R.floorHash 0 g)) :
    w.segKind g = s.segKind g := by
  have hrd : w.rd (F.floorHashKind 0 g) = s.rd (F.floorHashKind 0 g) := by simp only [State.rd, F.floorHashKind, h]
  simp only [State.segKind, hv, hrd]

theorem right_eq_of_reg {s w : State} (p : Nat) (h : w.reg (R.floorPerm 0 (p / 32)) = s.reg (R.floorPerm 0 (p / 32))) : w.right p = s.right p := by
  simp only [State.right, h]

/-- Rights change no hash entry. -/
theorem State.segKind_setRights (s : State) (a n v : Nat) {g : Nat} (hg : g < 768) : (s.setRights a n v).segKind g = s.segKind g :=
  segKind_eq_of_reg (mapsOnly_setRights s a n v).variant g (State.reg_setRights_ne s a n v fun f w _ hw => by
    simp only [R.floorHash, R.floorPerm]; omega)

end Sys2Proof.Machine
end

section
/-! EXCH_DECLARE (R477, R491). -/

namespace Sys2Proof.Machine

/-! ## The Exchange window -/

/-- The fields of HOSTW_EXCH as EXCH_DECLARE writes them (R491). -/
def exchFields (k b : Nat) : List (Fld × Nat) :=
  [(F.hostwExchDeclared, 1), (F.hostwExchSegLog2, k), (F.hostwExchNSeg, min 8192 ((2 ^ 32 - 0x10000) / 2 ^ k)), (F.hostwExchBase, b / 16)]

theorem State.reg_exchFields_ne (s : State) (k b : Nat) {a : Nat} (ha : a ≠ R.hostwExch) : (s.wrs (exchFields k b)).reg a = s.reg a :=
  (s.wrs_only (exchFields k b)).2 a fun h => ha (by
    simpa [exchFields, F.hostwExchDeclared, F.hostwExchSegLog2, F.hostwExchNSeg, F.hostwExchBase] using h)

theorem State.rd_exchFields (s : State) (k b : Nat) :
    (s.wrs (exchFields k b)).rd F.hostwExchDeclared = 1 ∧ (s.wrs (exchFields k b)).rd F.hostwExchSegLog2 = k % 2 ^ 5 ∧
      (s.wrs (exchFields k b)).rd F.hostwExchNSeg = min 8192 ((2 ^ 32 - 0x10000) / 2 ^ k) % 2 ^ 14 ∧
      (s.wrs (exchFields k b)).rd F.hostwExchBase = b / 16 % 2 ^ 44 := by
  simp only [exchFields, State.wrs, List.foldl_cons, List.foldl_nil]
  refine ⟨?_, ?_, ?_, ?_⟩ <;> simp (disch := decide) only [State.rd_wr_apart, State.rd_wr_same] <;> rfl

/-- The Exchange window lies at the top of HBM, on whole pages and segments of the module (R28, R477). -/
theorem Variant.exchBase_facts (v : Variant) : 0x200000 ∣ v.exchBase ∧ v.exchBase + 2 ^ 32 ≤ v.segments * segBytes ∧
    v.segments ≤ 768 ∧ 0x200000 ≤ v.exchBase ∧ 16 * (v.exchBase / 16 % 2 ^ 44) = v.exchBase := by
  cases v <;> decide

/-- EXCH_DECLARE (R477, R491). -/
theorem exchDeclare_outcome {s u : State} {e : Entry} (h : s.cmdTurn e .admin ⟨false, false, true, true⟩ [(1, [(0, 5)])] = some u) :
    let k := parm e 1 % 32
    (k < 16 ∨ 30 < k → leads (exec (.exchDeclare e) s) fun z => posted u z e sINVALID_FIELD 0) ∧
    (16 ≤ k → k ≤ 30 → u.job ≠ none → leads (exec (.exchDeclare e) s) fun z => posted u z e sBUSY 0) ∧
    (16 ≤ k → k ≤ 30 → u.job = none → leads (exec (.exchDeclare e) s) fun z => ∃ v, posted v z e sOK u.variant.exchBase ∧
      v = { u with regs := v.regs, keep := { u.keep with copies := v.keep.copies } } ∧
      v.on F.hostwExchDeclared = true ∧ v.rd F.hostwExchSegLog2 = k ∧ v.rd F.hostwExchNSeg = min 8192 ((2 ^ 32 - 0x10000) / 2 ^ k) ∧
      16 * v.rd F.hostwExchBase = u.variant.exchBase ∧
      ∀ a, u.variant.exchBase ≤ a → a < u.variant.exchBase + 2 ^ 32 → v.right (pageOf a) = 3 ∧ v.segKind (a / segBytes) ≠ 0) := by
  intro k
  have hk : bf (parm e 1) 0 5 = k := bf_zero _ _
  refine ⟨fun hbad => cmd_posts h ?_, fun h16 h30 hj => cmd_posts h ?_, fun h16 h30 hj => ?_⟩
  · simp only [hk, if_pos hbad]
  · simp only [hk]
    rw [if_neg (by omega), if_pos (Option.isSome_iff_ne_none.2 hj)]
  · show leads (.next (State.cmd _ _ _ _ _ _)) _
    rw [State.cmd_of_cmdTurn h]
    simp only [hk]
    rw [if_neg (by omega), if_neg (by simp [hj])]
    obtain ⟨-, htop, hseg, -, hbase⟩ := Variant.exchBase_facts u.variant
    set b := u.variant.exchBase
    set w := (u.mapSpread b (2 ^ 32)).setRights b (2 ^ 32) 3 with hw
    have hwu : mapsOnly u w := (mapsOnly_mapSpread u _ _).trans (mapsOnly_setRights _ _ _ _)
    obtain ⟨hd, hl, hn, hb⟩ := w.rd_exchFields k b
    refine leads_next ⟨_, State.complete_posted _ _ _ (State.sq_lt_of_cmdTurn h), hwu.trans (mapsOnly_wrs w _), ?_, ?_, ?_, ?_, fun a h1 h2 => ?_⟩
    · exact decide_eq_true hd
    · exact hl.trans (Nat.mod_eq_of_lt (by omega))
    · exact hn.trans (Nat.mod_eq_of_lt (by omega))
    · exact (congrArg (16 * ·) hb).trans hbase
    · have hg : a / segBytes < u.variant.segments := by
        rw [Nat.div_lt_iff_lt_mul (by decide)]; omega
      have hpage : pageOf a < pageCount := by
        have : u.variant.segments * segBytes ≤ 768 * segBytes := Nat.mul_le_mul_right _ hseg
        simp only [segBytes] at this htop
        unfold pageOf pageCount apertureBase
        split <;> omega
      change (w.wrs (exchFields k b)).right (pageOf a) = 3 ∧ (w.wrs (exchFields k b)).segKind (a / segBytes) ≠ 0
      refine ⟨?_, ?_⟩
      · refine (right_eq_of_reg _ (State.reg_exchFields_ne w k b ?_)).trans (State.right_setRights _ (by omega) h1 h2 hpage)
        simp only [R.floorPerm, R.hostwExch]; omega
      · rw [segKind_eq_of_reg (mapsOnly_wrs w _).variant _ (State.reg_exchFields_ne w k b (by simp only [R.floorHash, R.hostwExch]; omega)),
          State.segKind_setRights _ _ _ _ (by omega), State.mapSpread_eq]
        refine State.segKind_mapSegs _ u (fun g hg => ?_) hg (.inl (mem_segsOf h1 h2))
        have := segsOf_le hg
        have h3 : (b + 2 ^ 32 - 1) / segBytes < u.variant.segments := by
          rw [Nat.div_lt_iff_lt_mul (by decide)]; omega
        omega

end Sys2Proof.Machine
end

section
/-! EXCH_DIR and the keep areas (R470, R492). -/

namespace Sys2Proof.Machine

/-! ## Directions of the window's segments -/

/-- One segment's direction. -/
def State.setSegDir (s : State) (d i : Nat) : State := s.wr ⟨R.hostwSegDir (i / 32), 2 * (i % 32), 2⟩ d

theorem State.segDir_setSegDir (s : State) (d i k : Nat) : (s.setSegDir d i).segDir k = if k = i then d % 4 else s.segDir k := by
  unfold State.segDir State.setSegDir
  split
  · rename_i h
    subst h
    exact State.rd_wr_same _ _ _ (by dsimp only; omega)
  · by_cases hw : k / 32 = i / 32
    · exact State.rd_wr_apart _ _ _ _ (by dsimp only; omega) (by dsimp only; omega)
    · exact State.rd_wr_addr _ _ _ _ (by simp only [R.hostwSegDir]; omega)

theorem State.segDir_setSegDirs (d : Nat) (is : List Nat) (s : State) (k : Nat) :
    (is.foldl (·.setSegDir d) s).segDir k = if k ∈ is then d % 4 else s.segDir k := by
  induction is generalizing s with
  | nil => simp
  | cons i is ih =>
    rw [List.foldl_cons, ih, State.segDir_setSegDir]
    by_cases hk : k = i <;> simp [hk]

/-- EXCH_DIR (R477, R492). -/
theorem exchDir_outcome {s u : State} {e : Entry} (h : s.cmdTurn e .admin ⟨false, false, true, true⟩ [(1, [(0, 26)]), (2, [(0, 2)])] = some u) :
    let a := parm e 1 % 2 ^ 13
    let n := parm e 1 / 2 ^ 13 % 2 ^ 13
    (u.rd F.hostwExchNSeg < a + n → leads (exec (.exchDir e) s) fun z => posted u z e sINVALID_FIELD 0) ∧
    (a + n ≤ u.rd F.hostwExchNSeg →
      ((∃ i, a ≤ i ∧ i < a + n ∧ u.flagWord i % 4 ≠ 0) → leads (exec (.exchDir e) s) fun z => posted u z e sBUSY 0) ∧
      ((∀ i, a ≤ i → i < a + n → u.flagWord i % 4 = 0) → leads (exec (.exchDir e) s) fun z => ∃ v, posted v z e sOK 0 ∧ v = { u with regs := v.regs } ∧
        ∀ i, v.segDir i = if a ≤ i ∧ i < a + n then parm e 2 % 4 else u.segDir i)) := by
  intro a n
  have ha : bf (parm e 1) 0 13 = a := bf_zero _ _
  have hn : bf (parm e 1) 13 13 = n := rfl
  have hmem : ∀ i, i ∈ (List.range n).map (· + a) ↔ a ≤ i ∧ i < a + n := by
    intro i
    simp only [List.mem_map, List.mem_range]
    exact ⟨fun ⟨k, hk, hi⟩ => by omega, fun hi => ⟨i - a, by omega, by omega⟩⟩
  refine ⟨fun hbad => cmd_posts h ?_, fun hfit => ⟨fun ⟨i, h1, h2, hi⟩ => cmd_posts h ?_, fun hfree => ?_⟩⟩
  · simp only [ha, hn, if_pos hbad]
  · simp only [ha, hn]
    rw [if_neg (by omega), if_pos (List.any_eq_true.2 ⟨i, (hmem i).2 ⟨h1, h2⟩, by simpa using hi⟩)]
  · show leads (.next (State.cmd _ _ _ _ _ _)) _
    rw [State.cmd_of_cmdTurn h]
    simp only [ha, hn]
    rw [if_neg (by omega), if_neg (by
      rw [List.any_eq_true]
      rintro ⟨i, hi, hf⟩
      exact absurd (hfree i ((hmem i).1 hi).1 ((hmem i).1 hi).2) (by simpa using hf))]
    refine leads_next ⟨_, State.complete_posted _ _ _ (State.sq_lt_of_cmdTurn h), ?_, fun i => ?_⟩
    · exact foldl_keep _ (fun w : State => w = { u with regs := w.regs }) _ u rfl fun w i hw => by rw [State.wr, State.setReg, hw]
    · rw [bf_zero]
      exact (State.segDir_setSegDirs _ _ u i).trans (by simp only [hmem, show parm e 2 % 2 ^ 2 % 4 = parm e 2 % 4 by omega])

/-! ## Keep areas -/

theorem Variant.exchBase_lt (v : Variant) : v.exchBase < 589824 * 0x200000 := by cases v <;> decide

/-- A page of HBM is one of the permission table. -/
theorem pageOf_lt_pageCount {x : Nat} (hx : x < 589824 * 0x200000) : pageOf x < pageCount := by
  unfold pageOf pageCount apertureBase
  split <;> omega

theorem State.keepFits_iff (s : State) (n a : Nat) :
    s.keepFits n a = true ↔ a + n ≤ s.variant.exchBase ∧ ∀ k ∈ s.host.keeps, k.1 + k.2 ≤ a ∨ a + n ≤ k.1 := by
  simp [State.keepFits]

/-- A choice kept through a list is one of the list's. -/
theorem foldl_option_mem {α β : Type} (f : Option β → α → Option β) (g : α → β) (hf : ∀ m x, f m x = m ∨ f m x = some (g x)) (l : List α)
    {b : β} (m : Option β) (h : l.foldl f m = some b) : m = some b ∨ ∃ x ∈ l, b = g x := by
  induction l generalizing m with
  | nil => exact .inl h
  | cons x l ih =>
    rcases ih _ h with h | ⟨y, hy, hb⟩
    · rcases hf m x with hm | hm
      · exact .inl (hm ▸ h)
      · exact .inr ⟨x, List.mem_cons_self, Option.some_inj.1 (h.symm.trans hm)⟩
    · exact .inr ⟨y, List.mem_cons_of_mem _ hy, hb⟩

/-- The place found for a keep area fits. -/
theorem State.keepFits_keepPlace (s : State) {n top : Nat} (hk : ∀ k ∈ s.host.keeps, k.1 + k.2 ≤ s.variant.exchBase)
    (h : s.keepPlace n = some top) : s.keepFits n top = true := by
  rcases foldl_option_mem _ (· - n) (fun m t => by
    cases m
    · exact .inr rfl
    · dsimp only; split
      · exact .inr rfl
      · exact .inl rfl) _ none h with h | ⟨t, ht, rfl⟩
  · cases h
  · obtain ⟨ht, hok⟩ := List.mem_filter.1 ht
    simp only [Bool.and_eq_true, decide_eq_true_eq, List.all_eq_true, Bool.or_eq_true] at hok
    obtain ⟨hn, hdis⟩ := hok
    have hle : t ≤ s.variant.exchBase := by
      rcases List.mem_cons.1 ht with rfl | ht
      · exact Nat.le_refl _
      · obtain ⟨k, hkm, rfl⟩ := List.mem_map.1 ht
        have := hk k hkm
        omega
    refine (s.keepFits_iff n _).2 ⟨by omega, fun k hkm => ?_⟩
    have := hdis k hkm
    omega

/-- Below an Exchange window without keep areas there is room. -/
theorem State.keepPlace_of_noKeeps (s : State) {n : Nat} (hk : s.host.keeps = []) (hn : n ≤ s.variant.exchBase) : s.keepPlace n ≠ none := by
  simp [State.keepPlace, hk, hn]

/-- The place taken for a keep area fits, and taking it draws one free value. -/
theorem State.keepAt_fits (s : State) {n top : Nat} (h : s.keepFits n top = true) :
    s.keepFits n (s.keepAt n top).1 = true ∧ (s.keepAt n top).2 = { s with freeCtr := s.freeCtr + 1 } := by
  refine ⟨?_, rfl⟩
  simp only [State.keepAt]
  split
  · assumption
  · exact h

/-- KEEP_DECLARE (R470). -/
theorem keepDeclare_outcome {s u : State} {e : Entry} (h : s.cmdTurn e .admin ⟨false, false, true, true⟩ [(1, [(0, 64)])] = some u) :
    let n := parm e 1
    (n = 0 ∨ n % 0x200000 ≠ 0 → leads (exec (.keepDeclare e) s) fun z => posted u z e sINVALID_FIELD 0) ∧
    (n ≠ 0 → n % 0x200000 = 0 → u.job ≠ none ∨ 8 ≤ u.host.keeps.length → leads (exec (.keepDeclare e) s) fun z => posted u z e sBUSY 0) ∧
    (n ≠ 0 → n % 0x200000 = 0 → u.job = none → u.host.keeps.length < 8 → (∀ k ∈ u.host.keeps, k.1 + k.2 ≤ u.variant.exchBase) → n ≤ u.variant.exchBase →
      u.host.keeps = [] ∨ u.keepPlace n ≠ none → leads (exec (.keepDeclare e) s) fun z => ∃ v a, posted v z e sOK a ∧
        v = { u with regs := v.regs, freeCtr := v.freeCtr, keep := { u.keep with copies := v.keep.copies }, host := { u.host with keeps := u.host.keeps ++ [(a, n)] } } ∧ a + n ≤ u.variant.exchBase ∧
        (∀ k ∈ u.host.keeps, k.1 + k.2 ≤ a ∨ a + n ≤ k.1) ∧ ∀ x, a ≤ x → x < a + n → v.right (pageOf x) = 3) := by
  intro n
  refine ⟨fun hbad => cmd_posts h (if_pos hbad), fun h0 hal hbusy => cmd_posts h ?_, fun h0 hal hj hlen hks hn hroom => ?_⟩
  · rw [if_neg (by omega), if_pos (by rwa [Option.isSome_iff_ne_none])]
  · show leads (.next (State.cmd _ _ _ _ _ _)) _
    rw [State.cmd_of_cmdTurn h]
    dsimp only
    rw [if_neg (by omega), if_neg (by simp [hj]; omega)]
    obtain ⟨top, htop⟩ := Option.ne_none_iff_exists'.1 (hroom.elim (u.keepPlace_of_noKeeps · hn) id)
    obtain ⟨hfit, hfree⟩ := u.keepAt_fits (u.keepFits_keepPlace hks htop)
    rw [htop]
    dsimp only
    rw [hfree]
    generalize (u.keepAt n top).1 = a at hfit ⊢
    obtain ⟨hle, hdis⟩ := (u.keepFits_iff n a).1 hfit
    set u' : State := { u with freeCtr := u.freeCtr + 1 } with hu'
    set w := (u'.mapSpread a n).setRights a n 3 with hw
    have hwu : mapsOnly u' w := (mapsOnly_mapSpread u' _ _).trans (mapsOnly_setRights _ _ _ _)
    refine leads_next ⟨_, a, State.complete_posted _ _ _ (State.sq_lt_of_cmdTurn h), ?_, hle, hdis, fun x h1 h2 => ?_⟩
    · rw [State.modHost, hwu]
    · have hx : pageOf x < pageCount := pageOf_lt_pageCount (by have := Variant.exchBase_lt u.variant; omega)
      exact State.right_setRights _ (by omega) h1 h2 hx

/-- A page without a right has none after a segment is unmapped, whatever the segment's number. -/
theorem State.right_setHash_zero (s : State) (g : Nat) {p : Nat} (hp : p < pageCount) (h : s.right p = 0) : (s.setHash g 0).right p = 0 := by
  simp only [pageCount] at hp
  rw [State.right, State.reg_setHash _ _ _ fun f => by simp only [R.floorPerm, R.floorMapStat]; omega]
  split
  · simp [bf]
  · exact h

theorem State.right_unmapSegs_zero (s : State) (gs : List Nat) {p : Nat} (hp : p < pageCount) (h : s.right p = 0) : (s.unmapSegs gs).right p = 0 := by
  unfold State.unmapSegs
  refine foldl_keep _ (fun w : State => w.right p = 0) gs s h fun w g hw => ?_
  split
  · exact hw
  · exact w.right_setHash_zero g hp hw

theorem mapsOnly_unmapSegs (s : State) (gs : List Nat) : mapsOnly s (s.unmapSegs gs) := by
  unfold State.unmapSegs
  refine mapsOnly_foldl _ gs s fun w g => ?_
  split
  · exact .refl w
  · exact mapsOnly_setHash w g 0

/-- KEEP_RELEASE (R470). -/
theorem keepRelease_outcome {s u : State} {e : Entry} (h : s.cmdTurn e .admin ⟨false, false, true, true⟩ [(1, [(0, 64)])] = some u) :
    (∀ k, u.host.keeps.find? (fun k => decide (k.1 = parm e 1)) = some k →
      (u.job ≠ none ∨ u.winOver k.1 k.2 = true → leads (exec (.keepRelease e) s) fun z => posted u z e sBUSY 0) ∧
      (u.job = none → u.winOver k.1 k.2 = false → leads (exec (.keepRelease e) s) fun z => ∃ v, posted v z e sOK 0 ∧
        v = { u with regs := v.regs, keep := { u.keep with copies := v.keep.copies }, host := { u.host with keeps := u.host.keeps.erase k } } ∧
        ∀ x, k.1 ≤ x → x < k.1 + k.2 → pageOf x < pageCount → v.right (pageOf x) = 0)) ∧
    ((∀ k ∈ u.host.keeps, k.1 ≠ parm e 1) → leads (exec (.keepRelease e) s) fun z => posted u z e sINVALID_FIELD 0) := by
  refine ⟨fun k hk => ⟨fun hbusy => cmd_posts h ?_, fun hj hw => ?_⟩, fun hnone => cmd_posts h ?_⟩
  · rw [hk]
    dsimp only
    rw [if_pos (by rwa [Option.isSome_iff_ne_none])]
  · show leads (.next (State.cmd _ _ _ _ _ _)) _
    rw [State.cmd_of_cmdTurn h, hk]
    dsimp only
    rw [if_neg (by simp [hj, hw])]
    set u' : State := u.modHost fun h => { h with keeps := h.keeps.erase k } with hu'
    have hmap := (mapsOnly_setRights u' k.1 k.2 0).trans (mapsOnly_unmapSegs _ (segsOf k.1 k.2))
    refine leads_next ⟨_, State.complete_posted _ _ _ (State.sq_lt_of_cmdTurn h), hmap, fun x h1 h2 hx => ?_⟩
    exact State.right_unmapSegs_zero _ _ hx (State.right_setRights u' (by omega) h1 h2 hx)
  · rw [List.find?_eq_none.2 fun k hk => by simpa using hnone k hk]

end Sys2Proof.Machine
end

section
/-! Leash tables: what a new one changes (R362, R365, R367 to R371). -/

namespace Sys2Proof.Machine

theorem tget_filter_key {α : Type} (d : Nat → α) (p : Nat → Bool) (m : List (Nat × α)) (k : Nat) :
    tget d (m.filter fun x => p x.1) k = if p k = true then tget d m k else d k := by
  induction m with
  | nil => simp
  | cons x m ih =>
    obtain ⟨j, v⟩ := x
    rw [List.filter_cons]
    by_cases hk : k = j
    · subst hk
      by_cases hp : p k = true <;> simp [hp, ih, tget_cons]
    · by_cases hp : p j = true <;> simp [hp, ih, tget_cons, hk]

/-! ## Fields of the tables -/

theorem State.rd_of_regs {s w : State} (hv : w.variant = s.variant) (hr : w.regs = s.regs) (f : Fld) : w.rd f = s.rd f := by
  simp only [State.rd, State.reg, hv, hr]

/-- Fields of the latency targets, and of the leash table below its scaled bits. -/
def leashField (f : Fld) : Prop := 0x800 ≤ f.addr ∧ f.addr < 0x2000 ∧ f.lo + f.w ≤ 64 ∧ (f.addr < 0x1000 ∨ f.lo + f.w ≤ 21)

theorem leashField_mbps {c cls : Nat} (hc : c < 16) (hcls : cls < 5) : leashField (F.keepLeashMbps (8 * c + cls)) := by
  simp only [leashField, F.keepLeashMbps, R.keepLeash]; omega

theorem leashField_slice {c : Nat} (hc : c < 16) : leashField (F.keepLatTgtSliceNs c) := by
  simp only [leashField, F.keepLatTgtSliceNs, R.keepLatTgt]; omega

theorem leashField_hbm {c : Nat} (hc : c < 16) : leashField (F.keepLatTgtHbmNs c) := by
  simp only [leashField, F.keepLatTgtHbmNs, R.keepLatTgt]; omega

/-- The leash table and the targets stand; nothing but registers, counters and the host's side differs. -/
def leashesKept (s w : State) : Prop :=
  w = { s with regs := w.regs, counters := w.counters, host := w.host } ∧ ∀ f, leashField f → w.rd f = s.rd f

theorem leashesKept.refl (s : State) : leashesKept s s := ⟨rfl, fun _ _ => rfl⟩

theorem leashesKept.trans {s w z : State} (h : leashesKept s w) (h' : leashesKept w z) : leashesKept s z :=
  ⟨by rw [h'.1, h.1], fun f hf => (h'.2 f hf).trans (h.2 f hf)⟩

theorem leashesKept_foldl {β : Type} (f : State → β → State) (l : List β) (s : State) (h : ∀ u, ∀ x ∈ l, leashesKept u (f u x)) :
    leashesKept s (l.foldl f s) := by
  induction l generalizing s with
  | nil => exact .refl s
  | cons x l ih => exact (h s x List.mem_cons_self).trans (ih _ fun u y hy => h u y (List.mem_cons_of_mem _ hy))

/-- A write outside the table, or of a scaled bit. -/
theorem leashesKept_wr (s : State) (f : Fld) (v : Nat) (h : f.addr < 0x800 ∨ 0x2000 ≤ f.addr ∨ 0x1000 ≤ f.addr ∧ 21 ≤ f.lo) :
    leashesKept s (s.wr f v) := by
  refine ⟨rfl, fun g ⟨h1, h2, h3, h4⟩ => ?_⟩
  by_cases ha : g.addr = f.addr
  · exact State.rd_wr_apart s f g v h3 (by omega)
  · exact State.rd_wr_addr s f g v ha

theorem leashesKept_wrs (s : State) (ws : List (Fld × Nat)) (h : ∀ p ∈ ws, p.1.addr < 0x800) : leashesKept s (s.wrs ws) :=
  leashesKept_foldl _ ws s fun u p hp => leashesKept_wr u _ _ (.inl (h p hp))

theorem leashesKept_bump (s : State) (ev : Nat) (u : EvUnit) (n : Nat) : leashesKept s (s.bump ev u n) := ⟨rfl, fun _ _ => rfl⟩

theorem leashesKept_record (s : State) (valid multi : Fld) (ws : List (Fld × Nat)) (hv : valid.addr < 0x800) (hm : multi.addr < 0x800)
    (hw : ∀ p ∈ ws, p.1.addr < 0x800) : leashesKept s (s.record valid multi ws) := by
  unfold State.record
  split
  · exact leashesKept_wr s _ _ (.inl hm)
  · exact (leashesKept_wrs s ws hw).trans (leashesKept_wr _ _ _ (.inl hv))

theorem leashesKept_of_hostPosts {s w : State} (h : hostPosts s w) : leashesKept s w := by
  unfold hostPosts at h
  rw [h]
  exact ⟨rfl, fun _ _ => rfl⟩

theorem leashesKept_notice (s : State) (kind status result : Nat) : leashesKept s (s.notice kind status result) := by
  unfold State.notice
  split
  · exact .refl s
  · split
    · exact leashesKept_of_hostPosts (hostPosts_setQueue s _ _)
    · split
      · exact leashesKept_of_hostPosts (hostPosts_postNow s _ _)
      · exact leashesKept_wr s _ _ (by simp only [F.cmdqEvtLostCount, R.cmdqEvtLost]; omega)

theorem leashesKept_shortfall (s : State) (cls dir inst count cap : Nat) : leashesKept s (s.shortfall cls dir inst count cap) := by
  unfold State.shortfall
  dsimp only
  split
  · exact .refl s
  · refine ((leashesKept_bump s _ _ _).trans (leashesKept_record _ _ _ _ ?_ ?_ ?_)).trans (leashesKept_notice _ _ _ _)
    · decide
    · decide
    · simp only [List.forall_mem_cons, List.not_mem_nil, false_imp_iff, implies_true, and_true]
      decide

theorem leashesKept_rescale (s : State) (cls : Nat) : leashesKept s (s.rescale cls) :=
  leashesKept_foldl _ _ s fun u _ _ => leashesKept_shortfall u _ _ _ _ _

theorem leashesKept_leashScaled (s : State) (cls : Nat) : leashesKept s (s.leashScaled cls) :=
  leashesKept_foldl _ _ s fun u k _ => leashesKept_wr u _ _ (.inr (.inr (by simp only [F.keepLeashScaled, R.keepLeash]; omega)))

/-! ## One collar's entry -/

/-- The values of a LEASH_SET written for its collar (R470). -/
def State.leashEntry (s : State) (c : Nat) (v : List Nat) : State :=
  ((List.range 5).foldl (fun s k => s.wr (F.keepLeashMbps (8 * c + k)) (v.getD k 0)) s).wrs
    [(F.keepLatTgtSliceNs c, v.getD 5 0), (F.keepLatTgtHbmNs c, v.getD 6 0)]

theorem State.leashEntry_regs (s : State) (c : Nat) (v : List Nat) : s.leashEntry c v = { s with regs := (s.leashEntry c v).regs } := rfl

theorem State.rd_keepLeashMbps_wrs (b : Nat) (g : Nat → Nat) (is : List Nat) (s : State) (a : Nat) :
    (is.foldl (fun s i => s.wr (F.keepLeashMbps (b + i)) (g i)) s).rd (F.keepLeashMbps a) =
      if a ∈ is.map (b + ·) then g (a - b) % 2 ^ 21 else s.rd (F.keepLeashMbps a) := by
  induction is generalizing s with
  | nil => simp
  | cons i is ih =>
    rw [List.foldl_cons, ih]
    by_cases ha : a = b + i
    · subst ha
      rw [State.rd_wr_same _ _ _ (by simp [F.keepLeashMbps])]
      simp [F.keepLeashMbps]
    · rw [State.rd_wr_addr _ _ _ _ (by simp only [F.keepLeashMbps, R.keepLeash]; omega)]
      simp [ha]

/-- The reservations, as a collar's entry writes them. -/
theorem State.rd_leashEntry_mbps (s : State) {c : Nat} (v : List Nat) (hc : c < 16) {k cls : Nat} (hcls : cls < 5) :
    (s.leashEntry c v).rd (F.keepLeashMbps (8 * k + cls)) = if k = c then v.getD cls 0 % 2 ^ 21 else s.rd (F.keepLeashMbps (8 * k + cls)) := by
  have hne : ∀ i, R.keepLeash i ≠ R.keepLatTgt c := fun i => by simp only [R.keepLeash, R.keepLatTgt]; omega
  unfold State.leashEntry
  simp only [State.wrs, List.foldl_cons, List.foldl_nil]
  rw [State.rd_wr_addr _ _ _ _ (hne _), State.rd_wr_addr _ _ _ _ (hne _), State.rd_keepLeashMbps_wrs]
  by_cases hk : k = c
  · subst hk
    rw [if_pos rfl, if_pos (List.mem_map.2 ⟨cls, List.mem_range.2 hcls, rfl⟩), Nat.add_sub_cancel_left]
  · rw [if_neg hk, if_neg]
    rintro hm
    obtain ⟨i, hi, heq⟩ := List.mem_map.1 hm
    rw [List.mem_range] at hi
    omega

/-- The latency targets, as a collar's entry writes them. -/
theorem State.rd_leashEntry_targets (s : State) (c : Nat) (v : List Nat) :
    (s.leashEntry c v).rd (F.keepLatTgtSliceNs c) = v.getD 5 0 % 2 ^ 16 ∧ (s.leashEntry c v).rd (F.keepLatTgtHbmNs c) = v.getD 6 0 % 2 ^ 16 := by
  unfold State.leashEntry
  simp only [State.wrs, List.foldl_cons, List.foldl_nil]
  refine ⟨?_, State.rd_wr_same _ _ _ (by simp [F.keepLatTgtHbmNs])⟩
  rw [State.rd_wr_apart _ _ _ _ (by simp [F.keepLatTgtSliceNs]) (by simp [F.keepLatTgtSliceNs, F.keepLatTgtHbmNs])]
  exact State.rd_wr_same _ _ _ (by simp [F.keepLatTgtSliceNs])

/-! ## Measured latencies that start again -/

/-- A collar's measured latency at a slice or channel starts again. -/
def State.latNew (s old : State) (c key : Nat) : Bool :=
  decide (key % 16 = c) &&
    if key < 8192 then decide (s.rd (F.keepLatTgtSliceNs c) ≠ old.rd (F.keepLatTgtSliceNs c)) else decide (s.rd (F.keepLatTgtHbmNs c) ≠ old.rd (F.keepLatTgtHbmNs c))

theorem State.lat_latFollow (s old : State) (c : Nat) : (s.latFollow old c).lat = s.lat.filter fun p => !s.latNew old c p.1 := by
  have h : ∀ l : List (Nat × Nat), (l.foldl (fun s p => s.wr (escField p.1) 0) s).lat = s.lat := fun l =>
    foldl_keep _ (fun u : State => u.lat = s.lat) l s rfl fun u _ hu => hu
  unfold State.latFollow
  dsimp only
  rw [h]
  rfl

theorem leashesKept_escFields (l : List (Nat × Nat)) (s : State) : leashesKept s (l.foldl (fun s p => s.wr (escField p.1) 0) s) :=
  leashesKept_foldl _ l s fun u p _ => leashesKept_wr u _ _ (.inr (.inl (by
    unfold escField; dsimp only; split <;> simp only [R.hbmcChEsc, R.sliceEsc] <;> omega)))

/-- The targets and the leash table stand, and nothing but registers and measured latencies differs. -/
theorem State.latFollow_kept (s old : State) (c : Nat) :
    s.latFollow old c = { s with regs := (s.latFollow old c).regs, lat := (s.latFollow old c).lat } ∧
      ∀ f, leashField f → (s.latFollow old c).rd f = s.rd f := by
  refine ⟨?_, fun f hf => (leashesKept_escFields _ s).2 f hf⟩
  have h : ∀ l : List (Nat × Nat), l.foldl (fun s p => s.wr (escField p.1) 0) s =
      { s with regs := (l.foldl (fun s p => s.wr (escField p.1) 0) s).regs } := fun l =>
    foldl_keep _ (fun u : State => u = { s with regs := u.regs }) l s rfl fun u _ hu => by rw [State.wr, State.setReg, hu]
  unfold State.latFollow
  dsimp only
  rw [h]

/-! ## LEASH_SET -/

/-- State with one collar's new entry at the boundary, and nothing else waiting there. -/
def State.leashWaits (u : State) (c : Nat) (v : List Nat) : State := { u with bound := { u.bound with leashes := [(c, v)] } }

/-- No entry waits for the boundary any more. -/
def State.leashesDone (t : State) : State := { t with bound := { t.bound with leashes := [] } }

/-- A new entry at its boundary: written, its collar's latencies and counts started again, the degraded capacities recomputed. -/
theorem State.applyLeashes_one (u : State) {c : Nat} (v : List Nat) (hc : c < 16) :
    (u.leashWaits c v).applyLeashes = (List.range 5).foldl (fun s k => (s.leashScaled k).rescale k)
      ((((u.leashWaits c v).leashEntry c v).latFollow (u.leashWaits c v) c).leashesDone.fullCredits fun k => decide (k % 16 = c)) := by
  have hw : (u.leashWaits c v).bound.leashes = [(c, v)] := rfl
  unfold State.applyLeashes State.leashesDone State.leashEntry
  simp only [hw, List.foldl_cons, List.foldl_nil, List.isEmpty_cons, List.any_cons, List.any_nil, Bool.or_false, Bool.false_eq_true, if_false,
    if_neg (Nat.not_le.2 hc)]

theorem State.leashesDone_fullCredits (u : State) (c : Nat) (v : List Nat) (r : List (Nat × W64)) (l : List (Nat × Nat)) (p : Nat → Bool)
    (hb : u.bound.leashes = []) :
    ({ u.leashWaits c v with regs := r, lat := l }.leashesDone).fullCredits p = { u with regs := r, lat := l, credits := u.credits.filter fun k => !p k.1 } := by
  have hbound : { u.bound with leashes := [] } = u.bound := by rw [← hb]
  simp only [State.leashesDone, State.fullCredits, State.leashWaits, hbound]

/-- What a LEASH_SET leaves once it has taken effect (R362, R365, R367). -/
theorem State.applyLeashes_facts (u : State) {c : Nat} (v : List Nat) (hc : c < 16) (hv : ∀ cls, cls < 5 → v.getD cls 0 < 2 ^ 21)
    (h5 : v.getD 5 0 < 2 ^ 16) (h6 : v.getD 6 0 < 2 ^ 16) (hb : u.bound.leashes = []) :
    let w := (u.leashWaits c v).applyLeashes
    w = { u with regs := w.regs, lat := w.lat, credits := w.credits, counters := w.counters, host := w.host } ∧
    (∀ key, tget (fun _ => (0, 0)) w.credits key = if key % 16 = c then (0, 0) else tget (fun _ => (0, 0)) u.credits key) ∧
    (∀ key, (key % 16 ≠ c → tget (fun _ => 0) w.lat key = tget (fun _ => 0) u.lat key) ∧
      (key % 16 = c → key < 8192 → u.rd (F.keepLatTgtSliceNs c) ≠ v.getD 5 0 → tget (fun _ => 0) w.lat key = 0)) ∧
    (∀ k cls, k < 16 → cls < 5 → w.leash k cls = if k = c then v.getD cls 0 else u.leash k cls) ∧
    w.rd (F.keepLatTgtSliceNs c) = v.getD 5 0 ∧ w.rd (F.keepLatTgtHbmNs c) = v.getD 6 0 := by
  intro w
  set x := u.leashWaits c v with hx
  set t := (x.leashEntry c v).latFollow x c with ht
  set y := t.leashesDone.fullCredits fun k => decide (k % 16 = c) with hy
  have hw : w = (List.range 5).foldl (fun s k => (s.leashScaled k).rescale k) y := u.applyLeashes_one v hc
  obtain ⟨hframe, hfld⟩ : leashesKept y w := hw ▸ leashesKept_foldl _ _ y fun s k _ => (leashesKept_leashScaled s k).trans (leashesKept_rescale _ k)
  obtain ⟨htframe, htfld⟩ := State.latFollow_kept (x.leashEntry c v) x c
  rw [← ht] at htframe htfld
  have htlat : t.lat = u.lat.filter fun p => !(x.leashEntry c v).latNew x c p.1 := State.lat_latFollow (x.leashEntry c v) x c
  have hteq : t = { u.leashWaits c v with regs := t.regs, lat := t.lat } := htframe.trans (by rw [x.leashEntry_regs c v])
  have hyu : y = { u with regs := t.regs, lat := t.lat, credits := u.credits.filter fun p => !decide (p.1 % 16 = c) } := by
    rw [hy, hteq]
    exact State.leashesDone_fullCredits u c v _ _ _ hb
  have hyt : ∀ f, y.rd f = t.rd f := State.rd_of_regs (by rw [hyu, hteq]; rfl) (by rw [hyu])
  clear_value y w t
  have hrd : ∀ f, leashField f → w.rd f = (x.leashEntry c v).rd f := by
    intro f hf
    rw [hfld f hf, hyt f, htfld f hf]
  obtain ⟨hslice, hhbm⟩ := x.rd_leashEntry_targets c v
  rw [Nat.mod_eq_of_lt h5] at hslice
  rw [Nat.mod_eq_of_lt h6] at hhbm
  have hlat : w.lat = u.lat.filter fun p => !(x.leashEntry c v).latNew x c p.1 := by rw [hframe, hyu, htlat]
  have hcred : w.credits = u.credits.filter fun p => !decide (p.1 % 16 = c) := by rw [hframe, hyu]
  refine ⟨?_, fun key => ?_, fun key => ?_, fun k cls hk hcls => ?_, ?_, ?_⟩
  · rw [hframe, hyu]
  · rw [hcred, tget_filter_key _ fun k => !decide (k % 16 = c)]
    by_cases hk : key % 16 = c <;> simp [hk]
  · rw [hlat, tget_filter_key _ fun k => !(x.leashEntry c v).latNew x c k]
    refine ⟨fun hk => ?_, fun hk hlt hne => ?_⟩
    · simp [State.latNew, hk]
    · have hne' : ¬ v.getD 5 0 = x.rd (F.keepLatTgtSliceNs c) := fun h => hne h.symm
      simp only [State.latNew, hk, hlt, hslice, hne', if_true, ne_eq, not_false_eq_true, decide_true, Bool.and_self, Bool.not_true, Bool.false_eq_true, if_false]
  · unfold State.leash
    rw [hrd _ (leashField_mbps hk hcls), State.rd_leashEntry_mbps _ _ hc hcls, Nat.mod_eq_of_lt (hv cls hcls)]
    rfl
  · rw [hrd _ (leashField_slice hc), hslice]
  · rw [hrd _ (leashField_hbm hc), hhbm]

end Sys2Proof.Machine
end

section
/-! LEASH_SET (R362, R367, R470). -/

namespace Sys2Proof.Machine

/-- The values of a LEASH_SET (R470): five reservations and two latency targets. -/
def leashValues (e : Entry) : List Nat :=
  [bf (parm e 2) 0 21, bf (parm e 2) 21 21, bf (parm e 2) 42 21, bf (parm e 3) 0 21, bf (parm e 3) 21 21, bf (parm e 4) 0 16, bf (parm e 4) 16 16]

theorem leashValues_lt (e : Entry) : (∀ cls, cls < 5 → (leashValues e).getD cls 0 < 2 ^ 21) ∧ (leashValues e).getD 5 0 < 2 ^ 16 ∧
    (leashValues e).getD 6 0 < 2 ^ 16 := by
  refine ⟨fun cls hcls => ?_, bf_lt _ _ _, bf_lt _ _ _⟩
  match cls, hcls with
  | 0, _ => exact bf_lt _ _ _
  | 1, _ => exact bf_lt _ _ _
  | 2, _ => exact bf_lt _ _ _
  | 3, _ => exact bf_lt _ _ _
  | 4, _ => exact bf_lt _ _ _

/-- The sums of a leash table fit 90 % of the nominal capacities (R362). -/
def State.leashFits (s : State) (c : Nat) (v : List Nat) : Prop :=
  ∀ cls, cls < 5 → 10 * (((List.range 16).map fun k => if k = c then v.getD cls 0 else s.leashSet k cls).sum) ≤ 9 * s.nominal cls

theorem State.leashFits_iff (s : State) (c : Nat) (v : List Nat) :
    s.leashFits c v ↔ ¬ ((List.range 5).any fun cls => decide (s.nominal cls * 9 / 10 <
      ((List.range 16).map fun k => if k = c then v.getD cls 0 else s.leashSet k cls).sum)) = true := by
  simp only [State.leashFits, List.any_eq_true, List.mem_range, decide_eq_true_eq, not_exists, not_and]
  refine forall_congr' fun cls => imp_congr_right fun _ => ?_
  omega

/-- LEASH_SET (R362, R365, R367). -/
theorem leashSet_outcome {s u : State} {e : Entry}
    (h : s.cmdTurn e .admin .plain [(1, [(0, 4)]), (2, [(0, 63)]), (3, [(0, 42)]), (4, [(0, 32)])] = some u) :
    let c := parm e 1 % 16
    let v := leashValues e
    (¬ u.leashFits c v → leads (exec (.leashSet e) s) fun z => posted u z e sOVERCOMMIT 0) ∧
    (c < 2 → (∃ x ∈ v, x ≠ 0) → leads (exec (.leashSet e) s) fun z => posted u z e sOVERCOMMIT 0) ∧
    (u.leashFits c v → (2 ≤ c ∨ ∀ x ∈ v, x = 0) →
      (u.rd F.keepPassStatState = psRUNNING → leads (exec (.leashSet e) s) fun z =>
        posted { u with bound := { u.bound with leashes := u.bound.leashes ++ [(c, v)] } } z e sOK 0) ∧
      (u.rd F.keepPassStatState ≠ psRUNNING → u.bound.leashes = [] → leads (exec (.leashSet e) s) fun z => ∃ w, posted w z e sOK 0 ∧
        w = { u with regs := w.regs, lat := w.lat, credits := w.credits, counters := w.counters, host := w.host } ∧
        (∀ key, tget (fun _ => (0, 0)) w.credits key = if key % 16 = c then (0, 0) else tget (fun _ => (0, 0)) u.credits key) ∧
        (∀ key, (key % 16 ≠ c → tget (fun _ => 0) w.lat key = tget (fun _ => 0) u.lat key) ∧ (key % 16 = c → key < 8192 → u.rd (F.keepLatTgtSliceNs c) ≠ v.getD 5 0 → tget (fun _ => 0) w.lat key = 0)) ∧
        (∀ k cls, k < 16 → cls < 5 → w.leash k cls = if k = c then v.getD cls 0 else u.leash k cls) ∧
        w.rd (F.keepLatTgtSliceNs c) = v.getD 5 0 ∧ w.rd (F.keepLatTgtHbmNs c) = v.getD 6 0)) := by
  intro c v
  have hc : bf (parm e 1) 0 4 = c := bf_zero _ _
  have hany : (v.any fun x => decide (x ≠ 0)) = true ↔ ∃ x ∈ v, x ≠ 0 := by
    simp only [List.any_eq_true, decide_eq_true_eq]
  have hgo : u.leashFits c v → (2 ≤ c ∨ ∀ x ∈ v, x = 0) →
      ¬ ((c < 2 ∧ (v.any fun x => decide (x ≠ 0)) = true) ∨ ((List.range 5).any fun cls => decide (u.nominal cls * 9 / 10 <
        ((List.range 16).map fun k => if k = c then v.getD cls 0 else u.leashSet k cls).sum)) = true) := by
    rintro hfit hlow (⟨hlt, hex⟩ | hover)
    · obtain ⟨x, hx, hne⟩ := hany.1 hex
      exact hlow.elim (fun h2 => by omega) fun h0 => hne (h0 x hx)
    · exact (u.leashFits_iff c v).1 hfit hover
  refine ⟨fun hfit => cmd_posts h ?_, fun hlow hex => cmd_posts h ?_, fun hfit hlow => ⟨fun hrun => cmd_posts h ?_, fun hrun hb => ?_⟩⟩
  · dsimp only
    rw [hc]
    exact if_pos (.inr (not_not.1 fun hn => hfit ((u.leashFits_iff c v).2 hn)))
  · dsimp only
    rw [hc]
    exact if_pos (.inl ⟨hlow, hany.2 hex⟩)
  · dsimp only
    rw [hc]
    refine (if_neg (hgo hfit hlow)).trans ?_
    exact congrArg (State.complete · e sOK 0) (if_pos hrun)
  · have hwaits : ({ u with bound := { u.bound with leashes := u.bound.leashes ++ [(c, v)] } } : State) = u.leashWaits c v := by rw [hb]; rfl
    have hexec : exec (.leashSet e) s = .next (((u.leashWaits c v).applyLeashes).complete e sOK 0) := by
      refine congrArg Host.Outcome.next ((State.cmd_of_cmdTurn h _).trans ?_)
      dsimp only
      rw [hc]
      refine (if_neg (hgo hfit hlow)).trans (congrArg (State.complete · e sOK 0) ((if_neg hrun).trans ?_))
      exact congrArg State.applyLeashes hwaits
    obtain ⟨hv, h5, h6⟩ := leashValues_lt e
    rw [hexec]
    exact leads_next ⟨_, State.complete_posted _ _ _ (State.sq_lt_of_cmdTurn h),
      u.applyLeashes_facts v (Nat.mod_lt _ (by decide)) hv h5 h6 hb⟩

end Sys2Proof.Machine
end

section
/-! A kennel window's registers after KENNEL_SET (R29, R263). -/

namespace Sys2Proof.Machine

/-- A window's two registers as the Keeper writes them, before its pinning is known. -/
def State.kennelRegs (s : State) (k : Nat) (range ctrl : W64) : State :=
  ((s.setReg (R.kenlRange k) (range &&& 0x003FFFFFFFFFFFFF)).setReg (R.kenlCtrl k) (ctrl &&& 0xFF)).wr (F.kenlCtrlPersEff k) 1

theorem State.kennelWrite_eq (s : State) (k : Nat) (range ctrl : W64) :
    s.kennelWrite k range ctrl = (((s.kennelRegs k range ctrl).pinCap k).1.retag.trimSets, ((s.kennelRegs k range ctrl).pinCap k).2) := rfl

/-- The persistence in effect is all that the pin cap writes. -/
theorem State.pinCap_frame (s : State) (k : Nat) :
    (s.pinCap k).1 = { s with regs := (s.pinCap k).1.regs, counters := (s.pinCap k).1.counters } ∧
      (∀ a, a ≠ R.kenlCtrl k → (s.pinCap k).1.reg a = s.reg a) ∧
      ∀ f : Fld, f.lo + f.w ≤ 8 → (s.pinCap k).1.rd f = s.rd f := by
  have hreg : ∀ (t : State) v a, a ≠ R.kenlCtrl k → (t.wr (F.kenlCtrlPersEff k) v).reg a = t.reg a := fun t v a ha => State.reg_wr_ne t _ _ ha
  have hrd : ∀ (t : State) v (f : Fld), f.lo + f.w ≤ 8 → (t.wr (F.kenlCtrlPersEff k) v).rd f = t.rd f := fun t v f hf =>
    State.rd_wr_apart t _ f v (by omega) (.inr hf)
  unfold State.pinCap
  dsimp only
  split
  · exact ⟨rfl, hreg _ _, hrd _ _⟩
  · split
    · exact ⟨rfl, fun a ha => (hreg (s.wr _ 3) 2 a ha).trans (hreg s 3 a ha), fun f hf => (hrd (s.wr _ 3) 2 f hf).trans (hrd s 3 f hf)⟩
    · exact ⟨rfl, hreg _ _, hrd _ _⟩

/-- The persistence in effect of an enabled window: as configured, or Sticky where pinning would pass the cap (R263). -/
theorem State.pinCap_persEff (s : State) (k : Nat) (hon : s.on (F.kenlCtrlEnable k) = true) :
    (s.rd (F.kenlCtrlPers k) ≠ 3 → (s.pinCap k).1.rd (F.kenlCtrlPersEff k) = s.rd (F.kenlCtrlPers k) ∧ (s.pinCap k).2 = true) ∧
    (s.rd (F.kenlCtrlPers k) = 3 → ((s.pinCap k).2 = false ↔ (s.pinCap k).1.rd (F.kenlCtrlPersEff k) = 2)) := by
  have hsame : ∀ (t : State) v, (t.wr (F.kenlCtrlPersEff k) v).rd (F.kenlCtrlPersEff k) = v % 4 := fun t v =>
    State.rd_wr_same t _ v (by simp [F.kenlCtrlPersEff])
  refine ⟨fun hp => ?_, fun hp => ?_⟩
  · have hlt : s.rd (F.kenlCtrlPers k) < 4 := bf_lt _ _ _
    simp only [State.pinCap, hon, hp, Bool.not_true, Bool.false_eq_true, ne_eq, not_false_eq_true, or_true, if_true, hsame]
    exact ⟨Nat.mod_eq_of_lt hlt, trivial⟩
  · simp only [State.pinCap, hon, hp, Bool.not_true, Bool.false_eq_true, ne_eq, not_true_eq_false, or_self, if_false]
    split
    · exact iff_of_true rfl (hsame (s.wr _ 3) 2)
    · refine iff_of_false (by simp) ?_
      rw [hsame]
      decide

/-- The window's fields as KENNEL_SET gives them (R470). -/
theorem State.rd_kennelRegs (s : State) (k : Nat) (range : W64) (w2 : Nat) {f : Fld} (ha : f.addr = R.kenlCtrl k) (hf : f.lo + f.w ≤ 8) :
    (s.kennelRegs k range (kennelCtrl w2)).rd f = bf (1 + bf w2 0 2 * 2 + bf w2 2 1 * 8 + bf w2 3 4 * 16) f.lo f.w := by
  unfold State.kennelRegs
  have hlt : 1 + bf w2 0 2 * 2 + bf w2 2 1 * 8 + bf w2 3 4 * 16 < 2 ^ 8 := by
    have h0 := bf_lt w2 0 2
    have h2 := bf_lt w2 2 1
    have h3 := bf_lt w2 3 4
    omega
  rw [State.rd_wr_apart _ _ _ _ (by omega) (.inr hf), State.rd, ha, State.reg_setReg_same, BitVec.toNat_and, kennelCtrl, BitVec.toNat_ofNat,
    show BitVec.toNat (0xFF : W64) = 2 ^ 8 - 1 from rfl, Nat.and_two_pow_sub_one_eq_mod, Nat.mod_mod_of_dvd _ (by decide), Nat.mod_eq_of_lt hlt]

/-- A window enabled by KENNEL_SET: its fields, its persistence in effect, and nothing but its two registers (R29, R263, R470). -/
theorem State.kennelRegs_pinCap (s : State) (k : Nat) (w2 : Nat) :
    let r := (s.kennelRegs k (s.reg (R.kenlRange k)) (kennelCtrl w2)).pinCap k
    r.1.on (F.kenlCtrlEnable k) = true ∧ r.1.rd (F.kenlCtrlPers k) = w2 % 4 ∧ r.1.on (F.kenlCtrlDroppable k) = w2.testBit 2 ∧
      r.1.rd (F.kenlCtrlQuota k) = w2 / 8 % 16 ∧ (w2 % 4 ≠ 3 → r.1.rd (F.kenlCtrlPersEff k) = w2 % 4) ∧
      (r.2 = false ↔ w2 % 4 = 3 ∧ r.1.rd (F.kenlCtrlPersEff k) = 2) ∧
      onlyRegs { s with counters := r.1.counters } r.1 [R.kenlRange k, R.kenlCtrl k] := by
  intro r
  set y := s.kennelRegs k (s.reg (R.kenlRange k)) (kennelCtrl w2) with hy
  obtain ⟨hframe, hreg, hrd⟩ := y.pinCap_frame k
  have hfld : ∀ f : Fld, f.addr = R.kenlCtrl k → f.lo + f.w ≤ 8 → y.rd f = bf (1 + bf w2 0 2 * 2 + bf w2 2 1 * 8 + bf w2 3 4 * 16) f.lo f.w :=
    fun f ha hf => s.rd_kennelRegs k _ w2 ha hf
  have hen : y.rd (F.kenlCtrlEnable k) = 1 := (hfld _ rfl (by simp [F.kenlCtrlEnable])).trans (by simp only [F.kenlCtrlEnable, bf]; omega)
  have hpers : y.rd (F.kenlCtrlPers k) = w2 % 4 := (hfld _ rfl (by simp [F.kenlCtrlPers])).trans (by simp only [F.kenlCtrlPers, bf]; omega)
  have hdrop : y.rd (F.kenlCtrlDroppable k) = w2 / 4 % 2 := (hfld _ rfl (by simp [F.kenlCtrlDroppable])).trans (by
    simp only [F.kenlCtrlDroppable, bf]; omega)
  have hquota : y.rd (F.kenlCtrlQuota k) = w2 / 8 % 16 := (hfld _ rfl (by simp [F.kenlCtrlQuota])).trans (by simp only [F.kenlCtrlQuota, bf]; omega)
  obtain ⟨hlow, hpin⟩ := y.pinCap_persEff k (decide_eq_true hen)
  rw [hpers] at hlow hpin
  refine ⟨?_, ?_, ?_, ?_, fun hp => (hlow hp).1, ?_, ?_, fun a ha => ?_⟩
  · rw [State.on, hrd _ (by simp [F.kenlCtrlEnable]), hen]; rfl
  · rw [hrd _ (by simp [F.kenlCtrlPers]), hpers]
  · rw [State.on, hrd _ (by simp [F.kenlCtrlDroppable]), hdrop, ← bit_eq_testBit]; rfl
  · rw [hrd _ (by simp [F.kenlCtrlQuota]), hquota]
  · by_cases hp : w2 % 4 = 3
    · simpa [hp] using hpin hp
    · have htrue : r.2 = true := (hlow hp).2
      simp [hp, htrue]
  · exact hframe
  · simp only [List.mem_cons, List.not_mem_nil, or_false, not_or] at ha
    obtain ⟨hrange, hctrl⟩ := ha
    rw [hreg a hctrl, hy, State.kennelRegs, State.reg_wr_ne _ _ _ hctrl, State.reg_setReg_ne _ _ hctrl, State.reg_setReg_ne _ _ hrange]
    rfl

/-- With no slice in use no cached line follows its window. -/
theorem State.retag_trimSets_of_noSlices {s : State} (h : s.slices = []) : s.retag.trimSets = s := by
  have hr : s.retag = s := by simp [State.retag, h]
  rw [hr]
  simp [State.trimSets, h]

/-- A KENNEL_SET for a tensor placed in a window of the table. -/
theorem State.applyKennel_of_placed {s : State} (e : Entry) {j : Job} {x : TensorSt} {pl : TensorPlan} (hj : s.job = some j)
    (hx : j.tensors[parm e 1 % 2 ^ 16]? = some x) (hpl : x.place = some pl) (hk : pl.kennel < 64) :
    ∃ f, s.applyKennel e =
      ((s.kennelWrite pl.kennel (s.reg (R.kenlRange pl.kennel)) (kennelCtrl (parm e 2))).1.modJob f).complete e
        (if (s.kennelWrite pl.kennel (s.reg (R.kenlRange pl.kennel)) (kennelCtrl (parm e 2))).2 then sOK else sPIN_CAP)
        ((s.kennelWrite pl.kennel (s.reg (R.kenlRange pl.kennel)) (kennelCtrl (parm e 2))).1.rd (F.kenlCtrlPersEff pl.kennel)) := by
  have hget : (s.job.bind fun j => j.tensors[bf e.w1.toNat 0 16]?) = some x := by rw [hj, bf_zero]; exact hx
  refine ⟨fun j => { j with tensors := j.tensors.set (bf e.w1.toNat 0 16) { x with persEff :=
    (s.kennelWrite pl.kennel (s.reg (R.kenlRange pl.kennel)) (kennelCtrl e.w2.toNat)).1.rd (F.kenlCtrlPersEff pl.kennel) } }, ?_⟩
  rw [State.applyKennel, hget, hj]
  dsimp only
  rw [hpl]
  dsimp only
  rw [if_neg (Nat.not_le.2 hk)]
  rfl

/-- The Keeper's window after the cached lines have followed it. -/
theorem State.rd_kenl_retag_trimSets (s : State) {k : Nat} (hk : k < 64) : s.retag.trimSets.rd (F.kenlCtrlPersEff k) = s.rd (F.kenlCtrlPersEff k) := by
  have h := ((tablesKept_retag s).trans (tablesKept_trimSets _)).2 (R.kenlCtrl k) (by simp only [tableReg, R.kenlCtrl]; omega)
  simp only [State.rd, F.kenlCtrlPersEff, h]

/-- KENNEL_SET (R29, R263, R470). -/
theorem kennelSet_outcome {s u : State} {e : Entry} {j : Job} (h : s.cmdTurn e .job .jobCmd [(1, [(0, 16)]), (2, [(0, 7)])] = some u)
    (hj : u.job = some j) :
    (j.sealed = false → leads (exec (.kennelSet e) s) fun z => posted u z e sNOT_PLACED 0) ∧
    ∀ x pl, j.sealed = true → j.tensors[parm e 1 % 2 ^ 16]? = some x → x.cls ≠ 4 → x.place = some pl → pl.kennel < 64 →
      (u.pass ≠ none → leads (exec (.kennelSet e) s) fun z => waits u z e .kennel) ∧
      (u.pass = none → leads (exec (.kennelSet e) s) fun z => ∃ y v, posted v z e (if parm e 2 % 4 = 3 ∧ y.rd (F.kenlCtrlPersEff pl.kennel) = 2 then sPIN_CAP else sOK)
          (y.rd (F.kenlCtrlPersEff pl.kennel)) ∧ y.on (F.kenlCtrlEnable pl.kennel) = true ∧ y.rd (F.kenlCtrlPers pl.kennel) = parm e 2 % 4 ∧
        y.on (F.kenlCtrlDroppable pl.kennel) = (parm e 2).testBit 2 ∧ y.rd (F.kenlCtrlQuota pl.kennel) = parm e 2 / 8 % 16 ∧
        (parm e 2 % 4 ≠ 3 → y.rd (F.kenlCtrlPersEff pl.kennel) = parm e 2 % 4) ∧
        onlyRegs { u with counters := y.counters } y [R.kenlRange pl.kennel, R.kenlCtrl pl.kennel] ∧ v = { y.retag.trimSets with job := v.job } ∧
        (u.slices = [] → v = { y with job := v.job })) := by
  refine ⟨fun hs => cmd_posts h ?_, fun x pl hs hx hcls hpl hk => ?_⟩
  · simp [hj, hs]
  · have hexec : exec (.kennelSet e) s = .next (if u.pass.isSome then u.await e .kennel else u.applyKennel e) := by
      refine congrArg Host.Outcome.next ((State.cmd_of_cmdTurn h _).trans ?_)
      have hget : (u.job.bind fun j => j.tensors[bf (parm e 1) 0 16]?) = some x := by rw [hj, bf_zero]; exact hx
      rw [hget]
      simp only [hj, Option.any_some, hs, Bool.not_true, Bool.false_eq_true, if_false, hcls]
    refine ⟨fun hp => ?_, fun hp => ?_⟩
    · rw [hexec, if_pos (Option.isSome_iff_ne_none.2 hp)]
      exact leads_next rfl
    · rw [hexec, if_neg (by simp [hp])]
      set k := pl.kennel
      set r := (u.kennelRegs k (u.reg (R.kenlRange k)) (kennelCtrl (parm e 2))).pinCap k with hr
      obtain ⟨hen, hpers, hdrop, hquota, heff, hpin, honly⟩ := u.kennelRegs_pinCap k (parm e 2)
      rw [← hr] at hen hpers hdrop hquota heff hpin honly
      obtain ⟨f, happly⟩ := State.applyKennel_of_placed e hj hx hpl hk
      have hstatus : (if parm e 2 % 4 = 3 ∧ r.1.rd (F.kenlCtrlPersEff k) = 2 then sPIN_CAP else sOK) = if r.2 then sOK else sPIN_CAP := by
        cases hr2 : r.2
        · rw [if_pos (hpin.1 hr2)]; rfl
        · rw [if_neg fun hh => by simp [hpin.2 hh] at hr2]; rfl
      have hpost := (r.1.retag.trimSets.modJob f).complete_posted (if r.2 then sOK else sPIN_CAP) (r.1.rd (F.kenlCtrlPersEff k)) (State.sq_lt_of_cmdTurn h)
      refine leads_next ⟨r.1, r.1.retag.trimSets.modJob f, ?_, hen, hpers, hdrop, hquota, heff, honly, rfl, fun hslices => ?_⟩
      · rw [hstatus]
        rw [happly, State.kennelWrite_eq]
        dsimp only
        rw [← hr, State.rd_kenl_retag_trimSets _ hk]
        exact hpost
      · rw [State.retag_trimSets_of_noSlices (by rw [honly.1]; exact hslices)]
        rfl

end Sys2Proof.Machine
end

section
open Sys2Proof Sys2Proof.Machine

/-- Settles O46, command by command. -/
theorem areasAndSettings : Obligations.AreasAndSettings := by
  unfold Obligations.AreasAndSettings
  refine ⟨fun s u e h => exchDeclare_outcome h, fun s u e h => exchDir_outcome h, fun s u e h => ?_, fun s u e h => leashSet_outcome h,
    fun s u e j h hj => kennelSet_outcome h hj⟩
  obtain ⟨hinvalid, hbusy, hok⟩ := keepDeclare_outcome h
  obtain ⟨hrelease, hnone⟩ := keepRelease_outcome h
  exact ⟨hinvalid, hbusy, hok, hrelease, hnone⟩

end

section
/-! Commands that declare a job and read its placement (R19, R27, R471, R473). -/

namespace Sys2Proof.Machine

/-! ## Declarations of a job -/

/-- TENSOR_DECL (R27, R470): a field out of range, a sealed job, or one more tensor. -/
theorem tensorDecl_outcome {s u : State} {e : Entry} {j : Job}
    (h : s.cmdTurn e .job ⟨false, true, true, false⟩ [(1, [(0, 64)]), (2, [(0, 7)])] = some u) (hj : u.job = some j) :
    let cls := parm e 2 % 8
    let pers := parm e 2 / 8 % 8
    (parm e 1 % 0x200000 ≠ 0 ∨ 4 < cls ∨ 4 < pers → leads (exec (.tensorDecl e) s) fun z => posted u z e sINVALID_FIELD 0) ∧
    (parm e 1 % 0x200000 = 0 → cls ≤ 4 → pers ≤ 4 → j.tensors.length < 65536 →
      (j.sealed = true → leads (exec (.tensorDecl e) s) fun z => posted u z e sJOB_SEALED 0) ∧
      (j.sealed = false → leads (exec (.tensorDecl e) s) fun z => posted
        { u with job := some { j with tensors := j.tensors ++ [⟨parm e 1, cls, pers, (parm e 2).testBit 6, none, 0, false⟩] } } z e sOK
          j.tensors.length)) := by
  intro cls pers
  have hcls : bf (parm e 2) 0 3 = cls := bf_zero _ _
  have hpers : bf (parm e 2) 3 3 = pers := rfl
  refine ⟨fun hbad => cmd_posts h ?_, fun hb hc hp hn => ?_⟩
  · simp only [hj, hcls, hpers]
    rw [if_pos (by tauto)]
  have hok : ¬(parm e 1 % 0x200000 ≠ 0 ∨ 4 < cls ∨ 4 < pers ∨ 65536 ≤ j.tensors.length) := by omega
  refine ⟨fun hs => cmd_posts h ?_, fun hs => cmd_posts h ?_⟩
  · simp only [hj, hcls, hpers, hs, if_neg hok, if_true]
  · simp only [hj, hcls, hpers, if_neg hok, if_neg (Bool.not_eq_true _ ▸ hs), bit_eq_testBit, State.modJob, Option.map_some]

/-! ## STAGE_LOAD -/

/-- The limits of R19 that a stage image keeps when it is read. -/
theorem parseStage_limits {e : Entry} {bs : List Byte} {g : StageSt} (h : parseStage e bs = some g) :
    1 ≤ g.tiles ∧ g.tiles ≤ 25600 ∧ (g.h = 0 ∧ g.w = 0 ∨ 1 ≤ g.h ∧ g.h ≤ 160 ∧ 1 ≤ g.w ∧ g.w ≤ 160 ∧ g.h * g.w = g.tiles) ∧ g.down ≤ 102400 ∧
      g.up ≤ 102400 ∧ g.refs.length ≤ 256 ∧ g.streams.length ≤ 16 ∧ g.entry % 16 = 0 ∧ g.region = none ∧ g.parts.length ≤ 8 ∧
      g.energy = leNat ((bs.drop 20).take 4) := by
  simp only [parseStage] at h
  split at h
  · cases h
  · rename_i hok
    cases h
    simp only [partsOk, Bool.not_eq_true', Bool.not_eq_false, Bool.and_eq_true, Bool.or_eq_true, decide_eq_true_eq] at hok
    simp only [List.length_map, List.length_range]
    tauto

/-- What STAGE_LOAD leaves of a tile (R163, R211). -/
def TileSt.stageCleared (x : TileSt) : TileSt := { x with near := [], scent := [] }

/-- At STAGE_LOAD nothing but the tiles changes. -/
theorem State.stageClears_eq (s : State) : s.stageClears = { s with tiles := s.stageClears.tiles } :=
  foldl_keep _ (fun w : State => w = { s with tiles := w.tiles }) _ s rfl fun w t hw => by
    simp only [State.modTile, State.setTile]; rw [hw]

/-- Tiles of a list change by a function that does nothing more the second time; the others stay. -/
theorem State.tile_foldl_modTile (f : TileSt → TileSt) (hf : ∀ x, f (f x) = f x) (ts : List Nat) (s : State) (t : Nat) :
    (ts.foldl (fun s t => s.modTile t f) s).tile t = if t ∈ ts then f (s.tile t) else s.tile t := by
  induction ts generalizing s with
  | nil => simp
  | cons k ts ih =>
    rw [List.foldl_cons, ih, State.tile_modTile]
    by_cases hk : t = k
    · subst hk; simp [hf]
    · simp [hk]

/-- A key that a table does not list reads the default. -/
theorem tget_of_not_mem {α : Type} (d : Nat → α) (m : List (Nat × α)) (k : Nat) (h : k ∉ m.map (·.1)) : tget d m k = d k := by
  induction m with
  | nil => rfl
  | cons p m ih =>
    simp only [List.map_cons, List.mem_cons, not_or] at h
    rw [tget_cons, if_neg h.1, ih h.2]

theorem State.tile_stageClears (s : State) (t : Nat) : s.stageClears.tile t = (s.tile t).stageCleared := by
  have h := State.tile_foldl_modTile TileSt.stageCleared (fun _ => rfl) (s.tiles.map (·.1)) s t
  refine h.trans ?_
  split
  · rfl
  · rename_i h
    rw [State.tile, tget_of_not_mem _ _ _ h]; rfl

theorem State.meas_measure (s : State) (i : Nat) (parts : List (List Byte)) (regs : Table W64) :
    (s.measure i parts regs).meas i = ⟨parts, regs, (s.meas i).count + 1, s.now⟩ := tget_tset_same _ _ _ _

theorem State.hostRead_some {e : Entry} {bs : List Byte} (hr : e.inp.read = some bs) {n : Nat} (hn : n ≤ bs.length) (s : State) (a : Nat)
    (f : List Byte → State) : s.hostRead e a n f = f bs := by
  simp only [State.hostRead, hr, if_pos hn]

/-- STAGE_LOAD of an image that is there (R19, R20, R144, R471). -/
theorem stageLoad_outcome {s u : State} {e : Entry} {j : Job} {bs : List Byte}
    (h : s.cmdTurn e .job ⟨false, true, true, false⟩ [(1, [(3, 61)]), (2, [(0, 32)]), (3, [(0, 5), (8, 9), (17, 3)]), (4, [(0, 32)])] = some u)
    (hj : u.job = some j) (hr : e.inp.read = some bs) (hn : parm e 2 % 2 ^ 32 ≤ bs.length) :
    (j.sealed = true → leads (exec (.stageLoad e) s) fun z => posted u z e sJOB_SEALED 0) ∧
    (j.sealed = false → parseStage e bs = none → leads (exec (.stageLoad e) s) fun z => posted u z e sSTAGE_INVALID 0) ∧
    (∀ g, parseStage e bs = some g → j.sealed = false → j.stages.length < 256 →
      leads (exec (.stageLoad e) s) fun z => ∃ v, posted v z e sOK j.stages.length ∧
        v = { u with job := some { j with stages := j.stages ++ [g] }, tiles := v.tiles, fw := v.fw } ∧
        (∀ t, v.tile t = { u.tile t with near := [], scent := [] }) ∧
        (v.meas 6).parts = (u.meas 6).parts ++ [bs.take (parm e 2 % 2 ^ 32)] ∧ (v.meas 6).count = (u.meas 6).count + 1) := by
  have hlen : bf (parm e 2) 0 32 = parm e 2 % 2 ^ 32 := bf_zero _ _
  refine ⟨fun hs => cmd_posts h ?_, fun hs hp => cmd_posts h ?_, fun g hg hs hc => ?_⟩
  · simp only [hj, hs, if_true]
  · simp only [hj, hs, Bool.false_eq_true, if_false, hlen, State.hostRead_some hr hn, hp]
  · show leads (.next (State.cmd _ _ _ _ _ _)) _
    rw [State.cmd_of_cmdTurn h]
    simp only [hj, if_neg (Bool.not_eq_true _ ▸ hs), hlen, State.hostRead_some hr hn, hg, if_neg (Nat.not_le.2 hc)]
    refine leads_next ⟨_, State.complete_posted _ _ _ (State.sq_lt_of_cmdTurn h), ?_, fun t => ?_, ?_, ?_⟩
    · rw [State.stageClears_eq]; simp only [State.modJob, State.measure, hj, Option.map_some]
    · exact State.tile_stageClears u t
    · rw [State.meas_measure]
    · rw [State.meas_measure, State.stageClears_eq]; rfl

/-! ## PLACE_QUERY -/

theorem length_flatMap_const {α β : Type} (n : Nat) (f : α → List β) (xs : List α) (hf : ∀ x, (f x).length = n) :
    (xs.flatMap f).length = n * xs.length := by
  rw [List.length_flatMap, List.map_congr_left (fun x _ => hf x)]
  simp [Nat.mul_comm]

/-- The length of the placement reply (R473). -/
theorem State.placeReply_length (s : State) (j : Job) :
    (s.placeReply j).length = 32 + 16 * j.stages.length + 32 * j.tensors.length + j.met.length := by
  simp only [State.placeReply, List.length_append, List.length_map, leBytes_length, List.length_replicate]
  rw [length_flatMap_const 16 _ _ (fun g => by split <;> simp), length_flatMap_const 32 _ _ (fun x => by split <;> simp)]

/-- PLACE_QUERY (R473). -/
theorem placeQuery_outcome {s u : State} {e : Entry} {j : Job}
    (h : s.cmdTurn e .job ⟨false, false, false, true⟩ [(1, [(3, 61)]), (2, [(0, 32)])] = some u) (hj : u.job = some j) :
    (j.sealed = false → leads (exec (.placeQuery e) s) fun z => posted u z e sNOT_PLACED 0) ∧
    (j.sealed = true → parm e 2 % 2 ^ 32 < (u.placeReply j).length →
      leads (exec (.placeQuery e) s) fun z => posted u z e sINVALID_FIELD (u.placeReply j).length) ∧
    (j.sealed = true → (u.placeReply j).length ≤ parm e 2 % 2 ^ 32 → e.inp.wrOk = true →
      leads (exec (.placeQuery e) s) fun z => posted (u.hostWrite (parm e 1) (u.placeReply j)) z e sOK (u.placeReply j).length) := by
  have hlen : bf (parm e 2) 0 32 = parm e 2 % 2 ^ 32 := bf_zero _ _
  refine ⟨fun hs => cmd_posts h ?_, fun hs hn => cmd_posts h ?_, fun hs hn hw => cmd_posts h ?_⟩
  · simp only [hj, hs, Bool.not_false, if_true]
  · simp only [hj, hs, Bool.not_true, Bool.false_eq_true, if_false, hlen, if_pos hn]
  · simp only [hj, hs, Bool.not_true, Bool.false_eq_true, if_false, hlen, if_neg (Nat.not_lt.2 hn), State.reply, hw, if_true]

end Sys2Proof.Machine
end

section
/-! The placement that PLACE takes (R25 to R34). -/

namespace Sys2Proof.Machine

theorem pairsOk_iff {α : Type} (ok : α → α → Bool) (l : List α) : pairsOk ok l = true ↔ l.Pairwise (fun a b => ok a b = true) := by
  induction l with
  | nil => simp [pairsOk]
  | cons a l ih => simp [pairsOk, ih]

/-- A choice kept through a list that is not empty is one of its members, and has what they have. -/
theorem foldl_choice_getD {α : Type} {f : Option α → α → Option α} (hnone : ∀ p, f none p = some p)
    (hsome : ∀ q p, f (some q) p = some p ∨ f (some q) p = some q) {P : α → Prop} {l : List α} (hl : l ≠ []) (hP : ∀ q ∈ l, P q) (d : α) :
    P ((l.foldl f none).getD d) := by
  have key : ∀ (l : List α) (a : α), (∀ q ∈ a :: l, P q) → P ((l.foldl f (some a)).getD d) := by
    intro l
    induction l with
    | nil => intro a h; exact h a List.mem_cons_self
    | cons x l ih =>
      intro a h
      rw [List.foldl_cons]
      rcases hsome a x with hx | hx <;> rw [hx]
      · exact ih x fun q hq => h q (List.mem_cons_of_mem _ hq)
      · refine ih a fun q hq => h q ?_
        rcases List.mem_cons.1 hq with rfl | hq
        · exact List.mem_cons_self
        · exact List.mem_cons_of_mem _ (List.mem_cons_of_mem _ hq)
  cases l with
  | nil => exact absurd rfl hl
  | cons a l => rw [List.foldl_cons, hnone]; exact key l a hP

/-- The placement taken meets the hints kept, where some placement does. -/
theorem State.meets_take {s : State} {tight : Bool} {j : Job} {kept : List Hint} (hs : List Hint) (h : s.canPlace tight j kept = true) :
    s.meets tight j kept (s.take tight j hs kept) = true := by
  unfold State.take
  dsimp only
  split
  · assumption
  · rw [State.canPlace, Bool.and_eq_true, List.any_eq_true] at h
    obtain ⟨-, p, hp, hmeets⟩ := h
    refine foldl_choice_getD (P := fun q => s.meets tight j kept q = true) (fun _ => rfl) (fun q p => ?_)
      (List.ne_nil_of_mem (List.mem_filter.2 ⟨hp, hmeets⟩)) (fun q hq => (List.mem_filter.1 hq).2) _
    dsimp only
    split
    · exact .inl rfl
    · exact .inr rfl

theorem State.lawful_of_meets {s : State} {tight : Bool} {j : Job} {hs : List Hint} {p : Plan} (h : s.meets tight j hs p = true) :
    s.lawful j hs p = true := by
  simp only [State.meets, Bool.and_eq_true] at h
  exact h.1.1

/-- Without hints the placement chosen is a lawful one (R25 to R30). -/
theorem State.lawful_of_choose {s : State} {j : Job} {p : Plan} {h : List Hint} {m : List Bool} (hc : s.choose j [] = .inl (p, h, m)) :
    s.lawful j [] p = true := by
  unfold State.choose at hc
  dsimp only at hc
  split at hc
  · rename_i hcan
    have htake : s.take (s.canPlace true j []) j [] [] = p := congrArg Prod.fst (Sum.inl.inj hc)
    have hplace : s.canPlace (s.canPlace true j []) j [] = true := by
      cases ht : s.canPlace true j []
      · simpa [ht] using hcan
      · exact ht
    exact htake ▸ State.lawful_of_meets (State.meets_take [] hplace)
  · cases hc

/-- Where nothing is chosen no placement is lawful, or the tiles are too few (R34). -/
theorem State.unlawful_of_choose {s : State} {j : Job} {xs : List Short} (hc : s.choose j [] = .inr xs) {p : Plan} (hp : p ∈ s.plans j) :
    s.lawful j [] p = false ∨ s.usable < (j.stages.map (·.tiles)).sum := by
  unfold State.choose at hc
  dsimp only at hc
  split at hc
  · cases hc
  · rename_i hcan
    have hloose : ¬ s.canPlace false j [] = true := fun h => hcan (by rw [h, Bool.or_true])
    by_cases hfew : s.usable < (j.stages.map (·.tiles)).sum
    · exact .inr hfew
    · refine .inl (Bool.eq_false_iff.2 fun hl => hloose ?_)
      rw [State.canPlace, Bool.and_eq_true, List.any_eq_true]
      exact ⟨decide_eq_true (Nat.not_lt.1 hfew), p, hp, by simp [State.meets, hl]⟩

/-- The shortfall record has 256 bytes (R34). -/
theorem length_shortBytes (xs : List Short) : (shortBytes xs).length = 256 := by
  unfold shortBytes
  simp only [List.length_append, List.length_replicate]
  rw [length_flatMap_const 16 _ _ (fun e => by simp)]
  have hle : ((sortBy shortLe xs).take 16).length ≤ 16 := List.length_take_le _ _
  omega

/-! ## What a lawful placement keeps -/

/-- The parts of a lawful placement that its effect rests on. -/
theorem State.lawful_facts {s : State} {j : Job} {hs : List Hint} {p : Plan} (h : s.lawful j hs p = true) :
    p.stages.length = j.stages.length ∧ p.tensors.length = j.tensors.length ∧
    (∀ r ∈ p.stages, 1 ≤ r.h ∧ 1 ≤ r.w ∧ rowOf r + r.h ≤ 160 ∧ colOf r + r.w ≤ 160) ∧ p.stages.Pairwise (fun a b => rectOver a b = false) ∧
    (∀ g ∈ p.segs, g.seg < 768) ∧ p.segs.Pairwise (fun a b => a.seg < b.seg) ∧ ∀ m ∈ p.modes, m.slice < 512 := by
  simp only [State.lawful, State.stagesOk, State.segsOk, Bool.and_eq_true, decide_eq_true_eq, pairsOk_iff, Bool.not_eq_true', List.all_eq_true] at h
  obtain ⟨⟨⟨⟨⟨⟨⟨⟨⟨⟨⟨hlen, hfit⟩, hover⟩, -⟩, hten⟩, ⟨⟨⟨hseg, -⟩, hord⟩, -⟩⟩, hmode⟩, -⟩, -⟩, -⟩, -⟩, -⟩ := h
  refine ⟨hlen, hten, fun r hr => ?_, hover, fun g hg => ?_, hord, fun m hm => (hmode m hm).1.1⟩
  · obtain ⟨i, hi, rfl⟩ := List.mem_iff_getElem.1 hr
    have hz : (j.stages[i]'(hlen ▸ hi), p.stages[i]) ∈ j.stages.zip p.stages :=
      List.mem_iff_getElem.2 ⟨i, by rw [List.length_zip]; omega, List.getElem_zip⟩
    have hf := hfit _ hz
    simp only [State.fits, Bool.and_eq_true, decide_eq_true_eq] at hf
    obtain ⟨⟨⟨⟨⟨-, hh⟩, hw⟩, hrow⟩, hcol⟩, -⟩ := hf
    exact ⟨hh, hw, hrow, hcol⟩
  · have hlt : g.seg < s.variant.segments := (hseg g hg).1.1.1.1
    exact lt_of_lt_of_le hlt (Variant.segments_le _)

end Sys2Proof.Machine
end

section
/-! What a placement writes: the hash map, and the places of its tiles (R20, R136, R245). -/

namespace Sys2Proof.Machine

/-- What one member of a list brings about, and none of the list ends, holds after the list. -/
theorem foldl_brings {σ β : Type} {f : σ → β → σ} {P : σ → Prop} {l : List β} {x : β} (hx : x ∈ l) (hf : ∀ s, P (f s x))
    (hkeep : ∀ y ∈ l, ∀ s, P s → P (f s y)) (s : σ) : P (l.foldl f s) := by
  have hall : ∀ (l : List β) (s : σ), (∀ y ∈ l, ∀ s, P s → P (f s y)) → P s → P (l.foldl f s) := by
    intro l
    induction l with
    | nil => intro s _ h; exact h
    | cons y l ih => intro s hk h; exact ih _ (fun z hz => hk z (List.mem_cons_of_mem _ hz)) (hk y List.mem_cons_self s h)
  induction l generalizing s with
  | nil => cases hx
  | cons y l ih =>
    have hk : ∀ z ∈ l, ∀ s, P s → P (f s z) := fun z hz => hkeep z (List.mem_cons_of_mem _ hz)
    rcases List.mem_cons.1 hx with rfl | hx
    · exact hall l _ hk (hf s)
    · exact ih hx hk _

/-- What no member of a list ends holds after the list. -/
theorem foldl_keep_mem {σ β : Type} {f : σ → β → σ} {P : σ → Prop} {l : List β} (hkeep : ∀ y ∈ l, ∀ s, P s → P (f s y)) {s : σ} (h : P s) :
    P (l.foldl f s) := by
  induction l generalizing s with
  | nil => exact h
  | cons y l ih => exact ih (fun z hz => hkeep z (List.mem_cons_of_mem _ hz)) (hkeep y List.mem_cons_self s h)

/-! ## The hash map -/

/-- The entry of a placed segment (R245). -/
def segEntry (g : SegPlan) : Nat := (if g.near then 2 else 1) + g.floor * 2 ^ 2 + g.base * 2 ^ 8

/-- One segment of a placement: its entry, and its mirror's Twin entries (R325). -/
def State.placeSeg (s : State) (g : SegPlan) : State :=
  match g.mirror with
  | some m => (List.range 8).foldl (fun s f => s.setReg (R.floorTwin f g.seg) (BitVec.ofNat 64 (1 + 2 * m))) (s.setHash g.seg (segEntry g))
  | none => s.setHash g.seg (segEntry g)

/-- Twin entries are no hash entries. -/
theorem State.reg_placeSeg (s : State) (g : SegPlan) {f h : Nat} (hh : h < 768) (hg : g.seg < 768) :
    (s.placeSeg g).reg (R.floorHash f h) = (s.setHash g.seg (segEntry g)).reg (R.floorHash f h) := by
  unfold State.placeSeg
  split
  · refine foldl_keep _ (fun w : State => w.reg (R.floorHash f h) = (s.setHash g.seg (segEntry g)).reg (R.floorHash f h)) _ _ rfl fun w k hw => ?_
    rw [State.reg_setReg_ne _ _ (by simp only [R.floorHash, R.floorTwin]; omega), hw]
  · rfl

/-- Each segment of a placement has its entry on every floor. -/
theorem State.reg_placeSegs {segs : List SegPlan} (hseg : ∀ g ∈ segs, g.seg < 768) (hord : segs.Pairwise fun a b => a.seg < b.seg) {g : SegPlan}
    (hg : g ∈ segs) {f : Nat} (hf : f < 8) (s : State) :
    (segs.foldl State.placeSeg s).reg (R.floorHash f g.seg) = BitVec.ofNat 64 (segEntry g) := by
  refine foldl_brings (P := fun w : State => w.reg (R.floorHash f g.seg) = BitVec.ofNat 64 (segEntry g)) hg (fun w => ?_) (fun h hh w hw => ?_) s
  · rw [State.reg_placeSeg w g (hseg g hg) (hseg g hg), State.reg_setHash_same w _ (hseg g hg) hf]
  · by_cases heq : g = h
    · subst heq
      rw [State.reg_placeSeg w g (hseg g hg) (hseg g hg), State.reg_setHash_same w _ (hseg g hg) hf]
    · have hne : g.seg ≠ h.seg := by
        have hsym : Std.Symm fun a b : SegPlan => a.seg ≠ b.seg := ⟨fun _ _ h => h.symm⟩
        exact (hord.imp fun h => Nat.ne_of_lt h).forall hg hh heq
      rw [State.reg_placeSeg w h (hseg g hg) (hseg h hh), State.reg_setHash_ne w _ (hseg h hh) (hseg g hg) hne, hw]

/-- The rest of a placement's memory writes no hash entry: slice modes and rights. -/
theorem State.reg_placeMemory (s : State) (j : Job) {p : Plan} (hseg : ∀ g ∈ p.segs, g.seg < 768) (hord : p.segs.Pairwise fun a b => a.seg < b.seg)
    (hmode : ∀ m ∈ p.modes, m.slice < 512) {g : SegPlan} (hg : g ∈ p.segs) {f : Nat} (hf : f < 8) :
    (s.placeMemory j p).reg (R.floorHash f g.seg) = BitVec.ofNat 64 (segEntry g) := by
  have hgs := hseg g hg
  have h1 := State.reg_placeSegs hseg hord hg hf s
  have h2 := (tablesKept_foldl (fun s (m : ModePlan) => s.setMode m.slice m.mode m.splitWays) p.modes (p.segs.foldl State.placeSeg s)
    fun w m hm => tablesKept_setMode (hmode m hm) w _ _).2 (R.floorHash f g.seg) (by simp only [tableReg, R.floorHash]; omega)
  refine foldl_keep _ (fun w : State => w.reg (R.floorHash f g.seg) = BitVec.ofNat 64 (segEntry g)) _ _ (h2.trans h1) fun w x hw => ?_
  refine foldl_keep _ (fun w : State => w.reg (R.floorHash f g.seg) = BitVec.ofNat 64 (segEntry g)) _ _ hw fun w r hw => ?_
  rw [State.reg_setRights_ne _ _ _ _ fun k v hk hv => by simp only [R.floorHash, R.floorPerm]; omega, hw]

/-! ## The kennel windows -/

/-- The kennel windows of a placement write no hash entry. -/
theorem State.reg_kennelWrite (s : State) {k : Nat} (range ctrl : W64) (hk : k < 64) {f h : Nat} (hf : f < 8) (hh : h < 768) :
    (s.kennelWrite k range ctrl).1.reg (R.floorHash f h) = s.reg (R.floorHash f h) := by
  have hrange : R.floorHash f h ≠ R.kenlRange k := by simp only [R.floorHash, R.kenlRange]; omega
  have hctrl : R.floorHash f h ≠ R.kenlCtrl k := by simp only [R.floorHash, R.kenlCtrl]; omega
  obtain ⟨-, hreg, -⟩ := (s.kennelRegs k range ctrl).pinCap_frame k
  rw [State.kennelWrite_eq]
  dsimp only
  rw [((tablesKept_retag _).trans (tablesKept_trimSets _)).2 _ (by simp only [tableReg, R.floorHash]; omega), hreg _ hctrl, State.kennelRegs,
    State.reg_wr_ne _ _ _ hctrl, State.reg_setReg_ne _ _ hctrl, State.reg_setReg_ne _ _ hrange]

theorem State.reg_placeKennels (s : State) (j : Job) (p : Plan) {f h : Nat} (hf : f < 8) (hh : h < 768) :
    (s.placeKennels j p).1.reg (R.floorHash f h) = s.reg (R.floorHash f h) := by
  refine foldl_keep_mem (P := fun acc : State × Bool => acc.1.reg (R.floorHash f h) = s.reg (R.floorHash f h)) (fun k hk acc hacc => ?_) rfl
  dsimp only
  split
  · exact (State.reg_kennelWrite _ _ _ (List.mem_range.1 hk) hf hh).trans hacc
  · exact hacc

/-! ## The tiles -/

/-- Settings of a placed tile's engines (R73, R101, R176). -/
def State.placeSettings (s : State) (g : StageSt) (t : Nat) : State :=
  (List.range 8).foldl (fun s k => s.setReg (R.tileSpdPart t k) ((g.parts.getD k 0) &&& 0xFFFFF07))
    (s.modTile t fun x => { (x.freshen 0 0x8000) with near := [] })

/-- A tile's place in a region (R136). -/
def placeFields (t : Nat) (p : StagePlan) : List (Fld × Nat) :=
  [(F.tileIdX t, t % planeW - p.base % planeW), (F.tileIdY t, t / planeW - p.base / planeW), (F.tileIdWM1 t, p.w - 1), (F.tileIdHM1 t, p.h - 1),
    (F.tileIdTile t, t)]

theorem State.placeTile_eq (s : State) (g : StageSt) (t : Nat) : s.placeTile g t =
    (((((s.placeSettings g t).wrs (placeFields t (g.region.getD ⟨0, 0, 0⟩))).setReg (R.tileTallyTol t) (BitVec.ofNat 64 g.tally)).setReg (R.tileFpCtrl t)
      (BitVec.ofNat 64 g.fpCtrl)).loadInstr t g) := rfl

@[simp] theorem State.reg_loadInstr (s : State) (t : Nat) (g : StageSt) (a : Nat) : (s.loadInstr t g).reg a = s.reg a := by
  unfold State.loadInstr State.needBay
  dsimp only
  split <;> rfl

theorem State.reg_placeSettings (s : State) (g : StageSt) {t a : Nat} (ha : ∀ k, k < 8 → a ≠ R.tileSpdPart t k) : (s.placeSettings g t).reg a = s.reg a := by
  refine foldl_keep_mem (P := fun w : State => w.reg a = s.reg a) (fun k hk w hw => ?_) rfl
  rw [State.reg_setReg_ne _ _ (ha k (List.mem_range.1 hk)), hw]

/-- A placed tile's registers are those of its own page. -/
theorem State.reg_placeTile_ne (s : State) (g : StageSt) {t a : Nat} (ha : a < 0xC00000 + 0x800 * t ∨ 0xC00000 + 0x800 * t + 0x800 ≤ a) :
    (s.placeTile g t).reg a = s.reg a := by
  rw [State.placeTile_eq, State.reg_loadInstr, State.reg_setReg_ne _ _ (by simp only [R.tileFpCtrl]; omega),
    State.reg_setReg_ne _ _ (by simp only [R.tileTallyTol]; omega), (State.wrs_only _ _).2 a, State.reg_placeSettings]
  · intro k hk
    simp only [R.tileSpdPart]; omega
  · intro hm
    simp only [placeFields, F.tileIdX, F.tileIdY, F.tileIdWM1, F.tileIdHM1, F.tileIdTile, R.tileId, List.map_cons, List.map_nil, List.mem_cons,
      List.not_mem_nil, or_false, or_self] at hm
    omega

/-- A tile reads its place in its region (R136). -/
def State.placedIn (z : State) (t : Nat) (r : StagePlan) : Prop :=
  z.rd (F.tileIdX t) = t % 160 - r.base % 160 ∧ z.rd (F.tileIdY t) = t / 160 - r.base / 160 ∧ z.rd (F.tileIdWM1 t) = r.w - 1 ∧
    z.rd (F.tileIdHM1 t) = r.h - 1

/-- The place of a tile is all in one register. -/
theorem State.placedIn_of_reg {s z : State} {t : Nat} {r : StagePlan} (h : z.reg (R.tileId t) = s.reg (R.tileId t)) (hs : s.placedIn t r) :
    z.placedIn t r := by
  simp only [State.placedIn, State.rd, F.tileIdX, F.tileIdY, F.tileIdWM1, F.tileIdHM1, h] at hs ⊢
  exact hs

/-- A tile of a region on the plane reads its place once it is written. -/
theorem State.placedIn_wrs (s : State) {t : Nat} {r : StagePlan} (hy : t / 160 < 160) (hw : r.w ≤ 160) (hh : r.h ≤ 160) :
    (s.wrs (placeFields t r)).placedIn t r := by
  have hX : (t % 160 - r.base % 160) % 2 ^ 8 = t % 160 - r.base % 160 := Nat.mod_eq_of_lt (by omega)
  have hY : (t / 160 - r.base / 160) % 2 ^ 8 = t / 160 - r.base / 160 := Nat.mod_eq_of_lt (by omega)
  have hW : (r.w - 1) % 2 ^ 8 = r.w - 1 := Nat.mod_eq_of_lt (by omega)
  have hH : (r.h - 1) % 2 ^ 8 = r.h - 1 := Nat.mod_eq_of_lt (by omega)
  simp only [placeFields, State.wrs, List.foldl_cons, List.foldl_nil, planeW]
  refine ⟨?_, ?_, ?_, ?_⟩
  · rw [State.rd_wr_apart, State.rd_wr_apart, State.rd_wr_apart, State.rd_wr_apart, State.rd_wr_same]
    · exact hX
    all_goals simp [F.tileIdX, F.tileIdY, F.tileIdWM1, F.tileIdHM1, F.tileIdTile]
  · rw [State.rd_wr_apart, State.rd_wr_apart, State.rd_wr_apart, State.rd_wr_same]
    · exact hY
    all_goals simp [F.tileIdY, F.tileIdWM1, F.tileIdHM1, F.tileIdTile]
  · rw [State.rd_wr_apart, State.rd_wr_apart, State.rd_wr_same]
    · exact hW
    all_goals simp [F.tileIdWM1, F.tileIdHM1, F.tileIdTile]
  · rw [State.rd_wr_apart, State.rd_wr_same]
    · exact hH
    all_goals simp [F.tileIdHM1, F.tileIdTile]

theorem State.placedIn_placeTile (s : State) {g : StageSt} {t : Nat} {r : StagePlan} (hg : g.region = some r) (hy : t / 160 < 160) (hw : r.w ≤ 160)
    (hh : r.h ≤ 160) : (s.placeTile g t).placedIn t r := by
  refine State.placedIn_of_reg ?_ (State.placedIn_wrs (s.placeSettings g t) hy hw hh)
  rw [State.placeTile_eq, hg, State.reg_loadInstr, State.reg_setReg_ne _ _ (by simp only [R.tileFpCtrl, R.tileId]; omega),
    State.reg_setReg_ne _ _ (by simp only [R.tileTallyTol, R.tileId]; omega)]
  rfl

@[simp] theorem State.job_placeTile (s : State) (g : StageSt) (t : Nat) : (s.placeTile g t).job = s.job := by
  have hset : (s.placeSettings g t).job = s.job := foldl_keep _ (fun w : State => w.job = s.job) _ _ rfl fun _ _ hw => hw
  have hload : ∀ w : State, (w.loadInstr t g).job = w.job := fun w => by
    unfold State.loadInstr State.needBay
    dsimp only
    split <;> rfl
  rw [State.placeTile_eq, hload, State.job_setReg, State.job_setReg, (State.wrs_only _ _).1]
  exact hset

end Sys2Proof.Machine
end

section
/-! PLACE (R20, R471): the sealed job, and the places of its tiles. -/

namespace Sys2Proof.Machine

/-! ## Regions and their tiles -/

theorem mem_planTiles {r : StagePlan} (hcol : colOf r + r.w ≤ 160) {t : Nat} (ht : t ∈ planTiles r) :
    rowOf r ≤ t / 160 ∧ t / 160 < rowOf r + r.h ∧ colOf r ≤ t % 160 ∧ t % 160 < colOf r + r.w := by
  simp only [planTiles, List.mem_flatMap, List.mem_map, List.mem_range] at ht
  obtain ⟨y, hy, x, hx, rfl⟩ := ht
  unfold rowOf colOf at *
  omega

/-- Regions that share a tile overlap (R26). -/
theorem rectOver_of_mem {a b : StagePlan} (ha : colOf a + a.w ≤ 160) (hb : colOf b + b.w ≤ 160) {t : Nat} (hta : t ∈ planTiles a)
    (htb : t ∈ planTiles b) : rectOver a b = true := by
  have h1 := mem_planTiles ha hta
  have h2 := mem_planTiles hb htb
  simp only [rectOver, overlap, Bool.and_eq_true, decide_eq_true_eq]
  omega

theorem rectOver_comm (a b : StagePlan) : rectOver a b = rectOver b a := by
  simp only [rectOver, overlap, Bool.and_comm]

/-- Of regions that do not overlap one has a tile. -/
theorem region_unique {rs : List StagePlan} (hcol : ∀ r ∈ rs, colOf r + r.w ≤ 160) (hover : rs.Pairwise fun a b => rectOver a b = false)
    {a b : StagePlan} (ha : a ∈ rs) (hb : b ∈ rs) {t : Nat} (hta : t ∈ planTiles a) (htb : t ∈ planTiles b) : a = b := by
  have hsym : Std.Symm fun a b : StagePlan => rectOver a b = false := ⟨fun a b h => (rectOver_comm b a).trans h⟩
  by_contra hne
  have hover := hover.forall ha hb hne
  rw [rectOver_of_mem (hcol a ha) (hcol b hb) hta htb] at hover
  cases hover

/-- The tiles of a placed stage are those of its region. -/
theorem map_stageTiles {g : StageSt} {r : StagePlan} (h : g.region = some r) : (stageTiles g).map (·.1) = planTiles r := by
  simp only [stageTiles, h, planTiles, planeW, List.map_flatMap, List.map_map]
  rfl

/-! ## The tiles of every stage -/

/-- Every tile of every stage is placed. -/
def State.placeStages (s : State) (gs : List StageSt) : State := gs.foldl (fun s g => (stageTiles g).foldl (fun s t => s.placeTile g t.1) s) s

theorem State.reg_placeStages (s : State) (gs : List StageSt) {a : Nat} (ha : a < 0xC00000) : (s.placeStages gs).reg a = s.reg a :=
  foldl_keep _ (fun w : State => w.reg a = s.reg a) gs s rfl fun w g hw =>
    foldl_keep _ (fun w : State => w.reg a = s.reg a) _ w hw fun w t hw => (State.reg_placeTile_ne w g (.inl (by omega))).trans hw

theorem State.job_placeStages (s : State) (gs : List StageSt) : (s.placeStages gs).job = s.job := by
  unfold State.placeStages
  refine foldl_keep _ (fun w : State => w.job = s.job) gs s rfl fun w g hw => ?_
  refine foldl_keep _ (fun w : State => w.job = s.job) _ w hw fun w t hw => ?_
  rw [State.job_placeTile, hw]

/-- Every tile of the stages' regions reads its place (R136). -/
theorem State.placedIn_placeStages (s : State) {gs : List StageSt} {rs : List StagePlan} (hgs : ∀ g ∈ gs, ∃ r ∈ rs, g.region = some r)
    (hplane : ∀ r ∈ rs, rowOf r + r.h ≤ 160 ∧ colOf r + r.w ≤ 160) (hover : rs.Pairwise fun a b => rectOver a b = false)
    {g : StageSt} (hg : g ∈ gs) {r : StagePlan} (hr : g.region = some r) {t : Nat} (ht : t ∈ planTiles r) : (s.placeStages gs).placedIn t r := by
  have hcol : ∀ r ∈ rs, colOf r + r.w ≤ 160 := fun r hr => (hplane r hr).2
  obtain ⟨r', hrs, hr'⟩ := hgs g hg
  obtain rfl : r = r' := Option.some_inj.1 (hr.symm.trans hr')
  obtain ⟨hrow, hc⟩ := hplane r hrs
  have hty := mem_planTiles hc ht
  have hplace : ∀ (w : State) (k : StageSt), k.region = some r → (w.placeTile k t).placedIn t r := fun w k hk =>
    State.placedIn_placeTile w hk (by omega) (by omega) (by omega)
  have hkeep : ∀ k ∈ gs, ∀ x ∈ stageTiles k, ∀ w : State, w.placedIn t r → (w.placeTile k x.1).placedIn t r := by
    intro k hk x hx w hw
    by_cases hxt : x.1 = t
    · obtain ⟨q, hq, hkq⟩ := hgs k hk
      have htq : t ∈ planTiles q := by
        rw [← map_stageTiles hkq, ← hxt]
        exact List.mem_map_of_mem hx
      rw [hxt]
      exact hplace w k (region_unique hcol hover hrs hq ht htq ▸ hkq)
    · exact State.placedIn_of_reg (State.reg_placeTile_ne w k (by simp only [R.tileId]; omega)) hw
  unfold State.placeStages
  refine foldl_brings (P := fun w : State => w.placedIn t r) hg (fun w => ?_) (fun k hk w hw => ?_) s
  · obtain ⟨x, hx, hxt⟩ := List.mem_map.1 (map_stageTiles hr ▸ ht)
    refine foldl_brings (P := fun w : State => w.placedIn t r) hx (fun w => ?_) (fun y hy w hw => hkeep g hg y hy w hw) w
    rw [hxt]
    exact hplace w g hr
  · exact foldl_keep_mem (P := fun w : State => w.placedIn t r) (fun y hy w hw => hkeep k hk y hy w hw) hw

/-! ## The sealed job -/

/-- The stages of a job with the regions of a placement. -/
def placedStages (j : Job) (p : Plan) : List StageSt := (j.stages.zip p.stages).map fun g => { g.1 with region := some g.2 }

theorem region_placedStages {j : Job} {p : Plan} (h : p.stages.length = j.stages.length) : (placedStages j p).map (·.region) = p.stages.map some := by
  have hsnd : (j.stages.zip p.stages).map (·.2) = p.stages := List.map_snd_zip (by omega)
  calc (placedStages j p).map (·.region) = ((j.stages.zip p.stages).map (·.2)).map some := by rw [placedStages, List.map_map, List.map_map]; rfl
    _ = p.stages.map some := by rw [hsnd]

theorem image_placedStages {j : Job} {p : Plan} (h : p.stages.length = j.stages.length) :
    (placedStages j p).map (·.image) = j.stages.map (·.image) := by
  have hfst : (j.stages.zip p.stages).map (·.1) = j.stages := List.map_fst_zip (by omega)
  calc (placedStages j p).map (·.image) = ((j.stages.zip p.stages).map (·.1)).map (·.image) := by rw [placedStages, List.map_map, List.map_map]; rfl
    _ = j.stages.map (·.image) := by rw [hfst]

theorem exists_region_of_mem_placedStages {j : Job} {p : Plan} {g : StageSt} (hg : g ∈ placedStages j p) : ∃ r ∈ p.stages, g.region = some r := by
  obtain ⟨x, hx, rfl⟩ := List.mem_map.1 hg
  exact ⟨x.2, (List.of_mem_zip hx).2, rfl⟩

theorem exists_mem_placedStages {j : Job} {p : Plan} (h : p.stages.length = j.stages.length) {r : StagePlan} (hr : r ∈ p.stages) :
    ∃ g ∈ placedStages j p, g.region = some r := by
  have hmem : some r ∈ (placedStages j p).map (·.region) := by
    rw [region_placedStages h]
    exact List.mem_map_of_mem hr
  obtain ⟨g, hg, hgr⟩ := List.mem_map.1 hmem
  exact ⟨g, hg, hgr⟩

/-- The tensors of a job with their places; `eff` is the persistence in effect of a window. -/
def placedTensors (j : Job) (hs : List Hint) (p : Plan) (retired : Bool) (eff : Nat → Nat) : List TensorSt :=
  ((j.tensors.zip p.tensors).zip (List.range j.tensors.length)).map fun x =>
    { x.1.1 with pers := askedPers hs x.2 x.1.1, place := some x.1.2, degraded := decide (x.1.1.cls = 2) && retired,
                 persEff := if 64 ≤ x.1.2.kennel then 1 else eff x.1.2.kennel }

theorem place_placedTensors {j : Job} {p : Plan} (hs : List Hint) (retired : Bool) (eff : Nat → Nat) (h : p.tensors.length = j.tensors.length) :
    (placedTensors j hs p retired eff).map (·.place) = p.tensors.map some := by
  have hzip : ((j.tensors.zip p.tensors).zip (List.range j.tensors.length)).map (·.1) = j.tensors.zip p.tensors :=
    List.map_fst_zip (by rw [List.length_zip, List.length_range]; omega)
  have hsnd : (j.tensors.zip p.tensors).map (·.2) = p.tensors := List.map_snd_zip (by omega)
  calc (placedTensors j hs p retired eff).map (·.place)
      = ((((j.tensors.zip p.tensors).zip (List.range j.tensors.length)).map (·.1)).map (·.2)).map some := by
        rw [placedTensors, List.map_map, List.map_map, List.map_map]; rfl
    _ = p.tensors.map some := by rw [hzip, hsnd]

/-- The job that a placement seals (R20). -/
def sealedJob (j : Job) (hs : List Hint) (met : List Bool) (p : Plan) (retired : Bool) (eff : Nat → Nat) : Job :=
  { j with stages := placedStages j p, tensors := placedTensors j hs p retired eff, sealed := true, met := met, segs := p.segs }

end Sys2Proof.Machine
end

section
/-! PLACE, and the obligation on stages and placement. -/

namespace Sys2Proof.Machine

/-! ## What a completion leaves -/

theorem posted_job {v z : State} {e : Entry} {st r : Nat} (h : posted v z e st r) : z.job = v.job := by rw [h.1]

/-- A completion writes no register but its queue's busy bit (R464). -/
theorem posted_reg {v z : State} {e : Entry} {st r : Nat} (h : posted v z e st r) {a : Nat} (ha : a ≠ R.cmdqQcfg e.sq) : z.reg a = v.reg a := by
  obtain ⟨hz, hregs, -⟩ := h
  have hreg : z.reg a = (v.wr (F.cmdqQcfgBusy e.sq) (if 1 < (v.queue e.sq).out then 1 else 0)).reg a := by
    have hvar : z.variant = v.variant := by rw [hz]
    simp only [State.reg, hregs, hvar]
    rfl
  rw [hreg, State.reg_wr_ne _ _ _ ha]

/-! ## PLACE -/

theorem State.applyPlan_eq (s : State) (e : Entry) (j : Job) (hs : List Hint) (met : List Bool) (p : Plan) :
    let k := ((s.placeMemory j p).placeKennels j p).1
    ∃ st r, s.applyPlan e j hs met p =
      (({ k with job := some (sealedJob j hs met p k.anyRetired fun n => k.rd (F.kenlCtrlPersEff n)) } : State).placeStages (placedStages j p)).complete e st r :=
  ⟨_, _, rfl⟩

/-- What a lawful placement leaves once it has taken effect (R20, R136, R245). -/
theorem applyPlan_facts {u z : State} {e : Entry} {j : Job} {hs kept : List Hint} (met : List Bool) {p : Plan} {st r : Nat} (hq : e.sq < 16)
    (hl : u.lawful j hs p = true) :
    let k := ((u.placeMemory j p).placeKennels j p).1
    posted (({ k with job := some (sealedJob j kept met p k.anyRetired fun n => k.rd (F.kenlCtrlPersEff n)) } : State).placeStages (placedStages j p)) z e st r →
    ∃ k, z.job = some k ∧ k.sealed = true ∧ k.handle = j.handle ∧
        k.stages.map (·.region) = p.stages.map some ∧ k.tensors.map (·.place) = p.tensors.map some ∧
        k.stages.map (·.image) = j.stages.map (·.image) ∧
        (∀ g ∈ p.segs, ∀ f, f < 8 → z.reg (R.floorHash f g.seg) = BitVec.ofNat 64 (segEntry g)) ∧
        ∀ r ∈ p.stages, ∀ t ∈ planTiles r, z.placedIn t r := by
  intro k hpost
  obtain ⟨hstages, htensors, hplane, hover, hseg, hord, hmode⟩ := State.lawful_facts hl
  refine ⟨_, (posted_job hpost).trans (State.job_placeStages _ _), rfl, rfl, region_placedStages hstages, place_placedTensors kept k.anyRetired (fun n => k.rd (F.kenlCtrlPersEff n)) htensors,
    image_placedStages hstages, fun g hg f hf => ?_, fun r hr t ht => ?_⟩
  · have hgs := hseg g hg
    rw [posted_reg hpost (by simp only [R.floorHash, R.cmdqQcfg]; omega), State.reg_placeStages _ _ (by simp only [R.floorHash]; omega)]
    exact (State.reg_placeKennels _ j p hf hgs).trans (u.reg_placeMemory j hseg hord hmode hg hf)
  · obtain ⟨g, hg, hgr⟩ := exists_mem_placedStages hstages hr
    refine State.placedIn_of_reg (posted_reg hpost (by simp only [R.tileId, R.cmdqQcfg]; omega)) ?_
    exact State.placedIn_placeStages _ (fun g hg => exists_region_of_mem_placedStages hg) (fun r hr => (hplane r hr).2.2) hover hg hgr ht

/-- PLACE without hints (R20, R34, R471). -/
theorem place_outcome {s u : State} {e : Entry} {j : Job}
    (h : s.cmdTurn e .job ⟨false, true, true, false⟩ [(1, [(3, 61)]), (2, [(0, 8)]), (3, [(3, 61)])] = some u) (hj : u.job = some j) :
    (j.sealed = true → leads (exec (.place e) s) fun z => posted u z e sJOB_SEALED 0) ∧
    (j.sealed = false → j.stages = [] → leads (exec (.place e) s) fun z => posted u z e sSTAGE_INVALID 0) ∧
    (j.sealed = false → j.stages ≠ [] → undefTensor j = false → parm e 2 % 256 = 0 →
      (∀ xs, u.choose j [] = .inr xs → e.inp.wrOk = true →
        leads (exec (.place e) s) fun z => posted (u.hostWrite (parm e 3) (shortBytes xs)) z e sPLACE_NOFIT 0) ∧
      (∀ c, u.choose j [] = .inl c → e.inp.imagePoison = true → leads (exec (.place e) s) fun z => posted u z e sPOISON 0) ∧
      (∀ p h m, u.choose j [] = .inl (p, h, m) → e.inp.imagePoison = false →
        exec (.place e) s = .next (u.applyPlan e j h m p))) := by
  refine ⟨fun hs => cmd_posts h ?_, fun hs hst => cmd_posts h ?_, fun hs hst hund hn => ?_⟩
  · simp only [hj, hs, if_true]
  · simp only [hj, hst, List.isEmpty_nil, true_or, if_true, if_neg (Bool.not_eq_true _ ▸ hs)]
  · have hzero : bf (parm e 2) 0 8 = 0 := (bf_zero _ _).trans hn
    have hexec : exec (.place e) s = .next (match u.choose j [] with
        | .inl p => if e.inp.imagePoison then u.complete e sPOISON 0 else u.applyPlan e j p.2.1 p.2.2 p.1
        | .inr xs => u.reply e (parm e 3) (shortBytes xs) sPLACE_NOFIT 0) := by
      refine congrArg Host.Outcome.next ((State.cmd_of_cmdTurn h _).trans ?_)
      rw [hj]
      dsimp only
      rw [if_neg (Bool.not_eq_true _ ▸ hs), if_neg (by simp [hst, hund]), if_pos hzero, hzero]
      rfl
    refine ⟨fun xs hc hw => ?_, fun c hc hp => ?_, fun p k m hc hp => ?_⟩
    · rw [hexec, hc]
      dsimp only
      rw [State.reply, if_pos hw]
      exact leads_next (State.complete_posted _ _ _ (State.sq_lt_of_cmdTurn h))
    · rw [hexec, hc]
      dsimp only
      rw [if_pos hp]
      exact leads_next (State.complete_posted _ _ _ (State.sq_lt_of_cmdTurn h))
    · rw [hexec, hc]
      dsimp only
      rw [if_neg (by simp [hp])]

end Sys2Proof.Machine
end

section
open Sys2Proof Sys2Proof.Machine

/-- Settles O43, command by command; a placement's facts rest on its being lawful. -/
theorem stagesAndPlacement : Obligations.StagesAndPlacement := by
  unfold Obligations.StagesAndPlacement
  refine ⟨fun s u e j h hj => tensorDecl_outcome h hj, fun s u e j bs h hj hr hn => ?_, fun s u e j h hj => ?_, fun s u e j h hj => ?_⟩
  · obtain ⟨hsealed, hinvalid, hok⟩ := stageLoad_outcome h hj hr hn
    exact ⟨hsealed, hinvalid, fun g hg => ⟨parseStage_limits hg, hok g hg⟩⟩
  · obtain ⟨hsealed, hempty, hplace⟩ := place_outcome h hj
    refine ⟨hsealed, hempty, fun hs hst hund hn => ?_⟩
    obtain ⟨hnofit, hpoison, hgo⟩ := hplace hs hst hund hn
    refine ⟨fun xs hc => ⟨fun p hp => State.unlawful_of_choose hc hp, fun hw => ⟨length_shortBytes xs, hnofit xs hc hw⟩⟩, hpoison,
      fun p k m hc hp => ?_⟩
    have hl := State.lawful_of_choose hc
    obtain ⟨st, r, happly⟩ := u.applyPlan_eq e j k m p
    rw [hgo p k m hc hp, happly]
    have hq := State.sq_lt_of_cmdTurn h
    exact ⟨hl, leads_next (applyPlan_facts m hq hl (State.complete_posted _ st r hq))⟩
  · exact ⟨u.placeReply_length j, placeQuery_outcome h hj⟩

end

section
/-! First-event records (R691), and what the scratchpad's operations leave of a tile (R148, R150, R172, R175). -/

namespace Sys2Proof.Machine

/-! ## First-event records -/

/-- Two fields share no bit of a register. -/
def Fld.apart (f g : Fld) : Prop := f.addr ≠ g.addr ∨ f.lo + f.w ≤ g.lo ∨ g.lo + g.w ≤ f.lo

theorem Fld.apart.symm {f g : Fld} (h : f.apart g) : g.apart f := by unfold Fld.apart at *; omega

theorem State.rd_wr_of_apart (s : State) {f g : Fld} (v : Nat) (hg : g.lo + g.w ≤ 64) (h : f.apart g) : (s.wr f v).rd g = s.rd g := by
  rcases h with h | h
  · exact State.rd_wr_addr s f g v (Ne.symm h)
  · exact State.rd_wr_apart s f g v hg h

theorem State.rd_wrs_of_apart {g : Fld} (hg : g.lo + g.w ≤ 64) (ws : List (Fld × Nat)) (s : State) (h : ∀ p ∈ ws, p.1.apart g) :
    (s.wrs ws).rd g = s.rd g := by
  induction ws generalizing s with
  | nil => rfl
  | cons p ws ih =>
    obtain ⟨hp, hws⟩ := List.forall_mem_cons.mp h
    exact (ih _ hws).trans (State.rd_wr_of_apart s p.2 hg hp)

/-- Fields that share no bit all read back what one sequence of writes stored. -/
theorem State.rd_wrs_of_mem (ws : List (Fld × Nat)) (s : State) (hfit : ∀ p ∈ ws, p.1.lo + p.1.w ≤ 64)
    (hap : ws.Pairwise fun p q => p.1.apart q.1) {p : Fld × Nat} (hp : p ∈ ws) : (s.wrs ws).rd p.1 = p.2 % 2 ^ p.1.w := by
  induction ws generalizing s with
  | nil => cases hp
  | cons q ws ih =>
    obtain ⟨hq, hws⟩ := List.pairwise_cons.mp hap
    obtain ⟨fq, fws⟩ := List.forall_mem_cons.mp hfit
    rcases List.mem_cons.mp hp with rfl | hp
    · exact (State.rd_wrs_of_apart fq ws _ fun r hr => (hq r hr).symm).trans (State.rd_wr_same s _ _ fq)
    · exact ih _ fws hws hp

/-- A field of one bit that is written with 1 is set. -/
theorem State.on_wr_one (s : State) {f : Fld} (hw : f.w = 1) (hf : f.lo + f.w ≤ 64) : (s.wr f 1).on f = true := by
  simp [State.on, State.rd_wr_same s f 1 hf, hw]

/-- `State.record` does what a first-event record does, where its fields share no bit. -/
theorem State.recorded_record (s : State) {valid multi : Fld} {ws : List (Fld × Nat)} (hv : valid.w = 1) (hm : multi.w = 1)
    (hfit : ∀ f ∈ valid :: multi :: ws.map (·.1), f.lo + f.w ≤ 64) (hap : (valid :: multi :: ws.map (·.1)).Pairwise Fld.apart) :
    recorded s (s.record valid multi ws) valid multi ws := by
  obtain ⟨hva, hma⟩ := List.pairwise_cons.mp hap
  obtain ⟨hma, hws⟩ := List.pairwise_cons.mp hma
  obtain ⟨fv, ff⟩ := List.forall_mem_cons.mp hfit
  obtain ⟨fm, fw⟩ := List.forall_mem_cons.mp ff
  have hvm : valid.apart multi := hva _ List.mem_cons_self
  have hvw : ∀ p ∈ ws, valid.apart p.1 := fun p hp => hva _ (List.mem_cons_of_mem _ (List.mem_map_of_mem hp))
  have hmw : ∀ p ∈ ws, multi.apart p.1 := fun p hp => hma _ (List.mem_map_of_mem hp)
  have fp : ∀ p ∈ ws, p.1.lo + p.1.w ≤ 64 := fun p hp => fw _ (List.mem_map_of_mem hp)
  by_cases hon : s.on valid = true
  · have he : s.record valid multi ws = s.wr multi 1 := if_pos hon
    rw [he]
    refine ⟨?_, fun h => absurd hon (by simp [h]), fun _ => ⟨State.on_wr_one s hm fm, fun p hp => State.rd_wr_of_apart s 1 (fp p hp) (hmw p hp)⟩⟩
    rw [State.on, State.rd_wr_of_apart s 1 fv hvm.symm]
    exact hon
  · have he : s.record valid multi ws = (s.wrs ws).wr valid 1 := if_neg hon
    rw [he]
    refine ⟨State.on_wr_one _ hv fv, fun _ => ⟨?_, fun p hp => ?_⟩, fun h => absurd h hon⟩
    · rw [State.on, State.rd_wr_of_apart _ 1 fm hvm, State.rd_wrs_of_apart fm ws s fun p hp => (hmw p hp).symm]
      rfl
    · rw [State.rd_wr_of_apart _ 1 (fp p hp) (hvw p hp)]
      exact State.rd_wrs_of_mem ws s fp (List.pairwise_map.mp hws) hp

/-! ## The gather buffer -/

theorem State.gatherFlush_of_none {s : State} {t w : Nat} (h : ∀ g ∈ (s.tile t).gather, g.word ≠ w) (errs : List SpdErr) :
    s.gatherFlush t w errs = s := by
  have hf : (s.tile t).gather.find? (fun g => decide (g.word = w)) = none := by simpa [List.find?_eq_none] using h
  simp only [State.gatherFlush, hf]

/-- After a flush the buffer holds what it held for other words. -/
theorem State.gather_gatherFlush (s : State) (t w : Nat) (errs : List SpdErr) :
    ((s.gatherFlush t w errs).tile t).gather = (s.tile t).gather.filter fun g => decide (g.word ≠ w) := by
  by_cases h : ∀ g ∈ (s.tile t).gather, g.word ≠ w
  · rw [State.gatherFlush_of_none h, List.filter_eq_self.mpr fun g hg => by simpa using h g hg]
  · obtain ⟨g, hg⟩ : ∃ g, (s.tile t).gather.find? (fun g => decide (g.word = w)) = some g := by
      rw [← Option.isSome_iff_exists, List.find?_isSome]
      simpa using h
    have hw : g.word = w := by simpa using List.find?_some hg
    simp only [State.gatherFlush, hg]
    rw [State.gather_gatherPut, if_pos rfl, hw]

/-! ## Errors noted -/

theorem State.on_modTile (s : State) (t : Nat) (f : TileSt → TileSt) (g : Fld) : (s.modTile t f).on g = s.on g := rfl

theorem State.gather_spdCe (s : State) (t w k : Nat) : ((s.spdCe t w).tile k).gather = (s.tile k).gather := by
  rw [State.tile_spdCe]
  split
  · rename_i h; subst h; split <;> rfl
  · rfl

/-- A corrected word waits for its write-back, and the record holds a correction. -/
theorem State.spdCe_noted (s : State) (t w : Nat) : (s.spdCe t w).on (F.tileSpdErrCeValid t) = true ∧ w ∈ ((s.spdCe t w).tile t).ceWb := by
  constructor
  · have hfit : (F.tileSpdErrCeValid t).lo + (F.tileSpdErrCeValid t).w ≤ 64 := by simp [F.tileSpdErrCeValid]
    have hap : (F.tileSpdErrCeCount t).apart (F.tileSpdErrCeValid t) := by simp [Fld.apart, F.tileSpdErrCeCount, F.tileSpdErrCeValid]
    have hc : (s.spdCeCount t).on (F.tileSpdErrCeValid t) = true := by
      rw [State.spdCeCount, State.satAdd, State.on, State.rd_wr_of_apart _ _ hfit hap]
      exact State.on_wr_one _ rfl hfit
    rw [State.spdCe, State.on_modTile, hc]
  · rw [State.tile_spdCe, if_pos rfl]
    split
    · rename_i h; simpa using h
    · simp

/-- Of a tile, an uncorrectable word changes the word's mark and the list of words met so. -/
theorem State.tile_spdUe (s : State) (t w src : Nat) :
    ∃ seen, (s.spdUe t w src).tile t = { s.tile t with poison := tset unmarked (s.tile t).poison w true, ueSeen := seen } := by
  simp only [State.spdUe, State.tile_modTile_same, State.tile_record, State.tile_bump]
  exact ⟨_, rfl⟩

theorem State.on_spdUe (s : State) (t w src : Nat) : (s.spdUe t w src).on (F.tileSpdErrUeValid t) = true := by
  have h := State.recorded_record (s.bump Ev.spdUe (.tile t) 1) (valid := F.tileSpdErrUeValid t) (multi := F.tileSpdErrUeMulti t)
    (ws := [(F.tileSpdErrUeAddr t, 8 * w), (F.tileSpdErrUeSrc t, src)]) rfl rfl
    (by simp [F.tileSpdErrUeValid, F.tileSpdErrUeMulti, F.tileSpdErrUeAddr, F.tileSpdErrUeSrc])
    (by simp [Fld.apart, F.tileSpdErrUeValid, F.tileSpdErrUeMulti, F.tileSpdErrUeAddr, F.tileSpdErrUeSrc])
  exact h.1

end Sys2Proof.Machine
end

section
/-! Scrub, write-back and time-out of the scratchpad, and the obligation on the upkeep of a tile (R119, R128, R130, R148, R172, R175). -/

namespace Sys2Proof.Machine

/-! ## The scrub of a word -/

/-- The regions that wait for a reload, with one more. -/
def withRegion (region : Option Nat) (l : List Nat) : List Nat :=
  match region with
  | some i => if l.contains i then l else l ++ [i]
  | none => l

theorem mem_withRegion (region : Option Nat) (l : List Nat) (i : Nat) : i ∈ withRegion region l ↔ i ∈ l ∨ region = some i := by
  cases region with
  | none => simp [withRegion]
  | some k =>
    by_cases h : k ∈ l
    · have : k = i → i ∈ l := fun e => e ▸ h
      simpa [withRegion, h] using this
    · simp [withRegion, h, eq_comm]

/-- What the scrub of a word does once the word's gather entry has been written, with what the decoder still finds. -/
def State.scrubMet (u : State) (t w : Nat) (d : Dec) : State :=
  if (u.tile t).bad w || decide (d = .uncorrectable) then
    (u.spdUe t w 4).modTile t fun x => { x with reload := withRegion (u.loadedRegion t (8 * w)) x.reload }
  else if d = .corrected then u.spdCe t w
  else u

theorem State.spdScrub_of_fresh {s : State} {t w : Nat} (h : (s.tile t).fresh w = true) (dec : Dec) : s.spdScrub t w dec = s :=
  if_pos (by simp [h])

theorem State.spdScrub_of_off {s : State} {t w : Nat} (h : s.on (F.tileSpdCtrlScrubEn t) = false ∨ ¬ 8 * w < spdSize) (dec : Dec) :
    s.spdScrub t w dec = s :=
  if_pos (by rcases h with h | h <;> simp [h])

theorem State.spdScrub_of_live {s : State} {t w : Nat} (hon : s.on (F.tileSpdCtrlScrubEn t) = true) (hf : (s.tile t).fresh w = false)
    (hw : 8 * w < spdSize) (dec : Dec) :
    s.spdScrub t w dec = (s.gatherFlush t w (decErrs dec w)).scrubMet t w
      (if (s.tile t).gather.any fun g => decide (g.word = w) then .clean else dec) := by
  simp only [State.spdScrub, hon, hf, hw, decide_true, Bool.not_true, Bool.or_self, Bool.false_eq_true, if_false]
  rfl

/-- With no gather entry for the word the decoder's report stands. -/
theorem State.spdScrub_of_no_entry {s : State} {t w : Nat} (hon : s.on (F.tileSpdCtrlScrubEn t) = true) (hf : (s.tile t).fresh w = false)
    (hw : 8 * w < spdSize) (hg : ∀ g ∈ (s.tile t).gather, g.word ≠ w) (dec : Dec) : s.spdScrub t w dec = s.scrubMet t w dec := by
  rw [State.spdScrub_of_live hon hf hw, State.gatherFlush_of_none hg, if_neg (by simpa using hg)]

/-- A clean word with no gather entry is left as it is, whatever stops the scrubber. -/
theorem State.spdScrub_of_clean {s : State} {t w : Nat} (hb : (s.tile t).bad w = false) (hg : ∀ g ∈ (s.tile t).gather, g.word ≠ w) :
    s.spdScrub t w .clean = s := by
  by_cases hoff : s.on (F.tileSpdCtrlScrubEn t) = false ∨ ¬ 8 * w < spdSize
  · exact State.spdScrub_of_off hoff _
  · simp only [not_or, Bool.not_eq_false, not_not] at hoff
    obtain ⟨hon, hw⟩ := hoff
    cases hf : (s.tile t).fresh w with
    | true => exact State.spdScrub_of_fresh hf _
    | false => rw [State.spdScrub_of_no_entry hon hf hw hg]; simp [State.scrubMet, hb]

/-- The report of a decoder is noted; neither the gather buffer nor a byte of a scratchpad changes. -/
theorem State.scrubMet_keeps (u : State) (t w : Nat) (d : Dec) :
    ((u.scrubMet t w d).tile t).gather = (u.tile t).gather ∧ ∀ j k, ((u.scrubMet t w d).tile j).byteAt k = (u.tile j).byteAt k := by
  unfold State.scrubMet
  split
  · obtain ⟨seen, hu⟩ := State.tile_spdUe u t w 4
    refine ⟨?_, fun j k => ?_⟩
    · rw [State.tile_modTile_same, hu]
    · rw [← State.byteAt_spdUe u t w 4 j k, State.tile_modTile]
      split
      · rename_i h; subst h; rfl
      · rfl
  · split
    · exact ⟨State.gather_spdCe u t w t, State.byteAt_spdCe u t w⟩
    · exact ⟨rfl, fun _ _ => rfl⟩

/-- A word whose fresh bit is clear and that is marked as poisoned reads uncorrectable. -/
theorem TileSt.bad_of_marked {x : TileSt} {w : Nat} (hf : x.fresh w = false) (seen : List (Nat × Nat)) (l : List Nat) :
    ({ x with poison := tset unmarked x.poison w true, ueSeen := seen, reload := l } : TileSt).bad w = true := by
  have hl : tget unmarked x.live w = true := by simpa [TileSt.fresh] using hf
  simp [TileSt.bad, hl]

theorem State.scrubMet_uncorrectable {u : State} {t w : Nat} (hf : (u.tile t).fresh w = false) :
    let v := u.scrubMet t w .uncorrectable
    v.on (F.tileSpdErrUeValid t) = true ∧ (v.tile t).bad w = true ∧
      ∀ i, i ∈ (v.tile t).reload ↔ i ∈ (u.tile t).reload ∨ u.loadedRegion t (8 * w) = some i := by
  obtain ⟨seen, hu⟩ := State.tile_spdUe u t w 4
  have he : u.scrubMet t w .uncorrectable =
      (u.spdUe t w 4).modTile t fun x => { x with reload := withRegion (u.loadedRegion t (8 * w)) x.reload } := if_pos (by simp)
  simp only [he, State.on_modTile, State.on_spdUe, State.tile_modTile_same, hu]
  exact ⟨trivial, TileSt.bad_of_marked hf _ _, mem_withRegion _ _⟩

/-! ## Time-out and write-back -/

theorem gatherTimeout_eq {s : State} {t ix : Nat} {g : Gather} (h : (s.tile t).gather[ix]? = some g) (errs : List SpdErr) :
    exec (.gatherTimeout t ix errs) s = .next (s.gatherFlush t g.word errs) := by
  show execGatherTimeout t ix errs s = _
  simp only [execGatherTimeout, h]

theorem spdCeWriteback_eq (s : State) (t w : Nat) :
    exec (.spdCeWriteback t w) s = .next (s.modTile t fun x => { x with ceWb := x.ceWb.filter fun v => decide (v ≠ w) }) := rfl

theorem spdScrub_eq (s : State) (t w : Nat) (dec : Dec) : exec (.spdScrub t w dec) s = .next (s.spdScrub t w dec) := rfl

/-! ## Scoreboard and watchdog -/

theorem scoreboardRetire_eq {s : State} {t k : Nat} {e : SbEntry} (h : (s.tile t).sb[k]? = some e) (hb : s.entryBusy t e = false) :
    exec (.scoreboardRetire t k) s = .next (((s.modTile t fun x => { x with sb := x.sb.eraseIdx k }).tryDone t).passEnd) := by
  show execScoreboardRetire t k s = _
  simp only [execScoreboardRetire, h, hb, Bool.false_eq_true, if_false]

theorem State.awaits_iff (s : State) (t : Nat) (e : SbEntry) :
    s.awaits t e = true ↔ e.owner ≠ 0 ∧ 0 < s.outstanding t (e.owner - 1) e.serial := by
  simp [State.awaits]

theorem tileWatchdogExpiry_eq {s : State} {t k : Nat} {e : SbEntry} (h : (s.tile t).sb[k]? = some e) (hr : s.running t = true) :
    exec (.tileWatchdogExpiry t k) s = .next (s.tileFault t ⟨if s.awaits t e then cSTALL else cWDOG, 4, e.base⟩ e.owner e.pc) := by
  show execTileWatchdogExpiry t k s = _
  simp only [execTileWatchdogExpiry, h, hr, if_true]

end Sys2Proof.Machine
end

section
open Sys2Proof Sys2Proof.Machine

/-- Settles O15, command by command: the scrubber's clauses rest on what it does with a word that is live. -/
theorem tileUpkeep : Obligations.TileUpkeep := by
  unfold Obligations.TileUpkeep
  refine fun s t errs => ⟨fun ix g hg => ?_, fun w => ?_, fun w dec h => ?_, fun w dec hon hf hw => ?_, fun w hon hf hb hw hg => ?_,
    fun w hon hf hw hg => ?_, fun k e he hb => ?_, fun k e he hr => ?_⟩
  · refine ⟨_, gatherTimeout_eq hg errs, State.gather_gatherFlush s t g.word errs, fun j k => ?_⟩
    rw [State.spdByte_eq, State.spdByte_eq, State.byteAt_gatherFlush]
  · refine ⟨_, spdCeWriteback_eq s t w, State.modTile_only s t _, ?_, fun u hu => ?_⟩ <;> rw [State.tile_modTile_same]
    · simp
    · simp [hu]
  · rw [spdScrub_eq]
    rcases h with hf | ⟨hb, rfl, hg⟩
    · rw [State.spdScrub_of_fresh hf]
    · rw [State.spdScrub_of_clean hb hg]
  · obtain ⟨hgather, hbytes⟩ := State.scrubMet_keeps (s.gatherFlush t w (decErrs dec w)) t w
      (if (s.tile t).gather.any fun g => decide (g.word = w) then .clean else dec)
    refine ⟨_, spdScrub_eq s t w dec, ?_, fun j k => ?_⟩
    · rw [State.spdScrub_of_live hon hf hw, hgather, State.gather_gatherFlush]
    · rw [State.spdByte_eq, State.spdByte_eq, State.spdScrub_of_live hon hf hw, hbytes, State.byteAt_gatherFlush]
  · refine ⟨_, spdScrub_eq s t w .corrected, ?_⟩
    have he : s.scrubMet t w .corrected = s.spdCe t w := by simp [State.scrubMet, hb]
    rw [State.spdScrub_of_no_entry hon hf hw hg, he]
    exact State.spdCe_noted s t w
  · refine ⟨_, spdScrub_eq s t w .uncorrectable, ?_⟩
    rw [State.spdScrub_of_no_entry hon hf hw hg]
    exact State.scrubMet_uncorrectable hf
  · exact scoreboardRetire_eq he hb
  · simp only [tileWatchdogExpiry_eq he hr, State.awaits_iff]

end

section
/-! What a bundle starts: sequences of the array and chains of the fetch engines (R66, R69, R70, R106, R117, R183). -/

namespace Sys2Proof.Machine

/-! ## Sequences -/

@[simp] theorem TileSt.sb_acceptSeq (x : TileSt) (d : List W64) :
    (x.acceptSeq d).sb = x.sb ++ entriesOf (sqRanges d) 0 x.serial x.pc := rfl

theorem TileSt.mtx_acceptSeq_of_idle {x : TileSt} (h : x.mtx.running = none) (d : List W64) :
    (x.acceptSeq d).mtx = { x.mtx with running := some ⟨d, x.serial, 0, 0, x.pc⟩ } := by
  simp [TileSt.acceptSeq, h]

theorem TileSt.mtx_acceptSeq_of_running {x : TileSt} {q : Seq} (h : x.mtx.running = some q) (d : List W64) :
    (x.acceptSeq d).mtx = { x.mtx with queued := some ⟨d, x.serial, 0, 0, x.pc⟩ } := by
  simp [TileSt.acceptSeq, h]

theorem matrixSequenceStart_of_turn {s u : State} {t : Nat} {errs : List SpdErr} {d : List W64} {hd : Option (List W64)}
    (h : s.slotTurn t 0 errs (·.mGo) = some (u, some d, hd)) :
    exec (.matrixSequenceStart t errs) s = .next ((u.modTile t fun x => x.acceptSeq d).slotDone t 0 (s.bundle t)) := by
  show execMatrixSequenceStart t errs s = _
  rw [execMatrixSequenceStart, State.issue_of_slotTurn _ _ _ _ _ _ h]

/-! ## Chains -/

@[simp] theorem TileSt.engine_setEngine (x : TileSt) (n : Nat) (e : Engine) : (x.setEngine n e).engine n = e := by
  by_cases h : n = 0 <;> simp [TileSt.setEngine, TileSt.engine, h]

@[simp] theorem TileSt.sb_setEngine (x : TileSt) (n : Nat) (e : Engine) : (x.setEngine n e).sb = x.sb := by
  by_cases h : n = 0 <;> simp [TileSt.setEngine, h]

/-- The chain that a head starts, before it has begun a descriptor. -/
def newChain (x : TileSt) (h : List W64) (head : Nat) (halted stopped : Bool) : Chain :=
  { serial := x.serial, head := head, nDesc := hdN h, hasRd := hdHasRd h, hasWr := hdHasWr h, rdBase := hdRdBase h,
    rdLenM1 := hdRdLen h, wrBase := hdWrBase h, wrLenM1 := hdWrLen h, cmplAddr := hdCmplAddr h, cmplEn := hdCmplEn h,
    next := 0, descs := [], status := 0, failDesc := 0xFF, done := 0, poison := false, mxNan := false, sparseLoss := false,
    halted := halted, stopped := stopped, pc := x.pc }

@[simp] theorem TileSt.sb_acceptChain (x : TileSt) (n : Nat) (h : List W64) (head : Nat) (halted stopped : Bool) :
    (x.acceptChain n h head halted stopped).sb = x.sb ++ entriesOf (hdRanges h) (n + 1) x.serial x.pc :=
  TileSt.sb_setEngine ..

/-- The engine runs the chain where none runs there; it queues it behind a running one, unless the chain may begin nothing. -/
theorem TileSt.engine_acceptChain (x : TileSt) (n : Nat) (h : List W64) (head : Nat) (halted stopped : Bool) :
    (x.acceptChain n h head halted stopped).engine n =
      if (x.engine n).running.isNone then ⟨some (newChain x h head halted stopped), (x.engine n).queued⟩
      else if halted || stopped then x.engine n else ⟨(x.engine n).running, some (newChain x h head halted stopped)⟩ :=
  TileSt.engine_setEngine ..

/-- A chain starts on its engine; where the tile has halted or a discard is under way it then ends as far as it is over. -/
theorem chainStart_of_turn {s u : State} {t : Nat} {errs : List SpdErr} {sq : Option (List W64)} {h : List W64}
    (ht : s.slotTurn t 1 errs (·.fStart) = some (u, sq, some h)) :
    let b := s.bundle t
    let halt := decide (u.rd (F.tileStatState t) = stHalt)
    let stop := decide (u.rd F.keepPassStatState = 3)
    let w := u.modTile t fun x => x.acceptChain b.fEngine h (fAddr x b) halt stop
    exec (.chainStart t errs) s = .next ((if halt || stop then w.endHalted t b.fEngine else w).slotDone t 1 b) := by
  show execChainStart t errs s = _
  rw [execChainStart, State.issue_of_slotTurn _ _ _ _ _ _ ht]

theorem fence_of_turn {s u : State} {t : Nat} {errs : List SpdErr} {sq hd : Option (List W64)}
    (h : s.slotTurn t 1 errs (fun b => b.fGo && decide (b.fOp = 2)) = some (u, sq, hd)) :
    exec (.fence t errs) s = .next (u.slotDone t 1 (s.bundle t)) := by
  show execFence t errs s = _
  rw [execFence, State.issue_of_slotTurn _ _ _ _ _ _ h]

end Sys2Proof.Machine
end

section
open Sys2Proof Sys2Proof.Machine

/-- Settles O10: each command acts in its turn, and accepting a sequence or a chain is one change of its tile. -/
theorem unitStarts : Obligations.UnitStarts := by
  unfold Obligations.UnitStarts
  refine fun s u t errs sq hd d h => ⟨fun ht => ?_, fun ht => ?_, fence_of_turn⟩
  · refine ⟨_, matrixSequenceStart_of_turn ht, State.modTile_only u t _, ?_⟩
    rw [State.tile_modTile_same]
    exact ⟨TileSt.sb_acceptSeq .., fun hr => TileSt.mtx_acceptSeq_of_idle hr d, fun q hr => TileSt.mtx_acceptSeq_of_running hr d⟩
  · intro halt discard stopped
    have hstop : (decide halt || decide discard) = true ↔ stopped := by simp [stopped]
    have hexec := chainStart_of_turn ht
    refine ⟨u.modTile t fun x => x.acceptChain (s.bundle t).fEngine h (fAddr x (s.bundle t)) (decide halt) (decide discard),
      newChain (u.tile t) h (fAddr (u.tile t) (s.bundle t)) (decide halt) (decide discard), State.modTile_only u t _,
      fun hs => ?_, fun hs => ?_, rfl, rfl, rfl, rfl, decide_eq_true_iff, decide_eq_true_iff, rfl, ?_⟩
    · exact hexec.trans (by rw [if_neg (mt hstop.mp hs)])
    · exact hexec.trans (by rw [if_pos (hstop.mpr hs)])
    · rw [State.tile_modTile_same, TileSt.engine_acceptChain]
      refine ⟨TileSt.sb_acceptChain .., fun hr => ?_, fun hr hs => ?_, fun hr hs => ?_⟩
      · rw [if_pos (by simp [hr])]
      · rw [if_neg (by simpa using hr), if_neg (mt hstop.mp hs)]
      · rw [if_neg (by simpa using hr), if_pos (hstop.mpr hs)]

end

section
/-! Blocks of the matrix array: their reads, their start, and the rows that leave (R57 to R59, R62, R64, R68, R69, R72). -/

namespace Sys2Proof.Machine

/-! ## Reads of a block -/

theorem TileSt.sameUnits.mtx_eq {x y : TileSt} (h : x.sameUnits y) : y.mtx = x.mtx := by
  rw [show y = _ from h]

theorem State.units_readWords (t : Nat) (errs : List SpdErr) (l : List Nat) (s : State) (j : Nat) :
    (s.tile j).sameUnits ((s.readWords t errs l).1.tile j) := by
  induction l generalizing s with
  | nil => exact TileSt.sameUnits_refl _
  | cons a l ih => exact TileSt.sameUnits_trans (State.units_spdRead ..) (ih _)

theorem State.units_blockReads (t : Nat) (d : List W64) (mb nb : Nat) (errs : List SpdErr) (n u : Nat) (s : State) (j : Nat) :
    (s.tile j).sameUnits ((s.blockReads t d mb nb errs n u).1.tile j) := by
  induction n generalizing s u with
  | zero => exact TileSt.sameUnits_refl _
  | succ n ih =>
    have hr := State.units_readWords t errs (cycleWords d mb nb u) s j
    simp only [State.blockReads]
    split
    · exact hr
    · split
      · exact hr
      · exact TileSt.sameUnits_trans hr (ih _ _)

/-- Reading a block leaves the array as it is. -/
theorem State.mtx_blockIn {s u : State} {t : Nat} {d : List W64} {mb nb : Nat} {errs : List SpdErr} {i : BlockIn} {p : Option BlockStop}
    (h : s.blockIn t d mb nb errs = (u, i, p)) : (u.tile t).mtx = (s.tile t).mtx := by
  have hu : (s.blockReads t d mb nb errs (sqSteps d + 7) 0).1 = u := congrArg Prod.fst h
  rw [← hu]
  exact (State.units_blockReads t d mb nb errs _ _ s t).mtx_eq

/-! ## The start of a block -/

theorem Mtx.full_of_few {m : Mtx} (h : m.blocks.length < 2) : m.full = false := by
  unfold Mtx.full
  match hb : m.blocks with
  | [] | [_] => rfl
  | _ :: _ :: _ => simp [hb] at h

theorem Mtx.full_of_last_rows {m : Mtx} {b c : Block} (hb : m.blocks = [b, c]) (h : b.rows.length ≤ 2) : m.full = false := by
  simp [Mtx.full, hb, h]

section
variable (m : Mtx) (q : Seq) (rows : List (List W32))

@[simp] theorem Mtx.set_start : (m.start q rows).set = 1 - m.set % 2 := by unfold Mtx.start; split <;> rfl
@[simp] theorem Mtx.curM_start : (m.start q rows).curM = q.mb := by unfold Mtx.start; split <;> rfl
@[simp] theorem Mtx.curN_start : (m.start q rows).curN = q.nb := by unfold Mtx.start; split <;> rfl
@[simp] theorem Mtx.halted_start : (m.start q rows).halted = m.halted := by unfold Mtx.start; split <;> rfl
@[simp] theorem Mtx.blocks_start :
    (m.start q rows).blocks = m.blocks ++ [⟨q.desc, q.serial, q.mb, q.nb, 1 - m.set % 2, q.pc, rows⟩] := by
  unfold Mtx.start; split <;> rfl

variable {m q}

theorem Mtx.running_start_of_next {q' : Seq} (h : q.advance = some q') : (m.start q rows).running = some q' := by
  simp [Mtx.start, h]

theorem Mtx.running_start_of_last (h : q.advance = none) :
    (m.start q rows).running = m.queued ∧ (m.start q rows).queued = none := by
  simp [Mtx.start, h]
end

/-! The blocks of a sequence go column by column of a row of blocks (R68). -/

theorem Seq.advance_column {q : Seq} (h : q.nb + 1 < sqN q.desc) : q.advance = some { q with nb := q.nb + 1 } := if_pos h

theorem Seq.advance_row {q : Seq} (hn : sqN q.desc ≤ q.nb + 1) (hm : q.mb + 1 < sqM q.desc) :
    q.advance = some { q with mb := q.mb + 1, nb := 0 } := by
  rw [Seq.advance, if_neg (by omega), if_pos hm]

theorem Seq.advance_last {q : Seq} (hn : sqN q.desc ≤ q.nb + 1) (hm : sqM q.desc ≤ q.mb + 1) : q.advance = none := by
  rw [Seq.advance, if_neg (by omega), if_neg (by omega)]

section
variable {s u : State} {t : Nat} {errs : List SpdErr} {q : Seq} {i : BlockIn} (hq : (s.tile t).mtx.running = some q)
  (hh : (s.tile t).mtx.halted = false) (hf : (s.tile t).mtx.full = false)
include hq hh hf

theorem blockStart_of_clean (hi : s.blockIn t q.desc q.mb q.nb errs = (u, i, none)) :
    exec (.blockStart t errs) s = .next ((u.bump Ev.mtxBusy (.tile t) (sqSteps q.desc)).modTile t fun x =>
      { x with mtx := x.mtx.start q (blockRows q.desc i) }) := by
  show execBlockStart t errs s = _
  simp only [execBlockStart, State.blockStart, hq, hh, hf, Bool.false_eq_true, or_self, if_false, hi]

theorem blockStart_of_stop {e : BlockStop} (hi : s.blockIn t q.desc q.mb q.nb errs = (u, i, some e)) :
    exec (.blockStart t errs) s = .next (((u.bump Ev.mtxBusy (.tile t) (min (sqSteps q.desc) (e.cycle + 1))).modTile t fun x =>
      { x with mtx := x.mtx.start q [] }).tileFault t ⟨e.cause, 4, e.addr⟩ 0 q.pc) := by
  show execBlockStart t errs s = _
  simp only [execBlockStart, State.blockStart, hq, hh, hf, Bool.false_eq_true, or_self, if_false, hi]

end

/-! ## The row that leaves -/

/-- The 17 values of the row of a block that leaves next, as a hardware fault may flip them. -/
def Block.leaving (b : Block) (upset : List W32) : List W32 :=
  (List.range 17).map fun i => ((b.rows.getD (b.rows.length - 1) []).getD i 0) ^^^ (upset.getD i 0)

/-- The tally check's verdict on it, were the check enabled. -/
def State.leavingTally (s : State) (t : Nat) (b : Block) (upset : List W32) : Tally :=
  tallyCheck (decide (fmtClass (sqAFmt b.desc) = 5)) (relShift (s.rd (F.tileTallyTolRelShift t))) (s.rd (F.tileTallyTolFloorExp t))
    ((b.leaving upset).take 16) ((b.leaving upset).getD 16 0)

theorem State.byteAt_modMtx (s : State) (t : Nat) (f : Mtx → Mtx) (j k : Nat) :
    ((s.modTile t fun x => { x with mtx := f x.mtx }).tile j).byteAt k = (s.tile j).byteAt k := by
  rw [State.tile_modTile]
  split
  · rename_i h; subst h; rfl
  · rfl

/-- The array's units are as they were after a row is written. -/
theorem State.units_writeRow (s : State) (t : Nat) (b : Block) (r : Nat) (row : List W32) (errs : List SpdErr) (j : Nat) :
    (s.tile j).sameUnits ((s.writeRow t b r row errs).tile j) := by
  unfold State.writeRow
  cases sqAdd b.desc
  · exact State.units_spdWrite ..
  · exact TileSt.sameUnits_trans (State.units_spdRead ..) (State.units_spdWrite ..)

/-- A row is written to its 64 bytes and nowhere else. -/
theorem State.byteAt_writeRow_out (s : State) (t : Nat) (b : Block) (r : Nat) (row : List W32) (errs : List SpdErr) {j k : Nat}
    (h : ¬(j = t ∧ rowAddr b r ≤ k ∧ k < rowAddr b r + 64)) : ((s.writeRow t b r row errs).tile j).byteAt k = (s.tile j).byteAt k := by
  unfold State.writeRow
  cases sqAdd b.desc
  · exact (State.byteAt_spdWrite ..).trans (if_neg (by simpa using h))
  · exact ((State.byteAt_spdWrite ..).trans (if_neg (by simpa using h))).trans (State.byteAt_spdRead ..)

/-- A row that replaces what stood there is stored word by word, little-endian (R59). -/
theorem State.byteAt_writeRow (s : State) (t : Nat) {b : Block} (hadd : sqAdd b.desc = false) (r : Nat) (row : List W32)
    (errs : List SpdErr) {i : Nat} (h : i < 64) :
    ((s.writeRow t b r row errs).tile t).byteAt (rowAddr b r + i) = BitVec.ofNat 8 ((row.getD (i / 4) 0).toNat / 256 ^ (i % 4)) := by
  have hi : i / 4 < 16 := by omega
  have hp : (2 : Nat) ^ (8 * (i % 4)) = 256 ^ (i % 4) := by rw [Nat.pow_mul]
  unfold State.writeRow
  simp only [hadd, Bool.false_eq_true, if_false]
  rw [State.byteAt_spdWrite, List.length_map, List.length_range, if_pos ⟨rfl, by omega, by omega⟩, Nat.add_sub_cancel_left]
  simp [List.getD_eq_getElem?_getD, h, hi, hp]

section
variable {s : State} {t : Nat} {b : Block} {bs : List Block} (hb : (s.tile t).mtx.blocks = b :: bs) (upset : List W32) (errs : List SpdErr)
include hb

/-- A row that the check lets pass, or that is not checked, is written and dropped; before that no tile changes. -/
theorem rowDrain_of_pass (h : ¬(s.on (F.tileTallyTolEnable t) = true ∧ s.leavingTally t b upset = .fail)) :
    ∃ u : State, u.tiles = s.tiles ∧ exec (.rowDrain t upset errs) s =
      .next ((u.writeRow t b (b.rows.length - 1) ((b.leaving upset).take 16) errs).modTile t fun x => { x with mtx := x.mtx.dropRow }) := by
  refine ⟨if s.on (F.tileTallyTolEnable t) = true ∧ s.leavingTally t b upset = .skip then s.bump Ev.tallySkip (.tile t) 1 else s, ?_, ?_⟩
  · split <;> rfl
  · show execRowDrain t upset errs s = _
    simp only [State.leavingTally, Block.leaving] at h ⊢
    cases hon : s.on (F.tileTallyTolEnable t)
    · simp [execRowDrain, State.rowDrain, hb, hon]
    · simp only [hon, true_and] at h
      simp only [execRowDrain, State.rowDrain, hb, hon, if_true, Option.some.injEq, h, if_false, true_and]

/-- A row that fails is recorded, and the tile takes the fault. -/
theorem rowDrain_of_fail (hon : s.on (F.tileTallyTolEnable t) = true) (h : s.leavingTally t b upset = .fail) :
    exec (.rowDrain t upset errs) s = .next (((s.bump Ev.tallyFault (.tile t) 1).record (F.tileTallyLogValid t) (F.tileTallyLogMulti t)
      [(F.tileTallyLogRow t, b.rows.length - 1), (F.tileTallyLogBlockM t, b.mb), (F.tileTallyLogBlockN t, b.nb), (F.tileTallyLogEpoch t, s.epoch)]).tileFault
        t ⟨cTALLY, 4, 0⟩ 0 b.pc) := by
  show execRowDrain t upset errs s = _
  simp only [State.leavingTally, Block.leaving] at h
  simp only [execRowDrain, State.rowDrain, hb, hon, if_true, h]

end

theorem State.recorded_tallyLog (s : State) (t row m n e : Nat) :
    recorded s (s.record (F.tileTallyLogValid t) (F.tileTallyLogMulti t)
      [(F.tileTallyLogRow t, row), (F.tileTallyLogBlockM t, m), (F.tileTallyLogBlockN t, n), (F.tileTallyLogEpoch t, e)])
      (F.tileTallyLogValid t) (F.tileTallyLogMulti t)
      [(F.tileTallyLogRow t, row), (F.tileTallyLogBlockM t, m), (F.tileTallyLogBlockN t, n), (F.tileTallyLogEpoch t, e)] :=
  State.recorded_record s rfl rfl
    (by simp [F.tileTallyLogValid, F.tileTallyLogMulti, F.tileTallyLogRow, F.tileTallyLogBlockM, F.tileTallyLogBlockN, F.tileTallyLogEpoch])
    (by simp [Fld.apart, F.tileTallyLogValid, F.tileTallyLogMulti, F.tileTallyLogRow, F.tileTallyLogBlockM, F.tileTallyLogBlockN,
      F.tileTallyLogEpoch])

end Sys2Proof.Machine
end

section
open Sys2Proof Sys2Proof.Machine

/-- Settles O11: a block's reads leave the array as it is, `Mtx.start` says where the sequence goes, and a row's write is confined to its 64 bytes. -/
theorem matrixBlocks : Obligations.MatrixBlocks := by
  unfold Obligations.MatrixBlocks
  refine fun s t upset errs => ⟨Mtx.full_of_few, fun b c hb h => Mtx.full_of_last_rows hb h, fun q u i hq hh hf hi => ?_,
    fun q u i e hq hh hf hi => ?_, fun b bs hb => ⟨fun hv => ?_, fun hon hv => ?_⟩⟩
  · have hm := State.mtx_blockIn hi
    refine ⟨_, blockStart_of_clean hq hh hf hi, State.modTile_only _ t _, ?_⟩
    simp only [State.tile_modTile_same, State.tile_bump, hm, Mtx.set_start, Mtx.halted_start, Mtx.blocks_start, hh, true_and]
    exact ⟨fun hn => Mtx.running_start_of_next _ (Seq.advance_column hn), fun hn hl => Mtx.running_start_of_next _ (Seq.advance_row hn hl),
      fun hn hl => Mtx.running_start_of_last _ (Seq.advance_last hn hl)⟩
  · have hm := State.mtx_blockIn hi
    refine ⟨_, _, blockStart_of_stop hq hh hf hi, rfl, State.modTile_only _ t _, ?_⟩
    simp only [State.tile_modTile_same, State.tile_bump, hm, Mtx.set_start, Mtx.curM_start, Mtx.curN_start, true_and]
  · obtain ⟨u, hu, hexec⟩ := rowDrain_of_pass hb upset errs hv
    have htile (k : Nat) : u.tile k = s.tile k := by simp only [State.tile, hu]
    refine ⟨_, hexec, ?_, fun j k hk => ?_, fun hadd i hi => ?_⟩
    · rw [State.tile_modTile_same, (State.units_writeRow ..).mtx_eq, htile]
    · rw [State.spdByte_eq, State.spdByte_eq, State.byteAt_modMtx, State.byteAt_writeRow_out _ _ _ _ _ _ hk, htile]
    · rw [State.spdByte_eq, State.byteAt_modMtx, State.byteAt_writeRow _ _ hadd _ _ _ hi, List.getD_eq_getElem?_getD,
        List.getElem?_take_of_lt (by omega), ← List.getD_eq_getElem?_getD]
      rfl
  · have hlog := State.recorded_tallyLog (s.bump Ev.tallyFault (.tile t) 1) t (b.rows.length - 1) b.mb b.nb s.epoch
    obtain ⟨hvalid, hfresh, -⟩ := hlog
    refine ⟨_, _, rowDrain_of_fail hb upset errs hon hv, rfl, hvalid, fun hoff => ?_⟩
    obtain ⟨-, hfields⟩ := hfresh hoff
    exact ⟨hfields (F.tileTallyLogRow t, b.rows.length - 1) (by simp), hfields (F.tileTallyLogBlockM t, b.mb) (by simp)⟩

end

section
/-! What a vector operation leaves: the lanes it writes, the flags it raises, the generator (R89, R94, R107, R114). -/

namespace Sys2Proof.Machine

/-! ## Changes of registers and of one tile, one after another -/

theorem onlyRegs.trans {u v w : State} {as bs : List Nat} (h : onlyRegs u v as) (h' : onlyRegs v w bs) : onlyRegs u w (as ++ bs) := by
  obtain ⟨hv, hvr⟩ := h
  obtain ⟨hw, hwr⟩ := h'
  refine ⟨by rw [hw, hv], fun a ha => ?_⟩
  simp only [List.mem_append, not_or] at ha
  exact (hwr a ha.2).trans (hvr a ha.1)

theorem onlyRegs.andTile {u v w : State} {t : Nat} {as : List Nat} (h : onlyRegs u v as) (h' : onlyTile v w t) : onlyTileRegs u w t as := by
  obtain ⟨hv, hvr⟩ := h
  obtain ⟨hw, hwt⟩ := h'
  have htiles : u.tiles = v.tiles := by rw [hv]
  refine ⟨by rw [hw, hv], fun k hk => ?_, fun a ha => ?_⟩
  · rw [hwt k hk, State.tile, State.tile, htiles]
  · rw [hw]; exact hvr a ha

/-! ## Lanes of a vector register -/

/-- The entries from `base` on that `sel` selects take the new values. -/
theorem tget_foldl_tset_range {α : Type} [DecidableEq α] (d : Nat → α) (base : Nat) (sel : Nat → Bool) (new : Nat → α) (m : List (Nat × α))
    (n k : Nat) :
    tget d ((List.range n).foldl (fun m l => if sel l then tset d m (base + l) (new l) else m) m) k =
      if base ≤ k ∧ k < base + n ∧ sel (k - base) = true then new (k - base) else tget d m k := by
  induction n with
  | zero => rw [if_neg (by omega)]; rfl
  | succ n ih =>
    rw [List.range_succ, List.foldl_append, List.foldl_cons, List.foldl_nil]
    by_cases hk : k = base + n
    · subst hk
      have hout : ¬(base ≤ base + n ∧ base + n < base + n ∧ sel (base + n - base) = true) := by omega
      rw [if_neg hout] at ih
      cases hs : sel n <;> simp [hs, ih]
    · have hin : k < base + (n + 1) ↔ k < base + n := by omega
      simp only [hin, ← ih]
      split
      · exact tget_tset_ne d _ _ _ hk
      · rfl

/-- A lane after a write of lanes of register `v`. -/
theorem TileSt.lane_putLanes (x : TileSt) (v : Nat) (sel : Nat → Bool) (new : List W32) (r : Nat) {l : Nat} (hl : l < 64) :
    (x.putLanes v sel new).lane r l = if r = v ∧ sel l = true then new.getD l 0 else x.lane r l := by
  refine (tget_foldl_tset_range (fun _ => 0) (64 * v) sel (fun l => new.getD l 0) x.vregs 64 (64 * r + l)).trans ?_
  by_cases hr : r = v
  · subst hr
    have hlo : 64 * r ≤ 64 * r + l := by omega
    have hhi : 64 * r + l < 64 * r + 64 := by omega
    simp only [hlo, hhi, true_and, Nat.add_sub_cancel_left]; rfl
  · rw [if_neg (by omega), if_neg (by tauto)]; rfl

theorem TileSt.putLanes_keeps (x : TileSt) (v : Nat) (sel : Nat → Bool) (new : List W32) :
    x.putLanes v sel new = { x with vregs := (x.putLanes v sel new).vregs } := rfl

theorem getD_map_range {α : Type} (f : Nat → α) (d : α) {n l : Nat} (h : l < n) : ((List.range n).map f).getD l d = f l := by
  simp [List.getD_eq_getElem?_getD, h]

/-! ## Flags -/

/-- The union of the flags of the selected lanes. -/
def laneFlags (sel : Nat → Bool) (fl : Nat → Nat) : Nat := (List.range 64).foldl (fun a l => if sel l then a ||| fl l else a) 0

theorem testBit_foldl_or {β : Type} (p : β → Bool) (g : β → Nat) (l : List β) (a i : Nat) :
    (l.foldl (fun a x => if p x then a ||| g x else a) a).testBit i = (a.testBit i || l.any fun x => p x && (g x).testBit i) := by
  induction l generalizing a with
  | nil => simp
  | cons x l ih =>
    rw [List.foldl_cons, ih, List.any_cons]
    cases p x <;> simp [Bool.or_assoc]

theorem testBit_laneFlags {sel : Nat → Bool} {fl : Nat → Nat} (i : Nat) :
    (laneFlags sel fl).testBit i = (List.range 64).any fun l => sel l && (fl l).testBit i := by
  rw [laneFlags, testBit_foldl_or, Nat.zero_testBit, Bool.false_or]

/-- The flags that a vector operation collects from the results of its 64 lanes. -/
theorem foldl_getD_eq_laneFlags {α : Type} (sel : Nat → Bool) (f : Nat → α) (d : α) (fl : α → Nat) :
    (List.range 64).foldl (fun a l => if sel l then a ||| fl (((List.range 64).map f).getD l d) else a) 0 = laneFlags sel fun l => fl (f l) :=
  List.foldl_ext _ _ _ fun a l hl => by rw [getD_map_range f d (List.mem_range.mp hl)]

/-- The same where each lane has two results. -/
theorem foldl_getD_or_eq_laneFlags (sel : Nat → Bool) (f g : Nat → LRes) :
    (List.range 64).foldl (fun a l => if sel l then a ||| (((List.range 64).map f).getD l ⟨0, 0⟩).fl |||
      (((List.range 64).map g).getD l ⟨0, 0⟩).fl else a) 0 = laneFlags sel fun l => (g l).fl ||| (f l).fl :=
  List.foldl_ext _ _ _ fun a l hl => by
    have hl := List.mem_range.mp hl
    rw [getD_map_range f _ hl, getD_map_range g _ hl, Nat.or_assoc, Nat.or_comm (f l).fl]

/-! ## The end of a vector operation -/

/-- Flags are raised, the generator advances if it was used, and the tile changes by `f`. -/
def State.vecEnd (s : State) (t fl : Nat) (used : Bool) (f : TileSt → TileSt) : State := ((s.raise t fl).srAdvance t used).modTile t f

variable (s : State) (t fl : Nat) (used : Bool) (f : TileSt → TileSt)

theorem State.raise_only : onlyRegs s (s.raise t fl) [R.tileFpFlags t] :=
  ⟨rfl, fun _ ha => State.reg_setReg_ne s _ (by simpa using ha)⟩

theorem State.srAdvance_only : onlyRegs s (s.srAdvance t used) [R.tileSrState t] := by
  unfold State.srAdvance
  split
  · exact ⟨rfl, fun _ ha => State.reg_wr_ne s _ _ (by simpa [F.tileSrStateState] using ha)⟩
  · exact ⟨rfl, fun _ _ => rfl⟩

theorem State.vecEnd_only : onlyTileRegs s (s.vecEnd t fl used f) t [R.tileFpFlags t, R.tileSrState t] :=
  ((State.raise_only s t fl).trans (State.srAdvance_only _ t used)).andTile (State.modTile_only _ t f)

/-- An operation that does not round leaves the generator's register too. -/
theorem State.vecEnd_only_flags : onlyTileRegs s (s.vecEnd t fl false f) t [R.tileFpFlags t] :=
  (State.raise_only s t fl).andTile (State.modTile_only _ t f)

@[simp] theorem State.tile_raise (k : Nat) : (s.raise t fl).tile k = s.tile k := rfl

@[simp] theorem State.tile_srAdvance (k : Nat) : (s.srAdvance t used).tile k = s.tile k := by
  unfold State.srAdvance; split <;> rfl

@[simp] theorem State.tile_vecEnd : (s.vecEnd t fl used f).tile t = f (s.tile t) := by
  rw [State.vecEnd, State.tile_modTile_same, State.tile_srAdvance, State.tile_raise]

@[simp] theorem State.srState_raise : (s.raise t fl).srState t = s.srState t := by
  rw [State.srState, State.srState, State.rd, State.rd, State.raise, State.reg_setReg_ne]
  simp [F.tileSrStateState, R.tileSrState, R.tileFpFlags]

theorem State.srState_srAdvance : (s.srAdvance t used).srState t = if used then srNext (s.srState t) else s.srState t := by
  cases used with
  | false => rfl
  | true =>
    show BitVec.ofNat 32 ((s.wr (F.tileSrStateState t) (srNext (s.srState t)).toNat).rd (F.tileSrStateState t)) = srNext (s.srState t)
    rw [State.rd_wr_same _ _ _ (by simp [F.tileSrStateState])]
    exact BitVec.eq_of_toNat_eq ((Nat.mod_mod _ _).trans (Nat.mod_eq_of_lt (srNext (s.srState t)).isLt))

/-- Where `f` changes vector registers only, so does the operation. -/
theorem State.vecEnd_keeps (h : f (s.tile t) = { s.tile t with vregs := (f (s.tile t)).vregs }) :
    (s.vecEnd t fl used f).tile t = { s.tile t with vregs := ((s.vecEnd t fl used f).tile t).vregs } := by
  rw [State.tile_vecEnd]; exact h

theorem State.srState_vecEnd (p : Prop) [Decidable p] :
    (s.vecEnd t fl (decide p) f).srState t = if p then srNext (s.srState t) else s.srState t := by
  show ((s.raise t fl).srAdvance t (decide p)).srState t = _
  simp only [State.srState_srAdvance, State.srState_raise, decide_eq_true_eq]

theorem State.flags_vecEnd : (s.vecEnd t fl used f).reg (R.tileFpFlags t) = s.reg (R.tileFpFlags t) ||| BitVec.ofNat 64 (fl % 64) := by
  obtain ⟨-, hregs⟩ := State.srAdvance_only (s.raise t fl) t used
  show ((s.raise t fl).srAdvance t used).reg (R.tileFpFlags t) = _
  rw [hregs _ (by simp [R.tileSrState, R.tileFpFlags]), State.raise, State.reg_setReg_same]

variable {s t fl used f}

/-- The flags raised, bit by bit. -/
theorem State.flagsRaised_vecEnd {sel : Nat → Bool} {g : Nat → Nat} (h : ∀ i, fl.testBit i = (List.range 64).any fun l => sel l && (g l).testBit i) :
    flagsRaised s (s.vecEnd t fl used f) t sel g := by
  intro i
  have h64 : (fl % 64).testBit i = (decide (i < 6) && fl.testBit i) := Nat.testBit_mod_two_pow fl 6 i
  rw [State.flags_vecEnd, BitVec.getLsbD_or, BitVec.getLsbD_ofNat, h64, ← h]
  by_cases hi : i < 6
  · have : i < 64 := by omega
    simp [hi, this]
  · simp [hi]

/-- A vector operation in its turn. -/
theorem State.vector_of_turn {u : State} {errs : List SpdErr} {is : Bundle → Bool} {sq hd : Option (List W64)}
    (h : s.slotTurn t 2 errs is = some (u, sq, hd)) (act : Bundle → State → State) :
    s.vector t errs is act = (act (s.bundle t) u).slotDone t 2 (s.bundle t) :=
  State.issue_of_slotTurn _ _ _ _ _ _ h


/-! ## Operations lane by lane -/

/-- The end of an operation with one result for each lane. -/
def State.laneEnd (s : State) (t vd : Nat) (sel : Nat → Bool) (used : Bool) (rs : Nat → LRes) : State :=
  s.vecEnd t (laneFlags sel fun l => (rs l).fl) used fun x => x.putLanes vd sel ((List.range 64).map fun l => (rs l).v)

section
variable (s t) (vd : Nat) (sel : Nat → Bool) (used) (rs : Nat → LRes)

theorem State.tile_laneEnd :
    (s.laneEnd t vd sel used rs).tile t = (s.tile t).putLanes vd sel ((List.range 64).map fun l => (rs l).v) :=
  State.tile_vecEnd ..

theorem State.laneEnd_keeps :
    (s.laneEnd t vd sel used rs).tile t = { s.tile t with vregs := ((s.laneEnd t vd sel used rs).tile t).vregs } :=
  State.vecEnd_keeps _ _ _ _ _ (TileSt.putLanes_keeps ..)

variable {s t vd sel used rs}

theorem State.lanesSet_laneEnd : lanesSet s (s.laneEnd t vd sel used rs) t vd sel fun l => (rs l).v := by
  intro r l hl
  rw [State.tile_laneEnd, TileSt.lane_putLanes _ _ _ _ _ hl, getD_map_range _ _ hl]

theorem State.flagsRaised_laneEnd : flagsRaised s (s.laneEnd t vd sel used rs) t sel fun l => (rs l).fl :=
  State.flagsRaised_vecEnd testBit_laneFlags

theorem State.laneOp_laneEnd : laneOp s (s.laneEnd t vd sel false rs) t vd sel rs :=
  ⟨State.vecEnd_only_flags .., State.laneEnd_keeps .., State.lanesSet_laneEnd, State.flagsRaised_laneEnd⟩

end

section
variable {u : State} {v : VC} {errs : List SpdErr} {sq hd : Option (List W64)}

theorem State.lanes_of_turn {op : Nat} (h : s.slotTurn t 2 errs (isVC op v) = some (u, sq, hd)) (g : TileSt → Nat → LRes) :
    s.lanes t op v errs g =
      (u.laneEnd t v.vd.toNat ((u.tile t).lanesOn v.mask.toNat) false (g (u.tile t))).slotDone t 2 (s.bundle t) := by
  rw [State.lanes, State.vector_of_turn h]
  simp only [foldl_getD_eq_laneFlags _ _ _ LRes.fl, List.map_map]
  rfl

/-- What a lane-by-lane operation does in its turn. -/
theorem lanes_laneOp {op : Nat} (h : s.slotTurn t 2 errs (isVC op v) = some (u, sq, hd)) (g : TileSt → Nat → LRes) :
    ∃ w : State, (.next (s.lanes t op v errs g) : Host.Outcome State Fault Refusal) = .next (w.slotDone t 2 (s.bundle t)) ∧
      laneOp u w t v.vd.toNat ((u.tile t).lanesOn v.mask.toNat) (g (u.tile t)) :=
  ⟨_, congrArg _ (State.lanes_of_turn h g), State.laneOp_laneEnd ..⟩

end

end Sys2Proof.Machine
end

section
/-! The conversions of the vector slot in their turn, and the lanes that VMXP packs (R91, R92, R94, R97, R114, R115). -/

namespace Sys2Proof.Machine

section
variable {s u : State} {t : Nat} {v : VC} {errs : List SpdErr} {sq hd : Option (List W64)}

/-! ## Rounding modes (R91, R94) -/

/-- The rounding of an element slot by a conversion that may round stochastically. -/
def State.roundAt (u : State) (t : Nat) (v : VC) (slot : Nat) : Round :=
  if u.cvtCode t v.rnd.toNat = 2 then .rtz else if u.cvtCode t v.rnd.toNat = 1 then .sr (srRho (u.srState t) slot) else .rne

theorem modeOf_stochastic (u : State) (t : Nat) (v : VC) (slot : Nat) :
    modeOf (u.cvtCode t v.rnd.toNat) true (u.srState t) slot = u.roundAt t v slot := by
  simp only [modeOf, State.roundAt, and_true]

theorem modeOf_nearest (code : Nat) (st : W32) (slot : Nat) : modeOf code false st slot = if code = 2 then .rtz else .rne := by
  simp [modeOf]

/-- A conversion that never rounds stochastically. -/
theorem vcvtf_eq (s : State) (t : Nat) (v : VC) (errs : List SpdErr) :
    exec (.vcvtf t v errs) s = .next (s.lanes t 21 v errs fun x l =>
      .of (fmtFp32.convert (if s.cvtCode t v.rnd.toNat = 2 then .rtz else .rne) true (FVal.ofSigned (x.lane v.va.toNat l).toInt))) := by
  show execVcvtf t v errs s = _
  rw [execVcvtf, modeOf_nearest]

theorem vcvti_eq (s : State) (t : Nat) (v : VC) (errs : List SpdErr) :
    exec (.vcvti t v errs) s = .next (s.lanes t 22 v errs fun x l =>
      .of (toInt 32 (if s.cvtCode t v.rnd.toNat = 2 then .rtz else .rne) (fmtFp32.decode (x.lane v.va.toNat l).toNat))) := by
  show execVcvti t v errs s = _
  rw [execVcvti, modeOf_nearest]

/-! ## VPKB and VUPK -/

theorem LRes.pack_eq (lo hi : FRes) : LRes.pack lo hi = ⟨BitVec.ofNat 32 (lo.bits + 2 ^ 16 * hi.bits), lo.flags ||| hi.flags⟩ := by
  rw [LRes.pack, Nat.mul_comm]

/-- A lane of register `r` rounded to BF16 in an element slot. -/
def State.narrowed (u : State) (t : Nat) (v : VC) (r l slot : Nat) : FRes :=
  fmtBf16.convert (u.roundAt t v slot) (u.cvtSat t v.sat.toNat) (fmtFp32.decode ((u.tile t).lane r l).toNat)

theorem vpkb_of_turn (h : s.slotTurn t 2 errs (isVC 23 v) = some (u, sq, hd)) :
    exec (.vpkb t v errs) s =
      .next ((u.laneEnd t v.vd.toNat ((u.tile t).lanesOn v.mask.toNat) (decide (u.cvtCode t v.rnd.toNat = 1)) fun l =>
        let lo := u.narrowed t v v.va.toNat l l
        let hi := u.narrowed t v v.vb.toNat l (64 + l)
        ⟨BitVec.ofNat 32 (lo.bits + 2 ^ 16 * hi.bits), lo.flags ||| hi.flags⟩).slotDone t 2 (s.bundle t)) := by
  show execVpkb t v errs s = _
  rw [execVpkb, State.vector_of_turn h]
  simp only [modeOf_stochastic, foldl_getD_eq_laneFlags _ _ _ LRes.fl, List.map_map, LRes.pack_eq]
  rfl

/-- A half of a lane of va, widened. -/
def State.widened (u : State) (t : Nat) (v : VC) (half : W32 → Nat) (l : Nat) : FRes := widen fmtBf16 (half ((u.tile t).lane v.va.toNat l))

theorem vupk_of_turn (h : s.slotTurn t 2 errs (isVC 24 v) = some (u, sq, hd)) :
    let sel := (u.tile t).lanesOn v.mask.toNat
    let lo := u.widened t v lo16
    let hi := u.widened t v hi16
    exec (.vupk t v errs) s =
      .next ((u.vecEnd t (laneFlags sel fun l => (hi l).flags ||| (lo l).flags) false fun x =>
        (x.putLanes v.vd.toNat sel ((List.range 64).map fun l => BitVec.ofNat 32 (lo l).bits)).putLanes v.vb.toNat sel
          ((List.range 64).map fun l => BitVec.ofNat 32 (hi l).bits)).slotDone t 2 (s.bundle t)) := by
  intro sel lo hi
  show execVupk t v errs s = _
  rw [execVupk, State.vector_of_turn h]
  simp only [foldl_getD_or_eq_laneFlags, List.map_map]
  rfl

end

/-! ## VMXP: the packed elements (R97, R115) -/

theorem length_mxPack (code : Nat) {rs : List Round} {vs : List FVal} (h : rs.length = vs.length) : (mxPack code rs vs).2.length = vs.length := by
  unfold mxPack
  split
  · simp
  · split <;> simp [h]

/-- Elements of `eb` bits one after another, the first the lowest. -/
def packedBits (eb : Nat) (es : List FRes) : Nat := (es.map (·.bits)).foldr (fun e a => e % 2 ^ eb + a * 2 ^ eb) 0

theorem packedBits_eq_ofDigits (eb : Nat) (es : List FRes) : packedBits eb es = Nat.ofDigits (2 ^ eb) (es.map fun r => r.bits % 2 ^ eb) := by
  induction es with
  | nil => rfl
  | cons e es ih => rw [List.map_cons, Nat.ofDigits_cons, ← ih, Nat.mul_comm]; rfl

theorem bits_lt_of_mem {eb : Nat} {es : List FRes} : ∀ d ∈ es.map fun r => r.bits % 2 ^ eb, d < 2 ^ eb := by
  intro d hd
  obtain ⟨r, -, rfl⟩ := List.mem_map.mp hd
  exact Nat.mod_lt _ (Nat.two_pow_pos eb)

theorem packedBits_lt {eb : Nat} (heb : 0 < eb) (es : List FRes) : packedBits eb es < 2 ^ (eb * es.length) := by
  have h := Nat.ofDigits_lt_base_pow_length (Nat.one_lt_two_pow heb.ne') (bits_lt_of_mem (eb := eb) (es := es))
  rwa [← packedBits_eq_ofDigits, List.length_map, ← pow_mul] at h

/-- An element in its place. -/
theorem bf_packedBits (eb : Nat) {es : List FRes} {j : Nat} (hj : j < es.length) :
    bf (packedBits eb es) (j * eb) eb = (es.getD j ⟨0, 0⟩).bits % 2 ^ eb := by
  have hdrop := Nat.ofDigits_div_pow_eq_ofDigits_drop j (Nat.two_pow_pos eb) (es.map fun r => r.bits % 2 ^ eb) bits_lt_of_mem
  rw [bf, Nat.mul_comm j, pow_mul, packedBits_eq_ofDigits, hdrop, List.drop_eq_getElem_cons (by simpa using hj), Nat.ofDigits_cons,
    Nat.add_mul_mod_self_left, List.getElem_map, Nat.mod_mod, List.getD_eq_getElem _ _ hj]

/-- The lanes that VMXP writes: the packed elements, and both scales in the last lane. -/
def mxLanes (eb : Nat) (b0 b1 : Nat × List FRes) : List W32 :=
  (List.range 63).map (fun l => BitVec.ofNat 32 (packedBits eb (b0.2 ++ b1.2) / 2 ^ (32 * l))) ++ [BitVec.ofNat 32 (b0.1 + b1.1 * 256)]

/-- The flags that VMXP raises. -/
def mxFlags (b0 b1 : Nat × List FRes) : Nat :=
  orFlags b0.2 ||| orFlags b1.2 ||| (if decide (b0.1 = 0xFF) || decide (b1.1 = 0xFF) then flMxNan else 0)

section
variable {b0 b1 : Nat × List FRes}

theorem toNat_mxLanes (eb : Nat) {l : Nat} (hl : l < 63) : ((mxLanes eb b0 b1).getD l 0).toNat = packedBits eb (b0.2 ++ b1.2) / 2 ^ (32 * l) % 2 ^ 32 := by
  rw [mxLanes, List.getD_append _ _ _ _ (by simpa using hl), getD_map_range _ _ hl, BitVec.toNat_ofNat]

theorem toNat_mxLanes_scales (eb : Nat) : ((mxLanes eb b0 b1).getD 63 0).toNat = (b0.1 + b1.1 * 256) % 2 ^ 32 := by
  rw [mxLanes, List.getD_append_right _ _ _ _ (by simp)]
  simp

variable (hlen : (b0.2 ++ b1.2).length = 64)
include hlen

/-- Elements do not straddle lanes, so each is a field of one lane. -/
theorem bf_mxLanes {eb : Nat} (heb : eb = 4 ∨ eb = 8) {j : Nat} (hj : j < 64) :
    bf ((mxLanes eb b0 b1).getD (j * eb / 32) 0).toNat (j * eb % 32) eb = ((b0.2 ++ b1.2).getD j ⟨0, 0⟩).bits % 2 ^ eb := by
  have hlane : j * eb / 32 < 63 := by obtain rfl | rfl := heb <;> omega
  have hin : j * eb % 32 + eb ≤ 32 := by obtain rfl | rfl := heb <;> omega
  rw [toNat_mxLanes eb hlane, bf_mod _ _ _ _ hin, bf, Nat.div_div_eq_div_mul, ← pow_add, Nat.div_add_mod]
  exact bf_packedBits eb (by omega)

theorem mxLanes_rest {eb : Nat} (heb : 0 < eb) {l : Nat} (h : 2 * eb ≤ l) (hl : l < 63) : ((mxLanes eb b0 b1).getD l 0).toNat = 0 := by
  have hlt := packedBits_lt heb (b0.2 ++ b1.2)
  rw [hlen] at hlt
  rw [toNat_mxLanes eb hl, Nat.div_eq_of_lt (hlt.trans_le (Nat.pow_le_pow_right Nat.two_pos (by omega))), Nat.zero_mod]

end

theorem testBit_orFlags (rs : List FRes) (i : Nat) : (orFlags rs).testBit i = rs.any fun r => r.flags.testBit i := by
  have h := testBit_foldl_or (fun _ => true) (·.flags) rs 0 i
  simpa [orFlags] using h

theorem any_eq_any_range {α : Type} (l : List α) (d : α) (p : α → Bool) : l.any p = (List.range l.length).any fun k => p (l.getD k d) := by
  have h : l = (List.range l.length).map fun k => l.getD k d :=
    List.ext_getElem (by simp) fun k hk _ => by simp [List.getD_eq_getElem?_getD, hk]
  conv_lhs => rw [h]
  rw [List.any_map]; rfl

theorem testBit_mxFlags {b0 b1 : Nat × List FRes} (hlen : (b0.2 ++ b1.2).length = 64) (i : Nat) :
    (mxFlags b0 b1).testBit i = (List.range 64).any fun l => true &&
      (((b0.2 ++ b1.2).getD l ⟨0, 0⟩).flags ||| (if b0.1 = 0xFF ∨ b1.1 = 0xFF then flMxNan else 0)).testBit i := by
  have helems : ((orFlags b0.2).testBit i || (orFlags b1.2).testBit i) =
      (List.range 64).any fun l => ((b0.2 ++ b1.2).getD l ⟨0, 0⟩).flags.testBit i := by
    rw [testBit_orFlags, testBit_orFlags, ← List.any_append, any_eq_any_range _ ⟨0, 0⟩, hlen]
  simp only [mxFlags, Nat.testBit_or, helems, Bool.or_eq_true, decide_eq_true_eq, Bool.true_and]
  generalize Nat.testBit (if b0.1 = 0xFF ∨ b1.1 = 0xFF then flMxNan else 0) i = nan
  cases nan with
  | false => simp only [Bool.or_false]
  | true => simp only [Bool.or_true]; rfl

section
variable {s u : State} {t : Nat} {v : VC} {errs : List SpdErr} {sq hd : Option (List W64)}

/-- Block `k` of VMXP's two. -/
def State.mxBlock (u : State) (t : Nat) (v : VC) (k : Nat) : Nat × List FRes :=
  mxPack v.vb.toNat ((List.range 32).map fun i => u.roundAt t v (32 * k + i))
    ((List.range 32).map fun i => fmtFp32.decode ((u.tile t).lane v.va.toNat (32 * k + i)).toNat)

theorem State.length_mxBlocks (u : State) (t : Nat) (v : VC) : ((u.mxBlock t v 0).2 ++ (u.mxBlock t v 1).2).length = 64 := by
  simp [State.mxBlock, length_mxPack]

theorem vmxp_of_turn (h : s.slotTurn t 2 errs (isVC 25 v) = some (u, sq, hd)) :
    exec (.vmxp t v errs) s =
      .next ((u.vecEnd t (mxFlags (u.mxBlock t v 0) (u.mxBlock t v 1)) (decide (u.cvtCode t v.rnd.toNat = 1)) fun x =>
        x.putLanes v.vd.toNat (fun _ => true)
          (mxLanes (if v.vb.toNat = 6 then 4 else 8) (u.mxBlock t v 0) (u.mxBlock t v 1))).slotDone t 2 (s.bundle t)) := by
  show execVmxp t v errs s = _
  rw [execVmxp, State.vector_of_turn h]
  simp only [modeOf_stochastic]
  rfl

end

end Sys2Proof.Machine
end

section
open Sys2Proof Sys2Proof.Machine

/-- Settles O7: each operation ends in one `laneEnd` or `vecEnd`, whose laws give its lanes, flags and generator; VMXP's elements are fields of its lanes. -/
theorem vectorConvert : Obligations.VectorConvert := by
  unfold Obligations.VectorConvert
  intro s u t v errs sq hd x sel a turn one gives code near mode advanced
  refine ⟨fun h => lanes_laneOp h _, fun h => lanes_laneOp h _, fun h => lanes_laneOp h _, fun h => lanes_laneOp h _,
    fun h => by rw [vcvtf_eq]; exact lanes_laneOp h _, fun h => by rw [vcvti_eq]; exact lanes_laneOp h _, fun h => ?_, fun h => ?_, fun h => ?_⟩
  · exact ⟨_, vpkb_of_turn h, ⟨State.vecEnd_only .., State.laneEnd_keeps ..⟩, State.srState_vecEnd .., State.lanesSet_laneEnd,
      State.flagsRaised_laneEnd⟩
  · refine ⟨_, vupk_of_turn h, ⟨State.vecEnd_only_flags .., State.vecEnd_keeps _ _ _ _ _ rfl⟩, fun r l hl => ?_,
      State.flagsRaised_vecEnd testBit_laneFlags⟩
    rw [State.tile_vecEnd, TileSt.lane_putLanes _ _ _ _ _ hl, TileSt.lane_putLanes _ _ _ _ _ hl, getD_map_range _ _ hl, getD_map_range _ _ hl]
    rfl
  · have hlen := u.length_mxBlocks t v
    refine ⟨_, vmxp_of_turn h, ⟨State.vecEnd_only .., State.vecEnd_keeps _ _ _ _ _ (TileSt.putLanes_keeps ..)⟩, State.srState_vecEnd ..,
      fun r l hl hr => ?_, ?_⟩
    · rw [State.tile_vecEnd, TileSt.lane_putLanes _ _ _ _ _ hl, if_neg (by tauto)]
    intro blk elem eb out
    have heb : eb = 4 ∨ eb = 8 := by unfold eb; split <;> simp
    have hout (l : Nat) (hl : l < 64) : out l = ((mxLanes eb (blk 0) (blk 1)).getD l 0).toNat := by
      unfold out
      rw [State.tile_vecEnd, TileSt.lane_putLanes _ _ _ _ _ hl, if_pos ⟨rfl, rfl⟩]
      rfl
    refine ⟨fun j hj => ?_, fun l hlo hhi => ?_, ?_, State.flagsRaised_vecEnd (testBit_mxFlags hlen)⟩
    · rw [hout _ (by obtain h | h := heb <;> rw [h] <;> omega)]
      exact bf_mxLanes hlen heb hj
    · rw [hout l (by omega)]
      exact mxLanes_rest hlen (by omega) hlo hhi
    · rw [hout 63 (by omega)]
      exact toNat_mxLanes_scales eb

end

section
/-! The scalar slot in its turn (R104, R108, R109). -/

namespace Sys2Proof.Machine

/-- A scalar register after a write to sd, said of the register read. -/
theorem TileSt.sreg_setSreg_read (x : TileSt) (n : Nat) (v : W32) (m : Nat) :
    (x.setSreg n v).sreg m = if m = n ∧ m ≠ 0 then v else x.sreg m := by
  rw [TileSt.sreg_setSreg]
  exact if_congr (and_congr_right fun h => by rw [h]) rfl rfl

section
variable {s u : State} {t : Nat} {errs : List SpdErr} {is : Bundle → Bool} {sq hd : Option (List W64)}

/-- A scalar operation in its turn. -/
theorem State.scalar_of_turn (h : s.slotTurn t 3 errs is = some (u, sq, hd)) (act : Bundle → State → State) :
    s.scalar t errs is act = (act (s.bundle t) u).slotDone t 3 (s.bundle t) :=
  State.issue_of_slotTurn _ _ _ _ _ _ h

/-- An operation that writes a result to sd: s0 discards it, and nothing else of the module changes (R109). -/
theorem setS_result (h : s.slotTurn t 3 errs is = some (u, sq, hd)) (sd : Reg) (f : TileSt → W32) {v : Int}
    (hv : f (u.tile t) = BitVec.ofInt 32 v) :
    ∃ w : State, (.next (s.scalar t errs is fun _ s => s.setS t sd.toNat (f (s.tile t))) : Host.Outcome State Fault Refusal) =
        .next (w.slotDone t 3 (s.bundle t)) ∧ onlyTile u w t ∧ w.tile t = { u.tile t with sregs := (w.tile t).sregs } ∧
      ∀ n, (w.tile t).sreg n = if n = sd.toNat ∧ n ≠ 0 then BitVec.ofInt 32 v else (u.tile t).sreg n := by
  refine ⟨u.setS t sd.toNat (f (u.tile t)), by rw [State.scalar_of_turn h], State.modTile_only .., ?_, fun n => ?_⟩
  · rw [State.setS, State.tile_modTile_same, TileSt.setSreg]; split <;> rfl
  · rw [State.setS, State.tile_modTile_same, TileSt.sreg_setSreg_read, hv]

end

/-! ## Results of R109 as integers modulo 2^32 -/

section
variable (a b : W32)

theorem add_eq_ofInt : a + b = BitVec.ofInt 32 (a.toNat + b.toNat) := by
  simp [BitVec.ofInt_add]

theorem add_eq_ofInt_toInt : a + b = BitVec.ofInt 32 (a.toInt + b.toInt) := by
  rw [BitVec.ofInt_add, BitVec.ofInt_toInt, BitVec.ofInt_toInt]

theorem sub_eq_ofInt : a - b = BitVec.ofInt 32 (a.toInt - b.toInt) := by
  rw [Int.sub_eq_add_neg, BitVec.ofInt_add, BitVec.ofInt_neg, BitVec.ofInt_toInt, BitVec.ofInt_toInt, BitVec.sub_eq_add_neg]

theorem mul_eq_ofInt : a * b = BitVec.ofInt 32 (a.toInt * b.toInt) := by
  simp [BitVec.ofInt_mul]

theorem eq_ofInt_of_toNat {n : Nat} (h : a.toNat = n) : a = BitVec.ofInt 32 n := by
  subst h; simp

theorem shiftLeft_eq_ofInt (k : Nat) : a <<< k = BitVec.ofInt 32 (a.toNat * 2 ^ k) := by
  apply BitVec.eq_of_toNat_eq
  rw [show ((a.toNat : Int) * 2 ^ k) = ((a.toNat * 2 ^ k : Nat) : Int) by push_cast; rfl, BitVec.ofInt_natCast]
  simp [Nat.shiftLeft_eq]

theorem sshiftRight_eq_ofInt (k : Nat) : a.sshiftRight k = BitVec.ofInt 32 (a.toInt / 2 ^ k) := by
  rw [BitVec.sshiftRight, Int.shiftRight_eq_div_pow]; norm_cast

theorem slt_eq_ofInt : (if a.slt b then (1 : W32) else 0) = BitVec.ofInt 32 (if a.toInt < b.toInt then 1 else 0) := by
  simp only [BitVec.slt, decide_eq_true_eq]; split <;> rfl

theorem ult_eq_ofInt : (if a.ult b then (1 : W32) else 0) = BitVec.ofInt 32 (if a.toNat < b.toNat then 1 else 0) := by
  simp only [BitVec.ult, decide_eq_true_eq]; split <;> rfl

end

end Sys2Proof.Machine
end

section
open Sys2Proof Sys2Proof.Machine

/-- Settles O1: each operation writes one result to sd, and each result is the integer of R109 modulo 2^32. -/
theorem scalarArithmetic : Obligations.ScalarArithmetic := by
  unfold Obligations.ScalarArithmetic
  intro s u t sd sa sb imm errs sq hd a b turn gives
  have rrr {op : Nat} (f : W32 → W32 → W32) {v : Int} (h : turn (isRRR op sd sa sb)) (hv : f a b = BitVec.ofInt 32 v) :
      gives (.next (s.alu t op sd sa sb errs f)) v := setS_result h sd (fun x => f (x.sreg sa.toNat) (x.sreg sb.toNat)) hv
  have rri {op : Nat} (f : W32 → W32) {v : Int} (h : turn (isRRI op sd sa imm)) (hv : f a = BitVec.ofInt 32 v) :
      gives (.next (s.alui t op sd sa imm errs f)) v := setS_result h sd (fun x => f (x.sreg sa.toNat)) hv
  refine ⟨fun h => rrr _ h (add_eq_ofInt a b), fun h => rrr _ h (sub_eq_ofInt a b), fun h => rrr _ h ?_, fun h => rrr _ h ?_,
    fun h => rrr _ h ?_, fun h => rrr _ h (shiftLeft_eq_ofInt a _), fun h => rrr _ h ?_, fun h => rrr _ h (sshiftRight_eq_ofInt a _),
    fun h => rrr _ h (mul_eq_ofInt a b), fun h => rrr _ h (slt_eq_ofInt a b), fun h => rrr _ h (ult_eq_ofInt a b), fun h => rri _ h ?_,
    fun h => rri _ h ?_, fun h => ?_⟩
  · exact eq_ofInt_of_toNat _ (BitVec.toNat_and ..)
  · exact eq_ofInt_of_toNat _ (BitVec.toNat_or ..)
  · exact eq_ofInt_of_toNat _ (BitVec.toNat_xor ..)
  · exact eq_ofInt_of_toNat _ ((BitVec.toNat_ushiftRight ..).trans (Nat.shiftRight_eq_div_pow ..))
  · rw [BitVec.ofInt_add, BitVec.ofInt_toInt]; rfl
  · refine eq_ofInt_of_toNat _ ?_
    rw [BitVec.toNat_or, BitVec.toNat_setWidth, Nat.mod_eq_of_lt (by omega)]
  · refine setS_result h sd (fun _ => imm.zeroExtend 32 <<< 14) ?_
    rw [shiftLeft_eq_ofInt, BitVec.toNat_setWidth, Nat.mod_eq_of_lt (by omega)]
end

section
/-! Lane arithmetic and compares of the vector slot in their turn (R85, R86, R107, R114, R704). -/

namespace Sys2Proof.Machine

/-- A half of a lane that holds packed BF16. -/
def halfOf (w : W32) (h : Nat) : Nat := w.toNat / 2 ^ (16 * h) % 2 ^ 16

theorem lo16_eq (w : W32) : lo16 w = halfOf w 0 := by simp [lo16, halfOf]

theorem hi16_eq (w : W32) : hi16 w = halfOf w 1 := by
  rw [hi16, halfOf, Nat.mul_one, Nat.mod_eq_of_lt]; omega

/-! ## Results of a lane by type -/

section
variable {v : VC} (op : FVal → FVal → FVal × Nat) (iop : W32 → W32 → W32) (a b c : W32)

theorem lane2_float (h : v.typ.toNat < 2) : lane2 v.typ.toNat op iop a b =
    if v.typ = 0 then .of (fop2 fmtFp32 op a.toNat b.toNat)
    else .pack (fop2 fmtBf16 op (halfOf a 0) (halfOf b 0)) (fop2 fmtBf16 op (halfOf a 1) (halfOf b 1)) := by
  by_cases h0 : v.typ = 0
  · simp [lane2, h0]
  · have h1 : v.typ.toNat = 1 := by have : v.typ.toNat ≠ 0 := fun h => h0 (BitVec.eq_of_toNat_eq h); omega
    simp only [lane2, h1, h0, if_false, if_true, Nat.one_ne_zero, lo16_eq, hi16_eq]

theorem lane2_int (h : 2 ≤ v.typ.toNat) : lane2 v.typ.toNat op iop a b = ⟨iop a b, 0⟩ := by
  rw [lane2, if_neg (by omega), if_neg (by omega)]

theorem laneFma_eq : laneFma v.typ.toNat a b c =
    if v.typ = 0 then .of (fop3 fmtFp32 FVal.fma a.toNat b.toNat c.toNat)
    else .pack (fop3 fmtBf16 FVal.fma (halfOf a 0) (halfOf b 0) (halfOf c 0))
      (fop3 fmtBf16 FVal.fma (halfOf a 1) (halfOf b 1) (halfOf c 1)) := by
  have h : v.typ.toNat = 0 ↔ v.typ = 0 := ⟨fun h => BitVec.eq_of_toNat_eq h, fun h => by rw [h]; rfl⟩
  simp only [laneFma, h, lo16_eq, hi16_eq]

end

section
variable (a b : W32)

theorem min_eq_ofInt : (if a.slt b then a else b) = BitVec.ofInt 32 (min a.toInt b.toInt) := by
  simp only [BitVec.slt, decide_eq_true_eq]
  split
  · rename_i h; rw [min_eq_left h.le, BitVec.ofInt_toInt]
  · rename_i h; rw [min_eq_right (not_lt.mp h), BitVec.ofInt_toInt]

theorem max_eq_ofInt : (if a.slt b then b else a) = BitVec.ofInt 32 (max a.toInt b.toInt) := by
  simp only [BitVec.slt, decide_eq_true_eq]
  split
  · rename_i h; rw [max_eq_right h.le, BitVec.ofInt_toInt]
  · rename_i h; rw [max_eq_left (not_lt.mp h), BitVec.ofInt_toInt]

end

end Sys2Proof.Machine
end

section
open Sys2Proof Sys2Proof.Machine

/-- Settles O5: each operation is `lanes_laneOp` with its lane's result, which is an FP32 or packed BF16 rounding or an integer modulo 2^32. -/
theorem vectorArithmetic : Obligations.VectorArithmetic := by
  unfold Obligations.VectorArithmetic
  intro s u t v errs sq hd x sel turn gives half two float int
  have lanes {op : Nat} (g : W32 → W32 → LRes) {f : W32 → W32 → W32 → LRes} (h : turn op) (hg : ∀ a b c, g a b = f a b c) :
      gives (.next (s.lanes2 t op v errs g)) f := by
    obtain ⟨w, hexec, hw⟩ := lanes_laneOp h fun x l => g (x.lane v.va.toNat l) (x.lane v.vb.toNat l)
    exact ⟨w, hexec, (congrArg (laneOp u w t v.vd.toNat sel) (funext fun l => hg _ _ (x.lane v.vc.toNat l))).mp hw⟩
  have fp {op : Nat} (f : FVal → FVal → FVal × Nat) (iop : W32 → W32 → W32) (ht : v.typ.toNat < 2) (h : turn op) :
      gives (.next (s.lanes2 t op v errs (lane2 v.typ.toNat f iop))) (float f) :=
    lanes _ h fun a b c => by rw [lane2_float _ _ _ _ ht, LRes.pack_eq]; rfl
  have i32 {op : Nat} (f : FVal → FVal → FVal × Nat) (iop : W32 → W32 → W32) {g : W32 → W32 → Int} (ht : 2 ≤ v.typ.toNat) (h : turn op)
      (hg : ∀ a b, iop a b = BitVec.ofInt 32 (g a b)) : gives (.next (s.lanes2 t op v errs (lane2 v.typ.toNat f iop))) (int g) :=
    lanes _ h fun a b c => by rw [lane2_int _ _ _ _ ht, hg]
  have bits {op : Nat} (iop : W32 → W32 → W32) {g : W32 → W32 → Int} (h : turn op) (hg : ∀ a b, iop a b = BitVec.ofInt 32 (g a b)) :
      gives (.next (s.lanes2 t op v errs fun a b => ⟨iop a b, 0⟩)) (int g) := lanes _ h fun a b c => by rw [hg]
  refine ⟨fp _ _, fp _ _, fp _ _, fp _ _, fp _ _, fun h => ?_, fun ht h => i32 _ _ ht h add_eq_ofInt_toInt, fun ht h => i32 _ _ ht h sub_eq_ofInt,
    fun ht h => i32 _ _ ht h mul_eq_ofInt, fun ht h => i32 _ _ ht h min_eq_ofInt, fun ht h => i32 _ _ ht h max_eq_ofInt,
    fun h => bits _ h fun a b => eq_ofInt_of_toNat _ (BitVec.toNat_and ..), fun h => bits _ h fun a b => eq_ofInt_of_toNat _ (BitVec.toNat_or ..),
    fun h => bits _ h fun a b => eq_ofInt_of_toNat _ (BitVec.toNat_xor ..), fun h => bits _ h fun a b => shiftLeft_eq_ofInt a _,
    fun h => bits _ h fun a b => eq_ofInt_of_toNat _ ((BitVec.toNat_ushiftRight ..).trans (Nat.shiftRight_eq_div_pow ..)),
    fun h => bits _ h fun a b => sshiftRight_eq_ofInt a _⟩
  obtain ⟨w, hexec, hw⟩ := lanes_laneOp h fun x l => laneFma v.typ.toNat (x.lane v.va.toNat l) (x.lane v.vb.toNat l) (x.lane v.vc.toNat l)
  refine ⟨w, hexec, ?_⟩
  simp only [laneFma_eq, LRes.pack_eq] at hw
  exact hw

end

section
/-! Compares and VSEL in their turn (R114, R704). -/

namespace Sys2Proof.Machine

/-! ## Mask registers -/

/-- A number put together from its bits. -/
theorem testBit_foldl_bits (p : Nat → Bool) (n i : Nat) :
    ((List.range n).foldl (fun a l => if p l = true then a + 2 ^ l else a) 0).testBit i = (decide (i < n) && p i) := by
  have hlt (n : Nat) : (List.range n).foldl (fun a l => if p l = true then a + 2 ^ l else a) 0 < 2 ^ n := by
    induction n with
    | zero => simp
    | succ n ih => rw [List.range_succ, List.foldl_append, List.foldl_cons, List.foldl_nil, Nat.pow_succ]; split <;> omega
  induction n with
  | zero => simp
  | succ n ih =>
    rw [List.range_succ, List.foldl_append, List.foldl_cons, List.foldl_nil]
    have hlast := Nat.testBit_lt_two_pow (hlt n)
    obtain hi | rfl | hi := Nat.lt_trichotomy i n
    · have hs : i < n + 1 := by omega
      cases p n <;> simp [Nat.add_comm _ (2 ^ n), Nat.testBit_two_pow_add_gt hi, ih, hi, hs]
    · cases p i <;> simp [Nat.add_comm _ (2 ^ i), Nat.testBit_two_pow_add_eq, hlast]
    · have hs : ¬ i < n + 1 := by omega
      have hbig : (List.range (n + 1)).foldl (fun a l => if p l = true then a + 2 ^ l else a) 0 < 2 ^ i :=
        (hlt _).trans_le (Nat.pow_le_pow_right Nat.two_pos hi)
      rw [List.range_succ, List.foldl_append, List.foldl_cons, List.foldl_nil] at hbig
      rw [Nat.testBit_lt_two_pow hbig]; simp [hs]

section
variable (x : TileSt) (m : Nat) (sel new : Nat → Bool)

theorem TileSt.mreg_putMask_ne {k : Nat} (h : k ≠ m) : (x.putMask m sel new).mreg k = x.mreg k := tget_tset_ne _ _ _ _ h

/-- The bits of the lanes that take part are the new ones. -/
theorem TileSt.getLsbD_putMask {l : Nat} (h : l < 64) :
    ((x.putMask m sel new).mreg m).getLsbD l = if sel l = true then new l else (x.mreg m).getLsbD l := by
  rw [TileSt.mreg, TileSt.putMask, tget_tset_same, BitVec.getLsbD_ofNat, testBit_foldl_bits]
  simp [h]

end

/-! ## Comparisons of a lane -/

/-- A comparison raises invalid for signalling NaNs only. -/
def Cmp.quiet (c : Cmp) : Bool := decide (c = .eq)

/-- A comparison of values that are no NaN. -/
def Cmp.holds : Cmp → FVal → FVal → Bool
  | .eq => FVal.eq
  | .lt => FVal.lt
  | .le => fun a b => !FVal.lt b a

/-- A comparison of integers. -/
def Cmp.ints : Cmp → Int → Int → Bool
  | .eq => fun a b => decide (a = b)
  | .lt => fun a b => decide (a < b)
  | .le => fun a b => decide (a ≤ b)

/-- The flag of a comparison in a format. -/
def Cmp.flag (c : Cmp) (f : Fmt) (p q : Nat) : Nat :=
  if c.quiet then sigFlag [f.decode p, f.decode q] else if (f.decode p).isNan || (f.decode q).isNan then flInvalid else 0

/-- A comparison in a format: a NaN compares false. -/
def Cmp.holdsIn (c : Cmp) (f : Fmt) (p q : Nat) : Bool :=
  !(f.decode p).isNan && !(f.decode q).isNan && c.holds (f.decode p) (f.decode q)

theorem fcmp_eq (c : Cmp) (f : Fmt) (p q : Nat) : fcmp c f p q = (c.holdsIn f p q, c.flag f p q) := by
  cases c <;> simp [fcmp, Cmp.holdsIn, Cmp.holds, Cmp.flag, Cmp.quiet, Bool.not_or]

theorem laneCmp_eq (c : Cmp) (v : VC) (a b : W32) : laneCmp c v.typ.toNat a b =
    if v.typ = 0 then (c.holdsIn fmtFp32 a.toNat b.toNat, c.flag fmtFp32 a.toNat b.toNat)
    else if v.typ = 1 then (c.holdsIn fmtBf16 (lo16 a) (lo16 b) && c.holdsIn fmtBf16 (hi16 a) (hi16 b),
      c.flag fmtBf16 (lo16 a) (lo16 b) ||| c.flag fmtBf16 (hi16 a) (hi16 b))
    else (c.ints a.toInt b.toInt, 0) := by
  have h0 : v.typ.toNat = 0 ↔ v.typ = 0 := ⟨fun h => BitVec.eq_of_toNat_eq h, fun h => by rw [h]; rfl⟩
  have h1 : v.typ.toNat = 1 ↔ v.typ = 1 := ⟨fun h => BitVec.eq_of_toNat_eq h, fun h => by rw [h]; rfl⟩
  simp only [laneCmp, fcmp_eq, h0, h1]
  split
  · rfl
  split
  · rfl
  cases c with
  | eq => simp [Cmp.ints, BitVec.toInt_inj]
  | lt => rfl
  | le => rfl

/-! ## The slot -/

section
variable {s u : State} {t : Nat} {v : VC} {errs : List SpdErr} {sq hd : Option (List W64)}

/-- The comparison of one lane. -/
def TileSt.cmpLane (x : TileSt) (v : VC) (c : Cmp) (l : Nat) : Bool × Nat :=
  laneCmp c v.typ.toNat (x.lane v.va.toNat l) (x.lane v.vb.toNat l)

theorem State.compare_of_turn {op : Nat} (c : Cmp) (h : s.slotTurn t 2 errs (isVC op v) = some (u, sq, hd)) :
    let sel := (u.tile t).lanesOn v.mask.toNat
    s.compare t op v errs c = (u.vecEnd t (laneFlags sel fun l => ((u.tile t).cmpLane v c l).2) false fun x =>
      x.putMask (v.vd.toNat % 4) sel fun l => (((List.range 64).map ((u.tile t).cmpLane v c)).getD l (false, 0)).1).slotDone t 2 (s.bundle t) := by
  intro sel
  rw [State.compare, State.vector_of_turn h]
  simp only [foldl_getD_eq_laneFlags _ _ _ Prod.snd]
  rfl

/-- VSEL writes every lane (R704). -/
theorem vsel_of_turn (h : s.slotTurn t 2 errs (isVC 16 v) = some (u, sq, hd)) :
    exec (.vsel t v errs) s = .next ((u.modTile t fun x => x.putLanes v.vd.toNat (fun _ => true) ((List.range 64).map fun l =>
      if x.lanesOn v.mask.toNat l then x.lane v.va.toNat l else x.lane v.vb.toNat l)).slotDone t 2 (s.bundle t)) := by
  show execVsel t v errs s = _
  rw [execVsel, State.vector_of_turn h]

end

end Sys2Proof.Machine
end

section
open Sys2Proof Sys2Proof.Machine

/-- Settles O6: a compare ends in one `vecEnd` that writes bits of one mask register, VSEL in one write of lanes. -/
theorem vectorCompare : Obligations.VectorCompare := by
  unfold Obligations.VectorCompare
  intro s u t v errs sq hd x sel turn gives
  have cmp {op : Nat} (c : Cmp) (h : turn op) : gives (.next (s.compare t op v errs c)) c.quiet c.holds c.ints := by
    refine ⟨_, congrArg _ (State.compare_of_turn c h), State.vecEnd_only_flags .., ?_, ?_, fun m hm => ?_, fun l hl => ?_⟩
    · rw [State.tile_vecEnd]; rfl
    · refine State.flagsRaised_vecEnd fun i => ?_
      rw [testBit_laneFlags]
      simp only [TileSt.cmpLane, laneCmp_eq]
      congr 1
      funext l
      split
      · rfl
      split <;> rfl
    · rw [State.tile_vecEnd, TileSt.mreg_putMask_ne _ _ _ _ hm]
    · intro a b one
      rw [State.tile_vecEnd, TileSt.getLsbD_putMask _ _ _ _ hl, getD_map_range _ _ hl, TileSt.cmpLane, laneCmp_eq]
      refine if_congr Iff.rfl ?_ rfl
      split
      · rfl
      split <;> rfl
  refine ⟨cmp .eq, cmp .lt, cmp .le, fun h => ⟨_, vsel_of_turn h, State.modTile_only .., ?_, fun r l hl => ?_⟩⟩
  · rw [State.tile_modTile_same, TileSt.putLanes_keeps]
  · rw [State.tile_modTile_same, TileSt.lane_putLanes _ _ _ _ _ hl, getD_map_range _ _ hl]

end

section
/-! VRSUM's tree of additions (R704), and the reductions in their turn (R114). -/

namespace Sys2Proof.Machine

/-! ## The tree, level by level -/

/-- The union of the flags `g` of the nodes from `a` on. -/
def orRange (g : Nat → Nat) (a n : Nat) : Nat := (List.range' a n).foldr (fun j fl => g j ||| fl) 0

theorem orRange_append (g : Nat → Nat) (a m n : Nat) : orRange g a (m + n) = orRange g a m ||| orRange g (a + m) n := by
  induction m generalizing a with
  | zero => simp [orRange]
  | succ m ih =>
    have hs (k : Nat) : orRange g a (k + 1) = g a ||| orRange g (a + 1) k := by simp [orRange, List.range'_succ]
    rw [Nat.add_right_comm, hs, hs, ih, Nat.or_assoc, Nat.add_right_comm a 1 m, Nat.add_assoc]

section
variable (add : W32 → W32 → LRes)

/-- What two neighbours of a level give the next. -/
def pairSum (lane : Nat → Option W32) (i : Nat) : Option W32 := (treeSum add lane 1 i).1

/-- The flags of the addition of two neighbours. -/
def pairFlags (lane : Nat → Option W32) (i : Nat) : Nat := (treeSum add lane 1 i).2

theorem sumLevel_map (lane : Nat → Option W32) (a n : Nat) :
    sumLevel add ((List.range' (2 * a) (2 * n)).map lane) =
      ((List.range' a n).map (pairSum add lane), orRange (pairFlags add lane) a n) := by
  induction n generalizing a with
  | zero => rfl
  | succ n ih =>
    have hr : List.range' (2 * a) (2 * (n + 1)) = 2 * a :: (2 * a + 1) :: List.range' (2 * (a + 1)) (2 * n) := by
      simp [Nat.mul_add, List.range'_succ]
    rw [hr, List.map_cons, List.map_cons]
    cases hp : lane (2 * a) <;> cases hq : lane (2 * a + 1) <;>
      simp [sumLevel, ih, orRange, List.range'_succ, pairSum, pairFlags, treeSum, hp, hq]

/-- A tree over the lanes is a tree over their pairs, with the pairs' flags. -/
theorem treeSum_succ_eq (lane : Nat → Option W32) (k i : Nat) :
    treeSum add lane (k + 1) i = ((treeSum add (pairSum add lane) k i).1,
      orRange (pairFlags add lane) (2 ^ k * i) (2 ^ k) ||| (treeSum add (pairSum add lane) k i).2) := by
  induction k generalizing i with
  | zero => simp [orRange, pairSum, pairFlags, treeSum]
  | succ k ih =>
    have hsplit : orRange (pairFlags add lane) (2 ^ (k + 1) * i) (2 ^ (k + 1)) =
        orRange (pairFlags add lane) (2 ^ k * (2 * i)) (2 ^ k) ||| orRange (pairFlags add lane) (2 ^ k * (2 * i + 1)) (2 ^ k) := by
      rw [Nat.pow_succ, Nat.mul_two, orRange_append]; congr 2 <;> ring
    rw [treeSum, ih, ih, hsplit, treeSum]
    generalize treeSum add (pairSum add lane) k (2 * i) = p
    generalize treeSum add (pairSum add lane) k (2 * i + 1) = q
    obtain ⟨_ | p, fp⟩ := p <;> obtain ⟨_ | q, fq⟩ := q <;> simp only [Prod.mk.injEq, true_and] <;> ac_rfl

theorem sumTree_eq (lane : Nat → Option W32) (k : Nat) :
    sumTree add k ((List.range' 0 (2 ^ k)).map lane) = ([(treeSum add lane k 0).1], (treeSum add lane k 0).2) := by
  induction k generalizing lane with
  | zero => rfl
  | succ k ih =>
    have hl := sumLevel_map add lane 0 (2 ^ k)
    rw [Nat.mul_zero, Nat.mul_comm, ← Nat.pow_succ] at hl
    rw [sumTree, hl, ih, treeSum_succ_eq, Nat.mul_zero]

end

/-! ## The sum of INT32 lanes -/

theorem treeSum_int (lane : Nat → Option W32) (k i : Nat) :
    (treeSum (fun p q => ⟨p + q, 0⟩) lane k i).1.getD 0 = ((List.range' (2 ^ k * i) (2 ^ k)).map fun l => (lane l).getD 0).sum := by
  induction k generalizing i with
  | zero => simp [treeSum]
  | succ k ih =>
    have hsplit : List.range' (2 ^ (k + 1) * i) (2 ^ (k + 1)) = List.range' (2 ^ k * (2 * i)) (2 ^ k) ++ List.range' (2 ^ k * (2 * i + 1)) (2 ^ k) := by
      rw [show 2 ^ k * (2 * i + 1) = 2 ^ k * (2 * i) + 2 ^ k by ring, List.range'_append_1]; congr 1 <;> ring
    rw [hsplit, List.map_append, List.sum_append, ← ih, ← ih, treeSum]
    generalize treeSum _ lane k (2 * i) = p
    generalize treeSum _ lane k (2 * i + 1) = q
    obtain ⟨_ | p, fp⟩ := p <;> obtain ⟨_ | q, fq⟩ := q <;> simp

theorem foldl_add_filter (sel : Nat → Bool) (a : Nat → W32) (l : List Nat) (c : W32) :
    ((l.filter sel).map a).foldl (· + ·) c = c + (l.map fun i => if sel i then a i else 0).sum := by
  induction l generalizing c with
  | nil => simp
  | cons i l ih => cases hs : sel i <;> simp [hs, ih, BitVec.add_assoc]

/-! ## The slot -/

section
variable {s u : State} {t : Nat} {v : VC} {errs : List SpdErr} {sq hd : Option (List W64)}

/-- VRSUM's sum with its flags: the tree over the 64 lanes that take part. -/
def TileSt.laneSum (x : TileSt) (v : VC) : Option W32 × Nat :=
  treeSum (lane2 v.typ.toNat FVal.add fun a b => a + b) (fun l => if x.lanesOn v.mask.toNat l then some (x.lane v.va.toNat l) else none) 6 0

theorem vrsum_of_turn (h : s.slotTurn t 2 errs (isVC 26 v) = some (u, sq, hd)) :
    exec (.vrsum t v errs) s = .next ((u.vecEnd t ((u.tile t).laneSum v).2 false fun x =>
      x.putLanes v.vd.toNat (fun _ => true) (((u.tile t).laneSum v).1.getD 0 :: List.replicate 63 0)).slotDone t 2 (s.bundle t)) := by
  show execVrsum t v errs s = _
  have htree := sumTree_eq (lane2 v.typ.toNat FVal.add fun a b => a + b)
    (fun l => if (u.tile t).lanesOn v.mask.toNat l then some ((u.tile t).lane v.va.toNat l) else none) 6
  rw [execVrsum, State.vector_of_turn h]
  simp only [List.range_eq_range', show 64 = 2 ^ 6 from rfl, htree]
  rfl

theorem vmovs_of_turn (h : s.slotTurn t 2 errs (isVC 28 v) = some (u, sq, hd)) :
    exec (.vmovs t v errs) s = .next ((u.setTile t { u.tile t with
      movs := some (v.vd.toNat + 16 * (v.typ.toNat % 2), (u.tile t).lane v.va.toNat (16 * (v.vb.toNat % 4) + v.vc.toNat)) }).slotDone t 2
        (s.bundle t)) := by
  show execVmovs t v errs s = _
  rw [execVmovs, State.vector_of_turn h]
  rfl

/-- The additions of VRSUM's tree are FP32 or INT32 additions. -/
theorem laneSum_of_typ (x : TileSt) (h : v.typ ≠ 1) : x.laneSum v =
    treeSum (if v.typ = 0 then fun p q => .of (fop2 fmtFp32 FVal.add p.toNat q.toNat) else fun p q => ⟨p + q, 0⟩)
      (fun l => if x.lanesOn v.mask.toNat l then some (x.lane v.va.toNat l) else none) 6 0 := by
  have hadd : (lane2 v.typ.toNat FVal.add fun a b => a + b) =
      if v.typ = 0 then fun p q => .of (fop2 fmtFp32 FVal.add p.toNat q.toNat) else fun p q => ⟨p + q, 0⟩ := by
    funext p q
    split
    · rename_i h0; simp [lane2, h0]
    · rename_i h0
      have : v.typ.toNat ≠ 0 := fun h => h0 (BitVec.eq_of_toNat_eq h)
      have : v.typ.toNat ≠ 1 := fun h' => h (BitVec.eq_of_toNat_eq h')
      exact lane2_int _ _ _ _ (by omega)
  rw [TileSt.laneSum, hadd]

/-- The sum of INT32 lanes is their sum modulo 2^32. -/
theorem laneSum_int (x : TileSt) (h : 2 ≤ v.typ.toNat) : (x.laneSum v).1.getD 0 =
    (((List.range 64).filter (x.lanesOn v.mask.toNat)).map fun l => x.lane v.va.toNat l).foldl (· + ·) 0 := by
  have h1 : v.typ ≠ 1 := fun h1 => by rw [h1] at h; exact absurd h (by decide)
  have h0 : v.typ ≠ 0 := fun h0 => by rw [h0] at h; exact absurd h (by decide)
  rw [laneSum_of_typ x h1, if_neg h0, treeSum_int, foldl_add_filter, zero_add, List.range_eq_range']
  congr 2
  funext l
  split <;> rfl

end

end Sys2Proof.Machine
end

section
open Sys2Proof Sys2Proof.Machine

/-- Settles O8: VRSUM's levels are the levels of `treeSum`; VBCS is lane by lane, and VMOVS notes its value in the tile. -/
theorem vectorReduce : Obligations.VectorReduce := by
  unfold Obligations.VectorReduce
  intro s u t v errs sq hd x sel a turn
  refine ⟨fun h => ⟨_, vrsum_of_turn h, State.vecEnd_only_flags .., State.vecEnd_keeps _ _ _ _ _ (TileSt.putLanes_keeps ..), ?_⟩,
    fun h => lanes_laneOp h _, vmovs_of_turn⟩
  have hlane (r l : Nat) (hl : l < 64) := TileSt.lane_putLanes x v.vd.toNat (fun _ => true) ((x.laneSum v).1.getD 0 :: List.replicate 63 0) r hl
  rw [State.tile_vecEnd]
  refine ⟨fun r l hl hr => ?_, fun l h0 hl => ?_, ⟨fun ht => ⟨?_, State.flagsRaised_vecEnd fun i => ?_⟩, fun ht => ?_⟩⟩
  · rw [hlane r l hl, if_neg (by tauto)]
  · obtain ⟨k, rfl⟩ := Nat.exists_eq_succ_of_ne_zero h0.ne'
    rw [hlane _ _ hl, if_pos ⟨rfl, rfl⟩, List.getD_cons_succ, List.getD_replicate _ (by omega)]
  · rw [hlane _ _ (by omega), if_pos ⟨rfl, rfl⟩, List.getD_cons_zero, laneSum_of_typ x ht]; rfl
  · rw [laneSum_of_typ x ht]
    have hany (b : Bool) : b = (List.range 64).any fun _ => true && b := by cases b <;> decide
    exact hany _
  · rw [hlane _ _ (by omega), if_pos ⟨rfl, rfl⟩, List.getD_cons_zero, laneSum_int x ht]

end

section
open Sys2Proof Sys2Proof.Machine

/-- Settles O58: every table of the reset state is empty, so each read gives its default. -/
theorem resetState : Obligations.ResetState := by
  refine ⟨⟨rfl, rfl, rfl, rfl, rfl⟩, fun _ => rfl, ?_, ?_, rfl, rfl, rfl, rfl, fun t r => ⟨?_, rfl, fun _ => rfl⟩, fun _ => rfl, fun _ => rfl,
    fun _ => rfl, fun _ => rfl, rfl, rfl, rfl⟩
  · decide
  · decide
  · show TileSt.reset.sreg r = 0
    rw [TileSt.sreg]; split <;> rfl

end

section
/-! Scalar loads and stores (R109, R150, R151, R173): what a read of a scratchpad returns and a write leaves. -/

namespace Sys2Proof.Machine

/-! ## Bytes -/

theorem getD_leBytes (n v : Nat) {i : Nat} (h : i < n) : (leBytes n v).getD i 0 = BitVec.ofNat 8 (v / 256 ^ i) := by
  induction n generalizing v i with
  | zero => omega
  | succ n ih =>
    cases i with
    | zero => simp [leBytes]
    | succ i => rw [leBytes, List.getD_cons_succ, ih _ (by omega), Nat.div_div_eq_div_mul, Nat.pow_succ']

/-- The same bytes, none of them poisoned. -/
def cleanBytes (bs : List Byte) : List PB := bs.map fun b => ⟨b, false⟩

@[simp] theorem length_cleanBytes (bs : List Byte) : (cleanBytes bs).length = bs.length := List.length_map _

theorem getD_cleanBytes (bs : List Byte) (i : Nat) : ((cleanBytes bs).getD i ⟨0, false⟩).b = bs.getD i 0 := by
  simp only [cleanBytes, List.getD_eq_getElem?_getD, List.getElem?_map]
  cases bs[i]? <;> rfl

@[simp] theorem State.length_spdRead (s : State) (t a n src : Nat) (errs : List SpdErr) : (s.spdRead t a n src errs).2.length = n := by
  simp [State.spdRead]

/-- The bytes that a read returns are those of the statements. -/
theorem State.spdRead_bytes (s : State) (t a n src : Nat) (errs : List SpdErr) :
    (s.spdRead t a n src errs).2.map (·.b) = (List.range n).map fun i => s.spdByte t (a + i) := by
  refine List.ext_getElem (by simp) fun i h _ => ?_
  have hi : i < n := by simpa using h
  have hget := s.spdRead_get t a n src errs i hi
  rw [List.getD_eq_getElem _ _ (by simpa using hi)] at hget
  rw [List.getElem_map, List.getElem_map, List.getElem_range, hget, State.spdByte_eq]

/-- A read changes no byte. -/
theorem State.spdByte_spdRead (s : State) (t a n src : Nat) (errs : List SpdErr) (j k : Nat) :
    (s.spdRead t a n src errs).1.spdByte j k = s.spdByte j k := by
  rw [State.spdByte_eq, State.spdByte_eq, State.byteAt_spdRead]

theorem TileSt.byteAt_setSreg (x : TileSt) (n : Nat) (v : W32) (k : Nat) : (x.setSreg n v).byteAt k = x.byteAt k := by
  unfold TileSt.setSreg; split <;> rfl

/-- Changes of a tile that leave its bytes. -/
theorem State.spdByte_modTile (s : State) (t : Nat) {f : TileSt → TileSt} (hf : ∀ x k, (f x).byteAt k = x.byteAt k) (j k : Nat) :
    (s.modTile t f).spdByte j k = s.spdByte j k := by
  rw [State.spdByte_eq, State.spdByte_eq, State.tile_modTile]
  split
  · rename_i h; subst h; exact hf _ _
  · rfl

/-! ## LW and SW in their turn -/

section
variable {s u : State} {t k : Nat} {errs : List SpdErr} {is : Bundle → Bool} {sq hd : Option (List W64)}

/-- A slot in its turn is one that its command accepts. -/
theorem State.accepted_of_slotTurn (h : s.slotTurn t k errs is = some (u, sq, hd)) : is (s.bundle t) = true := by
  simp only [State.slotTurn] at h
  split at h
  · rename_i hc; exact hc.2
  · cases h

theorem sext18_toNat (imm : Imm) : sext18 imm.toNat = imm.signExtend 32 := by rw [sext18, BitVec.ofNat_toNat, BitVec.setWidth_eq]

theorem sAddr_eq {x : TileSt} {b : Bundle} {sa : Reg} {imm : Imm} (ha : b.sa = sa.toNat) (hi : b.imm = imm.toNat) :
    sAddr x b = (x.sreg sa.toNat + imm.signExtend 32).toNat := by rw [sAddr, ha, hi, sext18_toNat]

variable {sd sa sb : Reg} {imm : Imm}

/-- LW: the bytes read land in sd, or a poisoned one makes the tile take a fault. -/
theorem lw_of_turn (h : s.slotTurn t 3 errs (isRRI 15 sd sa imm) = some (u, sq, hd)) :
    let a := ((u.tile t).sreg sa.toNat + imm.signExtend 32).toNat
    let r := u.spdRead t a 4 0 errs
    exec (.lw t sd sa imm errs) s = .next ((if anyPois r.2 then r.1.tileFault t ⟨cPOISON, 3, a / 8 * 8⟩ 0 (r.1.tile t).pc
      else r.1.setS t sd.toNat (BitVec.ofNat 32 (leNat (r.2.map (·.b))))).slotDone t 3 (s.bundle t)) := by
  have his := State.accepted_of_slotTurn h
  simp only [isRRI, Bool.and_eq_true, decide_eq_true_eq] at his
  obtain ⟨⟨-, ha⟩, hi⟩ := his
  show execLw t sd sa imm errs s = _
  rw [execLw, State.scalar_of_turn h, sAddr_eq ha hi]

/-- SW: four bytes of this tile's scratchpad change. -/
theorem sw_of_turn (h : s.slotTurn t 3 errs (fun b => decide (b.sOp = 16) && decide (b.sa = sa.toNat) && decide (b.sb = sb.toNat)
    && decide (b.imm = imm.toNat)) = some (u, sq, hd)) :
    exec (.sw t sa sb imm errs) s = .next ((u.spdWrite t ((u.tile t).sreg sa.toNat + imm.signExtend 32).toNat
      (cleanBytes (leBytes 4 ((u.tile t).sreg sb.toNat).toNat)) 3 0 errs).slotDone t 3 (s.bundle t)) := by
  have his := State.accepted_of_slotTurn h
  simp only [Bool.and_eq_true, decide_eq_true_eq] at his
  obtain ⟨⟨⟨-, ha⟩, -⟩, hi⟩ := his
  show execSw t sa sb imm errs s = _
  rw [execSw, State.scalar_of_turn h, sAddr_eq ha hi]; rfl

end

end Sys2Proof.Machine
end

section
open Sys2Proof Sys2Proof.Machine

/-- Settles O2: LW is one read and one register, SW one write, and the scratchpad's laws say which bytes change. -/
theorem scalarMemory : Obligations.ScalarMemory := by
  unfold Obligations.ScalarMemory
  intro s u t sd sa sb imm errs sq hd a r
  refine ⟨fun h => ⟨fun hc => ⟨r.1.setS t sd.toNat (BitVec.ofNat 32 (leNat (r.2.map (·.b)))), ?_, fun n => ?_, fun j k => ?_⟩, fun hp => ?_⟩,
    fun h => ⟨_, sw_of_turn h, fun j k => ?_⟩⟩
  · exact (lw_of_turn h).trans (by rw [hc]; rfl)
  · rw [State.setS, State.tile_modTile_same, TileSt.sreg_setSreg_read, State.spdRead_bytes]; rfl
  · rw [State.setS, State.spdByte_modTile _ _ fun x k => x.byteAt_setSreg _ _ k]; exact State.spdByte_spdRead ..
  · exact (lw_of_turn h).trans (by rw [hp]; rfl)
  · rw [State.spdByte_eq, State.byteAt_spdWrite, length_cleanBytes, leBytes_length, getD_cleanBytes, ← State.spdByte_eq]
    split
    · rw [getD_leBytes _ _ (by omega)]
    · rfl

end

section
/-! Branches, control registers and END in their turn (R109, R110, R113, R126, R128). -/

namespace Sys2Proof.Machine

theorem State.setReg_only (s : State) (a : Nat) (v : W64) : onlyRegs s (s.setReg a v) [a] :=
  ⟨rfl, fun _ hb => State.reg_setReg_ne s v (by simpa using hb)⟩

theorem State.wr_only (s : State) (f : Fld) (v : Nat) : onlyRegs s (s.wr f v) [f.addr] := State.setReg_only s _ _

/-! ## Branches -/

theorem sint_toNat (imm : Imm) : sint 18 imm.toNat = imm.toInt := by
  have h := imm.isLt
  rw [sint, Nat.mod_eq_of_lt h, BitVec.toInt_eq_toNat_cond]
  split <;> split <;> omega

/-- The state after a branch to a bundle `imm` bundles from this one (R110). -/
def State.branched (u : State) (t : Nat) (imm : Imm) : State :=
  (u.setTile t { u.tile t with branch := some (((u.tile t).pc : Int) + 16 * imm.toInt).toNat }).bump Ev.issueBranch (.tile t) 2

section
variable {s u : State} {t : Nat} {errs : List SpdErr} {sq hd : Option (List W64)} {sa : Reg} {imm : Imm}

theorem State.branchIf_eq {b : Bundle} (hi : b.imm = imm.toNat) (u : State) (t : Nat) :
    u.branchIf t b = if sTaken (u.tile t) b then u.branched t imm else u := by
  rw [State.branchIf, sTarget, hi, sint_toNat]; rfl

theorem brz_of_turn (h : s.slotTurn t 3 errs (fun b => isI 17 imm b && decide (b.sa = sa.toNat)) = some (u, sq, hd)) :
    exec (.brz t sa imm errs) s =
      .next ((if (u.tile t).sreg sa.toNat = 0 then u.branched t imm else u).slotDone t 3 (s.bundle t)) := by
  have his := State.accepted_of_slotTurn h
  simp only [isI, Bool.and_eq_true, decide_eq_true_eq] at his
  obtain ⟨⟨hop, hi⟩, ha⟩ := his
  show execBrz t sa imm errs s = _
  rw [execBrz, State.scalar_of_turn h, State.branchIf_eq hi]
  simp [sTaken, hop, ha]

theorem brnz_of_turn (h : s.slotTurn t 3 errs (fun b => isI 18 imm b && decide (b.sa = sa.toNat)) = some (u, sq, hd)) :
    exec (.brnz t sa imm errs) s =
      .next ((if (u.tile t).sreg sa.toNat ≠ 0 then u.branched t imm else u).slotDone t 3 (s.bundle t)) := by
  have his := State.accepted_of_slotTurn h
  simp only [isI, Bool.and_eq_true, decide_eq_true_eq] at his
  obtain ⟨⟨hop, hi⟩, ha⟩ := his
  show execBrnz t sa imm errs s = _
  rw [execBrnz, State.scalar_of_turn h, State.branchIf_eq hi]
  simp [sTaken, hop, ha]

theorem jmp_of_turn (h : s.slotTurn t 3 errs (isI 19 imm) = some (u, sq, hd)) :
    exec (.jmp t imm errs) s = .next ((u.branched t imm).slotDone t 3 (s.bundle t)) := by
  have his := State.accepted_of_slotTurn h
  simp only [isI, Bool.and_eq_true, decide_eq_true_eq] at his
  obtain ⟨hop, hi⟩ := his
  show execJmp t imm errs s = _
  rw [execJmp, State.scalar_of_turn h, State.branchIf_eq hi]
  simp [sTaken, hop]

end

/-! ## Control registers -/

section
variable (s : State) (t : Nat)

/-- CSRR reads one half of the register at its offset (R113). -/
theorem State.csrRead_eq {off : Nat} (h4 : off % 4 = 0) (hh : off ≠ 0x34) :
    (s.csrRead t off).1 = BitVec.ofNat 32 ((s.tileReg t (off / 8 * 8)).toNat / 2 ^ (8 * (off % 8))) := by
  have hlow (v : W64) : v.setWidth 32 = BitVec.ofNat 32 v.toNat := rfl
  have hhigh (v : W64) : (v >>> 32).setWidth 32 = BitVec.ofNat 32 (v.toNat / 2 ^ 32) := by
    rw [hlow, BitVec.toNat_ushiftRight, Nat.shiftRight_eq_div_pow]
  simp only [State.csrRead, h4, hh, ne_eq, not_true_eq_false, if_false]
  split
  · rename_i h30; rw [h30, hlow]; simp
  · split
    · rename_i h; rw [h, hhigh]
    · rw [hlow, show off % 8 = 0 by omega]; simp

/-- CSRW of TILE_FP_FLAGS clears the flags written as 1 (R102). -/
theorem State.getLsbD_csrWrite_flags (v : W32) (i : Nat) : ((s.csrWrite t 0x128 v).reg (R.tileFpFlags t)).getLsbD i =
    ((s.reg (R.tileFpFlags t)).getLsbD i && !(decide (i < 6) && v.getLsbD i)) := by
  have h64 : (v.toNat % 64).testBit i = (decide (i < 6) && v.getLsbD i) := Nat.testBit_mod_two_pow v.toNat 6 i
  have hw : s.csrWrite t 0x128 v = s.setReg (R.tileFpFlags t) (s.reg (R.tileFpFlags t) &&& ~~~ BitVec.ofNat 64 (v.toNat % 64)) := by
    simp [State.csrWrite]
  rw [hw, State.reg_setReg_same, BitVec.getLsbD_and, BitVec.getLsbD_not, BitVec.getLsbD_ofNat, h64]
  by_cases hi : i < 64
  · simp [hi]
  · rw [BitVec.getLsbD_of_ge _ _ (by omega)]; simp

end

/-! ## END -/

theorem State.tryDone_of_empty {s : State} {t : Nat} (hsb : (s.tile t).sb = []) (hr : s.running t = true) (he : (s.tile t).ended = true) :
    s.tryDone t = s.wr (F.tileStatState t) stDone := by
  simp [State.tryDone, hsb, hr, he]

theorem State.tryDone_of_entries {s : State} {t : Nat} (hsb : (s.tile t).sb ≠ []) : s.tryDone t = s := by
  simp [State.tryDone, hsb]

end Sys2Proof.Machine
end

section
open Sys2Proof Sys2Proof.Machine

/-- Settles O3, operation by operation. -/
theorem scalarControl : Obligations.ScalarControl := by
  unfold Obligations.ScalarControl
  intro s u t sd sa imm errs sq hd x b turn taken gives
  refine ⟨fun h => ⟨_, brz_of_turn h, ?_⟩, fun h => ⟨_, brnz_of_turn h, ?_⟩, fun h => ⟨_, jmp_of_turn h, rfl⟩,
    fun h => ⟨u, congrArg _ (State.scalar_of_turn h _), rfl⟩, fun h => ⟨u, congrArg _ (State.scalar_of_turn h _), rfl⟩,
    fun h => ⟨_, congrArg _ (State.scalar_of_turn h _), ⟨?_, ?_⟩, fun n => ?_, State.csrRead_eq u t⟩,
    fun h => ⟨_, congrArg _ (State.scalar_of_turn h _), fun hi => ?_, fun hi => ?_, fun hi => ?_⟩, fun h => ?_⟩
  · split <;> rfl
  · split <;> rfl
  · rfl
  · intro k hk
    rw [State.tile_modTile_ne _ _ _ hk, State.setS, State.tile_modTile_ne _ _ _ hk]
  · rw [State.tile_modTile_same, State.setS, State.tile_modTile_same]
    exact x.sreg_setSreg_read sd.toNat (u.csrRead t imm.toNat).1 n
  · have hw : u.csrWrite t imm.toNat (x.sreg sa.toNat) = u.setReg (R.tileFpCtrl t) (BitVec.ofNat 64 ((x.sreg sa.toNat).toNat % 8)) := by
      rw [hi]; rfl
    rw [hw]
    exact ⟨State.setReg_only .., by rw [State.reg_setReg_same, BitVec.toNat_ofNat, Nat.mod_eq_of_lt (by omega)]⟩
  · rw [hi]
    exact ⟨State.setReg_only .., State.getLsbD_csrWrite_flags u t _⟩
  · have hw : u.csrWrite t imm.toNat (x.sreg sa.toNat) = u.setReg (R.tileSrState t) ((srLoad (x.sreg sa.toNat)).zeroExtend 64) := by
      rw [hi]; rfl
    rw [hw]
    refine ⟨State.setReg_only .., ?_⟩
    rw [State.reg_setReg_same, BitVec.toNat_setWidth, Nat.mod_eq_of_lt (by omega), srLoad, apply_ite BitVec.toNat]
    rfl
  · intro w
    refine ⟨?_, fun hsb hr he => ?_, State.tryDone_of_entries⟩
    · show execEnd t errs s = _
      rw [execEnd, State.issue_of_slotTurn _ _ _ _ _ _ h]; rfl
    · rw [State.tryDone_of_empty hsb hr he]
      exact ⟨State.rd_wr_same _ _ _ (by simp [F.tileStatState]), State.wr_only ..⟩

end

section
/-! What a tile's own acts leave alone: everything but the tile, some of its registers, the event counters and the count of free values. -/

namespace Sys2Proof.Machine

/-- Nothing but tile `t`, the registers that `p` allows, the event counters and the count of free values drawn differs. -/
def confined (t : Nat) (p : Nat → Prop) (s w : State) : Prop :=
  w = { s with tiles := w.tiles, regs := w.regs, counters := w.counters, freeCtr := w.freeCtr } ∧
    (∀ k, k ≠ t → w.tile k = s.tile k) ∧ ∀ a, ¬ p a → w.reg a = s.reg a

section
variable {t : Nat} {p : Nat → Prop}

theorem confined.refl (s : State) : confined t p s s := ⟨rfl, fun _ _ => rfl, fun _ _ => rfl⟩

theorem confined.trans {s v w : State} (h : confined t p s v) (h' : confined t p v w) : confined t p s w := by
  obtain ⟨hv, hvt, hvr⟩ := h
  obtain ⟨hw, hwt, hwr⟩ := h'
  exact ⟨by rw [hw, hv], fun k hk => (hwt k hk).trans (hvt k hk), fun a ha => (hwr a ha).trans (hvr a ha)⟩

theorem confined_foldl {β : Type} {f : State → β → State} (h : ∀ u x, confined t p u (f u x)) (l : List β) (s : State) :
    confined t p s (l.foldl f s) :=
  foldl_keep f (confined t p s) l s (.refl s) fun u x hu => hu.trans (h u x)

/-! ## The operations over the state -/

variable (s : State)

theorem confined_modTile (f : TileSt → TileSt) : confined t p s (s.modTile t f) :=
  ⟨rfl, fun _ hk => State.tile_modTile_ne s t f hk, fun _ _ => rfl⟩

theorem confined_bump (ev : Nat) (u : EvUnit) (n : Nat) : confined t p s (s.bump ev u n) := ⟨rfl, fun _ _ => rfl, fun _ _ => rfl⟩

theorem confined_free : confined t p s s.free.2 := ⟨rfl, fun _ _ => rfl, fun _ _ => rfl⟩

theorem confined_setReg {a : Nat} (v : W64) (ha : p a) : confined t p s (s.setReg a v) :=
  ⟨rfl, fun _ _ => rfl, fun _ hb => State.reg_setReg_ne s v fun h => hb (h ▸ ha)⟩

theorem confined_wr (f : Fld) (v : Nat) (hf : p f.addr) : confined t p s (s.wr f v) := confined_setReg s _ hf

theorem confined_record {valid multi : Fld} {ws : List (Fld × Nat)} (hv : p valid.addr) (hm : p multi.addr) (hw : ∀ q ∈ ws, p q.1.addr) :
    confined t p s (s.record valid multi ws) := by
  unfold State.record
  split
  · exact confined_wr s _ _ hm
  · obtain ⟨hws, hregs⟩ := s.wrs_only ws
    refine .trans ⟨?_, fun k _ => State.tile_wrs .., fun a ha => hregs a fun hmem => ?_⟩ (confined_wr _ _ _ hv)
    · rw [hws]
    · obtain ⟨q, hq, rfl⟩ := List.mem_map.mp hmem
      exact ha (hw q hq)

/-! ## The scratchpad: of registers it writes only TILE_SPD_ERR -/

variable (hp : p (R.tileSpdErr t))
include hp

theorem confined_spdCeCount : confined t p s (s.spdCeCount t) :=
  ((confined_bump s _ _ _).trans (confined_wr _ _ _ hp)).trans (confined_wr _ _ _ hp)

theorem confined_spdCe (w : Nat) : confined t p s (s.spdCe t w) := (confined_spdCeCount s hp).trans (confined_modTile _ _)

theorem confined_spdUe (w src : Nat) : confined t p s (s.spdUe t w src) := by
  unfold State.spdUe
  refine ((confined_bump s _ _ _).trans (confined_record _ hp hp ?_)).trans (confined_modTile _ _)
  simp [F.tileSpdErrUeAddr, F.tileSpdErrUeSrc, hp]

theorem confined_spdDecode (w src : Nat) (errs : List SpdErr) : confined t p s (s.spdDecode t w src errs) := by
  have hfresh : confined t p s (s.freshRead t w errs) := by
    unfold State.freshRead
    split
    · exact confined_spdCeCount s hp
    · exact .refl s
  unfold State.spdDecode
  dsimp only
  split
  · exact hfresh
  · split
    · exact hfresh.trans (confined_spdUe _ hp w src)
    · split
      · exact hfresh.trans (confined_spdCe _ hp w)
      · exact hfresh

theorem confined_gatherPut (g : Gather) (errs : List SpdErr) : confined t p s (s.gatherPut t g errs) := by
  unfold State.gatherPut
  extract_lets x whole s1 x1 q
  have h1 : confined t p s s1 := by
    unfold s1
    split
    · exact .refl s
    · exact (confined_spdDecode s hp _ _ _).trans (confined_bump _ _ _ _)
  exact h1.trans (confined_modTile s1 _)

theorem confined_gatherFlush (w : Nat) (errs : List SpdErr) : confined t p s (s.gatherFlush t w errs) := by
  unfold State.gatherFlush
  split
  · exact confined_gatherPut s hp _ errs
  · exact .refl s

theorem confined_gatherAdd (w : Nat) (mask : BitVec 8) (bytes : List Byte) (q : Bool) (owner serial : Nat) (errs : List SpdErr) :
    confined t p s (s.gatherAdd t w mask bytes q owner serial errs) := by
  unfold State.gatherAdd
  split
  · dsimp only
    split
    · exact confined_gatherPut s hp _ errs
    · exact confined_modTile s _
  · dsimp only
    refine .trans ?_ (confined_modTile _ _)
    split
    · exact (confined_gatherPut s hp _ errs).trans (confined_bump _ _ _ _)
    · exact .refl s

theorem confined_spdRead (a n src : Nat) (errs : List SpdErr) : confined t p s (s.spdRead t a n src errs).1 :=
  confined_foldl (fun u w => (confined_gatherFlush u hp w errs).trans (confined_spdDecode _ hp w src _)) _ s

theorem confined_spdWrite (a : Nat) (bs : List PB) (owner serial : Nat) (errs : List SpdErr) :
    confined t p s (s.spdWrite t a bs owner serial errs) := by
  refine confined_foldl (fun u w => ?_) _ s
  dsimp only
  split
  · exact confined_modTile u _
  · exact confined_gatherAdd u hp _ _ _ _ _ _ errs

end

end Sys2Proof.Machine
end

section
/-! Vector loads and stores in their turn (R107, R116, R147, R173). -/

namespace Sys2Proof.Machine

/-! ## Elements in a run of bytes -/

theorem take_drop_map_range {α : Type} (g : Nat → α) {n i k : Nat} (h : i + k ≤ n) :
    (((List.range n).map g).drop i).take k = (List.range k).map fun j => g (i + j) := by
  refine List.ext_getElem (by simp; omega) fun j _ _ => ?_
  simp

/-- The bytes of elements of `eb` bytes one after another. -/
theorem getD_flatMap_leBytes {eb : Nat} (heb : 0 < eb) (es : List Nat) {i : Nat} (h : i < eb * es.length) :
    (es.flatMap (leBytes eb)).getD i 0 = BitVec.ofNat 8 (es.getD (i / eb) 0 / 256 ^ (i % eb)) := by
  induction es generalizing i with
  | nil => simp at h
  | cons e es ih =>
    rw [List.flatMap_cons]
    by_cases hi : i < eb
    · rw [List.getD_append _ _ _ _ (by simpa using hi), getD_leBytes _ _ hi, Nat.div_eq_of_lt hi, Nat.mod_eq_of_lt hi, List.getD_cons_zero]
    · obtain ⟨j, rfl⟩ := Nat.exists_eq_add_of_le (not_lt.mp hi)
      rw [List.length_cons, Nat.mul_add, Nat.mul_one] at h
      rw [List.getD_append_right _ _ _ _ (by simp), leBytes_length, Nat.add_sub_cancel_left, ih (by omega), Nat.add_div_left _ heb,
        List.getD_cons_succ, Nat.add_mod_left]

theorem length_flatMap_leBytes (eb : Nat) (es : List Nat) : (es.flatMap (leBytes eb)).length = eb * es.length := by
  rw [length_flatMap_const eb _ _ fun x => leBytes_length eb x]

/-! ## The runs of selected lanes -/

theorem laneRuns_le (sel : Nat → Bool) (n : Nat) : ∀ r ∈ laneRuns sel n, r.1 + r.2 ≤ n := by
  induction n with
  | zero => simp [laneRuns]
  | succ n ih =>
    have ih' : ∀ r ∈ laneRuns sel n, r.1 + r.2 ≤ n + 1 := fun r hr => Nat.le_succ_of_le (ih r hr)
    rw [laneRuns]
    split
    · split
      · rename_i a k rest hl
        rw [hl] at ih'
        obtain ⟨h1, h2⟩ := List.forall_mem_cons.mp ih'
        split
        · exact List.forall_mem_cons.mpr ⟨by dsimp only; omega, h2⟩
        · rw [hl]; exact List.forall_mem_cons.mpr ⟨le_refl _, ih'⟩
      · simp
    · exact ih'

/-- The runs are the lanes that are selected. -/
theorem exists_mem_laneRuns (sel : Nat → Bool) (n l : Nat) :
    (∃ r ∈ laneRuns sel n, r.1 ≤ l ∧ l < r.1 + r.2) ↔ l < n ∧ sel l = true := by
  induction n with
  | zero => simp [laneRuns]
  | succ n ih =>
    have hsucc : l < n + 1 ∧ sel l = true ↔ (l < n ∧ sel l = true) ∨ (l = n ∧ sel n = true) := by
      constructor
      · rintro ⟨h, hs⟩
        obtain h | rfl := Nat.lt_succ_iff_lt_or_eq.mp h
        · exact .inl ⟨h, hs⟩
        · exact .inr ⟨rfl, hs⟩
      · rintro (⟨h, hs⟩ | ⟨rfl, hs⟩)
        · exact ⟨by omega, hs⟩
        · exact ⟨by omega, hs⟩
    rw [hsucc, ← ih, laneRuns]
    split
    · rename_i hs
      split
      · rename_i a k rest hl
        have hone : n ≤ l ∧ l < n + 1 ↔ l = n := by omega
        split
        · have hhead : a ≤ l ∧ l < a + (k + 1) ↔ (a ≤ l ∧ l < a + k) ∨ l = n := by omega
          simp only [hl, hs, and_true, List.exists_mem_cons_iff, hhead]
          exact or_right_comm
        · simp only [hl, hs, and_true, List.exists_mem_cons_iff, hone]
          exact or_comm
      · rename_i hl
        simp only [hl, hs, and_true, List.not_mem_nil, false_and, exists_false, false_or, List.mem_singleton, exists_eq_left]
        omega
    · rename_i hs
      simp [hs]

/-! ## Stores -/

/-- The bytes of lanes written in runs: each run stores elements in their places. -/
theorem State.byteAt_foldl_runs (t a : Nat) {eb : Nat} (heb : 0 < eb) (es : List Nat) (errs : List SpdErr) (rs : List (Nat × Nat))
    (hrs : ∀ r ∈ rs, r.1 + r.2 ≤ es.length) (s : State) (j k : Nat) :
    ((rs.foldl (fun s r => s.spdWrite t (a + eb * r.1) (cleanBytes (((es.drop r.1).take r.2).flatMap (leBytes eb))) 3 0 errs) s).tile j).byteAt k =
      if j = t ∧ a ≤ k ∧ ∃ r ∈ rs, r.1 ≤ (k - a) / eb ∧ (k - a) / eb < r.1 + r.2 then
        BitVec.ofNat 8 (es.getD ((k - a) / eb) 0 / 256 ^ ((k - a) % eb))
      else (s.tile j).byteAt k := by
  induction rs generalizing s with
  | nil => simp
  | cons r rs ih =>
    obtain ⟨hr, hrs⟩ := List.forall_mem_cons.mp hrs
    have hlen : ((es.drop r.1).take r.2).length = r.2 := by rw [List.length_take, List.length_drop]; omega
    have hin : a ≤ k → (a + eb * r.1 ≤ k ∧ k < a + eb * r.1 + eb * r.2 ↔ r.1 ≤ (k - a) / eb ∧ (k - a) / eb < r.1 + r.2) := fun hk => by
      rw [Nat.le_div_iff_mul_le heb, Nat.div_lt_iff_lt_mul heb, Nat.add_mul, Nat.mul_comm eb, Nat.mul_comm eb]; omega
    rw [List.foldl_cons, ih hrs, State.byteAt_spdWrite, length_cleanBytes, length_flatMap_leBytes, hlen, getD_cleanBytes]
    by_cases hk : j = t ∧ a ≤ k
    · obtain ⟨rfl, hk⟩ := hk
      simp only [hk, true_and, List.exists_mem_cons_iff, hin hk]
      by_cases hrest : ∃ q ∈ rs, q.1 ≤ (k - a) / eb ∧ (k - a) / eb < q.1 + q.2
      · rw [if_pos hrest, if_pos (.inr hrest)]
      · rw [if_neg hrest]
        refine ite_congr (by simp [hrest]) (fun hhere => ?_) fun _ => rfl
        have hhere := (hin hk).mpr (by simpa [hrest] using hhere)
        obtain ⟨i, rfl⟩ := Nat.exists_eq_add_of_le hhere.1
        have hi : i < eb * r.2 := by omega
        have hq : a + eb * r.1 + i - a = i + eb * r.1 := by omega
        rw [Nat.add_sub_cancel_left, getD_flatMap_leBytes heb _ (by rwa [hlen]), hq, Nat.add_mul_div_left _ _ heb, Nat.add_mul_mod_self_left]
        have hlt : i / eb < r.2 := Nat.div_lt_of_lt_mul hi
        simp only [List.getD_eq_getElem?_getD, List.getElem?_take, hlt, if_true, List.getElem?_drop, Nat.add_comm]
    · have hw : ¬(j = t ∧ a + eb * r.1 ≤ k ∧ k < a + eb * r.1 + eb * r.2) := fun h => hk ⟨h.1, le_trans (Nat.le_add_right _ _) h.2.1⟩
      rw [if_neg hw, if_neg fun h => hk ⟨h.1, h.2.1⟩, if_neg fun h => hk ⟨h.1, h.2.1⟩]

section
variable (s : State) (t : Nat) (v : VM) {eb : Nat} {es : List Nat} (errs : List SpdErr)

theorem State.vstore_eq : s.vstore t v eb es errs =
    (laneRuns ((s.tile t).lanesOn v.mask.toNat) 64).reverse.foldl (fun u r => u.spdWrite t (vAddr (s.tile t) v + eb * r.1)
      (cleanBytes (((es.drop r.1).take r.2).flatMap (leBytes eb))) 3 0 errs) s := by
  simp only [State.vstore, cleanBytes, List.map_flatMap]

/-- A vector store writes the bytes of the selected lanes and no other (R116, R147). -/
theorem State.byteAt_vstore (heb : 0 < eb) (hes : es.length = 64) (j k : Nat) :
    let a := vAddr (s.tile t) v
    ((s.vstore t v eb es errs).tile j).byteAt k =
      if j = t ∧ a ≤ k ∧ k < a + 64 * eb ∧ (s.tile t).lanesOn v.mask.toNat ((k - a) / eb) = true then
        BitVec.ofNat 8 (es.getD ((k - a) / eb) 0 / 256 ^ ((k - a) % eb))
      else (s.tile j).byteAt k := by
  intro a
  have hle : ∀ r ∈ (laneRuns ((s.tile t).lanesOn v.mask.toNat) 64).reverse, r.1 + r.2 ≤ es.length := fun r hr =>
    (laneRuns_le _ 64 r (List.mem_reverse.mp hr)).trans hes.ge
  rw [State.vstore_eq, State.byteAt_foldl_runs t a heb es errs _ hle]
  simp only [List.mem_reverse, exists_mem_laneRuns]
  refine if_congr (and_congr_right fun _ => and_congr_right fun hk => and_congr_left fun _ => ?_) rfl rfl
  rw [Nat.div_lt_iff_lt_mul heb]; omega

/-- A vector store touches no unit of any tile. -/
theorem State.units_vstore (j : Nat) : (s.tile j).sameUnits ((s.vstore t v eb es errs).tile j) :=
  foldl_keep _ (fun u : State => (s.tile j).sameUnits (u.tile j)) _ s rfl fun _ _ h => TileSt.sameUnits_trans h (State.units_spdWrite ..)

/-- Of registers a vector store writes at most TILE_SPD_ERR. -/
theorem confined_vstore {p : Nat → Prop} (hp : p (R.tileSpdErr t)) : confined t p s (s.vstore t v eb es errs) :=
  confined_foldl (fun u _ => confined_spdWrite u hp _ _ _ _ _) _ s

end

/-! ## Loads -/

theorem TileSt.sameUnits.lanesOn_eq {x y : TileSt} (h : x.sameUnits y) (m : Nat) : y.lanesOn m = x.lanesOn m := by rw [h]; rfl

theorem TileSt.sameUnits.lane_eq {x y : TileSt} (h : x.sameUnits y) (r l : Nat) : y.lane r l = x.lane r l := by rw [h]; rfl

theorem anyPois_iff (bs : List PB) : anyPois bs = true ↔ ∃ i, bs.findIdx? (·.p) = some i := by
  rw [← Option.isSome_iff_exists, List.findIdx?_isSome, anyPois]

section
variable {s u : State} {t : Nat} {v : VM} {errs : List SpdErr} {sq hd : Option (List W64)}

/-- The element of a vector load or store for lane `l`, little-endian, as the scratchpad holds it. -/
def State.elemAt (u : State) (t a eb l : Nat) : Nat := leNat ((List.range eb).map fun i => u.spdByte t (a + eb * l + i))

/-- What follows a clean read of a vector load: lanes and flags, lane by lane. -/
theorem vload_of_turn {op eb : Nat} (h : s.slotTurn t 2 errs (isVM op v) = some (u, sq, hd)) (f : Nat → FRes) (hlen : vLen op v = 64 * eb) :
    let a := vAddr (u.tile t) v
    let r := u.spdRead t a (64 * eb) 0 errs
    (anyPois r.2 = false → s.vload t op v errs eb f =
      (r.1.laneEnd t v.vreg.toNat ((u.tile t).lanesOn v.mask.toNat) false fun l =>
        ⟨BitVec.ofNat 32 (f (u.elemAt t a eb l)).bits, (f (u.elemAt t a eb l)).flags⟩).slotDone t 2 (s.bundle t)) ∧
    (anyPois r.2 = true → ∃ k, s.vload t op v errs eb f =
      (r.1.tileFault t ⟨cPOISON, 2, k⟩ 0 (r.1.tile t).pc).slotDone t 2 (s.bundle t)) := by
  intro a r
  have his := State.accepted_of_slotTurn h
  simp only [isVM, Bool.and_eq_true, decide_eq_true_eq] at his
  obtain ⟨hop, -⟩ := his
  have hact := State.vector_of_turn h
  refine ⟨fun hc => ?_, fun hp => ?_⟩
  · have hnone : (u.spdRead t (vAddr (u.tile t) v) (64 * eb) 0 errs).2.findIdx? (·.p) = none := findIdx_none_of_clean _ hc
    have helem : (List.range 64).map (fun l =>
        f (leNat ((((u.spdRead t (vAddr (u.tile t) v) (64 * eb) 0 errs).2.drop (eb * l)).take eb).map (·.b)))) =
        (List.range 64).map fun l => f (u.elemAt t (vAddr (u.tile t) v) eb l) := List.map_congr_left fun l hl => by
      have hl : eb * l + eb ≤ 64 * eb := by
        rw [← Nat.mul_succ, Nat.mul_comm]; exact Nat.mul_le_mul_right _ (List.mem_range.mp hl)
      rw [List.map_take, List.map_drop, State.spdRead_bytes, take_drop_map_range _ hl]
      simp only [State.elemAt, Nat.add_assoc]
    rw [State.vload, hact]
    simp only [hop, hlen, hnone, helem, foldl_getD_eq_laneFlags _ _ _ FRes.flags, (u.units_spdRead t _ _ _ errs t).lanesOn_eq, List.map_map]
    rfl
  · obtain ⟨i, hi⟩ := (anyPois_iff _).mp hp
    have hsome : (u.spdRead t (vAddr (u.tile t) v) (64 * eb) 0 errs).2.findIdx? (·.p) = some i := hi
    refine ⟨(a + i) / 8 * 8, ?_⟩
    rw [State.vload, hact]
    simp only [hop, hlen, hsome]
    rfl

/-- What a vector store leaves of lanes, flags, generator and bytes, from a state whose tiles are those of the turn. -/
theorem vstore_leaves {z : State} (htiles : z.tiles = u.tiles) {eb : Nat} (heb : 0 < eb) (f : Nat → FRes)
    (hflags : flagsRaised u z t ((u.tile t).lanesOn v.mask.toNat) fun l => (f l).flags) :
    let w := z.vstore t v eb ((List.range 64).map fun l => (f l).bits) errs
    let a := vAddr (u.tile t) v
    (∀ r l, (w.tile t).lane r l = (u.tile t).lane r l) ∧ flagsRaised u w t ((u.tile t).lanesOn v.mask.toNat) (fun l => (f l).flags) ∧
      w.srState t = z.srState t ∧ ∀ j k, w.spdByte j k =
        if j = t ∧ a ≤ k ∧ k < a + 64 * eb ∧ (u.tile t).lanesOn v.mask.toNat ((k - a) / eb) = true then
          BitVec.ofNat 8 ((f ((k - a) / eb)).bits / 256 ^ ((k - a) % eb))
        else u.spdByte j k := by
  intro w a
  have htile (j : Nat) : z.tile j = u.tile j := by rw [State.tile, State.tile, htiles]
  obtain ⟨-, -, hregs⟩ := confined_vstore z t v (eb := eb) (es := (List.range 64).map fun l => (f l).bits) errs (p := (· = R.tileSpdErr t)) rfl
  refine ⟨fun r l => ?_, fun i => ?_, ?_, fun j k => ?_⟩
  · rw [(State.units_vstore z t v errs t).lane_eq, htile]
  · rw [hregs _ (by simp [R.tileFpFlags, R.tileSpdErr]), hflags i]
  · rw [State.srState, State.srState, State.rd, State.rd, hregs _ (by simp [F.tileSrStateState, R.tileSrState, R.tileSpdErr])]
  · rw [State.spdByte_eq, State.byteAt_vstore z t v errs heb (by simp), htile, htile, ← State.spdByte_eq]
    refine ite_congr rfl (fun hin => ?_) fun _ => rfl
    obtain ⟨-, hlo, hhi, -⟩ := hin
    rw [getD_map_range _ _ (by rw [Nat.div_lt_iff_lt_mul heb]; omega)]

theorem TileSt.byteAt_putLanes (x : TileSt) (v : Nat) (sel : Nat → Bool) (new : List W32) (k : Nat) :
    (x.putLanes v sel new).byteAt k = x.byteAt k := rfl

theorem State.spdByte_laneEnd (s : State) (t vd : Nat) (sel : Nat → Bool) (used : Bool) (rs : Nat → LRes) (j k : Nat) :
    (s.laneEnd t vd sel used rs).spdByte j k = s.spdByte j k := by
  rw [State.laneEnd, State.vecEnd, State.spdByte_modTile _ _ fun x k => x.byteAt_putLanes _ _ _ k, State.spdByte_eq, State.spdByte_eq, State.tile_srAdvance, State.tile_raise]

theorem flagsRaised_refl (u : State) (t : Nat) (sel : Nat → Bool) : flagsRaised u u t sel fun _ => 0 := fun i => by simp

theorem vst_of_turn (h : s.slotTurn t 2 errs (isVM 33 v) = some (u, sq, hd)) :
    exec (.vst t v errs) s = .next ((u.vstore t v 4 ((List.range 64).map fun l => ((u.tile t).lane v.vreg.toNat l).toNat) errs).slotDone t 2
      (s.bundle t)) := by
  show execVst t v errs s = _
  rw [execVst, State.vector_of_turn h]
  simp only [TileSt.vreg, List.map_map]
  rfl

/-- A lane narrowed to the format of a VSTN. -/
def State.narrowedTo (u : State) (t : Nat) (v : VM) (l : Nat) : FRes :=
  nNarrow v.nfmt.toNat (u.cvtCode t v.rnd.toNat) (u.cvtSat t v.sat.toNat) (u.srState t) l ((u.tile t).lane v.vreg.toNat l)

/-- A VSTN that rounds stochastically. -/
def State.stochastic (u : State) (t : Nat) (v : VM) : Prop := u.cvtCode t v.rnd.toNat = 1 ∧ (v.nfmt = 0 ∨ v.nfmt = 2 ∨ v.nfmt = 3)

theorem State.stochastic_iff (u : State) (t : Nat) (v : VM) :
    (decide (u.cvtCode t v.rnd.toNat = 1) && [0, 2, 3].contains v.nfmt.toNat) = true ↔ u.stochastic t v := by
  have hn (n : Nat) (hn : n < 8) : v.nfmt.toNat = n ↔ v.nfmt = BitVec.ofNat 3 n := by
    rw [← BitVec.toNat_inj, BitVec.toNat_ofNat, Nat.mod_eq_of_lt hn]
  simp only [State.stochastic, Bool.and_eq_true, decide_eq_true_eq, List.contains_iff_mem, List.mem_cons, List.not_mem_nil, or_false,
    hn 0 (by omega), hn 2 (by omega), hn 3 (by omega)]
  rfl

theorem vstn_of_turn (h : s.slotTurn t 2 errs (isVM 35 v) = some (u, sq, hd)) :
    ∃ z : State, z.tiles = u.tiles ∧ flagsRaised u z t ((u.tile t).lanesOn v.mask.toNat) (fun l => (u.narrowedTo t v l).flags) ∧
      (u.stochastic t v → z.srState t = srNext (u.srState t)) ∧ (¬ u.stochastic t v → z.srState t = u.srState t) ∧
      exec (.vstn t v errs) s = .next ((z.vstore t v (nfmtBytes v.nfmt.toNat) ((List.range 64).map fun l => (u.narrowedTo t v l).bits) errs).slotDone
        t 2 (s.bundle t)) := by
  refine ⟨(u.raise t (laneFlags ((u.tile t).lanesOn v.mask.toNat) fun l => (u.narrowedTo t v l).flags)).srAdvance t
    (decide (u.cvtCode t v.rnd.toNat = 1) && [0, 2, 3].contains v.nfmt.toNat), ?_, ?_, fun hs => ?_, fun hs => ?_, ?_⟩
  · unfold State.srAdvance; split <;> rfl
  · exact State.flagsRaised_vecEnd (f := id) testBit_laneFlags
  · rw [State.srState_srAdvance, if_pos ((u.stochastic_iff t v).mpr hs), State.srState_raise]
  · rw [State.srState_srAdvance, if_neg (mt (u.stochastic_iff t v).mp hs), State.srState_raise]
  · show execVstn t v errs s = _
    rw [execVstn, State.vector_of_turn h]
    simp only [foldl_getD_eq_laneFlags _ _ _ FRes.flags, List.map_map]
    rfl

end

end Sys2Proof.Machine
end

section
open Sys2Proof Sys2Proof.Machine

/-- Settles O9: loads are one read and one `laneEnd`, stores write the runs of selected lanes. -/
theorem vectorMemory : Obligations.VectorMemory := by
  unfold Obligations.VectorMemory
  intro s u t v errs sq hd x sel ad turn eb num loads stores
  have load {op n : Nat} (f : Nat → FRes) (h : turn op) (hlen : vLen op v = 64 * n) :
      loads (.next (s.vload t op v errs n f)) n fun l => f (num n l) := by
    obtain ⟨hclean, hpois⟩ := vload_of_turn h f hlen
    refine ⟨fun hc => ⟨_, congrArg _ (hclean hc), fun j k => ?_, ?_⟩, fun hp => ?_⟩
    · rw [State.spdByte_laneEnd]; exact State.spdByte_spdRead ..
    · exact State.laneOp_laneEnd
    · obtain ⟨k, hk⟩ := hpois hp
      exact ⟨k, congrArg _ hk⟩
  refine ⟨fun h => load (fun n => ⟨n, 0⟩) h rfl, fun h => load (nWiden v.nfmt.toNat) h rfl, fun h => ?_, fun h => ?_⟩
  · obtain ⟨hlanes, hflags, hsr, hbytes⟩ := vstore_leaves (v := v) (errs := errs) (z := u) rfl (by decide : 0 < 4)
      (fun l => ⟨(x.lane v.vreg.toNat l).toNat, 0⟩) (flagsRaised_refl u t _)
    exact ⟨_, vst_of_turn h, hlanes, hflags, hsr, hbytes⟩
  · obtain ⟨z, htiles, hraised, hadv, hstay, hexec⟩ := vstn_of_turn h
    have hpos : 0 < eb := by unfold eb; split <;> omega
    obtain ⟨hlanes, hflags, hsr, hbytes⟩ := vstore_leaves (v := v) (errs := errs) htiles hpos (u.narrowedTo t v) hraised
    refine ⟨_, hexec, hlanes, hflags, ?_, hbytes⟩
    split
    · rename_i hs; exact hsr.trans (hadv hs)
    · rename_i hs; exact hsr.trans (hstay hs)

end

section
/-! What a slot of a bundle, a fault and the end of a chain touch: the tile and its own page (R104, R113, R129, R145). -/

namespace Sys2Proof.Machine

/-- A register of a tile's own page. -/
def pageReg (t a : Nat) : Prop := R.tileCtrl t ≤ a ∧ a < R.tileCtrl t + 0x800

/-- Nothing but a tile, registers of its own page, event counters and the count of free values drawn differs. -/
abbrev ownOnly (t : Nat) : State → State → Prop := confined t (pageReg t)

theorem pageReg_tileStat (t : Nat) : pageReg t (R.tileStat t) := by simp only [pageReg, R.tileStat, R.tileCtrl]; omega
theorem pageReg_tileFault (t : Nat) : pageReg t (R.tileFault t) := by simp only [pageReg, R.tileFault, R.tileCtrl]; omega
theorem pageReg_tileFaultAddr (t : Nat) : pageReg t (R.tileFaultAddr t) := by simp only [pageReg, R.tileFaultAddr, R.tileCtrl]; omega
theorem pageReg_tileSpdErr (t : Nat) : pageReg t (R.tileSpdErr t) := by simp only [pageReg, R.tileSpdErr, R.tileCtrl]; omega
theorem pageReg_tileFpCtrl (t : Nat) : pageReg t (R.tileFpCtrl t) := by simp only [pageReg, R.tileFpCtrl, R.tileCtrl]; omega
theorem pageReg_tileFpFlags (t : Nat) : pageReg t (R.tileFpFlags t) := by simp only [pageReg, R.tileFpFlags, R.tileCtrl]; omega
theorem pageReg_tileSrState (t : Nat) : pageReg t (R.tileSrState t) := by simp only [pageReg, R.tileSrState, R.tileCtrl]; omega
theorem pageReg_tileTallyLog (t : Nat) : pageReg t (R.tileTallyLog t) := by simp only [pageReg, R.tileTallyLog, R.tileCtrl]; omega
theorem pageReg_tileFeLast (t : Nat) {n : Nat} (h : n < 2) : pageReg t (R.tileFeLast t n) := by simp only [pageReg, R.tileFeLast, R.tileCtrl]; omega

/-! ## The verdict on a bundle (R120, R121, R700, R705) -/

/-- What the descriptors that a bundle names give it, its sequence's read before its chain's. -/
def State.preps (s : State) (t : Nat) (b : Bundle) (errs : List SpdErr) : State × Prep × Prep :=
  let q := if b.mGo then s.prepSeq t (mAddr (s.tile t) b) errs else (s, .none_)
  let h := if b.fStart then q.1.prepChain t (fAddr (s.tile t) b) errs else (q.1, .none_)
  (h.1, q.2, h.2)

/-- The ranges that descriptors place. -/
def placedRngs (sq hd : Prep) : List Rng := ((sq.words.map sqRanges).getD []) ++ ((hd.words.map hdRanges).getD [])

/-- What becomes of a bundle once its descriptors are read: its faults at decode, what it waits for, its faults at the cycle of issue. -/
def State.weigh (s : State) (t : Nat) (x : TileSt) (b : Bundle) (sq hd : Prep) : Verdict :=
  let rs := namedDescs x b ++ namedAccess x b ++ placedRngs sq hd
  faultsOr (faultsAt x b rs)
    (if rs.any fun r => x.sb.any fun e => e.conflicts r then .hold Ev.issueSbConflict
     else if 16 < x.sb.length + (placedRngs sq hd).length then .hold Ev.issueSbFull
     else if x.unitBusy b then .hold Ev.issueUnitBusy
     else if decide (b.sOp = 21) && !waitHolds x (b.imm % 8) then .hold Ev.issueWait
     else faultsOr (optList sq.fault ++ optList hd.fault ++ s.vFaults t b ++ s.sFaults t b) (.go sq.words hd.words))

/-- The descriptors wait for an entry of the scoreboard. -/
def TileSt.descsWait (x : TileSt) (b : Bundle) : Bool := (namedDescs x b).any fun r => x.sb.any fun e => e.conflicts r

/-- A bundle in a cycle: with descriptors that must wait it shows the faults that need none, else the descriptors are read and it is judged. -/
theorem State.verdict_eq (s : State) (t : Nat) (b : Bundle) (errs : List SpdErr) : s.verdict t b errs =
    if (s.tile t).descsWait b then (s, faultsOr (decodeFaults (s.tile t) b) (.hold Ev.issueSbConflict))
    else ((s.preps t b errs).1, (s.preps t b errs).1.weigh t (s.tile t) b (s.preps t b errs).2.1 (s.preps t b errs).2.2) := by
  unfold State.verdict TileSt.descsWait
  extract_lets x named
  split
  · rfl
  · split
    rename_i s1 sq hq
    split
    rename_i s2 hd hh
    dsimp only [x] at hq hh
    have hpr : s.preps t b errs = (s2, sq, hd) := by simp only [State.preps, hq, hh]
    rw [hpr]
    extract_lets placed
    have hpl : placedRngs sq hd = placed := by
      unfold placedRngs placed; cases sq.words <;> cases hd.words <;> rfl
    unfold State.weigh
    dsimp only
    rw [hpl]
    clear_value placed
    show _ = (s2, faultsOr (faultsAt x b (named ++ placed)) _)
    cases faultsAt x b (named ++ placed) with
    | cons f r => rfl
    | nil =>
      dsimp only [faultsOr]
      split
      · rfl
      split
      · rfl
      split
      · rfl
      split <;> rfl

section
variable (s : State) (t : Nat)

theorem ownOnly_spdRead (a n src : Nat) (errs : List SpdErr) : ownOnly t s (s.spdRead t a n src errs).1 :=
  confined_spdRead s (pageReg_tileSpdErr t) a n src errs

theorem ownOnly_spdWrite (a : Nat) (bs : List PB) (owner serial : Nat) (errs : List SpdErr) :
    ownOnly t s (s.spdWrite t a bs owner serial errs) := confined_spdWrite s (pageReg_tileSpdErr t) a bs owner serial errs

/-! ## Chains that end, and faults -/

theorem confined_chainEnd {p : Nat → Prop} (c : Chain) : confined t p s (s.chainEnd c).1 := by
  unfold State.chainEnd
  split
  · exact .refl s
  · split
    · exact confined_free s
    · split
      · exact (confined_free s).trans (confined_free _)
      · exact .refl s

/-- The end of a chain writes no register but TILE_SPD_ERR and the engine's TILE_FE_LAST. -/
theorem confined_endChain {p : Nat → Prop} {n : Nat} (hp : p (R.tileSpdErr t)) (hn : p (R.tileFeLast t n)) :
    confined t p s (s.endChain t n).1 := by
  unfold State.endChain
  split
  · exact .refl s
  · split
    · exact .refl s
    · rename_i c _ _
      have hend : confined t p s (s.chainEnd c).1 := confined_chainEnd s t c
      dsimp only
      generalize s.chainEnd c = r at hend ⊢
      obtain ⟨s1, st, fd⟩ := r
      refine hend.trans (.trans ?_ ((confined_setReg _ _ hn).trans (confined_modTile _ _)))
      split
      · exact confined_spdWrite s1 hp _ _ _ _ _
      · exact .refl s1

theorem ownOnly_endChain {n : Nat} (hn : n < 2) : ownOnly t s (s.endChain t n).1 :=
  confined_endChain s t (pageReg_tileSpdErr t) (pageReg_tileFeLast t hn)

theorem ownOnly_tileMulti : ownOnly t s (s.tileMulti t) := confined_wr s _ _ (pageReg_tileFault t)

theorem ownOnly_endHalted {n : Nat} (hn : n < 2) : ownOnly t s (s.endHalted t n) := by
  unfold State.endHalted
  dsimp only
  split
  · exact (ownOnly_endChain s t hn).trans (ownOnly_tileMulti _ t)
  · exact ownOnly_endChain s t hn

theorem ownOnly_tileFault (f : TFault) (unit pc : Nat) : ownOnly t s (s.tileFault t f unit pc) := by
  unfold State.tileFault
  refine .trans (confined_record s (pageReg_tileFault t) (pageReg_tileFault t) ?_) ((confined_wr _ _ _ (pageReg_tileStat t)).trans
    ((confined_modTile _ _).trans ((ownOnly_endHalted _ t (by omega)).trans (ownOnly_endHalted _ t (by omega)))))
  simp only [List.forall_mem_cons]
  exact ⟨pageReg_tileFault t, pageReg_tileFault t, pageReg_tileFault t, pageReg_tileFault t, pageReg_tileFault t, pageReg_tileFaultAddr t, by simp⟩

theorem ownOnly_takeFault (f : TFault) (more : Bool) : ownOnly t s (s.takeFault t f more) := by
  unfold State.takeFault
  dsimp only
  split
  · exact (ownOnly_tileFault s t _ _ _).trans (ownOnly_tileMulti _ t)
  · exact ownOnly_tileFault s t _ _ _

/-! ## The issue of a bundle -/

theorem ownOnly_fetchFault (errs : List SpdErr) : ownOnly t s (s.fetchFault t errs).1 := by
  unfold State.fetchFault
  dsimp only
  split
  · exact .refl s
  · split <;> exact ownOnly_spdRead s t _ _ _ _

theorem ownOnly_readDesc (a slot : Nat) (errs : List SpdErr) : ownOnly t s (s.readDesc t a slot errs).1 := by
  unfold State.readDesc
  split
  · exact .refl s
  · dsimp only
    split <;> exact ownOnly_spdRead s t _ _ _ _

theorem ownOnly_prepSeq (a : Nat) (errs : List SpdErr) : ownOnly t s (s.prepSeq t a errs).1 := by
  unfold State.prepSeq
  split
  · exact .refl s
  · exact ownOnly_readDesc s t _ _ _

theorem ownOnly_prepChain (a : Nat) (errs : List SpdErr) : ownOnly t s (s.prepChain t a errs).1 := by
  unfold State.prepChain
  split
  · exact .refl s
  · exact ownOnly_readDesc s t _ _ _

theorem ownOnly_preps (b : Bundle) (errs : List SpdErr) : ownOnly t s (s.preps t b errs).1 := by
  have hseq : ownOnly t s (if b.mGo then s.prepSeq t (mAddr (s.tile t) b) errs else (s, .none_)).1 := by
    split
    · exact ownOnly_prepSeq s t _ errs
    · exact .refl s
  have hchain (u : State) : ownOnly t u (if b.fStart then u.prepChain t (fAddr (s.tile t) b) errs else (u, .none_)).1 := by
    split
    · exact ownOnly_prepChain u t _ errs
    · exact .refl u
  exact hseq.trans (hchain _)

theorem ownOnly_verdict (b : Bundle) (errs : List SpdErr) : ownOnly t s (s.verdict t b errs).1 := by
  rw [State.verdict_eq]
  split
  · exact .refl s
  · exact ownOnly_preps s t b errs

theorem ownOnly_settleMovs (b : Bundle) : ownOnly t s (s.settleMovs t b) := by
  unfold State.settleMovs
  split
  · split
    · exact confined_modTile s _
    · split
      · dsimp only
        split
        · exact (confined_free s).trans (confined_modTile _ _)
        · exact confined_free s
      · exact .refl s
  · exact .refl s

theorem ownOnly_slotDone (k : Nat) (b : Bundle) : ownOnly t s (s.slotDone t k b) := by
  unfold State.slotDone
  dsimp only
  have hmark := confined_modTile (t := t) (p := pageReg t) s fun x => { x with done := x.done + 2 ^ k }
  split
  · exact hmark.trans ((ownOnly_settleMovs _ t b).trans (confined_modTile _ _))
  · exact hmark

theorem ownOnly_heldCycle (ev : Nat) : ownOnly t s (s.heldCycle t ev) := (confined_bump s _ _ _).trans (confined_modTile _ _)

/-- A slot touches no more than its own act does. -/
theorem ownOnly_issue (k : Nat) (errs : List SpdErr) (is : Bundle → Bool) {act : Bundle → Option (List W64) → Option (List W64) → State → State}
    (hact : ∀ b sq hd u, ownOnly t u (act b sq hd u)) : ownOnly t s (s.issue t k errs is act) := by
  unfold State.issue
  extract_lets x b
  split
  · split
    · exact (hact _ _ _ _).trans (ownOnly_slotDone _ t k b)
    · exact .refl s
  split
  · exact .refl s
  have hfetch := ownOnly_fetchFault s t errs
  generalize s.fetchFault t errs = r at hfetch ⊢
  obtain ⟨s1, _ | f⟩ := r
  · dsimp only
    split
    · have hverdict := ownOnly_verdict s1 t b errs
      generalize s1.verdict t b errs = r at hverdict ⊢
      obtain ⟨s2, ev | ⟨f, more⟩ | ⟨sq, hd⟩⟩ := r
      · exact hfetch.trans (hverdict.trans (ownOnly_heldCycle s2 t ev))
      · exact hfetch.trans (hverdict.trans (ownOnly_takeFault s2 t f more))
      · exact hfetch.trans (hverdict.trans ((confined_modTile s2 _).trans ((hact _ _ _ _).trans (ownOnly_slotDone _ t k b))))
    · exact hfetch
  · exact hfetch.trans (ownOnly_takeFault s1 t f false)

end

end Sys2Proof.Machine
end

section
/-! What the commands of a tile's slots, BLOCK_START and ROW_DRAIN touch (R104, R113, R129, R145). -/

namespace Sys2Proof.Machine

/-! ## The acts of the slots -/

section
variable (s : State) (t : Nat)

theorem ownOnly_setS (n : Nat) (v : W32) : ownOnly t s (s.setS t n v) := confined_modTile s _

theorem ownOnly_branchIf (b : Bundle) : ownOnly t s (s.branchIf t b) := by
  unfold State.branchIf
  dsimp only
  split
  · exact (confined_modTile s fun x => { x with branch := some (sTarget (s.tile t) b).toNat }).trans (confined_bump _ _ _ _)
  · exact .refl s

theorem ownOnly_csrWrite (off : Nat) (v : W32) : ownOnly t s (s.csrWrite t off v) := by
  unfold State.csrWrite
  split
  · exact confined_setReg s _ (pageReg_tileFpCtrl t)
  split
  · exact confined_setReg s _ (pageReg_tileFpFlags t)
  · exact confined_setReg s _ (pageReg_tileSrState t)

theorem ownOnly_raise (fl : Nat) : ownOnly t s (s.raise t fl) := confined_setReg s _ (pageReg_tileFpFlags t)

theorem ownOnly_srAdvance (used : Bool) : ownOnly t s (s.srAdvance t used) := by
  unfold State.srAdvance
  split
  · exact confined_wr s _ _ (pageReg_tileSrState t)
  · exact .refl s

theorem ownOnly_raise_modTile (fl : Nat) (f : TileSt → TileSt) : ownOnly t s ((s.raise t fl).modTile t f) :=
  (ownOnly_raise s t fl).trans (confined_modTile _ _)

theorem ownOnly_vecEnd (fl : Nat) (used : Bool) (f : TileSt → TileSt) : ownOnly t s (s.vecEnd t fl used f) :=
  ((ownOnly_raise s t fl).trans (ownOnly_srAdvance _ t used)).trans (confined_modTile _ _)

/-! ## Blocks and rows of the array -/

theorem ownOnly_readWords (errs : List SpdErr) (l : List Nat) : ownOnly t s (s.readWords t errs l).1 := by
  induction l generalizing s with
  | nil => exact .refl s
  | cons a l ih => exact (ownOnly_spdRead s t a 8 0 errs).trans (ih _)

theorem ownOnly_blockReads (d : List W64) (mb nb : Nat) (errs : List SpdErr) (n u : Nat) :
    ownOnly t s (s.blockReads t d mb nb errs n u).1 := by
  induction n generalizing s u with
  | zero => exact .refl s
  | succ n ih =>
    have hread := ownOnly_readWords s t errs (cycleWords d mb nb u)
    unfold State.blockReads
    dsimp only
    split
    · exact hread
    · split
      · exact hread
      · exact hread.trans (ih _ _)

theorem ownOnly_blockStart (errs : List SpdErr) : ownOnly t s (s.blockStart t errs) := by
  unfold State.blockStart
  dsimp only
  split
  · exact .refl s
  split
  · exact .refl s
  rename_i q _ _
  have hread : ownOnly t s (s.blockIn t q.desc q.mb q.nb errs).1 := ownOnly_blockReads s t _ _ _ _ _ _
  generalize s.blockIn t q.desc q.mb q.nb errs = r at hread ⊢
  obtain ⟨u, i, p⟩ := r
  dsimp only
  split
  · exact hread.trans (((confined_bump u _ _ _).trans (confined_modTile _ _)).trans (ownOnly_tileFault _ t _ _ _))
  · exact hread.trans ((confined_bump u _ _ _).trans (confined_modTile _ _))

theorem ownOnly_writeRow (b : Block) (r : Nat) (row : List W32) (errs : List SpdErr) : ownOnly t s (s.writeRow t b r row errs) := by
  unfold State.writeRow
  cases sqAdd b.desc
  · exact ownOnly_spdWrite s t _ _ _ _ _
  · exact (ownOnly_spdRead s t _ _ _ _).trans (ownOnly_spdWrite _ t _ _ _ _ _)

theorem ownOnly_rowDrain (upset : List W32) (errs : List SpdErr) : ownOnly t s (s.rowDrain t upset errs) := by
  unfold State.rowDrain
  split
  · exact .refl s
  extract_lets r row res v u1 u2
  split
  · refine ((confined_bump s _ _ _).trans (confined_record _ (pageReg_tileTallyLog t) (pageReg_tileTallyLog t) ?_)).trans
      (ownOnly_tileFault u1 t _ _ _)
    simp only [List.forall_mem_cons]
    exact ⟨pageReg_tileTallyLog t, pageReg_tileTallyLog t, pageReg_tileTallyLog t, pageReg_tileTallyLog t, by simp⟩
  · have h2 : ownOnly t s u2 := by
      unfold u2
      split
      · exact confined_bump s _ _ _
      · exact .refl s
    exact h2.trans ((ownOnly_writeRow u2 t _ _ _ _).trans (confined_modTile _ _))

/-! ## The commands -/

variable (errs : List SpdErr)

theorem ownOnly_scalar (is : Bundle → Bool) {act : Bundle → State → State} (hact : ∀ b u, ownOnly t u (act b u)) :
    ownOnly t s (s.scalar t errs is act) := ownOnly_issue s t 3 errs is fun b _ _ u => hact b u

theorem ownOnly_vector (is : Bundle → Bool) {act : Bundle → State → State} (hact : ∀ b u, ownOnly t u (act b u)) :
    ownOnly t s (s.vector t errs is act) := ownOnly_issue s t 2 errs is fun b _ _ u => hact b u

theorem ownOnly_alu (op : Nat) (sd sa sb : Reg) (f : W32 → W32 → W32) : ownOnly t s (s.alu t op sd sa sb errs f) :=
  ownOnly_scalar s t errs _ fun _ u => ownOnly_setS u t _ _

theorem ownOnly_alui (op : Nat) (sd sa : Reg) (imm : Imm) (f : W32 → W32) : ownOnly t s (s.alui t op sd sa imm errs f) :=
  ownOnly_scalar s t errs _ fun _ u => ownOnly_setS u t _ _

theorem ownOnly_lanes (op : Nat) (v : VC) (f : TileSt → Nat → LRes) : ownOnly t s (s.lanes t op v errs f) :=
  ownOnly_vector s t errs _ fun _ u => ownOnly_raise_modTile u t _ _

theorem ownOnly_compare (op : Nat) (v : VC) (c : Cmp) : ownOnly t s (s.compare t op v errs c) :=
  ownOnly_vector s t errs _ fun _ u => ownOnly_raise_modTile u t _ _

theorem ownOnly_vload (op : Nat) (v : VM) (eb : Nat) (f : Nat → FRes) : ownOnly t s (s.vload t op v errs eb f) := by
  refine ownOnly_vector s t errs _ fun b u => ?_
  have hread := ownOnly_spdRead u t (vAddr (u.tile t) v) (vLen b.vOp v) 0 errs
  dsimp only
  generalize u.spdRead t (vAddr (u.tile t) v) (vLen b.vOp v) 0 errs = r at hread ⊢
  obtain ⟨u1, bs⟩ := r
  dsimp only
  split
  · exact hread.trans (ownOnly_tileFault u1 t _ _ _)
  · exact hread.trans (ownOnly_raise_modTile u1 t _ _)

theorem ownOnly_vstore (v : VM) (eb : Nat) (es : List Nat) : ownOnly t s (s.vstore t v eb es errs) :=
  confined_vstore s t v errs (pageReg_tileSpdErr t)

end

/-- The state of a command's outcome touches what the state of an equal outcome does. -/
theorem ownOnly_of_next {t : Nat} {s w v : State} (hw : ownOnly t s w) (h : (.next w : Host.Outcome State Fault Refusal) = .next v) :
    ownOnly t s v := by
  cases h; exact hw

section
variable {s v : State} {t : Nat} {errs : List SpdErr}

theorem ownOnly_lw {sd sa : Reg} {imm : Imm} (h : exec (.lw t sd sa imm errs) s = .next v) : ownOnly t s v := by
  refine ownOnly_of_next (ownOnly_scalar s t _ _ fun b u => ?_) h
  have hread := ownOnly_spdRead u t (sAddr (u.tile t) b) 4 0 errs
  dsimp only
  split
  · exact hread.trans (ownOnly_tileFault _ t _ _ _)
  · exact hread.trans (ownOnly_setS _ t _ _)

theorem ownOnly_matrixSequenceStart (h : exec (.matrixSequenceStart t errs) s = .next v) : ownOnly t s v := by
  refine ownOnly_of_next (ownOnly_issue s t _ _ _ fun _ sq _ u => ?_) h
  cases sq with
  | some d => exact confined_modTile u _
  | none => exact .refl u

theorem ownOnly_chainStart (h : exec (.chainStart t errs) s = .next v) : ownOnly t s v := by
  refine ownOnly_of_next (ownOnly_issue s t _ _ _ fun b _ hd u => ?_) h
  have hengine : b.fEngine < 2 := bf_lt _ _ _
  cases hd with
  | some d =>
    dsimp only
    split
    · exact (confined_modTile u _).trans (ownOnly_endHalted _ t hengine)
    · exact confined_modTile u _
  | none => exact .refl u

end

theorem ownOnly_exec {c : Instr} {t : Nat} {s v : State} (hc : slotTile c = some t) (h : exec c s = .next v) : ownOnly t s v := by
  cases c with
  | add | sub | and | or | xor | shl | shr | sra | mul | slt | sltu => cases hc; exact ownOnly_of_next (ownOnly_alu s t _ _ _ _ _ _) h
  | addi | ori => cases hc; exact ownOnly_of_next (ownOnly_alui s t _ _ _ _ _ _) h
  | vadd | vsub | vmul | vfma | vmin | vmax | vand | vor | vxor | vshl | vshr | vsra | vexp2 | vlog2 | vrcp | vrsqrt | vcvtf | vcvti | vbcs =>
    cases hc; exact ownOnly_of_next (ownOnly_lanes s t _ _ _ _) h
  | vceq | vclt | vcle => cases hc; exact ownOnly_of_next (ownOnly_compare s t _ _ _ _) h
  | vld | vldw => cases hc; exact ownOnly_of_next (ownOnly_vload s t _ _ _ _ _) h
  | lui => cases hc; exact ownOnly_of_next (ownOnly_scalar s t _ _ fun _ u => ownOnly_setS u t _ _) h
  | brz | brnz | jmp => cases hc; exact ownOnly_of_next (ownOnly_scalar s t _ _ fun b u => ownOnly_branchIf u t b) h
  | loop | wait => cases hc; exact ownOnly_of_next (ownOnly_scalar s t _ _ fun _ u => .refl u) h
  | fence => cases hc; exact ownOnly_of_next (ownOnly_issue s t _ _ _ fun _ _ _ u => .refl u) h
  | csrw => cases hc; exact ownOnly_of_next (ownOnly_scalar s t _ _ fun _ u => ownOnly_csrWrite u t _ _) h
  | csrr => cases hc; exact ownOnly_of_next (ownOnly_scalar s t _ _ fun _ u => (ownOnly_setS u t _ _).trans (confined_modTile _ _)) h
  | lw => cases hc; exact ownOnly_lw h
  | sw => cases hc; exact ownOnly_of_next (ownOnly_scalar s t _ _ fun _ u => ownOnly_spdWrite u t _ _ _ _ _) h
  | vsel | vmovs => cases hc; exact ownOnly_of_next (ownOnly_vector s t _ _ fun _ u => confined_modTile u _) h
  | vpkb | vmxp => cases hc; exact ownOnly_of_next (ownOnly_vector s t _ _ fun _ u => ownOnly_vecEnd u t _ _ _) h
  | vupk | vrsum => cases hc; exact ownOnly_of_next (ownOnly_vector s t _ _ fun _ u => ownOnly_raise_modTile u t _ _) h
  | vst => cases hc; exact ownOnly_of_next (ownOnly_vector s t _ _ fun _ u => ownOnly_vstore u t _ _ _ _) h
  | vstn =>
    cases hc
    exact ownOnly_of_next (ownOnly_vector s t _ _ fun _ u =>
      ((ownOnly_raise u t _).trans (ownOnly_srAdvance _ t _)).trans (ownOnly_vstore _ t _ _ _ _)) h
  | matrixSequenceStart => cases hc; exact ownOnly_matrixSequenceStart h
  | chainStart => cases hc; exact ownOnly_chainStart h
  | blockStart => cases hc; exact ownOnly_of_next (ownOnly_blockStart s t _) h
  | rowDrain => cases hc; exact ownOnly_of_next (ownOnly_rowDrain s t _ _) h
  | _ => cases hc

end Sys2Proof.Machine
end

section
open Sys2Proof Sys2Proof.Machine

/-- Settles O13: each command's act, and the issue around it, is confined to its tile and the tile's page. -/
theorem tileFrame : Obligations.TileFrame := by
  unfold Obligations.TileFrame
  intro c t s v hc h
  obtain ⟨hv, htiles, hregs⟩ := ownOnly_exec hc h
  exact ⟨hv, htiles, fun a ha => hregs a fun hin => by obtain ⟨hlo, hhi⟩ := hin; omega⟩

end

section
/-! A tile fault: what it records and stops (R129, R133, R134), and the bundle that takes it (R120, R121, R700, R705). -/

namespace Sys2Proof.Machine

section
variable (s : State) (t : Nat)

/-! ## A chain that ends as its tile halts -/

/-- What the end of a chain of engine `n` writes: TILE_SPD_ERR and TILE_FE_LAST. -/
def chainRegs (t n a : Nat) : Prop := a = R.tileSpdErr t ∨ a = R.tileFeLast t n

theorem chainRegs_endChain (n : Nat) : confined t (chainRegs t n) s (s.endChain t n).1 :=
  confined_endChain s t (.inl rfl) (.inr rfl)

/-- Regions are those of the registers TILE_SPD_PART. -/
theorem State.spdAllowed_congr {u w : State} (h : ∀ k, k < 8 → w.reg (R.tileSpdPart t k) = u.reg (R.tileSpdPart t k)) (a n : Nat)
    (kinds : List Nat) : w.spdAllowed t a n kinds = u.spdAllowed t a n kinds := by
  have hparts : w.parts t = u.parts t := by
    refine List.map_congr_left fun k hk => ?_
    have hk := h k (List.mem_range.mp hk)
    simp only [State.rd, F.tileSpdPartKind, F.tileSpdPartBase, F.tileSpdPartLenM1, hk]
  simp only [State.spdAllowed, hparts]

/-- Only a record that R145 does not permit is refused. -/
theorem State.endChain_refused {n : Nat} (h : (s.endChain t n).2 = true) :
    ∃ c, s.chain t n = some c ∧ c.cmplEn = true ∧ s.spdAllowed t c.cmplAddr 8 ownWrite = false := by
  unfold State.endChain at h
  split at h
  · cases h
  · rename_i c hc
    split at h
    · cases h
    · have hregs (a : Nat) : (s.chainEnd c).1.reg a = s.reg a := (confined_chainEnd (p := fun _ => False) s t c).2.2 a id
      simp only [Bool.and_eq_true, Bool.not_eq_true'] at h
      obtain ⟨hen, hmay⟩ := h
      exact ⟨c, hc, hen, (State.spdAllowed_congr t (fun k _ => hregs _) ..).symm.trans hmay⟩

/-- The end of a chain changes its own engine, which keeps no queued chain, and no other unit. -/
theorem State.units_endChain (n : Nat) : ∃ e : Engine, (e = (s.tile t).engine n ∨ e.queued = none) ∧
    ((s.tile t).setEngine n e).sameUnits ((s.endChain t n).1.tile t) := by
  have hsame : (s.tile t).setEngine n ((s.tile t).engine n) = s.tile t := by
    by_cases hn : n = 0 <;> simp [TileSt.setEngine, TileSt.engine, hn]
  unfold State.endChain
  split
  · exact ⟨_, .inl rfl, by rw [hsame]; exact TileSt.sameUnits_refl _⟩
  · split
    · exact ⟨_, .inl rfl, by rw [hsame]; exact TileSt.sameUnits_refl _⟩
    · rename_i c _ _
      have hend : (s.chainEnd c).1.tile t = s.tile t := by
        unfold State.chainEnd
        split
        · rfl
        · split
          · rfl
          · split <;> rfl
      dsimp only
      generalize s.chainEnd c = r at hend ⊢
      obtain ⟨s1, st, fd⟩ := r
      have hw : ∀ (b : Bool) (a : Nat) (bs : List PB) (o i : Nat),
          (s.tile t).sameUnits ((if b then s1.spdWrite t a bs o i [] else s1).tile t) := by
        intro b a bs o i
        rw [← hend]
        split
        · exact State.units_spdWrite ..
        · rfl
      refine ⟨⟨((s.tile t).engine n).queued, none⟩, .inr rfl, ?_⟩
      rw [State.tile_modTile_same, State.tile_setReg]
      have h := hw (c.cmplEn && s1.spdAllowed t c.cmplAddr 8 ownWrite) c.cmplAddr
        ((leBytes 8 ({ c with status := st, failDesc := fd }.record s1.epoch).toNat).map fun b => ⟨b, false⟩) (n + 1) c.serial
      revert h
      generalize (State.tile _ t) = y
      intro h
      unfold TileSt.sameUnits at h
      rw [h]
      by_cases hn : n = 0 <;> simp [TileSt.setEngine, TileSt.engine, TileSt.sameUnits, hn]

/-! ## Both chains as the tile halts -/

theorem chainRegs_endHalted (n : Nat) : confined t (fun a => chainRegs t n a ∨ a = R.tileFault t) s (s.endHalted t n) := by
  have hend : confined t (fun a => chainRegs t n a ∨ a = R.tileFault t) s (s.endChain t n).1 :=
    confined_endChain s t (.inl (.inl rfl)) (.inl (.inr rfl))
  unfold State.endHalted
  dsimp only
  split
  · exact hend.trans (confined_wr _ _ _ (.inr rfl))
  · exact hend

theorem State.reg_endChain {n a : Nat} (h : ¬ chainRegs t n a) : (s.endChain t n).1.reg a = s.reg a := (chainRegs_endChain s t n).2.2 a h

/-- A field that is neither a chain's record nor TILE_FAULT.multi keeps its value. -/
theorem State.rd_endHalted {n : Nat} {f : Fld} (hf : f.lo + f.w ≤ 64) (hr : ¬ chainRegs t n f.addr) (hm : (F.tileFaultMulti t).apart f) :
    (s.endHalted t n).rd f = s.rd f := by
  have hend : (s.endChain t n).1.rd f = s.rd f := by rw [State.rd, State.reg_endChain s t hr, State.rd]
  unfold State.endHalted
  dsimp only
  split
  · exact (State.rd_wr_of_apart _ 1 hf hm).trans hend
  · exact hend

theorem not_chainRegs_tileFault (n : Nat) : ¬ chainRegs t n (R.tileFault t) := by
  simp only [chainRegs, R.tileFault, R.tileSpdErr, R.tileFeLast]; omega

/-- A record that is refused sets TILE_FAULT.multi. -/
theorem State.multi_endHalted (n : Nat) :
    (s.endHalted t n).on (F.tileFaultMulti t) = (s.on (F.tileFaultMulti t) || (s.endChain t n).2) := by
  have hreg : (s.endChain t n).1.reg (F.tileFaultMulti t).addr = s.reg (F.tileFaultMulti t).addr :=
    State.reg_endChain s t (not_chainRegs_tileFault t n)
  have hend : (s.endChain t n).1.on (F.tileFaultMulti t) = s.on (F.tileFaultMulti t) := by
    rw [State.on, State.rd, hreg]; rfl
  unfold State.endHalted
  dsimp only
  split
  · rename_i h
    rw [h, Bool.or_true]
    exact State.on_wr_one _ rfl (by simp [F.tileFaultMulti])
  · rename_i h
    rw [hend, Bool.eq_false_of_not_eq_true h, Bool.or_false]

theorem State.units_endHalted (n : Nat) : ∃ e : Engine, (e = (s.tile t).engine n ∨ e.queued = none) ∧
    ((s.tile t).setEngine n e).sameUnits ((s.endHalted t n).tile t) := by
  obtain ⟨e, he, hu⟩ := State.units_endChain s t n
  refine ⟨e, he, ?_⟩
  unfold State.endHalted
  dsimp only
  split <;> exact hu

end

/-! ## The tile as it halts -/

/-- The array is halted and no engine has a queued chain. -/
def TileSt.stopped (x : TileSt) : Prop :=
  x.mtx.halted = true ∧ x.mtx.running = none ∧ x.fe0.queued = none ∧ x.fe1.queued = none

theorem TileSt.stopped_endHalted {s : State} {t : Nat} (n : Nat) (h : (s.tile t).stopped) : ((s.endHalted t n).tile t).stopped := by
  obtain ⟨hh, hr, h0, h1⟩ := h
  obtain ⟨e, he, hu⟩ := s.units_endHalted t n
  unfold TileSt.sameUnits at hu
  rw [hu]
  by_cases hn : n = 0
  · simp only [hn, TileSt.engine, if_true] at he
    refine ⟨?_, ?_, ?_, ?_⟩ <;> simp only [TileSt.setEngine, hn, if_true, hh, hr, h1]
    rcases he with rfl | he
    · exact h0
    · exact he
  · simp only [hn, TileSt.engine, if_false] at he
    refine ⟨?_, ?_, ?_, ?_⟩ <;> simp only [TileSt.setEngine, hn, if_false, hh, hr, h0]
    rcases he with rfl | he
    · exact h1
    · exact he

section
variable (s : State) (t : Nat)

/-- What TILE_FAULT and TILE_FAULT_ADDR record of a fault (R133, R134). -/
def faultFields (t : Nat) (f : TFault) (unit pc epoch : Nat) : List (Fld × Nat) :=
  [(F.tileFaultCause t, f.cause), (F.tileFaultSlot t, f.slot), (F.tileFaultUnit t, unit), (F.tileFaultPc t, pc / 16),
    (F.tileFaultEpoch t, epoch), (F.tileFaultAddrAddr t, f.addr)]

/-- The tile with its fault recorded, in Halt, before chains that are over end. -/
def State.faulted (s : State) (t : Nat) (f : TFault) (unit pc : Nat) : State :=
  (((s.record (F.tileFaultValid t) (F.tileFaultMulti t) (faultFields t f unit pc s.epoch)).wr (F.tileStatState t) stHalt).modTile t
    fun x => { x with mtx := x.mtx.halt, fe0 := x.fe0.halt, fe1 := x.fe1.halt })

theorem State.tileFault_eq (f : TFault) (unit pc : Nat) :
    s.tileFault t f unit pc = ((s.faulted t f unit pc).endHalted t 0).endHalted t 1 := rfl

theorem recorded_tileFault (f : TFault) (unit pc : Nat) : recorded s
    (s.record (F.tileFaultValid t) (F.tileFaultMulti t) (faultFields t f unit pc s.epoch)) (F.tileFaultValid t) (F.tileFaultMulti t)
    (faultFields t f unit pc s.epoch) := by
  refine State.recorded_record s rfl rfl ?_ ?_
  · simp [faultFields, F.tileFaultValid, F.tileFaultMulti, F.tileFaultCause, F.tileFaultSlot, F.tileFaultUnit, F.tileFaultPc,
      F.tileFaultEpoch, F.tileFaultAddrAddr]
  · simp [faultFields, Fld.apart, F.tileFaultValid, F.tileFaultMulti, F.tileFaultCause, F.tileFaultSlot, F.tileFaultUnit, F.tileFaultPc,
      F.tileFaultEpoch, F.tileFaultAddrAddr, R.tileFault, R.tileFaultAddr]

/-- Fields that the end of both chains leaves: all but TILE_SPD_ERR, TILE_FE_LAST and TILE_FAULT.multi. -/
def keptAtHalt (t : Nat) (f : Fld) : Prop :=
  f.lo + f.w ≤ 64 ∧ (∀ n, n < 2 → ¬ chainRegs t n f.addr) ∧ (F.tileFaultMulti t).apart f

theorem State.rd_tileFault_kept (f : TFault) (unit pc : Nat) {g : Fld} (h : keptAtHalt t g) :
    (s.tileFault t f unit pc).rd g = (s.faulted t f unit pc).rd g := by
  obtain ⟨hg, hr, hm⟩ := h
  rw [State.tileFault_eq, State.rd_endHalted _ t hg (hr 1 (by omega)) hm, State.rd_endHalted _ t hg (hr 0 (by omega)) hm]

theorem keptAtHalt_fault {f : Fld} (ha : f.addr = R.tileFault t) (hl : f.lo + f.w ≤ 64) (hm : (F.tileFaultMulti t).apart f) :
    keptAtHalt t f := ⟨hl, fun n _ => ha ▸ not_chainRegs_tileFault t n, hm⟩

/-- A field of another register than TILE_STAT reads as the record left it. -/
theorem State.rd_faulted {g : Fld} (hg : g.addr ≠ R.tileStat t) (f : TFault) (unit pc : Nat) : (s.faulted t f unit pc).rd g =
    (s.record (F.tileFaultValid t) (F.tileFaultMulti t) (faultFields t f unit pc s.epoch)).rd g :=
  State.rd_wr_addr (s.record (F.tileFaultValid t) (F.tileFaultMulti t) (faultFields t f unit pc s.epoch)) (F.tileStatState t) g stHalt hg

theorem stopped_faulted (f : TFault) (unit pc : Nat) : ((s.faulted t f unit pc).tile t).stopped := by
  rw [State.faulted, State.tile_modTile_same]
  exact ⟨rfl, rfl, rfl, rfl⟩

/-- A tile that takes a fault halts and starts nothing more (R129). -/
theorem stopped_tileFault (f : TFault) (unit pc : Nat) : ((s.tileFault t f unit pc).tile t).stopped :=
  TileSt.stopped_endHalted 1 (TileSt.stopped_endHalted 0 (stopped_faulted s t f unit pc))

/-! ## Records that may be written -/

/-- The engine's chain, where it is to write its record, may do so (R145, R204). -/
def State.recordFits (n : Nat) : Prop := ∀ c, s.chain t n = some c → c.cmplEn = true → s.spdAllowed t c.cmplAddr 8 ownWrite = true

variable {s t}

theorem State.multi_endHalted_of_fits {n : Nat} (h : s.recordFits t n) :
    (s.endHalted t n).on (F.tileFaultMulti t) = s.on (F.tileFaultMulti t) := by
  have href : (s.endChain t n).2 = false := by
    by_contra hr
    obtain ⟨c, hc, hen, hmay⟩ := s.endChain_refused t (Bool.eq_true_of_not_eq_false hr)
    rw [h c hc hen] at hmay
    cases hmay
  rw [State.multi_endHalted, href, Bool.or_false]

/-- A chain that goes on but for its halt, with the regions as they were, may still write its record. -/
theorem State.recordFits.keep {w : State} {n : Nat} (h : s.recordFits t n) (hp : ∀ k, k < 8 → w.reg (R.tileSpdPart t k) = s.reg (R.tileSpdPart t k))
    (hc : ∀ c, w.chain t n = some c → ∃ c', s.chain t n = some c' ∧ c.cmplEn = c'.cmplEn ∧ c.cmplAddr = c'.cmplAddr) : w.recordFits t n := by
  intro c hwc hen
  obtain ⟨c', hsc, hen', haddr⟩ := hc c hwc
  rw [State.spdAllowed_congr t hp, haddr]
  exact h c' hsc (hen' ▸ hen)

theorem State.chain_faulted (f : TFault) (unit pc n : Nat) :
    (s.faulted t f unit pc).chain t n = (s.chain t n).map fun c => { c with halted := true } := by
  rw [State.chain, State.chain, State.faulted, State.tile_modTile_same, State.tile_wr, State.tile_record]
  by_cases hn : n = 0 <;> simp [TileSt.engine, hn, Engine.halt]

theorem State.recordFits.faulted {n : Nat} (h : s.recordFits t n) (f : TFault) (unit pc : Nat) : (s.faulted t f unit pc).recordFits t n := by
  refine h.keep (fun k hk => ?_) fun c hc => ?_
  · have hconf : confined t (fun a => a = R.tileFault t ∨ a = R.tileFaultAddr t ∨ a = R.tileStat t) s (s.faulted t f unit pc) := by
      refine (confined_record s (.inl rfl) (.inl rfl) ?_).trans ((confined_wr _ _ _ (.inr (.inr rfl))).trans (confined_modTile _ _))
      simp [faultFields, F.tileFaultCause, F.tileFaultSlot, F.tileFaultUnit, F.tileFaultPc, F.tileFaultEpoch, F.tileFaultAddrAddr]
    obtain ⟨-, -, hregs⟩ := hconf
    exact hregs _ (by simp only [R.tileSpdPart, R.tileFault, R.tileFaultAddr, R.tileStat]; omega)
  · rw [State.chain_faulted, Option.map_eq_some_iff] at hc
    obtain ⟨c', hc', rfl⟩ := hc
    exact ⟨c', hc', rfl, rfl⟩

/-- The end of engine 0's chain leaves engine 1's. -/
theorem State.recordFits.endHalted (h : s.recordFits t 1) : (s.endHalted t 0).recordFits t 1 := by
  refine h.keep (fun k hk => ?_) fun c hc => ⟨c, ?_, rfl, rfl⟩
  · obtain ⟨-, -, hregs⟩ := chainRegs_endHalted s t 0
    exact hregs _ (by simp only [chainRegs, R.tileSpdPart, R.tileFault, R.tileSpdErr, R.tileFeLast]; omega)
  · obtain ⟨e, -, hu⟩ := s.units_endHalted t 0
    unfold TileSt.sameUnits at hu
    rw [← hc, State.chain, State.chain, hu]
    rfl

theorem State.multi_tileFault_of_fits (h : ∀ n, n < 2 → s.recordFits t n) (f : TFault) (unit pc : Nat) :
    (s.tileFault t f unit pc).on (F.tileFaultMulti t) = (s.faulted t f unit pc).on (F.tileFaultMulti t) := by
  rw [State.tileFault_eq, State.multi_endHalted_of_fits ((h 1 (by omega)).faulted f unit pc).endHalted,
    State.multi_endHalted_of_fits ((h 0 (by omega)).faulted f unit pc)]

/-! ## The fault of a bundle -/

variable (s t)

theorem State.rd_takeFault (f : TFault) (more : Bool) {g : Fld} (h : keptAtHalt t g) :
    (s.takeFault t f more).rd g = (s.faulted t f 0 (s.tile t).pc).rd g := by
  rw [← State.rd_tileFault_kept s t f 0 _ h]
  obtain ⟨hg, -, hm⟩ := h
  cases more
  · rfl
  · exact State.rd_wr_of_apart _ 1 hg hm

theorem State.multi_takeFault (f : TFault) (more : Bool) : (s.takeFault t f more).on (F.tileFaultMulti t) =
    ((s.tileFault t f 0 (s.tile t).pc).on (F.tileFaultMulti t) || more) := by
  cases more
  · rw [Bool.or_false]; rfl
  · rw [Bool.or_true]; exact State.on_wr_one _ rfl (by simp [F.tileFaultMulti])

theorem stopped_takeFault (f : TFault) (more : Bool) : ((s.takeFault t f more).tile t).stopped := by
  cases more <;> exact stopped_tileFault s t f 0 _

theorem keptAtHalt_stat : keptAtHalt t (F.tileStatState t) :=
  ⟨by simp [F.tileStatState], fun n _ => by simp only [chainRegs, F.tileStatState, R.tileStat, R.tileSpdErr, R.tileFeLast]; omega,
    .inl (by simp only [F.tileFaultMulti, F.tileStatState, R.tileStat, R.tileFault]; omega)⟩

theorem keptAtHalt_faultAddr : keptAtHalt t (F.tileFaultAddrAddr t) :=
  ⟨by simp [F.tileFaultAddrAddr], fun n _ => by simp only [chainRegs, F.tileFaultAddrAddr, R.tileFaultAddr, R.tileSpdErr, R.tileFeLast]; omega,
    .inl (by simp only [F.tileFaultMulti, F.tileFaultAddrAddr, R.tileFaultAddr, R.tileFault]; omega)⟩

/-- TILE_STAT reads Halt after a fault (R129). -/
theorem State.halt_takeFault (f : TFault) (more : Bool) : (s.takeFault t f more).rd (F.tileStatState t) = stHalt := by
  rw [State.rd_takeFault s t f more (keptAtHalt_stat t)]
  exact State.rd_wr_same (s.record (F.tileFaultValid t) (F.tileFaultMulti t) (faultFields t f 0 (s.tile t).pc s.epoch)) (F.tileStatState t)
    stHalt (by simp [F.tileStatState])

/-- A field of TILE_FAULT or TILE_FAULT_ADDR but multi reads as its record left it. -/
theorem State.rd_takeFault_record (f : TFault) (more : Bool) {g : Fld} (h : keptAtHalt t g) (hg : g.addr ≠ R.tileStat t) :
    (s.takeFault t f more).rd g =
      (s.record (F.tileFaultValid t) (F.tileFaultMulti t) (faultFields t f 0 (s.tile t).pc s.epoch)).rd g := by
  rw [State.rd_takeFault s t f more h, State.rd_faulted s t hg]

theorem State.multi_tileFault_of_on (f : TFault) (unit pc : Nat) (h : s.on (F.tileFaultValid t) = true) :
    (s.tileFault t f unit pc).on (F.tileFaultMulti t) = true := by
  obtain ⟨-, -, hused⟩ := recorded_tileFault s t f unit pc
  have hm : (s.faulted t f unit pc).on (F.tileFaultMulti t) = true := by
    rw [State.on, State.rd_faulted s t (g := F.tileFaultMulti t) (by simp only [F.tileFaultMulti, R.tileFault, R.tileStat]; omega)]
    exact (hused h).1
  rw [State.tileFault_eq, State.multi_endHalted, State.multi_endHalted, hm]
  rfl

/-- Without a refused record the first fault leaves TILE_FAULT.multi. -/
theorem State.multi_tileFault_first (hfit : ∀ n, n < 2 → s.recordFits t n) (f : TFault) (unit pc : Nat) (h : s.on (F.tileFaultValid t) = false) :
    (s.tileFault t f unit pc).on (F.tileFaultMulti t) = s.on (F.tileFaultMulti t) := by
  obtain ⟨-, hfirst, -⟩ := recorded_tileFault s t f unit pc
  rw [State.multi_tileFault_of_fits hfit, State.on,
    State.rd_faulted s t (g := F.tileFaultMulti t) (by simp only [F.tileFaultMulti, R.tileFault, R.tileStat]; omega)]
  exact (hfirst h).1

end

end Sys2Proof.Machine
end

section
/-! A bundle that faults at decode or in its slot's turn (R120, R121, R700, R705). -/

namespace Sys2Proof.Machine

/-! ## What a read leaves of the faults of a bundle -/

section
variable {x y : TileSt} (h : x.sameUnits y) (b : Bundle)
include h

theorem TileSt.sameUnits.namedDescs_eq : namedDescs y b = namedDescs x b := by
  unfold TileSt.sameUnits at h; rw [h]; rfl

theorem TileSt.sameUnits.namedAccess_eq : namedAccess y b = namedAccess x b := by
  unfold TileSt.sameUnits at h; rw [h]; rfl

theorem TileSt.sameUnits.faultsAt_eq (rs : List Rng) : faultsAt y b rs = faultsAt x b rs := by
  unfold TileSt.sameUnits at h; rw [h]; rfl

theorem TileSt.sameUnits.decodeFaults_eq : decodeFaults y b = decodeFaults x b := by
  rw [decodeFaults, h.faultsAt_eq, h.namedDescs_eq, h.namedAccess_eq, decodeFaults]

theorem TileSt.sameUnits.descsWait_eq : y.descsWait b = x.descsWait b := by
  unfold TileSt.sameUnits at h; rw [h]; rfl

end

/-- The fetch of a bundle touches no unit of its tile. -/
theorem State.units_fetchFault (s : State) (t : Nat) (errs : List SpdErr) : (s.tile t).sameUnits ((s.fetchFault t errs).1.tile t) := by
  unfold State.fetchFault
  dsimp only
  split
  · rfl
  · split <;> exact State.units_spdRead ..

/-! ## Faults at decode grow with the ranges -/

theorem TFault.among_ne_nil (f : TFault) (l : List TFault) : f.among l ≠ [] := by
  cases l with
  | nil => simp [TFault.among]
  | cons g r => simp only [TFault.among]; split <;> simp

theorem faultsAt_eq_nil {x : TileSt} {b : Bundle} {rs : List Rng} : faultsAt x b rs = [] ↔ opcodeFaults x b = [] ∧ clash rs = [] := by
  have gen (ks : List Nat) (fs : List TFault) : ks.foldl (fun fs k => (TFault.mk cBUNDLE k 0).among fs) fs = [] ↔ fs = [] ∧ ks = [] := by
    induction ks generalizing fs with
    | nil => simp
    | cons k ks ih => simp [ih, TFault.among_ne_nil]
  exact gen _ _

/-- Slots that conflict still do with further ranges. -/
theorem clash_eq_nil_of_append {rs qs : List Rng} (h : clash (rs ++ qs) = []) : clash rs = [] := by
  simp only [clash, List.filter_eq_nil_iff, List.any_eq_true, List.mem_append, not_exists] at h ⊢
  intro k hk r hr
  obtain ⟨hmem, hcond⟩ := hr
  refine h k hk r ⟨.inl hmem, ?_⟩
  simp only [Bool.and_eq_true, List.any_eq_true] at hcond ⊢
  obtain ⟨hslot, q, hq, hc⟩ := hcond
  exact ⟨hslot, q, List.mem_append_left _ hq, hc⟩

theorem faultsAt_append_ne_nil {x : TileSt} {b : Bundle} {rs : List Rng} (h : faultsAt x b rs ≠ []) (qs : List Rng) :
    faultsAt x b (rs ++ qs) ≠ [] := by
  intro he
  obtain ⟨hop, hcl⟩ := faultsAt_eq_nil.mp he
  exact h (faultsAt_eq_nil.mpr ⟨hop, clash_eq_nil_of_append hcl⟩)

/-! ## The verdict on a bundle that faults at decode -/

section
variable {u : State} {t : Nat} {b : Bundle} {errs : List SpdErr} {g : TFault} {r : List TFault}

/-- A bundle that faults at decode ends in a fault, whatever its descriptors hold. -/
theorem State.verdict_of_decodeFaults (h : decodeFaults (u.tile t) b = g :: r) : ∃ f more, (u.verdict t b errs).2 = .fault f more := by
  rw [State.verdict_eq]
  split
  · exact ⟨g, _, by rw [h]; rfl⟩
  · have hne := faultsAt_append_ne_nil (rs := namedDescs (u.tile t) b ++ namedAccess (u.tile t) b) (by rw [← decodeFaults, h]; simp)
      (placedRngs (u.preps t b errs).2.1 (u.preps t b errs).2.2)
    obtain ⟨f, l, hf⟩ := List.exists_cons_of_ne_nil hne
    exact ⟨f, !l.isEmpty, by simp only [State.weigh, hf, faultsOr]⟩

/-- A slot without a descriptor reads none. -/
theorem State.preps_of_none (h : namedDescs (u.tile t) b = []) : u.preps t b errs = (u, .none_, .none_) := by
  obtain ⟨hm, hf⟩ : b.mGo = false ∧ b.fStart = false := by
    simpa only [namedDescs, List.append_eq_nil_iff, ite_eq_right_iff, List.cons_ne_nil, imp_false, Bool.not_eq_true] using h
  simp [State.preps, hm, hf]

/-- Where no slot names a descriptor, or reading one must wait, the fault is the first of those found without. -/
theorem State.verdict_first (h : decodeFaults (u.tile t) b = g :: r) (hd : namedDescs (u.tile t) b = [] ∨ (u.tile t).descsWait b = true) :
    u.verdict t b errs = (u, .fault g (!r.isEmpty)) := by
  rw [State.verdict_eq]
  split
  · rw [h]; rfl
  · rename_i hwait
    have hnone := hd.resolve_right hwait
    rw [State.preps_of_none hnone]
    simp only [State.weigh, placedRngs, Prep.none_, Option.map_none, Option.getD_none, List.append_nil]
    rw [← decodeFaults, h]
    rfl

end

/-! ## The issue of such a bundle -/

section
variable {s u w : State} {t : Nat} {errs : List SpdErr} {z : Verdict}

/-- The verdict decides what becomes of a bundle that faults at decode, or whose slot has its turn. -/
theorem State.issue_of_verdict {k : Nat} {is : Bundle → Bool} {act : Bundle → Option (List W64) → Option (List W64) → State → State}
    (hd : (s.tile t).done = 0) (hc : s.canIssue t = true) (hf : s.fetchFault t errs = (u, none))
    (hk : decodeFaults (s.tile t) (s.bundle t) ≠ [] ∨ ((s.tile t).nextSlot (s.bundle t) = some k ∧ is (s.bundle t) = true))
    (hv : u.verdict t (s.bundle t) errs = (w, z)) :
    s.issue t k errs is act = match z with
      | .hold ev => w.heldCycle t ev
      | .fault f more => w.takeFault t f more
      | .go sq hd => (act (s.bundle t) sq hd (w.modTile t fun x => x.issued (s.bundle t) hd)).slotDone t k (s.bundle t) := by
  unfold State.issue
  simp only [hd, hc, hf, hv, hk, ne_eq, not_true_eq_false, Bool.not_true, Bool.false_eq_true, if_false, if_true]
  cases z <;> rfl

end

end Sys2Proof.Machine
end

section
open Sys2Proof Sys2Proof.Machine

/-- Settles O12: faults at decode only grow with the ranges that descriptors place, and of TILE_FAULT the chains that end in Halt write only multi. -/
theorem bundleFaults : Obligations.BundleFaults := by
  unfold Obligations.BundleFaults
  intro s t sd sa sb imm v errs x b
  refine ⟨fun u w z g r hd hc hf hg hv => ?_, fun u w z hd hc hf hg hk his hv => ⟨fun ev hz => ?_, fun f more hz => ?_⟩, fun f more => ?_⟩
  · have hunits : x.sameUnits (u.tile t) := by simpa only [hf] using s.units_fetchFault t errs
    have hg' : decodeFaults (u.tile t) b = g :: r := (hunits.decodeFaults_eq b).trans hg
    obtain ⟨f, more, hz⟩ := State.verdict_of_decodeFaults (errs := errs) hg'
    rw [hv] at hz
    have hissue (k : Nat) (is : Bundle → Bool) (act : Bundle → Option (List W64) → Option (List W64) → State → State) :
        s.issue t k errs is act = w.takeFault t f more := by
      rw [State.issue_of_verdict hd hc hf (.inl (by rw [hg]; simp)) hv]
      subst hz
      rfl
    refine ⟨f, more, hz, ?_, ?_, ?_, ?_, ?_, fun hnone => ?_⟩
    · show execFence t errs s = _
      rw [execFence, hissue]
    · show execAdd t sd sa sb errs s = _
      rw [execAdd, State.alu, State.scalar, hissue]
    · show execVadd t v errs s = _
      rw [execVadd, State.lanes2, State.lanes, State.vector, hissue]
    · show execMatrixSequenceStart t errs s = _
      rw [execMatrixSequenceStart, hissue]
    · show execChainStart t errs s = _
      rw [execChainStart, hissue]
    have hfirst := State.verdict_first (errs := errs) hg'
      (hnone.imp (hunits.namedDescs_eq b).trans fun h => (hunits.descsWait_eq b).trans h)
    obtain rfl : z = .fault f more := hz
    rw [hv] at hfirst
    simpa only [Prod.mk.injEq, Verdict.fault.injEq] using hfirst
  · subst hz
    show execLw t sd sa imm errs s = _
    rw [execLw, State.scalar, State.issue_of_verdict hd hc hf (.inr ⟨hk, his⟩) hv]
    rfl
  · subst hz
    show execLw t sd sa imm errs s = _
    rw [execLw, State.scalar, State.issue_of_verdict hd hc hf (.inr ⟨hk, his⟩) hv]
  · intro w
    obtain ⟨hvalid, hfirst, hused⟩ := recorded_tileFault s t f 0 x.pc
    have hfield (lo n : Nat) (hl : lo + n ≤ 64) (hm : 2 ≤ lo ∨ lo + n ≤ 1) :=
      State.rd_takeFault_record s t f more (keptAtHalt_fault t (f := ⟨R.tileFault t, lo, n⟩) rfl hl (.inr hm))
        (by simp only [R.tileFault, R.tileStat]; omega)
    obtain ⟨hh, hr, h0, h1⟩ := stopped_takeFault s t f more
    refine ⟨State.halt_takeFault s t f more, hh, hr, h0, h1, ?_, fun hclear => ?_, fun hon => ⟨?_, ?_⟩⟩
    · exact (congrArg (fun n => decide (n = 1)) (hfield 0 1 (by decide) (by decide))).trans hvalid
    · obtain ⟨-, hall⟩ := hfirst hclear
      simp only [faultFields, List.forall_mem_cons] at hall
      obtain ⟨hcause, hslot, hunit, hpc, -, haddr, -⟩ := hall
      have haddr' := State.rd_takeFault_record s t f more (keptAtHalt_faultAddr t) (by simp only [F.tileFaultAddrAddr, R.tileFaultAddr, R.tileStat]; omega)
      refine ⟨(hfield 2 5 (by decide) (by decide)).trans hcause, (hfield 8 3 (by decide) (by decide)).trans hslot,
        (hfield 11 2 (by decide) (by decide)).trans hunit, (hfield 14 14 (by decide) (by decide)).trans hpc,
        haddr'.trans haddr, fun hmore => ?_, fun hmore hfit => ?_⟩
      · rw [State.multi_takeFault, hmore, Bool.or_true]
      · rw [State.multi_takeFault, hmore, Bool.or_false]
        exact State.multi_tileFault_first s t (fun n hn c => hfit n c hn) f 0 _ hclear
    · rw [State.multi_takeFault, State.multi_tileFault_of_on s t f 0 _ hon, Bool.true_or]
    · obtain ⟨-, hall⟩ := hused hon
      simp only [faultFields, List.forall_mem_cons] at hall
      exact (hfield 2 5 (by decide) (by decide)).trans hall.1

end

section
/-! The Keeper's control of a tile (R131, R137, R152, R160, R177, R215). -/

namespace Sys2Proof.Machine

/-! ## Run and stop (R131, R137) -/

section
variable (s : State) (t entry : Nat)

/-- The tile with run set and TILE_CYCLES at 0, its bay asked for, before it enters Run. -/
def State.runSet : State :=
  ((((s.wrs [(F.tileCtrlRun t, 1), (F.tileCtrlEntry t, entry)]).needBay t).setReg (R.tileCycles t) 0).modTile t fun x => { x with clocked := true })

theorem State.needBay_eq : s.needBay t = { s with power := (s.needBay t).power } := by
  unfold State.needBay
  dsimp only
  split <;> rfl

theorem State.tileRun_eq : s.tileRun t entry =
    if (s.runSet t entry).rd (F.tileStatState t) = stHalt then s.runSet t entry
    else ((s.runSet t entry).wr (F.tileStatState t) stRun).modTile t fun x =>
      { x with pc := 16 * (entry % 2 ^ 14), done := 0, movs := none, headWords := none, branch := none, ended := false } := rfl

/-- Running a tile writes TILE_CTRL and TILE_CYCLES. -/
theorem State.reg_runSet (a : Nat) : (s.runSet t entry).reg a =
    if a = R.tileCycles t then 0 else (s.wrs [(F.tileCtrlRun t, 1), (F.tileCtrlEntry t, entry)]).reg a := by
  have hbay (u : State) : ((u.needBay t).setReg (R.tileCycles t) 0).reg a = if a = R.tileCycles t then 0 else u.reg a := by
    rw [State.reg_setReg, State.needBay_eq]
    rfl
  exact hbay _

theorem State.rd_runSet {f : Fld} (hc : f.addr ≠ R.tileCtrl t) (hy : f.addr ≠ R.tileCycles t) : (s.runSet t entry).rd f = s.rd f := by
  obtain ⟨-, hregs⟩ := s.wrs_only [(F.tileCtrlRun t, 1), (F.tileCtrlEntry t, entry)]
  rw [State.rd, State.reg_runSet, if_neg hy, hregs f.addr (by simpa [F.tileCtrlRun, F.tileCtrlEntry] using hc), State.rd]

theorem State.run_runSet : (s.runSet t entry).on (F.tileCtrlRun t) = true := by
  have hrun : (s.wrs [(F.tileCtrlRun t, 1), (F.tileCtrlEntry t, entry)]).rd (F.tileCtrlRun t) = 1 :=
    State.rd_wrs_of_mem _ s (by simp [F.tileCtrlRun, F.tileCtrlEntry]) (by simp [Fld.apart, F.tileCtrlRun, F.tileCtrlEntry]) List.mem_cons_self
  rw [State.on, State.rd, State.reg_runSet, if_neg (by simp only [F.tileCtrlRun, R.tileCtrl, R.tileCycles]; omega)]
  exact decide_eq_true hrun

theorem State.tile_runSet (k : Nat) : (s.runSet t entry).tile k = if k = t then { s.tile t with clocked := true } else s.tile k := by
  have hbay (u : State) (j : Nat) : ((u.needBay t).setReg (R.tileCycles t) 0).tile j = u.tile j := by
    rw [State.tile_setReg, State.needBay_eq]
    rfl
  rw [State.runSet, State.tile_modTile, hbay, hbay, State.tile_wrs, State.tile_wrs]

theorem State.on_tileStop : (s.tileStop t).on (F.tileCtrlRun t) = false ∧ (s.tileStop t).running t = false ∧ (s.tileStop t).tiles = s.tiles := by
  have hrun : (s.wr (F.tileCtrlRun t) 0).on (F.tileCtrlRun t) = false := by
    rw [State.on, State.rd_wr_same _ _ _ (by simp [F.tileCtrlRun])]
    rfl
  unfold State.tileStop
  dsimp only
  split
  · refine ⟨?_, ?_, rfl⟩
    · rw [State.on, State.rd_wr_addr _ _ _ _ (by simp only [F.tileCtrlRun, F.tileStatState, R.tileCtrl, R.tileStat]; omega)]
      exact hrun
    · rw [State.running, State.rd_wr_same _ _ _ (by simp [F.tileStatState])]
      rfl
  · rename_i h
    exact ⟨hrun, Bool.eq_false_of_not_eq_true h, rfl⟩

end

/-! ## Reset (R131, R127) -/

section
variable (s : State) (t : Nat)

theorem State.gather_flushes (l : List Gather) : ((l.foldl (fun u g => u.gatherFlush t g.word []) s).tile t).gather =
    (s.tile t).gather.filter fun g => l.all fun h => decide (g.word ≠ h.word) := by
  induction l generalizing s with
  | nil => simp
  | cons h l ih =>
    rw [List.foldl_cons, ih, State.gather_gatherFlush, List.filter_filter]
    simp only [List.all_cons, Bool.and_comm]

/-- Written whole to its banks, the gather buffer holds nothing. -/
theorem State.gather_gatherAll : ((s.gatherAll t []).tile t).gather = [] := by
  rw [State.gatherAll, State.gather_flushes, List.filter_eq_nil_iff]
  intro g hg hall
  simpa using List.all_eq_true.mp hall g hg

theorem State.byteAt_gatherAll (j k : Nat) : ((s.gatherAll t []).tile j).byteAt k = (s.tile j).byteAt k :=
  foldl_keep _ (fun u : State => (u.tile j).byteAt k = (s.tile j).byteAt k) _ s rfl fun _ _ h => (State.byteAt_gatherFlush ..).trans h

theorem confined_gatherAll : confined t (· = R.tileSpdErr t) s (s.gatherAll t []) :=
  confined_foldl (fun u _ => confined_gatherFlush (p := (· = R.tileSpdErr t)) u rfl _ _) _ s

/-- Registers that a reset of a tile's units puts back. -/
def launchRegs (t : Nat) : List Nat := [R.tileCtrl t, R.tileStat t, R.tileCycles t, R.tileFpFlags t, R.tileSrState t]

/-- A tile whose units have started over. -/
def TileSt.cleared (x : TileSt) : TileSt :=
  { TileSt.reset with mem := x.mem, live := x.live, poison := x.poison, ceWb := x.ceWb, near := x.near, nearAge := x.nearAge,
                      serial := x.serial, scent := x.scent, ueSeen := x.ueSeen, reload := x.reload }

theorem State.reg_tileClear {a : Nat} (ha : a ∉ launchRegs t) : (s.tileClear t).reg a = (s.gatherAll t []).reg a := by
  have hfold (u : State) : ((launchRegs t).foldl (fun s a => s.setReg a (regReset s.variant a)) u).reg a = u.reg a :=
    foldl_keep_mem (P := fun w : State => w.reg a = u.reg a)
      (fun b hb w hw => (State.reg_setReg_ne w _ (by rintro rfl; exact ha hb)).trans hw) rfl
  exact hfold ((s.gatherAll t []).modTile t TileSt.cleared)

theorem State.variant_tileClear : (s.tileClear t).variant = s.variant := by
  obtain ⟨heq, -, -⟩ := confined_gatherAll s t
  have hvar : (s.gatherAll t []).variant = s.variant := by rw [heq]
  have hfold (u : State) : ((launchRegs t).foldl (fun s a => s.setReg a (regReset s.variant a)) u).variant = u.variant :=
    foldl_keep _ (fun w : State => w.variant = u.variant) _ u rfl fun _ _ h => h
  exact (hfold ((s.gatherAll t []).modTile t TileSt.cleared)).trans hvar

theorem State.tile_tileReset (k : Nat) : (s.tileReset t).tile k = ((s.gatherAll t []).modTile t TileSt.cleared).tile k := by
  have hfold (u : State) : ((launchRegs t).foldl (fun s a => s.setReg a (regReset s.variant a)) u).tile k = u.tile k :=
    foldl_keep _ (fun w : State => w.tile k = u.tile k) _ u rfl fun _ _ h => h
  exact hfold ((s.gatherAll t []).modTile t TileSt.cleared)

theorem State.tile_tileReset_same : (s.tileReset t).tile t = ((s.gatherAll t []).tile t).cleared := by
  rw [State.tile_tileReset, State.tile_modTile_same]

theorem State.tile_tileReset_ne {k : Nat} (hk : k ≠ t) : (s.tileReset t).tile k = s.tile k := by
  obtain ⟨-, htile, -⟩ := confined_gatherAll s t
  rw [State.tile_tileReset, State.tile_modTile_ne _ _ _ hk, htile k hk]

/-- With its buffer written out, a reset tile's banks hold every byte that it held. -/
theorem State.spdByte_tileReset (j k : Nat) : (s.tileReset t).spdByte j k = s.spdByte j k := by
  rw [State.spdByte_eq, State.spdByte_eq]
  by_cases hj : j = t
  · subst hj
    rw [← State.byteAt_gatherAll s j j k, State.tile_tileReset_same]
    simp only [TileSt.byteAt, State.gather_gatherAll]
    rfl
  · rw [State.tile_tileReset_ne s t hj]

/-- A register of the page after a reset. -/
theorem State.reg_tileReset {o : Nat} (ho : o < 0x800) : (s.tileReset t).reg (R.tileCtrl t + o) =
    if o ∈ keptRecords then (s.tileClear t).reg (R.tileCtrl t + o) else regReset s.variant (R.tileCtrl t + o) := by
  have hfilter := tget_filter_key (regReset (s.tileClear t).variant)
    (fun a => !(decide (R.tileCtrl t ≤ a) && decide (a < R.tileCtrl t + 0x800)) || keptRecords.contains (a - R.tileCtrl t))
    (s.tileClear t).regs (R.tileCtrl t + o)
  rw [(s.variant_tileClear t)] at hfilter
  refine (congrArg (fun v => tget (regReset v) _ _) (s.variant_tileClear t)).trans (hfilter.trans ?_)
  simp only [Nat.le_add_right, decide_true, Nat.add_lt_add_iff_left, ho, Bool.and_self, Bool.not_true, Bool.false_or, Nat.add_sub_cancel_left,
    List.contains_iff_mem]
  rw [State.reg, (s.variant_tileClear t)]

/-- A reset keeps the records of R131, of which only TILE_SPD_ERR may meet the gather buffer's writes. -/
theorem State.reg_tileReset_kept {o : Nat} (ho : o ∈ keptRecords) (hg : o ≠ 0x258 ∨ (s.tile t).gather = []) :
    (s.tileReset t).reg (R.tileCtrl t + o) = s.reg (R.tileCtrl t + o) := by
  have hlist : o = 0x10 ∨ o = 0x18 ∨ o = 0x108 ∨ o = 0x258 ∨ o = 0x410 ∨ o = 0x418 := by simpa [keptRecords] using ho
  rw [State.reg_tileReset s t (by omega), if_pos ho, State.reg_tileClear]
  · rcases hg with hg | hg
    · obtain ⟨-, -, hregs⟩ := confined_gatherAll s t
      exact hregs _ (by simp only [R.tileCtrl, R.tileSpdErr]; omega)
    · rw [State.gatherAll, hg]; rfl
  · simp only [launchRegs, List.mem_cons, List.not_mem_nil, or_false, R.tileCtrl, R.tileStat, R.tileCycles, R.tileFpFlags, R.tileSrState]
    omega

end

end Sys2Proof.Machine
end

section
/-! Clears of a tile, and the Keeper's write of TILE_SR_STATE (R103, R152, R177). -/

namespace Sys2Proof.Machine

/-! ## Bulk clear and conflict counters -/

/-- A bulk clear makes the bytes of its words read zero. -/
theorem TileSt.byteAt_freshen (x : TileSt) (w : Nat) {n : Nat} (hn : 0 < n) (k : Nat) :
    (x.freshen w n).byteAt k = if 8 * w ≤ k ∧ k < 8 * (w + n) then 0 else x.byteAt k := by
  have hmem : mget (x.freshen w n).mem k = if 8 * w ≤ k ∧ k < 8 * (w + n) then 0 else mget x.mem k := by
    refine (tget_tclear zeroByte (8 * w) (8 * (w + n) - 1) x.mem k).trans (if_congr ?_ rfl rfl)
    omega
  by_cases hk : 8 * w ≤ k ∧ k < 8 * (w + n)
  · have hgather : (x.freshen w n).gather.find? (fun g => decide (g.word = k / 8)) = none := by
      rw [List.find?_eq_none]
      intro g hg
      simp only [TileSt.freshen, List.mem_filter, Bool.not_eq_true', Bool.and_eq_false_iff, decide_eq_false_iff_not] at hg
      simp only [decide_eq_true_eq]
      omega
    rw [TileSt.byteAt, hgather]
    simp only [hmem, hk, and_self, if_true]
  · have hgather : (x.freshen w n).gather.find? (fun g => decide (g.word = k / 8)) = x.gather.find? (fun g => decide (g.word = k / 8)) := by
      refine (List.find?_filter ..).trans (congrArg (fun p => x.gather.find? p) (funext fun g => ?_))
      rw [decide_eq_decide]
      simp only [Bool.not_eq_true', Bool.and_eq_false_iff, decide_eq_false_iff_not, decide_eq_true_eq]
      omega
    rw [TileSt.byteAt, TileSt.byteAt, hgather, hmem, if_neg hk, if_neg hk]

section
variable (s : State) (t : Nat)

theorem State.running_clearFields (base len : Nat) :
    (s.wrs [(F.tileSpdClearBase t, base), (F.tileSpdClearLenM1 t, len)]).running t = s.running t := by
  obtain ⟨-, hregs⟩ := s.wrs_only [(F.tileSpdClearBase t, base), (F.tileSpdClearLenM1 t, len)]
  rw [State.running, State.rd, hregs _ (by simp [F.tileSpdClearBase, F.tileSpdClearLenM1, F.tileStatState, R.tileSpdClear, R.tileStat]),
    State.running, State.rd]

/-- A bulk clear of an idle tile within its scratchpad. -/
theorem State.bulkClear_idle {base len : Nat} (h : base + len < 1024) (hr : s.running t = false) : s.bulkClear t base len =
    ((s.wrs [(F.tileSpdClearBase t, base), (F.tileSpdClearLenM1 t, len)]).wr (F.tileSpdStatClearBusy t) 1).modTile t
      fun x => x.freshen (32 * base) (32 * (len + 1)) := by
  have hb : base % 1024 = base := Nat.mod_eq_of_lt (by omega)
  have hl : len % 1024 = len := Nat.mod_eq_of_lt (by omega)
  rw [State.bulkClear]
  simp only [hb, hl, State.running_clearFields, hr]
  exact if_neg (by simp only [Bool.false_eq_true, false_or]; omega)

/-- A bulk clear of a running tile is rejected. -/
theorem State.bulkClear_running {base len : Nat} (hr : s.running t = true) : s.bulkClear t base len =
    (s.wrs [(F.tileSpdClearBase t, base), (F.tileSpdClearLenM1 t, len)]).wr (F.tileSpdStatClearRej t) 1 := by
  rw [State.bulkClear]
  simp only [State.running_clearFields, hr, true_or, if_true]

theorem State.spdByte_bulkClear {base len : Nat} (h : base + len < 1024) (hr : s.running t = false) (j k : Nat) :
    (s.bulkClear t base len).spdByte j k = if j = t ∧ 256 * base ≤ k ∧ k < 256 * (base + len + 1) then 0 else s.spdByte j k := by
  rw [State.spdByte_eq, State.spdByte_eq, State.bulkClear_idle s t h hr, State.tile_modTile, State.tile_wr, State.tile_wr, State.tile_wrs, State.tile_wrs]
  by_cases hj : j = t
  · rw [if_pos hj, TileSt.byteAt_freshen _ _ (by omega), hj]
    refine if_congr ?_ rfl rfl
    omega
  · rw [if_neg hj, if_neg fun hc => hj hc.1]

/-- The fields of the 32 conflict counts, written with 0. -/
def conflFields (t : Nat) : List (Fld × Nat) := (List.range 32).map fun n => (F.tileSpdConflCount t n, 0)

theorem State.conflClear_eq : s.conflClear t = s.wrs (conflFields t) := by
  rw [State.conflClear, State.wrs, conflFields, List.foldl_map]

theorem State.rd_conflClear {n : Nat} (hn : n < 32) : (s.conflClear t).rd (F.tileSpdConflCount t n) = 0 := by
  rw [State.conflClear_eq]
  refine (State.rd_wrs_of_mem (conflFields t) s ?_ ?_ (p := (F.tileSpdConflCount t n, 0))
    (List.mem_map_of_mem (List.mem_range.mpr hn))).trans (Nat.zero_mod _)
  · simp [conflFields, F.tileSpdConflCount]
  · refine List.pairwise_map.mpr (List.Pairwise.imp (fun {a b} hab => .inl ?_) List.nodup_range)
    simp only [F.tileSpdConflCount, R.tileSpdConfl]
    omega

theorem State.conflClear_only : onlyRegs s (s.conflClear t) ((List.range 32).map (R.tileSpdConfl t)) := by
  have h := s.wrs_only (conflFields t)
  rw [← State.conflClear_eq, conflFields, List.map_map] at h
  exact h

end

/-! ## The Keeper's write of TILE_SR_STATE -/

/-- The family of TILE_SR_STATE. -/
def srStateDef : RegDef := ⟨0xc00000, 25600, 0x800, 0x130, 0x0, 1, 32, 0xffffffff, 0x0, 0x9e3779b9⟩

/-- Every other family lies below the tiles' pages, or holds other offsets of a page. -/
theorem families_srState : (regDefs.all fun d => decide (d = srStateDef)
    || decide (d.base + d.off + d.stride * (d.insts - 1) + d.step * (d.count - 1) < 0xC00000)
    || (decide (d.base = 0xC00000) && decide (d.insts = 25600) && decide (d.stride = 0x800) && decide (d.off < 0x800) &&
      (decide (d.count ≤ 1) && decide (d.off ≠ 0x130) || decide (1 < d.count) && decide (0 < d.step) && decide (0x130 < d.off)
        && decide (d.off + d.count * d.step ≤ 0x930)))) = true := by decide +kernel

section
variable {t : Nat} (ht : t < tileCount)
include ht

theorem tileSrState_bounds : 0xC00130 ≤ R.tileSrState t ∧ R.tileSrState t < 0x3E00000 ∧ (R.tileSrState t - 0xC00000) / 0x800 = t ∧
    R.tileSrState t % 0x800 = 0x130 := by
  unfold tileCount at ht
  simp only [R.tileSrState]
  omega

theorem regDefAt_srState : regDefAt (R.tileSrState t) = some srStateDef := by
  have hcov : srStateDef.covers (R.tileSrState t) = true := by
    unfold tileCount at ht
    simp only [RegDef.covers, srStateDef, R.tileSrState, Nat.reduceAdd, Nat.add_one_sub_one, Nat.reduceMul, mul_zero, add_zero, Std.le_refl,
      Nat.not_ofNat_le_one, if_true, if_false, add_tsub_cancel_left, Nat.mul_mod_right, Nat.le_add_right, decide_true, Bool.true_and,
      Bool.and_true, decide_eq_true_eq]
    omega
  have hone (d : RegDef) (hd : d ∈ regDefs) (hc : d.covers (R.tileSrState t) = true) : d = srStateDef := by
    by_contra hne
    have h := List.all_eq_true.mp families_srState d hd
    obtain ⟨hlo, -, -, hmod⟩ := tileSrState_bounds ht
    simp only [RegDef.covers, Bool.and_eq_true, decide_eq_true_eq] at hc
    simp only [hne, decide_false, Bool.false_or, Bool.or_eq_true, Bool.and_eq_true, decide_eq_true_eq] at h
    obtain ⟨⟨hfirst, hlast⟩, hin⟩ := hc
    rcases h with h | ⟨⟨⟨⟨hb, hi⟩, hs⟩, hoff⟩, h⟩
    · omega
    · rw [hb, hi, hs] at hin
      rcases h with ⟨hcount, hoff'⟩ | ⟨⟨⟨hcount, hstep⟩, hoff'⟩, hfit⟩
      · simp only [hcount, Nat.not_ofNat_le_one, if_true, if_false, decide_eq_true_eq] at hin
        omega
      · rw [if_neg (by omega), if_neg (by omega)] at hin
        simp only [Bool.and_eq_true, decide_eq_true_eq, Nat.div_lt_iff_lt_mul hstep] at hin
        obtain ⟨⟨-, hlt⟩, -⟩ := hin
        omega
  have hmem : srStateDef ∈ regDefs := by decide +kernel
  obtain ⟨d, hd⟩ := Option.isSome_iff_exists.mp (List.find?_isSome (p := (·.covers (R.tileSrState t))).mpr ⟨srStateDef, hmem, hcov⟩)
  rw [regDefAt, hd, hone d (List.mem_of_find?_eq_some hd) (List.find?_some (p := fun d : RegDef => d.covers (R.tileSrState t)) hd)]

end

/-- The offsets of the tiles' pages are a block of their own. -/
theorem blockAt_tile {o : Nat} (hlo : 0xC00000 ≤ o) (hhi : o < 0x3E00000) : blockAt o = some (false, true) := by
  have hlow : ∀ b ∈ blocks.dropLast, b.1 + b.2.1 ≤ 0xC00000 := by decide
  have hnone : blocks.dropLast.find? (fun b => decide (b.1 ≤ o) && decide (o < b.1 + b.2.1)) = none := by
    rw [List.find?_eq_none]
    intro b hb
    have := hlow b hb
    simp only [Bool.and_eq_true, decide_eq_true_eq]
    omega
  have hsplit : blocks = blocks.dropLast ++ [(0xC00000, 0x3200000, false, true)] := rfl
  rw [blockAt, hsplit, List.find?_append, hnone]
  simp [hlo, hhi]

section
variable (s : State) {t : Nat} (ht : t < tileCount) (v : Nat)
include ht

theorem ownRow_srState : ownRow (R.tileSrState t) = 0 := by
  obtain ⟨hlo, hhi, -, hmod⟩ := tileSrState_bounds ht
  unfold ownRow
  rw [if_neg (by omega), if_neg (by omega), if_neg (by omega), if_neg (by omega), if_neg (by omega), if_neg (by omega), if_neg (by omega)]

theorem frozenBits_srState : s.frozenBits (R.tileSrState t) = 0 := by
  obtain ⟨hlo, hhi, -, hmod⟩ := tileSrState_bounds ht
  unfold State.frozenBits
  rw [if_neg (by omega), if_neg (by omega), if_neg (by omega)]

theorem inertReg_srState : s.inertReg (R.tileSrState t) = false := by
  obtain ⟨hlo, -, -, -⟩ := tileSrState_bounds ht
  simp only [State.inertReg, Bool.or_eq_false_iff, Bool.and_eq_false_iff, decide_eq_false_iff_not]
  exact ⟨⟨.inl (.inr (by omega)), .inl (.inr (by omega))⟩, .inl (.inr (by omega))⟩

theorem clearedBits_srState : clearedBits (R.tileSrState t) 0 v = 0 := by
  obtain ⟨hlo, -, -, hmod⟩ := tileSrState_bounds ht
  have hce : ceReg (R.tileSrState t) = false := by
    simp only [ceReg, R.keepMemErr, Bool.or_eq_false_iff, Bool.and_eq_false_iff, decide_eq_false_iff_not]
    exact ⟨⟨decide_eq_false (by omega), .inl (.inr (by omega))⟩, .inr (by omega)⟩
  simp [clearedBits, hce]

/-- The bits that a write stores in TILE_SR_STATE: all 32 of its state. -/
theorem State.regWrite_srState : s.regWrite (R.tileSrState t) 0 64 v =
    s.setReg (R.tileSrState t) ((s.reg (R.tileSrState t) &&& ~~~ 0xFFFFFFFF) ||| (BitVec.ofNat 64 v &&& 0xFFFFFFFF)) := by
  unfold State.regWrite
  rw [regDefAt_srState ht]
  have hv : BitVec.ofNat 64 (v % 2 ^ 64) = BitVec.ofNat 64 v := BitVec.eq_of_toNat_eq (by simp)
  have hones (x : W64) : x &&& ~~~ BitVec.ofNat 64 0 = x := BitVec.and_allOnes
  simp only [ownRow_srState ht, frozenBits_srState s ht, inertReg_srState s ht, srStateDef, clearedBits_srState ht, pow_zero, one_mul, hv,
    hones]
  rfl

theorem State.rd_regWrite_srState : (s.regWrite (R.tileSrState t) 0 64 v).rd (F.tileSrStateState t) = v % 2 ^ 32 := by
  rw [State.regWrite_srState s ht, State.rd]
  simp only [F.tileSrStateState, State.reg_setReg_same]
  have hmask : (0xFFFFFFFF : W64) = (BitVec.allOnes 32).setWidth 64 := rfl
  rw [bf_zero, hmask]
  refine Nat.eq_of_testBit_eq fun i => ?_
  rw [Nat.testBit_mod_two_pow, Nat.testBit_mod_two_pow, BitVec.testBit_toNat]
  by_cases hi : i < 32
  · rw [BitVec.getLsbD_or, BitVec.getLsbD_and, BitVec.getLsbD_and, BitVec.getLsbD_not, BitVec.getLsbD_setWidth, BitVec.getLsbD_allOnes,
      BitVec.getLsbD_ofNat]
    simp [hi, show i < 64 by omega]
  · simp [hi]

/-- Beyond its bits, a write of TILE_SR_STATE with 0 puts the state that 0 stands for (R95, R103). -/
theorem State.regActs_srState : s.regActs (R.tileSrState t) v =
    if s.rd (F.tileSrStateState t) = 0 then s.setReg (R.tileSrState t) 0x9E3779B9 else s := by
  obtain ⟨hlo, hhi, hdiv, hmod⟩ := tileSrState_bounds ht
  have hpage : (decide (0xC00000 ≤ R.tileSrState t) && decide (R.tileSrState t < 0x3E00000)
      && [0x130, 0x240, 0x248, 0x280, 0x288, 0x290, 0x298, 0x420].contains (R.tileSrState t % 0x800)) = true := by
    rw [hmod, decide_eq_true (show 0xC00000 ≤ R.tileSrState t by omega), decide_eq_true hhi]
    rfl
  have hact : actReg (R.tileSrState t) = true := by rw [actReg, hpage, Bool.or_true]
  unfold State.regActs
  rw [hact, if_neg (by simp), if_neg (by simp only [R.packTreeCtrl]; omega), if_neg (by omega), if_neg (by omega), if_neg (by omega), hdiv, hmod]
  rfl

theorem State.registerWrite_srState (h : s.computeDown = false) (v : W64) : s.registerWrite (R.tileSrState t) 8 v .keeper =
    (s.regWrite (R.tileSrState t) 0 64 v.toNat).regActs (R.tileSrState t) v.toNat := by
  obtain ⟨hlo, hhi, -, hmod⟩ := tileSrState_bounds ht
  have haddr : R.tileSrState t / 8 * 8 = R.tileSrState t := by omega
  unfold State.registerWrite
  simp only [haddr, blockAt_tile (show 0xC00000 ≤ R.tileSrState t by omega) hhi, h, show R.tileSrState t % 8 = 0 by omega]
  have hv : v.toNat % 2 ^ 64 = v.toNat := Nat.mod_eq_of_lt v.isLt
  simp
  rw [if_neg (by simp only [R.keepLatTgt]; omega), if_neg (by simp only [R.keepCollarCfg]; omega)]
  exact congrArg _ hv

end

end Sys2Proof.Machine
end

section
/-! What each command of the Keeper does to a tile of the module. -/

namespace Sys2Proof.Machine

section
variable (s : State) {t : Nat} (ht : t < tileCount)

/-! ## Outcomes -/

include ht in
theorem State.when_tile (f : State → State) : s.when (decide (t < tileCount)) f = f s := by rw [State.when, decide_eq_true ht]; rfl

include ht in
theorem exec_tileRun (entry : Nat) : exec (.tileRun t entry) s = .next (s.tileRun t entry) := by
  show execTileRun t entry s = _
  rw [execTileRun, s.when_tile ht]

include ht in
theorem exec_tileStop : exec (.tileStop t) s = .next (s.tileStop t) := by
  show execTileStop t s = _
  rw [execTileStop, s.when_tile ht]

include ht in
theorem exec_tileReset : exec (.tileReset t) s = .next (s.tileReset t) := by
  show execTileReset t s = _
  rw [execTileReset, s.when_tile ht]

include ht in
theorem exec_bulkClear (base len : Nat) : exec (.bulkClear t base len) s = .next (s.bulkClear t base len) := by
  show execBulkClear t base len s = _
  rw [execBulkClear, s.when_tile ht]

/-! ## TILE_RUN -/

variable (t)

theorem State.stat_runSet (entry : Nat) : (s.runSet t entry).rd (F.tileStatState t) = s.rd (F.tileStatState t) :=
  s.rd_runSet t entry (by simp only [F.tileStatState, R.tileStat, R.tileCtrl]; omega)
    (by simp only [F.tileStatState, R.tileStat, R.tileCycles]; omega)

theorem State.cycles_runSet (entry : Nat) : (s.runSet t entry).reg (R.tileCycles t) = 0 := by rw [State.reg_runSet, if_pos rfl]

/-- A tile that is not in Halt starts at its entry address. -/
theorem State.tileRun_starts {entry : Nat} (h : s.rd (F.tileStatState t) ≠ stHalt) : let v := s.tileRun t entry
    v.rd (F.tileStatState t) = stRun ∧ v.on (F.tileCtrlRun t) = true ∧ v.reg (R.tileCycles t) = 0 ∧
      (v.tile t).pc = 16 * (entry % 2 ^ 14) ∧ (v.tile t).done = 0 ∧ (v.tile t).ended = false ∧ ∀ k, k ≠ t → v.tile k = s.tile k := by
  have hrun : ((s.runSet t entry).wr (F.tileStatState t) stRun).on (F.tileCtrlRun t) = true := by
    rw [State.on, State.rd_wr_addr _ _ _ _ (by simp only [F.tileStatState, F.tileCtrlRun, R.tileStat, R.tileCtrl]; omega)]
    exact s.run_runSet t entry
  have hcycles : ((s.runSet t entry).wr (F.tileStatState t) stRun).reg (R.tileCycles t) = 0 := by
    rw [State.reg_wr_ne _ _ _ (by simp only [F.tileStatState, R.tileStat, R.tileCycles]; omega), s.cycles_runSet t entry]
  rw [State.tileRun_eq, if_neg (by rwa [s.stat_runSet t entry])]
  refine ⟨State.rd_wr_same (s.runSet t entry) _ stRun (by simp [F.tileStatState]), hrun, hcycles, ?_, ?_, ?_, fun k hk => ?_⟩
  · rw [State.tile_modTile_same]
  · rw [State.tile_modTile_same]
  · rw [State.tile_modTile_same]
  · rw [State.tile_modTile_ne _ _ _ hk, State.tile_wr, State.tile_runSet, if_neg hk]

/-- A tile in Halt waits for its reset. -/
theorem State.tileRun_halted {entry : Nat} (h : s.rd (F.tileStatState t) = stHalt) : let v := s.tileRun t entry
    v.rd (F.tileStatState t) = stHalt ∧ v.on (F.tileCtrlRun t) = true ∧ v.reg (R.tileCycles t) = 0 ∧
      v.tile t = { s.tile t with clocked := true } ∧ ∀ k, k ≠ t → v.tile k = s.tile k := by
  have hstat := (s.stat_runSet t entry).trans h
  rw [State.tileRun_eq, if_pos hstat]
  refine ⟨hstat, s.run_runSet t entry, s.cycles_runSet t entry, ?_, fun k hk => ?_⟩
  · rw [State.tile_runSet, if_pos rfl]
  · rw [State.tile_runSet, if_neg hk]

/-! ## TILE_RESET and BULK_CLEAR -/

/-- The units of a reset tile hold nothing. -/
theorem State.units_tileReset : let y := (s.tileReset t).tile t
    (∀ n, y.sreg n = 0) ∧ (∀ r l, y.lane r l = 0) ∧ (∀ m, y.mreg m = 0) ∧ y.loops = [] ∧ y.sb = [] ∧ y.mtx = .reset ∧
      y.fe0.idle = true ∧ y.fe1.idle = true := by
  rw [State.tile_tileReset_same]
  exact ⟨fun n => ite_self 0, fun _ _ => rfl, fun _ => rfl, rfl, rfl, rfl, rfl, rfl⟩

/-- A rejected clear changes no tile. -/
theorem State.bulkClear_rejected {base len : Nat} (hr : s.running t = true) :
    (s.bulkClear t base len).on (F.tileSpdStatClearRej t) = true ∧ (s.bulkClear t base len).tiles = s.tiles := by
  obtain ⟨hwrs, -⟩ := s.wrs_only [(F.tileSpdClearBase t, base), (F.tileSpdClearLenM1 t, len)]
  have htiles : (s.wrs [(F.tileSpdClearBase t, base), (F.tileSpdClearLenM1 t, len)]).tiles = s.tiles := by rw [hwrs]
  rw [State.bulkClear_running s t hr]
  exact ⟨State.on_wr_one _ rfl (by simp [F.tileSpdStatClearRej]), htiles⟩

theorem State.on_bulkClear {base len : Nat} (h : base + len < 1024) (hr : s.running t = false) :
    (s.bulkClear t base len).on (F.tileSpdStatClearBusy t) = true := by
  rw [State.bulkClear_idle s t h hr]
  exact State.on_wr_one (s.wrs _) (f := F.tileSpdStatClearBusy t) rfl (by simp [F.tileSpdStatClearBusy])

/-! ## TILE_SR_STATE -/

variable {t}

include ht in
/-- A write of TILE_SR_STATE stores its 32 bits, and 0x9E37_79B9 in place of 0 (R95, R103). -/
theorem leads_srStateWrite (v : W64) (h : s.computeDown = false) : leads (exec (.registerWrite (R.tileSrState t) 8 v .keeper) s) fun z =>
    onlyRegs s z [R.tileSrState t] ∧ z.rd (F.tileSrStateState t) = if v.toNat % 2 ^ 32 = 0 then 0x9E3779B9 else v.toNat % 2 ^ 32 := by
  have hexec : exec (.registerWrite (R.tileSrState t) 8 v .keeper) s = .next (s.registerWrite (R.tileSrState t) 8 v .keeper) := by
    show execRegisterWrite (R.tileSrState t) 8 v .keeper s = _
    rw [execRegisterWrite]
  have honly : onlyRegs s (s.regWrite (R.tileSrState t) 0 64 v.toNat) [R.tileSrState t] := by
    rw [State.regWrite_srState s ht]
    exact State.setReg_only ..
  have hrd := State.rd_regWrite_srState s ht v.toNat
  rw [hexec, State.registerWrite_srState s ht h, State.regActs_srState _ ht, hrd]
  refine leads_next ?_
  split
  · refine ⟨honly.trans (State.setReg_only ..) |>.imp_right fun hregs a ha => hregs a (by simpa using ha), ?_⟩
    rw [State.rd]
    simp only [F.tileSrStateState, State.reg_setReg_same]
    rfl
  · exact ⟨honly, hrd⟩

end

end Sys2Proof.Machine
end

section
open Sys2Proof Sys2Proof.Machine

/-- Settles O14, command by command. -/
theorem tileControl : Obligations.TileControl := by
  unfold Obligations.TileControl
  intro s t ht x
  refine ⟨fun entry h => ⟨_, exec_tileRun s ht entry, s.tileRun_starts t h⟩, fun entry h => ⟨_, exec_tileRun s ht entry, s.tileRun_halted t h⟩,
    ⟨_, exec_tileStop s ht, s.on_tileStop t⟩, ⟨_, exec_tileReset s ht, ?_⟩,
    fun base len h hr => ⟨_, exec_bulkClear s ht base len, s.on_bulkClear t h hr, s.spdByte_bulkClear t h hr⟩,
    fun base len hr => ⟨_, exec_bulkClear s ht base len, s.bulkClear_rejected t hr⟩, ⟨s.wr (F.tileSpdStatClearBusy t) 0, ?_, ?_, State.wr_only ..⟩,
    ⟨s.conflClear t, ?_, fun n hn => s.rd_conflClear t hn, s.conflClear_only t⟩, ?_, ?_, fun v hdown => leads_srStateWrite s ht v hdown⟩
  · obtain ⟨hsreg, hlane, hmask, hloops, hsb, hmtx, hfe0, hfe1⟩ := s.units_tileReset t
    exact ⟨hsreg, hlane, hmask, hloops, hsb, hmtx, hfe0, hfe1, fun k hk => s.tile_tileReset_ne t hk,
      fun o ho hk => by rw [s.reg_tileReset t ho, if_neg hk], fun o ho hg => s.reg_tileReset_kept t ho hg, s.spdByte_tileReset t⟩
  · show execBulkClearDone t s = _
    rw [execBulkClearDone]
  · rw [State.on, State.rd_wr_same _ _ _ (by simp [F.tileSpdStatClearBusy])]
    rfl
  · show execConflictCounterClear t s = _
    rw [execConflictCounterClear]
  · show execNearCacheInvalidate t s = _
    rw [execNearCacheInvalidate]
    rfl
  · show execScentClear t s = _
    rw [execScentClear]
    rfl

end

section
/-! A stale answer to a RETIRE, which a ROUTE_SET sends (R405, R470, R539). -/

namespace Sys2Proof.Machine

/-- A RETIRE of link 3968, which no variant has, waits for its answer. LINK_STAT of that number would be the register of PORT_ROUTE that holds the
entries of modules 4 to 7 (R418, R420): the route of module 4 is link 3, so that the link reads as Up, and its transmit sequence number lies in
the entry of module 6. -/
def staleAckState : State :=
  { State.reset with regs := [(R.cmdqQcfg 0, 9), (R.bootStatus, 0x48000), (R.portRoute 0 1, 3)],
                     fab := { State.reset.fab with retireAcks := [3968] } }

/-- A ROUTE_SET of one entry, that of module 0, to no route. -/
def clearRouteEntry : Entry := { noEntry with sq := 0, w2 := 0x4000, inp := { noEntry.inp with read := some [0, 0] } }

theorem staleAckState_cmdTurn : staleAckState.cmdTurn clearRouteEntry .admin .plain [(1, [(3, 61)]), (2, [(0, 29)])] =
    some (staleAckState.cmdStart clearRouteEntry) := if_pos (by decide)

theorem exec_routeSet (e : Entry) (s : State) : exec (.routeSet e) s = .next (s.routeSetCmd e) := rfl

/-- Module 6 has no route as the command starts. -/
theorem rd_routeFld_cmdStart : (staleAckState.cmdStart clearRouteEntry).rd (routeFld 0 6 0 14) = 0 := by decide

/-- The answer's flit counts up the sequence number, and with it the entry of module 6. -/
theorem rd_routeFld_routeSetCmd : (staleAckState.routeSetCmd clearRouteEntry).rd (routeFld 0 6 0 14) = 16 := by decide +kernel

end Sys2Proof.Machine
end

section
open Sys2Proof Sys2Proof.Machine

/-- Refutes O47: its clause on ROUTE_SET does not ask that the links of the fabric's state are links of the module. In `staleAckState` the command
that names module 0 alone also sends the answer to a RETIRE on link 3968, whose LINK_STAT lies among the routes, and the entry of module 6 goes
from 0 to 16. -/
theorem not_windowsAndRoutes : ¬ Obligations.WindowsAndRoutes := by
  unfold Obligations.WindowsAndRoutes
  intro ⟨_, _, _, hroute⟩
  obtain ⟨-, hset⟩ := hroute staleAckState _ clearRouteEntry [0, 0] staleAckState_cmdTurn
  obtain ⟨-, hwritten⟩ := hset (by decide) (by decide) rfl (by decide)
  obtain ⟨z, hz, hentries, -⟩ := hwritten (by decide)
  rw [exec_routeSet] at hz
  obtain rfl := Host.Outcome.next.inj hz
  have hkept : (staleAckState.routeSetCmd clearRouteEntry).rd (routeFld 0 6 0 14) = (staleAckState.cmdStart clearRouteEntry).rd (routeFld 0 6 0 14) :=
    (hentries 0 6 (by decide) (by decide)).trans (if_neg (by decide))
  rw [rd_routeFld_routeSetCmd, rd_routeFld_cmdStart] at hkept
  exact absurd hkept (by decide)

end

section
/-! Commands that complete, one or many: what they leave alone (R464, R465). -/

namespace Sys2Proof.Machine

/-- Commands have completed: nothing but queues, memory and messages on the host's side and the configuration of queues differs. -/
def completed (s w : State) : Prop :=
  w = { s with regs := w.regs, host := { s.host with queues := w.host.queues, mem := w.host.mem, msix := w.host.msix } } ∧
    ∀ a, 0x2400 ≤ a → w.reg a = s.reg a

theorem completed.refl (s : State) : completed s s := ⟨rfl, fun _ _ => rfl⟩

theorem completed.trans {s w z : State} (h : completed s w) (h' : completed w z) : completed s z := by
  refine ⟨?_, fun a ha => (h'.2 a ha).trans (h.2 a ha)⟩
  rw [h'.1, h.1]

theorem completed_complete (s : State) (e : Entry) (st r : Nat) : completed s (s.complete e st r) := by
  by_cases hq : 16 ≤ e.sq
  · rw [State.complete_of_noQueue s st r hq]
    exact .refl s
  · have h := s.complete_posted (e := e) st r (by omega)
    obtain ⟨hz, -, hhost, -⟩ := id h
    refine ⟨?_, fun a ha => posted_reg h ?_⟩
    · rw [hz, hhost]
    · simp only [R.cmdqQcfg]
      omega

/-- What `finish` does: the commands that waited for it wait no more, and complete. -/
theorem completed_finish (s : State) (p : Wait → Bool) (st r : Nat) :
    completed (s.modHost fun h => { h with waits := h.waits.filter fun w => !p w.why }) (s.finish p st r) :=
  foldl_keep _ (completed _) _ _ (.refl _) fun u w hu => hu.trans (completed_complete u w.e st r)

theorem completed.rd {s w : State} (h : completed s w) {f : Fld} (hf : 0x2400 ≤ f.addr) : w.rd f = s.rd f := by
  rw [State.rd, State.rd, h.2 _ hf]

theorem completed.waits {s w : State} (h : completed s w) : w.host.waits = s.host.waits := by rw [h.1]
theorem completed.fab {s w : State} (h : completed s w) : w.fab = s.fab := by rw [h.1]
theorem completed.tiles {s w : State} (h : completed s w) : w.tiles = s.tiles := by rw [h.1]

/-- A register outside a word of the permission table, after rights of pages have changed. -/
theorem State.reg_setRights_fold (f : State → Nat → State) (hf : ∀ u p, f u p = u ∨ ∃ v, f u p = u.setRight p v) (ps : List Nat) (s : State) {a : Nat}
    (ha : a < 0x4A0000) : (ps.foldl f s).reg a = s.reg a :=
  foldl_keep f (fun u : State => u.reg a = s.reg a) ps s rfl fun u p hu => by
    rcases hf u p with h | ⟨v, h⟩
    · rw [h, hu]
    · rw [h, State.reg_setRight_ne u p v fun k w _ _ => by simp only [R.floorPerm]; omega, hu]

end Sys2Proof.Machine
end

section
/-! Windows that close and open (R165, R168, R406, R409, R694). -/

namespace Sys2Proof.Machine

/-! ## Closing -/

theorem exec_tileWinCloseDone {s : State} {t n : Nat} (ht : t < tileCount) (hn : n < 4) (hs : s.rd (F.tileWinState t n) = 2) :
    exec (.tileWinCloseDone t n) s = .next (s.shutTileWin t n) := congrArg Host.Outcome.next (if_pos ⟨ht, hn, hs⟩)

/-- A tile window that is Closed: its generation stands, and no command waits for it (R168). -/
theorem State.shutTileWin_facts (s : State) (t n : Nat) : let z := s.shutTileWin t n
    z.rd (F.tileWinState t n) = 0 ∧ z.rd (F.tileWinGen t n) = s.rd (F.tileWinGen t n) ∧ ∀ x ∈ z.host.waits, x.why ≠ .tilewinClose t n := by
  intro z
  have hz := completed_finish (s.wr (F.tileWinState t n) 0).measureTables (fun x => decide (x = .tilewinClose t n)) sOK 0
  have haddr : 0x2400 ≤ R.tileWin t n := by simp only [R.tileWin]; omega
  refine ⟨?_, ?_, fun x hx => ?_⟩
  · exact (hz.rd haddr).trans (State.rd_wr_same s _ 0 (by simp [F.tileWinState]))
  · exact (hz.rd haddr).trans (State.rd_wr_apart s _ _ 0 (by simp [F.tileWinGen]) (by simp [F.tileWinState, F.tileWinGen]))
  · have hw := hz.waits ▸ hx
    simpa using (List.mem_filter.1 hw).2

/-- The rights of pages as they return to 2. -/
def State.lowerRights (s : State) (ps : List Nat) : State := ps.foldl (fun s p => if s.right p = 3 then s.setRight p 2 else s) s

/-- A module window is Closed and some pages are given back; the commands that waited for it complete (R409). -/
theorem State.shutMwin_eq (s : State) (w : Nat) : ∃ ps, s.shutMwin w =
    ((((s.wr (F.winCtrlState w) 0).lowerRights ps).modFab fun f => { f with raised := f.raised.filter fun p => !ps.contains p }).measureTables).finish
      (fun x => decide (x = .mwinClose w)) sOK 0 := ⟨_, rfl⟩

theorem mapsOnly_lowerRights (s : State) (ps : List Nat) : mapsOnly s (s.lowerRights ps) :=
  mapsOnly_foldl _ ps s fun u p => by
    split
    · exact mapsOnly_setRight u p 2
    · exact .refl u

theorem State.reg_lowerRights (s : State) (ps : List Nat) {a : Nat} (ha : a < 0x4A0000) : (s.lowerRights ps).reg a = s.reg a :=
  State.reg_setRights_fold _ (fun u p => by
    by_cases h : u.right p = 3
    · exact .inr ⟨2, if_pos h⟩
    · exact .inl (if_neg h)) ps s ha

/-- A module window that is Closed: its generation stands, no command waits for it, and no page is newly raised (R409). -/
theorem State.shutMwin_facts (s : State) {w : Nat} (hw : w < 1024) :
    (s.shutMwin w).rd (F.winCtrlState w) = 0 ∧ (s.shutMwin w).rd (F.winCtrlGen w) = s.rd (F.winCtrlGen w) ∧
      (∀ x ∈ (s.shutMwin w).host.waits, x.why ≠ .mwinClose w) ∧ (∀ g ∈ (s.shutMwin w).fab.raised, g ∈ s.fab.raised) ∧
      (s.shutMwin w).host.retiring = s.host.retiring ∧ (s.shutMwin w).boot = s.boot := by
  obtain ⟨ps, hshut⟩ := s.shutMwin_eq w
  have hmaps := mapsOnly_lowerRights (s.wr (F.winCtrlState w) 0) ps
  have hlow := fun a ha => State.reg_lowerRights (s.wr (F.winCtrlState w) 0) ps (a := a) ha
  generalize (s.wr (F.winCtrlState w) 0).lowerRights ps = u at hshut hmaps hlow
  have hz := completed_finish (u.modFab fun f => { f with raised := f.raised.filter fun p => !ps.contains p }).measureTables
    (fun x => decide (x = .mwinClose w)) sOK 0
  rw [← hshut] at hz
  generalize s.shutMwin w = z at hz
  have hrd : ∀ f : Fld, f.addr = R.winCtrl w → z.rd f = (s.wr (F.winCtrlState w) 0).rd f := fun f hf =>
    (hz.rd (by simp only [hf, R.winCtrl]; omega)).trans (congrArg (fun v : W64 => bf v.toNat f.lo f.w) (hlow _ (by simp only [hf, R.winCtrl]; omega)))
  have hfab : u.fab = s.fab := by rw [hmaps]; rfl
  refine ⟨?_, ?_, fun x hx => ?_, fun g hg => ?_, ?_, ?_⟩
  · exact (hrd _ rfl).trans (State.rd_wr_same s _ 0 (by simp [F.winCtrlState]))
  · exact (hrd _ rfl).trans (State.rd_wr_apart s _ _ 0 (by simp [F.winCtrlGen]) (by simp [F.winCtrlState, F.winCtrlGen]))
  · rw [hz.waits] at hx
    simpa using (List.mem_filter.1 hx).2
  · rw [hz.fab] at hg
    exact hfab ▸ (List.mem_filter.1 hg).1
  · rw [hz.1]
    exact congrArg (·.host.retiring) hmaps
  · rw [hz.1]
    exact congrArg (·.boot) hmaps

theorem exec_mwinClosed {s : State} {w : Nat} (hs : s.rd (F.winCtrlState w) = 2) (hq : s.mwinQuiet w = true) :
    exec (.mwinClosed w) s = .next (s.shutMwin w).retireStep := congrArg Host.Outcome.next (if_pos ⟨hs, hq⟩)

/-- Nothing waits for RETIRE_ACKs or for the windows of a module that retires. -/
theorem State.retireStep_of_idle {s : State} (hr : s.host.retiring = false) (hl : s.boot.linkPhase ≠ 1) : s.retireStep = s := by
  unfold State.retireStep
  simp only [hl, hr, false_and, if_false, Bool.false_eq_true]

/-! ## Opening -/

/-- The fields of a module window as MWIN_OPEN gives them (R406). -/
def mwinFields (e : Entry) (w : Nat) : List (Fld × Nat) :=
  [(F.winCtrlBase w, parm e 2 / 256), (F.winLenLenM1 w, bf (parm e 3) 0 32), (F.winLenSrcLo w, bf (parm e 4) 0 14), (F.winLenSrcHi w, bf (parm e 4) 16 14),
    (F.winCtrlOpDep w, bf (parm e 5) 0 1), (F.winCtrlOpFold w, bf (parm e 5) 1 1), (F.winCtrlOpSig w, bf (parm e 5) 2 1),
    (F.winCtrlOpCall w, bf (parm e 5) 3 1), (F.winCtrlDbEn w, bf (parm e 5) 4 1), (F.winCtrlDbVec w, bf (parm e 5) 5 6)]

/-- A module window opens at its next generation, and some pages rise to right 3 (R406). -/
theorem State.mwinOpens_eq (s : State) (w : Nat) : ∃ ps : List Nat, s.mwinOpens w =
    ((ps.foldl (fun u p => u.setRight p 3) (s.wrs [(F.winCtrlState w, 1), (F.winCtrlGen w, nextGen (s.rd (F.winCtrlGen w)))])).modFab
      fun f => { f with raised := f.raised ++ ps }).measureTables := ⟨_, rfl⟩

/-- A field reads back what the window's opening leaves: rights of pages lie elsewhere. -/
theorem State.rd_mwinOpens (s : State) (w : Nat) {f : Fld} (hf : f.addr < 0x4A0000) :
    (s.mwinOpens w).rd f = (s.wrs [(F.winCtrlState w, 1), (F.winCtrlGen w, nextGen (s.rd (F.winCtrlGen w)))]).rd f := by
  obtain ⟨ps, hopens⟩ := s.mwinOpens_eq w
  rw [hopens]
  exact congrArg (fun v : W64 => bf v.toNat f.lo f.w) (State.reg_setRights_fold (fun u p => u.setRight p 3) (fun u p => .inr ⟨3, rfl⟩) ps _ hf)

/-- MWIN_OPEN writes the fields of its window and opens it (R406). -/
theorem State.openMwin_eq (s : State) {e : Entry} {w : Nat} (hw : bf (parm e 1) 0 10 = w) :
    s.openMwin e = ((s.wrs (mwinFields e w)).mwinOpens w).complete e sOK (nextGen (s.rd (F.winCtrlGen w))) := by
  subst hw
  rfl

/-- The fields of a window, its state and its generation share no bit, and each fits its register. -/
theorem mwinFields_apart (e : Entry) (w g : Nat) :
    ((mwinFields e w ++ [(F.winCtrlState w, 1), (F.winCtrlGen w, g)]).Pairwise fun p q => p.1.apart q.1) ∧
      ∀ p ∈ mwinFields e w ++ [(F.winCtrlState w, 1), (F.winCtrlGen w, g)], p.1.lo + p.1.w ≤ 64 := by
  have h : R.winCtrl w ≠ R.winLen w := by simp only [R.winCtrl, R.winLen]; omega
  simp [mwinFields, Fld.apart, F.winCtrlBase, F.winLenLenM1, F.winLenSrcLo, F.winLenSrcHi, F.winCtrlOpDep, F.winCtrlOpFold, F.winCtrlOpSig,
    F.winCtrlOpCall, F.winCtrlDbEn, F.winCtrlDbVec, F.winCtrlState, F.winCtrlGen, h, h.symm]

theorem nextGen_lt {g : Nat} (h : g < 256) : nextGen g < 256 := by unfold nextGen; split <;> omega

/-- Every field of a window as MWIN_OPEN leaves it (R406). -/
theorem State.rd_openMwin (s : State) {e : Entry} {w : Nat} (hw : bf (parm e 1) 0 10 = w) {p : Fld × Nat}
    (hp : p ∈ mwinFields e w ++ [(F.winCtrlState w, 1), (F.winCtrlGen w, nextGen (s.rd (F.winCtrlGen w)))]) : (s.openMwin e).rd p.1 = p.2 % 2 ^ p.1.w := by
  obtain ⟨hap, hfit⟩ := mwinFields_apart e w (nextGen (s.rd (F.winCtrlGen w)))
  have hlt : w < 1024 := hw ▸ bf_lt _ _ _
  have haddr : 0x2400 ≤ p.1.addr ∧ p.1.addr < 0x4A0000 := by
    have : p.1.addr = R.winCtrl w ∨ p.1.addr = R.winLen w := by
      simp only [mwinFields, List.cons_append, List.nil_append, List.mem_cons, List.not_mem_nil, or_false] at hp
      rcases hp with rfl | rfl | rfl | rfl | rfl | rfl | rfl | rfl | rfl | rfl | rfl | rfl <;> simp [F.winCtrlBase, F.winLenLenM1, F.winLenSrcLo,
        F.winLenSrcHi, F.winCtrlOpDep, F.winCtrlOpFold, F.winCtrlOpSig, F.winCtrlOpCall, F.winCtrlDbEn, F.winCtrlDbVec, F.winCtrlState, F.winCtrlGen]
    simp only [R.winCtrl, R.winLen] at this
    omega
  have hgen : (s.wrs (mwinFields e w)).rd (F.winCtrlGen w) = s.rd (F.winCtrlGen w) :=
    State.rd_wrs_of_apart (by simp [F.winCtrlGen]) _ s fun q hq => (List.pairwise_append.1 hap).2.2 q hq
      (F.winCtrlGen w, nextGen (s.rd (F.winCtrlGen w))) (by simp)
  rw [s.openMwin_eq hw, (completed_complete _ _ _ _).rd haddr.1, State.rd_mwinOpens _ _ haddr.2, hgen, State.wrs, State.wrs, ← List.foldl_append]
  exact State.rd_wrs_of_mem _ s hfit hap hp

theorem State.mwinOpens_frame (s : State) (w : Nat) : (s.mwinOpens w).host = s.host ∧ (s.mwinOpens w).fab.winDelays = s.fab.winDelays := by
  obtain ⟨ps, hopens⟩ := s.mwinOpens_eq w
  have hmaps : mapsOnly s (ps.foldl (fun u p => u.setRight p 3) (s.wrs [(F.winCtrlState w, 1), (F.winCtrlGen w, nextGen (s.rd (F.winCtrlGen w)))])) :=
    (mapsOnly_wrs s _).trans (mapsOnly_foldl _ ps _ fun u p => mapsOnly_setRight u p 3)
  rw [hopens]
  exact ⟨congrArg (·.host) hmaps, congrArg (·.fab.winDelays) hmaps⟩

theorem State.openMwin_frame (s : State) (e : Entry) :
    (s.openMwin e).host.waits = s.host.waits ∧ (s.openMwin e).fab.winDelays = s.fab.winDelays := by
  have hmaps := mapsOnly_wrs s (mwinFields e (bf (parm e 1) 0 10))
  obtain ⟨hhost, hdelays⟩ := (s.wrs (mwinFields e (bf (parm e 1) 0 10))).mwinOpens_frame (bf (parm e 1) 0 10)
  have hz := completed_complete ((s.wrs (mwinFields e (bf (parm e 1) 0 10))).mwinOpens (bf (parm e 1) 0 10)) e sOK
    (nextGen (s.rd (F.winCtrlGen (bf (parm e 1) 0 10))))
  rw [s.openMwin_eq rfl, hz.waits, hz.fab, hhost, hdelays]
  exact ⟨congrArg (·.host.waits) hmaps, congrArg (·.fab.winDelays) hmaps⟩

/-- A delayed MWIN_OPEN whose window is still Closed takes effect (R165, R406). -/
theorem exec_winReopenDelayEnd {s : State} {ix w : Nat} {e : Entry} (hw : w < 1024) (hd : s.fab.winDelays[ix]? = some ⟨w, some e⟩)
    (hs : s.rd (F.winCtrlState w) = 0) : exec (.winReopenDelayEnd ix) s = .next
      (((s.modFab fun f => { f with winDelays := f.winDelays.eraseIdx ix }).modHost fun h => { h with waits := h.waits.filter fun x => decide (x.e ≠ e) }).openMwin e) := by
  show execWinReopenDelayEnd ix s = _
  rw [execWinReopenDelayEnd, hd]
  exact congrArg Host.Outcome.next ((if_pos hw).trans (if_pos hs))

theorem Variant.hbmBytes_le (v : Variant) : v.hbmBytes ≤ 2 ^ 47 := by cases v <;> decide

/-- The window of a delayed MWIN_OPEN after its delay (R165, R406). -/
theorem winReopenDelayEnd_outcome {s : State} {ix w : Nat} {e : Entry} (hw : w < 1024) (hd : s.fab.winDelays[ix]? = some ⟨w, some e⟩)
    (he : bf (parm e 1) 0 10 = w) (hs : s.rd (F.winCtrlState w) = 0) (hr : parm e 2 + 256 * (bf (parm e 3) 0 32 + 1) ≤ s.variant.hbmBytes)
    (ha : parm e 2 % 256 = 0) : leads (exec (.winReopenDelayEnd ix) s) fun z =>
      z.fab.winDelays = s.fab.winDelays.eraseIdx ix ∧ z.rd (F.winCtrlState w) = 1 ∧
      z.rd (F.winCtrlGen w) = nextGen (s.rd (F.winCtrlGen w)) ∧ z.mwinRange w = (parm e 2, 256 * (bf (parm e 3) 0 32 + 1)) ∧
      z.rd (F.winLenSrcLo w) = bf (parm e 4) 0 14 ∧ z.rd (F.winLenSrcHi w) = bf (parm e 4) 16 14 ∧
      z.rd (F.winCtrlOpDep w) = bf (parm e 5) 0 1 ∧ z.rd (F.winCtrlOpFold w) = bf (parm e 5) 1 1 ∧
      z.rd (F.winCtrlOpSig w) = bf (parm e 5) 2 1 ∧ z.rd (F.winCtrlOpCall w) = bf (parm e 5) 3 1 ∧ ∀ x ∈ z.host.waits, x.e ≠ e := by
  rw [exec_winReopenDelayEnd hw hd hs]
  set u := (s.modFab fun f => { f with winDelays := f.winDelays.eraseIdx ix }).modHost fun h => { h with waits := h.waits.filter fun x => decide (x.e ≠ e) }
  have hfld : ∀ p ∈ mwinFields e w ++ [(F.winCtrlState w, 1), (F.winCtrlGen w, nextGen (u.rd (F.winCtrlGen w)))], p.2 < 2 ^ p.1.w →
      (u.openMwin e).rd p.1 = p.2 := fun p hp hlt => (u.rd_openMwin he hp).trans (Nat.mod_eq_of_lt hlt)
  simp only [mwinFields, List.cons_append, List.nil_append, List.forall_mem_cons, List.not_mem_nil, false_imp_iff, implies_true, and_true] at hfld
  obtain ⟨hbase, hlen, hlo, hhi, hdep, hfold, hsig, hcall, -, -, hstate, hgen⟩ := hfld
  have hbytes := Variant.hbmBytes_le s.variant
  have hbase := hbase (by simp only [F.winCtrlBase]; omega)
  have hlen := hlen (bf_lt _ _ _)
  obtain ⟨hwaits, hdelays⟩ := u.openMwin_frame e
  refine leads_next ⟨hdelays, hstate (by simp [F.winCtrlState]), hgen (nextGen_lt (bf_lt _ _ _)), ?_, hlo (bf_lt _ _ _), hhi (bf_lt _ _ _),
    hdep (bf_lt _ _ _), hfold (bf_lt _ _ _), hsig (bf_lt _ _ _), hcall (bf_lt _ _ _), fun x hx => ?_⟩
  · rw [State.mwinRange, hbase, hlen]
    exact congrArg (·, _) (by omega)
  · rw [hwaits] at hx
    simpa using (List.mem_filter.1 hx).2

end Sys2Proof.Machine
end
section
/-! What the bonds, the slices and the host's side do to the tiles and to the fabric's state: nothing (R225, R231 to R237, R272, R518). -/

namespace Sys2Proof.Machine

/-- The tiles, outside their registers, and the fabric's state are as before. -/
def tilesKept (s w : State) : Prop := w.tiles = s.tiles ∧ w.fab = s.fab

theorem tilesKept.refl (s : State) : tilesKept s s := ⟨rfl, rfl⟩

theorem tilesKept.trans {s w z : State} (h : tilesKept s w) (h' : tilesKept w z) : tilesKept s z := ⟨h'.1.trans h.1, h'.2.trans h.2⟩

theorem tilesKept_foldl {β : Type} {f : State → β → State} (h : ∀ u x, tilesKept u (f u x)) (l : List β) (s : State) : tilesKept s (l.foldl f s) :=
  foldl_keep f (tilesKept s) l s (.refl s) fun u x hu => hu.trans (h u x)

/-- A choice between two changes. -/
theorem tilesKept_ite (c : Prop) [Decidable c] {s v w : State} (hv : tilesKept s v) (hw : tilesKept s w) : tilesKept s (if c then v else w) := by
  split
  · exact hv
  · exact hw

variable (s : State)

theorem tilesKept_wr (f : Fld) (v : Nat) : tilesKept s (s.wr f v) := ⟨rfl, rfl⟩

theorem tilesKept_modSlice (n : Nat) (f : SliceSt → SliceSt) : tilesKept s (s.modSlice n f) := ⟨rfl, rfl⟩

theorem tilesKept_modDeck (f : DeckSt → DeckSt) : tilesKept s (s.modDeck f) := ⟨rfl, rfl⟩

theorem tilesKept_bump (ev : Nat) (u : EvUnit) (n : Nat) : tilesKept s (s.bump ev u n) := ⟨rfl, rfl⟩

theorem tilesKept_wrs (ws : List (Fld × Nat)) : tilesKept s (s.wrs ws) := tilesKept_foldl (fun u _ => tilesKept_wr u _ _) ws s

theorem tilesKept_record (valid multi : Fld) (ws : List (Fld × Nat)) : tilesKept s (s.record valid multi ws) :=
  tilesKept_ite _ (tilesKept_wr s _ _) ((tilesKept_wrs s ws).trans (tilesKept_wr _ _ _))

/-! ## The merge buffer and the channels -/

theorem tilesKept_mergeApply (n : Nat) (m : MergeEnt) : tilesKept s (s.mergeApply n m) := by
  unfold State.mergeApply
  dsimp only
  split <;> exact ⟨rfl, rfl⟩

theorem tilesKept_mergeFlush (n set line sector : Nat) : tilesKept s (s.mergeFlush n set line sector) :=
  tilesKept_foldl (fun u m => tilesKept_mergeApply u n m) _ s

theorem tilesKept_mergeFlushLine (n set line : Nat) : tilesKept s (s.mergeFlushLine n set line) :=
  tilesKept_foldl (fun u m => tilesKept_mergeApply u n m) _ s

theorem tilesKept_mergeAll (n : Nat) : tilesKept s (s.mergeAll n) := tilesKept_foldl (fun u m => tilesKept_mergeApply u n m) _ s

theorem tilesKept_mergeAdd (n : Nat) (p : Loc) (word : Nat) (mask : BitVec 8) (bytes : List Byte) (pois : Bool) :
    tilesKept s (s.mergeAdd n p word mask bytes pois) := by
  unfold State.mergeAdd
  dsimp only
  split
  · exact tilesKept_ite _ (tilesKept_mergeApply s n _) (tilesKept_modSlice s n _)
  · refine tilesKept.trans ?_ (tilesKept_modSlice _ n _)
    split
    · exact tilesKept_ite _ ((tilesKept_mergeApply s n _).trans (tilesKept_bump _ _ _ _)) (.refl s)
    · exact .refl s

theorem tilesKept_activate (ch : Nat) : tilesKept s (s.activate ch) := tilesKept_ite _ ⟨rfl, rfl⟩ ⟨rfl, rfl⟩

theorem tilesKept_hbmSet (k : Nat) (bs : List Byte) : tilesKept s (s.hbmSet k bs) := ⟨rfl, rfl⟩

theorem tilesKept_hbmPut (ch line sec : Nat) (words : List W64) (poison : List Nat) : tilesKept s (s.hbmPut ch line sec words poison) := by
  unfold State.hbmPut
  extract_lets k stored marked
  have hstored : tilesKept s stored := tilesKept_hbmSet s _ _
  clear_value stored
  have hmarked : tilesKept stored marked := ⟨rfl, rfl⟩
  exact ((hstored.trans hmarked).trans (tilesKept_bump _ _ _ _)).trans (tilesKept_activate _ ch)

theorem tilesKept_putOne (ch line sec : Nat) (words : List W64) (poison : List Nat) : tilesKept s (s.putOne ch line sec words poison) :=
  tilesKept_ite _ (.refl s) (tilesKept_hbmPut s _ _ _ _ _)

theorem tilesKept_grant (a : Arbiter) (u : EvUnit) (collar lv bytes : Nat) : tilesKept s (s.grant a u collar lv bytes) :=
  tilesKept_ite _ ⟨rfl, rfl⟩ (tilesKept_ite _ (tilesKept_bump s _ _ _) (.refl s))

theorem tilesKept_crossRing (a b collar lv bytes : Nat) : tilesKept s (s.crossRing a b collar lv bytes) :=
  tilesKept_foldl (fun u _ => tilesKept_grant u _ _ _ _ _) _ s

theorem tilesKept_putBack (ch line sec : Nat) (words : List W64) (poison : List Nat) {col : Nat} (hc : col < 2) :
    tilesKept s (s.putBack ch line sec words poison col) := by
  rw [State.putBack, State.atOnce_low _ _ _ _ hc]
  exact tilesKept_ite _ (.refl s) (tilesKept_putOne s _ _ _ _ _)

/-- A read of a sector that meets no error. -/
theorem tilesKept_hbmRead (ch line sec src : Nat) : tilesKept s (s.hbmRead ch line sec src .quiet).1 := by
  simp only [State.hbmRead, HbmIn.quiet, List.filter_nil, List.isEmpty_nil, if_true, List.take_nil, List.foldl_nil]
  have h := (tilesKept_bump s Ev.hbmRd (.slice ch) 1).trans (tilesKept_activate _ ch)
  exact tilesKept_ite _ h (h.trans (tilesKept_bump _ _ _ _))

theorem tilesKept_epochSec (ch : Nat) (e : EpochAt) : tilesKept s (s.epochSec ch e).1 := by
  unfold State.epochSec
  extract_lets u fromHbm
  have hu : tilesKept s u := tilesKept_mergeFlush s _ _ _ _
  have hread : tilesKept s fromHbm.1 := by
    unfold fromHbm
    split
    · exact hu
    · exact hu.trans (tilesKept_hbmRead u ch e.line e.sector hsNARROW)
  clear_value fromHbm
  split
  · dsimp only
    split
    · exact hu
    · exact hread
  · exact hread

/-! ## Ways of a set, and write-backs -/

theorem tilesKept_startWbs (n line : Nat) (b : Nat × Nat) (dirty : List (Nat × Sector)) (col : Nat) : tilesKept s (s.startWbs n line b dirty col) :=
  tilesKept_modSlice s n _

/-- A way emptied for the Keeper or for what no collar asked for, its write-back meeting nothing. -/
theorem tilesKept_evict (n set way : Nat) {col : Nat} (hc : col < 2) : tilesKept s (s.evict n set way col []).1 := by
  unfold State.evict
  dsimp only
  split
  · exact tilesKept_modSlice s n _
  · have hflush : tilesKept s ((s.mergeFlushLine n set ((s.slice n).line set way).line).wbDecode n set way []) := tilesKept_mergeFlushLine s _ _ _
    generalize (s.mergeFlushLine n set ((s.slice n).line set way).line).wbDecode n set way [] = u at hflush ⊢
    split
    · split
      · exact hflush.trans (tilesKept_modSlice u n _)
      · exact hflush.trans (tilesKept_startWbs u _ _ _ _ _)
    · split
      · exact hflush
      · exact (hflush.trans (tilesKept_foldl (fun u k => tilesKept_putBack u _ _ _ _ _ hc) _ u)).trans (tilesKept_modSlice _ n _)

theorem tilesKept_allocate (n set line kennel : Nat) (pref : Bool) {col : Nat} (hc : col < 2) :
    tilesKept s (s.allocate n set line kennel pref col []).1 := by
  have h : tilesKept s (s.takeWay n set kennel (pref || decide (s.persOf kennel = 0)) col []).1 := by
    unfold State.takeWay
    split
    · exact .refl s
    · exact tilesKept_evict s _ _ _ hc
  unfold State.allocate
  split
  · rename_i u w heq
    rw [heq] at h
    exact h.trans (tilesKept_modSlice u n _)
  · exact h

theorem tilesKept_putEpoch (ch line v : Nat) : tilesKept s (s.putEpoch ch line v) := by
  unfold State.putEpoch
  split
  · exact .refl s
  · rename_i e _
    have hsec := tilesKept_epochSec s ch e
    generalize s.epochSec ch e = r at hsec ⊢
    obtain ⟨u, old⟩ := r
    dsimp only at hsec ⊢
    refine hsec.trans ?_
    have hway : ∀ r : State × Got, tilesKept u r.1 → tilesKept u (match r.2 with
        | .way w => (r.1.modSlice ch fun x =>
            let l := x.line (e.line % 768) w
            let c := l.sec false e.sector
            let c := if c.valid then c else { Sector.none_ with valid := true, words := old.1, poison := old.2, zero := secZero old.1 old.2 }
            x.setLine (e.line % 768) w (l.setSec false e.sector { c with dirty := true, zero := c.zero && decide (v = 0) })).mergeAdd ch
              ⟨ch, false, e.line % 768, w, e.line, e.sector, 0, 0⟩ e.word (if e.high then 0xF0 else 0x0F)
              (leBytes 8 (BitVec.ofNat 64 (bfSet (old.1.getD e.word 0).toNat (if e.high then 32 else 0) 32 v)).toNat) false
        | _ => r.1.putOne ch e.line e.sector (((List.range 32).map fun i => old.1.getD i 0).set e.word
            (BitVec.ofNat 64 (bfSet (old.1.getD e.word 0).toNat (if e.high then 32 else 0) 32 v))) old.2) := by
      rintro ⟨y, got⟩ hy
      cases got with
      | way w => exact (hy.trans (tilesKept_modSlice y ch _)).trans (tilesKept_mergeAdd _ _ _ _ _ _ _)
      | none_ => exact hy.trans (tilesKept_putOne y _ _ _ _ _)
      | later => exact hy.trans (tilesKept_putOne y _ _ _ _ _)
    refine hway _ ?_
    split
    · exact .refl u
    · split
      · exact .refl u
      · exact tilesKept_allocate u _ _ _ _ _ (by omega)

theorem tilesKept_unsplit (n line sec : Nat) : tilesKept s (s.unsplit n line sec) := tilesKept_ite _ ⟨rfl, rfl⟩ (.refl s)

theorem tilesKept_writeBack (n line sec : Nat) (words : List W64) (poison : List Nat) (whole : Bool) {col : Nat} (hc : col < 2) :
    tilesKept s (s.writeBack n line sec words poison whole col) := by
  have hepoch : ∀ (u : State) (ch line : Nat), tilesKept u (if u.chanRetired ch then u else u.putEpoch ch line u.commitEpoch) := fun u ch line =>
    tilesKept_ite _ (.refl u) (tilesKept_putEpoch u _ _ _)
  unfold State.writeBack
  split
  · exact tilesKept_putBack s _ _ _ _ _ hc
  · rename_i b _
    extract_lets u copyA epochA copyB epochB
    have hA : tilesKept s epochA := ((tilesKept_modSlice s n _).trans (tilesKept_putBack u _ _ _ _ _ hc)).trans (hepoch copyA n line)
    have hB : tilesKept s epochB :=
      (hA.trans ((tilesKept_crossRing epochA _ _ _ _ _).trans (tilesKept_putBack _ _ _ _ _ _ hc))).trans (hepoch copyB b.1 b.2)
    exact tilesKept_ite _ (hB.trans (tilesKept_unsplit epochB _ _ _)) hB

theorem tilesKept_cleanLine (n set way : Nat) {col : Nat} (hc : col < 2) : tilesKept s (s.cleanLine n set way col) :=
  (tilesKept_mergeFlushLine s _ _ _).trans
    (tilesKept_foldl (fun u _ => tilesKept_ite _ (tilesKept_writeBack u _ _ _ _ _ _ hc) (.refl u)) _ _)

theorem tilesKept_flushOnce (n : Nat) : tilesKept s (s.flushOnce n) :=
  tilesKept_foldl (fun u _ => tilesKept_ite _ (.refl u) ((tilesKept_cleanLine u _ _ _ (by omega)).trans (tilesKept_modSlice _ _ _))) _ s

theorem tilesKept_flushSlice (n : Nat) : tilesKept s (s.flushSlice n) :=
  ((tilesKept_mergeAll s n).trans (tilesKept_flushOnce _ n)).trans (tilesKept_flushOnce _ n)

/-! ## Notices, the log and commands that complete -/

theorem tilesKept_of_hostPosts {s w : State} (h : hostPosts s w) : tilesKept s w := by
  unfold hostPosts at h
  exact ⟨by rw [h], by rw [h]⟩

theorem completed.tilesKept {s w : State} (h : completed s w) : tilesKept s w := ⟨h.tiles, h.fab⟩

theorem tilesKept_complete (e : Entry) (st r : Nat) : tilesKept s (s.complete e st r) := (completed_complete s e st r).tilesKept

theorem tilesKept_finish (p : Wait → Bool) (st r : Nat) : tilesKept s (s.finish p st r) :=
  .trans ⟨rfl, rfl⟩ (completed_finish s p st r).tilesKept

theorem tilesKept_notice (kind status result : Nat) : tilesKept s (s.notice kind status result) :=
  tilesKept_ite _ (.refl s) (tilesKept_ite _ ⟨rfl, rfl⟩ (tilesKept_ite _ (tilesKept_of_hostPosts (hostPosts_postNow s _ _)) (tilesKept_wr s _ _)))

theorem tilesKept_faultLog (source cls unitKind unit action cause detail : Nat) :
    tilesKept s (s.faultLog source cls unitKind unit action cause detail) := by
  unfold State.faultLog
  extract_lets r idx full keep logged indexed counted scored
  have hindexed : tilesKept s indexed := .trans ⟨rfl, rfl⟩ (tilesKept_wr logged _ _)
  have hcounted : tilesKept s counted := hindexed.trans (tilesKept_ite _ (tilesKept_wr indexed _ _) (tilesKept_wr indexed _ _))
  have hscored : tilesKept s scored :=
    hcounted.trans (tilesKept_ite _ (tilesKept_bump counted _ _ _) (tilesKept_ite _ (tilesKept_bump counted _ _ _) (.refl counted)))
  exact hscored.trans (tilesKept_notice scored _ _ _)

/-! ## Capacities -/

theorem tilesKept_shortfall (cls dir inst count cap : Nat) : tilesKept s (s.shortfall cls dir inst count cap) :=
  tilesKept_ite _ (.refl s) (((tilesKept_bump s _ _ _).trans (tilesKept_record _ _ _ _)).trans (tilesKept_notice _ _ _ _))

theorem tilesKept_leashScaled (cls : Nat) : tilesKept s (s.leashScaled cls) :=
  foldl_keep _ (tilesKept s) _ s (.refl s) fun u _ hu => hu.trans (tilesKept_wr u _ _)

theorem tilesKept_setCaps (cls : Nat) (insts : List (Nat × Nat)) (cap : Nat) : tilesKept s (s.setCaps cls insts cap) := by
  unfold State.setCaps
  have hnow : ∀ u dir inst count, tilesKept s u → tilesKept s ((u.leashScaled cls).shortfall cls dir inst count cap) := fun u _ _ _ hu =>
    (hu.trans (tilesKept_leashScaled u cls)).trans (tilesKept_shortfall _ _ _ _ _ _)
  dsimp only
  split
  · exact .refl s
  · exact hnow _ _ _ _ ⟨rfl, rfl⟩

theorem tilesKept_setCap (cls dir inst cap : Nat) : tilesKept s (s.setCap cls dir inst cap) := tilesKept_setCaps s cls _ cap

theorem tilesKept_removeSlice (n : Nat) : tilesKept s (s.removeSlice n) :=
  tilesKept_ite _ (.refl s) ((((tilesKept_wr s _ _).trans (tilesKept_flushSlice _ n)).trans (tilesKept_setCap _ _ _ _ _)).trans
    (tilesKept_faultLog _ _ _ _ _ _ _ _))

/-! ## Jobs that end -/

theorem tilesKept_dropPass (status result : Nat) : tilesKept s (s.dropPass status result) := by
  unfold State.dropPass
  split
  · exact tilesKept_finish s _ _ _
  · rename_i p _
    extract_lets u launched ended
    have hl : tilesKept s launched := .trans ⟨rfl, rfl⟩ (tilesKept_ite _ (.refl u) (tilesKept_complete u _ _ _))
    have he : tilesKept s ended := by
      unfold ended
      split
      · exact hl.trans (tilesKept_complete launched _ _ _)
      · exact hl
    exact he.trans (tilesKept_finish ended _ _ _)

theorem tilesKept_jobLost (cause : Nat) : tilesKept s (s.jobLost cause) := by
  have hfatal : tilesKept s (s.fatalJob cause) :=
    ((tilesKept_ite _ (tilesKept_wrs s _) (.refl s)).trans (tilesKept_dropPass _ _ _)).trans (tilesKept_wr _ _ _)
  exact tilesKept_ite _ (.refl s) (tilesKept_ite _ ⟨rfl, rfl⟩ hfatal)

/-! ## Bonds -/

theorem tilesKept_becomeGuest (d n : Nat) : tilesKept s (s.becomeGuest d n) := by
  unfold State.becomeGuest
  split
  · exact tilesKept_wrs s _
  · exact ((tilesKept_wr s _ _).trans (tilesKept_faultLog _ _ _ _ _ _ _ _)).trans (tilesKept_jobLost _ _)

theorem tilesKept_retirePort (d n : Nat) : tilesKept s (s.retirePort d n) := by
  unfold State.retirePort
  extract_lets guest retired capped placed
  have hp : tilesKept s placed := ((tilesKept_wrs s _).trans (tilesKept_setCaps retired _ _ _)).trans (tilesKept_becomeGuest capped _ _)
  cases guest with
  | none => exact hp
  | some g => exact hp.trans (tilesKept_becomeGuest placed _ _)

theorem tilesKept_bondEvent (d : Nat) (b : BondRef) (action source epoch : Nat) : tilesKept s (s.bondEvent d b action source epoch) :=
  tilesKept_record s _ _ _

theorem tilesKept_exhaustAct (d : Nat) (b : BondRef) : tilesKept s (s.exhaustAct d b) := by
  unfold State.exhaustAct
  extract_lets found log narrow u logged
  have hlog : ∀ v a, tilesKept v (log v a) := fun v a => by
    unfold log
    cases found <;> exact tilesKept_bondEvent v _ _ _ _ _
  clear_value log
  have hport : ∀ v, tilesKept v ((log (v.retirePort d b.unit) 4).faultLog 15 1 2 (160 * d + b.unit) 5 0 (R.deckBondLog d)) := fun v =>
    ((tilesKept_retirePort v _ _).trans (hlog _ _)).trans (tilesKept_faultLog _ _ _ _ _ _ _ _)
  have hnarrow : ∀ v f dir half, tilesKept v (narrow v f dir half) := fun v f dir half =>
    tilesKept_ite _ ((((tilesKept_wr v _ _).trans (tilesKept_setCap _ _ _ _ _)).trans (hlog _ _)).trans (tilesKept_faultLog _ _ _ _ _ _ _ _))
      (tilesKept_ite _ (.refl v) (hport v))
  clear_value narrow
  have hu : tilesKept s u := tilesKept_wr s _ _
  clear_value u
  have hlogged : tilesKept s logged := hlog s 5
  clear_value logged
  split
  · refine hu.trans (tilesKept_ite _ (.refl u) ?_)
    exact tilesKept_ite _ (hnarrow u _ _ _) (tilesKept_ite _ (hnarrow u _ _ _) (hport u))
  · split
    · exact ((tilesKept_modDeck s _).trans (hlog _ _)).trans (tilesKept_faultLog _ _ _ _ _ _ _ _)
    · exact hlogged.trans (tilesKept_ite _ ⟨rfl, rfl⟩ (tilesKept_removeSlice logged _))

theorem tilesKept_repairBonds : tilesKept s s.repairBonds := by
  unfold State.repairBonds
  extract_lets repaired marked ex cleared
  have hrepaired : tilesKept s repaired := by
    refine tilesKept_foldl (fun u f => tilesKept_ite _ (.refl u) ?_) _ s
    extract_lets v
    have hv : tilesKept u v := (tilesKept_bump u _ _ _).trans (tilesKept_bondEvent _ _ _ _ _ _)
    clear_value v
    exact hv.trans (tilesKept_ite _ ⟨rfl, rfl⟩ (.refl v))
  have hcleared : tilesKept s cleared := hrepaired.trans ((tilesKept_modDeck repaired _).trans (tilesKept_modDeck marked _))
  exact hcleared.trans (tilesKept_foldl (fun (u : State) (e : Nat × BondRef) => tilesKept_exhaustAct u e.1 e.2) _ cleared)

theorem tilesKept_suspectBond (d : Nat) (b : BondRef) (source : Nat) : tilesKept s (s.suspectBond d b source) := by
  unfold State.suspectBond
  extract_lets same used logged pending known spent
  have hlogged : tilesKept s logged := ((tilesKept_bump s _ _ _).trans (tilesKept_bondEvent _ _ _ _ _ _)).trans (tilesKept_faultLog _ _ _ _ _ _ _ _)
  have hpending : tilesKept s pending := hlogged.trans (tilesKept_ite _ (tilesKept_wr logged _ _) (.refl logged))
  have hknown : tilesKept s known := hpending.trans (tilesKept_modDeck pending _)
  have hspent : tilesKept s spent := hknown.trans
    (tilesKept_ite _ (((tilesKept_bump known _ _ _).trans (tilesKept_bondEvent _ _ _ _ _ _)).trans (tilesKept_modDeck _ _)) (.refl known))
  clear_value spent
  exact tilesKept_ite _ (.refl s) (hspent.trans (tilesKept_ite _ (.refl spent) (tilesKept_repairBonds spent)))

theorem tilesKept_bondHit (d : Nat) (b : BondRef) (n : Nat) : tilesKept s (s.bondHit d b n) := by
  unfold State.bondHit
  extract_lets hits counted
  have hcounted : tilesKept s counted := tilesKept_modDeck s _
  clear_value counted
  exact tilesKept_ite _ (.refl s) (hcounted.trans (tilesKept_ite _ (tilesKept_suspectBond counted _ _ _) (.refl counted)))

/-! ## Paths to and from a tile -/

theorem tilesKept_deckErr (t path what : Nat) (h : Hop) : tilesKept s (s.deckErr t path what h) :=
  (tilesKept_record s _ _ _).trans (tilesKept_ite _ (tilesKept_bump _ _ _ _) (.refl _))

theorem tilesKept_deckCe (t path n : Nat) : tilesKept s (s.deckCe t path n) :=
  tilesKept_ite _ (.refl s) (.trans (tilesKept_bump s _ _ _) (tilesKept_ite _ (.refl _) ⟨rfl, rfl⟩))

theorem tilesKept_meshWords (t ce : Nat) (ue words : List Nat) (rt : List Hop) : tilesKept s (s.meshWords t ce ue words rt) :=
  ((tilesKept_bump s _ _ _).trans (tilesKept_deckCe _ _ _ _)).trans (tilesKept_foldl (fun u _ => tilesKept_deckErr u _ _ _ _) _ _)

theorem tilesKept_shaftWords (t path ce : Nat) (ue words : List Nat) : tilesKept s (s.shaftWords t path ce ue words) :=
  ((tilesKept_ite _ (tilesKept_bump s _ _ _) (.refl s)).trans (tilesKept_deckCe _ _ _ _)).trans (tilesKept_foldl (fun u _ => tilesKept_deckErr u _ _ _ _) _ _)

/-- Words that pass a shaft, or are lost on it, touch no tile and no packet. -/
theorem tilesKept_shaft_pathWords (t : Nat) {path : Nat} (hpath : path ≠ 0) (rt : List Hop) (tr : Transit) (words : List Nat) :
    tilesKept s (s.pathWords t path rt tr words).1 := by
  unfold State.pathWords
  extract_lets u port leg carried ue
  have hu : tilesKept s u := by
    unfold u
    split
    · split
      · exact tilesKept_bondHit s _ _ _
      · exact .refl s
    · exact .refl s
  rw [if_neg hpath]
  split
  · exact hu.trans (tilesKept_deckErr u _ _ _ _)
  · split
    · exact hu.trans (tilesKept_deckErr u _ _ _ _)
    · exact (hu.trans (tilesKept_ite _ (.refl u) (tilesKept_meshWords u _ _ _ _ _))).trans (tilesKept_shaftWords carried _ _ _ _ _)

end Sys2Proof.Machine
end
section
/-! A packet at a tile window (R165 to R167, R399). -/

namespace Sys2Proof.Machine

variable (s : State)

/-! ## The way to the tile -/

theorem tilesKept_toTile (l : Nat) (p : Packet) : tilesKept s (s.toTile l p) := tilesKept_crossRing s _ _ _ _ _

theorem tilesKept_shaftFlits (t path n tag collar words : Nat) : tilesKept s (s.shaftFlits t path n tag collar words) :=
  tilesKept_ite _ (.refl s) ⟨rfl, rfl⟩

/-- A packet's words are lost on a shaft exactly where their header is. -/
theorem State.shaft_pathWords_eq_none (t : Nat) {path : Nat} (hpath : path ≠ 0) (rt : List Hop) (tr : Transit) (words : List Nat) :
    (s.pathWords t path rt tr words).2 = none ↔ tr.lost = true := by
  unfold State.pathWords
  extract_lets u port leg carried ue
  rw [if_neg hpath]
  split
  · next h => simp [h.1]
  · split
    · next h => simp [h]
    · next h => simp [h]

/-- What a packet meets on a shaft changes nothing of it but which of its words are poisoned (R399). -/
theorem State.pktPath_shaft (t : Nat) {path : Nat} (hpath : path ≠ 0) (bark : Nat) (tr : Transit) (p : Packet) :
    tilesKept s (s.pktPath t path bark tr p).1 ∧ ((s.pktPath t path bark tr p).2 = none ↔ tr.lost = true) ∧
      ∀ q ∈ (s.pktPath t path bark tr p).2, ∃ bad, q = { p with poison := bad } := by
  unfold State.pktPath
  set u := (s.takeShaft t path p.collar (effLevel p.collar 0 bark) p.data.length).shaftFlits t path p.reqEngine p.reqTag p.collar (p.data.length / 8)
  have hkeep : tilesKept s u := (tilesKept_ite _ (.refl s) (tilesKept_grant s _ _ _ _ _)).trans (tilesKept_shaftFlits _ _ _ _ _ _ _)
  have hwords := hkeep.trans (tilesKept_shaft_pathWords u t hpath [] tr (List.range (p.data.length / 8)))
  have hlost := u.shaft_pathWords_eq_none t hpath [] tr (List.range (p.data.length / 8))
  clear_value u
  generalize u.pathWords t path [] tr (List.range (p.data.length / 8)) = r at hwords hlost
  obtain ⟨v, ue⟩ := r
  cases ue with
  | none => exact ⟨hwords, by simpa using hlost, by simp⟩
  | some ue => exact ⟨hwords, by simpa using hlost, by simp⟩

/-! ## The window's check and the write -/

/-- The check of a tile window passes exactly where the window is open for the packet and holds all its bytes (R166). -/
theorem State.tileWinCheck_eq_ok (p : Packet) : s.tileWinCheck p = rOK ↔
    s.tilePresent p.tile = true ∧ s.rd (F.tileWinState p.tile (p.winIdx % 4)) = 1 ∧ s.rd (F.tileWinGen p.tile (p.winIdx % 4)) = p.gen ∧
      s.rd (F.tileWinSrcLo p.tile (p.winIdx % 4)) ≤ p.src ∧ p.src ≤ s.rd (F.tileWinSrcHi p.tile (p.winIdx % 4)) ∧ p.doorbell = false ∧
      s.on (if p.typ = pSIGNAL then F.tileWinOpSig p.tile (p.winIdx % 4) else F.tileWinOpDep p.tile (p.winIdx % 4)) = true ∧
      p.offset % 8 = 0 ∧ p.data.length % 8 = 0 ∧ p.offset + p.data.length ≤ 256 * (s.rd (F.tileWinLenM1 p.tile (p.winIdx % 4)) + 1) := by
  have hbus : rBUS_ERROR ≠ rOK := by decide
  have hclosed : rWINDOW_CLOSED ≠ rOK := by decide
  have hdenied : rWINDOW_DENIED ≠ rOK := by decide
  have hbounds : rWINDOW_BOUNDS ≠ rOK := by decide
  simp only [State.tileWinCheck, ite_eq_iff, hbus, hclosed, hdenied, hbounds, and_false, false_or, and_true, not_or, not_not, not_lt, Bool.not_eq_true,
    Bool.not_eq_false', and_assoc]

/-- The bytes of a packet that a window takes stand in the tile's scratchpad; every other byte stays (R166, R167). -/
def State.landTile (p : Packet) (errs : List SpdErr) : State :=
  let u := s.bump (if s.tileWinCheck p = rOK then Ev.winAccept else Ev.winRefuse) (.tile p.tile) 1
  if s.tileWinCheck p = rOK then u.spdWrite p.tile (256 * u.rd (F.tileWinBase p.tile (p.winIdx % 4)) + p.offset) (pktData p) 4 0 errs else u

theorem ownOnly_landTile (p : Packet) (errs : List SpdErr) : ownOnly p.tile s (s.landTile p errs) := by
  unfold State.landTile
  extract_lets u
  have hu : ownOnly p.tile s u := confined_bump s _ _ _
  split
  · exact hu.trans (ownOnly_spdWrite u _ _ _ _ _ _)
  · exact hu

theorem pktData_length (p : Packet) : (pktData p).length = p.data.length := by simp [pktData]

theorem pktData_byte (p : Packet) (i : Nat) : ((pktData p).getD i ⟨0, false⟩).b = p.data.getD i 0 := by
  rcases lt_or_ge i p.data.length with h | h
  · simp [pktData, List.getD_eq_getElem?_getD, h]
  · simp [pktData, List.getD_eq_getElem?_getD, h]

theorem State.spdByte_landTile (p : Packet) (errs : List SpdErr) (j a : Nat) : (s.landTile p errs).spdByte j a =
    if s.tileWinCheck p = rOK ∧ j = p.tile ∧ 256 * s.rd (F.tileWinBase p.tile (p.winIdx % 4)) + p.offset ≤ a ∧
        a < 256 * s.rd (F.tileWinBase p.tile (p.winIdx % 4)) + p.offset + p.data.length
      then p.data.getD (a - (256 * s.rd (F.tileWinBase p.tile (p.winIdx % 4)) + p.offset)) 0 else s.spdByte j a := by
  unfold State.landTile
  by_cases h : s.tileWinCheck p = rOK
  · simp only [h, if_true, true_and, State.spdByte_eq, State.byteAt_spdWrite, pktData_length, pktData_byte]
    rfl
  · simp only [h, if_false, false_and, State.spdByte_eq]
    rfl

theorem State.moduleId_landTile (p : Packet) (errs : List SpdErr) : (s.landTile p errs).moduleId = s.moduleId := by
  obtain ⟨-, -, hreg⟩ := ownOnly_landTile s p errs
  exact congrArg (fun v : W64 => bf v.toNat 0 14) (hreg (R.portSelf 0) (by simp only [pageReg, R.portSelf, R.tileCtrl]; omega))

theorem State.fab_landTile (p : Packet) (errs : List SpdErr) : (s.landTile p errs).fab = s.fab := by
  obtain ⟨hframe, -⟩ := ownOnly_landTile s p errs
  rw [hframe]

/-! ## The packet's turn -/

/-- The way of a packet from its link's floor to its tile; a packet for a tile that is not there stays where it is (R163, R166). -/
def State.wayToTile (l : Nat) (tr : Transit) (p : Packet) : State × Option Packet :=
  if s.tilePresent p.tile then (s.toTile l p).pktPath p.tile 2 (s.linkBark l) tr p else (s, some p)

theorem State.wayToTile_facts (l : Nat) (tr : Transit) (p : Packet) : tilesKept s (s.wayToTile l tr p).1 ∧
    ((s.wayToTile l tr p).2 = none ↔ s.tilePresent p.tile = true ∧ tr.lost = true) ∧
      ∀ q ∈ (s.wayToTile l tr p).2, ∃ bad, q = { p with poison := bad } := by
  unfold State.wayToTile
  by_cases hpresent : s.tilePresent p.tile = true
  · obtain ⟨hkeep, hlost, hsame⟩ := (s.toTile l p).pktPath_shaft p.tile (path := 2) (by decide) (s.linkBark l) tr p
    simp only [hpresent, if_true, true_and]
    exact ⟨(tilesKept_toTile s l p).trans hkeep, hlost, hsame⟩
  · simp only [hpresent, if_false, false_and, reduceCtorEq, Option.mem_some_iff, Bool.false_eq_true]
    exact ⟨.refl s, trivial, fun q hq => ⟨p.poison, hq.symm⟩⟩

/-- A packet in its turn leaves those that wait; it is lost on its way, or the window answers it (R166, R399). -/
theorem exec_tileWindowPacket {s : State} {ix l : Nat} {p : Packet} (tr : Transit) (errs : List SpdErr) (hp : s.fab.tilePkts[ix]? = some (l, p))
    (hn : s.tilePktNext ix p = true) (hm : s.mapHeld = false) (hb : s.tilePresent p.tile = true → s.bayGated (bayOf p.tile) = false) {u : State}
    {q : Option Packet} (hway : (s.modFab fun f => { f with tilePkts := f.tilePkts.eraseIdx ix }).wayToTile l tr p = (u, q)) :
    exec (.tileWindowPacket ix tr errs) s =
      .next (q.elim u fun p => (u.landTile p errs).sendPkt (respTo p (u.landTile p errs).moduleId (u.tileWinCheck p) false)) := by
  show execTileWindowPacket ix tr errs s = _
  unfold State.wayToTile at hway
  unfold execTileWindowPacket
  simp only [hp, hn, hm]
  rw [if_neg (by simp), if_neg (by simpa using hb), hway]
  cases q <;> rfl

end Sys2Proof.Machine
end

section
open Sys2Proof Sys2Proof.Machine

/-- Settles O26: a packet's way to its tile touches neither a tile nor the other packets, and its window's check decides whether its bytes land; a window
that closes keeps its generation; a delayed window opens with the fields of its command, at the next generation. -/
theorem windows : Obligations.Windows := by
  unfold Obligations.Windows
  intro s ix t n w l tr errs p
  refine ⟨fun hp hn hm hb => ?_, fun ht hn hs => ?_, fun hw hs hq => ?_, fun e hw hd he hs hr ha => winReopenDelayEnd_outcome hw hd he hs hr ha⟩
  · intro out path k u ad st
    have hway : out.wayToTile l tr p = path := rfl
    obtain ⟨⟨htiles, hfab⟩, hlost, hsame⟩ := out.wayToTile_facts l tr p
    have hexec := exec_tileWindowPacket tr errs hp hn hm hb (u := path.1) (q := path.2) hway
    rw [hway] at htiles hfab hlost hsame
    have hpkts : u.fab.tilePkts = s.fab.tilePkts.eraseIdx ix := congrArg (·.tilePkts) hfab
    refine ⟨u.tileWinCheck_eq_ok p, hlost, fun hnone => ⟨?_, hpkts, htiles⟩, fun hsome => ?_⟩
    · rw [hexec, hnone, Option.elim_none]
    · obtain ⟨q, hq⟩ := Option.ne_none_iff_exists'.1 hsome
      obtain ⟨bad, rfl⟩ := hsame q hq
      refine ⟨u.landTile { p with poison := bad } errs, ?_, ?_, fun j a => ?_⟩
      · rw [hexec, hq]
        rw [Option.elim_some, State.moduleId_landTile]
        rfl
      · rw [State.fab_landTile, hpkts]
      · refine (u.spdByte_landTile _ errs j a).trans ?_
        have hbyte : u.spdByte j a = s.spdByte j a := by
          simp only [State.spdByte_eq, State.tile]
          rw [htiles]
        rw [hbyte]
        rfl
  · rw [exec_tileWinCloseDone ht hn hs]
    exact leads_next (s.shutTileWin_facts t n)
  · obtain ⟨hstate, hgen, hwaits, hraised, hretiring, hboot⟩ := s.shutMwin_facts hw
    exact ⟨_, exec_mwinClosed hs hq, hstate, hgen, hwaits, hraised, fun hr hl => State.retireStep_of_idle (hretiring.trans hr) (by rwa [hboot])⟩

end

section
/-! A fetch engine's descriptor in its turn: what it captures leaves the requests in flight alone, and its own are added after them (R185, R197,
R199). -/

namespace Sys2Proof.Machine

/-! ## Requests that an engine makes -/

/-- A request asks for what another does, for the same descriptor. -/
def Req.asksAs (q r : Req) : Prop :=
  q.kind = r.kind ∧ q.addr = r.addr ∧ q.segs = r.segs ∧ q.src = r.src ∧ q.chain = r.chain ∧ q.desc = r.desc

theorem Req.asksAs.trans {q r p : Req} (h : q.asksAs r) (h' : r.asksAs p) : q.asksAs p := by
  obtain ⟨hkind, haddr, hsegs, hsrc, hchain, hdesc⟩ := h
  obtain ⟨hkind', haddr', hsegs', hsrc', hchain', hdesc'⟩ := h'
  exact ⟨hkind.trans hkind', haddr.trans haddr', hsegs.trans hsegs', hsrc.trans hsrc', hchain.trans hchain', hdesc.trans hdesc'⟩

theorem State.toMemory_asksAs (s : State) (r : Req) (write : Bool) : (s.toMemory r write).asksAs r := by
  unfold State.toMemory
  split <;> exact ⟨rfl, rfl, rfl, rfl, rfl, rfl⟩

theorem State.departing_asksAs (s : State) (r : Req) (k : Nat) : (s.departing r k).asksAs r := by
  unfold State.departing
  extract_lets sent
  have hsent : sent.asksAs r := ⟨rfl, rfl, rfl, rfl, rfl, rfl⟩
  split
  case h_1 | h_2 => exact (s.toMemory_asksAs sent true).trans hsent
  case h_3 | h_4 | h_5 => exact (s.toMemory_asksAs sent false).trans hsent
  case h_6 => exact hsent

/-- A request that an engine makes is added after the others with the next number, whether it leaves or waits (R197, R230). -/
theorem State.issueReq_adds (s : State) (t n : Nat) (r : Req) :
    ∃ q : Req, s.issueReq t n r = { s with reqs := s.reqs ++ [q], nextReq := s.nextReq + 1 } ∧ q.id = s.nextReq ∧ q.asksAs r := by
  unfold State.issueReq
  extract_lets waits
  split
  · next k _ => exact ⟨_, rfl, rfl, s.departing_asksAs r k⟩
  · exact ⟨_, rfl, rfl, rfl, rfl, rfl, rfl, rfl, rfl⟩

/-- Requests that an engine makes stand after the others in the order made, with consecutive numbers. -/
theorem State.issueReqs_adds (t n : Nat) (rs : List Req) (s : State) :
    ∃ qs : List Req, (s.issueReqs t n rs).reqs = s.reqs ++ qs ∧ (s.issueReqs t n rs).nextReq = s.nextReq + rs.length ∧ qs.length = rs.length ∧
      ∀ k r, rs[k]? = some r → ∃ q, qs[k]? = some q ∧ q.id = s.nextReq + k ∧ q.asksAs r := by
  induction rs generalizing s with
  | nil => exact ⟨[], by simp [State.issueReqs], rfl, rfl, by simp⟩
  | cons r rs ih =>
    obtain ⟨q, hq, hid, hasks⟩ := s.issueReq_adds t n r
    obtain ⟨qs, hreqs, hnext, hlen, hall⟩ := ih (s.issueReq t n r)
    rw [show (s.issueReq t n r).issueReqs t n rs = s.issueReqs t n (r :: rs) from rfl, hq] at hreqs hnext
    rw [hq] at hall
    refine ⟨q :: qs, by simpa using hreqs, ?_, by simp [hlen], fun k p hp => ?_⟩
    · rw [hnext, List.length_cons]
      exact Nat.add_right_comm _ _ _
    · cases k with
      | zero =>
        obtain rfl : r = p := by simpa using hp
        exact ⟨q, rfl, hid, hasks⟩
      | succ k =>
        obtain ⟨q', hq', hid', hasks'⟩ := hall k p (by simpa using hp)
        exact ⟨q', hq', by rw [hid']; exact Nat.add_right_comm _ _ _, hasks'⟩

/-- A descriptor's blocks are asked for where what it did before, such as capturing its source, touched its tile only (R197). -/
theorem requested_issueReqs {u w : State} {t n tgt idx : Nat} {c : Chain} {d : List W64} (h : ownOnly t u w)
    {blocks : List (Nat × List Seg)} {kindOf : Nat × List Seg → ReqKind} (data : List Seg → List PB) {kind : Nat → ReqKind}
    (hkind : ∀ k b, blocks[k]? = some b → kindOf b = kind k) :
    requested u (w.issueReqs t n (blocks.map fun b => w.mkReq t n c d idx (kindOf b) tgt b.1 b.2 (data b.2))) t n c.serial idx blocks kind := by
  obtain ⟨hframe, -, -⟩ := h
  have hreqs : w.reqs = u.reqs := by rw [hframe]
  have hnext : w.nextReq = u.nextReq := by rw [hframe]
  obtain ⟨qs, hadded, hnumber, hlen, hall⟩ :=
    w.issueReqs_adds t n (blocks.map fun b => w.mkReq t n c d idx (kindOf b) tgt b.1 b.2 (data b.2))
  rw [hreqs] at hadded
  rw [hnext] at hnumber hall
  rw [List.length_map] at hnumber hlen
  refine ⟨hnumber, by rw [hadded, List.length_append, hlen], fun k hk => by rw [hadded, List.getElem?_append_left hk], fun k b hb => ?_⟩
  obtain ⟨q, hq, hid, hqkind, haddr, hsegs, hsrc, hchain, hdesc⟩ := hall k _ (by rw [List.getElem?_map, hb]; rfl)
  exact ⟨q, by rw [hadded, List.getElem?_append_right (Nat.le_add_right _ _), Nat.add_sub_cancel_left, hq], hid,
    hqkind.trans (hkind k b hb), haddr, hsegs, hsrc, hchain, hdesc⟩

/-! ## Capturing a source -/

/-- Reading runs of a scratchpad one after another touches its tile only. -/
theorem ownOnly_readRuns (t k src : Nat) (errs : List SpdErr) (rs : List Int) (s : State) (runs : List (List PB)) :
    ownOnly t s (rs.foldl (fun (acc : State × List (List PB)) a =>
      let (s, bs) := acc.1.spdRead t a.toNat k src errs
      (s, acc.2 ++ [bs])) (s, runs)).1 :=
  foldl_keep _ (fun acc : State × List (List PB) => ownOnly t s acc.1) rs (s, runs) (.refl s) fun acc a hacc =>
    hacc.trans (ownOnly_spdRead acc.1 t a.toNat k src errs)

/-- A source is captured from the own scratchpad, and its poison noted on the chain (R173, R199). -/
theorem ownOnly_capture (s : State) (t n : Nat) (d : List W64) (errs : List SpdErr) : ownOnly t s (s.capture t n d errs).1 := by
  unfold State.capture
  split
  next rs k _ =>
  split
  next read runs hread =>
  have hruns : ownOnly t s read := by simpa only [hread] using ownOnly_readRuns t k 1 errs rs s []
  split
  next v side hside =>
  have hv : ownOnly t read v := by
    split at hside
    · simpa only [hside] using ownOnly_spdRead read t (dSide d) (sideLen d) 1 errs
    · cases hside; exact .refl read
  dsimp only
  split
  · exact (hruns.trans hv).trans ((confined_bump v _ _ _).trans (confined_modTile _ _))
  · exact hruns.trans hv

theorem ownOnly_nearInvalidate (s : State) (t a k : Nat) : ownOnly t s (s.nearInvalidate t a k) := confined_modTile s _

/-! ## Descriptors in their turn -/

/-- The op of a descriptor in its turn is one of those that the command takes (R188). -/
theorem State.dOp_mem_of_descTurn {s u : State} {t n tgt : Nat} {ops : List Nat} {errs : List SpdErr} {c : Chain} {d : List W64}
    (h : s.descTurn t n ops errs = some (u, c, d, tgt)) : dOp d ∈ ops := by
  simp only [State.descTurn] at h
  split at h
  · cases h
  · split at h
    · cases h
    · split at h
      · cases h
      · next hop =>
        split at h
        · cases h
        · split at h
          · cases h
            simp only [Bool.or_eq_true, Bool.not_eq_true', not_or, Bool.not_eq_false, List.contains_iff_mem] at hop
            exact hop.1
          · cases h

theorem State.dOp_of_descTurn {s u : State} {t n tgt op : Nat} {errs : List SpdErr} {c : Chain} {d : List W64}
    (h : s.descTurn t n [op] errs = some (u, c, d, tgt)) : dOp d = op := by
  simpa using State.dOp_mem_of_descTurn h

/-- A descriptor in its turn makes its requests and is then looked at for its end (R185, R198). -/
theorem next_beginDesc {s u w : State} {t n tgt : Nat} {ops : List Nat} {errs : List SpdErr} {c : Chain} {d : List W64}
    {act : State → Chain → List W64 → Nat → Nat → State} (h : s.descTurn t n ops errs = some (u, c, d, tgt)) (hact : act u c d c.next tgt = w) :
    (.next (s.beginDesc t n ops errs act) : Host.Outcome State Fault Refusal) = .next (w.finishDesc t n c.next errs) := by
  rw [s.beginDesc_of_descTurn t n ops errs act h, hact]

/-! ## The blocks of a descriptor that stays in the module -/

section
variable (u : State) (t n : Nat) (c : Chain) (d : List W64) (idx : Nat) (errs : List SpdErr)

/-- A LOAD outside the near cache asks for its blocks, with a probe where Scent predicts a block's zeros (R191, R197, R209). -/
theorem requested_beginLoad (hnear : dNear d = false) : requested u (u.beginLoad t n c d idx errs) t n c.serial idx (farBlocks d 256) fun k =>
    if u.scentOn t d && predicted (tget (fun _ => Scent.mk []) (u.tile t).scent (dSlot d)).bits (((farBlocks d 256)[k]?).elim [] (·.2))
      then .probe else .memRead := by
  simp only [State.beginLoad, hnear, Bool.false_eq_true, if_false]
  exact requested_issueReqs (.refl u) (fun _ => []) fun k b hb => by rw [hb]; rfl

/-- A near LOAD looks up each of its lines (R160). -/
theorem State.beginLoad_of_near (hnear : dNear d = true) :
    u.beginLoad t n c d idx errs = (farBlocks d 128).foldl (fun w b => w.nearLookup t n c d idx b errs) u := if_pos hnear

/-- A STORE or FOLD captures its source, drops the near-cache lines that it covers and asks for its blocks (R162, R191, R199). -/
theorem requested_beginStore : requested u (u.beginStore t n c d idx errs) t n c.serial idx (farBlocks d 256) fun _ =>
    if dOp d = 3 then .memFold else .memWrite := by
  have hkept := (ownOnly_capture u t n d errs).trans
    (confined_foldl (fun w a => ownOnly_nearInvalidate w t a.toNat (farLen d)) (farRuns d) (u.capture t n d errs).1)
  exact requested_issueReqs hkept (kindOf := fun _ => if dOp d = 3 then .memFold else .memWrite) (segBytesOf (u.capture t n d errs).2) fun _ _ _ => rfl

/-- A PULL reads its blocks at its target tile (R197, R219). -/
theorem requested_beginMesh_pull (tgt : Nat) (hop : dOp d = 4) :
    requested u (u.beginMesh t n c d idx tgt errs) t n c.serial idx (farBlocks d 256) fun _ => .meshRead := by
  simp only [State.beginMesh, hop, Nat.reduceEqDiff, if_false]
  exact requested_issueReqs (.refl u) (segBytesOf []) fun _ _ _ => rfl

/-- A PUSH captures its source and writes its blocks at its target tile (R199, R219). -/
theorem requested_beginMesh_push (tgt : Nat) (hop : dOp d = 5) :
    requested u (u.beginMesh t n c d idx tgt errs) t n c.serial idx (farBlocks d 256) fun _ => .meshWrite := by
  simp only [State.beginMesh, hop, if_true]
  exact requested_issueReqs (ownOnly_capture u t n d errs) (segBytesOf (u.capture t n d errs).2) fun _ _ _ => rfl

/-- A SETFLAG asks for the block of its 8 bytes (R188). -/
theorem requested_beginSetflag :
    requested u (u.beginSetflag t n c d idx) t n c.serial idx (combine 256 (cutRun 256 3 (dDst d) 0 8)) fun _ => .memWrite :=
  requested_issueReqs (ownOnly_nearInvalidate u t (dDst d) 8) (segBytesOf (pbOf 8 (dSrc d) false)) fun _ _ _ => rfl

end

end Sys2Proof.Machine
end

section
open Sys2Proof Sys2Proof.Machine

/-- Settles O16: each descriptor opens, makes its requests after what it captures, which touches its tile only, and is then looked at for its end. -/
theorem fetchInModule : Obligations.FetchInModule := by
  unfold Obligations.FetchInModule
  intro s u t n errs c d tgt turn asks
  have hasks : ∀ {op : Nat} {act : State → Chain → List W64 → Nat → Nat → State} {blocks : List (Nat × List Seg)} {kind : Nat → ReqKind}, turn op →
      requested u (act u c d c.next tgt) t n c.serial c.next blocks kind → asks (.next (s.beginDesc t n [op] errs act)) blocks kind := fun h hr =>
    ⟨_, next_beginDesc h rfl, hr⟩
  have hkind : ∀ {op : Nat}, turn op → dOp d = op := State.dOp_of_descTurn
  refine ⟨fun h hnear => hasks h (requested_beginLoad u t n c d c.next errs hnear), fun h hnear => next_beginDesc h (u.beginLoad_of_near t n c d c.next errs hnear),
    fun h => hasks h ?_, fun h => hasks h ?_, fun h => hasks h (requested_beginMesh_pull u t n c d c.next errs tgt (hkind h)),
    fun h => hasks h (requested_beginMesh_push u t n c d c.next errs tgt (hkind h)),
    fun h => hasks h (requested_beginSetflag u t n c d c.next), fun h => next_beginDesc h rfl⟩
  · simpa [hkind h] using requested_beginStore u t n c d c.next errs
  · simpa [hkind h] using requested_beginStore u t n c d c.next errs

end

section
/-! A remote descriptor in its turn: the packets of its runs, and where a SIGNAL of a pass is held (R188, R197, R299). -/

namespace Sys2Proof.Machine

section
variable (u : State) (t n : Nat) (c : Chain) (d : List W64) (idx : Nat) (trs : List Transit)

/-- A DEPOSIT or RFOLD captures its source and sends its packets; one of a BF16 Fold covers twice its bytes at the window (R197, R285). -/
theorem State.beginRemote_eq (errs : List SpdErr) (typ : Nat) {x : Nat} (hx : (if typ = pFOLD ∧ dEtype d = 1 then 2 else 1) = x) :
    u.beginRemote t n c d idx typ errs trs = (u.capture t n d errs).1.sendAll t n c d idx
      ((remCuts x (outLen d) 0 ((farRuns d).map fun a => (a % 2 ^ 40).toNat)).map fun p =>
        (u.capture t n d errs).1.remPkt t n d typ p.addr (((u.capture t n d errs).2.drop p.walk).take p.len)) trs := by
  subst hx
  rfl

/-- A destination of the pass's Signals is noted, for the notices at its end (R299). -/
def State.noteDest (u : State) (m : Nat) : State :=
  { u with fab := { u.fab with dests := if m ≠ u.moduleId ∧ !u.fab.dests.contains m then u.fab.dests ++ [m] else u.fab.dests } }

/-- A SIGNAL's packet in a pass, where its record has this place. -/
def State.placeSignal (v : State) (t n : Nat) (c : Chain) (d : List W64) (idx : Nat) (p : Packet) (trs : List Transit) : HoldAt → State
  | .at_ set way => { v with heldSigs := v.heldSigs ++ [⟨{ p with reqKind := 3 }, v.holdAt t, set, way⟩] }
  | .later => v.reopenDesc t n idx
  | .none_ kind => (v.unprotected (v.holdAt t) kind (v.remReq t n c d idx)).1.sendAll t n c d idx [p] trs

/-- A SIGNAL in a pass notes its destination and looks for the place of its record (R202, R299). -/
theorem State.beginSignal_in_pass (hpass : u.pass ≠ none) {v : State} {place : HoldAt}
    (hroom : (u.noteDest (u.remPkt t n d pSIGNAL (dDst d) (pbOf 8 (dSrc d) false)).dst).holdRoom (u.holdAt t) u.epoch (dCollar d) = (v, place)) :
    u.beginSignal t n c d idx trs = v.placeSignal t n c d idx (u.remPkt t n d pSIGNAL (dDst d) (pbOf 8 (dSrc d) false)) trs place := by
  unfold State.beginSignal
  extract_lets p noted
  have hnoted : noted = u.noteDest p.dst := by
    unfold noted State.noteDest
    split <;> rfl
  rw [if_pos (Option.isSome_iff_ne_none.mpr hpass), hnoted]
  rw [show (u.noteDest p.dst).holdRoom ((u.noteDest p.dst).holdAt t) (u.noteDest p.dst).epoch (dCollar d) = (v, place) from hroom]
  cases place <;> rfl

theorem State.beginSignal_outside_pass (hpass : u.pass = none) :
    u.beginSignal t n c d idx trs = u.sendAll t n c d idx [u.remPkt t n d pSIGNAL (dDst d) (pbOf 8 (dSrc d) false)] trs := by
  simp only [State.beginSignal, hpass, Option.isSome_none, Bool.false_eq_true, if_false]

end

end Sys2Proof.Machine
end

section
open Sys2Proof Sys2Proof.Machine

/-- Settles O17: a SIGNAL of a pass by the place that its record finds, the others by the packets of their runs. That it waits while the victim of a
new hold line is written back, and how a BF16 Fold is cut, are the model's choices (log entries 96 and 31). -/
theorem fetchRemote : Obligations.FetchRemote := by
  unfold Obligations.FetchRemote
  intro s u t n errs trs c d tgt turn read packets sig noted room
  refine ⟨fun h => next_beginDesc h (u.beginRemote_eq t n c d c.next trs errs pDEPOSIT rfl),
    fun h => next_beginDesc h (u.beginRemote_eq t n c d c.next trs errs pFOLD (by simp)), fun h hpass => ?_,
    fun h hpass => next_beginDesc h (u.beginSignal_outside_pass t n c d c.next trs hpass),
    fun h => ⟨_, next_beginDesc h rfl, rfl, rfl, rfl, rfl, rfl⟩⟩
  rcases hroom : room with ⟨v, place⟩
  have hplaced := u.beginSignal_in_pass t n c d c.next trs hpass hroom
  cases place with
  | at_ set way => exact ⟨_, _, next_beginDesc h hplaced, rfl, rfl, rfl, rfl, rfl, rfl, rfl⟩
  | later => exact next_beginDesc h hplaced
  | none_ kind => exact next_beginDesc h hplaced

end

section
/-! What the slices, the channels and the reports to the host leave of the deck dies' own state: all of it. -/

namespace Sys2Proof.Machine

theorem State.deck_foldl {β : Type} {f : State → β → State} (h : ∀ u x, (f u x).deck = u.deck) (l : List β) (s : State) :
    (l.foldl f s).deck = s.deck :=
  foldl_keep f (fun u => u.deck = s.deck) l s rfl fun u x hu => (h u x).trans hu

theorem State.deck_ite (c : Prop) [Decidable c] {s v w : State} (hv : v.deck = s.deck) (hw : w.deck = s.deck) :
    (if c then v else w).deck = s.deck := by
  split
  · exact hv
  · exact hw

variable (s : State)

@[simp] theorem State.deck_bump (ev : Nat) (u : EvUnit) (n : Nat) : (s.bump ev u n).deck = s.deck := rfl

@[simp] theorem State.deck_wrs (ws : List (Fld × Nat)) : (s.wrs ws).deck = s.deck := State.deck_foldl (fun u _ => u.deck_wr _ _) ws s

@[simp] theorem State.deck_record (valid multi : Fld) (ws : List (Fld × Nat)) : (s.record valid multi ws).deck = s.deck :=
  State.deck_ite _ rfl (s.deck_wrs ws)

/-! ## The merge buffer and the channels -/

@[simp] theorem State.deck_mergeApply (n : Nat) (m : MergeEnt) : (s.mergeApply n m).deck = s.deck := by
  unfold State.mergeApply
  dsimp only
  split <;> rfl

theorem State.deck_mergeApplies (n : Nat) (ms : List MergeEnt) : (ms.foldl (fun s m => s.mergeApply n m) s).deck = s.deck :=
  State.deck_foldl (fun u m => u.deck_mergeApply n m) ms s

@[simp] theorem State.deck_mergeFlush (n set line sector : Nat) : (s.mergeFlush n set line sector).deck = s.deck := s.deck_mergeApplies n _

@[simp] theorem State.deck_mergeFlushLine (n set line : Nat) : (s.mergeFlushLine n set line).deck = s.deck := s.deck_mergeApplies n _

@[simp] theorem State.deck_mergeAdd (n : Nat) (p : Loc) (word : Nat) (mask : BitVec 8) (bytes : List Byte) (pois : Bool) :
    (s.mergeAdd n p word mask bytes pois).deck = s.deck := by
  unfold State.mergeAdd
  dsimp only
  split
  · exact State.deck_ite _ (s.deck_mergeApply n _) rfl
  · rw [State.deck_modSlice]
    split
    · exact State.deck_ite _ (s.deck_mergeApply n _) rfl
    · rfl

@[simp] theorem State.deck_activate (ch : Nat) : (s.activate ch).deck = s.deck := State.deck_ite _ rfl rfl

@[simp] theorem State.deck_hbmSet (k : Nat) (bs : List Byte) : (s.hbmSet k bs).deck = s.deck := rfl

@[simp] theorem State.deck_putOne (ch line sec : Nat) (words : List W64) (poison : List Nat) : (s.putOne ch line sec words poison).deck = s.deck := by
  have hput : (s.hbmPut ch line sec words poison).deck = s.deck := by
    unfold State.hbmPut
    extract_lets k stored marked
    have hstored : stored.deck = s.deck := s.deck_hbmSet _ _
    clear_value stored
    exact (State.deck_activate _ ch).trans hstored
  exact State.deck_ite _ rfl hput

@[simp] theorem State.deck_grant (a : Arbiter) (u : EvUnit) (collar lv bytes : Nat) : (s.grant a u collar lv bytes).deck = s.deck :=
  State.deck_ite _ rfl (State.deck_ite _ rfl rfl)

@[simp] theorem State.deck_crossRing (a b collar lv bytes : Nat) : (s.crossRing a b collar lv bytes).deck = s.deck :=
  State.deck_foldl (fun u _ => u.deck_grant _ _ _ _ _) _ s

theorem State.deck_putBack (ch line sec : Nat) (words : List W64) (poison : List Nat) {col : Nat} (hc : col < 2) :
    (s.putBack ch line sec words poison col).deck = s.deck := by
  rw [State.putBack, State.atOnce_low _ _ _ _ hc]
  exact State.deck_ite _ rfl (s.deck_putOne _ _ _ _ _)

theorem State.deck_hbmRead (ch line sec src : Nat) : (s.hbmRead ch line sec src .quiet).1.deck = s.deck := by
  simp only [State.hbmRead, HbmIn.quiet, List.filter_nil, List.isEmpty_nil, if_true, List.take_nil, List.foldl_nil]
  exact State.deck_ite _ (State.deck_activate _ ch) (State.deck_activate _ ch)

theorem State.deck_epochSec (ch : Nat) (e : EpochAt) : (s.epochSec ch e).1.deck = s.deck := by
  unfold State.epochSec
  extract_lets u fromHbm
  have hu : u.deck = s.deck := s.deck_mergeFlush _ _ _ _
  have hread : fromHbm.1.deck = s.deck := by
    unfold fromHbm
    split
    · exact hu
    · exact (u.deck_hbmRead ch e.line e.sector hsNARROW).trans hu
  split
  · dsimp only
    split
    · exact hu
    · exact hread
  · exact hread

/-! ## Ways of a set, and write-backs -/

theorem State.deck_evict (n set way : Nat) {col : Nat} (hc : col < 2) : (s.evict n set way col []).1.deck = s.deck := by
  unfold State.evict
  dsimp only
  split
  · rfl
  · have hflush : ((s.mergeFlushLine n set ((s.slice n).line set way).line).wbDecode n set way []).deck = s.deck := s.deck_mergeFlushLine _ _ _
    split
    · split <;> exact hflush
    · split
      · exact hflush
      · exact (State.deck_foldl (fun u k => u.deck_putBack _ _ _ _ _ hc) _ _).trans hflush

theorem State.deck_allocate (n set line kennel : Nat) (pref : Bool) {col : Nat} (hc : col < 2) :
    (s.allocate n set line kennel pref col []).1.deck = s.deck := by
  have h : (s.takeWay n set kennel (pref || decide (s.persOf kennel = 0)) col []).1.deck = s.deck := by
    unfold State.takeWay
    split
    · rfl
    · exact s.deck_evict _ _ _ hc
  unfold State.allocate
  split
  · rename_i u w heq
    rwa [heq] at h
  · exact h

theorem State.deck_putEpoch (ch line v : Nat) : (s.putEpoch ch line v).deck = s.deck := by
  unfold State.putEpoch
  split
  · rfl
  · rename_i e _
    rw [← s.deck_epochSec ch e]
    generalize s.epochSec ch e = r
    obtain ⟨u, old⟩ := r
    dsimp only
    split
    all_goals
      simp only [State.deck_mergeAdd, State.deck_modSlice, State.deck_putOne]
      split
      · rfl
      · split
        · rfl
        · exact u.deck_allocate _ _ _ _ _ (by omega)

@[simp] theorem State.deck_unsplit (n line sec : Nat) : (s.unsplit n line sec).deck = s.deck := State.deck_ite _ rfl rfl

theorem State.deck_writeBack (n line sec : Nat) (words : List W64) (poison : List Nat) (whole : Bool) {col : Nat} (hc : col < 2) :
    (s.writeBack n line sec words poison whole col).deck = s.deck := by
  have hepoch : ∀ (u : State) (ch line : Nat), (if u.chanRetired ch then u else u.putEpoch ch line u.commitEpoch).deck = u.deck := fun u ch line =>
    State.deck_ite _ rfl (u.deck_putEpoch _ _ _)
  unfold State.writeBack
  split
  · exact s.deck_putBack _ _ _ _ _ hc
  · rename_i b _
    extract_lets u copyA epochA copyB epochB
    have hA : epochA.deck = s.deck := (hepoch copyA n line).trans (u.deck_putBack _ _ _ _ _ hc)
    have hB : epochB.deck = s.deck :=
      (hepoch copyB b.1 b.2).trans ((State.deck_putBack _ _ _ _ _ _ hc).trans ((epochA.deck_crossRing _ _ _ _ _).trans hA))
    exact State.deck_ite _ ((epochB.deck_unsplit _ _ _).trans hB) hB

theorem State.deck_cleanLine (n set way : Nat) {col : Nat} (hc : col < 2) : (s.cleanLine n set way col).deck = s.deck :=
  (State.deck_foldl (fun u _ => State.deck_ite _ (u.deck_writeBack _ _ _ _ _ _ hc) rfl) _ _).trans (s.deck_mergeFlushLine _ _ _)

theorem State.deck_flushOnce (n : Nat) : (s.flushOnce n).deck = s.deck :=
  State.deck_foldl (fun u _ => State.deck_ite _ rfl ((State.deck_modSlice _ _ _).trans (u.deck_cleanLine _ _ _ (by omega)))) _ s

@[simp] theorem State.deck_flushSlice (n : Nat) : (s.flushSlice n).deck = s.deck :=
  (State.deck_flushOnce _ n).trans ((State.deck_flushOnce _ n).trans (s.deck_mergeApplies n _))

/-! ## Notices, the log, capacities and jobs that end -/

theorem completed.deck {s w : State} (h : completed s w) : w.deck = s.deck := by rw [h.1]

@[simp] theorem State.deck_complete (e : Entry) (st r : Nat) : (s.complete e st r).deck = s.deck := (completed_complete s e st r).deck

@[simp] theorem State.deck_finish (p : Wait → Bool) (st r : Nat) : (s.finish p st r).deck = s.deck := (completed_finish s p st r).deck

theorem leashesKept.deck {s w : State} (h : leashesKept s w) : w.deck = s.deck := by rw [h.1]

@[simp] theorem State.deck_notice (kind status result : Nat) : (s.notice kind status result).deck = s.deck := (leashesKept_notice s _ _ _).deck

@[simp] theorem State.deck_shortfall (cls dir inst count cap : Nat) : (s.shortfall cls dir inst count cap).deck = s.deck :=
  (leashesKept_shortfall s _ _ _ _ _).deck

@[simp] theorem State.deck_leashScaled (cls : Nat) : (s.leashScaled cls).deck = s.deck := (leashesKept_leashScaled s cls).deck

@[simp] theorem State.deck_setCaps (cls : Nat) (insts : List (Nat × Nat)) (cap : Nat) : (s.setCaps cls insts cap).deck = s.deck := by
  unfold State.setCaps
  dsimp only
  split
  · rfl
  · exact (State.deck_shortfall _ _ _ _ _ _).trans (State.deck_leashScaled _ _)

@[simp] theorem State.deck_dropPass (status result : Nat) : (s.dropPass status result).deck = s.deck := by
  unfold State.dropPass State.finishHeld
  split
  · exact s.deck_finish _ _ _
  · extract_lets u launched ended
    have hlaunched : launched.deck = s.deck := State.deck_ite _ rfl (u.deck_complete _ _ _)
    have hended : ended.deck = s.deck := by
      unfold ended
      split
      · exact (launched.deck_complete _ _ _).trans hlaunched
      · exact hlaunched
    exact (ended.deck_finish _ _ _).trans hended

@[simp] theorem State.deck_jobLost (cause : Nat) : (s.jobLost cause).deck = s.deck := by
  have hfatal : (s.fatalJob cause).deck = s.deck := (State.deck_dropPass _ _ _).trans (State.deck_ite _ (s.deck_wrs _) rfl)
  exact State.deck_ite _ rfl (State.deck_ite _ rfl hfatal)

end Sys2Proof.Machine
end

section
/-! What a bond's record, its note in the fault log and the repair of bonds leave alone, and where a scan's turn goes (R233 to R238, R523). -/

namespace Sys2Proof.Machine

/-! ## Records of bonds and notes in the fault log -/

/-- Reports: outside the deck dies' own state nothing but registers, counters, the host's side and the Keeper differs, and of the registers
only those of the list. -/
def reported (as : List Nat) (s w : State) : Prop :=
  w = { s with regs := w.regs, counters := w.counters, host := w.host, keep := w.keep, deck := w.deck } ∧ ∀ a, a ∉ as → w.reg a = s.reg a

section
variable {as : List Nat} {d : Nat} {s w : State}

theorem reported.trans {bs : List Nat} {z : State} (h : reported as s w) (h' : reported bs w z) : reported (as ++ bs) s z := by
  refine ⟨?_, fun a ha => ?_⟩
  · rw [h'.1, h.1]
  · rw [List.mem_append, not_or] at ha
    exact (h'.2 a ha.2).trans (h.2 a ha.1)

theorem reported.mono {bs : List Nat} (h : reported as s w) (hsub : as ⊆ bs) : reported bs s w := ⟨h.1, fun a ha => h.2 a fun hm => ha (hsub hm)⟩

/-- Two reports over the same registers. -/
theorem reported.and_then {z : State} (h : reported as s w) (h' : reported as w z) : reported as s z := (h.trans h').mono (by simp)

theorem reported.pass (h : reported as s w) : w.pass = s.pass := by rw [h.1]

theorem reported.rd (h : reported as s w) {f : Fld} (hf : f.addr ∉ as) : w.rd f = s.rd f := by rw [State.rd, State.rd, h.2 _ hf]

theorem reported.on (h : reported as s w) {f : Fld} (hf : f.addr ∉ as) : w.on f = s.on f := by rw [State.on, State.on, h.rd hf]

variable (s)

theorem reported_refl : reported as s s := ⟨rfl, fun _ _ => rfl⟩

theorem reported_bump (ev : Nat) (u : EvUnit) (n : Nat) : reported as s (s.bump ev u n) := ⟨rfl, fun _ _ => rfl⟩

theorem reported_modDeck (f : DeckSt → DeckSt) : reported as s (s.modDeck f) := ⟨rfl, fun _ _ => rfl⟩

theorem reported_wr {f : Fld} (v : Nat) (hf : f.addr ∈ as) : reported as s (s.wr f v) :=
  ⟨rfl, fun _ ha => State.reg_wr_ne s f v fun h => ha (h ▸ hf)⟩

theorem reported_wrs {ws : List (Fld × Nat)} (hws : ∀ p ∈ ws, p.1.addr ∈ as) : reported as s (s.wrs ws) := by
  obtain ⟨hw, hregs⟩ := s.wrs_only ws
  refine ⟨by rw [hw], fun a ha => hregs a fun hm => ?_⟩
  obtain ⟨p, hp, rfl⟩ := List.mem_map.mp hm
  exact ha (hws p hp)

theorem reported_record {valid multi : Fld} {ws : List (Fld × Nat)} (hv : valid.addr ∈ as) (hm : multi.addr ∈ as) (hws : ∀ p ∈ ws, p.1.addr ∈ as) :
    reported as s (s.record valid multi ws) := by
  unfold State.record
  split
  · exact reported_wr s _ hm
  · exact (reported_wrs s hws).and_then (reported_wr _ _ hv)

/-- An event of a bond touches the record of bonds alone (R239). -/
theorem reported_bondEvent (b : BondRef) (action source epoch : Nat) : reported [R.deckBondLog d] s (s.bondEvent d b action source epoch) := by
  refine reported_record s List.mem_cons_self List.mem_cons_self ?_
  simp [F.deckBondLogKind, F.deckBondLogUnit, F.deckBondLogGroup, F.deckBondLogBond, F.deckBondLogAction, F.deckBondLogSource, F.deckBondLogEpoch]

theorem reported_of_hostPosts {s w : State} (h : hostPosts s w) : reported as s w := by
  unfold hostPosts at h
  rw [h]
  exact ⟨rfl, fun _ _ => rfl⟩

theorem reported_notice (kind status result : Nat) : reported [R.cmdqEvtLost] s (s.notice kind status result) := by
  unfold State.notice
  split
  · exact reported_refl s
  · split
    · exact reported_of_hostPosts (hostPosts_setQueue s _ _)
    · split
      · exact reported_of_hostPosts (hostPosts_postNow s _ _)
      · exact reported_wr s _ List.mem_cons_self

/-- A fault record touches the log's own register, and that of the notices that find no room (R523). -/
theorem reported_faultLog (source cls unitKind unit action cause detail : Nat) :
    reported [R.keepLogStat, R.cmdqEvtLost] s (s.faultLog source cls unitKind unit action cause detail) := by
  unfold State.faultLog
  extract_lets r idx full keep logged indexed counted scored
  have hindexed : reported [R.keepLogStat] s indexed :=
    .trans (w := logged) (as := []) ⟨rfl, fun _ _ => rfl⟩ (reported_wr logged _ List.mem_cons_self)
  have hcounted : reported [R.keepLogStat] indexed counted := by
    unfold counted
    split <;> exact reported_wr indexed _ List.mem_cons_self
  have hscored : reported [R.keepLogStat] counted scored := by
    unfold scored
    split
    · exact reported_bump counted _ _ _
    · split
      · exact reported_bump counted _ _ _
      · exact reported_refl counted
  exact (((hindexed.trans hcounted).trans hscored).trans (reported_notice scored _ _ _)).mono (by simp)

/-- The record of bonds is in use once an event of a bond has come (R239, R691). -/
theorem State.on_valid_bondEvent (b : BondRef) (action source epoch : Nat) :
    (s.bondEvent d b action source epoch).on (F.deckBondLogValid d) = true := by
  unfold State.bondEvent State.record
  split
  · rename_i hon
    rw [State.on, State.rd_wr_apart s _ _ _ (by simp [F.deckBondLogValid]) (by simp [F.deckBondLogValid, F.deckBondLogMulti])]
    exact hon
  · exact State.on_wr_one _ rfl (by simp [F.deckBondLogValid])

@[simp] theorem State.deck_bondEvent (b : BondRef) (action source epoch : Nat) : (s.bondEvent d b action source epoch).deck = s.deck :=
  s.deck_record _ _ _

@[simp] theorem State.deck_faultLog (source cls unitKind unit action cause detail : Nat) :
    (s.faultLog source cls unitKind unit action cause detail).deck = s.deck := by
  unfold State.faultLog
  dsimp only
  rw [State.deck_notice]
  exact State.deck_ite _ (State.deck_ite _ rfl rfl) (State.deck_ite _ (State.deck_ite _ rfl rfl) (State.deck_ite _ rfl rfl))

end

section
variable (s : State) (d : Nat) (b : BondRef)

/-! ## The action on an exhausted group (R236, R237, R272) -/

/-- Of the deck dies' own state only the retired gateways may differ. -/
def gatesOnly (s w : State) : Prop := w.deck = { s.deck with gatesOut := w.deck.gatesOut }

theorem gatesOnly.of_deck {s w : State} (h : w.deck = s.deck) : gatesOnly s w := by rw [gatesOnly, h]

@[simp] theorem State.deck_removeSlice (n : Nat) : (s.removeSlice n).deck = s.deck :=
  State.deck_ite _ rfl ((State.deck_faultLog _ _ _ _ _ _ _ _).trans ((State.deck_setCaps _ _ _ _).trans (State.deck_flushSlice _ n)))

@[simp] theorem State.deck_becomeGuest (n : Nat) : (s.becomeGuest d n).deck = s.deck := by
  unfold State.becomeGuest
  split
  · exact s.deck_wrs _
  · exact (State.deck_jobLost _ _).trans (State.deck_faultLog _ _ _ _ _ _ _ _)

@[simp] theorem State.deck_retirePort (n : Nat) : (s.retirePort d n).deck = s.deck := by
  unfold State.retirePort
  extract_lets guest retired capped placed
  have hplaced : placed.deck = s.deck := (capped.deck_becomeGuest d n).trans ((retired.deck_setCaps _ _ _).trans (s.deck_wrs _))
  cases guest with
  | none => exact hplaced
  | some g => exact (placed.deck_becomeGuest d g).trans hplaced

theorem gatesOnly_exhaustAct : gatesOnly s (s.exhaustAct d b) := by
  unfold State.exhaustAct
  extract_lets found log narrow pended logged
  have hlog : ∀ v a, (log v a).deck = v.deck := fun v a => by
    unfold log
    cases found <;> exact v.deck_bondEvent _ _ _ _
  clear_value log
  have hnarrow : ∀ v f dir half, (narrow v f dir half).deck = v.deck := fun v f dir half => by
    unfold narrow
    split
    · simp [hlog, State.setCap]
    · split <;> simp [hlog]
  clear_value narrow
  have hpended : pended.deck = s.deck := rfl
  clear_value pended
  have hlogged : logged.deck = s.deck := hlog s 5
  clear_value logged
  split
  · refine .of_deck ((State.deck_ite _ rfl (State.deck_ite _ (hnarrow _ _ _ _) (State.deck_ite _ (hnarrow _ _ _ _) ?_))).trans hpended)
    simp [hlog]
  · split
    · simp [gatesOnly, hlog]
    · exact .of_deck (State.deck_ite _ hlogged ((logged.deck_removeSlice _).trans hlogged))

/-! ## Repair (R235, R236) -/

/-- A failing bond after its repair: one that waited is on its group's spare. -/
def BondFault.repaired (f : BondFault) : BondFault := if f.st = 0 then { f with st := 1 } else f

theorem BondFault.st_repaired_ne_zero (f : BondFault) : f.repaired.st ≠ 0 := by
  unfold BondFault.repaired
  split
  · exact Nat.one_ne_zero
  · assumption

/-- A repair leaves no bond and no group that waits, and of the rest only the retired gateways may differ. -/
theorem State.deck_repairBonds :
    s.repairBonds.deck = { s.deck with bonds := s.deck.bonds.map BondFault.repaired, exhausted := [], gatesOut := s.repairBonds.deck.gatesOut } := by
  unfold State.repairBonds
  extract_lets spared marked ex cleared
  have hspared : spared.deck = s.deck := State.deck_foldl (fun u f => State.deck_ite _ rfl (by
    extract_lets v
    have hv : v.deck = u.deck := State.deck_bondEvent _ _ _ _ _
    exact State.deck_ite _ hv hv)) _ s
  have hcleared : cleared.deck = { s.deck with bonds := s.deck.bonds.map BondFault.repaired, exhausted := [] } := by
    simp only [cleared, marked, State.deck_of_modDeck, hspared]
    rfl
  have hacts : gatesOnly cleared (ex.foldl (fun s e => s.exhaustAct e.1 e.2) cleared) :=
    foldl_keep _ (gatesOnly cleared) ex cleared (.of_deck rfl) fun u e hu => by
      rw [gatesOnly, gatesOnly_exhaustAct u e.1 e.2, hu]
  rw [hacts, hcleared]

/-! ## Groups that are exhausted, and bonds found failing (R234, R236) -/

/-- A bond's group is exhausted: recorded, and its action waits. -/
def State.exhaustGroup (source : Nat) : State :=
  ((s.bump Ev.bondExhaust .module 1).bondLog d b 2 source).modDeck fun x =>
    { x with exhausted := if x.exhausted.any (fun e => decide (e.1 = d) && sameGroup e.2 b) then x.exhausted else x.exhausted ++ [(d, b)] }

theorem sameGroup_self : sameGroup b b = true := by simp [sameGroup]

theorem State.exhaustGroup_waits (source : Nat) : ∃ x ∈ (s.exhaustGroup d b source).deck.exhausted, x.1 = d ∧ sameGroup x.2 b = true := by
  simp only [State.exhaustGroup, State.deck_of_modDeck]
  split
  · rename_i h
    simpa using h
  · exact ⟨(d, b), List.mem_append_right _ List.mem_cons_self, rfl, sameGroup_self b⟩

theorem State.deck_exhaustGroup (source : Nat) :
    (s.exhaustGroup d b source).deck = { s.deck with exhausted := (s.exhaustGroup d b source).deck.exhausted } := by
  simp [State.exhaustGroup, State.bondLog]

theorem reported_exhaustGroup (source : Nat) : reported [R.deckBondLog d] s (s.exhaustGroup d b source) :=
  ((reported_bump (as := []) s _ _ _).trans (reported_bondEvent _ b 2 source _)).trans (reported_modDeck (as := []) _ _)

theorem State.on_valid_exhaustGroup (source : Nat) : (s.exhaustGroup d b source).on (F.deckBondLogValid d) = true :=
  State.on_valid_bondEvent (s.bump Ev.bondExhaust .module 1) b 2 source _

/-- A failing bond is recorded, noted in the fault log and pending, and has yet to join the bonds found failing. -/
def State.noteSuspect (source : Nat) : State :=
  let s := ((s.bump Ev.bondSuspect .module 1).bondLog d b 0 source).faultLog 14 1 2 (160 * d + b.unit) 3 0 (R.deckBondLog d)
  if bondShaft b then s.wr (F.deckShaftStatRepairPending d b.unit) 1 else s

/-- A bond of the group is known to fail. -/
def State.spareUsed : Bool := s.deck.bonds.any fun f => decide (f.die = d) && sameGroup f.bond b

/-- This bond is known to fail. -/
def State.bondKnown : Bool := s.deck.bonds.any fun f => decide (f.die = d) && sameGroup f.bond b && decide (f.bond.bond = b.bond)

/-- A bond is found failing, before what waits is applied. -/
def State.addSuspect (source : Nat) : State :=
  let v := (s.noteSuspect d b source).modDeck fun x =>
    { x with bonds := x.bonds ++ [⟨d, b, if s.spareUsed d b then 2 else 0, source, (s.noteSuspect d b source).epoch⟩] }
  if s.spareUsed d b then v.exhaustGroup d b source else v

variable {s d b}

theorem State.suspectBond_known (h : s.bondKnown d b = true) (source : Nat) : s.suspectBond d b source = s := if_pos h

variable (s d b)

theorem State.deck_noteSuspect (source : Nat) : (s.noteSuspect d b source).deck = s.deck := by
  have hlogged : (((s.bump Ev.bondSuspect .module 1).bondLog d b 0 source).faultLog 14 1 2 (160 * d + b.unit) 3 0 (R.deckBondLog d)).deck = s.deck :=
    (State.deck_faultLog _ _ _ _ _ _ _ _).trans (State.deck_bondEvent _ _ _ _ _)
  exact State.deck_ite _ hlogged hlogged

theorem reported_logSuspect (source : Nat) : reported [R.deckBondLog d] s ((s.bump Ev.bondSuspect .module 1).bondLog d b 0 source) :=
  (reported_bump (as := []) s _ _ _).trans (reported_bondEvent _ b 0 source _)

/-- What follows the record of a suspect bond touches the fault log, the lost notices and the shaft's state. -/
theorem reported_noteSuspect (source : Nat) : reported [R.keepLogStat, R.cmdqEvtLost, R.deckShaftStat d b.unit]
    ((s.bump Ev.bondSuspect .module 1).bondLog d b 0 source) (s.noteSuspect d b source) := by
  have hlog := reported_faultLog ((s.bump Ev.bondSuspect .module 1).bondLog d b 0 source) 14 1 2 (160 * d + b.unit) 3 0 (R.deckBondLog d)
  unfold State.noteSuspect
  dsimp only
  split
  · exact hlog.trans (reported_wr _ _ List.mem_cons_self)
  · exact hlog.mono (by simp)

theorem State.epoch_noteSuspect (source : Nat) : (s.noteSuspect d b source).epoch = s.epoch :=
  ((reported_logSuspect s d b source).trans (reported_noteSuspect s d b source)).rd (by
    simp only [F.keepPassStatEpoch, R.keepPassStat, R.keepLogStat, R.cmdqEvtLost, R.deckBondLog, R.deckShaftStat, List.cons_append, List.nil_append,
      List.mem_cons, List.not_mem_nil, or_false]
    omega)

theorem State.on_valid_noteSuspect (source : Nat) : (s.noteSuspect d b source).on (F.deckBondLogValid d) = true := by
  rw [(reported_noteSuspect s d b source).on]
  · exact State.on_valid_bondEvent _ b 0 source _
  · simp only [F.deckBondLogValid, R.keepLogStat, R.cmdqEvtLost, R.deckBondLog, R.deckShaftStat, List.mem_cons, List.not_mem_nil, or_false]
    omega

theorem State.on_pending_noteSuspect (hb : bondShaft b = true) (source : Nat) :
    (s.noteSuspect d b source).on (F.deckShaftStatRepairPending d b.unit) = true := by
  unfold State.noteSuspect
  dsimp only
  rw [if_pos hb]
  exact State.on_wr_one _ rfl (by simp [F.deckShaftStatRepairPending])

/-- The record of a bond and the state of a shaft are two registers. -/
theorem deckShaftStat_ne_deckBondLog (n : Nat) : R.deckShaftStat d n ≠ R.deckBondLog d := by
  simp only [R.deckShaftStat, R.deckBondLog]
  omega

/-- What joining the bonds found failing leaves alone. -/
theorem reported_addSuspect (source : Nat) : reported [R.deckBondLog d] (s.noteSuspect d b source) (s.addSuspect d b source) := by
  have hjoin : ∀ f, reported [R.deckBondLog d] (s.noteSuspect d b source) ((s.noteSuspect d b source).modDeck f) := fun f => reported_modDeck _ f
  unfold State.addSuspect
  dsimp only
  split
  · exact ((hjoin _).trans (reported_exhaustGroup _ d b source)).mono (by simp)
  · exact hjoin _

theorem State.pass_addSuspect (source : Nat) : (s.addSuspect d b source).pass = s.pass :=
  ((reported_logSuspect s d b source).trans ((reported_noteSuspect s d b source).trans (reported_addSuspect s d b source))).pass

variable {s d b}

theorem State.suspectBond_in_pass (hnew : s.bondKnown d b = false) (hpass : s.pass ≠ none) (source : Nat) :
    s.suspectBond d b source = s.addSuspect d b source := by
  have hrun : (s.addSuspect d b source).pass.isSome = true := by rwa [State.pass_addSuspect, Option.isSome_iff_ne_none]
  exact (if_neg (ne_true_of_eq_false hnew)).trans (if_pos hrun)

theorem State.suspectBond_outside_pass (hnew : s.bondKnown d b = false) (hpass : s.pass = none) (source : Nat) :
    s.suspectBond d b source = (s.addSuspect d b source).repairBonds := by
  have hidle : ¬(s.addSuspect d b source).pass.isSome = true := by simp [State.pass_addSuspect, hpass]
  exact (if_neg (ne_true_of_eq_false hnew)).trans (if_neg hidle)

variable (s d b)

theorem State.deck_addSuspect (source : Nat) : (s.addSuspect d b source).deck = { s.deck with
    bonds := s.deck.bonds ++ [⟨d, b, if s.spareUsed d b then 2 else 0, source, s.epoch⟩], exhausted := (s.addSuspect d b source).deck.exhausted } := by
  have hjoin : ∀ f, ((s.noteSuspect d b source).modDeck f).deck = f s.deck := fun f => by rw [State.deck_of_modDeck, State.deck_noteSuspect]
  unfold State.addSuspect
  rw [State.epoch_noteSuspect]
  dsimp only
  split
  · rw [State.deck_exhaustGroup, hjoin]
  · rw [hjoin]

theorem State.on_valid_addSuspect (source : Nat) : (s.addSuspect d b source).on (F.deckBondLogValid d) = true := by
  unfold State.addSuspect
  dsimp only
  split
  · exact State.on_valid_exhaustGroup _ d b source
  · exact s.on_valid_noteSuspect d b source

theorem State.on_pending_addSuspect (hb : bondShaft b = true) (source : Nat) :
    (s.addSuspect d b source).on (F.deckShaftStatRepairPending d b.unit) = true := by
  rw [(reported_addSuspect s d b source).on (List.not_mem_cons_of_ne_of_not_mem (deckShaftStat_ne_deckBondLog d b.unit) List.not_mem_nil)]
  exact s.on_pending_noteSuspect d b hb source

theorem State.addSuspect_waits (hused : s.spareUsed d b = true) (source : Nat) :
    ∃ x ∈ (s.addSuspect d b source).deck.exhausted, x.1 = d ∧ sameGroup x.2 b = true := by
  unfold State.addSuspect
  dsimp only
  rw [if_pos hused]
  exact State.exhaustGroup_waits _ d b source

/-- A bond found failing moves no scan's turn. -/
theorem State.scan_suspectBond (source : Nat) : (s.suspectBond d b source).deck.scan = s.deck.scan := by
  have hadded : (s.addSuspect d b source).deck.scan = s.deck.scan := by rw [State.deck_addSuspect]
  cases hnew : s.bondKnown d b with
  | true => rw [State.suspectBond_known hnew]
  | false =>
    by_cases hpass : s.pass = none
    · rw [State.suspectBond_outside_pass hnew hpass, State.deck_repairBonds]
      exact hadded
    · rw [State.suspectBond_in_pass hnew hpass]
      exact hadded

/-- Found failing outside a pass, the first of its group is on its spare, and no bond waits (R235). -/
theorem State.suspectBond_spared (hnew : s.bondKnown d b = false) (hunused : s.spareUsed d b = false) (hpass : s.pass = none) (source : Nat) :
    ⟨d, b, 1, source, s.epoch⟩ ∈ (s.suspectBond d b source).deck.bonds ∧ ∀ f ∈ (s.suspectBond d b source).deck.bonds, f.st ≠ 0 := by
  rw [State.suspectBond_outside_pass hnew hpass, State.deck_repairBonds, State.deck_addSuspect, hunused]
  refine ⟨List.mem_map.mpr ⟨_, List.mem_append_right _ List.mem_cons_self, rfl⟩, fun f hf => ?_⟩
  obtain ⟨g, -, rfl⟩ := List.mem_map.mp hf
  exact g.st_repaired_ne_zero

/-! ## The scan's turn (R234, R238) -/

/-- The bond after the one whose turn it is has its turn, the first one after the last. -/
def State.scanNext : State := s.modDeck fun x => { x with scan := tset (fun _ => 0) x.scan d (if s.scanAt d + 1 = bondCount then 0 else s.scanAt d + 1) }

/-- The busy bit clears with the last bond of the scan. -/
def State.scanEnd (at_ : Nat) : State := if at_ + 1 = bondCount then s.wr (F.deckBondScanBusy d) 0 else s

variable {s d b}

theorem State.deck_scanEnd (v : State) (at_ : Nat) : (v.scanEnd d at_).deck = v.deck := State.deck_ite _ rfl rfl

theorem State.reg_scanEnd (v : State) (at_ : Nat) {a : Nat} (ha : a ≠ (F.deckBondScanBusy d).addr) : (v.scanEnd d at_).reg a = v.reg a := by
  unfold State.scanEnd
  split
  · exact v.reg_wr_ne _ _ ha
  · rfl

theorem State.on_scanEnd (v : State) (at_ : Nat) {f : Fld} (hf : f.addr ≠ R.deckBondScan d) : (v.scanEnd d at_).on f = v.on f := by
  rw [State.on, State.on, State.rd, State.rd, v.reg_scanEnd at_ hf]

theorem State.rd_busy_scanEnd (v : State) (at_ : Nat) :
    (v.scanEnd d at_).rd (F.deckBondScanBusy d) = if at_ + 1 = bondCount then 0 else v.rd (F.deckBondScanBusy d) := by
  unfold State.scanEnd
  split
  · rw [State.rd_wr_same _ _ _ (by simp [F.deckBondScanBusy]), Nat.zero_mod]
  · rfl

/-- Whatever the test finds, the next bond then has its turn. -/
theorem State.scanAt_scanEnd {v : State} (hv : v.deck.scan = (s.scanNext d).deck.scan) (at_ : Nat) :
    (v.scanEnd d at_).scanAt d = (if s.scanAt d + 1 = bondCount then 0 else s.scanAt d + 1) ∧ ∀ k, k ≠ d → (v.scanEnd d at_).scanAt k = s.scanAt k := by
  simp only [State.scanAt, State.deck_scanEnd, hv]
  exact ⟨tget_tset_same _ _ _ _, fun k hk => tget_tset_ne _ _ _ _ hk⟩

/-- The test of the bond whose turn it is. -/
theorem exec_bondScanStep (hd : d < 8) (hturn : b = scanBond (s.scanAt d))
    (hon : s.on (F.deckBondScanEnable d) = true ∨ s.on (F.deckBondScanBusy d) = true) (failed : Bool) : exec (.bondScanStep d b failed) s =
      .next ((if failed then (s.scanNext d).suspectBond d b 1 else s.scanNext d).scanEnd d (s.scanAt d)) := by
  have hrun : ¬(8 ≤ d ∨ b ≠ scanBond (s.scanAt d) ∨ (!(s.on (F.deckBondScanEnable d) || s.on (F.deckBondScanBusy d))) = true) := by
    simp only [not_or, Nat.not_le, ne_eq, not_not, Bool.not_eq_true, Bool.not_eq_false', Bool.or_eq_true]
    exact ⟨hd, hturn, hon⟩
  show execBondScanStep d b failed s = _
  rw [execBondScanStep, if_neg hrun]
  simp only [decide_eq_true_eq]
  rfl

theorem exec_clockBondLoss {sector : Nat} {up : Bool} (hd : d < 8) (hsector : sector < 160) : exec (.clockBondLoss d sector up) s =
    .next (if s.deck.clockLost.contains (d, sector, up) then
        let v := (s.exhaustGroup d ⟨0, sector, 154 + b2n up, 1⟩ 0).wr (F.deckShaftStatRepairPending d sector) 1
        if v.pass.isSome then v else v.repairBonds
      else s.modDeck fun x => { x with clockLost := x.clockLost ++ [(d, sector, up)] }) := by
  show execClockBondLoss d sector up s = _
  rw [execClockBondLoss, if_neg (by omega)]
  rfl

end

end Sys2Proof.Machine
end

section
open Sys2Proof Sys2Proof.Machine

/-- Settles O27: a step of the scan moves the turn and ends with `State.scanEnd`; a bond that fails joins by `State.addSuspect`, and outside a
pass `State.repairBonds` follows. The order of the turns is the model's choice (log entry 27). -/
theorem bonds : Obligations.Bonds := by
  unfold Obligations.Bonds
  intro s d hd
  refine ⟨?_, fun b hturn hon => ?_, fun sector up hsector => ⟨fun hlost => ?_, fun hlost hpass => ?_⟩⟩
  · show leads (.next (if 8 ≤ d then s else s.scanStart d)) _
    rw [if_neg (Nat.not_le.mpr hd)]
    exact leads_next ⟨rfl, fun a ha => s.reg_wr_ne _ _ ha, State.on_wr_one s rfl (by simp [F.deckBondScanBusy]), tget_tset_same _ _ _ _,
      fun k hk => tget_tset_ne _ _ _ _ hk⟩
  · simp only [exec_bondScanStep hd hturn hon, if_true, Bool.false_eq_true, if_false]
    have hturned := State.scanAt_scanEnd ((s.scanNext d).scan_suspectBond d b 1) (s.scanAt d)
    refine ⟨leads_next ⟨?_, fun a ha => State.reg_scanEnd _ _ ha, State.scanAt_scanEnd rfl _, State.rd_busy_scanEnd _ _⟩,
      fun hknown => leads_next ⟨?_, hturned⟩, fun hnew hpass => leads_next ⟨hturned, ?_⟩, fun hnew hunused hpass => leads_next ⟨hturned, ?_⟩⟩
    · unfold State.scanEnd
      split <;> rfl
    · rw [State.deck_scanEnd, State.suspectBond_known (s := s.scanNext d) hknown]
      rfl
    · rw [State.deck_scanEnd, State.suspectBond_in_pass (s := s.scanNext d) hnew hpass]
      refine ⟨?_, ?_, fun hb => ?_, fun hused => (s.scanNext d).addSuspect_waits d b hused 1⟩
      · rw [State.deck_addSuspect]
        rfl
      · rw [State.on_scanEnd _ _ (by simp [F.deckBondLogValid, R.deckBondLog, R.deckBondScan])]
        exact State.on_valid_addSuspect _ d b 1
      · rw [State.on_scanEnd _ _ (by simp only [F.deckShaftStatRepairPending, R.deckShaftStat, R.deckBondScan]; omega)]
        exact State.on_pending_addSuspect _ d b hb 1
    · rw [State.deck_scanEnd]
      exact (s.scanNext d).suspectBond_spared d b hnew hunused hpass 1
  · rw [exec_clockBondLoss hd hsector, if_neg (by rw [hlost]; decide)]
    rfl
  · have hexhausted := reported_exhaustGroup s d ⟨0, sector, 154 + b2n up, 1⟩ 0
    have hrun : ((s.exhaustGroup d ⟨0, sector, 154 + b2n up, 1⟩ 0).wr (F.deckShaftStatRepairPending d sector) 1).pass.isSome = true := by
      rw [State.pass_wr, hexhausted.pass]
      exact Option.isSome_iff_ne_none.mpr hpass
    rw [exec_clockBondLoss hd hsector, if_pos hlost]
    dsimp only
    rw [if_pos hrun]
    exact leads_next ⟨State.on_wr_one _ rfl (by simp [F.deckShaftStatRepairPending]), s.exhaustGroup_waits d _ 0⟩

end

section
/-! A read whose slice fetches ahead where a way holds a line number from 2²¹ on (R256, R266, R267). -/

namespace Sys2Proof.Machine

/-- A command has one outcome. -/
theorem leads.and {o : Host.Outcome State Fault Refusal} {p q : State → Prop} (hp : leads o p) (hq : leads o q) : ∃ z, p z ∧ q z := by
  obtain ⟨z, hz, hpz⟩ := hp
  obtain ⟨w, hw, hqw⟩ := hq
  obtain rfl := Host.Outcome.next.inj (hz.symm.trans hw)
  exact ⟨z, hpz, hqw⟩

/-- A valid clean sector of zeros. -/
def zeroSec : Sector := { Sector.none_ with valid := true }

/-- A read of line 767 of slice 0 that stands at the input. -/
def readOf767 : Req :=
  { id := 0, kind := .memRead, src := .tile 0 0, chain := 0, desc := 0, tgt := 0, addr := 2048 * 16321, segs := [], data := [], collar := 2, tag := 0, mod := 0,
    epoch := 0, etype := 0, lastUse := false, late := false, stage := .toTarget, status := 0, zero := false, unprot := false, here := true, down := true,
    coll := false, time := 0 }

/-- Its place. -/
def placeOf767 : Loc := placeOf 0 767 767 0

/-- Segment 0 lies Near floor 0 from line 512 on. Slice 0 holds line 767 with a sector of zeros, and its stream fetches line 768 into set 0 next. The
victim there is numbered 2²¹ + 12272 and has a merge entry: as an explicit line that number names way 12272 of set 0, which is way 0 of set 767. -/
def aheadState : State :=
  { State.reset with
    regs := [(R.sliceCfg 0, 0x30), (R.floorHash 0 0, 0x102), (R.floorPerm 0 0, 2 ^ 32)]
    reqs := [readOf767]
    slices := [(0, { SliceSt.reset with
      lines := [(0, { Line.none_ with kind := .cache, line := 2 ^ 21 + 12272 }), (16 * 767, { Line.none_ with kind := .cache, line := 767, secs := [zeroSec] })]
      merge := [⟨0, 2 ^ 21 + 12272, 0, 0, 0xFF, [1], false⟩]
      streams := [(766, 767)] })] }

theorem aheadState_sliceTurn :
    aheadState.sliceTurn 0 0 [.memRead, .nearFill] .clean [] = some (aheadState, readOf767, placeOf767) := by decide +kernel

theorem aheadState_baseSec : aheadState.baseSec 0 placeOf767 = some (0, zeroSec) := by decide

/-- The victim's merge entry is written into the sector that is read. -/
theorem aheadState_sliceRead : leads (exec (.sliceRead 0 0 .clean [] .quiet) aheadState) fun z =>
    (z.baseSec 0 placeOf767).map (·.2.word 0) = some 1 := ⟨_, rfl, by decide +kernel⟩

end Sys2Proof.Machine
end

section
open Sys2Proof Sys2Proof.Machine

/-- Refutes O19: its clause on a hit does not ask that the slice's cached lines have numbers below 2²¹. In `aheadState` the hit carries a stream on
(R267), the run-ahead evicts a line numbered 2²¹ + 12272, and `State.mergeApply` takes that line's merge entry for one of an explicit line: the sector
that was read holds zeros before and a 1 in its word 0 after. -/
theorem not_sliceRead : ¬ Obligations.SliceRead := by
  unfold Obligations.SliceRead
  intro h
  obtain ⟨-, hhit, -⟩ := h aheadState aheadState 0 0 .clean [] .quiet readOf767 placeOf767 aheadState_sliceTurn
  have hserved := hhit 0 zeroSec aheadState_baseSec rfl (by decide) (by decide) (.inl rfl) (fun hc => nomatch hc) (.inr fun _ hi => nomatch hi)
  obtain ⟨z, ⟨-, -, hkept⟩, hone⟩ := hserved.and aheadState_sliceRead
  obtain ⟨d, hd, -, hwords, -⟩ := hkept rfl
  rw [hd, Option.map_some, Sector.word, hwords] at hone
  exact absurd hone (by decide)

end

section
/-! A write-back whose line epoch finds the merge buffer full (R266, R327, R328). -/

namespace Sys2Proof.Machine

/-- A write-back of sector 0 of line 515, zeros, that waits for the acknowledgement of copy A alone. -/
def wbOf515 : TwinWb := ⟨515, 0, 0, [], [], true, false, false, 0, 0⟩

/-- Its place. -/
def placeOf515 : Loc := placeOf 0 515 515 0

/-- Segment 0 is Spread from line 0 on. Slice 0 holds line 515, in way 3 of set 515, with a sector of zeros that is written back. Its merge buffer is
full of entries of line 2²¹ + 3, which lies in set 515 too: as an explicit line that number names way 3. -/
def fullMergeState : State :=
  { State.reset with
    regs := [(R.floorHash 0 0, 1)]
    slices := [(0, { SliceSt.reset with
      lines := [(16 * 515 + 3, { Line.none_ with kind := .cache, line := 515, secs := [zeroSec] })]
      merge := List.replicate 16 ⟨515, 2 ^ 21 + 3, 0, 0, 0xFF, [1], false⟩
      wbs := [wbOf515] })] }

theorem fullMergeState_baseSec : fullMergeState.baseSec 0 placeOf515 = some (3, zeroSec) := by decide

/-- The line epoch of line 515 lies in line 1534. -/
theorem fullMergeState_epochAt : fullMergeState.epochAt 0 515 = some ⟨1534, 0, 1, true⟩ := by decide +kernel

/-- No merge entry is of line 515. -/
theorem fullMergeState_merge : ∀ m ∈ (fullMergeState.slice 0).merge, m.line ≠ 515 := by
  intro m hm
  rw [List.eq_of_mem_replicate hm]
  decide

/-- The oldest merge entry is written into the sector. -/
theorem fullMergeState_writeBackAck : leads (exec (.writeBackAck 0 0 false) fullMergeState) fun z =>
    (z.baseSec 0 placeOf515).map (·.2.word 0) = some 1 := ⟨_, rfl, by decide +kernel⟩

end Sys2Proof.Machine
end

section
open Sys2Proof Sys2Proof.Machine

/-- Refutes O22: its clause on the last acknowledgement of a write-back asks of the merge buffer only that it has no entry of the sector. In
`fullMergeState` the line epoch (R327) goes into the full buffer, its oldest entry is written first (R266), and `State.mergeApply` takes that entry, of
the cached line 2²¹ + 3, for one of the explicit line of way 3, where the sector lies: it holds zeros before and a 1 in its word 0 after. -/
theorem not_sliceUpkeep : ¬ Obligations.SliceUpkeep := by
  unfold Obligations.SliceUpkeep
  intro h
  obtain ⟨-, -, -, hack⟩ := h fullMergeState 0 0
  obtain ⟨-, hlast⟩ := hack wbOf515 false rfl rfl fun c hc => by cases hc; decide
  obtain ⟨z, ⟨-, hclean⟩, hone⟩ := (hlast rfl).and fullMergeState_writeBackAck
  have hsec : z.baseSec 0 placeOf515 = some (3, { zeroSec with dirty := false }) :=
    hclean 3 zeroSec (by decide) (by decide) fullMergeState_baseSec rfl rfl rfl (fun m hm hsame => fullMergeState_merge m hm hsame.2.1) fun b e hb he => by
      cases hb
      obtain rfl := Option.some.inj (he.symm.trans fullMergeState_epochAt)
      decide
  rw [hsec] at hone
  exact absurd hone (by decide)

end

section
/-! A scrub of a channel that no part has (R332, R346). -/

namespace Sys2Proof.Machine

/-- An HBM read of a sector whose word 0 is uncorrectable. -/
def ueOfWord0 : HbmIn := { HbmIn.quiet with ue := [0] }

/-- The scrub control, the state and the error record of channel 65024 would be FLOOR_HASH of segments 3, 32 and 64 on floor 0 (R277, R344 to R346).
The channel is in service with scrub on, segments 3 and 32 lie past its lines, segment 64 is unmapped, and segment 3 is a Twin whose mirror is
segment 64. -/
def strayChannelState : State :=
  { State.reset with regs := [(R.floorHash 0 3, 0xFFF01), (R.floorHash 0 32, 0xFFF01), (R.floorTwin 0 3, 129)] }

/-- No segment's footprint holds line 0 of the channel. -/
theorem strayChannelState_segOf : strayChannelState.segOf 65024 0 = none := by decide +kernel

theorem strayChannelState_twinOf : strayChannelState.twinOf 65024 0 = none := by
  rw [State.twinOf, strayChannelState_segOf, Option.bind_none]

/-- The error record maps segment 64 over the line, so that the scrub takes the line for a copy B. -/
theorem strayChannelState_hbmScrub : leads (exec (.hbmScrub 65024 0 [ueOfWord0] []) strayChannelState) fun z =>
    0 ∉ (z.hbmSec 65024 0 0).2 := ⟨_, rfl, by decide +kernel⟩

end Sys2Proof.Machine
end

section
open Sys2Proof Sys2Proof.Machine

/-- Refutes O23: its clause on uncorrectable words in HBM does not ask that the channel is one of the module's 512. In `strayChannelState` the record of
the error (R346) of channel 65024 writes the hash entry of segment 64, the mirror of a Twin; the line then counts as a copy B, which is compared when
its copy A is scrubbed (R699), and its uncorrectable word stays unmarked. -/
theorem not_scrubs : ¬ Obligations.Scrubs := by
  unfold Obligations.Scrubs
  intro h
  obtain ⟨-, hhbm⟩ := h strayChannelState 65024
  obtain ⟨-, -, hue⟩ := hhbm 0 [ueOfWord0] []
  have hmarks := hue strayChannelState_twinOf (by decide) (by decide) (by decide) (by decide) (by decide) (by decide) (by decide) (fun _ hw => nomatch hw)
    fun g hg => nomatch strayChannelState_segOf.symm.trans hg
  obtain ⟨z, hmarked, hunmarked⟩ := hmarks.and strayChannelState_hbmScrub
  exact hunmarked (((hmarked 0 (by decide)).2 0).mpr (.inr (by decide)))

end

section
/-! Base sectors of a slice's places: what a change of a line leaves of them (R243, R255). -/

namespace Sys2Proof.Machine

variable {s : State} {p : Loc}

/-! ## Places -/

theorem sector_cachedAt_lt (slice line a seg : Nat) : (cachedAt slice line a seg).sector < 8 := Nat.mod_lt _ (by decide)

theorem State.locHbm_sector_lt {a : Nat} (h : s.locHbm a = some p) : p.sector < 8 := by
  unfold State.locHbm at h
  dsimp only at h
  split at h
  · cases h
  · split at h
    · cases h; exact sector_cachedAt_lt _ _ _ _
    · cases h; exact sector_cachedAt_lt _ _ _ _
    · cases h

theorem State.locBand_sector_lt {f : Nat} (fuel b u : Nat) (h : s.locBand f fuel b u = some p) : p.sector < 8 := by
  induction fuel generalizing b u with
  | zero => cases h
  | succ fuel ih =>
    rw [State.locBand] at h
    dsimp only at h
    split at h
    · cases h; exact Nat.mod_lt _ (by decide)
    · exact ih _ _ h

/-- A module address lies in one of the eight sectors of its line. -/
theorem State.locate_sector_lt {a : Nat} (h : s.locate a = some p) : p.sector < 8 := by
  unfold State.locate at h
  dsimp only at h
  split at h
  · exact State.locHbm_sector_lt h
  · split at h
    · exact State.locBand_sector_lt _ _ _ h
    · cases h

/-! ## Lines and sectors -/

@[simp] theorem State.slice_modSlice_same (s : State) (n : Nat) (f : SliceSt → SliceSt) : (s.modSlice n f).slice n = f (s.slice n) :=
  tget_tset_same _ _ _ _

theorem SliceSt.line_setLine (x : SliceSt) (set way : Nat) (l : Line) (st wy : Nat) :
    (x.setLine set way l).line st wy = if 16 * st + wy = 16 * set + way then l else x.line st wy := tget_tset _ _ _ _ _

@[simp] theorem SliceSt.line_setLine_same (x : SliceSt) (set way : Nat) (l : Line) : (x.setLine set way l).line set way = l := by
  rw [SliceSt.line_setLine, if_pos rfl]

theorem Line.sec_setSec_same (l : Line) (expl : Bool) {k : Nat} (hk : k < 8) (x : Sector) : (l.setSec expl k x).sec expl k = x := by
  simp [Line.sec, Line.setSec, List.getD_eq_getElem?_getD, hk]

/-- A way that keeps its kind and its number holds the cached line that it held. -/
theorem SliceSt.find_setLine {x : SliceSt} {set way : Nat} {l : Line} (hkind : l.kind = (x.line set way).kind)
    (hline : l.line = (x.line set way).line) (k : Nat) : (x.setLine set way l).find k = x.find k := by
  have hsame : ∀ st wy, ((x.setLine set way l).line st wy).kind = (x.line st wy).kind ∧ ((x.setLine set way l).line st wy).line = (x.line st wy).line := by
    intro st wy
    rw [SliceSt.line_setLine]
    split
    · next h => rw [hkind, hline, SliceSt.line, SliceSt.line, h]; exact ⟨rfl, rfl⟩
    · exact ⟨rfl, rfl⟩
  simp only [SliceSt.find, hsame]

/-! ## Base sectors -/

theorem State.baseSec_eq_some {n w : Nat} {c : Sector} :
    s.baseSec n p = some (w, c) ↔ s.wayOf n p = some w ∧ c = ((s.slice n).line p.set w).sec p.expl p.sector := by
  unfold State.baseSec
  cases s.wayOf n p with
  | none => simp
  | some v =>
    simp only [Option.map_some, Option.some.injEq, Prod.mk.injEq]
    constructor
    · rintro ⟨rfl, rfl⟩; exact ⟨rfl, rfl⟩
    · rintro ⟨rfl, rfl⟩; exact ⟨rfl, rfl⟩

theorem SliceSt.line_of_lines {x y : SliceSt} (h : y.lines = x.lines) : y.line = x.line := by
  funext set way
  rw [SliceSt.line, SliceSt.line, h]

/-- Base sectors lie in the lines. -/
theorem State.baseSec_of_lines {z : State} {n : Nat} (hz : (z.slice n).lines = (s.slice n).lines) : z.baseSec n p = s.baseSec n p := by
  simp only [State.baseSec, State.wayOf, SliceSt.find, SliceSt.line_of_lines hz]

/-- A change of a slice outside its lines. -/
theorem State.baseSec_modSlice {n : Nat} {f : SliceSt → SliceSt} (hf : ∀ x, (f x).lines = x.lines) : (s.modSlice n f).baseSec n p = s.baseSec n p :=
  State.baseSec_of_lines (by rw [State.slice_modSlice_same, hf])

/-- The base sector of a place after a change of its line that leaves a cached one its kind and number. -/
theorem State.baseSec_of_setLine {z : State} {n w : Nat} {c : Sector} {l : Line} (hb : s.baseSec n p = some (w, c))
    (hz : (z.slice n).lines = ((s.slice n).setLine p.set w l).lines)
    (hl : p.expl = false → l.kind = ((s.slice n).line p.set w).kind ∧ l.line = ((s.slice n).line p.set w).line) :
    z.baseSec n p = some (w, l.sec p.expl p.sector) := by
  obtain ⟨hway, -⟩ := State.baseSec_eq_some.mp hb
  have hline := SliceSt.line_of_lines hz
  refine State.baseSec_eq_some.mpr ⟨?_, by rw [hline, SliceSt.line_setLine_same]⟩
  cases hexpl : p.expl with
  | true =>
    simp only [State.wayOf, hexpl, if_true] at hway ⊢
    exact hway
  | false =>
    obtain ⟨hkind, hnumber⟩ := hl hexpl
    simp only [State.wayOf, hexpl, Bool.false_eq_true, if_false] at hway ⊢
    rw [← hway, ← SliceSt.find_setLine hkind hnumber]
    simp only [SliceSt.find, hline]

/-- A base sector that has been replaced. -/
theorem State.baseSec_setBase {n w : Nat} {c : Sector} (hb : s.baseSec n p = some (w, c)) (hp : p.sector < 8) (x : Sector) :
    (s.setBase n p w x).baseSec n p = some (w, x) := by
  have h := State.baseSec_of_setLine (z := s.setBase n p w x) hb (congrArg SliceSt.lines (s.slice_modSlice_same n _)) fun hexpl => by
    rw [hexpl]; exact ⟨rfl, rfl⟩
  rwa [Line.sec_setSec_same _ _ hp] at h

theorem State.baseSec_touch {n w : Nat} {c : Sector} (hb : s.baseSec n p = some (w, c)) : (s.touch n p.set w).baseSec n p = some (w, c) := by
  rw [(State.baseSec_eq_some.mp hb).2]
  exact State.baseSec_of_setLine (z := s.touch n p.set w) (l := { (s.slice n).line p.set w with age := (s.slice n).stamp + 1, pf := false }) hb
    (by rw [State.touch, State.slice_modSlice_same]) fun _ => ⟨rfl, rfl⟩

end Sys2Proof.Machine
end

section
/-! Bytes written into a base sector (R257, R266, R270). -/

namespace Sys2Proof.Machine

/-! ## One word's share of the bytes -/

variable (off : Nat) (bs : List PB)

/-- A byte of word `i` is among those written. -/
def byteHit (i k : Nat) : Bool := decide (off ≤ 8 * i + k) && decide (8 * i + k < off + bs.length)

theorem wordPart_mask (i : Nat) {k : Nat} (hk : k < 8) : (wordPart off bs i).1.getLsbD k = byteHit off bs i k := maskOf (byteHit off bs i) k hk

theorem wordPart_byte (i : Nat) {k : Nat} (hk : k < 8) (hit : byteHit off bs i k = true) :
    (wordPart off bs i).2.1.getD k 0 = (bs.getD (8 * i + k - off) ⟨0, false⟩).b := by
  simp only [byteHit, Bool.and_eq_true, decide_eq_true_eq] at hit
  simp [wordPart, List.getD_eq_getElem?_getD, hk, hit]

/-- A mask of eight bits is full exactly where each of them is set. -/
theorem mask_eq_full_iff (m : BitVec 8) : m = 0xFF ↔ ∀ k, k < 8 → m.getLsbD k = true := by
  revert m
  decide +kernel

section
variable {bs} {i : Nat} (hlen : bs.length = 256) (hi : i < 32)
include hlen hi

theorem byteHit_whole {k : Nat} (hk : k < 8) : byteHit 0 bs i k = true := by
  simp only [byteHit, hlen, Bool.and_eq_true, decide_eq_true_eq]
  omega

theorem wordPart_whole_mask : (wordPart 0 bs i).1 = 0xFF :=
  (mask_eq_full_iff _).mpr fun _ hk => (wordPart_mask 0 bs i hk).trans (byteHit_whole hlen hi hk)

theorem wordPart_whole_bytes : (wordPart 0 bs i).2.1 = (List.range 8).map fun k => (bs.getD (8 * i + k) ⟨0, false⟩).b := by
  refine List.ext_getElem (by simp [wordPart]) fun k hk _ => ?_
  have hk : k < 8 := by simpa [wordPart] using hk
  have h := wordPart_byte 0 bs i hk (byteHit_whole hlen hi hk)
  rw [List.getD_eq_getElem _ _ (by simpa [wordPart] using hk)] at h
  rw [h, List.getElem_map, List.getElem_range, Nat.sub_zero]

theorem wordPart_whole_mark : (wordPart 0 bs i).2.2 = true ↔ ∃ k, k < 8 ∧ (bs.getD (8 * i + k) ⟨0, false⟩).p = true := by
  simp only [wordPart, List.any_map, List.any_eq_true, List.mem_range, Function.comp_apply, Nat.sub_zero, Bool.and_eq_true, decide_eq_true_eq]
  constructor
  · rintro ⟨k, hk, -, hmark⟩
    exact ⟨k, hk, hmark⟩
  · rintro ⟨k, hk, hmark⟩
    exact ⟨k, hk, ⟨Nat.zero_le _, by omega⟩, hmark⟩

end

/-- A write of fewer than eight bytes fills no word's mask. -/
theorem wordPart_part_mask (i : Nat) (hlen : bs.length < 8) : (wordPart off bs i).1 ≠ 0xFF := fun h => by
  have hbits := (mask_eq_full_iff _).mp h
  have hlow := (wordPart_mask off bs i (k := 0) (by decide)).symm.trans (hbits 0 (by decide))
  have hhigh := (wordPart_mask off bs i (k := 7) (by decide)).symm.trans (hbits 7 (by decide))
  simp only [byteHit, Bool.and_eq_true, decide_eq_true_eq] at hlow hhigh
  omega

/-! ## Words of a sector -/

/-- A sector with word `i` written whole. -/
def Sector.putWord (c : Sector) (i : Nat) (ws : BitVec 8 × List Byte × Bool) : Sector :=
  { c with words := ((List.range 32).map fun k => c.word k).set i (BitVec.ofNat 64 (leNat ws.2.1)),
           poison := (c.poison.filter fun k => decide (k ≠ i)) ++ (if ws.2.2 || c.lost then [i] else []),
           zero := c.zero && decide (leNat ws.2.1 = 0) && !ws.2.2, fresh := false }

theorem Sector.word_putWord (c : Sector) (i : Nat) (ws : BitVec 8 × List Byte × Bool) {k : Nat} (hk : k < 32) :
    (c.putWord i ws).word k = if k = i then BitVec.ofNat 64 (leNat ws.2.1) else c.word k := by
  simp only [Sector.word, Sector.putWord, List.getD_eq_getElem?_getD, List.getElem?_set, List.length_map, List.length_range]
  by_cases h : i = k
  · subst h; simp [hk]
  · simp [h, Ne.symm h, hk]

theorem Sector.mem_poison_putWord (c : Sector) (i : Nat) (ws : BitVec 8 × List Byte × Bool) (hlost : c.lost = false) (k : Nat) :
    k ∈ (c.putWord i ws).poison ↔ if k = i then ws.2.2 = true else k ∈ c.poison := by
  simp only [Sector.putWord, hlost, Bool.or_false, List.mem_append, List.mem_filter, decide_eq_true_eq]
  by_cases h : k = i
  · cases ws.2.2 <;> simp [h]
  · cases ws.2.2 <;> simp [h]

/-- A sector with the words of a list written whole. -/
def Sector.putWords (c : Sector) (is : List Nat) : Sector := is.foldl (fun c i => c.putWord i (wordPart 0 bs i)) c

/-- Of a sector only words, poison and what says that it is fresh or zero change. -/
theorem Sector.putWords_frame (is : List Nat) (c : Sector) : c.putWords bs is =
    { c with words := (c.putWords bs is).words, poison := (c.putWords bs is).poison, zero := (c.putWords bs is).zero, fresh := c.fresh && is.isEmpty } := by
  induction is generalizing c with
  | nil => rw [List.isEmpty_nil, Bool.and_true]; rfl
  | cons i is ih => exact (ih (c.putWord i (wordPart 0 bs i))).trans (by simp [Sector.putWords, Sector.putWord])

theorem Sector.word_putWords (is : List Nat) (c : Sector) {k : Nat} (hk : k < 32) :
    (c.putWords bs is).word k = if k ∈ is then BitVec.ofNat 64 (leNat (wordPart 0 bs k).2.1) else c.word k := by
  induction is generalizing c with
  | nil => rfl
  | cons i is ih =>
    refine (ih (c.putWord i (wordPart 0 bs i))).trans ?_
    rw [Sector.word_putWord _ _ _ hk]
    by_cases h : k ∈ is <;> by_cases hi : k = i <;> simp_all

theorem Sector.mem_poison_putWords (is : List Nat) (c : Sector) (hlost : c.lost = false) (k : Nat) :
    k ∈ (c.putWords bs is).poison ↔ if k ∈ is then (wordPart 0 bs k).2.2 = true else k ∈ c.poison := by
  induction is generalizing c with
  | nil => simp [Sector.putWords]
  | cons i is ih =>
    refine (ih (c.putWord i (wordPart 0 bs i)) hlost).trans ?_
    rw [Sector.mem_poison_putWord _ _ _ hlost]
    by_cases h : k ∈ is <;> by_cases hi : k = i <;> simp_all

/-! ## A slice's sector -/

variable {s : State} {n w : Nat} {p : Loc} {c : Sector}

/-- One word of a write of bytes into a base sector. -/
def State.putWordAt (s : State) (n : Nat) (p : Loc) (w i : Nat) : State :=
  if off < 8 * i + 8 ∧ 8 * i < off + bs.length then
    let ws := wordPart off bs i
    match s.baseSec n p with
    | none => s
    | some (_, c) =>
      if ws.1 = 0xFF then
        (s.modSlice n fun x => { x with merge := x.merge.filter fun m =>
          !(decide (m.set = p.set) && decide (m.line = p.line) && decide (m.sector = p.sector) && decide (m.word = i)) }).setBase n p w (c.putWord i ws)
      else
        (s.setBase n p w { c with zero := c.zero && ws.2.1.all (fun b => decide (b = 0)) && !ws.2.2, fresh := false }).mergeAdd n p i ws.1 ws.2.1 ws.2.2
  else s

theorem State.putBytes_singleton (s : State) (n : Nat) (p : Loc) (w : Nat) :
    s.putBytes n p w [(off, bs)] = (List.range 32).foldl (fun s i => s.putWordAt off bs n p w i) s := by
  rw [State.putBytes, List.foldl_cons, List.foldl_nil]
  congr 1

variable {bs}

/-- A word written whole. -/
theorem State.baseSec_putWordAt_whole (hlen : bs.length = 256) {i : Nat} (hi : i < 32) (hp : p.sector < 8) (hb : s.baseSec n p = some (w, c)) :
    (s.putWordAt 0 bs n p w i).baseSec n p = some (w, c.putWord i (wordPart 0 bs i)) := by
  have hin : 0 < 8 * i + 8 ∧ 8 * i < 0 + bs.length := by omega
  rw [State.putWordAt, if_pos hin, hb]
  dsimp only
  rw [if_pos (wordPart_whole_mask hlen hi)]
  refine State.baseSec_setBase (c := c) ?_ hp _
  rw [State.baseSec_modSlice]
  · exact hb
  · exact fun _ => rfl

/-- A whole sector written: every word of it. -/
theorem State.baseSec_putBytes_whole (hlen : bs.length = 256) (hp : p.sector < 8) (hb : s.baseSec n p = some (w, c)) :
    (s.putBytes n p w [(0, bs)]).baseSec n p = some (w, c.putWords bs (List.range 32)) := by
  have hwords : ∀ (is : List Nat), (∀ i ∈ is, i < 32) → ∀ (s : State) (c : Sector), s.baseSec n p = some (w, c) →
      (is.foldl (fun s i => s.putWordAt 0 bs n p w i) s).baseSec n p = some (w, c.putWords bs is) := by
    intro is
    induction is with
    | nil => exact fun _ _ _ hb => hb
    | cons i is ih =>
      intro his s c hb
      exact ih (fun j hj => his j (List.mem_cons_of_mem _ hj)) _ _ (State.baseSec_putWordAt_whole hlen (his i List.mem_cons_self) hp hb)
  rw [State.putBytes_singleton]
  exact hwords _ (fun i hi => List.mem_range.mp hi) s c hb

end Sys2Proof.Machine
end

section
/-! A write's bytes in a base sector: a whole sector, and a part of one word, which goes through the merge buffer (R257, R266, R290). -/

namespace Sys2Proof.Machine

variable {s : State} {n w : Nat} {p : Loc} {c : Sector} {r : Req} {off : Nat} {bs : List PB}

/-! ## The merge buffer -/

@[simp] theorem State.merge_setBase (x : Sector) : ((s.setBase n p w x).slice n).merge = (s.slice n).merge := by
  rw [State.setBase, State.slice_modSlice_same]; rfl

@[simp] theorem State.merge_touch (set : Nat) : ((s.touch n set w).slice n).merge = (s.slice n).merge := by
  rw [State.touch, State.slice_modSlice_same]; rfl

/-- A narrow write of a word that has no entry, into a buffer with room, is a new entry. -/
theorem State.mergeAdd_new {word : Nat} (mask : BitVec 8) (bytes : List Byte) (pois : Bool) (hroom : (s.slice n).merge.length < 16)
    (hnone : ∀ m ∈ (s.slice n).merge, ¬(m.set = p.set ∧ m.line = p.line ∧ m.sector = p.sector ∧ m.word = word)) :
    s.mergeAdd n p word mask bytes pois =
      s.modSlice n fun x => { x with merge := x.merge ++ [⟨p.set, p.line, p.sector, word, mask, mergeBytes mask bytes [], pois⟩] } := by
  have hfind : (s.slice n).merge.find? (fun m => decide (m.set = p.set) && decide (m.line = p.line) && decide (m.sector = p.sector) &&
      decide (m.word = word)) = none := List.find?_eq_none.mpr fun m hm => by simpa [and_assoc] using hnone m hm
  unfold State.mergeAdd
  simp only [hfind]
  split
  · next m rest hlist =>
    rw [hlist, List.length_cons] at hroom
    rw [if_neg (by omega)]
  · rfl

/-! ## The bytes of a request -/

/-- The bytes of a request in a base sector, before what ends a write. -/
def State.bytesIn (s : State) (n : Nat) (p : Loc) (w : Nat) (c : Sector) (etag : Nat) (r : Req) : State :=
  let s := (s.setBase n p w (Sector.opened { c with etag := etag, dirty := !p.expl, drop := false, pendDrop := false } r.whole)).putBytes n p w r.parts
  if p.expl then s else s.touch n p.set w

theorem State.writeIn_eq_wrote (etag : Nat) : s.writeIn n p w c etag r = (s.bytesIn n p w c etag r).wrote n p r := rfl

theorem Req.parts_of_one {a len : Nat} (hsegs : r.segs = [⟨a, off, len⟩]) (hlen : r.data.length = len) : r.parts = [(off, r.data)] := by
  simp [Req.parts, hsegs, ← hlen]

theorem Req.whole_of_sector {a : Nat} (hsegs : r.segs = [⟨a, 0, 256⟩]) : r.whole = true := by
  simp only [Req.whole, hsegs, Bool.and_eq_true, List.all_eq_true, List.mem_range]
  exact ⟨rfl, fun i hi => by simp [hi]⟩

theorem Req.not_whole_of_part {a len : Nat} (hsegs : r.segs = [⟨a, off, len⟩]) (hlen : len < 256) : r.whole = false := by
  simp [Req.whole, hsegs, Nat.not_le.mpr hlen]

/-- A use of the line changes nothing of its sectors and of the merge buffer. -/
theorem State.bytesIn_end {z : State} (hb : z.baseSec n p = some (w, c)) :
    (if p.expl then z else z.touch n p.set w).baseSec n p = some (w, c) ∧
      ((if p.expl then z else z.touch n p.set w).slice n).merge = (z.slice n).merge := by
  split
  · exact ⟨hb, rfl⟩
  · exact ⟨State.baseSec_touch hb, State.merge_touch _⟩

/-! ## A whole sector -/

/-- The sector that a write of the whole of it leaves. -/
def Sector.rewritten (c : Sector) (expl : Bool) (etag : Nat) (bs : List PB) : Sector :=
  (Sector.opened { c with etag := etag, dirty := !expl, drop := false, pendDrop := false } true).putWords bs (List.range 32)

theorem State.baseSec_bytesIn_whole {a : Nat} (etag : Nat) (hp : p.sector < 8) (hb : s.baseSec n p = some (w, c)) (hsegs : r.segs = [⟨a, 0, 256⟩])
    (hlen : r.data.length = 256) : (s.bytesIn n p w c etag r).baseSec n p = some (w, c.rewritten p.expl etag r.data) := by
  unfold State.bytesIn
  rw [Req.parts_of_one hsegs hlen, Req.whole_of_sector hsegs]
  exact (State.bytesIn_end (State.baseSec_putBytes_whole hlen hp (State.baseSec_setBase hb hp _))).1

theorem Sector.rewritten_frame (expl : Bool) (etag : Nat) : c.rewritten expl etag bs = { c with
    words := (c.rewritten expl etag bs).words, poison := (c.rewritten expl etag bs).poison, zero := (c.rewritten expl etag bs).zero,
    twin := if c.twin = 3 then 1 else c.twin, etag := etag, dirty := !expl, drop := false, pendDrop := false, lost := false, fresh := false } :=
  (Sector.putWords_frame bs _ _).trans (by simp [Sector.opened, Sector.rewritten, show (List.range 32).isEmpty = false from rfl])

theorem Sector.word_rewritten (expl : Bool) (etag : Nat) (hlen : bs.length = 256) {i : Nat} (hi : i < 32) : (c.rewritten expl etag bs).word i =
    BitVec.ofNat 64 (leNat ((List.range 8).map fun k => (bs.getD (8 * i + k) ⟨0, false⟩).b)) := by
  rw [Sector.rewritten, Sector.word_putWords _ _ _ hi, if_pos (List.mem_range.mpr hi), wordPart_whole_bytes hlen hi]

theorem Sector.mem_poison_rewritten (expl : Bool) (etag : Nat) (hlen : bs.length = 256) {i : Nat} (hi : i < 32) :
    i ∈ (c.rewritten expl etag bs).poison ↔ ∃ k, k < 8 ∧ (bs.getD (8 * i + k) ⟨0, false⟩).p = true := by
  rw [Sector.rewritten, Sector.mem_poison_putWords _ _ _ rfl, if_pos (List.mem_range.mpr hi), wordPart_whole_mark hlen hi]

/-! ## A part of one word -/

/-- A change that acts on one index alone acts at most once. -/
theorem foldl_once {α : Type} {f : α → Nat → α} {j : Nat} (hf : ∀ x i, i ≠ j → f x i = x) (is : List Nat) (hnodup : is.Nodup) (x : α) :
    is.foldl f x = if j ∈ is then f x j else x := by
  induction is generalizing x with
  | nil => rfl
  | cons i is ih =>
    obtain ⟨hi, his⟩ := List.nodup_cons.mp hnodup
    rw [List.foldl_cons, ih his]
    by_cases h : i = j
    · subst h; simp [hi]
    · simp [hf x i h, Ne.symm h]

/-- The merge entry of a write within one word. -/
def partEnt (p : Loc) (off : Nat) (bs : List PB) : MergeEnt :=
  let ws := wordPart off bs (off / 8)
  ⟨p.set, p.line, p.sector, off / 8, ws.1, mergeBytes ws.1 ws.2.1 [], ws.2.2⟩

theorem partEnt_mask {k : Nat} (hk : k < 8) :
    (partEnt p off bs).mask.getLsbD k = (decide (off % 8 ≤ k) && decide (k < off % 8 + bs.length)) := by
  have h := wordPart_mask off bs (off / 8) hk
  rw [byteHit, show decide (off ≤ 8 * (off / 8) + k) = decide (off % 8 ≤ k) from decide_eq_decide.mpr (by omega),
    show decide (8 * (off / 8) + k < off + bs.length) = decide (k < off % 8 + bs.length) from decide_eq_decide.mpr (by omega)] at h
  exact h

theorem partEnt_byte (hword : off / 8 = (off + bs.length - 1) / 8) {k : Nat} (hk : k < bs.length) :
    (partEnt p off bs).bytes.getD (off % 8 + k) 0 = (bs.getD k ⟨0, false⟩).b := by
  have hk8 : off % 8 + k < 8 := by omega
  have hit : byteHit off bs (off / 8) (off % 8 + k) = true := by
    simp only [byteHit, Bool.and_eq_true, decide_eq_true_eq]
    omega
  rw [partEnt, mergeBytes_get _ _ _ hk8, wordPart_mask _ _ _ hk8, hit, if_pos rfl, wordPart_byte _ _ _ hk8 hit,
    show 8 * (off / 8) + (off % 8 + k) - off = k by omega]

/-- A write within one word leaves the array's words, and a new merge entry. -/
theorem State.putBytes_part (hpos : 0 < bs.length) (hlen : bs.length < 8) (hword : off / 8 = (off + bs.length - 1) / 8) (hoff : off < 256)
    (hp : p.sector < 8) (hb : s.baseSec n p = some (w, c)) (hroom : (s.slice n).merge.length < 16)
    (hnone : ∀ m ∈ (s.slice n).merge, ¬(m.set = p.set ∧ m.line = p.line ∧ m.sector = p.sector ∧ m.word = off / 8)) :
    ((s.putBytes n p w [(off, bs)]).slice n).merge = (s.slice n).merge ++ [partEnt p off bs] ∧
      ∃ zero, (s.putBytes n p w [(off, bs)]).baseSec n p = some (w, { c with zero := zero, fresh := false }) := by
  have hother : ∀ (u : State) i, i ≠ off / 8 → u.putWordAt off bs n p w i = u := fun u i hi => if_neg (by omega)
  rw [State.putBytes_singleton, foldl_once hother _ List.nodup_range, if_pos (List.mem_range.mpr (by omega)),
    State.putWordAt, if_pos (by omega), hb]
  dsimp only
  rw [if_neg (wordPart_part_mask off bs _ hlen), State.mergeAdd_new _ _ _ (by rwa [State.merge_setBase]) (by rwa [State.merge_setBase])]
  refine ⟨by rw [State.slice_modSlice_same, State.merge_setBase]; rfl, ?_⟩
  refine ⟨c.zero && (wordPart off bs (off / 8)).2.1.all (fun b => decide (b = 0)) && !(wordPart off bs (off / 8)).2.2, ?_⟩
  rw [State.baseSec_modSlice]
  · exact State.baseSec_setBase hb hp _
  · exact fun _ => rfl

/-- A request's bytes within one word of a sector. -/
theorem State.bytesIn_part {a : Nat} (etag : Nat) (hsegs : r.segs = [⟨a, off, r.data.length⟩]) (hpos : 0 < r.data.length) (hlen : r.data.length < 8)
    (hword : off / 8 = (off + r.data.length - 1) / 8) (hoff : off < 256) (hp : p.sector < 8) (hb : s.baseSec n p = some (w, c))
    (hroom : (s.slice n).merge.length < 16)
    (hnone : ∀ m ∈ (s.slice n).merge, ¬(m.set = p.set ∧ m.line = p.line ∧ m.sector = p.sector ∧ m.word = off / 8)) :
    ∃ zero, ((s.bytesIn n p w c etag r).slice n).merge = (s.slice n).merge ++ [partEnt p off r.data] ∧
      (s.bytesIn n p w c etag r).baseSec n p =
        some (w, { c with etag := etag, dirty := !p.expl, drop := false, pendDrop := false, zero := zero, fresh := false }) := by
  unfold State.bytesIn
  rw [Req.parts_of_one hsegs rfl, Req.not_whole_of_part hsegs (by omega)]
  obtain ⟨hmerge, zero, hsec⟩ := State.putBytes_part hpos hlen hword hoff hp
    (State.baseSec_setBase hb hp (Sector.opened { c with etag := etag, dirty := !p.expl, drop := false, pendDrop := false } false))
    (by rwa [State.merge_setBase]) (by rwa [State.merge_setBase])
  obtain ⟨hbase, hkept⟩ := State.bytesIn_end hsec
  rw [State.merge_setBase] at hmerge
  exact ⟨zero, hkept.trans hmerge, hbase⟩

end Sys2Proof.Machine
end

section
/-! What leaves the requests in flight as they are: the slices and the channels (R261, R266, R272, R327, R328), the repair of bonds and the
paths to a slice (R226, R231, R236). -/

namespace Sys2Proof.Machine

theorem reported.reqs {as : List Nat} {s w : State} (h : reported as s w) : w.reqs = s.reqs := by rw [h.1]

theorem completed.reqs {s w : State} (h : completed s w) : w.reqs = s.reqs := by rw [h.1]

theorem leashesKept.reqs {s w : State} (h : leashesKept s w) : w.reqs = s.reqs := by rw [h.1]

section
variable {s : State}

/-- A choice between two changes. -/
theorem State.reqs_ite (c : Prop) [Decidable c] {v w : State} (hv : v.reqs = s.reqs) (hw : w.reqs = s.reqs) : (if c then v else w).reqs = s.reqs := by
  split
  · exact hv
  · exact hw

variable (s)

theorem State.reqs_foldl {β : Type} {f : State → β → State} (h : ∀ u x, (f u x).reqs = u.reqs) (l : List β) : (l.foldl f s).reqs = s.reqs :=
  foldl_keep f (fun u => u.reqs = s.reqs) l s rfl fun u x hu => (h u x).trans hu

theorem State.reqs_bump (ev : Nat) (u : EvUnit) (n : Nat) : (s.bump ev u n).reqs = s.reqs := rfl

@[simp] theorem State.reqs_wrs (ws : List (Fld × Nat)) : (s.wrs ws).reqs = s.reqs :=
  State.reqs_foldl (f := fun s (p : Fld × Nat) => s.wr p.1 p.2) s (fun u p => u.reqs_wr p.1 p.2) ws

@[simp] theorem State.reqs_record (valid multi : Fld) (ws : List (Fld × Nat)) : (s.record valid multi ws).reqs = s.reqs :=
  State.reqs_ite _ rfl (s.reqs_wrs ws)

/-! ## The merge buffer and the channels -/

theorem State.reqs_mergeApply (n : Nat) (m : MergeEnt) : (s.mergeApply n m).reqs = s.reqs := by
  unfold State.mergeApply
  dsimp only
  split <;> rfl

theorem State.reqs_mergeApplies (n : Nat) (ms : List MergeEnt) : (ms.foldl (fun s m => s.mergeApply n m) s).reqs = s.reqs :=
  State.reqs_foldl s (fun u m => u.reqs_mergeApply n m) ms

theorem State.reqs_mergeFlush (n set line sector : Nat) : (s.mergeFlush n set line sector).reqs = s.reqs := s.reqs_mergeApplies n _

theorem State.reqs_mergeAdd (n : Nat) (p : Loc) (word : Nat) (mask : BitVec 8) (bytes : List Byte) (pois : Bool) :
    (s.mergeAdd n p word mask bytes pois).reqs = s.reqs := by
  unfold State.mergeAdd
  dsimp only
  split
  · exact State.reqs_ite _ (s.reqs_mergeApply n _) rfl
  · rw [State.reqs_modSlice]
    split
    · exact State.reqs_ite _ (s.reqs_mergeApply n _) rfl
    · rfl

theorem State.reqs_activate (ch : Nat) : (s.activate ch).reqs = s.reqs := State.reqs_ite _ rfl rfl

theorem State.reqs_hbmSet (k : Nat) (bs : List Byte) : (s.hbmSet k bs).reqs = s.reqs := rfl

theorem State.reqs_hbmPut (ch line sec : Nat) (words : List W64) (poison : List Nat) : (s.hbmPut ch line sec words poison).reqs = s.reqs := by
  unfold State.hbmPut
  extract_lets k stored marked
  have hstored : stored.reqs = s.reqs := s.reqs_hbmSet _ _
  clear_value stored
  have hmarked : marked.reqs = stored.reqs := rfl
  clear_value marked
  exact (State.reqs_activate _ ch).trans (hmarked.trans hstored)

theorem State.reqs_putOne (ch line sec : Nat) (words : List W64) (poison : List Nat) : (s.putOne ch line sec words poison).reqs = s.reqs :=
  State.reqs_ite _ rfl (s.reqs_hbmPut _ _ _ _ _)

theorem State.reqs_grant (a : Arbiter) (u : EvUnit) (collar lv bytes : Nat) : (s.grant a u collar lv bytes).reqs = s.reqs :=
  State.reqs_ite _ rfl (State.reqs_ite _ rfl rfl)

theorem State.reqs_crossRing (a b collar lv bytes : Nat) : (s.crossRing a b collar lv bytes).reqs = s.reqs :=
  State.reqs_foldl s (fun u _ => u.reqs_grant _ _ _ _ _) _

theorem State.reqs_putBack (ch line sec : Nat) (words : List W64) (poison : List Nat) {col : Nat} (hc : col < 2) :
    (s.putBack ch line sec words poison col).reqs = s.reqs := by
  rw [State.putBack, State.atOnce_low _ _ _ _ hc]
  exact State.reqs_ite _ rfl (s.reqs_putOne _ _ _ _ _)

/-- A read of a sector that meets no error. -/
theorem State.reqs_hbmRead (ch line sec src : Nat) : (s.hbmRead ch line sec src .quiet).1.reqs = s.reqs := by
  simp only [State.hbmRead, HbmIn.quiet, List.filter_nil, List.isEmpty_nil, if_true, List.take_nil, List.foldl_nil]
  exact State.reqs_ite _ (State.reqs_activate _ ch) (State.reqs_activate _ ch)

theorem State.reqs_epochSec (ch : Nat) (e : EpochAt) : (s.epochSec ch e).1.reqs = s.reqs := by
  unfold State.epochSec
  extract_lets flushed fromHbm
  have hflushed : flushed.reqs = s.reqs := s.reqs_mergeApplies _ _
  have hread : fromHbm.1.reqs = s.reqs := by
    unfold fromHbm
    split
    · exact hflushed
    · exact (flushed.reqs_hbmRead ch e.line e.sector hsNARROW).trans hflushed
  clear_value fromHbm
  split
  · dsimp only
    split
    · exact hflushed
    · exact hread
  · exact hread

/-! ## Ways of a set, and write-backs -/

/-- A way emptied for the Keeper or for what no collar asked for, its write-back meeting nothing. -/
theorem State.reqs_evict (n set way : Nat) {col : Nat} (hc : col < 2) : (s.evict n set way col []).1.reqs = s.reqs := by
  unfold State.evict
  dsimp only
  split
  · rfl
  · have hflush : ((s.mergeFlushLine n set ((s.slice n).line set way).line).wbDecode n set way []).reqs = s.reqs := s.reqs_mergeApplies _ _
    generalize (s.mergeFlushLine n set ((s.slice n).line set way).line).wbDecode n set way [] = u at hflush ⊢
    split
    · split
      · exact hflush
      · exact hflush
    · split
      · exact hflush
      · exact (State.reqs_foldl u (fun u _ => u.reqs_putBack _ _ _ _ _ hc) _).trans hflush

theorem State.reqs_takeWay (n set k : Nat) (stream : Bool) {col : Nat} (hc : col < 2) : (s.takeWay n set k stream col []).1.reqs = s.reqs := by
  unfold State.takeWay
  split
  · rfl
  · exact s.reqs_evict _ _ _ hc

theorem State.reqs_allocate (n set line kennel : Nat) (pref : Bool) {col : Nat} (hc : col < 2) :
    (s.allocate n set line kennel pref col []).1.reqs = s.reqs := by
  have htaken := s.reqs_takeWay n set kennel (pref || decide (s.persOf kennel = 0)) hc
  unfold State.allocate
  split
  · rename_i u w heq
    rw [heq] at htaken
    exact htaken
  · exact htaken

theorem State.reqs_putEpoch (ch line v : Nat) : (s.putEpoch ch line v).reqs = s.reqs := by
  unfold State.putEpoch
  split
  · rfl
  · rename_i e _
    have hsec := s.reqs_epochSec ch e
    generalize s.epochSec ch e = r at hsec ⊢
    obtain ⟨u, old⟩ := r
    dsimp only at hsec ⊢
    have hway : (match (u.slice ch).find e.line with
        | some w => (u, Got.way w)
        | none => if u.on (F.sliceStatRemoved ch) then (u, Got.none_)
          else u.allocate ch (e.line % 768) e.line (((u.unhash ch e.line).map u.kennelOf).getD 64) false 1 []).1.reqs = u.reqs := by
      split
      · rfl
      · split
        · rfl
        · exact u.reqs_allocate _ _ _ _ _ (by decide)
    refine Eq.trans ?_ hsec
    split
    · exact (State.reqs_mergeAdd _ _ _ _ _ _ _).trans hway
    · exact (State.reqs_putOne _ _ _ _ _ _).trans hway

theorem State.reqs_unsplit (n line sec : Nat) : (s.unsplit n line sec).reqs = s.reqs := State.reqs_ite _ rfl rfl

theorem State.reqs_writeBack (n line sec : Nat) (words : List W64) (poison : List Nat) (whole : Bool) {col : Nat} (hc : col < 2) :
    (s.writeBack n line sec words poison whole col).reqs = s.reqs := by
  have hepoch : ∀ (u : State) (ch line : Nat), (if u.chanRetired ch then u else u.putEpoch ch line u.commitEpoch).reqs = u.reqs :=
    fun u ch line => State.reqs_ite _ rfl (u.reqs_putEpoch _ _ _)
  unfold State.writeBack
  split
  · exact s.reqs_putBack _ _ _ _ _ hc
  · rename_i b _
    extract_lets u copyA epochA copyB epochB
    have hA : epochA.reqs = s.reqs := (hepoch copyA n line).trans (u.reqs_putBack _ _ _ _ _ hc)
    have hB : epochB.reqs = s.reqs :=
      ((hepoch copyB b.1 b.2).trans ((State.reqs_putBack _ _ _ _ _ _ hc).trans (epochA.reqs_crossRing _ _ _ _ _))).trans hA
    exact State.reqs_ite _ ((epochB.reqs_unsplit _ _ _).trans hB) hB

theorem State.reqs_cleanLine (n set way : Nat) {col : Nat} (hc : col < 2) : (s.cleanLine n set way col).reqs = s.reqs :=
  (State.reqs_foldl _ (fun u _ => State.reqs_ite _ (u.reqs_writeBack _ _ _ _ _ _ hc) rfl) _).trans (s.reqs_mergeApplies _ _)

theorem State.reqs_flushOnce (n : Nat) : (s.flushOnce n).reqs = s.reqs :=
  State.reqs_foldl s (fun u _ => State.reqs_ite _ rfl ((State.reqs_modSlice _ _ _).trans (u.reqs_cleanLine _ _ _ (by decide)))) _

theorem State.reqs_flushSlice (n : Nat) : (s.flushSlice n).reqs = s.reqs :=
  (State.reqs_flushOnce _ n).trans ((State.reqs_flushOnce _ n).trans (s.reqs_mergeApplies n _))

theorem State.reqs_dropMark (n : Nat) (p : Loc) : (s.dropMark n p).reqs = s.reqs := by
  unfold State.dropMark
  split
  · rfl
  · exact State.reqs_ite _ rfl (State.reqs_ite _ rfl rfl)

theorem State.reqs_lastUse (n : Nat) (p : Loc) (r : Req) : (s.lastUse n p r).reqs = s.reqs := by
  unfold State.lastUse
  refine State.reqs_ite _ rfl ?_
  split
  · rfl
  · exact State.reqs_ite _ rfl (s.reqs_dropMark n p)

/-- Entries that an abort notice names move to Dropping (R514): registers. -/
theorem State.reqs_startDrops : s.startDrops.reqs = s.reqs := by
  refine State.reqs_foldl s (fun u m => State.reqs_ite _ rfl (State.reqs_foldl u (fun v k => ?_) _)) _
  split
  · rfl
  · rfl

/-! ## Reports, capacities and jobs that end -/

@[simp] theorem State.reqs_faultLog (source cls unitKind unit action cause detail : Nat) :
    (s.faultLog source cls unitKind unit action cause detail).reqs = s.reqs := (reported_faultLog s _ _ _ _ _ _ _).reqs

@[simp] theorem State.reqs_complete (e : Entry) (st r : Nat) : (s.complete e st r).reqs = s.reqs := (completed_complete s e st r).reqs

@[simp] theorem State.reqs_finish (q : Wait → Bool) (st r : Nat) : (s.finish q st r).reqs = s.reqs := (completed_finish s q st r).reqs

@[simp] theorem State.reqs_setCaps (cls : Nat) (insts : List (Nat × Nat)) (cap : Nat) : (s.setCaps cls insts cap).reqs = s.reqs := by
  unfold State.setCaps
  dsimp only
  split
  · rfl
  · exact (leashesKept_shortfall _ _ _ _ _ _).reqs.trans (leashesKept_leashScaled _ _).reqs

@[simp] theorem State.reqs_removeSlice (n : Nat) : (s.removeSlice n).reqs = s.reqs :=
  State.reqs_ite _ rfl ((State.reqs_faultLog _ _ _ _ _ _ _ _).trans ((State.reqs_setCaps _ _ _ _).trans (State.reqs_flushSlice _ n)))

@[simp] theorem State.reqs_dropPass (status result : Nat) : (s.dropPass status result).reqs = s.reqs := by
  unfold State.dropPass State.finishHeld
  split
  · exact s.reqs_finish _ _ _
  · extract_lets ended launched committed
    have hlaunched : launched.reqs = s.reqs := State.reqs_ite _ rfl (ended.reqs_complete _ _ _)
    have hcommitted : committed.reqs = s.reqs := by
      unfold committed
      split
      · exact (launched.reqs_complete _ _ _).trans hlaunched
      · exact hlaunched
    exact (committed.reqs_finish _ _ _).trans hcommitted

@[simp] theorem State.reqs_jobLost (cause : Nat) : (s.jobLost cause).reqs = s.reqs := by
  have hfatal : (s.fatalJob cause).reqs = s.reqs := (State.reqs_dropPass _ _ _).trans (State.reqs_ite _ (s.reqs_wrs _) rfl)
  exact State.reqs_ite _ rfl (State.reqs_ite _ rfl hfatal)

/-! ## Bonds -/

@[simp] theorem State.reqs_becomeGuest (d n : Nat) : (s.becomeGuest d n).reqs = s.reqs := by
  unfold State.becomeGuest
  split
  · exact s.reqs_wrs _
  · exact (State.reqs_jobLost _ _).trans (State.reqs_faultLog _ _ _ _ _ _ _ _)

@[simp] theorem State.reqs_retirePort (d n : Nat) : (s.retirePort d n).reqs = s.reqs := by
  unfold State.retirePort
  extract_lets guest retired capped placed
  have hplaced : placed.reqs = s.reqs := (capped.reqs_becomeGuest d n).trans ((retired.reqs_setCaps _ _ _).trans (s.reqs_wrs _))
  cases guest with
  | none => exact hplaced
  | some g => exact (placed.reqs_becomeGuest d g).trans hplaced

theorem State.reqs_exhaustAct (d : Nat) (b : BondRef) : (s.exhaustAct d b).reqs = s.reqs := by
  unfold State.exhaustAct
  extract_lets found log narrow pended logged
  have hlog : ∀ v a, (log v a).reqs = v.reqs := fun v a => by
    unfold log
    cases found <;> exact v.reqs_record _ _ _
  clear_value log
  have hnarrow : ∀ v f dir half, (narrow v f dir half).reqs = v.reqs := fun v f dir half => by
    unfold narrow
    split
    · simp [hlog, State.setCap]
    · split <;> simp [hlog]
  clear_value narrow
  have hpended : pended.reqs = s.reqs := rfl
  clear_value pended
  have hlogged : logged.reqs = s.reqs := hlog s 5
  clear_value logged
  split
  · refine (State.reqs_ite _ rfl (State.reqs_ite _ (hnarrow _ _ _ _) (State.reqs_ite _ (hnarrow _ _ _ _) ?_))).trans hpended
    simp [hlog]
  · split
    · simp [hlog]
    · exact State.reqs_ite _ hlogged ((logged.reqs_removeSlice _).trans hlogged)

theorem State.reqs_repairBonds : s.repairBonds.reqs = s.reqs := by
  unfold State.repairBonds
  extract_lets spared marked ex cleared
  have hspared : spared.reqs = s.reqs := State.reqs_foldl s (fun u f => State.reqs_ite _ rfl (by
    extract_lets v
    have hv : v.reqs = u.reqs := State.reqs_record _ _ _ _
    exact State.reqs_ite _ hv hv)) _
  exact (cleared.reqs_foldl (fun u e => u.reqs_exhaustAct e.1 e.2) ex).trans hspared

theorem State.reqs_suspectBond (d : Nat) (b : BondRef) (source : Nat) : (s.suspectBond d b source).reqs = s.reqs := by
  have hadded : (s.addSuspect d b source).reqs = s.reqs :=
    ((reported_logSuspect s d b source).trans ((reported_noteSuspect s d b source).trans (reported_addSuspect s d b source))).reqs
  cases hnew : s.bondKnown d b with
  | true => rw [State.suspectBond_known hnew]
  | false =>
    by_cases hpass : s.pass = none
    · rw [State.suspectBond_outside_pass hnew hpass, State.reqs_repairBonds]
      exact hadded
    · rw [State.suspectBond_in_pass hnew hpass]
      exact hadded

theorem State.reqs_bondHit (d : Nat) (b : BondRef) (n : Nat) : (s.bondHit d b n).reqs = s.reqs :=
  State.reqs_ite _ rfl (State.reqs_ite _ (State.reqs_suspectBond _ _ _ _) rfl)

/-! ## Paths -/

theorem State.reqs_deckErr (t path what : Nat) (h : Hop) : (s.deckErr t path what h).reqs = s.reqs :=
  (State.reqs_ite _ (State.reqs_bump _ _ _ _) rfl).trans (s.reqs_record _ _ _)

theorem State.reqs_deckCe (t path n : Nat) : (s.deckCe t path n).reqs = s.reqs := State.reqs_ite _ rfl (State.reqs_ite _ rfl rfl)

theorem State.reqs_meshWords (t ce : Nat) (ue words : List Nat) (rt : List Hop) : (s.meshWords t ce ue words rt).reqs = s.reqs :=
  (State.reqs_foldl _ (fun u _ => u.reqs_deckErr _ _ _ _) _).trans (State.reqs_deckCe _ _ _ _)

theorem State.reqs_shaftWords (t path ce : Nat) (ue words : List Nat) : (s.shaftWords t path ce ue words).reqs = s.reqs :=
  (State.reqs_foldl _ (fun u _ => u.reqs_deckErr _ _ _ _) _).trans ((State.reqs_deckCe _ _ _ _).trans (State.reqs_ite _ rfl rfl))

/-- Words on a shaft, or lost there. -/
theorem State.reqs_shaft_pathWords (t : Nat) {path : Nat} (hpath : path ≠ 0) (rt : List Hop) (tr : Transit) (words : List Nat) :
    (s.pathWords t path rt tr words).1.reqs = s.reqs := by
  unfold State.pathWords
  extract_lets hit port leg carried ue
  have hbond : hit.reqs = s.reqs := by
    unfold hit
    split
    · split
      · exact s.reqs_bondHit _ _ _
      · rfl
    · rfl
  rw [if_neg hpath]
  split
  · exact (hit.reqs_deckErr _ _ _ _).trans hbond
  · split
    · exact (hit.reqs_deckErr _ _ _ _).trans hbond
    · exact (carried.reqs_shaftWords _ _ _ _ _).trans ((State.reqs_ite _ rfl (hit.reqs_meshWords _ _ _ _ _)).trans hbond)

theorem State.reqs_takeShaft (t path collar lv bytes : Nat) : (s.takeShaft t path collar lv bytes).reqs = s.reqs :=
  State.reqs_ite _ rfl (s.reqs_grant _ _ _ _ _)

theorem State.reqs_shaftFlits (t path n tag collar words : Nat) : (s.shaftFlits t path n tag collar words).reqs = s.reqs :=
  State.reqs_ite _ rfl rfl

theorem State.reqs_carry (t path : Nat) (r : Req) : (s.carry t path r).reqs = s.reqs := by
  unfold State.carry
  extract_lets lv bytes sent
  have hsent : sent.reqs = s.reqs := (State.reqs_shaftFlits _ _ _ _ _ _ _).trans (s.reqs_takeShaft _ _ _ _ _)
  clear_value sent
  exact (State.reqs_ite _ rfl (State.reqs_ite _ (sent.reqs_crossRing _ _ _ _ _) (sent.reqs_crossRing _ _ _ _ _))).trans hsent

end

end Sys2Proof.Machine
end

section
/-! A request in its turn at a slice (R228, R230, R265, R269). -/

namespace Sys2Proof.Machine

variable {s u : State} {n ix : Nat} {kinds : List ReqKind} {tr : Transit} {here : List Nat} {r q : Req} {p : Loc}

/-! ## Requests in flight -/

theorem State.req_of_reqs {w : State} (h : w.reqs = s.reqs) (i : Nat) : w.req i = s.req i := by rw [State.req, State.req, h]

theorem State.req_id {i : Nat} (h : s.req i = some r) : r.id = i := of_decide_eq_true (List.find?_some (p := fun q : Req => decide (q.id = i)) h)

/-- A request that has been replaced. -/
theorem State.req_setReq (h : s.req q.id = some r) : (s.setReq q).req q.id = some q := by
  have hkeep : ((fun x : Req => decide (x.id = q.id)) ∘ fun x => if x.id = q.id then q else x) = fun x => decide (x.id = q.id) := by
    funext x
    by_cases hx : x.id = q.id <;> simp [hx]
  rw [State.req, State.reqs_of_setReq, List.find?_map, hkeep, show s.reqs.find? (fun x => decide (x.id = q.id)) = some r from h, Option.map_some,
    if_pos (State.req_id h)]

/-! ## The turn -/

/-- A request in its turn is in flight, and its place is in the slice. -/
theorem State.req_of_atSlice (h : s.atSlice n ix kinds = some (r, p)) : s.req ix = some r ∧ s.reqPlace r = some p := by
  unfold State.atSlice at h
  split at h
  · cases h
  · next r' hr =>
    split at h
    · obtain ⟨p', hp, hplace⟩ := Option.bind_eq_some_iff.mp h
      split at hplace
      · cases hplace
        exact ⟨hr, hp⟩
      · cases hplace
    · cases h

theorem State.reqs_reqPath {w : State} (t : Nat) {path : Nat} (hpath : path ≠ 0) (rt : List Hop) (h : s.reqPath t path rt tr r = (w, some q)) :
    w.reqs = s.reqs ∧ q.id = r.id := by
  have hreqs := (State.reqs_shaft_pathWords (s.carry t path r) t hpath rt tr (carried r)).trans (s.reqs_carry t path r)
  unfold State.reqPath at h
  split at h
  · cases h
  · next w' ue hwords =>
    rw [hwords] at hreqs
    cases h
    exact ⟨hreqs, rfl⟩

/-- What comes down to its slice keeps its number, and the requests in flight stay. -/
theorem State.reqs_downShaft {w : State} (h : s.downShaft tr r = (w, some q)) : w.reqs = s.reqs ∧ q.id = r.id := by
  unfold State.downShaft at h
  dsimp only at h
  split at h
  · cases h; exact ⟨rfl, rfl⟩
  · split at h
    · exact State.reqs_reqPath (r := { r with down := true }) _ (by decide) _ h
    · split at h
      · cases h; exact ⟨s.reqs_crossRing _ _ _ _ _, rfl⟩
      · cases h; exact ⟨rfl, rfl⟩

/-- The request served, where it comes down. -/
theorem State.of_sliceTurn (h : s.sliceTurn n ix kinds tr here = some (u, q, p)) : ∃ r w, (s.enter n (here ++ [ix])).atSlice n ix kinds = some (r, p) ∧
    (s.enter n (here ++ [ix])).downShaft tr r = (w, some q) ∧ u = w.setReq q := by
  unfold State.sliceTurn at h
  split at h
  · cases h
  · next r p' hat =>
    split at h
    · next w q' hdown =>
      cases h
      exact ⟨r, w, hat, hdown, rfl⟩
    · cases h

section
variable (h : s.sliceTurn n ix kinds tr here = some (u, q, p))
include h

theorem State.sector_lt_of_sliceTurn : p.sector < 8 := by
  obtain ⟨r, w, hat, -, -⟩ := State.of_sliceTurn h
  exact State.locate_sector_lt (State.req_of_atSlice hat).2

theorem State.req_of_sliceTurn : u.req ix = some q ∧ q.id = ix := by
  obtain ⟨r, w, hat, hdown, rfl⟩ := State.of_sliceTurn h
  obtain ⟨hreqs, hid⟩ := State.reqs_downShaft hdown
  have hr := (State.req_of_atSlice hat).1
  have hq : q.id = ix := hid.trans (State.req_id hr)
  have hw : w.req q.id = some r := by rw [State.req_of_reqs hreqs, hq, hr]
  exact ⟨hq ▸ State.req_setReq hw, hq⟩

/-- What serves the request leaves the state that `sliceLeft` completes. -/
theorem State.arriveSlice_of_sliceTurn (f : State → Req → Loc → State) :
    s.arriveSlice n ix kinds tr here f = s.sliceLeft (f u q p) n ix here q := by
  obtain ⟨r, w, hat, hdown, rfl⟩ := State.of_sliceTurn h
  have hr := (State.req_of_atSlice hat).1
  unfold State.arriveSlice State.sliceLeft
  simp only [hat, hdown, hr]

end

/-- What completes a service leaves the requests in flight. -/
theorem State.reqs_sliceLeft (x : State) : (s.sliceLeft x n ix here q).reqs = x.reqs := by
  have hserve : ∀ (a : Arbiter) (v : EvUnit) (collar lv bytes : Nat) (src : Source), (x.serve a v collar lv bytes src).reqs = x.reqs :=
    fun a v collar lv bytes _ => x.reqs_grant a v collar lv bytes
  unfold State.sliceLeft
  split
  · exact (State.reqs_startDrops _).trans (State.reqs_ite _ rfl (hserve _ _ _ _ _ _))
  · rfl

end Sys2Proof.Machine
end

section
/-! Writes and probes in their turn (R257, R258, R266, R290, R294). -/

namespace Sys2Proof.Machine

variable {s u : State} {n ix w : Nat} {tr : Transit} {here : List Nat} {dec : SliceDec} {r : Req} {p : Loc} {c : Sector}

theorem exec_sliceWrite (h : s.sliceTurn n ix [.memWrite] tr here = some (u, r, p)) :
    exec (.sliceWrite n ix tr here dec) s = .next (s.sliceLeft ((u.decodeBase n p 5 dec).doWrite n p r dec) n ix here r) :=
  congrArg Host.Outcome.next (State.arriveSlice_of_sliceTurn h _)

/-- A valid sector is ready to be changed. -/
theorem State.makeRoom_of_valid (whole : Bool) (hb : s.baseSec n p = some (w, c)) (hvalid : c.valid = true) :
    s.makeRoom n p r whole dec = (s, .ready w c) := by
  unfold State.makeRoom
  simp only [hb, hvalid, if_true]

/-- A committed write into a valid sector that nothing holds in place. -/
theorem State.doWrite_committed (hb : s.baseSec n p = some (w, c)) (hvalid : c.valid = true) (htag : c.etag = 0) (hepoch : r.epoch = 0) :
    s.doWrite n p r dec = (s.bytesIn n p w c 0 r).wrote n p r := by
  rw [State.doWrite, if_pos hepoch, State.writeCommitted, State.makeRoom_of_valid _ hb hvalid]
  exact (if_pos htag).trans (State.writeIn_eq_wrote 0)

/-- A write of an entry into a clean cached sector that nothing holds, with room for the line under the quota. -/
theorem State.writeEpoch_clean {e : Nat} (hb : s.baseSec n p = some (w, c)) (hvalid : c.valid = true) (hclean : c.dirty = false) (htag : c.etag = 0)
    (he : e ≠ 0) (hexpl : p.expl = false) (hquota : s.stateLines n p.set < s.epochQuota n) :
    s.writeEpoch n p e r dec = (s.bytesIn n p w c e r).wrote n p r := by
  unfold State.writeEpoch
  simp only [hb, htag, hexpl, State.makeRoom_of_valid _ hb hvalid, hclean, Nat.not_le.mpr hquota, Ne.symm he, and_false, if_false, if_true,
    ne_eq, not_true, Bool.false_eq_true, Bool.not_false]
  exact State.writeIn_eq_wrote e

theorem State.doWrite_entry {y : State} {e : Nat} (hentry : s.takeEntry n r.mod r.epoch = (y, some e)) (hepoch : r.epoch ≠ 0) :
    s.doWrite n p r dec = (y.drainAt n p dec).writeEpoch n p e r dec := by
  rw [State.doWrite, if_neg hepoch, hentry]

/-- A probe answers what the sector says of itself: a side-line of the line makes it unknown (log entry 25). -/
def State.probed (s : State) (n : Nat) (p : Loc) : Bool :=
  match s.baseSec n p with | some (_, c) => c.valid && c.zero && !c.side | none => false

theorem State.probed_iff : s.probed n p = true ↔ ∃ w c, s.baseSec n p = some (w, c) ∧ c.valid = true ∧ c.zero = true ∧ c.side = false := by
  unfold State.probed
  split
  · next w c hb => simp [hb, and_assoc]
  · next hb => simp [hb]

/-- A request probed is answered at once. -/
theorem exec_scentProbe (h : s.sliceTurn n ix [.probe] tr here = some (u, r, p)) :
    leads (exec (.scentProbe n ix tr here) s) fun z =>
      z.req ix = some { r with stage := .reply, zero := (u.mergeFlush n p.set p.line p.sector).probed n p, status := 0 } := by
  obtain ⟨hreq, hid⟩ := State.req_of_sliceTurn h
  subst hid
  refine ⟨_, congrArg Host.Outcome.next (State.arriveSlice_of_sliceTurn h _), ?_⟩
  dsimp only
  rw [State.req_of_reqs (State.reqs_sliceLeft _), State.when, State.req_of_reqs (State.reqs_ite _ (State.reqs_lastUse _ _ _ _) rfl)]
  exact State.req_setReq (q := { r with stage := .reply, zero := (u.mergeFlush n p.set p.line p.sector).probed n p, status := 0 })
    ((State.req_of_reqs (u.reqs_mergeFlush _ _ _ _) _).trans hreq)

end Sys2Proof.Machine
end

section
open Sys2Proof Sys2Proof.Machine

/-- Settles O20: a write in its turn comes down to `bytesIn`, which writes a whole sector word by word and takes a part of one word through the
merge buffer; a probe replaces its own request. That a side-line's sector answers unknown is the model's choice (log entry 25). -/
theorem sliceWrite : Obligations.SliceWrite := by
  unfold Obligations.SliceWrite
  intro s u n ix tr here dec r p
  refine ⟨fun hturn => ?_, fun hturn => ?_⟩
  · have hp := State.sector_lt_of_sliceTurn hturn
    have hexec := exec_sliceWrite (dec := dec) hturn
    intro v served full
    have hfull : ∀ (y : State) w c e a, y.baseSec n p = some (w, c) → c.valid = true → r.segs = [⟨a, 0, 256⟩] → r.data.length = 256 →
        full (y.bytesIn n p w c e r) w e := fun y w c e a hb hvalid hsegs hlen => by
      refine ⟨_, State.baseSec_bytesIn_whole e hp hb hsegs hlen, ?_⟩
      have hwords := fun i (hi : i < 32) =>
        And.intro (Sector.word_rewritten (c := c) p.expl e hlen hi) (Sector.mem_poison_rewritten (c := c) p.expl e hlen hi)
      rw [Sector.rewritten_frame] at hwords ⊢
      exact ⟨hvalid, rfl, rfl, rfl, rfl, hwords⟩
    refine ⟨fun w c a hb hvalid htag hepoch hsegs hlen => ?_, ?_,
      fun w c a off len hb hvalid htag hepoch hsegs hlen hpos hlt hword hoff hroom hnone => ?_⟩
    · refine ⟨_, ?_, hfull v w c 0 a hb hvalid hsegs hlen⟩
      rw [State.doWrite_committed hb hvalid htag hepoch] at hexec
      exact hexec
    · intro y0 e w c a hentry y hb hvalid hclean htag he hexpl hepoch hquota hsegs hlen
      refine ⟨_, ?_, hfull y w c e a hb hvalid hsegs hlen⟩
      rw [State.doWrite_entry hentry hepoch, State.writeEpoch_clean hb hvalid hclean htag he hexpl hquota] at hexec
      exact hexec
    · subst hlen
      refine ⟨v.bytesIn n p w c 0 r, partEnt p off r.data, ?_⟩
      rw [State.doWrite_committed hb hvalid htag hepoch] at hexec
      obtain ⟨zero, hmerge, hsec⟩ := State.bytesIn_part 0 hsegs hpos hlt hword hoff hp hb hroom hnone
      exact ⟨_, hexec, hmerge, rfl, rfl, rfl, rfl, fun k hk => partEnt_mask hk, fun k hk => partEnt_byte hword hk, hsec, hvalid, rfl, rfl,
        fun i _ => rfl⟩
  · obtain ⟨z, hz, hreq⟩ := exec_scentProbe hturn
    exact ⟨z, hz, _, hreq, rfl, rfl, rfl, State.probed_iff⟩

end

section
/-! Frames: what an act leaves alone, given by what it keeps of the state and by the register fields that it may write. -/

namespace Sys2Proof.Machine

/-- What `π` reads of the state is as before, and so is every field that shares no bit with a field of `q`. -/
def framed {α : Type} (π : State → α) (q : Fld → Prop) (s w : State) : Prop :=
  π w = π s ∧ ∀ f : Fld, f.lo + f.w ≤ 64 → (∀ g, q g → g.apart f) → w.rd f = s.rd f

section
variable {α β : Type} {π : State → α} {q : Fld → Prop} {s v w : State}

theorem framed.refl (s : State) : framed π q s s := ⟨rfl, fun _ _ _ => rfl⟩

theorem framed.trans (h : framed π q s v) (h' : framed π q v w) : framed π q s w :=
  ⟨h'.1.trans h.1, fun f hf hq => (h'.2 f hf hq).trans (h.2 f hf hq)⟩

/-- A frame holds of less, and with more fields. -/
theorem framed.mono {ρ : State → β} {r : Fld → Prop} (h : framed π q s w) (k : α → β) (hk : ∀ u, k (π u) = ρ u) (hq : ∀ g, q g → r g) :
    framed ρ r s w :=
  ⟨by rw [← hk, h.1, hk], fun f hf hr => h.2 f hf fun g hg => hr g (hq g hg)⟩

theorem framed.widen {r : Fld → Prop} (h : framed π q s w) (hq : ∀ g, q g → r g) : framed π r s w := h.mono id (fun _ => rfl) hq

/-- What a frame keeps, read through a function of it. -/
theorem framed.get (h : framed π q s w) (k : α → β) : k (π w) = k (π s) := congrArg k h.1

theorem framed.on (h : framed π q s w) {f : Fld} (hf : f.lo + f.w ≤ 64) (hq : ∀ g, q g → g.apart f) : w.on f = s.on f := by
  rw [State.on, State.on, h.2 f hf hq]

theorem framed_foldl_mem {γ : Type} {f : State → γ → State} (l : List γ) (s : State) (h : ∀ u, ∀ x ∈ l, framed π q u (f u x)) :
    framed π q s (l.foldl f s) :=
  foldl_keep_mem (P := framed π q s) (fun x hx u hu => hu.trans (h u x hx)) (.refl s)

theorem framed_foldl {γ : Type} {f : State → γ → State} (l : List γ) (s : State) (h : ∀ u x, framed π q u (f u x)) :
    framed π q s (l.foldl f s) := framed_foldl_mem l s fun u x _ => h u x

theorem framed_ite {c : Prop} [Decidable c] {a b : State} (ha : framed π q s a) (hb : framed π q s b) : framed π q s (if c then a else b) := by
  split <;> assumption

/-- A change of something other than registers. -/
theorem framed_of_regs (hπ : π w = π s) (hr : w.regs = s.regs) (hv : w.variant = s.variant) : framed π q s w :=
  ⟨hπ, fun f _ _ => by rw [State.rd, State.rd, State.reg, State.reg, hr, hv]⟩

section
variable (s) (hreg : ∀ u r, π { u with regs := r } = π u := by intros; rfl)
include hreg

theorem framed_wr (f : Fld) (v : Nat) (hf : q f) : framed π q s (s.wr f v) :=
  ⟨hreg s _, fun _ hg hq => State.rd_wr_of_apart s v hg (hq f hf)⟩

theorem framed_wrs {ws : List (Fld × Nat)} (hws : ∀ p ∈ ws, q p.1) : framed π q s (s.wrs ws) :=
  framed_foldl_mem ws s fun u p hp => framed_wr u hreg _ _ (hws p hp)

theorem framed_setReg {a : Nat} (v : W64) (ha : q ⟨a, 0, 64⟩) : framed π q s (s.setReg a v) := by
  refine ⟨hreg s _, fun f hf hq => ?_⟩
  by_cases hfa : f.addr = a
  · have hw : f.w = 0 := by have := hq _ ha; simp only [Fld.apart] at this; omega
    simp [State.rd, bf, hw, Nat.mod_one]
  · rw [State.rd, State.rd, State.reg_setReg_ne s v hfa]

theorem framed_record {valid multi : Fld} {ws : List (Fld × Nat)} (hv : q valid) (hm : q multi) (hws : ∀ p ∈ ws, q p.1) :
    framed π q s (s.record valid multi ws) := by
  unfold State.record
  exact framed_ite (framed_wr s hreg _ _ hm) ((framed_wrs s hreg hws).trans (framed_wr _ hreg _ _ hv))

end

end

/-! ## Completions, notices and records -/

/-- The state without what completions, packets and the slices' work change: registers, counters, free values, the slices and what HBM holds,
the arbiters, the links, the host's queues and memory, the fault log, and packets on their way. -/
def State.rest (s : State) : State :=
  { s with regs := [], counters := [], freeCtr := 0, slices := [], hbm := [], hbmMark := [], splits := [], acts := [], credits := [], turns := [],
           links := [], host := { s.host with queues := [], mem := [], msix := [] }, keep := { s.keep with log := [] },
           fab := { s.fab with inbox := [], resend := [], fences := [], held := [], dests := [] } }

/-- Fields that a completion or a notice writes. -/
def postFld (g : Fld) : Prop := g.addr = R.keepLogStat ∨ g.addr = R.cmdqEvtLost ∨ ∃ k, k < 16 ∧ g = F.cmdqQcfgBusy k

section
variable (s : State)

theorem framed_of_hostPosts {q : Fld → Prop} {w : State} (h : hostPosts s w) : framed State.rest q s w := by
  unfold hostPosts at h
  rw [h]
  exact framed_of_regs rfl rfl rfl

theorem framed_bump {q : Fld → Prop} (ev : Nat) (u : EvUnit) (n : Nat) : framed State.rest q s (s.bump ev u n) := framed_of_regs rfl rfl rfl

theorem framed_queueRest {q : Fld → Prop} (k : Nat) : framed State.rest q s (s.queueRest k) :=
  framed_ite (.refl s) (framed_of_regs rfl rfl rfl)

theorem framed_post {q : Fld → Prop} (k : Nat) (c : Completion) : framed State.rest q s (s.post k c) :=
  framed_ite (.refl s) (framed_ite (framed_of_hostPosts s (hostPosts_postNow s k c)) (framed_of_regs rfl rfl rfl))

theorem framed_complete (e : Entry) (status result : Nat) : framed State.rest postFld s (s.complete e status result) := by
  unfold State.complete
  split
  · exact .refl s
  · rename_i hq
    exact (((framed_of_regs rfl rfl rfl).trans (framed_wr (s.setQueue _ _) (by intros; rfl) _ _ (.inr (.inr ⟨e.sq, by omega, rfl⟩)))).trans
      (framed_post _ _ _)).trans (framed_queueRest _ _)

theorem framed_notice (kind status result : Nat) : framed State.rest postFld s (s.notice kind status result) :=
  framed_ite (.refl s) (framed_ite (framed_of_regs rfl rfl rfl)
    (framed_ite (framed_of_hostPosts s (hostPosts_postNow s _ _)) (framed_wr s (by intros; rfl) _ _ (.inr (.inl rfl)))))

theorem framed_faultLog (source cls unitKind unit action cause detail : Nat) :
    framed State.rest postFld s (s.faultLog source cls unitKind unit action cause detail) := by
  have hlog : ∀ (u : State) (f : Fld) (v : Nat), f.addr = R.keepLogStat → framed State.rest postFld u (u.wr f v) :=
    fun u f v hf => framed_wr u (by intros; rfl) f v (.inl hf)
  unfold State.faultLog
  extract_lets r idx full keep logged indexed counted scored
  have hlogged : framed State.rest postFld s logged := framed_of_regs rfl rfl rfl
  have hindexed : framed State.rest postFld s indexed := hlogged.trans (hlog logged _ _ rfl)
  have hcounted : framed State.rest postFld s counted := hindexed.trans (framed_ite (hlog indexed _ _ rfl) (hlog indexed _ _ rfl))
  have hscored : framed State.rest postFld s scored :=
    hcounted.trans (framed_ite (framed_bump _ _ _ _) (framed_ite (framed_bump _ _ _ _) (.refl _)))
  exact hscored.trans (framed_notice scored _ _ _)

end

/-! ## Packets -/

/-- Fields that sending a packet writes. -/
def sendFld (g : Fld) : Prop := ∃ l, l < 64 ∧ g = F.linkStatTxSeq l

section
variable (s : State)

theorem framed_grant {q : Fld → Prop} (a : Arbiter) (u : EvUnit) (collar lv bytes : Nat) : framed State.rest q s (s.grant a u collar lv bytes) :=
  framed_ite (framed_of_regs rfl rfl rfl) (framed_ite (framed_bump s _ _ _) (.refl s))

theorem framed_serve {q : Fld → Prop} (a : Arbiter) (u : EvUnit) (collar lv bytes : Nat) (src : Source) :
    framed State.rest q s (s.serve a u collar lv bytes src) :=
  (framed_grant s a u collar lv bytes).trans (framed_of_regs rfl rfl rfl)

theorem framed_sendFlit {l : Nat} (hl : l < 64) (f : TxFlit) : framed State.rest sendFld s (s.sendFlit l f) := by
  unfold State.sendFlit
  exact (((framed_of_regs rfl rfl rfl).trans (framed_wr (s.modLink _ _) (by intros; rfl) _ _ ⟨l, hl, rfl⟩)).trans (framed_bump _ _ _ _)).trans
    (framed_serve _ _ _ _ _ _ _)

theorem framed_pump {l : Nat} (hl : l < 64) : framed State.rest sendFld s (s.pump l) :=
  framed_ite (.refl s) (framed_foldl _ s fun u _ => by
    split
    · exact framed_sendFlit u hl _
    · exact .refl u)

theorem framed_enqueue {l : Nat} (hl : l < 64) (die : Nat) (p : Packet) : framed State.rest sendFld s (s.enqueue die l p) :=
  (framed_of_regs rfl rfl rfl).trans (framed_pump (s.modLink _ _) hl)

theorem framed_toSelf (p : Packet) : framed State.rest sendFld s (s.toSelf p) := framed_of_regs rfl rfl rfl

/-- A route leads to one of the links that a routing entry can name. -/
theorem State.routeOf_lt {die m l : Nat} (h : s.routeOf die m = some l) : l < 64 := by
  unfold State.routeOf at h
  dsimp only at h
  split at h
  · cases h; exact bf_lt _ _ _
  · split at h
    · cases h; exact bf_lt _ _ _
    · cases h

theorem framed_tryRoute (die : Nat) (p : Packet) : framed State.rest sendFld s (s.tryRoute die p).1 := by
  unfold State.tryRoute
  split
  · exact framed_toSelf s p
  split
  · exact .refl s
  split
  · split
    · exact .refl s
    · exact framed_of_regs rfl rfl rfl
  split
  · exact framed_of_regs rfl rfl rfl
  cases hr : s.routeOf die p.dst with
  | none => exact .refl s
  | some l =>
    dsimp only
    split
    · exact framed_enqueue s (s.routeOf_lt hr) die p
    · exact .refl s

theorem framed_sendVia (die : Nat) (p : Packet) : framed State.rest sendFld s (s.sendVia die p) := by
  have htry := framed_tryRoute s die p
  unfold State.sendVia
  generalize s.tryRoute die p = r at htry ⊢
  obtain ⟨u, ok⟩ := r
  dsimp only at htry ⊢
  refine framed_ite htry (framed_ite (htry.trans (framed_of_regs rfl rfl rfl)) (framed_ite htry (framed_ite ?_ ?_)))
  · exact htry.trans (framed_toSelf u _)
  · exact htry.trans (framed_tryRoute u _ _)

theorem framed_sendPkt (p : Packet) : framed State.rest sendFld s (s.sendPkt p) := framed_sendVia s _ p

theorem framed_launchPkt (p : Packet) : framed State.rest sendFld s (s.launchPkt p) := by
  unfold State.launchPkt
  dsimp only
  refine .trans ?_ (framed_sendPkt _ _)
  split
  · exact framed_of_regs rfl rfl rfl
  · exact .refl s

theorem framed_resendPacks : framed State.rest sendFld s s.resendPacks := by
  unfold State.resendPacks
  refine .trans (framed_of_regs rfl rfl rfl) (framed_foldl _ _ fun u p => ?_)
  exact framed_ite ((framed_tryRoute u _ p).trans (framed_bump _ _ _ _)) (framed_of_regs rfl rfl rfl)

theorem framed_sendDown (t : Nat) (h : PackHdr) (data : List Byte) : framed State.rest sendFld s (s.sendDown t h data) :=
  framed_foldl _ s fun u k => by
    split
    · exact framed_launchPkt u _
    · exact .refl u

theorem framed_sendMgmt {l : Nat} (hl : l < 64) (kind status : Nat) : framed State.rest sendFld s (s.sendMgmt l kind status) :=
  framed_enqueue s hl _ _

end

end Sys2Proof.Machine
end

section
/-! What links that come up or go down leave alone (R389, R393, R405, R515). -/

namespace Sys2Proof.Machine

/-- The state without what links coming up and going down change too: degraded capacities, the step of bring-up that runs, commands that
wait, and epochs in doubt. -/
def State.linkRest (s : State) : State :=
  { s.rest with caps := [], boot := { s.boot with running := false, src := none, linkPhase := 0, joinWait := [] },
                host := { s.rest.host with waits := [] }, fab := { s.rest.fab with doubt := [] } }

/-- Fields that links coming up or going down write, where the links whose states change are in `ls`. -/
def linkFld (ls : Nat → Prop) (g : Fld) : Prop :=
  postFld g ∨ sendFld g ∨ g.addr = R.keepLeashShort ∨ (∃ k, k < 128 ∧ g = F.keepLeashScaled k) ∨ g.addr = R.bootStatus ∨ g.addr = R.bootWarn ∨
    g = F.bootPartLink ∨ (∃ l, l < 64 ∧ (g.addr = R.linkErr l ∨ g.addr = R.linkCtrl l ∨ g.addr = R.linkStat l ∧ 3 ≤ g.lo)) ∨
    (∃ l, l < 64 ∧ ls l ∧ g = F.linkStatState l) ∨ 0x200000 ≤ g.addr

/-- Nothing but what links coming up or going down change differs, and only the links of `ls` change their state. -/
abbrev linkActs (ls : Nat → Prop) : State → State → Prop := framed State.linkRest (linkFld ls)

theorem linkActs.widen {ls ms : Nat → Prop} {s w : State} (h : linkActs ls s w) (hsub : ∀ l, ls l → ms l) : linkActs ms s w :=
  framed.widen h fun g hg => by
    rcases hg with hg | hg | hg | hg | hg | hg | hg | hg | ⟨l, hl, hm, hg⟩ | hg
    · exact .inl hg
    · exact .inr (.inl hg)
    · exact .inr (.inr (.inl hg))
    · exact .inr (.inr (.inr (.inl hg)))
    · exact .inr (.inr (.inr (.inr (.inl hg))))
    · exact .inr (.inr (.inr (.inr (.inr (.inl hg)))))
    · exact .inr (.inr (.inr (.inr (.inr (.inr (.inl hg))))))
    · exact .inr (.inr (.inr (.inr (.inr (.inr (.inr (.inl hg)))))))
    · exact .inr (.inr (.inr (.inr (.inr (.inr (.inr (.inr (.inl ⟨l, hl, hsub l hm, hg⟩))))))))
    · exact .inr (.inr (.inr (.inr (.inr (.inr (.inr (.inr (.inr hg))))))))

section
variable {ls : Nat → Prop} (s : State)

theorem linkActs_of_post {s w : State} (h : framed State.rest postFld s w) : linkActs ls s w := h.mono State.linkRest (fun _ => rfl) fun _ hg => .inl hg

theorem linkActs_of_send {s w : State} (h : framed State.rest sendFld s w) : linkActs ls s w :=
  h.mono State.linkRest (fun _ => rfl) fun _ hg => .inr (.inl hg)

theorem linkActs_bump (ev : Nat) (u : EvUnit) (n : Nat) : linkActs ls s (s.bump ev u n) := framed_of_regs rfl rfl rfl

theorem linkActs_wr (f : Fld) (v : Nat) (hf : linkFld ls f) : linkActs ls s (s.wr f v) := framed_wr s (by intros; rfl) f v hf

theorem linkActs_wrs {ws : List (Fld × Nat)} (hf : ∀ p ∈ ws, linkFld ls p.1) : linkActs ls s (s.wrs ws) := framed_wrs s (by intros; rfl) hf

/-- Writes of a register that is the links' own. -/
theorem linkFld_status {g : Fld} (h : g.addr = R.keepLeashShort ∨ g.addr = R.bootStatus ∨ g.addr = R.bootWarn) : linkFld ls g := by
  rcases h with h | h | h
  · exact .inr (.inr (.inl h))
  · exact .inr (.inr (.inr (.inr (.inl h))))
  · exact .inr (.inr (.inr (.inr (.inr (.inl h)))))

theorem linkFld_page {g : Fld} {l : Nat} (hl : l < 64) (h : g.addr = R.linkErr l ∨ g.addr = R.linkCtrl l ∨ g.addr = R.linkStat l ∧ 3 ≤ g.lo) :
    linkFld ls g := .inr (.inr (.inr (.inr (.inr (.inr (.inr (.inl ⟨l, hl, h⟩)))))))

theorem linkFld_high {g : Fld} (h : 0x200000 ≤ g.addr) : linkFld ls g := .inr (.inr (.inr (.inr (.inr (.inr (.inr (.inr (.inr h))))))))

theorem linkFld_state {l : Nat} (hl : l < 64) (h : ls l) : linkFld ls (F.linkStatState l) :=
  .inr (.inr (.inr (.inr (.inr (.inr (.inr (.inr (.inl ⟨l, hl, h, rfl⟩))))))))

/-! ## Commands that end, and leashes -/

theorem linkActs_finish (p : Wait → Bool) (status result : Nat) : linkActs ls s (s.finish p status result) :=
  (framed_of_regs rfl rfl rfl).trans (framed_foldl _ _ fun u w => linkActs_of_post (framed_complete u w.e status result))

theorem linkActs_leashScaled {cls : Nat} (hcls : cls < 8) : linkActs ls s (s.leashScaled cls) :=
  framed_foldl_mem _ s fun u k hk => linkActs_wr u _ _ (by
    rw [List.mem_range] at hk
    exact .inr (.inr (.inr (.inl ⟨8 * (k + 2) + cls, by omega, rfl⟩))))

theorem linkActs_shortfall (cls dir inst count cap : Nat) : linkActs ls s (s.shortfall cls dir inst count cap) := by
  unfold State.shortfall
  extract_lets cuts mask noted
  have hnoted : linkActs ls s noted := (linkActs_bump s _ _ _).trans (framed_record _ (by intros; rfl) (linkFld_status (.inl rfl)) (linkFld_status (.inl rfl))
    fun p hp => linkFld_status (.inl (by simp only [List.mem_cons, List.not_mem_nil, or_false] at hp; obtain rfl | rfl | rfl | rfl | rfl | rfl := hp <;> rfl)))
  exact framed_ite (.refl s) (hnoted.trans (linkActs_of_post (framed_notice noted _ _ _)))

theorem linkActs_setCaps {cls : Nat} (hcls : cls < 8) (insts : List (Nat × Nat)) (cap : Nat) : linkActs ls s (s.setCaps cls insts cap) := by
  unfold State.setCaps
  extract_lets v hit
  cases hit with
  | nil => exact .refl s
  | cons i is =>
    refine .trans (.trans ?_ (linkActs_leashScaled _ hcls)) (linkActs_shortfall _ _ _ _ _ _)
    exact framed_of_regs rfl rfl rfl

/-! ## Routes that change -/

theorem linkActs_inDoubt (p : Packet) : linkActs ls s (s.inDoubt p) := by
  unfold State.inDoubt
  extract_lets t
  have ht : linkActs ls s t := framed_ite (linkActs_bump s _ _ _) (.refl s)
  refine ht.trans (framed_ite (framed_of_regs rfl rfl rfl) (framed_ite (.refl t) (framed_ite (linkActs_of_send (framed_launchPkt t _)) (framed_ite ?_ ?_))))
  · exact linkActs_of_send (framed_toSelf t _)
  · refine .trans ?_ (linkActs_of_send (framed_toSelf _ _))
    exact framed_of_regs rfl rfl rfl

theorem linkActs_fenceDest (l key : Nat) : linkActs ls s (s.fenceDest l key) := by
  unfold State.fenceDest
  extract_lets die d x ps cut sent held
  have hsend : ∀ (u : State) (qs : List Packet), linkActs ls u (qs.foldl (fun s p => s.sendVia die p) u) :=
    fun u qs => framed_foldl _ u fun v p => linkActs_of_send (framed_sendVia v die p)
  have hcut : linkActs ls s cut := framed_of_regs rfl rfl rfl
  refine (hcut.trans (hsend cut _)).trans (framed_ite (.trans ?_ (framed_of_regs rfl rfl rfl)) (hsend sent _))
  exact linkActs_wr sent _ _ (linkFld_high (by simp only [routeFld, R.portRoute]; omega))

theorem linkActs_fenceLink (l : Nat) : linkActs ls s (s.fenceLink l) :=
  framed_foldl _ s fun u k => framed_ite (.refl u) (linkActs_fenceDest u l k)

theorem linkActs_onAlt (die m : Nat) : linkActs ls s (s.onAlt die m) :=
  linkActs_wr s _ _ (linkFld_high (by simp only [routeFld, R.portRoute]; omega))

theorem linkActs_rerouted : linkActs ls s s.rerouted := by
  unfold State.rerouted
  extract_lets fenced
  have hfenced : linkActs ls s fenced := framed_foldl _ s fun u l => linkActs_fenceLink u l
  refine .trans (hfenced.trans ?_) (linkActs_of_send (framed_resendPacks _))
  exact framed_foldl _ fenced fun u m => linkActs_onAlt u m.1 m.2

/-! ## The step of bring-up that waits for links -/

theorem linkActs_stepEnd (result : Nat) : linkActs ls s (s.stepEnd result) := by
  have hstat : ∀ (u : State) (ws : List (Fld × Nat)), (∀ p ∈ ws, p.1.addr = R.bootStatus) → linkActs ls u (u.wrs ws) :=
    fun u ws h => linkActs_wrs u fun p hp => linkFld_status (.inr (.inl (h p hp)))
  unfold State.stepEnd
  extract_lets k src t u boot v
  have ht : linkActs ls s t := hstat s _ (by simp [F.bootStatusState, F.bootStatusResult])
  have hu : linkActs ls t u := framed_ite (.refl t) (hstat t _ (by simp [F.bootStatusDoneUpto, F.bootStatusDoneValid, F.bootStatusReady]))
  have hv : linkActs ls s v := (ht.trans hu).trans (framed_of_regs rfl rfl rfl)
  clear_value v src
  split
  · exact hv.trans (linkActs_of_post (framed_complete v _ _ _))
  · exact hv

theorem linkActs_trainEnd : linkActs ls s s.trainEnd := by
  unfold State.trainEnd
  extract_lets all down narrow t u
  have ht : linkActs ls s t := framed_ite (linkActs_wr s _ _ (linkFld_status (.inr (.inr rfl)))) (.refl s)
  have hu : linkActs ls t u := framed_ite (linkActs_wr t _ _ (linkFld_status (.inr (.inr rfl)))) (.refl t)
  exact (ht.trans hu).trans (linkActs_stepEnd u _)

theorem linkActs_joinEnd : linkActs ls s s.joinEnd := by
  unfold State.joinEnd
  extract_lets ws boot t
  have ht : linkActs ls s t := framed_of_regs rfl rfl rfl
  exact framed_ite (ht.trans (linkActs_stepEnd t 1)) ht

theorem linkActs_linksSettled : linkActs ls s s.linksSettled := by
  unfold State.linksSettled
  extract_lets all boot u
  have hu : linkActs ls s u := framed_ite (((framed_of_regs rfl rfl rfl).trans (linkActs_wr { s with boot := { s.boot with linkPhase := 0 } } _ _
    (.inr (.inr (.inr (.inr (.inr (.inr (.inl rfl))))))))).trans (linkActs_finish _ _ _ _)) (.refl s)
  exact hu.trans (framed_ite (.refl u) (framed_ite (linkActs_trainEnd u) (framed_ite (linkActs_joinEnd u) (.refl u))))

/-! ## A link that stops -/

theorem linkActs_linkErr {l : Nat} (hl : l < 64) (kind seq lanes : Nat) : linkActs ls s (s.linkErr l kind seq lanes) :=
  framed_record s (by intros; rfl) (linkFld_page hl (.inl rfl)) (linkFld_page hl (.inl rfl)) fun p hp =>
    linkFld_page hl (.inl (by simp only [List.mem_cons, List.not_mem_nil, or_false] at hp; obtain rfl | rfl | rfl | rfl := hp <;> rfl))

/-- The writes with which a link stops. -/
def stopWrites (l st : Nat) : List (Fld × Nat) := [(F.linkStatState l, st), (F.linkStatWidth l, 0), (F.linkStatLanesGood l, 0)]

/-- Once its status is written, a link that stops changes the state of no link. -/
theorem linkActs_linkStop_after {l : Nat} (hl : l < 64) (st : Nat) : linkActs (fun _ => False) (s.wrs (stopWrites l st)) (s.linkStop l st) := by
  unfold State.linkStop stopWrites
  extract_lets x cut lost lost' written emptied routed seqOf doubted resent logged
  have hemptied : linkActs (fun _ => False) written emptied := framed_of_regs rfl rfl rfl
  have hrouted : linkActs (fun _ => False) written routed := hemptied.trans (linkActs_rerouted emptied)
  have hdoubted : linkActs (fun _ => False) routed doubted := framed_foldl _ routed fun u p =>
    (framed_ite (linkActs_linkErr u hl _ _ _) (.refl u)).trans (linkActs_inDoubt _ p)
  have hlogged : linkActs (fun _ => False) doubted logged :=
    (linkActs_of_send (framed_resendPacks doubted)).trans (framed_ite (.refl _) (linkActs_of_post (framed_faultLog _ _ _ _ _ _ _ _)))
  refine .trans (.trans (.trans ?_ (linkActs_of_post (framed_notice _ _ _ _))) (linkActs_finish _ _ _ _)) (linkActs_linksSettled _)
  exact ((hrouted.trans hdoubted).trans hlogged).trans (linkActs_setCaps (cls := lLINK) logged (by decide) [(0, l)] 0)

theorem linkActs_stopWrites {l : Nat} (hl : l < 64) (st : Nat) : linkActs (· = l) s (s.wrs (stopWrites l st)) :=
  linkActs_wrs s fun p hp => by
    simp only [stopWrites, List.mem_cons, List.not_mem_nil, or_false] at hp
    obtain rfl | rfl | rfl := hp
    · exact linkFld_state hl rfl
    · exact linkFld_page hl (.inr (.inr ⟨rfl, by simp [F.linkStatWidth]⟩))
    · exact linkFld_page hl (.inr (.inr ⟨rfl, by simp [F.linkStatLanesGood]⟩))

theorem linkActs_linkStop {l : Nat} (hl : l < 64) (st : Nat) : linkActs (· = l) s (s.linkStop l st) :=
  (linkActs_stopWrites s hl st).trans ((linkActs_linkStop_after s hl st).widen fun _ h => h.elim)

end

/-- The state of a link outside `ls` stands. -/
theorem linkActs.state {ls : Nat → Prop} {s w : State} (h : linkActs ls s w) {l : Nat} (hl : l < 64) (hls : ¬ ls l) :
    w.rd (F.linkStatState l) = s.rd (F.linkStatState l) := by
  refine h.2 _ (by simp [F.linkStatState]) fun g hg => ?_
  rcases hg with (hg | hg | ⟨k, hk, rfl⟩) | ⟨k, hk, rfl⟩ | hg | ⟨k, hk, rfl⟩ | hg | hg | rfl | ⟨k, hk, hg | hg | ⟨hg, hlo⟩⟩ | ⟨k, hk, hm, rfl⟩ | hg
  case inr.inr.inr.inr.inr.inr.inr.inr.inl =>
    have : l ≠ k := fun h => hls (h ▸ hm)
    simp only [Fld.apart, F.linkStatState, R.linkStat]; omega
  all_goals
    simp only [Fld.apart, F.linkStatState, F.linkStatTxSeq, F.keepLeashScaled, F.cmdqQcfgBusy, F.bootPartLink, R.linkStat, R.keepLogStat, R.cmdqEvtLost,
      R.cmdqQcfg, R.keepLeash, R.keepLeashShort, R.bootStatus, R.bootWarn, R.bootPart, R.linkErr, R.linkCtrl] at *
    omega

section
variable (s : State) {l : Nat} (hl : l < 64)
include hl

/-- A link that stops shows the state in which it stops. -/
theorem State.state_linkStop {st : Nat} (hst : st < 8) : (s.linkStop l st).rd (F.linkStatState l) = st := by
  rw [(linkActs_linkStop_after s hl st).state hl id]
  have hfit : (F.linkStatState l).lo + (F.linkStatState l).w ≤ 64 := by simp [F.linkStatState]
  have h := State.rd_wrs_of_mem (stopWrites l st) s (p := (F.linkStatState l, st))
    (by simp [stopWrites, F.linkStatState, F.linkStatWidth, F.linkStatLanesGood])
    (by simp [stopWrites, Fld.apart, F.linkStatState, F.linkStatWidth, F.linkStatLanesGood]) List.mem_cons_self
  rw [h]
  exact Nat.mod_eq_of_lt (by simpa [F.linkStatState] using hst)

theorem linkActs_linkToDown : linkActs (· = l) s (s.linkToDown l) :=
  ((linkActs_linkStop s hl lkDown).trans (linkActs_bump _ _ _ _)).trans (linkActs_of_post (framed_faultLog _ _ _ _ _ _ _ _))

theorem State.state_linkToDown : (s.linkToDown l).rd (F.linkStatState l) = lkDown := by
  have hlog : linkActs (fun _ => False) (s.linkStop l lkDown) (s.linkToDown l) :=
    (linkActs_bump _ _ _ _).trans (linkActs_of_post (framed_faultLog _ _ _ _ _ _ _ _))
  rw [hlog.state hl id, s.state_linkStop hl (by decide)]

theorem linkActs_dropLink : linkActs (· = l) s (s.dropLink l) := framed_ite (.refl s) (linkActs_linkToDown s hl)

/-- A dropped link is Down, or it was Disabled. -/
theorem State.state_dropLink : (s.dropLink l).rd (F.linkStatState l) ≤ lkDown := by
  unfold State.dropLink
  dsimp only
  split
  · rename_i h
    rcases h with h | h <;> simp [h, lkDisabled, lkDown]
  · exact (s.state_linkToDown hl).le

theorem linkActs_disableLink : linkActs (· = l) s (s.disableLink l) := by
  have hwr : linkActs (· = l) s (s.wr (F.linkCtrlEnable l) 0) := linkActs_wr s _ _ (linkFld_page hl (.inr (.inl rfl)))
  exact hwr.trans (framed_ite (.refl _) (linkActs_linkStop _ hl _))

end

end Sys2Proof.Machine
end

section
/-! What a tile that stops, a discard and a Module-fatal fault leave alone (R129, R308, R508, R518). -/

namespace Sys2Proof.Machine

/-! ## Tiles and their engines -/

/-- The state without what tiles that stop change too: tiles, requests and those packets that answer them. -/
def State.tileRest (s : State) : State := { s.rest with tiles := [], reqs := [], fab := { s.rest.fab with awaits := [] } }

/-- Registers of the tiles' pages. -/
def tileFld (g : Fld) : Prop := 0xC00000 ≤ g.addr

/-- Nothing but what tiles that stop change differs. -/
abbrev tileActs : State → State → Prop := framed State.tileRest tileFld

section
variable (s : State) (t : Nat)

theorem tileActs_of_confined {t : Nat} {s w : State} (h : confined t (0xC00000 ≤ ·) s w) : tileActs s w := by
  obtain ⟨hw, -, hreg⟩ := h
  refine ⟨by rw [hw]; rfl, fun f hf hq => ?_⟩
  by_cases ha : 0xC00000 ≤ f.addr
  · have hw : f.w = 0 := by have := hq ⟨f.addr, 0, 64⟩ ha; simp only [Fld.apart] at this; omega
    simp [State.rd, bf, hw, Nat.mod_one]
  · rw [State.rd, State.rd, hreg _ ha]

theorem tileActs_of_ownOnly {t : Nat} {s w : State} (h : ownOnly t s w) : tileActs s w :=
  tileActs_of_confined ⟨h.1, h.2.1, fun a ha => h.2.2 a fun hp => ha (by simp only [pageReg, R.tileCtrl] at hp; omega)⟩

theorem tileActs_modTile (f : TileSt → TileSt) : tileActs s (s.modTile t f) := framed_of_regs rfl rfl rfl

theorem tileActs_setReg {a : Nat} (v : W64) (ha : 0xC00000 ≤ a) : tileActs s (s.setReg a v) := framed_setReg s (by intros; rfl) v ha

theorem tileActs_bump (ev : Nat) (u : EvUnit) (n : Nat) : tileActs s (s.bump ev u n) := framed_of_regs rfl rfl rfl

theorem tileActs_tryEndChain (n : Nat) : tileActs s (s.tryEndChain t n) := by
  have hend : tileActs s (s.endChain t n).1 :=
    tileActs_of_confined (confined_endChain s t (by simp only [R.tileSpdErr]; omega) (by simp only [R.tileFeLast]; omega))
  unfold State.tryEndChain
  split
  · exact .refl s
  · exact framed_ite ((hend.trans (tileActs_modTile _ t _)).trans (tileActs_of_ownOnly (ownOnly_tileFault _ t _ _ _))) hend

theorem tileActs_spdWrite (a : Nat) (bs : List PB) (owner serial : Nat) (errs : List SpdErr) :
    tileActs s (s.spdWrite t a bs owner serial errs) := tileActs_of_ownOnly (ownOnly_spdWrite s t a bs owner serial errs)

theorem tileActs_landRuns (n serial : Nat) (rs : List (Int × List PB)) (errs : List SpdErr) : tileActs s (s.landRuns t n serial rs errs) :=
  framed_foldl _ s fun u _ => tileActs_spdWrite u t _ _ _ _ _

theorem tileActs_landDesc (n : Nat) (c : Chain) (ds : DescSt) (errs : List SpdErr) : tileActs s (s.landDesc t n c ds errs) := by
  unfold State.landDesc
  extract_lets d runs x landed sided
  have hlanded : tileActs s landed := tileActs_landRuns s t _ _ _ _
  have hsided : tileActs landed sided := framed_ite (.refl _) (tileActs_spdWrite _ t _ _ _ _ _)
  exact framed_ite (tileActs_landRuns s t _ _ _ _) (framed_ite (.refl s) ((hlanded.trans hsided).trans (tileActs_modTile _ t _)))

theorem tileActs_finishDesc (n idx : Nat) (errs : List SpdErr) : tileActs s (s.finishDesc t n idx errs) := by
  unfold State.finishDesc
  split
  · exact .refl s
  rename_i c _
  split
  · exact .refl s
  rename_i ds _
  extract_lets landed scented kept
  have hlanded : tileActs s landed := framed_ite (tileActs_landDesc s t _ _ _ _) (.refl s)
  have hscented : tileActs landed scented := framed_ite (tileActs_modTile _ t _) (.refl _)
  have hkept : tileActs scented kept := tileActs_modTile _ t _
  exact framed_ite (((hlanded.trans hscented).trans hkept).trans (tileActs_tryEndChain _ t _)) (.refl s)

theorem tileActs_finishDescs (n : Nat) (errs : List SpdErr) : tileActs s (s.finishDescs t n errs) := by
  unfold State.finishDescs
  split
  · exact framed_foldl _ s fun u i => tileActs_finishDesc u t n i errs
  · exact .refl s

theorem tileActs_dropUnsent (n serial : Nat) : tileActs s (s.dropUnsent t n serial) := framed_of_regs rfl rfl rfl

theorem tileActs_stopEngines : tileActs s (s.stopEngines t) := by
  unfold State.stopEngines
  refine (tileActs_modTile s t _).trans (framed_foldl _ _ fun u n => ?_)
  split
  · exact ((tileActs_dropUnsent u t n _).trans (tileActs_finishDescs _ t n [])).trans (tileActs_tryEndChain _ t n)
  · exact .refl u

theorem tileActs_deliver (r : Req) (n : Nat) (errs : List SpdErr) : tileActs s (s.deliver r t n errs) := by
  unfold State.deliver
  extract_lets dropped
  have hdropped : tileActs s dropped := framed_of_regs rfl rfl rfl
  split
  · exact hdropped
  split
  · exact hdropped
  rename_i pois bytes got poisoned refused _ c _ _
  have hgot : tileActs dropped got := tileActs_modTile _ t _
  have hpoisoned : tileActs got poisoned := framed_ite (tileActs_bump _ _ _ _) (.refl _)
  have hrefused : tileActs poisoned refused := framed_ite (tileActs_bump _ _ _ _) (.refl _)
  refine (((hdropped.trans hgot).trans hpoisoned).trans hrefused).trans (framed_ite ?_ (tileActs_finishDesc _ t n _ errs))
  exact (tileActs_dropUnsent _ t n _).trans (tileActs_finishDescs _ t n errs)

theorem tileActs_giveUpLost : tileActs s s.giveUpLost := by
  unfold State.giveUpLost
  refine framed_foldl _ s fun u r => ?_
  split
  · exact tileActs_deliver u _ _ _ _
  · exact .refl u

theorem tileActs_tileStop : tileActs s (s.tileStop t) := by
  have hwr : ∀ (u : State) (f : Fld) (v : Nat), 0xC00000 ≤ f.addr → tileActs u (u.wr f v) := fun u f v hf => framed_wr u (by intros; rfl) f v hf
  unfold State.tileStop
  exact (hwr s _ _ (by simp only [F.tileCtrlRun, R.tileCtrl]; omega)).trans
    (framed_ite (hwr _ _ _ (by simp only [F.tileStatState, R.tileStat]; omega)) (.refl _))

theorem tileActs_tileClear : tileActs s (s.tileClear t) := by
  unfold State.tileClear
  refine .trans (.trans (.trans (v := s.gatherAll t []) ?_ (tileActs_modTile _ t _)) (framed_foldl_mem _ _ fun u a ha => tileActs_setReg u _ ?_))
    (framed_of_regs rfl rfl rfl)
  · exact tileActs_of_ownOnly (confined_foldl (fun u _ => confined_gatherFlush u (pageReg_tileSpdErr t) _ _) _ s)
  · simp only [List.mem_cons, List.not_mem_nil, or_false] at ha
    obtain rfl | rfl | rfl | rfl | rfl := ha <;> simp only [R.tileCtrl, R.tileStat, R.tileCycles, R.tileFpFlags, R.tileSrState] <;> omega

/-! ## The discard of a pass, and the end of a job -/

/-- The state without what the end of a pass or a job changes too: the pass, its Signals, and commands that wait. -/
def State.failRest (s : State) : State :=
  { s.tileRest with pass := none, heldSigs := [], host := { s.tileRest.host with waits := [] } }

/-- Fields that the end of a pass or a job writes. -/
def failFld (g : Fld) : Prop :=
  postFld g ∨ tileFld g ∨ g = F.keepPassStatState ∨ g = F.keepFaultStatJobFatal ∨ g = F.keepFaultStatFatalCause

/-- Nothing but what the end of a pass or a job changes differs. -/
abbrev failActs : State → State → Prop := framed State.failRest failFld

theorem failActs_of_post {s w : State} (h : framed State.rest postFld s w) : failActs s w := h.mono State.failRest (fun _ => rfl) fun _ hg => .inl hg

theorem failActs_of_tile {s w : State} (h : tileActs s w) : failActs s w := h.mono State.failRest (fun _ => rfl) fun _ hg => .inr (.inl hg)

theorem failActs_wr (f : Fld) (v : Nat) (hf : f = F.keepPassStatState ∨ f = F.keepFaultStatJobFatal ∨ f = F.keepFaultStatFatalCause) :
    failActs s (s.wr f v) := framed_wr s (by intros; rfl) f v (.inr (.inr hf))

/-- What a discard does once its step is marked: tiles stop, and their engines. -/
theorem tileActs_beginDiscard :
    tileActs ((s.wr F.keepPassStatState psDISCARDING).modPass fun p => { p with step := 1, late := p.late || p.arrived }) s.beginDiscard := by
  unfold State.beginDiscard
  extract_lets marked stepped
  exact (framed_foldl _ stepped fun u t => (tileActs_tileStop u t).trans (tileActs_stopEngines _ t)).trans (tileActs_giveUpLost _)

theorem failActs_beginDiscard : failActs s s.beginDiscard := by
  refine .trans ?_ (failActs_of_tile (tileActs_beginDiscard s))
  exact (failActs_wr s _ _ (.inl rfl)).trans (framed_of_regs rfl rfl rfl)

theorem failActs_finish (p : Wait → Bool) (status result : Nat) : failActs s (s.finish p status result) :=
  (framed_of_regs rfl rfl rfl).trans (framed_foldl _ _ fun u w => failActs_of_post (framed_complete u w.e status result))

theorem failActs_dropPass (status result : Nat) : failActs s (s.dropPass status result) := by
  unfold State.dropPass
  split
  · exact failActs_finish s _ _ _
  rename_i p _
  extract_lets dropped launched ended
  have hdropped : failActs s dropped := framed_of_regs rfl rfl rfl
  have hlaunched : failActs dropped launched := framed_ite (.refl _) (failActs_of_post (framed_complete _ _ _ _))
  have hended : failActs launched ended := by
    unfold ended
    split
    · exact failActs_of_post (framed_complete _ _ _ _)
    · exact .refl _
  exact ((hdropped.trans hlaunched).trans hended).trans (failActs_finish _ _ _ _)

theorem failActs_fatalJob (cause : Nat) : failActs s (s.fatalJob cause) := by
  unfold State.fatalJob
  extract_lets marked
  have hmarked : failActs s marked := framed_ite ((failActs_wr s _ _ (.inr (.inl rfl))).trans (failActs_wr _ _ _ (.inr (.inr rfl)))) (.refl s)
  exact (hmarked.trans (failActs_dropPass _ _ _)).trans (failActs_wr _ _ _ (.inl rfl))

theorem failActs_failPass (cause : Nat) : failActs s (s.failPass cause) := by
  unfold State.failPass
  split
  · exact framed_ite (failActs_fatalJob s cause) (.refl s)
  · extract_lets marked
    have hmarked : failActs s marked := framed_of_regs rfl rfl rfl
    exact hmarked.trans (framed_ite (framed_of_regs rfl rfl rfl) (framed_ite (.refl _) (failActs_beginDiscard _)))

end

end Sys2Proof.Machine
end

section
/-! Bays, idle states, cages and what stacks report (R333, R334, R576 to R579, R677). -/

namespace Sys2Proof.Machine

/-- A change of the power state and an event counted. -/
theorem State.bump_modPower (s : State) (f : PowerSt → PowerSt) (ev : Nat) (u : EvUnit) (n : Nat) :
    ∃ cs, (s.modPower f).bump ev u n = { s with counters := cs, power := f s.power } := ⟨_, rfl⟩

/-! ## Bays (R576, R577) -/

section
variable (s : State) {d b : Nat}

/-- What is written of a die's register of bays stays there. -/
theorem onlyRegs_bay {ws : List (Fld × Nat)} (hws : ∀ p ∈ ws, p.1.addr = R.pwrmBay d) : onlyRegs s (s.wrs ws) [R.pwrmBay d] := by
  obtain ⟨hw, hreg⟩ := s.wrs_only ws
  refine ⟨hw, fun a ha => hreg a fun hm => ha ?_⟩
  obtain ⟨p, hp, rfl⟩ := List.mem_map.mp hm
  exact List.mem_singleton.mpr (hws p hp)

theorem State.bayGated_setGated (g : Bool) {k : Nat} (hk : k < 20) : (s.setGated (d, b) g).bayGated (d, k) = if k = b then g else s.bayGated (d, k) := by
  simp only [State.bayGated, State.setGated, bit_eq_testBit, State.rd_wr_same s (F.pwrmBayGated d) _ (by simp [F.pwrmBayGated]), Nat.testBit_mod_two_pow,
    bfSet_testBit]
  by_cases h : k = b
  · subst h
    cases g <;> simp [F.pwrmBayGated, hk, b2n]
  · rw [if_neg (by omega), if_neg h]
    simp [F.pwrmBayGated, hk]

theorem onlyRegs_setGated (g : Bool) : onlyRegs s (s.setGated (d, b) g) [R.pwrmBay d] :=
  onlyRegs_bay s (ws := [(F.pwrmBayGated d, bfSet (s.rd (F.pwrmBayGated d)) b 1 (b2n g))]) (by simp [F.pwrmBayGated])

/-- What a list of writes of one die's register of bays leaves of a field: what it writes there, or what stood there. -/
theorem State.rd_bay_wrs {ws : List (Fld × Nat)} (hfit : ∀ p ∈ ws, p.1.lo + p.1.w ≤ 64) (hap : ws.Pairwise fun p q => p.1.apart q.1) :
    (∀ f v, (f, v) ∈ ws → v < 2 ^ f.w → (s.wrs ws).rd f = v) ∧ ∀ f, f.lo + f.w ≤ 64 → (∀ p ∈ ws, p.1.apart f) → (s.wrs ws).rd f = s.rd f :=
  ⟨fun _ _ hm hv => (State.rd_wrs_of_mem ws s hfit hap hm).trans (Nat.mod_eq_of_lt hv), fun _ hf h => State.rd_wrs_of_apart hf ws s h⟩

variable (hd : d < 8) (hb : b < 20)
include hd hb

theorem bayIdleGate_facts (hg : s.bayGated (d, b) = false) (hu : (d, b) ∉ s.power.upping) :
    let may := s.bayTiles (d, b) = [] ∨ ((∀ t ∈ s.bayTiles (d, b), s.rd (F.tileStatState t) = stIdle ∨ s.rd (F.tileStatState t) = stDone) ∧
      s.rd F.pwrmBayCfgIdleUs ≠ 0)
    (may → leads (exec (.bayIdleGate d b) s) fun z => onlyRegs s z [R.pwrmBay d] ∧
      ∀ k, k < 20 → z.bayGated (d, k) = (s.bayGated (d, k) || decide (k = b))) ∧
    (¬ may → leads (exec (.bayIdleGate d b) s) fun z => z = s) := by
  have hexec : exec (.bayIdleGate d b) s = execBayIdleGate d b s := rfl
  intro may
  have hmay : ((s.bayTiles (d, b)).isEmpty = true ∨ ((s.bayTiles (d, b)).all (fun t => decide (s.rd (F.tileStatState t) = stIdle) ||
      decide (s.rd (F.tileStatState t) = stDone)) = true ∧ s.rd F.pwrmBayCfgIdleUs ≠ 0)) ↔ may := by
    simp [may, List.isEmpty_iff]
  rw [hexec, execBayIdleGate, if_neg (by simp [hg, hu]; omega)]
  dsimp only
  constructor
  · intro h
    rw [if_pos (hmay.mpr h)]
    refine leads_next ⟨onlyRegs_setGated s true, fun k hk => ?_⟩
    rw [s.bayGated_setGated true hk]
    by_cases h : k = b <;> simp [h]
  · intro h
    rw [if_neg (mt hmay.mp h)]
    exact leads_next rfl

theorem bayPowerUpTest_facts (slope : Int) (ht : s.bayTurn d = some b) (hbusy : s.on (F.pwrmBayUpBusy d) = true → s.on (F.pwrmBayDeferred d) = true) :
    leads (exec (.bayPowerUpTest d b slope) s) fun z => onlyRegs { s with counters := z.counters } z [R.pwrmBay d] ∧
      z.on (F.pwrmBayUpBusy d) = true ∧ z.rd (F.pwrmBayBayUp d) = b ∧ z.on (F.pwrmBayDeferred d) = decide (24 < slope) ∧
      z.rd (F.pwrmBayGated d) = s.rd (F.pwrmBayGated d) := by
  have hexec : exec (.bayPowerUpTest d b slope) s = execBayPowerUpTest d b slope s := rfl
  have hlt : b < 2 ^ (F.pwrmBayBayUp d).w := by simp only [F.pwrmBayBayUp]; omega
  have hgo : ¬(8 ≤ d ∨ s.bayTurn d ≠ some b ∨ (s.on (F.pwrmBayUpBusy d) = true ∧ (!s.on (F.pwrmBayDeferred d)) = true)) := by
    rw [ht]
    simp only [ne_eq, not_true_eq_false, false_or, not_or, not_and]
    exact ⟨by omega, fun h => by simp [hbusy h]⟩
  rw [hexec, execBayPowerUpTest, if_neg hgo]
  by_cases h : 16 + slope ≤ 40
  · rw [if_pos h]
    refine leads_next ⟨onlyRegs_bay s (by simp [F.pwrmBayUpBusy, F.pwrmBayBayUp, F.pwrmBayDeferred, F.pwrmBayHalfRate]), ?_⟩
    obtain ⟨hin, hout⟩ := s.rd_bay_wrs (ws := [(F.pwrmBayUpBusy d, 1), (F.pwrmBayBayUp d, b), (F.pwrmBayDeferred d, 0), (F.pwrmBayHalfRate d, 0)])
      (by simp [F.pwrmBayUpBusy, F.pwrmBayBayUp, F.pwrmBayDeferred, F.pwrmBayHalfRate])
      (by simp [Fld.apart, F.pwrmBayUpBusy, F.pwrmBayBayUp, F.pwrmBayDeferred, F.pwrmBayHalfRate])
    rw [decide_eq_false (by omega : ¬24 < slope), State.on, State.on, hin (F.pwrmBayUpBusy d) 1 (by simp) Nat.one_lt_two,
      hin (F.pwrmBayDeferred d) 0 (by simp) Nat.zero_lt_two]
    refine ⟨rfl, hin _ b (by simp) hlt, rfl, hout _ (by simp [F.pwrmBayGated]) ?_⟩
    simp [Fld.apart, F.pwrmBayUpBusy, F.pwrmBayBayUp, F.pwrmBayDeferred, F.pwrmBayHalfRate, F.pwrmBayGated]
  · rw [if_neg h]
    extract_lets u
    have hu : u = { s with counters := u.counters } := by unfold u; split <;> rfl
    have hg : u.rd (F.pwrmBayGated d) = s.rd (F.pwrmBayGated d) := by rw [hu]; rfl
    clear_value u
    have hregs := onlyRegs_bay (d := d) u (ws := [(F.pwrmBayUpBusy d, 1), (F.pwrmBayBayUp d, b), (F.pwrmBayDeferred d, 1)])
      (by simp [F.pwrmBayUpBusy, F.pwrmBayBayUp, F.pwrmBayDeferred])
    refine leads_next ⟨?_, ?_⟩
    · have hc : u = { s with counters := (u.wrs [(F.pwrmBayUpBusy d, 1), (F.pwrmBayBayUp d, b), (F.pwrmBayDeferred d, 1)]).counters } := by
        rw [hregs.1]; exact hu
      exact hc ▸ hregs
    · obtain ⟨hin, hout⟩ := u.rd_bay_wrs (ws := [(F.pwrmBayUpBusy d, 1), (F.pwrmBayBayUp d, b), (F.pwrmBayDeferred d, 1)])
        (by simp [F.pwrmBayUpBusy, F.pwrmBayBayUp, F.pwrmBayDeferred]) (by simp [Fld.apart, F.pwrmBayUpBusy, F.pwrmBayBayUp, F.pwrmBayDeferred])
      rw [decide_eq_true (by omega : 24 < slope), State.on, State.on, hin (F.pwrmBayUpBusy d) 1 (by simp) Nat.one_lt_two,
        hin (F.pwrmBayDeferred d) 1 (by simp) Nat.one_lt_two]
      refine ⟨rfl, hin _ b (by simp) hlt, rfl, (hout _ (by simp [F.pwrmBayGated]) ?_).trans hg⟩
      simp [Fld.apart, F.pwrmBayUpBusy, F.pwrmBayBayUp, F.pwrmBayDeferred, F.pwrmBayGated]

omit hb in
theorem bayHalfRateStart_facts (hdef : s.on (F.pwrmBayDeferred d) = true) (hup : s.rd (F.pwrmBayBayUp d) = b) :
    leads (exec (.bayHalfRateStart d b) s) fun z => onlyRegs s z [R.pwrmBay d] ∧
      z.on (F.pwrmBayDeferred d) = false ∧ z.on (F.pwrmBayHalfRate d) = true ∧ z.rd (F.pwrmBayGated d) = s.rd (F.pwrmBayGated d) := by
  have hexec : exec (.bayHalfRateStart d b) s = execBayHalfRateStart d b s := rfl
  rw [hexec, execBayHalfRateStart, if_pos ⟨hd, hdef, hup⟩]
  refine leads_next ⟨onlyRegs_bay s (by simp [F.pwrmBayDeferred, F.pwrmBayHalfRate]), ?_⟩
  obtain ⟨hin, hout⟩ := s.rd_bay_wrs (ws := [(F.pwrmBayDeferred d, 0), (F.pwrmBayHalfRate d, 1)])
    (by simp [F.pwrmBayDeferred, F.pwrmBayHalfRate]) (by simp [Fld.apart, F.pwrmBayDeferred, F.pwrmBayHalfRate])
  rw [State.on, State.on, hin (F.pwrmBayDeferred d) 0 (by simp) Nat.zero_lt_two, hin (F.pwrmBayHalfRate d) 1 (by simp) Nat.one_lt_two]
  refine ⟨rfl, rfl, hout _ (by simp [F.pwrmBayGated]) ?_⟩
  simp [Fld.apart, F.pwrmBayDeferred, F.pwrmBayHalfRate, F.pwrmBayGated]

omit hd hb in
/-- Once a bay's register shows it up, it no longer waits for power. -/
theorem bayUp_end (v : State) (hall : onlyRegs s v [R.pwrmBay d]) (hgate : ∀ k, k < 20 → v.bayGated (d, k) = (s.bayGated (d, k) && decide (k ≠ b)))
    (hbusy : v.rd (F.pwrmBayUpBusy d) = 0) (hhalf : v.rd (F.pwrmBayHalfRate d) = 0) :
    let z := (v.modPower fun p => { p with upping := p.upping.filter fun x => decide (x ≠ (d, b)) }).bump Ev.bayUp .module 1
    onlyRegs { s with counters := z.counters, power := z.power } z [R.pwrmBay d] ∧
      (∀ k, k < 20 → z.bayGated (d, k) = (s.bayGated (d, k) && decide (k ≠ b))) ∧
      z.on (F.pwrmBayUpBusy d) = false ∧ z.on (F.pwrmBayHalfRate d) = false ∧ ∀ x, x ∈ z.power.upping ↔ x ∈ s.power.upping ∧ x ≠ (d, b) := by
  obtain ⟨rs, rfl⟩ : ∃ rs, v = { s with regs := rs } := ⟨_, hall.1⟩
  obtain ⟨cs, hcs⟩ := State.bump_modPower { s with regs := rs } (fun p => { p with upping := p.upping.filter fun x => decide (x ≠ (d, b)) }) Ev.bayUp
    .module 1
  rw [hcs]
  refine ⟨⟨rfl, hall.2⟩, hgate, ?_, ?_, fun x => ?_⟩
  · exact decide_eq_false fun h => by have := hbusy.symm.trans h; omega
  · exact decide_eq_false fun h => by have := hhalf.symm.trans h; omega
  · show x ∈ s.power.upping.filter _ ↔ _
    rw [List.mem_filter, decide_eq_true_iff]

omit hb in
theorem bayUp_facts (hbusy : s.on (F.pwrmBayUpBusy d) = true) (hdef : s.on (F.pwrmBayDeferred d) = false) (hup : s.rd (F.pwrmBayBayUp d) = b) :
    leads (exec (.bayUp d b) s) fun z => onlyRegs { s with counters := z.counters, power := z.power } z [R.pwrmBay d] ∧
      (∀ k, k < 20 → z.bayGated (d, k) = (s.bayGated (d, k) && decide (k ≠ b))) ∧
      z.on (F.pwrmBayUpBusy d) = false ∧ z.on (F.pwrmBayHalfRate d) = false ∧ ∀ x, x ∈ z.power.upping ↔ x ∈ s.power.upping ∧ x ≠ (d, b) := by
  have hexec : exec (.bayUp d b) s = execBayUp d b s := rfl
  rw [hexec, execBayUp, if_pos ⟨hd, hbusy, by simp [hdef], hup⟩]
  obtain ⟨hin, hout⟩ := s.rd_bay_wrs (ws := [(F.pwrmBayUpBusy d, 0), (F.pwrmBayBayUp d, 0), (F.pwrmBayHalfRate d, 0)])
    (by simp [F.pwrmBayUpBusy, F.pwrmBayBayUp, F.pwrmBayHalfRate]) (by simp [Fld.apart, F.pwrmBayUpBusy, F.pwrmBayBayUp, F.pwrmBayHalfRate])
  have hu : onlyRegs s (s.wrs [(F.pwrmBayUpBusy d, 0), (F.pwrmBayBayUp d, 0), (F.pwrmBayHalfRate d, 0)]) [R.pwrmBay d] :=
    onlyRegs_bay s (by simp [F.pwrmBayUpBusy, F.pwrmBayBayUp, F.pwrmBayHalfRate])
  have hbusy' := hin (F.pwrmBayUpBusy d) 0 (by simp) Nat.zero_lt_two
  have hhalf := hin (F.pwrmBayHalfRate d) 0 (by simp) Nat.zero_lt_two
  have hgated := hout (F.pwrmBayGated d) (by simp [F.pwrmBayGated])
    (by simp [Fld.apart, F.pwrmBayUpBusy, F.pwrmBayBayUp, F.pwrmBayHalfRate, F.pwrmBayGated])
  clear hin hout
  generalize s.wrs [(F.pwrmBayUpBusy d, 0), (F.pwrmBayBayUp d, 0), (F.pwrmBayHalfRate d, 0)] = u at hu hbusy' hhalf hgated ⊢
  have hv := onlyRegs_setGated (d := d) (b := b) u false
  have hgate : ∀ k, k < 20 → (u.setGated (d, b) false).bayGated (d, k) = (s.bayGated (d, k) && decide (k ≠ b)) := fun k hk => by
    rw [u.bayGated_setGated false hk, State.bayGated, hgated, State.bayGated]
    by_cases h : k = b <;> simp [h]
  have hkeep : ∀ f : Fld, f.lo + f.w ≤ 64 → (F.pwrmBayGated d).apart f → u.rd f = 0 → (u.setGated (d, b) false).rd f = 0 := fun f hf ha h0 => by
    rw [State.setGated, State.rd_wr_of_apart u _ hf ha, h0]
  have hbusy0 := hkeep _ (by simp [F.pwrmBayUpBusy]) (by simp [Fld.apart, F.pwrmBayUpBusy, F.pwrmBayGated]) hbusy'
  have hhalf0 := hkeep _ (by simp [F.pwrmBayHalfRate]) (by simp [Fld.apart, F.pwrmBayHalfRate, F.pwrmBayGated]) hhalf
  have hall : onlyRegs s (u.setGated (d, b) false) [R.pwrmBay d] := ⟨hv.1.trans (by rw [hu.1]), fun a ha => (hv.2 a ha).trans (hu.2 a ha)⟩
  refine leads_next ?_
  exact bayUp_end s _ hall hgate hbusy0 hhalf0

end

/-! ## Self-refresh and cages (R335, R677) -/

theorem selfRefreshEntry_facts (s : State) (h : Nat) (hpop : s.stackPopulated h = true) (hself : h ∉ s.selfRef) (hmay : s.mayRefresh = true)
    (hcopy : s.copyDue h = false) (hrest : ∀ c, c < 16 → (s.slice (16 * h + c)).fills = [] ∧ (s.slice (16 * h + c)).wbs = []) :
    leads (exec (.selfRefreshEntry h) s) fun z => z = { s with selfRef := s.selfRef ++ [h] } := by
  have hexec : exec (.selfRefreshEntry h) s = execSelfRefreshEntry h s := rfl
  rw [hexec, execSelfRefreshEntry, if_neg]
  · exact leads_next rfl
  · simp only [hpop, hmay, hcopy, Bool.not_true, Bool.false_eq_true, false_or, not_or, List.contains_iff_mem]
    refine ⟨hself, ?_⟩
    simp only [List.any_eq_true, List.mem_range, not_exists, not_and]
    intro c hc
    simp [hrest c hc]

/-- Floors that start as at power-on change registers, and forget the slices and split sectors. -/
theorem State.floorInit_eq (u : State) : u.floorInit = { u with regs := u.floorInit.regs, slices := [], splits := [] } := by
  unfold State.floorInit
  exact foldl_keep _ (fun w : State => w = { u with regs := w.regs, slices := [], splits := [] }) _ _
    (foldl_keep _ (fun w : State => w = { u with regs := w.regs, slices := [], splits := [] }) _ _ rfl fun w k hw => by
      rw [State.resetRegs, hw])
    fun w k hw => by rw [State.setReg, hw]

theorem idleWake_facts (s : State) (n : Nat) (hn : s.power.waking = some n) : leads (exec .idleWake s) fun z =>
    z.rd F.pwrmWakeTolCurrent = min n (s.rd F.pwrmWakeTolCurrent) ∧ z.power = { s.power with waking := none } ∧
    (3 ≤ s.rd F.pwrmWakeTolCurrent → n < 3 → z.selfRef = []) ∧ (s.rd F.pwrmWakeTolCurrent = 4 → n < 4 → z.slices = [] ∧ z.splits = []) := by
  have hexec : exec .idleWake s = .next (s.wakeTo n) := by
    show execIdleWake s = _
    rw [execIdleWake, hn]
  have hlt : s.rd F.pwrmWakeTolCurrent < 8 := bf_lt _ _ _
  rw [hexec]
  unfold State.wakeTo
  extract_lets c v w
  have hv : v.power = s.power ∧ (c = 4 → n < 4 → v.slices = [] ∧ v.splits = []) := by
    unfold v
    split
    · rw [s.floorInit_eq]
      exact ⟨rfl, fun _ _ => ⟨rfl, rfl⟩⟩
    · rename_i hc
      exact ⟨rfl, fun h h' => absurd ⟨h, h'⟩ hc⟩
  have hw : w.power = v.power ∧ w.slices = v.slices ∧ w.splits = v.splits ∧ (3 ≤ c → n < 3 → w.selfRef = []) := by
    unfold w
    split
    · exact ⟨rfl, rfl, rfl, fun _ _ => rfl⟩
    · rename_i hc
      exact ⟨rfl, rfl, rfl, fun h h' => absurd ⟨h, h'⟩ hc⟩
  obtain ⟨hpow, hsl, hsp, hself⟩ := hw
  refine leads_next ⟨?_, ?_, hself, fun h h' => ?_⟩
  · refine (State.rd_wr_same w _ _ (by simp [F.pwrmWakeTolCurrent])).trans (Nat.mod_eq_of_lt ?_)
    exact lt_of_le_of_lt (Nat.min_le_right _ _) hlt
  · show ({ w.power with waking := none } : PowerSt) = _
    rw [hpow, hv.1]
  · exact ⟨hsl.trans (hv.2 h h').1, hsp.trans (hv.2 h h').2⟩

/-- Ports and links of a module. -/
theorem portDies_le (v : Variant) : v.portDies ≤ 8 := by cases v <;> decide

theorem links_le (v : Variant) : v.links ≤ 64 := by
  have := portDies_le v
  simp only [Variant.links]
  omega

section
variable (s : State) {c : Nat}

/-- A module with media put into a cage. -/
def State.withCage (c : Nat) (m : Option CageType) : State := s.modPower fun p => { p with cages := tset (fun _ => none) p.cages c m }

theorem State.cage_withCage (m : Option CageType) (k : Nat) : (s.withCage c m).cage k = if k = c then m else s.cage k := tget_tset _ _ _ _ _

/-- Media in a cage without a grant leave the power granted as it was. -/
theorem State.cagePower_withCage (m : Option CageType) (h : c ∉ s.power.granted) : (s.withCage c m).cagePower = s.cagePower := by
  unfold State.cagePower
  refine congrArg List.sum (List.map_congr_left fun k hk => ?_)
  rw [State.cage_withCage, if_neg]
  rintro rfl
  exact h hk

/-- Power is granted to what draws at most 25 W while all grants stay within 400 W, and a cage's medium stands. -/
theorem State.grantCage_facts {u : State} {m : CageType} (hm : u.cage c = some m) :
    (∃ g, u.grantCage c = u.modPower fun p => { p with granted := g }) ∧
    (∀ k, k ≠ c → (k ∈ (u.grantCage c).power.granted ↔ k ∈ u.power.granted)) ∧
    (c ∈ (u.grantCage c).power.granted ↔ c ∈ u.power.granted ∨ (m.power ≤ 25 ∧ u.cagePower + m.power ≤ 400)) := by
  unfold State.grantCage
  rw [hm]
  dsimp only
  by_cases h : u.power.granted.contains c = true ∨ 25 < m.power ∨ 400 < u.cagePower + m.power
  · rw [if_pos h]
    refine ⟨⟨_, rfl⟩, fun _ _ => .rfl, ⟨.inl, fun h' => ?_⟩⟩
    rcases h' with h' | ⟨h1, h2⟩
    · exact h'
    · rcases h with h | h | h
      · simpa using h
      · omega
      · omega
  · rw [if_neg h]
    rw [not_or, not_or] at h
    refine ⟨⟨_, rfl⟩, fun k hk => ?_, ?_⟩
    · simp [State.modPower, hk]
    · simp only [State.modPower, List.mem_append, List.mem_singleton, or_true, true_iff]
      exact .inr ⟨by omega, by omega⟩

variable (hc : 2 * c < s.variant.links)
include hc

theorem cageInsert_facts (m : CageType) (hnone : s.cage c = none) : leads (exec (.cageInsert c m) s) fun z => z = { s with power := z.power } ∧ z.cage c = some m ∧
    (∀ k, k ≠ c → z.cage k = s.cage k ∧ (k ∈ z.power.granted ↔ k ∈ s.power.granted)) ∧
    (c ∈ z.power.granted ↔ c ∈ s.power.granted ∨ (s.rd F.bootPartLink ≠ 0 ∧ m.power ≤ 25 ∧ s.cagePower + m.power ≤ 400)) := by
  have hexec : exec (.cageInsert c m) s = .next (if (s.withCage c (some m)).cagesLive then (s.withCage c (some m)).grantCage c else s.withCage c (some m)) := by
    show execCageInsert c m s = _
    rw [execCageInsert, if_neg (by rw [hnone]; simp; omega)]
    rfl
  have hcage : ∀ k, (s.withCage c (some m)).cage k = if k = c then some m else s.cage k := s.cage_withCage (some m)
  rw [hexec]
  by_cases hlive : s.rd F.bootPartLink = 0
  · rw [if_neg (by simp only [State.cagesLive, decide_eq_true_iff, not_not]; exact hlive)]
    refine leads_next ⟨rfl, (hcage c).trans (if_pos rfl), fun k hk => ⟨(hcage k).trans (if_neg hk), .rfl⟩, ?_⟩
    simp only [hlive, ne_eq, not_true_eq_false, false_and, or_false]
    rfl
  · rw [if_pos (by simp only [State.cagesLive, decide_eq_true_iff]; exact hlive)]
    obtain ⟨⟨g, hg⟩, hother, hown⟩ := State.grantCage_facts ((hcage c).trans (if_pos rfl))
    have hcage' : ∀ k, ((s.withCage c (some m)).grantCage c).cage k = if k = c then some m else s.cage k := fun k => by
      rw [hg]; exact hcage k
    refine leads_next ⟨by rw [hg]; rfl, (hcage' c).trans (if_pos rfl), fun k hk => ⟨(hcage' k).trans (if_neg hk), hother k hk⟩, hown.trans ?_⟩
    by_cases hc' : c ∈ s.power.granted
    · exact iff_of_true (.inl hc') (.inl hc')
    · rw [s.cagePower_withCage (some m) hc']
      exact ⟨fun h => h.imp_right fun h => ⟨hlive, h⟩, fun h => h.imp_right fun h => h.2⟩

theorem cageRemove_facts (hsome : s.cage c ≠ none) : leads (exec (.cageRemove c) s) fun z => z.cage c = none ∧ c ∉ z.power.granted ∧
    (∀ k, k ≠ c → z.cage k = s.cage k) ∧ z.rd (F.linkStatState (2 * c)) ≤ lkDown ∧ z.rd (F.linkStatState (2 * c + 1)) ≤ lkDown := by
  have hl : 2 * c + 1 < 64 := by
    have := portDies_le s.variant
    simp only [Variant.links] at hc
    omega
  let u := s.modPower fun p => { p with cages := tset (fun _ => none) p.cages c none, granted := p.granted.filter fun k => decide (k ≠ c) }
  have hexec : exec (.cageRemove c) s = .next ((u.dropLink (2 * c)).dropLink (2 * c + 1)) := by
    show execCageRemove c s = _
    rw [execCageRemove, if_neg (by simpa [Option.isNone_iff_eq_none] using hsome)]
  have hfirst := linkActs_dropLink u (l := 2 * c) (by omega)
  have hsecond := linkActs_dropLink (u.dropLink (2 * c)) hl
  have hpow : ((u.dropLink (2 * c)).dropLink (2 * c + 1)).power = u.power := by
    have h1 : (u.dropLink (2 * c)).power = u.power := hfirst.get State.power
    have h2 : ((u.dropLink (2 * c)).dropLink (2 * c + 1)).power = (u.dropLink (2 * c)).power := hsecond.get State.power
    exact h2.trans h1
  have hcage : ∀ k, ((u.dropLink (2 * c)).dropLink (2 * c + 1)).cage k = if k = c then none else s.cage k := fun k => by
    rw [State.cage, hpow]
    exact tget_tset _ _ _ _ _
  rw [hexec]
  refine leads_next ⟨(hcage c).trans (if_pos rfl), ?_, fun k hk => (hcage k).trans (if_neg hk), ?_, State.state_dropLink _ hl⟩
  · rw [hpow]
    show c ∉ s.power.granted.filter _
    simp
  · rw [hsecond.state (by omega) (by omega)]
    exact State.state_dropLink u (by omega)

end

/-! ## What a stack reports (R333, R334) -/

/-- What a poll of a stack writes: the power that it found, and the temperatures, refresh and cap that follow. -/
def tempWrites (h power rep est : Nat) (half : Bool) (cap : Nat) : List (Fld × Nat) :=
  [(F.hbmcTcalPower h, power), (F.hbmcTempReported h, min 255 (rep / 10000000)), (F.hbmcTempEstimated h, min 255 (est / 10000000)),
    (F.hbmcTempGoverning h, min 255 (est / 10000000)), (F.hbmcTempRefiHalf h, b2n half), (F.hbmcTempThrottle h, cap)]

/-- What a poll of a stack writes reads back, and the calibration stands. -/
theorem State.rd_tempWrites (s : State) {h power rep est : Nat} {half : Bool} {cap : Nat} (hcap : cap < 4) :
    let z := s.wrs (tempWrites h power rep est half cap)
    onlyRegs s z [R.hbmcTcal h, R.hbmcTemp h] ∧ z.rd (F.hbmcTempReported h) = min 255 (rep / 10000000) ∧
      z.rd (F.hbmcTempEstimated h) = min 255 (est / 10000000) ∧ z.rd (F.hbmcTempGoverning h) = min 255 (est / 10000000) ∧
      z.rd (F.hbmcTcalK h) = s.rd (F.hbmcTcalK h) ∧ z.on (F.hbmcTempRefiHalf h) = half ∧ z.rd (F.hbmcTempThrottle h) = cap := by
  intro z
  have hin : ∀ p ∈ tempWrites h power rep est half cap, p.2 < 2 ^ p.1.w → z.rd p.1 = p.2 := fun p hp hlt => by
    refine (State.rd_wrs_of_mem _ s ?_ ?_ hp).trans (Nat.mod_eq_of_lt hlt)
    · simp [tempWrites, F.hbmcTcalPower, F.hbmcTempReported, F.hbmcTempEstimated, F.hbmcTempGoverning, F.hbmcTempRefiHalf, F.hbmcTempThrottle]
    · simp [tempWrites, Fld.apart, F.hbmcTcalPower, F.hbmcTempReported, F.hbmcTempEstimated, F.hbmcTempGoverning, F.hbmcTempRefiHalf,
        F.hbmcTempThrottle, R.hbmcTemp, R.hbmcTcal]
  have hdeg : ∀ n : Nat, min 255 n < 2 ^ 8 := fun n => by omega
  obtain ⟨hz, hreg⟩ := s.wrs_only (tempWrites h power rep est half cap)
  refine ⟨⟨hz, fun a ha => hreg a fun hm => ha ?_⟩, hin (F.hbmcTempReported h, _) (by simp [tempWrites]) (hdeg _),
    hin (F.hbmcTempEstimated h, _) (by simp [tempWrites]) (hdeg _), hin (F.hbmcTempGoverning h, _) (by simp [tempWrites]) (hdeg _), ?_, ?_,
    hin (F.hbmcTempThrottle h, _) (by simp [tempWrites]) hcap⟩
  · simp only [tempWrites, List.map_cons, List.map_nil, List.mem_cons, List.not_mem_nil, or_false] at hm
    rcases hm with rfl | rfl | rfl | rfl | rfl | rfl <;>
      simp [F.hbmcTcalPower, F.hbmcTempReported, F.hbmcTempEstimated, F.hbmcTempGoverning, F.hbmcTempRefiHalf, F.hbmcTempThrottle]
  · refine State.rd_wrs_of_apart (by simp [F.hbmcTcalK]) _ s ?_
    simp [tempWrites, Fld.apart, F.hbmcTcalPower, F.hbmcTcalK, F.hbmcTempReported, F.hbmcTempEstimated, F.hbmcTempGoverning, F.hbmcTempRefiHalf,
      F.hbmcTempThrottle, R.hbmcTemp, R.hbmcTcal]
  · rw [State.on, hin (F.hbmcTempRefiHalf h, b2n half) (by simp [tempWrites]) (by cases half <;> simp [F.hbmcTempRefiHalf, b2n])]
    cases half <;> rfl

/-- A temperature in units of 10⁻⁷ °C, in whole degrees and against a limit. -/
theorem deg_ofNat (n : Nat) : Temp.deg ((n : Int), 10000000) = min 255 (n / 10000000) := by
  simp only [Temp.deg]
  congr 1

theorem atLeast_ofNat (n d : Nat) : Temp.atLeast ((n : Int), 10000000) d = decide (d * 10000000 ≤ n) := by
  simp only [Temp.atLeast, decide_eq_decide]
  omega

theorem hbmTempPoll_facts (s : State) (h : Nat) (temp : Option Nat) (hh : h < 32) (hpop : s.stackPopulated h = true) :
    let others := ((List.range 4).map (· + 4 * (h / 4))).filter fun k => decide (k ≠ h) && s.stackPopulated k
    let rep := match temp with
      | some t => t * 10000000
      | none => (others.foldl (fun m k => max m (tget (fun _ => 0) s.therm.hbm k)) 0) + 50000000
    let est := rep + s.rd (F.hbmcTcalK h) * s.stackPower h
    leads (exec (.hbmTempPoll h temp) s) fun z => onlyRegs { s with therm := z.therm } z [R.hbmcTcal h, R.hbmcTemp h] ∧
      z.rd (F.hbmcTempReported h) = min 255 (rep / 10000000) ∧ z.rd (F.hbmcTempEstimated h) = min 255 (est / 10000000) ∧
      z.rd (F.hbmcTempGoverning h) = min 255 (est / 10000000) ∧ z.rd (F.hbmcTcalK h) = s.rd (F.hbmcTcalK h) ∧
      (z.on (F.hbmcTempRefiHalf h) = true ↔ 850000000 ≤ est ∨ (s.on (F.hbmcTempRefiHalf h) = true ∧ 820000000 ≤ est)) ∧
      (let o := s.rd (F.hbmcTempThrottle h)
       z.rd (F.hbmcTempThrottle h) = if 980000000 ≤ est then 2 else if 950000000 ≤ est then (if o = 2 then 2 else 1) else if 920000000 ≤ est then (if o = 0 then 0 else 1)
         else 0) ∧ tget (fun _ => 0) z.therm.hbm h = est := by
  intro others rep est
  let u : State := s.modTherm fun x => { x with hbm := tset (fun _ => 0) x.hbm h est }
  let half := Temp.atLeast ((est : Int), 10000000) 85 || (s.on (F.hbmcTempRefiHalf h) && Temp.atLeast ((est : Int), 10000000) 82)
  let cap := capStep ((est : Int), 10000000) (s.rd (F.hbmcTempThrottle h))
  have hexec : exec (.hbmTempPoll h temp) s = .next (u.wrs (tempWrites h (s.stackPower h / 10000) rep est half cap)) := by
    show execHbmTempPoll h temp s = _
    rw [execHbmTempPoll, if_neg (by simp [hpop]; omega), tempWrites, ← deg_ofNat est]
    rfl
  have hcap : cap = if 980000000 ≤ est then 2 else if 950000000 ≤ est then (if s.rd (F.hbmcTempThrottle h) = 2 then 2 else 1)
      else if 920000000 ≤ est then (if s.rd (F.hbmcTempThrottle h) = 0 then 0 else 1) else 0 := by
    simp only [cap, capStep, atLeast_ofNat, decide_eq_true_iff]
  have hlt : cap < 4 := by
    rw [hcap]
    repeat' split
    all_goals omega
  obtain ⟨⟨hz, hreg⟩, hrep, hestd, hgov, hk, hhalf, hthr⟩ := u.rd_tempWrites (h := h) (power := s.stackPower h / 10000) (rep := rep) (est := est) (half := half) hlt
  rw [hexec]
  refine leads_next ⟨⟨?_, hreg⟩, hrep, hestd, hgov, hk, ?_, hthr.trans hcap, ?_⟩
  · rw [hz]; rfl
  · rw [hhalf]
    simp only [half, atLeast_ofNat, Bool.or_eq_true, Bool.and_eq_true, decide_eq_true_iff]
  · rw [hz]
    exact tget_tset_same _ _ _ _

end Sys2Proof.Machine
end

section
/-! Levels that rise and fall (R601 to R605). -/

namespace Sys2Proof.Machine

/-! ## What a level that rises writes besides -/

/-- Fields that a new level, a refill rate and operating points that follow it write, beside the level's own. -/
def muzzleFld (g : Fld) : Prop := postFld g ∨ g = F.thrmStatMuzzle ∨ g = F.pwrmCapRefillW ∨ g = F.pwrmOppCurD

theorem framed.rest_therm {q : Fld → Prop} {s w : State} (h : framed State.rest q s w) : w.therm = s.therm := h.get State.therm

section
variable (s : State)

theorem framed_setOpp (d p : Nat) : framed State.rest muzzleFld s (s.setOpp d p) := by
  unfold State.setOpp
  refine framed_ite (.refl s) (.trans ?_ (framed_bump _ _ _ _))
  refine .trans ?_ (framed_wr _ (by intros; rfl) _ _ (.inr (.inr (.inr rfl))))
  exact framed_of_regs rfl rfl rfl

theorem framed_oppFollow (boundary : Bool) : framed State.rest muzzleFld s (s.oppFollow boundary) :=
  framed_ite (.refl s) (framed_foldl _ s fun u d => framed_ite (framed_setOpp u d _) (.refl u))

theorem framed_muzzled : framed State.rest muzzleFld s s.muzzled := by
  unfold State.muzzled State.refill
  dsimp only
  refine .trans ?_ (framed_oppFollow _ _)
  exact (framed_wr s (by intros; rfl) _ _ (.inr (.inl rfl))).trans (framed_wr _ (by intros; rfl) _ _ (.inr (.inr (.inl rfl))))

theorem framed_muzzle_notice (kind status result : Nat) : framed State.rest muzzleFld s (s.notice kind status result) :=
  (framed_notice s kind status result).widen fun _ => .inl

/-! ## The levels -/

theorem levelFld_fits (l : Option Nat) : (levelFld l).lo + (levelFld l).w ≤ 64 := by cases l <;> simp [levelFld, F.thrmStatRefillLvl, F.thrmUnitLevel]

theorem levelFld_apart {l k : Option Nat} (h : l ≠ k) : (levelFld l).apart (levelFld k) := by
  cases l <;> cases k <;> simp_all [levelFld, Fld.apart, F.thrmStatRefillLvl, F.thrmUnitLevel, R.thrmStat, R.thrmUnit]

theorem levelFld_muzzle {g : Fld} (hg : muzzleFld g) (l : Option Nat) : g.apart (levelFld l) := by
  rcases hg with (hg | hg | ⟨k, hk, rfl⟩) | rfl | rfl | rfl <;> cases l <;>
    simp only [levelFld, Fld.apart, F.thrmStatRefillLvl, F.thrmUnitLevel, F.cmdqQcfgBusy, F.thrmStatMuzzle, F.pwrmCapRefillW, F.pwrmOppCurD, R.thrmStat,
      R.thrmUnit, R.keepLogStat, R.cmdqEvtLost, R.cmdqQcfg, R.pwrmCap, R.pwrmOpp] at * <;> omega

theorem State.rd_levelFld_lt (l : Option Nat) : s.rd (levelFld l) < 4 := by cases l <;> exact bf_lt _ _ 2

/-- A level that rises, with what follows it. -/
theorem framed_riseTo (l : Option Nat) (v : Nat) (ns : List Nat) :
    framed State.rest (fun g => muzzleFld g ∨ g = levelFld l) s (s.riseTo l v ns) := by
  have hout : ∀ {u w : State}, framed State.rest muzzleFld u w → framed State.rest (fun g => muzzleFld g ∨ g = levelFld l) u w :=
    fun h => h.widen fun _ => .inl
  unfold State.riseTo
  split
  · exact .refl s
  · extract_lets u
    have hu : framed State.rest (fun g => muzzleFld g ∨ g = levelFld l) s u :=
      ((framed_wr s (by intros; rfl) _ _ (.inr rfl)).trans (framed_bump _ _ _ _)).trans (hout (framed_muzzled _))
    clear_value u
    split
    · exact hu.trans (hout (framed_muzzle_notice u _ _ _))
    · exact hu

theorem State.rd_riseTo (l : Option Nat) {v : Nat} (hv : v < 4) (ns : List Nat) : (s.riseTo l v ns).rd (levelFld l) = max (s.rd (levelFld l)) v := by
  have hkeep : ∀ {u w : State}, framed State.rest muzzleFld u w → w.rd (levelFld l) = u.rd (levelFld l) :=
    fun h => h.2 _ (levelFld_fits l) fun g hg => levelFld_muzzle hg l
  unfold State.riseTo
  split
  · rename_i h
    exact (Nat.max_eq_left h).symm
  · rename_i h
    extract_lets u
    have hw : (levelFld l).w = 2 := by cases l <;> rfl
    have hu : u.rd (levelFld l) = v := by
      refine (hkeep ((framed_bump _ _ _ _).trans (framed_muzzled _))).trans ?_
      rw [State.rd_wr_same s _ _ (levelFld_fits l), hw]
      exact Nat.mod_eq_of_lt hv
    clear_value u
    rw [Nat.max_eq_right (by omega)]
    split
    · exact (hkeep (framed_muzzle_notice u _ _ _)).trans hu
    · exact hu

/-- A level other than the one that rises stands. -/
theorem State.rd_riseTo_ne {l k : Option Nat} (h : k ≠ l) (v : Nat) (ns : List Nat) : (s.riseTo l v ns).rd (levelFld k) = s.rd (levelFld k) :=
  (framed_riseTo s l v ns).2 _ (levelFld_fits k) fun _ hg => hg.elim (fun hg => levelFld_muzzle hg k) fun hg => hg ▸ levelFld_apart (Ne.symm h)

/-! ## Units that raise levels -/

/-- One level of those that units raise. -/
def State.raiseOne (up : Nat → Nat) (ns : List Nat) (s : State) (l : Option Nat) : State :=
  let mine := ns.filter fun n => decide (levelOf n = l)
  if mine.isEmpty then s else s.riseTo l (min 3 (up (s.rd (levelFld l)))) mine

theorem State.raiseLevels_eq (ns : List Nat) (up : Nat → Nat) : s.raiseLevels ns up =
    allLevels.foldl (State.raiseOne up ns) (s.modTherm fun x => { x with raised := x.raised ++ ns.filter fun n => !x.raised.contains n }) := rfl

theorem nodup_allLevels : allLevels.Nodup := by decide

/-- Each level goes its own way. -/
theorem State.rd_foldl_levels {f : State → Option Nat → State} {g : Option Nat → Nat → Nat} (hown : ∀ u l, (f u l).rd (levelFld l) = g l (u.rd (levelFld l)))
    (hother : ∀ u l k, k ≠ l → (f u l).rd (levelFld k) = u.rd (levelFld k)) {ls : List (Option Nat)} (hnd : ls.Nodup) (u : State) (l : Option Nat) :
    (ls.foldl f u).rd (levelFld l) = if l ∈ ls then g l (u.rd (levelFld l)) else u.rd (levelFld l) := by
  induction ls generalizing u with
  | nil => rfl
  | cons k ks ih =>
    obtain ⟨hk, hks⟩ := List.nodup_cons.mp hnd
    rw [List.foldl_cons, ih hks]
    by_cases h : l = k
    · subst h
      rw [if_neg hk, if_pos List.mem_cons_self, hown]
    · rw [hother u k l h]
      by_cases hm : l ∈ ks
      · rw [if_pos hm, if_pos (List.mem_cons_of_mem _ hm)]
      · rw [if_neg hm, if_neg (by simp [h, hm])]

/-- Units that raise levels by 1 raise exactly theirs, up to 3. -/
theorem State.rd_raiseLevels_succ (ns : List Nat) {l : Option Nat} (hl : l ∈ allLevels) :
    (s.raiseLevels ns (· + 1)).rd (levelFld l) = if ∃ n ∈ ns, levelOf n = l then min 3 (s.rd (levelFld l) + 1) else s.rd (levelFld l) := by
  have hmine : ∀ k, (ns.filter fun n => decide (levelOf n = k)).isEmpty = true ↔ ¬∃ n ∈ ns, levelOf n = k := fun k => by
    simp [List.isEmpty_iff, List.filter_eq_nil_iff]
  have hown : ∀ (u : State) k, (u.raiseOne (· + 1) ns k).rd (levelFld k) =
      if ∃ n ∈ ns, levelOf n = k then min 3 (u.rd (levelFld k) + 1) else u.rd (levelFld k) := fun u k => by
    have hlt := u.rd_levelFld_lt k
    unfold State.raiseOne
    by_cases h : ∃ n ∈ ns, levelOf n = k
    · rw [if_neg (mt (hmine k).mp (not_not.mpr h)), if_pos h, u.rd_riseTo k (by omega)]
      dsimp only
      omega
    · rw [if_pos ((hmine k).mpr h), if_neg h]
  have hother : ∀ (u : State) k j, j ≠ k → (u.raiseOne (· + 1) ns k).rd (levelFld j) = u.rd (levelFld j) := fun u k j h => by
    unfold State.raiseOne
    dsimp only
    split
    · rfl
    · exact u.rd_riseTo_ne h _ _
  rw [s.raiseLevels_eq, State.rd_foldl_levels (g := fun k v => if ∃ n ∈ ns, levelOf n = k then min 3 (v + 1) else v) hown hother nodup_allLevels, if_pos hl]
  rfl

/-! ## Heel that clears -/

/-- The state without what Heel that clears changes: the grace timer too. -/
def State.heelRest (s : State) : State := { s.rest with therm := { s.therm with grace := false } }

theorem heelRest_modTherm (v : Bool) : framed State.heelRest (fun g => muzzleFld g ∨ g = F.thrmStatHeel ∨ g = F.thrmStatGraceLeft) s
    (s.modTherm fun x => { x with grace := v }) := framed_of_regs rfl rfl rfl

theorem heelRest_of_rest {q r : Fld → Prop} {s w : State} (h : framed State.rest q s w) (hq : ∀ g, q g → r g) : framed State.heelRest r s w :=
  h.mono (fun u => { u with therm := { u.therm with grace := false } }) (fun _ => rfl) hq

/-- Heel that clears writes Heel and the grace left, and stops the grace timer. -/
theorem framed_heelClear : framed State.heelRest (fun g => muzzleFld g ∨ g = F.thrmStatHeel ∨ g = F.thrmStatGraceLeft) s s.heelClear := by
  unfold State.heelClear
  extract_lets u v
  have hu : framed State.heelRest (fun g => muzzleFld g ∨ g = F.thrmStatHeel ∨ g = F.thrmStatGraceLeft) s u := framed_wrs s (by intros; rfl) (by simp)
  have hv : framed State.heelRest (fun g => muzzleFld g ∨ g = F.thrmStatHeel ∨ g = F.thrmStatGraceLeft) s v := hu.trans (heelRest_modTherm u false)
  clear_value v
  refine framed_ite ?_ (.refl s)
  split
  · exact hv.trans (heelRest_of_rest (framed_muzzle_notice v _ _ _) fun _ => .inl)
  · exact hv

theorem State.rd_heelClear_level (l : Option Nat) : s.heelClear.rd (levelFld l) = s.rd (levelFld l) := by
  refine (framed_heelClear s).2 _ (levelFld_fits l) fun g hg => ?_
  rcases hg with hg | rfl | rfl
  · exact levelFld_muzzle hg l
  · cases l <;> simp only [levelFld, Fld.apart, F.thrmStatRefillLvl, F.thrmUnitLevel, F.thrmStatHeel, R.thrmStat, R.thrmUnit] <;> omega
  · cases l <;> simp only [levelFld, Fld.apart, F.thrmStatRefillLvl, F.thrmUnitLevel, F.thrmStatGraceLeft, R.thrmStat, R.thrmUnit] <;> omega

/-! ## The commands (R601, R604, R605) -/

variable (hrun : s.keeperRuns = true)
include hrun

theorem graceExpiry_facts (hgrace : s.therm.grace = true) : leads (exec .graceExpiry s) fun z => z.therm.grace = false ∧ z.rd F.thrmStatGraceLeft = 0 ∧
    ∀ l ∈ allLevels, z.rd (levelFld l) = if ∃ n ∈ s.atCaution, levelOf n = l then min 3 (s.rd (levelFld l) + 1) else s.rd (levelFld l) := by
  let u := (s.wr F.thrmStatGraceLeft 0).modTherm fun x => { x with grace := false }
  have hexec : exec .graceExpiry s = .next (u.raiseLevels u.atCaution (· + 1)) := by
    show execGraceExpiry s = _
    rw [execGraceExpiry, if_neg (by simp [hrun, hgrace])]
  have hu : ∀ f : Fld, f.lo + f.w ≤ 64 → F.thrmStatGraceLeft.apart f → u.rd f = s.rd f := fun f hf ha => State.rd_wr_of_apart s 0 hf ha
  have hpop : ∀ h, u.stackPopulated h = s.stackPopulated h := fun h => by
    rw [State.stackPopulated, State.stackPopulated, State.on, State.on, hu _ (by simp [F.hbmcCfgPopulated])
      (.inl (by simp only [F.thrmStatGraceLeft, F.hbmcCfgPopulated, R.thrmStat, R.hbmcCfg]; omega))]
  have hcaution : u.atCaution = s.atCaution := by
    unfold State.atCaution
    refine List.filter_congr fun n _ => ?_
    rw [hu (F.thrmUnitGoverning n) (by simp [F.thrmUnitGoverning])
      (.inl (by simp only [F.thrmStatGraceLeft, F.thrmUnitGoverning, R.thrmStat, R.thrmUnit]; omega))]
    simp only [State.thermUnit, hpop]
    rfl
  have hfold : framed State.rest (fun g => muzzleFld g ∨ ∃ l, g = levelFld l)
      (u.modTherm fun x => { x with raised := x.raised ++ u.atCaution.filter fun n => !x.raised.contains n }) (u.raiseLevels u.atCaution (· + 1)) := by
    rw [u.raiseLevels_eq]
    exact framed_foldl _ _ fun v l => framed_ite (.refl v) ((framed_riseTo v l _ _).widen fun g hg => hg.imp_right fun h => ⟨l, h⟩)
  rw [hexec]
  refine leads_next ⟨?_, ?_, fun l hl => ?_⟩
  · rw [hfold.rest_therm]
    rfl
  · rw [hfold.2 F.thrmStatGraceLeft (by decide)]
    · exact State.rd_wr_same s _ 0 (by decide)
    · rintro g (hg | ⟨l, rfl⟩)
      · rcases hg with (hg | hg | ⟨k, hk, rfl⟩) | rfl | rfl | rfl <;>
          simp only [Fld.apart, F.thrmStatGraceLeft, F.cmdqQcfgBusy, F.thrmStatMuzzle, F.pwrmCapRefillW, F.pwrmOppCurD, R.thrmStat,
            R.keepLogStat, R.cmdqEvtLost, R.cmdqQcfg, R.pwrmCap, R.pwrmOpp] at * <;> omega
      · cases l <;> simp only [levelFld, Fld.apart, F.thrmStatRefillLvl, F.thrmUnitLevel, F.thrmStatGraceLeft, R.thrmStat, R.thrmUnit] <;> omega
  · have hlev : u.rd (levelFld l) = s.rd (levelFld l) := hu _ (levelFld_fits l) (by
      cases l <;> simp only [levelFld, Fld.apart, F.thrmStatRefillLvl, F.thrmUnitLevel, F.thrmStatGraceLeft, R.thrmStat, R.thrmUnit] <;> omega)
    rw [u.rd_raiseLevels_succ _ hl, hcaution, hlev]

theorem muzzleStep_facts : leads (exec .muzzleStep s) fun z => ∀ l ∈ allLevels,
    z.rd (levelFld l) = if ∃ n ∈ s.atCaution, n ∈ s.therm.raised ∧ levelOf n = l then min 3 (s.rd (levelFld l) + 1) else s.rd (levelFld l) := by
  have hexec : exec .muzzleStep s = .next (s.raiseLevels (s.atCaution.filter fun n => s.therm.raised.contains n) (· + 1)) := by
    show execMuzzleStep s = _
    rw [execMuzzleStep, if_neg (by simp [hrun])]
  rw [hexec]
  refine leads_next fun l hl => ?_
  rw [s.rd_raiseLevels_succ _ hl]
  have hraise : (∃ n ∈ s.atCaution.filter fun n => s.therm.raised.contains n, levelOf n = l) ↔ ∃ n ∈ s.atCaution, n ∈ s.therm.raised ∧ levelOf n = l := by
    simp [and_assoc]
  by_cases h : ∃ n ∈ s.atCaution, n ∈ s.therm.raised ∧ levelOf n = l
  · rw [if_pos h, if_pos (hraise.mpr h)]
  · rw [if_neg h, if_neg (mt hraise.mp h)]

theorem muzzleFall_facts : leads (exec .muzzleFall s) fun z => ∀ l ∈ allLevels,
    z.rd (levelFld l) = if ∀ n ∈ s.therm.raised, levelOf n = l → n ∈ s.therm.below then s.rd (levelFld l) - 1 else s.rd (levelFld l) := by
  let fall := allLevels.filter fun l =>
    decide (s.rd (levelFld l) ≠ 0) && (s.therm.raised.filter fun n => decide (levelOf n = l)).all fun n => s.therm.below.contains n
  let u := fall.foldl (fun s l => s.wr (levelFld l) (s.rd (levelFld l) - 1)) s
  have hexec : exec .muzzleFall s =
      .next ((u.modTherm fun x => { x with raised := x.raised.filter fun n => decide (u.rd (levelFld (levelOf n)) ≠ 0) }).muzzled.heelClear) := by
    show execMuzzleFall s = _
    rw [execMuzzleFall, if_neg (by simp [hrun])]
  have hu : ∀ l, u.rd (levelFld l) = if l ∈ fall then s.rd (levelFld l) - 1 else s.rd (levelFld l) := fun l => by
    refine State.rd_foldl_levels (f := fun s l => s.wr (levelFld l) (s.rd (levelFld l) - 1)) (g := fun _ v => v - 1) (fun v k => ?_)
      (fun v k j h => State.rd_wr_of_apart v _ (levelFld_fits j) (levelFld_apart (Ne.symm h))) (nodup_allLevels.filter _) s l
    have hw : (levelFld k).w = 2 := by cases k <;> rfl
    have hlt := v.rd_levelFld_lt k
    rw [State.rd_wr_same v _ _ (levelFld_fits k), hw]
    exact Nat.mod_eq_of_lt (by omega)
  rw [hexec]
  refine leads_next fun l hl => ?_
  rw [State.rd_heelClear_level, (framed_muzzled _).2 _ (levelFld_fits l) fun g hg => levelFld_muzzle hg l]
  refine (hu l).trans ?_
  have hfall : l ∈ fall ↔ s.rd (levelFld l) ≠ 0 ∧ ∀ n ∈ s.therm.raised, levelOf n = l → n ∈ s.therm.below := by
    simp [fall, hl, or_iff_not_imp_left]
  by_cases h : ∀ n ∈ s.therm.raised, levelOf n = l → n ∈ s.therm.below
  · rw [if_pos h]
    by_cases h0 : s.rd (levelFld l) = 0
    · rw [if_neg fun hm => (hfall.mp hm).1 h0, h0]
    · rw [if_pos (hfall.mpr ⟨h0, h⟩)]
  · rw [if_neg h, if_neg fun hm => h (hfall.mp hm).2]

end

end Sys2Proof.Machine
end

section
/-! Trips, and what a poll finds (R594 to R607). -/

namespace Sys2Proof.Machine

/-! ## A Module-fatal fault (R508, R606) -/

/-- The state without what a Module-fatal fault changes too: the reset that it marks. -/
def State.fatalRest (s : State) : State := { s.failRest with boot := { s.boot with reset := none } }

/-- Fields that a Module-fatal fault writes. -/
def fatalFld (g : Fld) : Prop := failFld g ∨ g.addr = R.keepFaultStat ∨ g = F.bootPartCompute

theorem framed_boot_reset {q : Fld → Prop} (s : State) (r : Option ResetSt) : framed State.fatalRest q s { s with boot := { s.boot with reset := r } } :=
  framed_of_regs rfl rfl rfl

theorem framed.failRest_boot {q : Fld → Prop} {s w : State} (h : framed State.failRest q s w) : w.boot = s.boot := h.get State.boot

theorem framed.linkRest_power {q : Fld → Prop} {s w : State} (h : framed State.linkRest q s w) : w.power = s.power := h.get State.power

section
variable (s : State) (cause source unitKind unit detail : Nat)

theorem framed_moduleFatal : framed State.fatalRest fatalFld s (s.moduleFatal cause source unitKind unit detail) := by
  have hfail : ∀ {u w : State}, failActs u w → framed State.fatalRest fatalFld u w := fun h =>
    h.mono (fun r => { r with boot := { r.boot with reset := none } }) (fun _ => rfl) fun _ => .inl
  unfold State.moduleFatal
  extract_lets marked logged boot shown
  have hmarked : framed State.fatalRest fatalFld s marked :=
    framed_ite (.refl s) (framed_wrs s (by intros; rfl) (by simp [fatalFld, F.keepFaultStatState, F.keepFaultStatMfatalCause]))
  have hlogged : framed State.fatalRest fatalFld marked logged := hfail (failActs_of_post (framed_faultLog marked _ _ _ _ _ _ _))
  have hshown : framed State.fatalRest fatalFld logged shown := by
    unfold shown
    cases logged.boot.reset with
    | none => exact framed_wr logged (by intros; rfl) _ _ (.inr (.inr rfl))
    | some r => exact framed_boot_reset logged _
  exact ((hmarked.trans hlogged).trans hshown).trans (hfail (failActs_failPass shown 0))

/-- Fields of the fault's and the partitions' states that the end of a pass leaves. -/
theorem failFld_apart_fatal {g : Fld} (hg : failFld g) :
    g.apart F.keepFaultStatState ∧ g.apart F.keepFaultStatMfatalCause ∧ g.apart F.bootPartCompute := by
  rcases hg with (hg | hg | ⟨k, hk, rfl⟩) | hg | rfl | rfl | rfl <;>
    simp only [tileFld, Fld.apart, F.keepFaultStatState, F.keepFaultStatMfatalCause, F.bootPartCompute, F.cmdqQcfgBusy, F.keepPassStatState,
      F.keepFaultStatJobFatal, F.keepFaultStatFatalCause, R.keepFaultStat, R.bootPart, R.keepLogStat, R.cmdqEvtLost, R.cmdqQcfg, R.keepPassStat] at * <;>
    omega

/-- A Module-fatal fault halts the module for its cause, and with no compute reset in progress shows the partition Halted. -/
theorem State.moduleFatal_halts (hcause : cause < 8) :
    (s.moduleFatal cause source unitKind unit detail).rd F.keepFaultStatState = 2 ∧
    (s.rd F.keepFaultStatState ≠ 2 → (s.moduleFatal cause source unitKind unit detail).rd F.keepFaultStatMfatalCause = cause) ∧
    (s.boot.reset = none → (s.moduleFatal cause source unitKind unit detail).rd F.bootPartCompute = 3) := by
  unfold State.moduleFatal
  extract_lets marked logged boot shown
  have hmarked : marked.boot = s.boot ∧ marked.rd F.keepFaultStatState = 2 ∧
      (s.rd F.keepFaultStatState ≠ 2 → marked.rd F.keepFaultStatMfatalCause = cause) := by
    have hfit : ∀ p ∈ [(F.keepFaultStatState, 2), (F.keepFaultStatMfatalCause, cause)], p.1.lo + p.1.w ≤ 64 := by
      simp [F.keepFaultStatState, F.keepFaultStatMfatalCause]
    have hap : [(F.keepFaultStatState, 2), (F.keepFaultStatMfatalCause, cause)].Pairwise fun p q => p.1.apart q.1 := by
      simp [Fld.apart, F.keepFaultStatState, F.keepFaultStatMfatalCause]
    unfold marked
    split
    · rename_i h
      exact ⟨rfl, h, fun h' => absurd h h'⟩
    · refine ⟨(s.wrs_only _).1 ▸ rfl, ?_, fun _ => ?_⟩
      · exact State.rd_wrs_of_mem _ s hfit hap (p := (F.keepFaultStatState, 2)) (by simp)
      · refine (State.rd_wrs_of_mem _ s hfit hap (p := (F.keepFaultStatMfatalCause, cause)) (by simp)).trans ?_
        exact Nat.mod_eq_of_lt hcause
  obtain ⟨hboot, hstate, hmf⟩ := hmarked
  have hlogged : failActs marked logged := failActs_of_post (framed_faultLog marked _ _ _ _ _ _ _)
  have hshown : shown.rd F.keepFaultStatState = logged.rd F.keepFaultStatState ∧
      shown.rd F.keepFaultStatMfatalCause = logged.rd F.keepFaultStatMfatalCause ∧ (logged.boot.reset = none → shown.rd F.bootPartCompute = 3) := by
    unfold shown
    cases logged.boot.reset with
    | none => exact ⟨State.rd_wr_addr _ _ _ _ (by decide), State.rd_wr_addr _ _ _ _ (by decide), fun _ => State.rd_wr_same _ _ _ (by decide)⟩
    | some r => exact ⟨rfl, rfl, fun h => nomatch h⟩
  have hlast := failActs_failPass shown 0
  refine ⟨?_, fun h => ?_, fun h => ?_⟩
  · rw [hlast.2 _ (by decide) fun g hg => (failFld_apart_fatal hg).1, hshown.1, hlogged.2 _ (by decide) fun g hg => (failFld_apart_fatal hg).1, hstate]
  · rw [hlast.2 _ (by decide) fun g hg => (failFld_apart_fatal hg).2.1, hshown.2.1, hlogged.2 _ (by decide) fun g hg => (failFld_apart_fatal hg).2.1, hmf h]
  · rw [hlast.2 _ (by decide) fun g hg => (failFld_apart_fatal hg).2.2, hshown.2.2]
    rw [hlogged.failRest_boot, hboot, h]

end

/-! ## A port die that loses its power (R563, R606) -/

section
variable (s : State)

theorem linkActs_linksLose (ls : Nat → Prop) (p : Nat) : linkActs ls s (s.linksLose p).2 := linkActs_setCaps s (by decide) _ _

/-- A port die that goes dark is known to be dark. -/
def State.darkened (s : State) (p : Nat) : State :=
  s.modPower fun w => { w with darkPorts := if w.darkPorts.contains p then w.darkPorts else w.darkPorts ++ [p] }

theorem State.darkPort_eq (p : Nat) :
    s.darkPort p = ((s.darkened p).linksLose p).1.foldl (fun s l => s.dropLink l) ((s.darkened p).linksLose p).2 := rfl

theorem State.mem_darkened (p : Nat) : p ∈ (s.darkened p).power.darkPorts := by
  simp only [State.darkened, State.modPower]
  split
  · rename_i h
    simpa using h
  · simp

variable {p : Nat} (hp : p < 8)
include hp

theorem linksLose_lt {l : Nat} (hl : l ∈ (s.linksLose p).1) : l < 64 := by
  simp only [State.linksLose, List.mem_filter, List.mem_map, List.mem_range] at hl
  obtain ⟨⟨k, hk, rfl⟩, -⟩ := hl
  omega

/-- A port die that goes dark changes links alone. -/
theorem linkActs_darkPort : linkActs (fun _ => True) (s.darkened p) (s.darkPort p) := by
  rw [s.darkPort_eq]
  refine (linkActs_linksLose _ _ p).trans (framed_foldl_mem _ _ fun u l hl => ?_)
  exact (linkActs_dropLink u (linksLose_lt _ hp hl)).widen fun _ _ => trivial

theorem State.mem_darkPort : p ∈ (s.darkPort p).power.darkPorts := by
  rw [(linkActs_darkPort s hp).linkRest_power]
  exact s.mem_darkened p

/-- Every link of a port die that goes dark is Down or Disabled. -/
theorem State.state_darkPort {k : Nat} (hk : k < 8) : (s.darkPort p).rd (F.linkStatState (8 * p + k)) ≤ lkDown := by
  rw [s.darkPort_eq]
  generalize s.darkened p = u
  have hl : 8 * p + k < 64 := by omega
  have hdown : ∀ (ls : List Nat), (∀ l ∈ ls, l < 64) → ∀ v : State, (8 * p + k ∈ ls ∨ v.rd (F.linkStatState (8 * p + k)) ≤ lkDown) →
      (ls.foldl (fun s l => s.dropLink l) v).rd (F.linkStatState (8 * p + k)) ≤ lkDown := by
    intro ls
    induction ls with
    | nil => exact fun _ v h => h.resolve_left (by simp)
    | cons l ls ih =>
      intro hls v h
      refine ih (fun x hx => hls x (List.mem_cons_of_mem _ hx)) _ ?_
      by_cases hm : l = 8 * p + k
      · subst hm
        exact .inr (v.state_dropLink hl)
      · rcases h with h | h
        · exact .inl ((List.mem_cons.mp h).resolve_left (Ne.symm hm))
        · refine .inr ?_
          rwa [(linkActs_dropLink v (hls l List.mem_cons_self)).state hl (Ne.symm hm)]
  refine hdown _ (fun l hl => linksLose_lt u hp hl) _ ?_
  rw [(linkActs_linksLose u (fun _ => False) p).state hl id]
  by_cases h : u.rd (F.linkStatState (8 * p + k)) ≤ lkDown
  · exact .inr h
  · refine .inl ?_
    simp only [State.linksLose, List.mem_filter, List.mem_map, List.mem_range]
    refine ⟨⟨k, hk, rfl⟩, ?_⟩
    rw [Bool.and_eq_true, decide_eq_true_iff, decide_eq_true_iff]
    simp only [lkDown, lkDisabled] at h ⊢
    omega

end

/-! ## Trips (R606, R607) -/

/-- Fields of the temperatures, of Heel and of the levels: what trips leave. -/
def thermalFld (f : Fld) : Prop := f.addr = R.thrmStat ∨ ∃ n, n < 88 ∧ (f.addr = R.thrmUnit n ∨ n < 24 ∧ f.addr = R.thrmExcl n)

/-- Fields that a trip writes. -/
def tripFld (g : Fld) : Prop := fatalFld g ∨ linkFld (fun _ => True) g ∨ g.addr = R.thrmTrip

theorem postFld_low {g : Fld} (hg : postFld g) : g.addr < 0x6000 := by
  rcases hg with hg | hg | ⟨k, hk, rfl⟩
  · rw [hg]; decide
  · rw [hg]; decide
  · simp only [F.cmdqQcfgBusy, R.cmdqQcfg]; omega

/-- Where the fields lie that a Module-fatal fault writes. -/
theorem fatalFld_range {g : Fld} (hg : fatalFld g) : g.addr < 0x6000 ∨ 0xC00000 ≤ g.addr := by
  rcases hg with (hg | hg | rfl | rfl | rfl) | hg | rfl
  · exact .inl (postFld_low hg)
  · exact .inr hg
  · exact .inl (by decide)
  · exact .inl (by decide)
  · exact .inl (by decide)
  · rw [hg]; exact .inl (by decide)
  · exact .inl (by decide)

/-- Where the fields lie that links write. -/
theorem linkFld_range {ls : Nat → Prop} {g : Fld} (hg : linkFld ls g) : g.addr < 0x6000 ∨ 0x20000 ≤ g.addr ∧ g.addr < 0x28000 ∨ 0x200000 ≤ g.addr := by
  rcases hg with hg | ⟨k, hk, rfl⟩ | hg | ⟨k, hk, rfl⟩ | hg | hg | rfl | ⟨k, hk, hg | hg | ⟨hg, -⟩⟩ | ⟨k, hk, -, rfl⟩ | hg
  · exact .inl (postFld_low hg)
  · simp only [F.linkStatTxSeq, R.linkStat]; omega
  · rw [hg]; exact .inl (by decide)
  · simp only [F.keepLeashScaled, R.keepLeash]; omega
  · rw [hg]; exact .inl (by decide)
  · rw [hg]; exact .inl (by decide)
  · exact .inl (by decide)
  · simp only [R.linkErr] at hg; omega
  · simp only [R.linkCtrl] at hg; omega
  · simp only [R.linkStat] at hg; omega
  · simp only [F.linkStatState, R.linkStat]; omega
  · exact .inr (.inr hg)

theorem thermalFld_range {f : Fld} (hf : thermalFld f) : 0xa000 ≤ f.addr ∧ f.addr < R.thrmTrip := by
  rcases hf with hf | ⟨n, hn, hf | ⟨hx, hf⟩⟩ <;> simp only [R.thrmStat, R.thrmUnit, R.thrmExcl, R.thrmTrip] at * <;> omega

theorem tripFld_thermal {f g : Fld} (hg : tripFld g) (hf : thermalFld f) : g.apart f := by
  obtain ⟨hlo, hhi⟩ := thermalFld_range hf
  have htrip : R.thrmTrip < 0xb000 := by decide
  refine .inl ?_
  rcases hg with hg | hg | hg
  · have := fatalFld_range hg; omega
  · have := linkFld_range hg; omega
  · omega

section
variable (s : State)

/-- The first trip is recorded. -/
def State.tripped (s : State) (n sensor temp : Nat) (hw : Bool) : State :=
  if s.on F.thrmTripValid then s
  else s.wrs [(F.thrmTripValid, 1), (F.thrmTripKind, (unitName n).1), (F.thrmTripIndex, (unitName n).2), (F.thrmTripSensor, sensor), (F.thrmTripTemp, temp),
    (F.thrmTripSource, b2n !hw), (F.thrmTripTime, s.now / 1024)]

theorem State.trip_eq (n sensor temp : Nat) (hw : Bool) : s.trip n sensor temp hw =
    let u := (((s.tripped n sensor temp hw).bump Ev.thrmTrip .module 1).moduleFatal mfTRIP 31 11 (sensorUnit n sensor) R.thrmTrip)
    if 16 ≤ n ∧ n < 24 then u.darkPort (n - 16) else u := rfl

/-- What trips leave besides their fields: the variant, and what the polls before found. -/
def State.thermView (s : State) : Variant × ThermSt := (s.variant, s.therm)

theorem thermView_darkened {q : Fld → Prop} (p : Nat) : framed State.thermView q s (s.darkened p) := framed_of_regs rfl rfl rfl

theorem thermView_bump {q : Fld → Prop} (ev : Nat) (u : EvUnit) (n : Nat) : framed State.thermView q s (s.bump ev u n) := framed_of_regs rfl rfl rfl

theorem thermView_tripped (n sensor temp : Nat) (hw : Bool) : framed State.thermView tripFld s (s.tripped n sensor temp hw) :=
  framed_ite (.refl s) (framed_wrs s (by intros; rfl) (by
    simp [tripFld, F.thrmTripValid, F.thrmTripKind, F.thrmTripIndex, F.thrmTripSensor, F.thrmTripTemp, F.thrmTripSource, F.thrmTripTime]))

theorem thermView_moduleFatal (cause source unitKind unit detail : Nat) :
    framed State.thermView tripFld s (s.moduleFatal cause source unitKind unit detail) :=
  (framed_moduleFatal s cause source unitKind unit detail).mono State.thermView (fun _ => rfl) fun _ => .inl

theorem thermView_darkPort {p : Nat} (hp : p < 8) : framed State.thermView tripFld s (s.darkPort p) :=
  (thermView_darkened s p).trans ((linkActs_darkPort s hp).mono State.thermView (fun _ => rfl) fun _ hg => .inr (.inl hg))

/-- A trip leaves the temperatures, Heel, the levels and what the polls found. -/
theorem framed_trip (n sensor temp : Nat) (hw : Bool) : framed State.thermView tripFld s (s.trip n sensor temp hw) := by
  rw [s.trip_eq]
  extract_lets u
  have hu : framed State.thermView tripFld s u :=
    ((thermView_tripped s n sensor temp hw).trans (thermView_bump _ _ _ _)).trans (thermView_moduleFatal _ _ _ _ _ _)
  clear_value u
  split
  · exact hu.trans (thermView_darkPort u (by omega))
  · exact hu

/-- Links that come up or go down leave the fault's state, the compute partition's and the record of the first trip. -/
theorem linkFld_apart_trip {ls : Nat → Prop} {g f : Fld} (hg : linkFld ls g)
    (hf : f = F.keepFaultStatState ∨ f = F.keepFaultStatMfatalCause ∨ f = F.bootPartCompute ∨ f.addr = R.thrmTrip) : g.apart f := by
  have hr := linkFld_range hg
  rcases hf with hf | hf | hf | hf
  case inr.inr.inr =>
    refine .inl ?_
    rw [hf]
    simp only [R.thrmTrip]
    omega
  all_goals
    subst hf
    rcases hg with (hg | hg | ⟨k, hk, rfl⟩) | ⟨k, hk, rfl⟩ | hg | ⟨k, hk, rfl⟩ | hg | hg | rfl | ⟨k, hk, hg | hg | ⟨hg, -⟩⟩ | ⟨k, hk, -, rfl⟩ | hg <;>
      simp only [Fld.apart, F.keepFaultStatState, F.keepFaultStatMfatalCause, F.bootPartCompute, F.linkStatState, F.linkStatTxSeq, F.keepLeashScaled,
        F.cmdqQcfgBusy, F.bootPartLink, R.linkStat, R.keepLogStat, R.cmdqEvtLost, R.cmdqQcfg, R.keepLeash, R.keepLeashShort, R.bootStatus, R.bootWarn,
        R.bootPart, R.linkErr, R.linkCtrl, R.keepFaultStat] at * <;> omega

/-- The record of the first trip. -/
theorem State.tripped_facts {n sensor temp : Nat} (hn : n < 24) (hsensor : sensor < 64) :
    (s.tripped n sensor temp true).boot = s.boot ∧ (∀ f, f.addr ≠ R.thrmTrip → (s.tripped n sensor temp true).rd f = s.rd f) ∧
    (s.tripped n sensor temp true).on F.thrmTripValid = true ∧
    (s.on F.thrmTripValid = false → (s.tripped n sensor temp true).rd F.thrmTripKind = n / 8 ∧ (s.tripped n sensor temp true).rd F.thrmTripIndex = n % 8 ∧
      (s.tripped n sensor temp true).rd F.thrmTripSensor = sensor ∧ (s.tripped n sensor temp true).rd F.thrmTripTemp = temp % 256 ∧
      (s.tripped n sensor temp true).rd F.thrmTripSource = 0) := by
  unfold State.tripped
  by_cases hon : s.on F.thrmTripValid = true
  · rw [if_pos hon]
    exact ⟨rfl, fun _ _ => rfl, hon, fun h => absurd hon (by simp [h])⟩
  · rw [if_neg hon]
    let ws : List (Fld × Nat) := [(F.thrmTripValid, 1), (F.thrmTripKind, (unitName n).1), (F.thrmTripIndex, (unitName n).2), (F.thrmTripSensor, sensor),
      (F.thrmTripTemp, temp), (F.thrmTripSource, b2n !true), (F.thrmTripTime, s.now / 1024)]
    have hin : ∀ p ∈ ws, (s.wrs ws).rd p.1 = p.2 % 2 ^ p.1.w := fun p hp => State.rd_wrs_of_mem ws s
      (by simp [ws, F.thrmTripValid, F.thrmTripKind, F.thrmTripIndex, F.thrmTripSensor, F.thrmTripTemp, F.thrmTripSource, F.thrmTripTime])
      (by simp [ws, Fld.apart, F.thrmTripValid, F.thrmTripKind, F.thrmTripIndex, F.thrmTripSensor, F.thrmTripTemp, F.thrmTripSource, F.thrmTripTime]) hp
    have hname : (unitName n).1 = n / 8 ∧ (unitName n).2 = n % 8 := by
      unfold unitName
      split
      · exact ⟨by dsimp only; omega, by dsimp only; omega⟩
      split
      · exact ⟨by dsimp only; omega, by dsimp only; omega⟩
      · exact ⟨by dsimp only; omega, by dsimp only; omega⟩
    have hregs := s.wrs_only ws
    refine ⟨hregs.1 ▸ rfl, fun f hf => ?_, ?_, fun _ => ⟨?_, ?_, ?_, ?_, ?_⟩⟩
    · rw [State.rd, State.rd, hregs.2 f.addr]
      simp [ws, F.thrmTripValid, F.thrmTripKind, F.thrmTripIndex, F.thrmTripSensor, F.thrmTripTemp, F.thrmTripSource, F.thrmTripTime, hf]
    · exact decide_eq_true (hin (F.thrmTripValid, 1) (by simp [ws]))
    · refine (hin (F.thrmTripKind, (unitName n).1) (by simp [ws])).trans ?_
      rw [hname.1]
      exact Nat.mod_eq_of_lt (show n / 8 < 8 by omega)
    · refine (hin (F.thrmTripIndex, (unitName n).2) (by simp [ws])).trans ?_
      rw [hname.2]
      exact Nat.mod_eq_of_lt (show n % 8 < 32 by omega)
    · exact (hin (F.thrmTripSensor, sensor) (by simp [ws])).trans (Nat.mod_eq_of_lt hsensor)
    · exact hin (F.thrmTripTemp, temp) (by simp [ws])
    · exact hin (F.thrmTripSource, b2n !true) (by simp [ws])

/-- What a trip in hardware shows. -/
def tripShown (s z : State) (n sensor temp : Nat) : Prop :=
  z.rd F.keepFaultStatState = 2 ∧ (s.rd F.keepFaultStatState ≠ 2 → z.rd F.keepFaultStatMfatalCause = 3) ∧
    (s.boot.reset = none → z.rd F.bootPartCompute = 3) ∧ z.on F.thrmTripValid = true ∧
    (s.on F.thrmTripValid = false → z.rd F.thrmTripKind = n / 8 ∧ z.rd F.thrmTripIndex = n % 8 ∧ z.rd F.thrmTripSensor = sensor ∧
      z.rd F.thrmTripTemp = temp % 256 ∧ z.rd F.thrmTripSource = 0)

/-- It stays shown while links go down. -/
theorem tripShown.of_links {z w : State} {n sensor temp : Nat} (h : tripShown s z n sensor temp)
    (hw : ∀ f : Fld, f.lo + f.w ≤ 64 → (f = F.keepFaultStatState ∨ f = F.keepFaultStatMfatalCause ∨ f = F.bootPartCompute ∨ f.addr = R.thrmTrip) → w.rd f = z.rd f) :
    tripShown s w n sensor temp := by
  have htrip : ∀ f : Fld, f.lo + f.w ≤ 64 → f.addr = R.thrmTrip → w.rd f = z.rd f := fun f hf ha => hw f hf (.inr (.inr (.inr ha)))
  unfold tripShown at *
  rw [hw _ (by decide) (.inl rfl), hw F.keepFaultStatMfatalCause (by decide) (.inr (.inl rfl)),
    hw F.bootPartCompute (by decide) (.inr (.inr (.inl rfl))), State.on, htrip F.thrmTripValid (by decide) rfl, htrip F.thrmTripKind (by decide) rfl,
    htrip F.thrmTripIndex (by decide) rfl, htrip F.thrmTripSensor (by decide) rfl, htrip F.thrmTripTemp (by decide) rfl,
    htrip F.thrmTripSource (by decide) rfl]
  exact h

theorem State.tripShown_moduleFatal {u : State} {n sensor temp detail unit : Nat} (hboot : u.boot = s.boot)
    (hkeep : ∀ f, f.addr ≠ R.thrmTrip → u.rd f = s.rd f) (hvalid : u.on F.thrmTripValid = true)
    (hfirst : s.on F.thrmTripValid = false → u.rd F.thrmTripKind = n / 8 ∧ u.rd F.thrmTripIndex = n % 8 ∧ u.rd F.thrmTripSensor = sensor ∧
      u.rd F.thrmTripTemp = temp % 256 ∧ u.rd F.thrmTripSource = 0) :
    tripShown s (u.moduleFatal mfTRIP 31 11 unit detail) n sensor temp := by
  obtain ⟨hstate, hcause, hpart⟩ := u.moduleFatal_halts mfTRIP 31 11 unit detail (by decide)
  have htrip : ∀ f : Fld, f.lo + f.w ≤ 64 → f.addr = R.thrmTrip → (u.moduleFatal mfTRIP 31 11 unit detail).rd f = u.rd f := fun f hf ha =>
    (framed_moduleFatal u _ _ _ _ _).2 f hf fun g hg => .inl (by
      have := fatalFld_range hg
      rw [ha]
      simp only [R.thrmTrip]
      omega)
  rw [hkeep _ (by decide)] at hcause
  rw [hboot] at hpart
  unfold tripShown
  rw [State.on, htrip F.thrmTripValid (by decide) rfl, htrip F.thrmTripKind (by decide) rfl,
    htrip F.thrmTripIndex (by decide) rfl, htrip F.thrmTripSensor (by decide) rfl, htrip F.thrmTripTemp (by decide) rfl,
    htrip F.thrmTripSource (by decide) rfl]
  exact ⟨hstate, hcause, hpart, hvalid, hfirst⟩

/-- HW_TRIP (R606). -/
theorem hwTrip_facts (n sensor temp : Nat) (hn : n < 24) (hunit : s.thermUnit n = true) (hsensor : sensor < (gridOf n).1 * (gridOf n).2)
    (hin : s.sensorIn n sensor = true) (htemp : 110 ≤ temp) :
    leads (exec (.hwTrip n sensor temp) s) fun z => tripShown s z n sensor temp ∧
      (16 ≤ n → n - 16 ∈ z.power.darkPorts ∧ ∀ k, k < 8 → z.rd (F.linkStatState (8 * (n - 16) + k)) ≤ lkDown) := by
  have hexec : exec (.hwTrip n sensor temp) s = .next (s.trip n sensor temp true) := by
    show execHwTrip n sensor temp s = _
    rw [execHwTrip, if_neg]
    simp only [hunit, hin, tripOf, hn, if_true, Bool.not_true, Bool.false_eq_true, false_or, not_or]
    omega
  have hgrid : (gridOf n).1 * (gridOf n).2 ≤ 64 := by
    unfold gridOf
    split
    · decide
    split
    · decide
    · decide
  obtain ⟨hboot, hkeep, hvalid, hfirst⟩ := s.tripped_facts (temp := temp) hn (lt_of_lt_of_le hsensor hgrid)
  have hshown := s.tripShown_moduleFatal (u := (s.tripped n sensor temp true).bump Ev.thrmTrip .module 1) (unit := sensorUnit n sensor) (detail := R.thrmTrip)
    hboot hkeep hvalid hfirst
  rw [hexec, s.trip_eq]
  refine leads_next ?_
  dsimp only
  by_cases h16 : 16 ≤ n
  · rw [if_pos ⟨h16, hn⟩]
    exact ⟨hshown.of_links s fun f hf ha => ((linkActs_darkPort _ (by omega)).2 f hf fun g hg => linkFld_apart_trip hg ha).trans rfl,
      fun _ => ⟨State.mem_darkPort _ (by omega), fun k hk => State.state_darkPort _ (by omega) hk⟩⟩
  · rw [if_neg fun h => h16 h.1]
    exact ⟨hshown, fun h => absurd h h16⟩

end

end Sys2Proof.Machine
end

section
/-! What a poll of the temperatures finds (R594 to R602). -/

namespace Sys2Proof.Machine

/-! ## One die -/

/-- Fields that the poll of a unit's sensors writes. -/
def pollFld (n : Nat) (g : Fld) : Prop := postFld g ∨ g = F.thrmExclExcl n ∨ g = F.thrmUnitExcluded n ∨ g = F.thrmUnitGuard n

section
variable (s : State) (n : Nat)

theorem framed_modTherm {q : Fld → Prop} (f : ThermSt → ThermSt) : framed State.variant q s (s.modTherm f) := framed_of_regs rfl rfl rfl

theorem framed_free {q : Fld → Prop} : framed State.variant q s s.free.2 := framed_of_regs rfl rfl rfl

theorem framed_excludeLog (i detail : Nat) : framed State.variant postFld s (s.excludeLog n i detail) :=
  ((framed_bump s _ _ _).trans (framed_faultLog _ _ _ _ _ _ _ _)).mono State.variant (fun _ => rfl) fun _ => id

theorem framed_pollDie (rs : List Nat) : framed State.variant (pollFld n) s (s.pollDie n rs).1 := by
  unfold State.pollDie
  extract_lets g is dis counts noted excluded live out guard counted
  have hnoted : framed State.variant (pollFld n) s noted := framed_modTherm s _
  have hexcluded : framed State.variant (pollFld n) noted excluded := framed_foldl counts noted fun u c => by
    refine framed_ite (.refl u) (.trans ?_ ((framed_excludeLog _ n _ _).widen fun _ => .inl))
    exact framed_wr u (by intros; rfl) _ _ (.inr (.inl rfl))
  have hcounted : framed State.variant (pollFld n) s counted :=
    (hnoted.trans hexcluded).trans (framed_wrs _ (by intros; rfl) (by simp [pollFld]))
  clear_value counted
  split
  · exact hcounted.trans (framed_free counted)
  · exact hcounted

theorem framed_pollGroup (g : Nat) (rs : List (Option Int)) : framed State.variant (pollFld (24 + g)) s (s.pollGroup g rs).1 := by
  unfold State.pollGroup
  extract_lets is new excluded live counted m
  have hexcluded : framed State.variant (pollFld (24 + g)) s excluded := framed_foldl new s fun u i =>
    (framed_modTherm u _).trans ((framed_excludeLog _ _ _ _).widen fun _ => .inl)
  have hcounted : framed State.variant (pollFld (24 + g)) s counted :=
    hexcluded.trans (framed_wr _ (by intros; rfl) _ _ (.inr (.inr (.inl rfl))))
  clear_value counted
  split
  · exact hcounted.trans (framed_free counted)
  · exact hcounted

/-- Sensors of a unit's grid. -/
def gridSensors (n : Nat) : List Nat := List.range ((gridOf n).1 * (gridOf n).2)

/-- Every sensor of a die is in service and agrees with its neighbours. -/
def State.agreed (s : State) (n : Nat) (rs : List Nat) : Prop := ∀ i ∈ gridSensors n, s.sensorIn n i = true ∧ s.disagrees n i rs = false

/-- The hottest of a die's sensors. -/
def hottestOf (n : Nat) (rs : List Nat) : Nat := ((gridSensors n).map fun i => rs.getD i 0).foldl max 0

/-- Which sensors agree depends on those excluded alone. -/
theorem State.agreed.of_excl {s w : State} {n : Nat} {rs : List Nat} (h : s.agreed n rs) (hx : w.rd (F.thrmExclExcl n) = s.rd (F.thrmExclExcl n)) :
    w.agreed n rs := by
  have hin : ∀ i, w.sensorIn n i = s.sensorIn n i := fun i => by rw [State.sensorIn, State.sensorIn, hx]
  intro i hi
  obtain ⟨h1, h2⟩ := h i hi
  refine ⟨(hin i).trans h1, ?_⟩
  rw [← h2]
  simp only [State.disagrees, hin]

variable {s n}

/-- A die whose sensors all are in service and agree measures its hottest, and excludes none. -/
theorem State.pollDie_of_agreed {rs : List Nat} (h : s.agreed n rs) :
    (s.pollDie n rs).2 = ((hottestOf n rs : Int), 4) ∧ (s.pollDie n rs).1.rd (F.thrmExclExcl n) = s.rd (F.thrmExclExcl n) ∧
      (s.pollDie n rs).1.rd (F.thrmUnitExcluded n) = 0 := by
  have hne : gridSensors n ≠ [] := by
    unfold gridSensors gridOf
    split
    · decide
    split <;> decide
  unfold State.pollDie
  extract_lets g is dis counts noted excluded live out guard counted
  have hdis : dis = [] := List.filter_eq_nil_iff.mpr fun i hi => by simp [(h i hi).2]
  have hcounts : ∀ c ∈ counts, c.2 < 100 := fun c hc => by
    simp only [counts, hdis, List.mem_map] at hc
    obtain ⟨i, -, rfl⟩ := hc
    simp
  have hexcluded : excluded = noted := by
    have hfix : ∀ (cs : List (Nat × Nat)) (u : State), (∀ c ∈ cs, c.2 < 100) → cs.foldl (fun s c =>
        if c.2 < 100 then s
        else (s.wr (F.thrmExclExcl n) (bfSet (s.rd (F.thrmExclExcl n)) c.1 1 1)).excludeLog n c.1 (R.thrmExcl n)) u = u := by
      intro cs
      induction cs with
      | nil => exact fun _ _ => rfl
      | cons c cs ih =>
        intro u hcs
        rw [List.foldl_cons, if_pos (hcs c List.mem_cons_self)]
        exact ih u fun x hx => hcs x (List.mem_cons_of_mem _ hx)
    exact hfix counts noted hcounts
  have hlive : live = gridSensors n := List.filter_eq_self.mpr fun i hi => by rw [hexcluded]; exact (h i hi).1
  have hout : out = 0 := by simp only [out, hlive]; exact Nat.sub_self _
  have hguard : guard = false := by simp [guard, hout]
  have hrd : ∀ f, excluded.rd f = s.rd f := fun f => by rw [hexcluded]; rfl
  have hcounted : counted.rd (F.thrmExclExcl n) = s.rd (F.thrmExclExcl n) ∧ counted.rd (F.thrmUnitExcluded n) = 0 := by
    constructor
    · rw [← hrd (F.thrmExclExcl n)]
      refine State.rd_wrs_of_apart (by simp [F.thrmExclExcl]) _ excluded ?_
      simp [Fld.apart, F.thrmUnitExcluded, F.thrmUnitGuard, F.thrmExclExcl, R.thrmUnit, R.thrmExcl]
    · refine (State.rd_wrs_of_mem _ excluded (by simp [F.thrmUnitExcluded, F.thrmUnitGuard])
        (by simp [Fld.apart, F.thrmUnitExcluded, F.thrmUnitGuard]) (p := (F.thrmUnitExcluded n, out)) (by simp)).trans ?_
      rw [hout]
      rfl
  rw [if_neg (by rw [hlive]; simpa [List.isEmpty_iff] using hne)]
  refine ⟨?_, hcounted⟩
  rw [hlive, hguard]
  simp [hottestOf]

end

/-! ## One unit after another -/

section
variable {α : Type} (f : State → Nat → State × α)

/-- Units polled in turn: the state after them, and what each gave. -/
def pollAll (k : Nat) (s : State) : State × List α := (List.range k).foldl (fun acc i => ((f acc.1 i).1, acc.2 ++ [(f acc.1 i).2])) (s, [])

theorem pollAll_succ (k : Nat) (s : State) :
    pollAll f (k + 1) s = ((f (pollAll f k s).1 k).1, (pollAll f k s).2 ++ [(f (pollAll f k s).1 k).2]) := by
  rw [pollAll, List.range_succ, List.foldl_append]
  rfl

theorem pollAll_length (k : Nat) (s : State) : (pollAll f k s).2.length = k := by
  induction k with
  | zero => rfl
  | succ k ih => rw [pollAll_succ, List.length_append, ih]; rfl

variable {f}

theorem pollAll_keep {I : State → Prop} {k : Nat} {s : State} (h : I s) (hI : ∀ u i, i < k → I u → I (f u i).1) : I (pollAll f k s).1 := by
  induction k with
  | zero => exact h
  | succ k ih =>
    rw [pollAll_succ]
    exact hI _ k (Nat.lt_succ_self k) (ih fun u i hi => hI u i (Nat.lt_succ_of_lt hi))

/-- What one unit gave, and what stands once it has been polled. -/
theorem pollAll_at {I J : State → Prop} {P : α → Prop} {k n : Nat} {s : State} (hn : n < k) (h : I s) (hI : ∀ u i, i < k → I u → I (f u i).1)
    (hP : ∀ u, I u → P (f u n).2 ∧ J (f u n).1) (hJ : ∀ u i, i < k → i ≠ n → J u → J (f u i).1) :
    (∀ x, (pollAll f k s).2[n]? = some x → P x) ∧ J (pollAll f k s).1 := by
  induction k with
  | zero => omega
  | succ k ih =>
    have hk : I (pollAll f k s).1 := pollAll_keep h fun u i hi => hI u i (Nat.lt_succ_of_lt hi)
    rw [pollAll_succ]
    rcases Nat.lt_succ_iff_lt_or_eq.mp hn with hlt | rfl
    · obtain ⟨h1, h2⟩ := ih hlt (fun u i hi => hI u i (Nat.lt_succ_of_lt hi)) fun u i hi => hJ u i (Nat.lt_succ_of_lt hi)
      refine ⟨fun x hx => h1 x ?_, hJ _ k (Nat.lt_succ_self k) (by omega) h2⟩
      rwa [List.getElem?_append_left (by rw [pollAll_length]; exact hlt)] at hx
    · refine ⟨fun x hx => ?_, (hP _ hk).2⟩
      rw [List.getElem?_append_right (by rw [pollAll_length]), pollAll_length, Nat.sub_self] at hx
      cases hx
      exact (hP _ hk).1

end

/-! ## Every unit (R598, R599) -/

/-- A floor's poll: its sensors, and the temperature inferred from its deck and its power stages. -/
def State.pollFloor (stages decks : List Temp) (r : ThermalIn) (s : State) (f : Nat) : State × Temp × Temp :=
  let x := s.pollDie (8 + f) (r.floor.getD f [])
  let t := x.1.inferred f (decks.getD f (0, 1)).quarter (maxInt ([f, 8 + f, 16 + f].map fun g => (stages.getD g (0, 1)).quarter))
  if t.2 = 0 then (x.1.free.2, x.2, (((x.1.free.1 % 256 : Nat) : Int), 1)) else (x.1, x.2, t)

/-- The polls in turn: power stages, decks, floors, ports. -/
def State.stagePolls (s : State) (r : ThermalIn) : State × List Temp := pollAll (fun u g => u.pollGroup g (r.stage.getD g [])) 32 s
def State.deckPolls (s : State) (r : ThermalIn) : State × List Temp := pollAll (fun u d => u.pollDie d (r.deck.getD d [])) 8 (s.stagePolls r).1
def State.floorPolls (s : State) (r : ThermalIn) : State × List (Temp × Temp) :=
  pollAll (State.pollFloor (s.stagePolls r).2 (s.deckPolls r).2 r) 8 (s.deckPolls r).1
def State.portPolls (s : State) (r : ThermalIn) : State × List Temp :=
  pollAll (fun u p => u.pollDie (16 + p) (r.port.getD p [])) (s.floorPolls r).1.variant.portDies (s.floorPolls r).1

/-- Governing temperatures of decks, floors, ports and power stages polled, and of the populated stacks. -/
def State.govList (w : State) (decks : List Temp) (floors : List (Temp × Temp)) (ports stages : List Temp) : List (Nat × Temp) :=
  decks.zipIdx.map (fun x => (x.2, x.1)) ++ floors.zipIdx.map (fun x => (8 + x.2, Temp.max x.1.1 x.1.2))
    ++ ports.zipIdx.map (fun x => (16 + x.2, x.1)) ++ stages.zipIdx.map (fun x => (24 + x.2, x.1))
    ++ ((List.range 32).filter fun h => w.stackPopulated h).map fun h => (56 + h, (((tget (fun _ => 0) w.therm.hbm h : Nat) : Int), 10000000))

/-- The governing temperatures that a poll finds. -/
def State.govs (s : State) (r : ThermalIn) : List (Nat × Temp) :=
  (s.portPolls r).1.govList (s.deckPolls r).2 (s.floorPolls r).2 (s.portPolls r).2 (s.stagePolls r).2

/-- A unit's temperatures written, where the floors gave `floors`. -/
def State.putGov (floors : List (Temp × Temp)) (s : State) (x : Nat × Temp) : State :=
  if x.1 < 8 ∨ (16 ≤ x.1 ∧ x.1 < 56) then s.putUnit x.1 x.2 x.2 0
  else if x.1 < 16 then s.putUnit x.1 (floors.getD (x.1 - 8) ((0, 1), (0, 1))).1 x.2 (floors.getD (x.1 - 8) ((0, 1), (0, 1))).2.deg
  else s.wrs [(F.thrmUnitMeasured x.1, s.rd (F.hbmcTempReported (x.1 - 56))), (F.thrmUnitDerived x.1, x.2.deg), (F.thrmUnitGoverning x.1, x.2.deg)]

theorem pollAll_pollFloor (stages decks : List Temp) (r : ThermalIn) (s : State) :
    (List.range 8).foldl (fun (acc : State × List (Temp × Temp)) f =>
      let x := acc.1.pollDie (8 + f) (r.floor.getD f [])
      let ts := maxInt ([f, 8 + f, 16 + f].map fun g => (stages.getD g (0, 1)).quarter)
      let t := x.1.inferred f (decks.getD f (0, 1)).quarter ts
      if t.2 = 0 then let (v, s) := x.1.free; (s, acc.2 ++ [(x.2, (((v % 256 : Nat) : Int), 1))]) else (x.1, acc.2 ++ [(x.2, t)])) (s, [])
    = pollAll (State.pollFloor stages decks r) 8 s := by
  have hpush : ∀ (x : State × Temp) (t : Temp) (l : List (Temp × Temp)),
    (if t.2 = 0 then let (v, s) := x.1.free; (s, l ++ [(x.2, (((v % 256 : Nat) : Int), 1))]) else (x.1, l ++ [(x.2, t)])) =
    ((if t.2 = 0 then (x.1.free.2, x.2, (((x.1.free.1 % 256 : Nat) : Int), 1)) else (x.1, x.2, t)).1,
      l ++ [(if t.2 = 0 then (x.1.free.2, x.2, (((x.1.free.1 % 256 : Nat) : Int), 1)) else (x.1, x.2, t)).2]) := fun x t l => by
    split <;> rfl
  unfold pollAll
  refine List.foldl_ext _ _ _ fun acc f _ => ?_
  exact hpush (acc.1.pollDie (8 + f) (r.floor.getD f [])) (State.inferred _ _ _ _) acc.2

theorem State.pollUnits_eq (s : State) (r : ThermalIn) :
    (s.pollUnits r).1 = (s.govs r).foldl (State.putGov (s.floorPolls r).2) (s.portPolls r).1 ∧ (s.pollUnits r).2.1 = s.govs r := by
  unfold State.pollUnits
  dsimp only
  rw [pollAll_pollFloor]
  exact ⟨rfl, rfl⟩

end Sys2Proof.Machine
end

section
/-! THERMAL_POLL (R594 to R602). -/

namespace Sys2Proof.Machine

/-! ## What is found of one unit -/

/-- Writes in turn, of which those of one key alone write a value: it is what one of them wrote. -/
theorem foldl_last {β γ : Type} {f : State → β → State} {g : State → γ} {key : β → Prop} {val : β → γ} {l : List β}
    (hval : ∀ u, ∀ x ∈ l, key x → g (f u x) = val x) (hkeep : ∀ u, ∀ x ∈ l, ¬ key x → g (f u x) = g u) (s : State) (h : ∃ x ∈ l, key x) :
    ∃ x ∈ l, key x ∧ g (l.foldl f s) = val x := by
  induction l using List.reverseRecOn with
  | nil => simp at h
  | append_singleton l y ih =>
    rw [List.foldl_append, List.foldl_cons, List.foldl_nil]
    by_cases hy : key y
    · exact ⟨y, by simp, hy, hval _ y (by simp) hy⟩
    · obtain ⟨x, hx, hk⟩ := h
      have hxl : x ∈ l := (List.mem_append.mp hx).resolve_right fun h => hy (List.mem_singleton.mp h ▸ hk)
      obtain ⟨x', hx', hk', hg⟩ := ih (fun u z hz => hval u z (List.mem_append_left _ hz)) (fun u z hz => hkeep u z (List.mem_append_left _ hz)) ⟨x, hxl, hk⟩
      exact ⟨x', List.mem_append_left _ hx', hk', (hkeep _ y (by simp) hy).trans hg⟩

theorem Temp.deg_lt (t : Temp) : t.deg < 256 := by
  unfold Temp.deg
  omega

section
variable {w : State} {decks : List Temp} {floors : List (Temp × Temp)} {ports stages : List Temp}

theorem State.mem_govList {x : Nat × Temp} : x ∈ w.govList decks floors ports stages ↔
    (decks[x.1]? = some x.2) ∨ (∃ i p, floors[i]? = some p ∧ x.1 = 8 + i ∧ x.2 = Temp.max p.1 p.2) ∨ (∃ i, ports[i]? = some x.2 ∧ x.1 = 16 + i) ∨
      (∃ i, stages[i]? = some x.2 ∧ x.1 = 24 + i) ∨
      ∃ h, h < 32 ∧ w.stackPopulated h = true ∧ x.1 = 56 + h ∧ x.2 = (((tget (fun _ => 0) w.therm.hbm h : Nat) : Int), 10000000) := by
  unfold State.govList
  simp only [List.mem_append, List.mem_map, List.mem_filter, List.mem_range, List.mem_zipIdx_iff_getElem?, or_assoc, and_assoc]
  obtain ⟨n, t⟩ := x
  simp only [Prod.mk.injEq]
  refine or_congr ⟨?_, fun h => ⟨(t, n), h, rfl, rfl⟩⟩ (or_congr ⟨?_, ?_⟩ (or_congr ⟨?_, ?_⟩ (or_congr ⟨?_, ?_⟩
    (exists_congr fun h => and_congr_right fun _ => and_congr_right fun _ => and_congr eq_comm eq_comm))))
  · rintro ⟨_, h, rfl, rfl⟩
    exact h
  · rintro ⟨y, h, rfl, rfl⟩
    exact ⟨y.2, y.1, h, rfl, rfl⟩
  · rintro ⟨i, p, h, rfl, rfl⟩
    exact ⟨(p, i), h, rfl, rfl⟩
  · rintro ⟨y, h, rfl, rfl⟩
    exact ⟨y.2, h, rfl⟩
  · rintro ⟨i, h, rfl⟩
    exact ⟨(t, i), h, rfl, rfl⟩
  · rintro ⟨y, h, rfl, rfl⟩
    exact ⟨y.2, h, rfl⟩
  · rintro ⟨i, h, rfl⟩
    exact ⟨(t, i), h, rfl, rfl⟩

theorem exists_getElem? {α : Type} {l : List α} {k i : Nat} (hl : l.length = k) (hi : i < k) : ∃ x, l[i]? = some x :=
  ⟨_, List.getElem?_eq_getElem (hl ▸ hi)⟩

/-- Every unit that the module has is governed by some temperature. -/
theorem State.exists_mem_govList (hd : decks.length = 8) (hf : floors.length = 8) (hp : ports.length = w.variant.portDies) (hs : stages.length = 32)
    {n : Nat} (hunit : w.thermUnit n = true) : ∃ x ∈ w.govList decks floors ports stages, x.1 = n := by
  simp only [State.thermUnit, Bool.or_eq_true, Bool.and_eq_true, decide_eq_true_eq] at hunit
  have hcases : n < 8 ∨ (8 ≤ n ∧ n - 8 < 8) ∨ (16 ≤ n ∧ n - 16 < w.variant.portDies) ∨ (24 ≤ n ∧ n - 24 < 32) ∨
      (56 ≤ n ∧ n - 56 < 32 ∧ w.stackPopulated (n - 56) = true) := by
    rcases hunit with ((h | h) | h) | ⟨h, hpop⟩
    · omega
    · omega
    · omega
    · exact .inr (.inr (.inr (.inr ⟨h.1, by omega, hpop⟩)))
  rcases hcases with h | ⟨h8, h⟩ | ⟨h16, h⟩ | ⟨h24, h⟩ | ⟨h56, h, hpop⟩
  · obtain ⟨t, ht⟩ := exists_getElem? hd h
    exact ⟨(n, t), mem_govList.mpr (.inl ht), rfl⟩
  · obtain ⟨p, ht⟩ := exists_getElem? hf h
    exact ⟨(8 + (n - 8), Temp.max p.1 p.2), mem_govList.mpr (.inr (.inl ⟨_, p, ht, rfl, rfl⟩)), by dsimp only; omega⟩
  · obtain ⟨t, ht⟩ := exists_getElem? hp h
    exact ⟨(n, t), mem_govList.mpr (.inr (.inr (.inl ⟨_, ht, by dsimp only; omega⟩))), rfl⟩
  · obtain ⟨t, ht⟩ := exists_getElem? hs h
    exact ⟨(n, t), mem_govList.mpr (.inr (.inr (.inr (.inl ⟨_, ht, by dsimp only; omega⟩)))), rfl⟩
  · exact ⟨(56 + (n - 56), _), mem_govList.mpr (.inr (.inr (.inr (.inr ⟨_, h, hpop, rfl, rfl⟩)))), by dsimp only; omega⟩

end

/-! ## The writes of the temperatures -/

/-- Fields that a unit's temperatures are written in. -/
def govFld (n : Nat) (g : Fld) : Prop := g = F.thrmUnitMeasured n ∨ g = F.thrmUnitDerived n ∨ g = F.thrmUnitGoverning n

section
variable (s : State) (floors : List (Temp × Temp)) (x : Nat × Temp)

/-- A unit's temperature as measured, where the floors gave `floors`. -/
def measuredOf : Temp := if x.1 < 8 ∨ (16 ≤ x.1 ∧ x.1 < 56) then x.2 else (floors.getD (x.1 - 8) ((0, 1), (0, 1))).1

theorem State.putGov_eq : ∃ m d, State.putGov floors s x = s.wrs [(F.thrmUnitMeasured x.1, m), (F.thrmUnitDerived x.1, d), (F.thrmUnitGoverning x.1, x.2.deg)] ∧
    (x.1 < 56 → m = (measuredOf floors x).deg) := by
  unfold State.putGov measuredOf
  by_cases h1 : x.1 < 8 ∨ (16 ≤ x.1 ∧ x.1 < 56)
  · rw [if_pos h1, if_pos h1]
    exact ⟨_, _, rfl, fun _ => rfl⟩
  rw [if_neg h1, if_neg h1]
  by_cases h2 : x.1 < 16
  · rw [if_pos h2]
    exact ⟨_, _, rfl, fun _ => rfl⟩
  · rw [if_neg h2]
    exact ⟨_, _, rfl, fun h => by omega⟩

theorem framed_putGov : framed State.variant (govFld x.1) s (State.putGov floors s x) := by
  obtain ⟨m, d, heq, -⟩ := s.putGov_eq floors x
  rw [heq]
  exact framed_wrs s (by intros; rfl) (by simp [govFld])

theorem State.rd_putGov : (State.putGov floors s x).rd (F.thrmUnitGoverning x.1) = x.2.deg ∧
    (x.1 < 56 → (State.putGov floors s x).rd (F.thrmUnitMeasured x.1) = (measuredOf floors x).deg) := by
  obtain ⟨m, d, heq, hm⟩ := s.putGov_eq floors x
  have hin := fun p => State.rd_wrs_of_mem [(F.thrmUnitMeasured x.1, m), (F.thrmUnitDerived x.1, d), (F.thrmUnitGoverning x.1, x.2.deg)] s
    (by simp [F.thrmUnitMeasured, F.thrmUnitDerived, F.thrmUnitGoverning])
    (by simp [Fld.apart, F.thrmUnitMeasured, F.thrmUnitDerived, F.thrmUnitGoverning]) (p := p)
  rw [heq]
  refine ⟨(hin (F.thrmUnitGoverning x.1, x.2.deg) (by simp)).trans (Nat.mod_eq_of_lt x.2.deg_lt), fun h => ?_⟩
  rw [hin (F.thrmUnitMeasured x.1, m) (by simp), hm h]
  exact Nat.mod_eq_of_lt (Temp.deg_lt _)

variable {x} in
theorem State.rd_putGov_ne {n : Nat} (h : x.1 ≠ n) : (State.putGov floors s x).rd (F.thrmUnitGoverning n) = s.rd (F.thrmUnitGoverning n) ∧
    (State.putGov floors s x).rd (F.thrmUnitMeasured n) = s.rd (F.thrmUnitMeasured n) := by
  have hap : ∀ f : Fld, f.addr = R.thrmUnit n → ∀ g, govFld x.1 g → g.apart f := fun f hf g hg => .inl (by
    have : g.addr = R.thrmUnit x.1 := by rcases hg with rfl | rfl | rfl <;> rfl
    rw [this, hf, R.thrmUnit, R.thrmUnit]
    omega)
  exact ⟨(framed_putGov s floors x).2 _ (by simp [F.thrmUnitGoverning]) (hap _ rfl), (framed_putGov s floors x).2 _ (by simp [F.thrmUnitMeasured]) (hap _ rfl)⟩

end

/-! ## The polls -/

section
variable (s : State) (r : ThermalIn)

/-- The sensors of a die, as a poll gives them. -/
def sensorsOf (r : ThermalIn) (n : Nat) : List Nat :=
  if n < 8 then r.deck.getD n [] else if n < 16 then r.floor.getD (n - 8) [] else r.port.getD (n - 16) []

theorem framed_pollFloor (stages decks : List Temp) (f : Nat) :
    framed State.variant (pollFld (8 + f)) s (State.pollFloor stages decks r s f).1 := by
  have hdie := framed_pollDie s (8 + f) (r.floor.getD f [])
  unfold State.pollFloor
  extract_lets x t
  split
  · exact hdie.trans (framed_free _)
  · exact hdie

theorem pollFld_apart_excl {m n : Nat} (h : m ≠ n) (hn : n < 24) (hm : m < 56) {g : Fld} (hg : pollFld m g) :
    g.apart (F.thrmExclExcl n) ∧ g.apart (F.thrmUnitExcluded n) := by
  rcases hg with hg | rfl | rfl | rfl
  · have := postFld_low hg
    exact ⟨.inl (by simp only [F.thrmExclExcl, R.thrmExcl]; omega), .inl (by simp only [F.thrmUnitExcluded, R.thrmUnit]; omega)⟩
  all_goals
    constructor <;> refine .inl ?_ <;>
      simp only [F.thrmExclExcl, F.thrmUnitExcluded, F.thrmUnitGuard, R.thrmExcl, R.thrmUnit] <;> omega

/-- What the polls of other units keep of a die's exclusions. -/
theorem framed.excl {s w : State} {m n : Nat} (h : framed State.variant (pollFld m) s w) (hmn : m ≠ n) (hn : n < 24) (hm : m < 56) :
    w.rd (F.thrmExclExcl n) = s.rd (F.thrmExclExcl n) ∧ w.rd (F.thrmUnitExcluded n) = s.rd (F.thrmUnitExcluded n) :=
  ⟨h.2 _ (by simp [F.thrmExclExcl]) fun _ hg => (pollFld_apart_excl hmn hn hm hg).1,
    h.2 _ (by simp [F.thrmUnitExcluded]) fun _ hg => (pollFld_apart_excl hmn hn hm hg).2⟩

/-- Polls of a run of units. -/
structure Polls {α : Type} (f : State → Nat → State × α) (b k : Nat) : Prop where
  le : b + k ≤ 56
  frame : ∀ u i, framed State.variant (pollFld (b + i)) u (f u i).1

section
variable {s} {α : Type} {f : State → Nat → State × α} {b k n : Nat} {rs : List Nat} (hp : Polls f b k)
include hp

theorem Polls.framed_pollAll (s : State) : framed State.variant (fun g => ∃ m, m < 56 ∧ pollFld m g) s (pollAll f k s).1 :=
  pollAll_keep (I := framed State.variant _ s) (.refl s) fun u i hi hu => hu.trans ((hp.frame u i).widen fun g hg => ⟨b + i, by have := hp.le; omega, hg⟩)

/-- They keep another die's exclusions. -/
theorem Polls.excl (s : State) (hn : n < 24) (hb : n < b ∨ b + k ≤ n) :
    (pollAll f k s).1.rd (F.thrmExclExcl n) = s.rd (F.thrmExclExcl n) ∧ (pollAll f k s).1.rd (F.thrmUnitExcluded n) = s.rd (F.thrmUnitExcluded n) := by
  have hle := hp.le
  refine pollAll_keep (I := fun u => u.rd (F.thrmExclExcl n) = s.rd (F.thrmExclExcl n) ∧ u.rd (F.thrmUnitExcluded n) = s.rd (F.thrmUnitExcluded n))
    ⟨rfl, rfl⟩ fun u i hi hu => ?_
  obtain ⟨h1, h2⟩ := (hp.frame u i).excl (n := n) (by omega) hn (by omega)
  exact ⟨h1.trans hu.1, h2.trans hu.2⟩

/-- A die of them that agrees is measured, and excludes no sensor. -/
theorem Polls.measured {meas : α → Temp} {i : Nat} (hi : i < k) (hn : b + i < 24) (hagree : s.agreed (b + i) rs)
    (hmeas : ∀ u, meas (f u i).2 = (u.pollDie (b + i) rs).2 ∧
      ∀ g : Fld, (f u i).1.rd g = (u.pollDie (b + i) rs).1.rd g)
    {w : State} (hw : w.rd (F.thrmExclExcl (b + i)) = s.rd (F.thrmExclExcl (b + i))) :
    (∀ x, (pollAll f k w).2[i]? = some x → meas x = ((hottestOf (b + i) rs : Int), 4)) ∧ (pollAll f k w).1.rd (F.thrmUnitExcluded (b + i)) = 0 := by
  have hle := hp.le
  have hother : ∀ u j, j < k → j ≠ i → (f u j).1.rd (F.thrmExclExcl (b + i)) = u.rd (F.thrmExclExcl (b + i)) ∧
      (f u j).1.rd (F.thrmUnitExcluded (b + i)) = u.rd (F.thrmUnitExcluded (b + i)) := fun u j hj hji =>
    (hp.frame u j).excl (n := b + i) (by omega) hn (by omega)
  have hown : ∀ u : State, u.rd (F.thrmExclExcl (b + i)) = s.rd (F.thrmExclExcl (b + i)) →
      meas (f u i).2 = ((hottestOf (b + i) rs : Int), 4) ∧ (f u i).1.rd (F.thrmExclExcl (b + i)) = s.rd (F.thrmExclExcl (b + i)) ∧
        (f u i).1.rd (F.thrmUnitExcluded (b + i)) = 0 := fun u hu => by
    obtain ⟨hm, hrd⟩ := hmeas u
    obtain ⟨h1, h2, h3⟩ := State.pollDie_of_agreed (hagree.of_excl hu)
    exact ⟨hm.trans h1, (hrd _).trans (h2.trans hu), (hrd _).trans h3⟩
  refine pollAll_at (I := fun u => u.rd (F.thrmExclExcl (b + i)) = s.rd (F.thrmExclExcl (b + i))) (J := fun u => u.rd (F.thrmUnitExcluded (b + i)) = 0)
    (P := fun x => meas x = ((hottestOf (b + i) rs : Int), 4)) hi hw (fun u j hj hu => ?_) (fun u hu => ⟨(hown u hu).1, (hown u hu).2.2⟩)
    fun u j hj hji hu => (hother u j hj hji).2.trans hu
  by_cases hji : j = i
  · rw [hji]; exact (hown u hu).2.1
  · exact (hother u j hj hji).1.trans hu

end

theorem polls_stages : Polls (fun u g => u.pollGroup g (r.stage.getD g [])) 24 32 := ⟨by omega, fun u g => framed_pollGroup u g _⟩

theorem polls_decks : Polls (fun u d => u.pollDie d (r.deck.getD d [])) 0 8 :=
  ⟨by omega, fun u d => by rw [Nat.zero_add]; exact framed_pollDie u d _⟩

theorem polls_floors (stages decks : List Temp) : Polls (State.pollFloor stages decks r) 8 8 := ⟨by omega, fun u f => framed_pollFloor u r _ _ f⟩

theorem polls_ports (v : Variant) : Polls (fun u p => u.pollDie (16 + p) (r.port.getD p [])) 16 v.portDies :=
  ⟨by have := portDies_le v; omega, fun u p => framed_pollDie u _ _⟩

theorem State.pollFloor_meas (stages decks : List Temp) (f : Nat) :
    (State.pollFloor stages decks r s f).2.1 = (s.pollDie (8 + f) (r.floor.getD f [])).2 ∧
      ∀ g : Fld, (State.pollFloor stages decks r s f).1.rd g = (s.pollDie (8 + f) (r.floor.getD f [])).1.rd g := by
  unfold State.pollFloor
  extract_lets x t
  split
  · exact ⟨rfl, fun _ => rfl⟩
  · exact ⟨rfl, fun _ => rfl⟩

/-- The polls keep the variant, and write exclusions and unit's records alone. -/
theorem framed_portPolls : framed State.variant (fun g => ∃ m, m < 56 ∧ pollFld m g) s (s.portPolls r).1 :=
  ((((polls_stages r).framed_pollAll s).trans ((polls_decks r).framed_pollAll _)).trans ((polls_floors r _ _).framed_pollAll _)).trans
    ((polls_ports r _).framed_pollAll _)

/-- A die whose sensors all are in service and agree: what its governing temperature was measured as, and what it excludes. -/
theorem State.portPolls_agreed {n : Nat} (hn : n < 24) (hagree : s.agreed n (sensorsOf r n)) :
    (∀ x ∈ s.govs r, x.1 = n → measuredOf (s.floorPolls r).2 x = ((hottestOf n (sensorsOf r n) : Int), 4)) ∧
      (n < 16 ∨ n - 16 < s.variant.portDies → (s.portPolls r).1.rd (F.thrmUnitExcluded n) = 0) := by
  have hstage : (s.stagePolls r).1.rd (F.thrmExclExcl n) = s.rd (F.thrmExclExcl n) := ((polls_stages r).excl s hn (.inl hn)).1
  have hdecks := fun h => (polls_decks r).excl (s.stagePolls r).1 hn h
  have hfloors := fun h => (polls_floors r (s.stagePolls r).2 (s.deckPolls r).2).excl (s.deckPolls r).1 hn h
  have hports := fun h => (polls_ports r (s.floorPolls r).1.variant).excl (s.floorPolls r).1 hn h
  have hv : (s.floorPolls r).1.variant = s.variant :=
    ((((polls_stages r).framed_pollAll s).trans ((polls_decks r).framed_pollAll _)).trans ((polls_floors r _ _).framed_pollAll _)).1
  have hle := portDies_le s.variant
  have hlen : (s.deckPolls r).2.length = 8 ∧ (s.floorPolls r).2.length = 8 ∧ (s.portPolls r).2.length = (s.floorPolls r).1.variant.portDies :=
    ⟨pollAll_length _ _ _, pollAll_length _ _ _, pollAll_length _ _ _⟩
  have hlt : ∀ {α : Type} {l : List α} {i : Nat} {y : α}, l[i]? = some y → i < l.length := fun h => (List.getElem?_eq_some_iff.mp h).1
  have hcases : n < 8 ∨ 8 ≤ n ∧ n < 16 ∨ 16 ≤ n := by omega
  rcases hcases with h | ⟨h8, h⟩ | h
  · obtain ⟨h1, h2⟩ := (polls_decks r).measured (s := s) (rs := sensorsOf r n) (meas := id) h (by omega) (by rwa [Nat.zero_add])
      (fun u => by rw [Nat.zero_add, sensorsOf, if_pos h]; exact ⟨rfl, fun _ => rfl⟩) (w := (s.stagePolls r).1) (by rwa [Nat.zero_add])
    rw [Nat.zero_add] at h1 h2
    refine ⟨fun x hx hxn => ?_, fun _ => (hports (.inl (by omega))).2.trans ((hfloors (.inl h)).2.trans h2)⟩
    rw [measuredOf, if_pos (by omega)]
    rcases State.mem_govList.mp hx with hx | ⟨i, p, hi, hxi, -⟩ | ⟨i, hi, hxi⟩ | ⟨i, hi, hxi⟩ | ⟨i, hi, -, hxi, -⟩
    · exact h1 _ (hxn ▸ hx)
    all_goals omega
  · obtain ⟨i, rfl⟩ : ∃ i, n = 8 + i := ⟨n - 8, by omega⟩
    obtain ⟨h1, h2⟩ := (polls_floors r (s.stagePolls r).2 (s.deckPolls r).2).measured (s := s) (rs := sensorsOf r (8 + i)) (meas := Prod.fst) (i := i)
      (by omega) hn hagree (fun u => by
        rw [sensorsOf, if_neg (by omega), if_pos h, Nat.add_sub_cancel_left]
        exact u.pollFloor_meas r _ _ i) (w := (s.deckPolls r).1) ((hdecks (.inr (by omega))).1.trans hstage)
    refine ⟨fun x hx hxn => ?_, fun _ => (hports (.inl (by omega))).2.trans h2⟩
    rw [measuredOf, if_neg (by omega), hxn, Nat.add_sub_cancel_left]
    rcases State.mem_govList.mp hx with hx | ⟨j, p, hj, hxj, -⟩ | ⟨j, hj, hxj⟩ | ⟨j, hj, hxj⟩ | ⟨j, hj, -, hxj, -⟩
    · have := hlt hx
      omega
    · obtain rfl : j = i := by omega
      rw [List.getD_eq_getElem?_getD, hj]
      exact h1 p hj
    all_goals omega
  · obtain ⟨i, rfl⟩ : ∃ i, n = 16 + i := ⟨n - 16, by omega⟩
    have hpoll := fun hi : i < s.variant.portDies => (polls_ports r (s.floorPolls r).1.variant).measured (s := s) (rs := sensorsOf r (16 + i)) (meas := id)
      (i := i) (hv ▸ hi) hn hagree (fun u => by
        rw [sensorsOf, if_neg (by omega), if_neg (by omega), Nat.add_sub_cancel_left]
        exact ⟨rfl, fun _ => rfl⟩) (w := (s.floorPolls r).1) ((hfloors (.inr (by omega))).1.trans ((hdecks (.inr (by omega))).1.trans hstage))
    refine ⟨fun x hx hxn => ?_, fun hi => (hpoll (by omega)).2⟩
    rw [measuredOf, if_pos (by omega)]
    rcases State.mem_govList.mp hx with hx | ⟨j, p, hj, hxj, -⟩ | ⟨j, hj, hxj⟩ | ⟨j, hj, hxj⟩ | ⟨j, hj, -, hxj, -⟩
    · have := hlt hx
      omega
    · have := hlt hj
      omega
    · obtain rfl : j = i := by omega
      have hj' := hlt hj
      rw [hlen.2.2, hv] at hj'
      exact (hpoll hj').1 _ hj
    all_goals omega

/-- A temperature at or above a limit shows so in degrees, and one shown so is above the limits below. -/
theorem Temp.not_atMost_of_deg {t : Temp} {d : Nat} (hd : 3 ≤ d) (h : d ≤ t.deg) : t.atMost (d - 3) = false := by
  obtain ⟨a, b⟩ := t
  unfold Temp.deg at h
  have hq : (d : Int) ≤ a / (b : Int) := by dsimp only at h; omega
  have hb : 0 < (b : Int) := by
    rcases Nat.eq_zero_or_pos b with rfl | hb
    · rw [Nat.cast_zero, Int.ediv_zero] at hq
      omega
    · exact_mod_cast hb
  have hmul : (d : Int) * b ≤ a := (Int.le_ediv_iff_mul_le hb).mp hq
  refine decide_eq_false fun hle => ?_
  have hlt : ((d - 3 : Nat) : Int) * b < d * b := mul_lt_mul_of_pos_right (by omega) hb
  dsimp only at hle
  omega

/-- The units' temperatures once they are polled. -/
structure Polled (s u : State) (r : ThermalIn) (govs : List (Nat × Temp)) : Prop where
  units : ∀ n, u.thermUnit n = s.thermUnit n
  governing : ∀ n, s.thermUnit n = true → ∃ x ∈ govs, x.1 = n ∧ u.rd (F.thrmUnitGoverning n) = x.2.deg
  measured : ∀ n, n < 24 → s.thermUnit n = true → s.agreed n (sensorsOf r n) →
    u.rd (F.thrmUnitMeasured n) = min 255 (hottestOf n (sensorsOf r n) / 4) ∧ u.rd (F.thrmUnitExcluded n) = 0

/-- Which units a module has depends on the variant and its stacks. -/
theorem State.thermUnit_congr {s w : State} (hv : w.variant = s.variant) (hpop : ∀ h, h < 32 → w.rd (F.hbmcCfgPopulated h) = s.rd (F.hbmcCfgPopulated h)) (n : Nat) :
    w.thermUnit n = s.thermUnit n := by
  by_cases h56 : 56 ≤ n ∧ n < 88
  · simp only [State.thermUnit, State.stackPopulated, State.on, hv, hpop (n - 56) (by omega)]
  · have hlast : (decide (56 ≤ n) && decide (n < 88)) = false := by simpa using h56
    simp only [State.thermUnit, hlast, Bool.false_and, hv]

theorem State.polled_pollUnits : Polled s (s.pollUnits r).1 r (s.pollUnits r).2.1 := by
  obtain ⟨hu, hgovs⟩ := s.pollUnits_eq r
  rw [hu, hgovs]
  obtain ⟨hwv, hwrd⟩ := framed_portPolls s r
  have hcfg : ∀ h, h < 32 → (s.portPolls r).1.rd (F.hbmcCfgPopulated h) = s.rd (F.hbmcCfgPopulated h) := fun h hh =>
    hwrd _ (by simp [F.hbmcCfgPopulated]) (by
      rintro g ⟨m, hm, hg | rfl | rfl | rfl⟩
      · have := postFld_low hg
        exact .inl (by simp only [F.hbmcCfgPopulated, R.hbmcCfg]; omega)
      all_goals
        refine .inl ?_
        simp only [F.hbmcCfgPopulated, F.thrmExclExcl, F.thrmUnitExcluded, F.thrmUnitGuard, R.hbmcCfg, R.thrmExcl, R.thrmUnit]
        omega)
  have hunit := State.thermUnit_congr hwv hcfg
  have hfloors : (s.floorPolls r).1.variant = s.variant :=
    ((((polls_stages r).framed_pollAll s).trans ((polls_decks r).framed_pollAll _)).trans ((polls_floors r _ _).framed_pollAll _)).1
  have hex : ∀ n, s.thermUnit n = true → ∃ x ∈ s.govs r, x.1 = n := fun n hn =>
    State.exists_mem_govList (pollAll_length _ _ _) (pollAll_length _ _ _) ((pollAll_length _ _ _).trans (by rw [hfloors, hwv])) (pollAll_length _ _ _)
      ((hunit n).trans hn)
  have hlt : ∀ x ∈ s.govs r, x.1 < 88 := fun x hx => by
    have hlt : ∀ {α : Type} {l : List α} {i : Nat} {y : α}, l[i]? = some y → i < l.length := fun h => (List.getElem?_eq_some_iff.mp h).1
    have hle := portDies_le (s.floorPolls r).1.variant
    have hd : (s.deckPolls r).2.length = 8 := pollAll_length _ _ _
    have hf : (s.floorPolls r).2.length = 8 := pollAll_length _ _ _
    have hp : (s.portPolls r).2.length = (s.floorPolls r).1.variant.portDies := pollAll_length _ _ _
    have hs : (s.stagePolls r).2.length = 32 := pollAll_length _ _ _
    rcases State.mem_govList.mp hx with hi | ⟨i, p, hi, hxi, -⟩ | ⟨i, hi, hxi⟩ | ⟨i, hi, hxi⟩ | ⟨i, hi, -, hxi, -⟩
    · have := hlt hi; omega
    · have := hlt hi; omega
    · have := hlt hi; omega
    · have := hlt hi; omega
    · omega
  have hfold : framed State.variant (fun g => ∃ m, m < 88 ∧ govFld m g) (s.portPolls r).1
      ((s.govs r).foldl (State.putGov (s.floorPolls r).2) (s.portPolls r).1) := framed_foldl_mem _ _ fun u x hx =>
    (framed_putGov u _ x).widen fun g hg => ⟨x.1, hlt x hx, hg⟩
  refine ⟨fun n => ?_, fun n hn => ?_, fun n h24 hn hagree => ?_⟩
  · refine (State.thermUnit_congr hfold.1 (fun h hh => hfold.2 _ (by simp [F.hbmcCfgPopulated]) ?_) n).trans (hunit n)
    rintro g ⟨m, hm, rfl | rfl | rfl⟩ <;> refine .inl ?_ <;>
      simp only [F.hbmcCfgPopulated, F.thrmUnitMeasured, F.thrmUnitDerived, F.thrmUnitGoverning, R.hbmcCfg, R.thrmUnit] <;> omega
  · exact foldl_last (key := fun x : Nat × Temp => x.1 = n) (g := fun u : State => u.rd (F.thrmUnitGoverning n)) (val := fun x => x.2.deg)
      (fun u x _ hx => hx ▸ (u.rd_putGov _ x).1) (fun u x _ hx => (u.rd_putGov_ne _ hx).1) (s.portPolls r).1 (hex n hn)
  · obtain ⟨hmeas, hexcl⟩ := s.portPolls_agreed r h24 hagree
    obtain ⟨x, hx, hxn, hrd⟩ := foldl_last (key := fun x : Nat × Temp => x.1 = n) (g := fun u : State => u.rd (F.thrmUnitMeasured n))
      (val := fun x => (measuredOf (s.floorPolls r).2 x).deg) (fun u x _ hx => hx ▸ (u.rd_putGov _ x).2 (by omega))
      (fun u x _ hx => (u.rd_putGov_ne _ hx).2) (s.portPolls r).1 (hex n hn)
    refine ⟨hrd.trans ?_, (hfold.2 _ (by simp [F.thrmUnitExcluded]) ?_).trans (hexcl ?_)⟩
    · rw [hmeas x hx hxn, Temp.deg]
      dsimp only
      omega
    · rintro g ⟨m, hm, rfl | rfl | rfl⟩ <;>
        simp only [Fld.apart, F.thrmUnitExcluded, F.thrmUnitMeasured, F.thrmUnitDerived, F.thrmUnitGoverning, R.thrmUnit] <;> omega
    · simp only [State.thermUnit, Bool.or_eq_true, Bool.and_eq_true, decide_eq_true_eq] at hn
      omega

end

end Sys2Proof.Machine
end

section
/-! What follows the units' polls: Heel, the levels and the trips (R600 to R606). -/

namespace Sys2Proof.Machine

/-- Fields that the end of a poll writes besides Heel. -/
def pollEndFld (g : Fld) : Prop :=
  tripFld g ∨ muzzleFld g ∨ (∃ l, g = levelFld l) ∨ g = F.thrmStatGraceLeft ∨ g = F.thrmStatHotKind ∨ g = F.thrmStatHotIndex ∨ g = F.thrmStatHotTemp

/-- What it keeps: the variant, and how many polls have been clear. -/
def State.clearView (s : State) : Variant × Nat := (s.variant, s.therm.clear)

section
variable (s : State) (govs : List (Nat × Temp)) (trips : List Nat)

/-- A poll's end: how many polls have been clear. -/
def State.pollClear : State := s.modTherm fun x =>
  { x with below := (govs.filter fun g => g.2.atMost (cautionOf g.1 - 5)).map (·.1),
           clear := if govs.all fun g => g.2.atMost (cautionOf g.1 - 3) then min 100 (x.clear + 1) else 0 }

/-- The grace that is left, and the hottest unit. -/
def State.pollShown : State :=
  let s := if s.therm.grace then s.wr F.thrmStatGraceLeft (s.rd F.thrmStatGraceLeft - 1) else s
  match s.hottest (govs.map (·.1)) with
  | some n => s.wrs [(F.thrmStatHotKind, (unitName n).1), (F.thrmStatHotIndex, (unitName n).2), (F.thrmStatHotTemp, s.rd (F.thrmUnitGoverning n))]
  | none => s

/-- A poll's end: the levels of units at their limit, and the trips. -/
def State.pollActs : State :=
  let lims := (govs.filter fun g => g.2.atLeast (limitOf g.1)).map (·.1)
  let s := if lims.isEmpty then s else s.raiseLevels lims (fun v => max v 1)
  trips.foldl (fun s n => s.trip n 0 (s.rd (F.thrmUnitGoverning n)) false) s

theorem exec_thermalPoll (r : ThermalIn) (hrun : s.keeperRuns = true) : exec (.thermalPoll r) s =
    .next ((((s.pollUnits r).1.pollClear (s.pollUnits r).2.1).pollShown (s.pollUnits r).2.1).heelRaise.pollActs (s.pollUnits r).2.1 (s.pollUnits r).2.2).heelClear := by
  show execThermalPoll r s = _
  rw [execThermalPoll, if_neg (by simp [hrun])]
  rcases s.pollUnits r with ⟨u, govs, trips⟩
  rfl

theorem framed_pollShown : framed State.clearView pollEndFld s (s.pollShown govs) := by
  unfold State.pollShown
  extract_lets u
  have hu : framed State.clearView pollEndFld s u := framed_ite (framed_wr s (by intros; rfl) _ _ (by simp [pollEndFld])) (.refl s)
  clear_value u
  split
  · exact hu.trans (framed_wrs u (by intros; rfl) (by simp [pollEndFld]))
  · exact hu

theorem clearView_modTherm {q : Fld → Prop} (f : ThermSt → ThermSt) (hf : ∀ x, (f x).clear = x.clear) : framed State.clearView q s (s.modTherm f) :=
  framed_of_regs (congrArg (Prod.mk s.variant) (hf s.therm)) rfl rfl

theorem clearView_bump {q : Fld → Prop} (ev : Nat) (u : EvUnit) (n : Nat) : framed State.clearView q s (s.bump ev u n) := framed_of_regs rfl rfl rfl

theorem clearView_modPass {q : Fld → Prop} (c : Prop) [Decidable c] (f : Pass → Pass) : framed State.clearView q s (if c then s.modPass f else s) :=
  framed_ite (framed_of_regs rfl rfl rfl) (.refl s)

theorem framed_heelRaise : framed State.clearView (fun g => pollEndFld g ∨ g = F.thrmStatHeel) s s.heelRaise := by
  unfold State.heelRaise
  split
  · exact .refl s
  refine framed_ite (.refl s) ?_
  extract_lets u v w
  have hu : framed State.clearView (fun g => pollEndFld g ∨ g = F.thrmStatHeel) s u :=
    (framed_wrs s (by intros; rfl) (by simp [pollEndFld])).trans (clearView_bump _ _ _ _)
  have hw : framed State.clearView (fun g => pollEndFld g ∨ g = F.thrmStatHeel) s w :=
    (hu.trans (clearView_modTherm u _ fun _ => rfl)).trans (clearView_modPass v _ _)
  exact hw.trans ((framed_notice w _ _ _).mono State.clearView (fun _ => rfl) fun g hg => .inl (.inr (.inl (.inl hg))))

theorem framed_pollActs : framed State.clearView pollEndFld s (s.pollActs govs trips) := by
  have hraise : ∀ (ns : List Nat) (up : Nat → Nat), framed State.clearView pollEndFld s (s.raiseLevels ns up) := fun ns up => by
    rw [s.raiseLevels_eq]
    refine .trans (framed_of_regs rfl rfl rfl) ((framed_foldl (π := State.rest) (q := pollEndFld) _ _ fun v l => framed_ite (.refl v) ?_).mono
      State.clearView (fun _ => rfl) fun _ => id)
    refine (framed_riseTo v l _ _).widen fun g hg => ?_
    rcases hg with hg | hg
    · exact .inr (.inl hg)
    · exact .inr (.inr (.inl ⟨l, hg⟩))
  unfold State.pollActs
  extract_lets lims u
  have hu : framed State.clearView pollEndFld s u := framed_ite (.refl s) (hraise _ _)
  clear_value u
  exact hu.trans (framed_foldl _ _ fun v n => (framed_trip v n 0 _ false).mono (fun p : Variant × ThermSt => (p.1, p.2.clear)) (fun _ => rfl) fun _ => .inl)

theorem State.hottest_isSome {ns : List Nat} (h : ns ≠ []) : ∃ n, s.hottest ns = some n := by
  unfold State.hottest
  induction ns using List.reverseRecOn with
  | nil => exact absurd rfl h
  | append_singleton l n =>
    rw [List.foldl_append, List.foldl_cons, List.foldl_nil]
    split
    · split
      · exact ⟨_, rfl⟩
      · exact ⟨_, rfl⟩
    · exact ⟨_, rfl⟩

theorem pollEndFld_heel {g : Fld} (hg : pollEndFld g) : g.apart F.thrmStatHeel := by
  rcases hg with hg | (hg | rfl | rfl | rfl) | ⟨l, rfl⟩ | rfl | rfl | rfl | rfl
  · exact tripFld_thermal hg (.inl rfl)
  · have := postFld_low hg
    exact .inl (by simp only [F.thrmStatHeel, R.thrmStat]; omega)
  · simp [Fld.apart, F.thrmStatMuzzle, F.thrmStatHeel]
  · simp [Fld.apart, F.pwrmCapRefillW, F.thrmStatHeel, R.pwrmCap, R.thrmStat]
  · simp [Fld.apart, F.pwrmOppCurD, F.thrmStatHeel, R.pwrmOpp, R.thrmStat]
  · cases l <;> simp only [levelFld, Fld.apart, F.thrmStatRefillLvl, F.thrmUnitLevel, F.thrmStatHeel, R.thrmStat, R.thrmUnit] <;> omega
  all_goals simp [Fld.apart, F.thrmStatGraceLeft, F.thrmStatHotKind, F.thrmStatHotIndex, F.thrmStatHotTemp, F.thrmStatHeel]

/-- Temperatures as shown are left alone. -/
theorem pollEndFld_unit {f g : Fld} {n : Nat} (hn : n < 88) (hf : f.addr = R.thrmUnit n) (hlo : f.lo + f.w ≤ 32) (hg : pollEndFld g ∨ g = F.thrmStatHeel) :
    g.apart f := by
  have hrange : 0xa100 ≤ f.addr := by rw [hf, R.thrmUnit]; omega
  rcases hg with (hg | (hg | rfl | rfl | rfl) | ⟨l, rfl⟩ | rfl | rfl | rfl | rfl) | rfl
  · exact tripFld_thermal hg (.inr ⟨n, hn, .inl hf⟩)
  · have := postFld_low hg
    exact .inl (by omega)
  case inl.inr.inr.inl =>
    cases l with
    | none => exact .inl (by simp only [levelFld, F.thrmStatRefillLvl, R.thrmStat]; omega)
    | some k => exact .inr (.inr (by simp only [levelFld, F.thrmUnitLevel]; omega))
  all_goals
    refine .inl ?_
    simp only [F.thrmStatMuzzle, F.pwrmCapRefillW, F.pwrmOppCurD, F.thrmStatGraceLeft, F.thrmStatHotKind, F.thrmStatHotIndex, F.thrmStatHotTemp,
      F.thrmStatHeel, R.thrmStat, R.pwrmCap, R.pwrmOpp]
    omega

/-- A unit at caution raises Heel. -/
theorem State.heelRaise_on (h : s.atCaution ≠ []) : s.heelRaise.on F.thrmStatHeel = true := by
  obtain ⟨n, hn⟩ := s.hottest_isSome h
  unfold State.heelRaise
  split
  · rename_i hnone
    exact absurd (hn.symm.trans hnone) (by simp)
  by_cases hon : s.on F.thrmStatHeel = true
  · rw [if_pos hon]; exact hon
  rw [if_neg hon]
  extract_lets u v w
  have hset : (s.wrs [(F.thrmStatHeel, 1), (F.thrmStatGraceLeft, s.graceMs)]).on F.thrmStatHeel = true :=
    decide_eq_true (State.rd_wrs_of_mem [(F.thrmStatHeel, 1), (F.thrmStatGraceLeft, s.graceMs)] s (by simp [F.thrmStatHeel, F.thrmStatGraceLeft])
      (by simp [Fld.apart, F.thrmStatHeel, F.thrmStatGraceLeft]) (p := (F.thrmStatHeel, 1)) List.mem_cons_self)
  have hw : framed State.clearView pollEndFld (s.wrs [(F.thrmStatHeel, 1), (F.thrmStatGraceLeft, s.graceMs)]) w :=
    ((clearView_bump _ _ _ _).trans (clearView_modTherm u _ fun _ => rfl)).trans (clearView_modPass v _ _)
  have hend : ∀ k, framed State.clearView pollEndFld w (w.notice 1 sHEEL_ACTIVE (w.heelResult k)) := fun k =>
    (framed_notice w 1 sHEEL_ACTIVE (w.heelResult k)).mono State.clearView (fun _ => rfl) fun g hg => .inr (.inl (.inl hg))
  exact ((hw.trans (hend _)).on (by decide) fun g => pollEndFld_heel).trans hset

/-- Heel stays raised while a unit has not been clear of caution. -/
theorem State.heelClear_of_clear (h : s.therm.clear = 0) : s.heelClear = s := by
  unfold State.heelClear
  rw [if_neg]
  rw [h]
  simp

theorem State.pollClear_facts : framed State.variant pollEndFld s (s.pollClear govs) ∧
    (s.pollClear govs).therm.clear = if govs.all fun g => g.2.atMost (cautionOf g.1 - 3) then min 100 (s.therm.clear + 1) else 0 :=
  ⟨framed_of_regs rfl rfl rfl, rfl⟩

theorem cautionOf_le (n : Nat) : 3 ≤ cautionOf n := by
  unfold cautionOf
  split <;> decide

theorem pollEndFld_hbmc {g : Fld} {k : Nat} (hk : k < 32) (hg : pollEndFld g ∨ g = F.thrmStatHeel) : g.apart (F.hbmcCfgPopulated k) := by
  have hrange : R.hbmcCfg k = 0x18000 + 0x400 * k := rfl
  have hout : g.addr < 0x18000 ∨ 0x20000 ≤ g.addr → g.apart (F.hbmcCfgPopulated k) := fun h => .inl (by
    simp only [F.hbmcCfgPopulated, hrange]
    omega)
  rcases hg with (hg | (hg | rfl | rfl | rfl) | ⟨l, rfl⟩ | rfl | rfl | rfl | rfl) | rfl
  case inl.inl =>
    refine hout ?_
    rcases hg with hg | hg | hg
    · have := fatalFld_range hg; omega
    · have := linkFld_range hg; omega
    · rw [hg, R.thrmTrip]; omega
  case inl.inr.inl.inl =>
    have := postFld_low hg
    exact hout (by omega)
  case inl.inr.inr.inl =>
    cases l with
    | none => exact hout (.inl (by decide))
    | some d => exact .inr (.inr (by simp [levelFld, F.thrmUnitLevel, F.hbmcCfgPopulated]))
  all_goals exact hout (.inl (by decide))

section
variable {s} {a b z : State} {govs} {r : ThermalIn}

theorem pollEnd_rd (h : framed State.variant (fun g => pollEndFld g ∨ g = F.thrmStatHeel) a z) {n : Nat} {f : Fld} (hn : s.thermUnit n = true)
    (hf : f.addr = R.thrmUnit n) (hw : f.lo + f.w ≤ 32) : z.rd f = a.rd f :=
  h.2 f (by omega) fun g hg => pollEndFld_unit (by
    simp only [State.thermUnit, Bool.or_eq_true, Bool.and_eq_true, decide_eq_true_eq] at hn
    omega) hf hw hg

/-- Temperatures that a poll has shown stay as they are to its end. -/
theorem Polled.pollEnd (h : Polled s a r govs) (haz : framed State.variant (fun g => pollEndFld g ∨ g = F.thrmStatHeel) a z) : Polled s z r govs := by
  have hunit : ∀ n, z.thermUnit n = a.thermUnit n := State.thermUnit_congr haz.1 fun k hk =>
    haz.2 _ (by simp [F.hbmcCfgPopulated]) fun g hg => pollEndFld_hbmc hk hg
  refine ⟨fun n => (hunit n).trans (h.units n), fun n hn => ?_, fun n h24 hn hagree => ?_⟩
  · obtain ⟨x, hx, hxn, hdeg⟩ := h.governing n hn
    exact ⟨x, hx, hxn, (pollEnd_rd haz hn rfl (by simp [F.thrmUnitGoverning])).trans hdeg⟩
  · obtain ⟨h1, h2⟩ := h.measured n h24 hn hagree
    exact ⟨(pollEnd_rd haz hn rfl (by simp [F.thrmUnitMeasured])).trans h1, (pollEnd_rd haz hn rfl (by simp [F.thrmUnitExcluded])).trans h2⟩

/-- With a unit at caution the poll does not count as clear. -/
theorem Polled.not_clear (h : Polled s a r govs) {n : Nat} (hn : s.thermUnit n = true) (hcaution : cautionOf n ≤ a.rd (F.thrmUnitGoverning n)) :
    (govs.all fun g => g.2.atMost (cautionOf g.1 - 3)) = false := by
  obtain ⟨x, hx, rfl, hdeg⟩ := h.governing n hn
  rw [List.all_eq_false]
  exact ⟨x, hx, by rw [Temp.not_atMost_of_deg (cautionOf_le _) (hdeg ▸ hcaution)]; decide⟩

theorem Polled.atCaution (h : Polled s a r govs) {n : Nat} (h88 : n < 88) (hn : s.thermUnit n = true)
    (hcaution : cautionOf n ≤ a.rd (F.thrmUnitGoverning n)) : a.atCaution ≠ [] :=
  List.ne_nil_of_mem (a := n) (List.mem_filter.mpr ⟨List.mem_range.mpr h88, by simp [h.units n, hn, hcaution]⟩)

end

/-- What a poll shows of the units stays shown to its end. -/
theorem framed_pollEnd : framed State.variant (fun g => pollEndFld g ∨ g = F.thrmStatHeel) (s.pollShown govs)
    ((s.pollShown govs).heelRaise.pollActs govs trips).heelClear :=
  (((framed_heelRaise _).mono Prod.fst (fun _ => rfl) fun _ => id).trans ((framed_pollActs _ govs trips).mono Prod.fst (fun _ => rfl) fun _ => .inl)).trans
    ((framed_heelClear _).mono State.variant (fun _ => rfl) fun g hg => by
      rcases hg with hg | hg | hg
      · exact .inl (.inr (.inl hg))
      · exact .inr hg
      · exact .inl (.inr (.inr (.inr (.inl hg)))))

/-- From a poll that is not clear, with a unit at caution, to its end: Heel is raised. -/
theorem State.pollEnd_heel {a : State} (hclear : a.therm.clear = 0) (hcaution : (a.pollShown govs).atCaution ≠ []) :
    ((a.pollShown govs).heelRaise.pollActs govs trips).heelClear.on F.thrmStatHeel = true := by
  have hacts := framed_pollActs (a.pollShown govs).heelRaise govs trips
  rw [State.heelClear_of_clear, hacts.on (by decide) fun g => pollEndFld_heel, State.heelRaise_on _ hcaution]
  exact (hacts.get Prod.snd).trans (((framed_heelRaise _).get Prod.snd).trans (((framed_pollShown a govs).get Prod.snd).trans hclear))

/-- THERMAL_POLL. -/
theorem thermalPoll_facts (r : ThermalIn) (hrun : s.keeperRuns = true) : leads (exec (.thermalPoll r) s) fun z =>
    ((∃ n, n < 88 ∧ s.thermUnit n = true ∧ cautionOf n ≤ z.rd (F.thrmUnitGoverning n)) → z.on F.thrmStatHeel = true) ∧
    ∀ n, n < 24 → s.thermUnit n = true → s.agreed n (sensorsOf r n) →
      z.rd (F.thrmUnitMeasured n) = min 255 (hottestOf n (sensorsOf r n) / 4) ∧ z.rd (F.thrmUnitExcluded n) = 0 := by
  obtain ⟨hkeep, hclear⟩ := State.pollClear_facts (s.pollUnits r).1 (s.pollUnits r).2.1
  have hpolled := (s.polled_pollUnits r).pollEnd (hkeep.widen fun _ => .inl)
  have hshown := hpolled.pollEnd ((framed_pollShown _ (s.pollUnits r).2.1).mono Prod.fst (fun _ => rfl) fun _ => .inl)
  have hend := framed_pollEnd ((s.pollUnits r).1.pollClear (s.pollUnits r).2.1) (s.pollUnits r).2.1 (s.pollUnits r).2.2
  rw [exec_thermalPoll s r hrun]
  refine leads_next ⟨?_, (hshown.pollEnd hend).measured⟩
  rintro ⟨n, h88, hn, hcaution⟩
  rw [pollEnd_rd hend hn rfl (by simp [F.thrmUnitGoverning])] at hcaution
  rw [hshown.not_clear hn hcaution] at hclear
  exact State.pollEnd_heel _ _ hclear (hshown.atCaution h88 hn hcaution)

end

end Sys2Proof.Machine
end

section
/-! What the slices and the channels leave alone while they flush, drain and drop (R257, R285, R321, R345, R349). -/

namespace Sys2Proof.Machine

/-- Fields that flushes and drains write besides the epoch tables: the fault log's, and of a floor the Twin log and the count of split sectors. -/
def memFld (g : Fld) : Prop := postFld g ∨ ∃ f, g.addr = R.floorTwinLog f ∨ g.addr = R.floorTwinEp f ∨ g.addr = R.floorSplitStat f

section
variable {q : Fld → Prop} (s : State)

theorem framed_modSlice (n : Nat) (f : SliceSt → SliceSt) : framed State.rest q s (s.modSlice n f) := framed_of_regs rfl rfl rfl

/-! ## The merge buffer and the channels -/

theorem framed_mergeApply (n : Nat) (m : MergeEnt) : framed State.rest q s (s.mergeApply n m) := by
  unfold State.mergeApply
  dsimp only
  split
  · exact framed_modSlice s n _
  · exact (framed_modSlice s n _).trans (framed_modSlice _ n _)

theorem framed_mergeFlush (n set line sector : Nat) : framed State.rest q s (s.mergeFlush n set line sector) :=
  framed_foldl _ s fun u m => framed_mergeApply u n m

theorem framed_mergeFlushLine (n set line : Nat) : framed State.rest q s (s.mergeFlushLine n set line) :=
  framed_foldl _ s fun u m => framed_mergeApply u n m

theorem framed_mergeAll (n : Nat) : framed State.rest q s (s.mergeAll n) := framed_foldl _ s fun u m => framed_mergeApply u n m

theorem framed_mergeAdd (n : Nat) (p : Loc) (word : Nat) (mask : BitVec 8) (bytes : List Byte) (pois : Bool) :
    framed State.rest q s (s.mergeAdd n p word mask bytes pois) := by
  unfold State.mergeAdd
  dsimp only
  split
  · exact framed_ite (framed_mergeApply s n _) (framed_modSlice s n _)
  · refine .trans ?_ (framed_modSlice _ n _)
    split
    · exact framed_ite ((framed_mergeApply s n _).trans (framed_bump _ _ _ _)) (.refl s)
    · exact .refl s

theorem framed_activate (ch : Nat) : framed State.rest q s (s.activate ch) := by
  unfold State.activate
  extract_lets k u
  have hu : framed State.rest q s u := framed_of_regs rfl rfl rfl
  exact framed_ite (hu.trans (framed_bump u _ _ _)) hu

theorem framed_hbmSet (k : Nat) (bs : List Byte) : framed State.rest q s (s.hbmSet k bs) := framed_of_regs rfl rfl rfl

theorem framed_hbmPut (ch line sec : Nat) (words : List W64) (poison : List Nat) : framed State.rest q s (s.hbmPut ch line sec words poison) := by
  have hmark : ∀ (u : State) (m : Table Bool), framed State.rest q u { u with hbmMark := m } := fun u m => framed_of_regs rfl rfl rfl
  exact (((framed_hbmSet s _ _).trans (hmark _ _)).trans (framed_bump _ _ _ _)).trans (framed_activate _ ch)

theorem framed_putOne (ch line sec : Nat) (words : List W64) (poison : List Nat) : framed State.rest q s (s.putOne ch line sec words poison) :=
  framed_ite (.refl s) (framed_hbmPut s _ _ _ _ _)

theorem framed_putBack (ch line sec : Nat) (words : List W64) (poison : List Nat) {col : Nat} (hc : col < 2) :
    framed State.rest q s (s.putBack ch line sec words poison col) := by
  unfold State.putBack
  rw [State.atOnce_low _ _ _ _ hc]
  exact framed_ite (.refl s) (framed_putOne s _ _ _ _ _)

theorem framed_crossRing (a b collar lv bytes : Nat) : framed State.rest q s (s.crossRing a b collar lv bytes) :=
  framed_foldl _ s fun u _ => framed_grant u _ _ _ _ _

/-- A read of a sector that meets no error. -/
theorem framed_hbmRead (ch line sec src : Nat) : framed State.rest q s (s.hbmRead ch line sec src .quiet).1 := by
  have hread := (framed_bump (q := q) s Ev.hbmRd (.slice ch) 1).trans (framed_activate _ ch)
  simp only [State.hbmRead, HbmIn.quiet, List.filter_nil, List.isEmpty_nil, if_true, List.take_nil, List.foldl_nil]
  exact framed_ite hread (hread.trans (framed_bump _ _ _ _))

theorem framed_epochSec (ch : Nat) (e : EpochAt) : framed State.rest q s (s.epochSec ch e).1 := by
  unfold State.epochSec
  extract_lets u fromHbm
  have hu : framed State.rest q s u := framed_mergeFlush s _ _ _ _
  have hread : framed State.rest q s fromHbm.1 := by
    unfold fromHbm
    split
    · exact hu
    · exact hu.trans (framed_hbmRead u ch e.line e.sector hsNARROW)
  split
  · dsimp only
    split
    · exact hu
    · exact hread
  · exact hread

/-! ## Ways of a set, and write-backs -/

/-- A way emptied for the Keeper or for what no collar asked for, its write-back meeting nothing. -/
theorem framed_evict (n set way : Nat) {col : Nat} (hc : col < 2) : framed State.rest q s (s.evict n set way col []).1 := by
  have hclean : ∀ u : State, framed State.rest q u (u.modSlice n fun x => x.setLine set way Line.none_) := fun u => framed_modSlice u n _
  unfold State.evict
  extract_lets l u l' dirty
  have hu : framed State.rest q s u := framed_mergeFlushLine s _ _ _
  split
  · exact hclean s
  split
  · split
    · exact hu.trans (hclean u)
    · exact hu.trans (framed_modSlice u n _)
  · split
    · exact hu
    · exact (hu.trans (framed_foldl _ u fun v k => framed_putBack v _ _ _ _ _ hc)).trans (hclean _)

theorem framed_allocate (n set line kennel : Nat) (pref : Bool) {col : Nat} (hc : col < 2) :
    framed State.rest q s (s.allocate n set line kennel pref col []).1 := by
  have hway : framed State.rest q s (s.takeWay n set kennel (pref || decide (s.persOf kennel = 0)) col []).1 := by
    unfold State.takeWay
    split
    · exact .refl s
    · exact framed_evict s _ _ _ hc
  unfold State.allocate
  split
  · rename_i u w heq
    rw [heq] at hway
    exact hway.trans (framed_modSlice u n _)
  · exact hway

theorem framed_putEpoch (ch line v : Nat) : framed State.rest q s (s.putEpoch ch line v) := by
  unfold State.putEpoch
  split
  · exact .refl s
  rename_i e _
  have hsec := framed_epochSec (q := q) s ch e
  generalize s.epochSec ch e = r at hsec ⊢
  obtain ⟨u, old⟩ := r
  have hput : ∀ w f p k m bs b, framed State.rest q u w → framed State.rest q u ((w.modSlice ch f).mergeAdd ch p k m bs b) := fun w f _ _ _ _ _ hw =>
    (hw.trans (framed_modSlice w ch f)).trans (framed_mergeAdd _ _ _ _ _ _ _)
  have hway : ∀ k, framed State.rest q u (if u.on (F.sliceStatRemoved ch) then (u, Got.none_)
      else u.allocate ch (e.line % 768) e.line k false 1 []).1 := fun k => by
    split
    · exact .refl u
    · exact framed_allocate u _ _ _ _ _ Nat.one_lt_two
  refine .trans hsec ?_
  dsimp only
  cases (u.slice ch).find e.line with
  | some w => exact hput u _ _ _ _ _ _ (.refl u)
  | none =>
    dsimp only
    split
    · exact hput _ _ _ _ _ _ _ (hway _)
    · exact (hway _).trans (framed_putOne _ _ _ _ _ _)

/-- A sector written whole leaves the split table, which the floor's status counts (R349). -/
theorem framed_unsplit (n line sec : Nat) : framed State.rest memFld s (s.unsplit n line sec) := by
  have hsplits : ∀ l, framed State.rest memFld s { s with splits := l } := fun l => framed_of_regs rfl rfl rfl
  exact framed_ite ((hsplits _).trans (framed_wr _ (by intros; rfl) _ _ (.inr ⟨_, .inr (.inr rfl)⟩))) (.refl s)

theorem framed_writeBack (n line sec : Nat) (words : List W64) (poison : List Nat) (whole : Bool) {col : Nat} (hc : col < 2) :
    framed State.rest memFld s (s.writeBack n line sec words poison whole col) := by
  have hepoch : ∀ (u : State) (ch line : Nat), framed State.rest memFld u (if u.chanRetired ch then u else u.putEpoch ch line u.commitEpoch) := fun u ch line =>
    framed_ite (.refl u) (framed_putEpoch u _ _ _)
  unfold State.writeBack
  split
  · exact framed_putBack s _ _ _ _ _ hc
  · rename_i b _
    extract_lets u copyA epochA copyB epochB
    have hA : framed State.rest memFld s epochA := ((framed_modSlice s n _).trans (framed_putBack u _ _ _ _ _ hc)).trans (hepoch copyA n line)
    have hB : framed State.rest memFld s epochB :=
      (hA.trans ((framed_crossRing epochA _ _ _ _ _).trans (framed_putBack _ _ _ _ _ _ hc))).trans (hepoch copyB b.1 b.2)
    exact framed_ite (hB.trans (framed_unsplit epochB _ _ _)) hB

theorem framed_cleanLine (n set way : Nat) {col : Nat} (hc : col < 2) : framed State.rest memFld s (s.cleanLine n set way col) :=
  (framed_mergeFlushLine s _ _ _).trans (framed_foldl _ _ fun u _ => framed_ite (framed_writeBack u _ _ _ _ _ _ hc) (.refl u))

theorem framed_flushSlice (n : Nat) : framed State.rest memFld s (s.flushSlice n) := by
  have honce : ∀ u : State, framed State.rest memFld u (u.flushOnce n) := fun u =>
    framed_foldl _ u fun v q => framed_ite (.refl v) ((framed_cleanLine v _ _ _ Nat.two_pos).trans (framed_modSlice _ _ _))
  exact ((framed_mergeAll s n).trans (honce _)).trans (honce _)

theorem framed_flushAll : framed State.rest memFld s s.flushAll := framed_foldl _ s fun u n => framed_flushSlice u n

end

end Sys2Proof.Machine
end

section
/-! Tiles that lose their state (R578), and IDLE_ENTRY (R577). -/

namespace Sys2Proof.Machine

/-- The generations of the tile windows that the registers hold. -/
def State.winGens (s : State) : List (Fld × Nat) := s.regs.filterMap fun p =>
  let a := p.1 % 0x800
  let t := (p.1 - 0xC00000) / 0x800
  if 0xC00000 ≤ p.1 ∧ 0x280 ≤ a ∧ a < 0x2A0 then some (F.tileWinGen t ((a - 0x280) / 8), s.rd (F.tileWinGen t ((a - 0x280) / 8))) else none

/-- The tiles' state and registers as at reset. -/
def State.noTiles (s : State) : State := { s with tiles := [], regs := tclear 0xC00000 0x3DFFFFF s.regs }

section
variable (s : State)

theorem State.resetTiles_eq : s.resetTiles = s.noTiles.wrs s.winGens := rfl

theorem State.mem_winGens {p : Fld × Nat} (hp : p ∈ s.winGens) : ∃ t n, n < 4 ∧ p = (F.tileWinGen t n, s.rd (F.tileWinGen t n)) := by
  obtain ⟨x, -, hx⟩ := List.mem_filterMap.mp hp
  dsimp only at hx
  split at hx
  · cases hx
    exact ⟨_, _, by omega, rfl⟩
  · cases hx

theorem State.winGens_of_key {t n : Nat} (hn : n < 4) (h : R.tileWin t n ∈ s.regs.map (·.1)) : (F.tileWinGen t n, s.rd (F.tileWinGen t n)) ∈ s.winGens := by
  obtain ⟨p, hp, hkey⟩ := List.mem_map.mp h
  refine List.mem_filterMap.mpr ⟨p, hp, ?_⟩
  have ht : (p.1 - 0xC00000) / 0x800 = t := by simp only [hkey, R.tileWin]; omega
  have ha : p.1 % 0x800 = 0x280 + 8 * n := by simp only [hkey, R.tileWin]; omega
  have hlow : 0xC00000 ≤ p.1 := by simp only [hkey, R.tileWin]; omega
  dsimp only
  rw [if_pos ⟨hlow, by omega, by omega⟩, ht, ha, Nat.add_sub_cancel_left, Nat.mul_div_cancel_left n (by omega)]

theorem tileWinGen_apart {t n t' n' : Nat} (hn : n < 4) (hn' : n' < 4) (h : F.tileWinGen t' n' ≠ F.tileWinGen t n) :
    (F.tileWinGen t' n').apart (F.tileWinGen t n) := by
  refine .inl fun ha => h ?_
  simp only [F.tileWinGen, R.tileWin] at ha ⊢
  obtain ⟨rfl, rfl⟩ : t' = t ∧ n' = n := by omega
  rfl

/-- The tiles reset: the windows' generations stay (R166), the rest of their registers is as at reset. -/
theorem State.rd_resetTiles {t n : Nat} (ht : t < tileCount) (hn : n < 4) :
    s.resetTiles.rd (F.tileWinGen t n) = s.rd (F.tileWinGen t n) ∧
      ∀ f : Fld, f.addr = R.tileWin t n → f.lo + f.w ≤ 8 → s.resetTiles.rd f = bf (regReset s.variant (R.tileWin t n)).toNat f.lo f.w := by
  have hclear : s.noTiles.reg (R.tileWin t n) = regReset s.variant (R.tileWin t n) := by
    refine (tget_tclear _ _ _ _ _).trans (if_pos ?_)
    have : t < 25600 := ht
    simp only [R.tileWin]
    omega
  have hrd : ∀ f : Fld, f.addr = R.tileWin t n → s.noTiles.rd f =
      bf (regReset s.variant (R.tileWin t n)).toNat f.lo f.w := fun f hf => by rw [State.rd, hf, hclear]
  rw [s.resetTiles_eq]
  constructor
  · by_cases h : ∃ p ∈ s.winGens, p.1 = F.tileWinGen t n
    · obtain ⟨p, hp, hkey, hval⟩ := foldl_last (f := fun (u : State) (p : Fld × Nat) => u.wr p.1 p.2) (g := fun u => u.rd (F.tileWinGen t n))
        (val := fun p => p.2 % 2 ^ 8)
        (fun u p _ hp => by rw [← hp]; exact (State.rd_wr_same u p.1 _ (by rw [hp]; simp [F.tileWinGen])).trans (by rw [hp]; rfl))
        (fun u p hp hne => by
          obtain ⟨t', n', hn', rfl⟩ := s.mem_winGens hp
          exact State.rd_wr_of_apart u _ (by simp [F.tileWinGen]) (tileWinGen_apart hn hn' hne))
        s.noTiles h
      obtain ⟨t', n', hn', rfl⟩ := s.mem_winGens hp
      refine hval.trans ?_
      dsimp only
      rw [show F.tileWinGen t' n' = _ from hkey]
      exact Nat.mod_eq_of_lt (bf_lt _ _ 8)
    · have hkey : R.tileWin t n ∉ s.regs.map (·.1) := fun hmem => h ⟨_, s.winGens_of_key hn hmem, rfl⟩
      rw [State.rd_wrs_of_apart (by simp [F.tileWinGen]) _ _ fun p hp => ?_, hrd _ rfl, State.rd, State.reg]
      · exact congrArg (fun v : W64 => bf v.toNat 8 8) (tget_of_not_mem _ _ _ hkey).symm
      · obtain ⟨t', n', hn', rfl⟩ := s.mem_winGens hp
        exact tileWinGen_apart hn hn' fun heq => h ⟨_, hp, heq⟩
  · intro f hf hw
    rw [State.rd_wrs_of_apart (by omega) _ _ fun p hp => ?_, hrd f hf]
    obtain ⟨t', n', hn', rfl⟩ := s.mem_winGens hp
    exact .inr (.inr (by simp only [F.tileWinGen]; omega))

/-! ## IDLE_ENTRY -/

/-- The tiles reset in idle: counters start anew, and no bay powers up. -/
def State.tilesLost (s : State) : State :=
  ((List.range 8).foldl (fun s d => s.setReg (R.pwrmBay d) (regReset s.variant (R.pwrmBay d)))
    (s.resetTiles.clearCounts (ctrTile 0 0) (ctrSlice 511 3))).modPower fun p => { p with upping := [] }

theorem State.tilesLost_facts : s.tilesLost.tiles = [] ∧ s.tilesLost.power.upping = [] ∧
    ∀ t n, t < tileCount → n < 4 → s.tilesLost.rd (F.tileWinGen t n) = s.rd (F.tileWinGen t n) := by
  have hbays : ∀ u : State, ((List.range 8).foldl (fun s d => s.setReg (R.pwrmBay d) (regReset s.variant (R.pwrmBay d))) u).tiles = u.tiles ∧
      framed State.variant (fun g => ∃ d, d < 8 ∧ g = ⟨R.pwrmBay d, 0, 64⟩) u
        ((List.range 8).foldl (fun s d => s.setReg (R.pwrmBay d) (regReset s.variant (R.pwrmBay d))) u) := fun u =>
    ⟨foldl_keep _ (fun w : State => w.tiles = u.tiles) _ _ rfl fun _ _ h => h,
      framed_foldl_mem _ _ fun w d hd => framed_setReg w (by intros; rfl) _ ⟨d, List.mem_range.mp hd, rfl⟩⟩
  obtain ⟨htiles, hframe⟩ := hbays (s.resetTiles.clearCounts (ctrTile 0 0) (ctrSlice 511 3))
  refine ⟨htiles.trans ?_, rfl, fun t n ht hn => (hframe.2 _ (by simp [F.tileWinGen]) ?_).trans (s.rd_resetTiles ht hn).1⟩
  · rw [s.resetTiles_eq]
    exact (State.wrs_only _ _).1 ▸ rfl
  · rintro g ⟨d, hd, rfl⟩
    exact .inl (by simp only [F.tileWinGen, R.pwrmBay, R.tileWin]; omega)

/-- The tolerance in effect, once IDLE_ENTRY has chosen it. -/
theorem State.idled_facts (c : Nat) (hc : c < 8) :
    let z := (s.wr F.pwrmWakeTolCurrent c).bump Ev.idleEntry .module 1
    z.rd F.pwrmWakeTolCurrent = c ∧ z.tiles = s.tiles ∧ z.power = s.power ∧ onlyRegs { s with counters := z.counters } z [R.pwrmWakeTol] ∧
      ∀ t n, z.rd (F.tileWinGen t n) = s.rd (F.tileWinGen t n) :=
  ⟨(State.rd_wr_same s _ _ (by decide)).trans (Nat.mod_eq_of_lt hc), rfl, rfl, ⟨rfl, (s.wrs_only [(F.pwrmWakeTolCurrent, c)]).2⟩,
    fun _ _ => State.rd_wr_of_apart s c (by simp [F.tileWinGen]) (.inl (by simp only [F.pwrmWakeTolCurrent, F.tileWinGen, R.pwrmWakeTol, R.tileWin]; omega))⟩

theorem idleEntry_facts (htol : s.rd F.pwrmWakeTolCurrent < s.rd F.pwrmWakeTolChosen) (hwake : s.power.waking = none)
    (hidle : s.mayIdle (s.rd F.pwrmWakeTolChosen) = true) (hrun : s.keep.restarting = false) :
    leads (exec .idleEntry s) fun z => z.rd F.pwrmWakeTolCurrent = s.rd F.pwrmWakeTolChosen ∧
      (s.rd F.pwrmWakeTolChosen < 3 → z.tiles = s.tiles ∧ onlyRegs { s with counters := z.counters } z [R.pwrmWakeTol]) ∧
      (3 ≤ s.rd F.pwrmWakeTolChosen → z.tiles = [] ∧ z.power.upping = [] ∧ ∀ t n, t < tileCount → n < 4 → z.rd (F.tileWinGen t n) = s.rd (F.tileWinGen t n)) := by
  let c := s.rd F.pwrmWakeTolChosen
  let flushed := if c = 4 then s.flushAll else s
  have hexec : exec .idleEntry s = .next (((if c < 3 then flushed else flushed.tilesLost).wr F.pwrmWakeTolCurrent c).bump Ev.idleEntry .module 1) := by
    have hmay : ¬ (c ≤ s.rd F.pwrmWakeTolCurrent ∨ s.power.waking.isSome = true ∨ (!s.mayIdle c) = true ∨ s.keep.restarting = true) := by
      rintro (h | h | h | h)
      · exact absurd h (not_le.mpr htol)
      · rw [hwake] at h; cases h
      · rw [show s.mayIdle c = true from hidle] at h; cases h
      · rw [hrun] at h; cases h
    show execIdleEntry s = _
    rw [execIdleEntry]
    dsimp only
    rw [if_neg hmay]
    rfl
  rw [hexec]
  by_cases h3 : c < 3
  · have hflush : flushed = s := if_neg (by omega)
    obtain ⟨hcur, htiles, -, hregs, -⟩ := s.idled_facts c (bf_lt _ _ 3)
    rw [if_pos h3, hflush]
    exact leads_next ⟨hcur, fun _ => ⟨htiles, hregs⟩, fun h => absurd h (not_le.mpr h3)⟩
  · have hflush : ∀ t n, n < 4 → flushed.rd (F.tileWinGen t n) = s.rd (F.tileWinGen t n) := fun t n hn => by
      unfold flushed
      split
      · refine (framed_flushAll s).2 _ (by simp [F.tileWinGen]) ?_
        rintro g (hg | ⟨f, hg⟩)
        · have := postFld_low hg
          exact .inl (by simp only [F.tileWinGen, R.tileWin]; omega)
        · simp only [R.floorTwinLog, R.floorTwinEp, R.floorSplitStat] at hg
          exact .inl (by simp only [F.tileWinGen, R.tileWin]; omega)
      · rfl
    obtain ⟨hnone, hup, hkeep⟩ := flushed.tilesLost_facts
    obtain ⟨hcur, htiles, hpower, -, hgen⟩ := flushed.tilesLost.idled_facts c (bf_lt _ _ 3)
    rw [if_neg h3]
    refine leads_next ⟨hcur, fun h => absurd h h3, fun _ => ⟨htiles.trans hnone, ?_, fun t n ht hn => ?_⟩⟩
    · rw [hpower]; exact hup
    · exact (hgen t n).trans ((hkeep t n ht hn).trans (hflush t n hn))

end

end Sys2Proof.Machine
end

section
open Sys2Proof Sys2Proof.Machine

/-- Settles O54: each command by its own lemma above. -/
theorem baysIdleThermal : Obligations.BaysIdleThermal := by
  unfold Obligations.BaysIdleThermal
  refine ⟨fun s d b hd hb => ⟨?_, ?_, ?_, ?_⟩, fun s => ⟨?_, ?_, ?_⟩, fun s c hc => ⟨?_, ?_⟩, ?_, ?_, fun s hrun => ⟨?_, ?_, ?_⟩, ?_⟩
  · exact bayIdleGate_facts s hd hb
  · exact bayPowerUpTest_facts s hd hb
  · exact bayHalfRateStart_facts s hd
  · exact bayUp_facts s hd
  · exact idleEntry_facts s
  · exact idleWake_facts s
  · exact selfRefreshEntry_facts s
  · exact cageInsert_facts s hc
  · exact cageRemove_facts s hc
  · exact hbmTempPoll_facts
  · exact thermalPoll_facts
  · exact graceExpiry_facts s hrun
  · exact muzzleStep_facts s hrun
  · exact muzzleFall_facts s hrun
  · intro s n sensor temp hn hunit hsensor hin htemp
    obtain ⟨z, hz, ⟨hstate, hcause, hpart, hvalid, hfirst⟩, hdark⟩ := hwTrip_facts s n sensor temp hn hunit hsensor hin htemp
    exact ⟨z, hz, hstate, hcause, hpart, hvalid, hfirst, hdark⟩

end

section
/-! What drains, drops and a write by the Keeper leave alone (R285, R295, R321). -/

namespace Sys2Proof.Machine

section
variable {q : Fld → Prop} (s : State)

/-! ## Reads of HBM -/

theorem framed_twinLog (n line sec kind winner ea eb : Nat) : framed State.rest memFld s (s.twinLog n line sec kind winner ea eb) :=
  framed_record s (by intros; rfl) (.inr ⟨_, .inl rfl⟩) (.inr ⟨_, .inl rfl⟩) fun p hp => by
    simp only [List.mem_cons, List.not_mem_nil, or_false] at hp
    obtain rfl | rfl | rfl | rfl | rfl | rfl | rfl := hp
    case inr.inr.inr.inr.inr.inl => exact .inr ⟨_, .inr (.inl rfl)⟩
    case inr.inr.inr.inr.inr.inr => exact .inr ⟨_, .inr (.inl rfl)⟩
    all_goals exact .inr ⟨_, .inl rfl⟩

theorem framed_lineEpoch (ch line : Nat) : framed State.rest q s (s.lineEpoch ch line).1 := by
  unfold State.lineEpoch
  split
  · exact framed_epochSec s _ _
  · exact .refl s

theorem framed_bothEpochs (n line : Nat) (tb : Nat × Nat) : framed State.rest q s (s.bothEpochs n line tb).1 :=
  (framed_lineEpoch s n line).trans (framed_lineEpoch _ tb.1 tb.2)

theorem framed_twinRepair (n line sec ea eb : Nat) (g : HbmGot) (detail : Nat) : framed State.rest memFld s
    ((((s.hbmPut n line sec g.words g.marked).bump Ev.twinRepair (.slice n) 1).twinLog n line sec 0 1 ea eb).faultLog 8 1 5 n 3 0 detail) :=
  (((framed_hbmPut s _ _ _ _ _).trans (framed_bump _ _ _ _)).trans (framed_twinLog _ _ _ _ _ _ _ _)).trans
    ((framed_faultLog _ _ _ _ _ _ _ _).widen fun _ => .inl)

/-- A sector read from HBM where the reads meet no error. -/
theorem framed_fetchSector (n line sec src : Nat) : framed State.rest memFld s (s.fetchSector n line sec src .quiet .quiet).1 := by
  unfold State.fetchSector
  split
  · split
    · exact .refl s
    · exact framed_hbmRead s n line sec src
  rename_i tb _
  split
  · exact .refl s
  dsimp only
  have hA : framed State.rest memFld s (if s.chanRetired n then (s, (⟨(s.hbmSec n line sec).1, [], allWords⟩ : HbmGot))
      else s.hbmRead n line sec src .quiet).1 := by
    split
    · exact .refl s
    · exact framed_hbmRead s _ _ _ _
  generalize (if s.chanRetired n then (s, (⟨(s.hbmSec n line sec).1, [], allWords⟩ : HbmGot))
      else s.hbmRead n line sec src .quiet) = ra at hA ⊢
  obtain ⟨u, ga⟩ := ra
  dsimp only at hA ⊢
  split
  · exact hA
  have hE : framed State.rest memFld s ((u.bump Ev.twinRead (.slice n) 1).bothEpochs n line tb).1 :=
    (hA.trans (framed_bump u _ _ _)).trans (framed_bothEpochs _ _ _ _)
  generalize (u.bump Ev.twinRead (.slice n) 1).bothEpochs n line tb = re at hE ⊢
  obtain ⟨v, ea, eb⟩ := re
  dsimp only at hE ⊢
  split
  · exact hE.trans (framed_twinLog v _ _ _ _ _ _ _)
  have hB : framed State.rest memFld s (v.hbmRead tb.1 tb.2 sec hsTWIN .quiet).1 := hE.trans (framed_hbmRead v _ _ _ _)
  generalize v.hbmRead tb.1 tb.2 sec hsTWIN .quiet = rb at hB ⊢
  obtain ⟨w, gb⟩ := rb
  dsimp only at hB ⊢
  split
  · exact hB.trans (framed_ite (.refl w) (framed_twinRepair w _ _ _ _ _ gb _))
  split
  · exact hB.trans (framed_twinLog w _ _ _ _ _ _ _)
  · exact hB.trans (framed_twinLog w _ _ _ _ _ _ _)

/-! ## Drains -/

theorem framed_setBase (n : Nat) (p : Loc) (w : Nat) (x : Sector) : framed State.rest q s (s.setBase n p w x) := framed_modSlice s n _

theorem framed_allocateNow (n set line : Nat) {col : Nat} (hc : col < 2) : framed State.rest memFld s (s.allocateNow n set line col []).1 := by
  unfold State.allocateNow
  extract_lets k u
  have hu : framed State.rest memFld s u := by
    unfold u
    split
    · refine framed_ite (.refl s) ?_
      exact ((framed_mergeFlushLine s _ _ _).trans (framed_cleanLine (State.wbDecode _ _ _ _ []) _ _ _ hc)).trans (framed_modSlice _ _ _)
    · exact .refl s
  have hall := hu.trans (framed_allocate u n set line k false hc)
  split
  · rename_i heq; rw [heq] at hall; exact hall
  · rename_i heq; rw [heq] at hall; exact hall

theorem framed_drainInto (n : Nat) (p : Loc) (v : List W64 × List Nat) (twin : Nat) : framed State.rest memFld s (s.drainInto n p v twin []) := by
  have hway : framed State.rest memFld s (if s.on (F.sliceStatRemoved n) then (s, none) else s.allocateNow n p.set p.line 1 []).1 := by
    split
    · exact .refl s
    · exact framed_allocateNow s _ _ _ Nat.one_lt_two
  unfold State.drainInto
  split
  · rename_i heq; rw [heq] at hway; exact hway.trans (framed_setBase _ _ _ _ _)
  · rename_i heq; rw [heq] at hway
    exact (hway.trans (framed_bump _ _ _ _)).trans (framed_writeBack _ _ _ _ _ _ _ Nat.one_lt_two)

theorem framed_modCommitted (n : Nat) (p : Loc) (whole : Bool) {col : Nat} (hc : col < 2) (f : List W64 × List Nat → List W64 × List Nat) :
    framed State.rest memFld s (s.modCommitted n p .quiet whole col f) := by
  unfold State.modCommitted
  split
  · split
    · exact framed_modSlice s _ _
    · exact .refl s
  · dsimp only
    refine .trans ?_ (framed_writeBack _ _ _ _ _ _ _ hc)
    split
    · exact .refl s
    · rw [State.atOnce_low _ _ _ _ hc]; exact framed_fetchSector s _ _ _ _

theorem framed_dropMark (n : Nat) (p : Loc) : framed State.rest q s (s.dropMark n p) := by
  unfold State.dropMark
  split
  · exact .refl s
  · exact framed_ite (.refl s) (framed_ite ((framed_setBase s _ _ _ _).trans (framed_modSlice _ _ _)) ((framed_setBase s _ _ _ _).trans (framed_modSlice _ _ _)))

theorem framed_dropUndo (n set way sector : Nat) : framed State.rest q s (s.dropUndo n set way sector) := by
  unfold State.dropUndo
  split
  · exact .refl s
  · exact framed_modSlice s _ _

theorem framed_dropSide (n set way sector : Nat) : framed State.rest q s (s.dropSide n set way sector) := framed_modSlice s n _

theorem framed_sideBit (n : Nat) (p : Loc) : framed State.rest q s (s.sideBit n p) := by
  unfold State.sideBit
  split
  · exact .refl s
  · exact framed_ite (.refl s) (framed_setBase s _ _ _ _)

/-- The base sector of an entry committed. -/
theorem framed_committedBase (n : Nat) (p : Loc) (e w : Nat) (c : Sector) : framed State.rest q s (if c.etag = e then
      let s := s.setBase n p w { c with etag := 0 }
      let s := if p.expl then s.dropUndo n p.set p.way p.sector else s
      if c.pendDrop then s.dropMark n p else s
    else s) := by
  extract_lets u v
  have hv : framed State.rest q s v := (framed_setBase s n p w _).trans (framed_ite (framed_dropUndo u _ _ _ _) (.refl u))
  exact framed_ite (framed_ite (hv.trans (framed_dropMark v _ _)) hv) (.refl s)

theorem framed_drainSec (n : Nat) (p : Loc) (e : Nat) : framed State.rest memFld s (s.drainSec n p e .quiet) := by
  unfold State.drainSec
  extract_lets flushed u v
  have hu : framed State.rest memFld s u := by
    refine (framed_mergeFlush s n p.set p.line p.sector).trans ?_
    show framed State.rest memFld flushed _
    unfold u
    split
    · exact framed_committedBase flushed n p e _ _
    · exact .refl flushed
  clear_value u
  split
  · exact hu
  extract_lets sl c
  split
  · exact hu
  have hv : framed State.rest memFld s v := hu.trans (framed_bump u _ _ _)
  have hread : framed State.rest memFld s (match v.baseSec n p with
      | some (_, b) => if b.valid then (v, b.words, b.poison, b.twin) else v.fetchSector n p.line p.sector hsFILL SliceDec.quiet.a SliceDec.quiet.b
      | none => v.fetchSector n p.line p.sector hsFILL SliceDec.quiet.a SliceDec.quiet.b).1 := by
    split
    · split
      · exact hv
      · exact hv.trans (framed_fetchSector v _ _ _ _)
    · exact hv.trans (framed_fetchSector v _ _ _ _)
  dsimp only
  refine .trans ?_ (framed_sideBit _ _ _)
  split
  · refine .trans ?_ (framed_setBase _ _ _ _ _)
    split
    · exact (hread.trans (framed_dropSide _ n _ _ _)).trans (framed_modCommitted _ _ _ _ Nat.one_lt_two _)
    · exact hread.trans (framed_dropSide _ n _ _ _)
  · exact (hread.trans (framed_dropSide _ n _ _ _)).trans (framed_drainInto _ _ _ _ _)

end

end Sys2Proof.Machine
end

section
/-! The Keeper's writes of memory, and operations of the pack lane (R433, R447 to R451). -/

namespace Sys2Proof.Machine

/-! ## A write by the Keeper -/

/-- Fields that a write of memory by the Keeper may write: a slice's error record besides those of a flush. -/
def pokeFld (g : Fld) : Prop := memFld g ∨ ∃ n, g.addr = R.sliceErr n

section
variable (s : State)

theorem framed_sliceUe (n : Nat) (p : Loc) (way src : Nat) (ue : List Nat) : framed State.rest pokeFld s (s.sliceUe n p way src ue) :=
  .trans (framed_ite (.refl s) (framed_bump s _ _ _)) (framed_foldl _ _ fun u _ =>
    framed_record u (by intros; rfl) (.inr ⟨n, rfl⟩) (.inr ⟨n, rfl⟩) (by
      simp [pokeFld, F.sliceErrUeSrc, F.sliceErrUeSet, F.sliceErrUeWay, F.sliceErrUeSector]))

theorem framed_decodeBase (n : Nat) (p : Loc) (src : Nat) : framed State.rest pokeFld s (s.decodeBase n p src .quiet) := by
  unfold State.decodeBase
  show framed State.rest pokeFld s (match s.baseSec n p with | none => s | some (w, c) => _)
  split
  · exact .refl s
  · exact framed_ite (.refl s) ((framed_sliceUe s n p _ _ _).trans (framed_setBase _ _ _ _ _))

theorem framed_fillNow (n : Nat) (p : Loc) (src : Nat) {col : Nat} (hc : col < 2) : framed State.rest pokeFld s (s.fillNow n p col src .quiet).1 := by
  have hread : ∀ (u : State) (way : Nat), framed State.rest pokeFld u ((u.fetchSector n p.line p.sector src .quiet .quiet).1.sliceUe n p way seFILL
      (u.fetchSector n p.line p.sector src .quiet .quiet).2.2.1) := fun u way =>
    ((framed_fetchSector u n p.line p.sector src).widen fun _ => .inl).trans (framed_sliceUe _ n p way seFILL _)
  unfold State.fillNow
  cases (s.slice n).find p.line with
  | some w =>
    dsimp only
    rw [State.atOnce_low _ _ _ _ hc]
    exact ((framed_modSlice s n _).trans (hread _ _)).trans (framed_setBase _ _ _ _ _)
  | none =>
    dsimp only
    by_cases hoff : s.on (F.sliceStatRemoved n) = true
    · rw [if_pos hoff]
      dsimp only
      rw [State.atOnce_low _ _ _ _ hc]
      exact hread s _
    rw [if_neg hoff]
    have hall := (framed_allocateNow s n p.set p.line hc).widen (r := pokeFld) fun _ => .inl
    rw [show SliceDec.quiet.wb = [] from rfl]
    generalize s.allocateNow n p.set p.line col [] = r at hall ⊢
    obtain ⟨u, got⟩ := r
    cases got with
    | some w =>
      dsimp only at hall ⊢
      rw [State.atOnce_low _ _ _ _ hc]
      exact (hall.trans (hread u _)).trans (framed_setBase _ _ _ _ _)
    | none =>
      dsimp only at hall ⊢
      rw [State.atOnce_low _ _ _ _ hc]
      exact (hall.trans (framed_bump u _ _ _)).trans (hread _ _)

theorem framed_putBytes (n : Nat) (p : Loc) (w : Nat) (parts : List (Nat × List PB)) {q : Fld → Prop} : framed State.rest q s (s.putBytes n p w parts) := by
  refine framed_foldl _ _ fun u part => framed_foldl _ _ fun v i => framed_ite ?_ (.refl v)
  dsimp only
  split
  · exact .refl v
  · exact framed_ite ((framed_modSlice v _ _).trans (framed_setBase _ _ _ _ _)) ((framed_setBase v _ _ _ _).trans (framed_mergeAdd _ _ _ _ _ _ _))

/-- A write of part of a sector by the Keeper, its reads meeting no error. -/
theorem framed_pokeSec (p : Loc) (bs : List PB) {col : Nat} (hc : col < 2) : framed State.rest pokeFld s (s.pokeSec p bs col .quiet) := by
  have hmem : ∀ {u w : State}, framed State.rest memFld u w → framed State.rest pokeFld u w := fun h => h.widen fun _ => .inl
  unfold State.pokeSec
  extract_lets n whole u v fresh w
  have hu : framed State.rest pokeFld s u := by
    unfold u
    rw [State.atOnce_low _ _ _ _ hc]
    exact (framed_decodeBase s n p seRMW).trans (framed_modSlice _ n _)
  have hv : framed State.rest pokeFld u v := by
    unfold v
    split
    · exact framed_ite (.refl u) (framed_fillNow u n p hsNARROW hc)
    split
    · have hall : framed State.rest pokeFld u (if u.on (F.sliceStatRemoved n) then (u, none) else u.allocateNow n p.set p.line col SliceDec.quiet.wb).1 := by
        split
        · exact .refl u
        · exact hmem (framed_allocateNow u n p.set p.line hc)
      split
      · rename_i heq; rw [heq] at hall; exact hall
      · rename_i heq; rw [heq] at hall; exact hall.trans (framed_bump _ _ _ _)
    · exact framed_fillNow u n p hsNARROW hc
  have hw : framed State.rest pokeFld v w := by
    unfold w
    split
    · extract_lets a b c
      have hc : framed State.rest pokeFld v c := ((framed_ite (hmem (framed_modCommitted v n p whole hc _)) (.refl v)).trans (framed_setBase a n p _ _)).trans
        (framed_putBytes _ n p _ _)
      exact framed_ite hc (hc.trans (framed_modSlice _ _ _))
    · dsimp only
      refine .trans ?_ (hmem (framed_writeBack _ _ _ _ _ _ _ hc))
      split
      · exact .refl v
      · rw [State.atOnce_low _ _ _ _ hc]
        exact hmem (framed_fetchSector v n p.line p.sector hsNARROW)
  have huw := hu.trans (hv.trans hw)
  exact framed_ite (huw.trans (hmem (framed_flushSlice w n))) huw

theorem framed_poke (a : Nat) (bs : List PB) {col : Nat} (hc : col < 2) : framed State.rest pokeFld s (s.poke a bs col []) := by
  refine foldl_keep _ (fun acc : State × Nat × List PB => framed State.rest pokeFld s acc.1) _ _ (.refl s) fun acc i hacc => ?_
  refine hacc.trans ?_
  dsimp only
  split
  · exact framed_pokeSec _ _ _ hc
  · exact .refl _

theorem framed_mailResult (t seq status members : Nat) (vals : List Byte) : framed State.rest pokeFld s (s.mailResult t seq status members vals) := by
  refine framed_ite (.refl s) (.trans ?_ (framed_poke _ _ _ Nat.two_pos))
  exact framed_ite (.refl s) (framed_poke s _ _ Nat.two_pos)

end

end Sys2Proof.Machine
end

section
/-! The start of a compute reset (R541, R543, R451). -/

namespace Sys2Proof.Machine

/-- What the end of the pack lane's operations keeps while a reset begins: bring-up and resets, commands that wait, the step of the pass, and
the partitions' states. -/
def State.resetView (s : State) : BootSt × List Waiting × Option Nat × W64 :=
  (s.boot, s.host.waits, s.pass.map Pass.step, s.reg R.bootPart)

section
variable {s w : State}

theorem framed.resetView {q : Fld → Prop} (h : framed State.rest q s w) (hq : ∀ g, q g → g.addr ≠ R.bootPart) : w.resetView = s.resetView := by
  have hreg : w.reg R.bootPart = s.reg R.bootPart := by
    have hrd := h.2 ⟨R.bootPart, 0, 64⟩ (by decide) fun g hg => .inl (hq g hg)
    refine BitVec.eq_of_toNat_eq ?_
    simpa [State.rd, bf, Nat.mod_eq_of_lt (BitVec.isLt _)] using hrd
  have hrest : (w.rest.boot, w.rest.host.waits, w.rest.pass.map Pass.step) = (s.rest.boot, s.rest.host.waits, s.rest.pass.map Pass.step) :=
    h.get fun u => (u.boot, u.host.waits, u.pass.map Pass.step)
  unfold State.resetView
  rw [hreg]
  simp only [Prod.mk.injEq] at hrest ⊢
  exact ⟨hrest.1, hrest.2.1, hrest.2.2, trivial⟩

end

section
variable (s : State)

theorem State.resetView_foldl {β : Type} {f : State → β → State} (l : List β) (h : ∀ u x, (f u x).resetView = u.resetView) :
    (l.foldl f s).resetView = s.resetView := foldl_keep f (fun u => u.resetView = s.resetView) l s rfl fun u x hu => (h u x).trans hu

theorem State.resetView_wr (f : Fld) (v : Nat) (hf : f.addr ≠ R.bootPart) : (s.wr f v).resetView = s.resetView :=
  framed.resetView (q := fun g => g = f) (framed_wr s (by intros; rfl) f v rfl) fun g hg => hg ▸ hf

theorem State.resetView_wrs {ws : List (Fld × Nat)} (hws : ∀ p ∈ ws, p.1.addr ≠ R.bootPart) : (s.wrs ws).resetView = s.resetView :=
  framed.resetView (q := fun g => g.addr ≠ R.bootPart) (framed_wrs s (by intros; rfl) hws) fun _ => id

theorem State.resetView_modTree (t : Nat) (f : TreeSt → TreeSt) : (s.modTree t f).resetView = s.resetView := rfl

theorem State.resetView_bump (ev : Nat) (u : EvUnit) (n : Nat) : (s.bump ev u n).resetView = s.resetView := rfl

theorem postFld_below {g : Fld} (hg : postFld g) : g.addr < 0x3000 := by
  rcases hg with hg | hg | ⟨k, hk, rfl⟩
  · rw [hg]; decide
  · rw [hg]; decide
  · simp only [F.cmdqQcfgBusy, R.cmdqQcfg]; omega

theorem framed.resetView_post {w : State} (h : framed State.rest postFld s w) : w.resetView = s.resetView :=
  h.resetView fun g hg => by
    have := postFld_below hg
    simp only [R.bootPart]
    omega

theorem State.resetView_complete (e : Entry) (status result : Nat) : (s.complete e status result).resetView = s.resetView :=
  (framed_complete s e status result).resetView_post

theorem framed.resetView_send {w : State} (h : framed State.rest sendFld s w) : w.resetView = s.resetView :=
  h.resetView fun g ⟨l, hl, hg⟩ => by
    rw [hg]
    simp only [F.linkStatTxSeq, R.linkStat, R.bootPart]
    omega

theorem State.resetView_mailResult (t seq status members : Nat) (vals : List Byte) :
    (s.mailResult t seq status members vals).resetView = s.resetView :=
  (framed_mailResult s t seq status members vals).resetView fun g hg => by
    rcases hg with (hg | ⟨f, hg⟩) | ⟨n, hg⟩
    · have := postFld_below hg
      simp only [R.bootPart]
      omega
    · simp only [R.floorTwinLog, R.floorTwinEp, R.floorSplitStat, R.bootPart] at *; omega
    · simp only [R.sliceErr, R.bootPart] at *; omega

/-! ## Snapshots -/

theorem State.resetView_abandon (k cause : Nat) : (s.abandon k cause).resetView = s.resetView := by
  have hwr : ∀ (u : State) (f : Fld) (v : Nat), f.addr = R.packSnapStat k → (u.wr f v).resetView = u.resetView := fun u f v hf =>
    u.resetView_wr f v (by rw [hf]; simp only [R.packSnapStat, R.bootPart]; omega)
  unfold State.abandon
  extract_lets u
  rw [State.resetView_bump, hwr u _ _ rfl]
  unfold u
  split
  · exact hwr s _ _ rfl
  · rfl

theorem State.resetView_endSnap (k status : Nat) : (s.endSnap k status).resetView = s.resetView := by
  unfold State.endSnap
  split
  · rfl
  dsimp only
  split
  · exact (State.resetView_complete _ _ _ _).trans rfl
  · rfl

theorem State.resetView_stopSnap (k : Nat) : (s.stopSnap k).resetView = s.resetView := by
  unfold State.stopSnap
  split
  · rfl
  split
  · dsimp only
    split
    · exact (State.resetView_complete _ _ _ _).trans rfl
    · rfl
  split
  · rfl
  · rw [State.resetView_endSnap]
    split
    · exact s.resetView_abandon _ _
    · rfl

theorem State.resetView_stopSnaps : s.stopSnaps.resetView = s.resetView := (State.resetView_stopSnap _ 1).trans (s.resetView_stopSnap 0)

/-! ## Operations of the pack lane -/

theorem State.resetView_packStat {t : Nat} {ws : List (Fld × Nat)} (hws : ∀ p ∈ ws, p.1.addr = R.packTreeStat t) :
    (s.wrs ws).resetView = s.resetView :=
  s.resetView_wrs fun p hp => by
    rw [hws p hp]
    simp only [R.packTreeStat, R.bootPart]
    omega

theorem State.resetView_barkPack (t : Nat) : (s.barkPack t).resetView = s.resetView := by
  have hwr : ∀ (u : State) (p v : Nat), (u.wr (barkPackFld p) v).resetView = u.resetView := fun u p v => u.resetView_wr _ _ (by simp [barkPackFld, R.keepBarkPack, R.bootPart])
  unfold State.barkPack
  extract_lets p holds
  by_cases h : holds = true
  · rw [if_pos h]
    exact hwr s.free.2 _ _
  · rw [if_neg h]
    exact hwr s _ _

theorem State.resetView_kidsIn (t : Nat) : (s.kidsIn t).resetView = s.resetView := s.resetView_packStat (t := t) (ws := [(F.packTreeStatKidsIn t, _)]) (by simp [F.packTreeStatKidsIn])

theorem State.resetView_pass {p q : Pass} (hp : s.pass = some p) (hstep : q.step = p.step) : ({ s with pass := some q } : State).resetView = s.resetView := by
  unfold State.resetView
  rw [hp, Option.map_some, Option.map_some, hstep]
  rfl

theorem State.resetView_hostFail (e : Entry) (a : Nat) : (s.hostFail e a).resetView = s.resetView := by
  refine (State.resetView_complete _ _ _ _).trans ?_
  refine framed.resetView (q := fun g => g.addr = R.hostwErr) (framed_record s (by intros; rfl) rfl rfl ?_) fun g hg => by rw [hg]; decide
  simp [F.hostwErrKind, F.hostwErrBar, F.hostwErrOffset]

theorem State.resetView_packAnswer (t : Nat) (o : PackOp) (seq status members : Nat) (vals : List W64) :
    (s.packAnswer t o seq status members vals).resetView = s.resetView := by
  unfold State.packAnswer
  split
  case h_1 e _ =>
    extract_lets out u
    split
    · exact s.resetView_hostFail _ _
    · refine (u.resetView_complete _ _ _).trans ?_
      unfold u
      split
      · rfl
      · rfl
  case h_2 => exact s.resetView_mailResult _ _ _ _ _
  case h_3 first _ =>
    split
    · rename_i q hq
      split
      · rfl
      split
      · exact s.resetView_pass hq rfl
      split
      · exact (State.resetView_complete _ _ _ _).trans (s.resetView_pass hq rfl)
      · rfl
    · rfl
  case h_4 k _ =>
    split
    · split
      · rfl
      · rfl
    · exact (State.resetView_endSnap _ _ _).trans (s.resetView_abandon _ _)
  case h_5 k _ =>
    have hwr : ∀ (u : State) (i v : Nat), (u.wr (F.packSnapStatState i) v).resetView = u.resetView := fun u i v =>
      u.resetView_wr _ _ (by simp only [F.packSnapStatState, R.packSnapStat, R.bootPart]; omega)
    split
    · exact (State.resetView_endSnap _ _ _).trans ((hwr _ _ _).trans (hwr s _ _))
    split
    · exact s.resetView_endSnap _ _
    · exact (State.resetView_endSnap _ _ _).trans (s.resetView_abandon _ _)
  case h_6 => rfl

theorem State.resetView_packDone (t status members : Nat) (vals : List W64) : (s.packDone t status members vals).resetView = s.resetView := by
  unfold State.packDone
  extract_lets x u v w z
  have hu : u.resetView = s.resetView := s.resetView_packStat (t := t) (by simp [F.packTreeStatState, F.packTreeStatLastStatus, F.packTreeStatLocalIn])
  have hv : v.resetView = u.resetView := by
    unfold v
    split
    · exact u.resetView_bump _ _ _
    · rfl
  have hz : z.resetView = s.resetView :=
    ((State.resetView_barkPack _ t).trans (w.resetView_kidsIn t)).trans ((v.resetView_modTree t _).trans (hv.trans hu))
  split
  · exact (z.resetView_packAnswer _ _ _ _ _ _).trans hz
  · exact hz

theorem State.resetView_sendDown (t : Nat) (h : PackHdr) (data : List Byte) : (s.sendDown t h data).resetView = s.resetView :=
  (framed_sendDown s t h data).resetView_send

theorem State.resetView_combine (t : Nat) : (s.combine t).resetView = s.resetView := by
  unfold State.combine
  extract_lets x ins
  split
  · rfl
  split
  · rfl
  extract_lets
  split
  · exact (State.resetView_packDone _ _ _ _ _).trans (s.resetView_sendDown _ _ _)
  · exact (framed_launchPkt _ _).resetView_send.trans (s.resetView_modTree t _)

theorem State.resetView_beginOp (t : Nat) (o : PackOp) : (s.beginOp t o).resetView = s.resetView := by
  unfold State.beginOp
  extract_lets seq u v w
  have hv : v.resetView = s.resetView :=
    ((State.resetView_bump _ _ _ _).trans (u.resetView_packStat (t := t) (by simp [F.packTreeStatState, F.packTreeStatKind, F.packTreeStatOpSeq, F.packTreeStatLocalIn]))).trans
      (s.resetView_modTree t _)
  have hw : w.resetView = s.resetView := (v.resetView_kidsIn t).trans hv
  split
  · exact (State.resetView_packDone _ _ _ _ _).trans ((w.resetView_sendDown _ _ _).trans hw)
  · exact (State.resetView_barkPack _ t).trans ((w.resetView_combine t).trans hw)

theorem State.resetView_packNext (t : Nat) : (s.packNext t).resetView = s.resetView :=
  s.resetView_foldl _ fun u _ => by
    split
    · exact (State.resetView_beginOp _ _ _).trans (u.resetView_modTree t _)
    · rfl

theorem State.resetView_orphanOps : s.orphanOps.resetView = s.resetView := by
  unfold State.orphanOps
  extract_lets back u
  exact (u.resetView_foldl back fun v t => (State.resetView_packNext _ t).trans
    (v.resetView_packStat (t := t) (by simp [F.packTreeStatState, F.packTreeStatLocalIn]))).trans rfl

end

end Sys2Proof.Machine
end

section
/-! A compute reset that has begun (R541, R543, R546), and FABRIC_RESET and PARTITION_RESET of the compute partition (R451, R470). -/

namespace Sys2Proof.Machine

theorem framed.tileRest_waits {q : Fld → Prop} {s w : State} (h : framed State.tileRest q s w) : w.host.waits = s.host.waits := h.get fun u => u.host.waits

theorem framed.tileRest_pass {q : Fld → Prop} {s w : State} (h : framed State.tileRest q s w) : w.pass = s.pass := h.get State.pass

theorem failFld_part {f g : Fld} (hf : f.addr = R.bootPart) (hg : failFld g) : g.apart f := by
  refine .inl ?_
  rw [hf]
  rcases hg with hg | hg | rfl | rfl | rfl
  · have := postFld_below hg
    simp only [R.bootPart]
    omega
  · simp only [tileFld, R.bootPart] at *
    omega
  · decide
  · decide
  · decide

section
variable (s : State)

theorem State.pass_complete (e : Entry) (status result : Nat) : (s.complete e status result).pass = s.pass := by rw [(completed_complete s e status result).1]

theorem State.waits_complete (e : Entry) (status result : Nat) : (s.complete e status result).host.waits = s.host.waits :=
  (completed_complete s e status result).waits

theorem State.pass_finish (p : Wait → Bool) (status result : Nat) : (s.finish p status result).pass = s.pass := by rw [(completed_finish s p status result).1]; rfl

theorem State.mem_waits_finish (p : Wait → Bool) (status result : Nat) (w : Waiting) :
    w ∈ (s.finish p status result).host.waits ↔ w ∈ s.host.waits ∧ p w.why = false := by
  rw [(completed_finish s p status result).waits]
  simp [State.modHost]

/-- A pass that is dropped is gone, and what waits other than its launch and its commit waits on. -/
theorem State.dropPass_facts (status result : Nat) : (s.dropPass status result).pass = none ∧
    ∀ w ∈ s.host.waits, (∀ n c b, w.why ≠ .launch n c b) → (∀ n b c, w.why ≠ .commit n b c) → w ∈ (s.dropPass status result).host.waits := by
  have hheld : ∀ u : State, (∀ w ∈ s.host.waits, (∀ n c b, w.why ≠ .launch n c b) → (∀ n b c, w.why ≠ .commit n b c) → w ∈ u.host.waits) → u.pass = none →
      (u.finishHeld status result).pass = none ∧ ∀ w ∈ s.host.waits, (∀ n c b, w.why ≠ .launch n c b) → (∀ n b c, w.why ≠ .commit n b c) →
        w ∈ (u.finishHeld status result).host.waits := fun u hu hp => by
    refine ⟨(u.pass_finish _ _ _).trans hp, fun w hw hl hc => (u.mem_waits_finish _ _ _ w).mpr ⟨hu w hw hl hc, ?_⟩⟩
    split
    · exact absurd ‹_› (hl _ _ _)
    · exact absurd ‹_› (hc _ _ _)
    · rfl
  unfold State.dropPass
  split
  · rename_i hp
    exact hheld s (fun _ hw _ _ => hw) hp
  rename_i p hp
  extract_lets dropped launched ended
  have hlaunched : launched.pass = none ∧ launched.host.waits = s.host.waits := by
    unfold launched
    split
    · exact ⟨rfl, rfl⟩
    · exact ⟨dropped.pass_complete _ _ _, dropped.waits_complete _ _ _⟩
  have hended : ended.pass = none ∧ ended.host.waits = s.host.waits := by
    unfold ended
    split
    · exact ⟨(launched.pass_complete _ _ _).trans hlaunched.1, (launched.waits_complete _ _ _).trans hlaunched.2⟩
    · exact hlaunched
  exact hheld ended (fun w hw _ _ => hended.2 ▸ hw) hended.1

/-- What a pass that stops at once leaves. -/
theorem State.stopPass_facts : s.stopPass.pass = none ∧ s.stopPass.heldSigs = [] ∧ s.stopPass.fab.dests = [] ∧ s.stopPass.fab.doubt = [] ∧
    s.stopPass.boot = s.boot ∧ (∀ e, ⟨e, .computeReset⟩ ∈ s.host.waits → ⟨e, .computeReset⟩ ∈ s.stopPass.host.waits) ∧
    ∀ f : Fld, f.addr = R.bootPart → f.lo + f.w ≤ 64 → s.stopPass.rd f = s.rd f := by
  have hclear : tileActs s (s.jobTiles.foldl (fun s t => s.tileClear t) s) := framed_foldl _ s fun u t => tileActs_tileClear u t
  have hdrop := failActs_dropPass (s.jobTiles.foldl (fun s t => s.tileClear t) s) sABORTED 0
  obtain ⟨hpass, hwaits⟩ := (s.jobTiles.foldl (fun s t => s.tileClear t) s).dropPass_facts sABORTED 0
  refine ⟨hpass, rfl, rfl, rfl, hdrop.failRest_boot.trans (failActs_of_tile hclear).failRest_boot, fun e he => hwaits _ ?_ (by simp) (by simp), fun f ha hf => ?_⟩
  · rw [hclear.tileRest_waits]
    exact he
  · exact (hdrop.2 f hf fun g => failFld_part ha).trans ((failActs_of_tile hclear).2 f hf fun g => failFld_part ha)

/-- What the discard of a pass that a reset aborts leaves: the pass is marked to be discarded without replay. -/
theorem State.abortPass_facts : (s.pass = none → s.abortPass.pass = none) ∧
    (∀ p, s.pass = some p → ∃ q, s.abortPass.pass = some q ∧ q.aborted = true ∧ (p.step = 0 → q.step = 1)) ∧
    s.abortPass.boot = s.boot ∧ s.abortPass.host.waits = s.host.waits ∧
    ∀ f : Fld, f.addr = R.bootPart → f.lo + f.w ≤ 64 → s.abortPass.rd f = s.rd f := by
  unfold State.abortPass
  extract_lets marked
  cases hp : s.pass with
  | none =>
    have hm : marked.pass = none := by
      show s.pass.map _ = _
      rw [hp]
      rfl
    rw [hm]
    exact ⟨fun _ => hm, by simp, rfl, rfl, fun _ _ _ => rfl⟩
  | some p =>
    have hm : marked.pass = some { p with aborted := true } := by
      show s.pass.map _ = _
      rw [hp]
      rfl
    rw [hm]
    dsimp only
    by_cases h0 : p.step = 0
    · rw [if_pos h0]
      have hdisc := tileActs_beginDiscard marked
      refine ⟨by simp, ?_, (failActs_beginDiscard marked).failRest_boot, hdisc.tileRest_waits, fun f ha hf =>
        (failActs_beginDiscard marked).2 f hf fun g => failFld_part ha⟩
      rintro _ ⟨⟩
      refine ⟨{ p with aborted := true, step := 1, late := p.late || p.arrived }, hdisc.tileRest_pass.trans ?_, rfl, fun _ => rfl⟩
      show marked.pass.map _ = _
      rw [hm]
      rfl
    · rw [if_neg h0]
      refine ⟨by simp, ?_, rfl, rfl, fun _ _ _ => rfl⟩
      rintro _ ⟨⟩
      refine ⟨{ p with aborted := true, step := min p.step 3 }, ?_, rfl, fun h => absurd h h0⟩
      show marked.pass.map _ = _
      rw [hm]
      rfl

theorem State.of_resetView {s w : State} (h : w.resetView = s.resetView) : w.boot = s.boot ∧ w.host.waits = s.host.waits ∧
    w.pass.map Pass.step = s.pass.map Pass.step ∧ ∀ f : Fld, f.addr = R.bootPart → w.rd f = s.rd f := by
  unfold State.resetView at h
  simp only [Prod.mk.injEq] at h
  obtain ⟨hboot, hwaits, hpass, hreg⟩ := h
  exact ⟨hboot, hwaits, hpass, fun f hf => by rw [State.rd, State.rd, hf, hreg]⟩

theorem State.wakeTo_keeps (n : Nat) : (s.wakeTo n).boot = s.boot ∧ (s.wakeTo n).host = s.host ∧ (s.wakeTo n).pass = s.pass := by
  unfold State.wakeTo
  extract_lets c v w
  have hv : v.boot = s.boot ∧ v.host = s.host ∧ v.pass = s.pass := by
    unfold v
    split
    · rw [s.floorInit_eq]
      exact ⟨rfl, rfl, rfl⟩
    · exact ⟨rfl, rfl, rfl⟩
  have hw : w.boot = v.boot ∧ w.host = v.host ∧ w.pass = v.pass := by
    unfold w
    split
    · exact ⟨rfl, rfl, rfl⟩
    · exact ⟨rfl, rfl, rfl⟩
  exact ⟨hw.1.trans hv.1, hw.2.1.trans hv.2.1, hw.2.2.trans hv.2.2⟩

/-- A compute reset's marks. -/
theorem State.resetMarks_facts (r : ResetSt) :
    let z := (s.modBoot fun b => { b with reset := some r }).wrs [(F.bootPartCompute, 2), (F.bootPartFabric, b2n r.fabric)]
    z.boot.reset = some r ∧ z.host = s.host ∧ z.pass = s.pass ∧ z.rd F.bootPartCompute = 2 ∧ z.on F.bootPartFabric = r.fabric := by
  have hin := fun p => State.rd_wrs_of_mem [(F.bootPartCompute, 2), (F.bootPartFabric, b2n r.fabric)] (s.modBoot fun b => { b with reset := some r })
    (by simp [F.bootPartCompute, F.bootPartFabric]) (by simp [Fld.apart, F.bootPartCompute, F.bootPartFabric]) (p := p)
  refine ⟨rfl, rfl, rfl, hin (F.bootPartCompute, 2) (by simp), ?_⟩
  rw [State.on, hin (F.bootPartFabric, b2n r.fabric) (by simp)]
  cases r.fabric <;> rfl

/-- A compute reset that begins where none is in progress. -/
theorem State.beginReset_facts (keep fabric : Bool) (hreset : s.boot.reset = none) {z : State} (hz : z = s.beginReset keep fabric) :
    z.boot.reset = some ⟨keep, fabric, false⟩ ∧ z.rd F.bootPartCompute = 2 ∧ z.on F.bootPartFabric = fabric ∧
    (∀ e, ⟨e, .computeReset⟩ ∈ s.host.waits → ⟨e, .computeReset⟩ ∈ z.host.waits) ∧
    (fabric = true → z.pass = none ∧ z.heldSigs = [] ∧ z.fab.dests = [] ∧ z.fab.doubt = []) ∧
    (fabric = false → (s.pass = none → z.pass = none) ∧
      ∀ p, s.pass = some p → ∃ q, z.pass = some q ∧ q.aborted = true ∧ (p.step = 0 → q.step = 1)) := by
  let woken := if s.rd F.pwrmWakeTolCurrent ≠ 0 ∨ s.power.waking.isSome then s.wakeTo 0 else s
  let begun := (woken.modBoot fun b => { b with reset := some ⟨keep, fabric, false⟩ }).wrs [(F.bootPartCompute, 2), (F.bootPartFabric, b2n fabric)]
  have hstart : s.beginReset keep fabric = if fabric then begun.stopSnaps.orphanOps.stopPass else begun.stopSnaps.orphanOps.abortPass := by
    unfold State.beginReset
    rw [hreset]
  have hwoken : woken.host = s.host ∧ woken.pass = s.pass := by
    unfold woken
    split
    · exact (s.wakeTo_keeps 0).2
    · exact ⟨rfl, rfl⟩
  obtain ⟨hboot, hhost, hpass, hcompute, hfabric⟩ := woken.resetMarks_facts ⟨keep, fabric, false⟩
  have hview : begun.stopSnaps.orphanOps.resetView = begun.resetView := (State.resetView_orphanOps _).trans begun.resetView_stopSnaps
  obtain ⟨hboot', hwaits', hstep, hpart⟩ := State.of_resetView hview
  have hwait : ∀ e, ⟨e, .computeReset⟩ ∈ s.host.waits → ⟨e, .computeReset⟩ ∈ begun.stopSnaps.orphanOps.host.waits := fun e he => by
    rw [hwaits', hhost, hwoken.1]
    exact he
  have hcompute' : begun.stopSnaps.orphanOps.rd F.bootPartCompute = 2 := (hpart _ rfl).trans hcompute
  have hfabric' : begun.stopSnaps.orphanOps.on F.bootPartFabric = fabric := by
    rw [State.on, hpart _ rfl]
    exact hfabric
  have hboot'' : begun.stopSnaps.orphanOps.boot.reset = some ⟨keep, fabric, false⟩ := by rw [hboot', hboot]
  have hstep' : begun.stopSnaps.orphanOps.pass.map Pass.step = s.pass.map Pass.step := by rw [hstep, hpass, hwoken.2]
  rw [hz, hstart]
  cases fabric with
  | true =>
    obtain ⟨h1, h2, h3, h4, h5, h6, h7⟩ := begun.stopSnaps.orphanOps.stopPass_facts
    refine ⟨by rw [if_pos rfl, h5, hboot''], ?_, ?_, fun e he => h6 e (hwait e he), fun _ => ⟨h1, h2, h3, h4⟩, by simp⟩
    · rw [if_pos rfl, h7 _ rfl (by decide), hcompute']
    · rw [if_pos rfl, State.on, h7 _ rfl (by decide)]
      exact hfabric'
  | false =>
    obtain ⟨h1, h2, h3, h4, h5⟩ := begun.stopSnaps.orphanOps.abortPass_facts
    rw [if_neg (by decide)]
    refine ⟨by rw [h3, hboot''], (h5 _ rfl (by decide)).trans hcompute', ?_, fun e he => by rw [h4]; exact hwait e he, by simp, fun _ => ⟨fun hn => h1 ?_, fun p hp => ?_⟩⟩
    · rw [State.on, h5 _ rfl (by decide)]
      exact hfabric'
    · rw [hn] at hstep'
      exact Option.map_eq_none_iff.mp hstep'
    · rw [hp] at hstep'
      obtain ⟨p', hp', heq⟩ := Option.map_eq_some_iff.mp hstep'
      obtain ⟨q, hq, habort, hstart⟩ := h2 p' hp'
      exact ⟨q, hq, habort, fun h0 => hstart (heq.trans h0)⟩

/-- A fabric reset that joins a compute reset in progress. -/
theorem State.beginReset_join (keep : Bool) {r : ResetSt} (hreset : s.boot.reset = some r) {z : State} (hz : z = s.beginReset keep true) :
    z.boot.reset = some { r with fabric := true } ∧ (∀ e, ⟨e, .computeReset⟩ ∈ s.host.waits → ⟨e, .computeReset⟩ ∈ z.host.waits) ∧
    (r.fabric = false → z.pass = none ∧ z.on F.bootPartFabric = true) := by
  have hjoin : s.beginReset keep true = if r.fabric then s
      else ((s.modBoot fun b => { b with reset := some { r with fabric := true } }).wr F.bootPartFabric 1).stopPass := by
    unfold State.beginReset
    rw [hreset]
    simp
  rw [hz, hjoin]
  cases hf : r.fabric with
  | true =>
    rw [if_pos rfl]
    refine ⟨hreset.trans (congrArg some ?_), fun _ => id, by simp⟩
    obtain ⟨k, f, h⟩ := r
    rw [show f = true from hf]
  | false =>
    obtain ⟨hpass, -, -, -, hboot, hwait, hpart⟩ :=
      ((s.modBoot fun b => { b with reset := some { r with fabric := true } }).wr F.bootPartFabric 1).stopPass_facts
    rw [if_neg (by decide)]
    refine ⟨by rw [hboot]; rfl, hwait, fun _ => ⟨hpass, ?_⟩⟩
    rw [State.on, hpart _ rfl (by decide), State.rd_wr_same _ _ _ (by decide)]
    rfl

/-- A reset's packet leaves bring-up, what waits, and the partitions as they are. -/
theorem State.resetView_sendReset (t seq aux : Nat) : (s.sendReset t seq aux).resetView = s.resetView :=
  ((State.resetView_bump _ _ _ _).trans (State.resetView_sendDown _ _ _ _)).trans (s.resetView_modTree t _)

theorem State.mem_waits_await (e : Entry) (w : Wait) : ⟨e, w⟩ ∈ (s.await e w).host.waits := List.mem_append_right _ List.mem_cons_self

end

/-- FABRIC_RESET (R451, R470). -/
theorem fabricReset_facts {s u : State} {e : Entry} (h : s.cmdTurn e .admin ⟨false, true, false, true⟩ [(1, [(0, 4)]), (2, [(0, 1)])] = some u) :
    let t := parm e 1 % 16
    (u.on (F.packTreeCtrlEnable t) = false ∨ u.isRoot t = false → leads (exec (.fabricReset e) s) fun z => posted u z e sREFUSED 0) ∧
    (u.on (F.packTreeCtrlEnable t) = true → u.isRoot t = true →
      (u.boot.linkPhase ≠ 0 → leads (exec (.fabricReset e) s) fun z => posted u z e sBUSY 0) ∧
      (u.boot.linkPhase = 0 → leads (exec (.fabricReset e) s) fun z => ⟨e, .computeReset⟩ ∈ z.host.waits ∧
        (u.boot.reset = none → z.boot.reset = some ⟨(parm e 2).testBit 0, true, false⟩ ∧ z.rd F.bootPartCompute = 2 ∧ z.on F.bootPartFabric = true ∧
          z.pass = none ∧ z.heldSigs = [] ∧ z.fab.dests = [] ∧ z.fab.doubt = []) ∧
        ∀ r, u.boot.reset = some r → z.boot.reset = some { r with fabric := true } ∧ (r.fabric = false → z.pass = none ∧ z.on F.bootPartFabric = true))) := by
  intro t
  have ht : bf (parm e 1) 0 4 = t := bf_zero _ _
  refine ⟨fun hoff => cmd_posts h ?_, fun hon hroot => ⟨fun hphase => cmd_posts h ?_, fun hphase => ?_⟩⟩
  · dsimp only
    rw [ht, if_pos (by rcases hoff with h | h <;> simp [h])]
  · dsimp only
    rw [ht, if_neg (by simp [hon, hroot]), if_pos hphase]
  · let begun := (u.sendReset t (u.tree t).opSeq (bf (parm e 2) 0 1)).await e .computeReset
    have hexec : exec (.fabricReset e) s = .next (begun.beginReset (bit (parm e 2) 0) true) := by
      refine congrArg Host.Outcome.next ((State.cmd_of_cmdTurn h _).trans ?_)
      dsimp only
      rw [ht, if_neg (by simp [hon, hroot]), if_neg (by simp [hphase])]
    have hboot : begun.boot = u.boot := (State.of_resetView (u.resetView_sendReset t _ _)).1
    have hwait : ⟨e, .computeReset⟩ ∈ begun.host.waits := State.mem_waits_await _ _ _
    rw [hexec, bit_eq_testBit]
    cases hr : u.boot.reset with
    | none =>
      obtain ⟨hreset, hcompute, hfabric, hwaits, hstop, -⟩ := begun.beginReset_facts ((parm e 2).testBit 0) true (by rw [hboot, hr]) rfl
      exact leads_next ⟨hwaits e hwait, fun _ => ⟨hreset, hcompute, hfabric, hstop rfl⟩, by simp⟩
    | some r =>
      obtain ⟨hreset, hwaits, hstop⟩ := begun.beginReset_join ((parm e 2).testBit 0) (hboot ▸ hr) rfl
      exact leads_next ⟨hwaits e hwait, by simp, by rintro _ ⟨⟩; exact ⟨hreset, hstop⟩⟩

/-- PARTITION_RESET of the compute partition (R470, R541, R543). -/
theorem computeResetLocal_facts {s u : State} {e : Entry} (h : s.cmdTurn e .admin ⟨true, true, false, true⟩ [(1, [(0, 3)])] = some u)
    (hk : parm e 1 % 4 = 0) :
    (u.boot.reset ≠ none ∨ u.boot.linkPhase ≠ 0 → leads (exec (.computeResetLocal e) s) fun z => posted u z e sBUSY 0) ∧
    (u.boot.reset = none → u.boot.linkPhase = 0 → leads (exec (.computeResetLocal e) s) fun z => ⟨e, .computeReset⟩ ∈ z.host.waits ∧
      z.rd F.bootPartCompute = 2 ∧ z.boot.reset = some ⟨(parm e 1).testBit 2, false, false⟩ ∧ z.on F.bootPartFabric = false ∧ (u.pass = none → z.pass = none) ∧
      ∀ p, u.pass = some p → ∃ q, z.pass = some q ∧ q.aborted = true ∧ (p.step = 0 → q.step = 1)) := by
  have hbf : bf (parm e 1) 0 2 = 0 := by rw [bf_zero]; exact hk
  have hexec : exec (.computeResetLocal e) s = .next (s.partitionResetCmd e) := congrArg Host.Outcome.next (if_pos hbf)
  rw [hexec]
  refine ⟨fun hbusy => cmd_posts h ?_, fun hreset hphase => ?_⟩
  · dsimp only
    rw [if_neg (by rw [hbf]; omega), if_pos (hbusy.imp_left Option.isSome_iff_ne_none.mpr)]
  · have hz : s.partitionResetCmd e = (u.await e .computeReset).beginReset ((parm e 1).testBit 2) false := by
      refine (State.cmd_of_cmdTurn h _).trans ?_
      dsimp only
      rw [if_neg (by rw [hbf]; omega), if_neg (by simp [hreset, hphase]), if_pos hbf, bit_eq_testBit]
    obtain ⟨hkeep, hcompute, hfabric, hwaits, -, hpass⟩ := (u.await e .computeReset).beginReset_facts ((parm e 1).testBit 2) false hreset hz
    obtain ⟨hnone, hsome⟩ := hpass rfl
    exact leads_next ⟨hwaits e (u.mem_waits_await e _), hcompute, hkeep, hfabric, hnone, hsome⟩

end Sys2Proof.Machine
end

section
/-! PARTITION_RESET of the link partition, and RETIRE (R470, R484, R545, R546). -/

namespace Sys2Proof.Machine

/-- The state without what RETIRE's packets change: what a packet that is sent changes, and the links that are waited for. -/
def State.retireRest (s : State) : State := { s.rest with fab := { s.rest.fab with retireWait := [] } }

section
variable (s : State)

/-- The links that are Up. -/
def State.upLinks (s : State) : List Nat := (List.range s.variant.links).filter fun l => decide (s.rd (F.linkStatState l) = lkUp)

theorem State.mem_upLinks {l : Nat} : l ∈ s.upLinks ↔ l < s.variant.links ∧ s.rd (F.linkStatState l) = lkUp := by
  simp [State.upLinks]

theorem State.sendRetires_facts : framed State.retireRest sendFld s s.sendRetires ∧ s.sendRetires.fab.retireWait = s.upLinks := by
  refine ⟨.trans ?_ (framed_of_regs rfl rfl rfl), rfl⟩
  refine (framed_foldl_mem (π := State.rest) _ _ fun u l hl => framed_sendMgmt u ?_ 3 0).mono (fun r => { r with fab := { r.fab with retireWait := [] } })
    (fun _ => rfl) fun _ => id
  have := links_le s.variant
  have := (s.mem_upLinks.mp hl).1
  omega

theorem framed.retireRest_facts {s w : State} (h : framed State.retireRest sendFld s w) : w.boot = s.boot ∧ w.host.waits = s.host.waits ∧
    w.host.retiring = s.host.retiring ∧ w.host.retired = s.host.retired ∧ w.variant = s.variant ∧ w.fab.bridges = s.fab.bridges ∧ w.selfRef = s.selfRef :=
  ⟨h.get State.boot, h.get fun u => u.host.waits, h.get fun u => u.host.retiring, h.get fun u => u.host.retired, h.get State.variant,
    h.get fun u => u.fab.bridges, h.get State.selfRef⟩

theorem sendFld_apart {f : Fld} (h : f.addr < 0x20000 ∨ 0x28000 ≤ f.addr ∨ f.lo + f.w ≤ 36) {g : Fld} (hg : sendFld g) : g.apart f := by
  obtain ⟨l, hl, rfl⟩ := hg
  simp only [Fld.apart, F.linkStatTxSeq, R.linkStat]
  omega

/-- What a retirement does that waits for nothing more. -/
def State.retireNow (s : State) : State :=
  let s := (List.range s.variant.links).foldl (fun s l => s.disableLink l) s
  let s := (({ s with selfRef := (List.range 32).filter fun h => s.stackPopulated h } : State)).modHost fun h => { h with retired := true }
  s.finish retireWaits sOK 0

/-- The links that are waited for and are still up. -/
def State.retireLeft (s : State) : List Nat :=
  s.fab.retireWait.filter fun l => s.linkExists l && (decide (s.rd (F.linkStatState l) = lkUp) || decide (s.rd (F.linkStatState l) = lkRetrain))

theorem State.retireStep_eq : s.retireStep =
    let u := if s.boot.linkPhase = 1 ∧ (s.retireLeft = [] ∨ s.boot.linkAt ≤ s.now) then s.linkResetGo else s
    if u.host.retiring ∧ !u.host.retired ∧ s.retireLeft = [] ∧ !u.anyClosing then u.retireNow else u := rfl

/-- While a link that is waited for is still Up, and a link reset's time is not over, nothing goes on. -/
theorem State.retireStep_waiting {l : Nat} (hl : l ∈ s.fab.retireWait) (hex : s.linkExists l = true) (hup : s.rd (F.linkStatState l) = lkUp)
    (hat : s.boot.linkPhase = 1 → s.now < s.boot.linkAt) : s.retireStep = s := by
  have hleft : s.retireLeft ≠ [] := List.ne_nil_of_mem (List.mem_filter.mpr ⟨hl, by simp [hex, hup]⟩)
  rw [s.retireStep_eq]
  extract_lets u
  have hu : u = s := if_neg fun h => h.2.elim hleft fun hle => absurd (hat h.1) (not_lt.mpr hle)
  rw [hu]
  exact if_neg fun h => hleft h.2.2.1

/-- Outside a link reset, a retirement waits for windows and links, or is done. -/
theorem State.retireStep_of_phase (h : s.boot.linkPhase = 0) : s.retireStep =
    if s.host.retiring ∧ !s.host.retired ∧ s.retireLeft = [] ∧ !s.anyClosing then s.retireNow else s := by
  rw [s.retireStep_eq]
  extract_lets u
  have hu : u = s := if_neg fun h1 => by rw [h] at h1; exact absurd h1.1 (by decide)
  rw [hu]

end

/-- PARTITION_RESET of the link partition (R470, R545). -/
theorem linkReset_facts {s u : State} {e : Entry} (h : s.cmdTurn e .admin ⟨true, true, false, true⟩ [(1, [(0, 3)])] = some u) (hk : parm e 1 % 4 = 1) :
    (u.boot.reset ≠ none ∨ u.boot.linkPhase ≠ 0 → leads (exec (.linkReset e) s) fun z => posted u z e sBUSY 0) ∧
    (u.boot.reset = none → u.boot.linkPhase = 0 → (u.job ≠ none → leads (exec (.linkReset e) s) fun z => posted u z e sBUSY 0) ∧
      (u.job = none → (∃ l, l < u.variant.links ∧ u.linkExists l = true ∧ u.rd (F.linkStatState l) = lkUp) →
        leads (exec (.linkReset e) s) fun z => ⟨e, .linkReset⟩ ∈ z.host.waits ∧ z.rd F.bootPartLink = 2 ∧
          z.boot = { u.boot with linkPhase := 1, linkAt := u.now + 100000000 } ∧
          (∀ l, l ∈ z.fab.retireWait ↔ l < u.variant.links ∧ u.rd (F.linkStatState l) = lkUp) ∧ ∀ l, z.rd (F.linkStatState l) = u.rd (F.linkStatState l))) := by
  have hbf : bf (parm e 1) 0 2 = 1 := by rw [bf_zero]; exact hk
  have hexec : exec (.linkReset e) s = .next (s.partitionResetCmd e) := congrArg Host.Outcome.next (if_pos hbf)
  rw [hexec]
  refine ⟨fun hbusy => cmd_posts h ?_, fun hreset hphase => ⟨fun hjob => cmd_posts h ?_, fun hjob ⟨l, hl, hex, hup⟩ => ?_⟩⟩
  · dsimp only
    rw [if_neg (by rw [hbf]; omega), if_pos (hbusy.imp_left Option.isSome_iff_ne_none.mpr)]
  · dsimp only
    rw [if_neg (by rw [hbf]; omega), if_neg (by simp [hreset, hphase]), if_neg (by rw [hbf]; decide), if_pos (Option.isSome_iff_ne_none.mpr hjob)]
  · let begun := (u.await e .linkReset).modBoot fun b => { b with linkPhase := 1, linkAt := u.now + 100000000 }
    have hz : s.partitionResetCmd e = (begun.sendRetires.wr F.bootPartLink 2).retireStep := by
      refine (State.cmd_of_cmdTurn h _).trans ?_
      dsimp only
      rw [if_neg (by rw [hbf]; omega), if_neg (by simp [hreset, hphase]), if_neg (by rw [hbf]; decide), if_neg (by simp [hjob])]
    obtain ⟨hframe, hwait⟩ := begun.sendRetires_facts
    obtain ⟨hboot, hwaits, -, -, hvariant, hbridges, -⟩ := hframe.retireRest_facts
    have hrd : ∀ f : Fld, f.lo + f.w ≤ 64 → F.bootPartLink.apart f → (f.addr < 0x20000 ∨ 0x28000 ≤ f.addr ∨ f.lo + f.w ≤ 36) →
        (begun.sendRetires.wr F.bootPartLink 2).rd f = u.rd f := fun f hf ha hs =>
      (State.rd_wr_of_apart _ _ hf ha).trans (hframe.2 _ hf fun g => sendFld_apart hs)
    have hstate : ∀ k, (begun.sendRetires.wr F.bootPartLink 2).rd (F.linkStatState k) = u.rd (F.linkStatState k) := fun k =>
      hrd _ (by simp [F.linkStatState]) (.inl (by simp only [F.bootPartLink, F.linkStatState, R.bootPart, R.linkStat]; omega)) (by simp [F.linkStatState])
    have hnow : (begun.sendRetires.wr F.bootPartLink 2).now = u.now := hrd F.timeNowNs (by decide) (.inl (by decide)) (.inl (by decide))
    have hstep : (begun.sendRetires.wr F.bootPartLink 2).retireStep = begun.sendRetires.wr F.bootPartLink 2 := by
      refine State.retireStep_waiting _ (l := l) ?_ ?_ ((hstate l).trans hup) fun _ => ?_
      · show l ∈ begun.sendRetires.fab.retireWait
        rw [hwait]
        exact begun.mem_upLinks.mpr ⟨hl, hup⟩
      · rw [← hex]
        show (decide (l < begun.sendRetires.variant.links) && !begun.sendRetires.fab.bridges.contains (l / 8)) = _
        rw [hvariant, hbridges]
        rfl
      · rw [hnow]
        show u.now < begun.sendRetires.boot.linkAt
        rw [hboot]
        exact Nat.lt_add_of_pos_right (by decide)
    rw [hz, hstep]
    refine leads_next ⟨?_, State.rd_wr_same _ _ _ (by decide), hboot, fun k => ?_, hstate⟩
    · show _ ∈ begun.sendRetires.host.waits
      rw [hwaits]
      exact u.mem_waits_await e _
    · show k ∈ begun.sendRetires.fab.retireWait ↔ _
      rw [hwait, begun.mem_upLinks]
      exact Iff.rfl

/-! ## RETIRE -/

/-- The state without what module windows that close change. -/
def State.mwinRest (s : State) : State := { s with regs := [], fab := { s.fab with winClosed := [] } }

/-- State fields of the module windows. -/
def mwinFld (g : Fld) : Prop := ∃ k, k < 1024 ∧ g = F.winCtrlState k

section
variable (s : State)

theorem framed_closeMwin {k : Nat} (hk : k < 1024) : framed State.mwinRest mwinFld s (s.closeMwin k) :=
  framed_ite ((framed_wr s (by intros; rfl) _ _ ⟨k, hk, rfl⟩).trans (framed_of_regs rfl rfl rfl)) (.refl s)

theorem State.rd_closeMwin (k j : Nat) : (s.closeMwin k).rd (F.winCtrlState j) =
    if j = k ∧ s.rd (F.winCtrlState k) = 1 then 2 else s.rd (F.winCtrlState j) := by
  unfold State.closeMwin
  by_cases h1 : s.rd (F.winCtrlState k) = 1
  · rw [if_pos h1]
    by_cases hj : j = k
    · rw [if_pos ⟨hj, h1⟩, hj]
      exact State.rd_wr_same s _ _ (by simp [F.winCtrlState])
    · rw [if_neg fun h => hj h.1]
      exact State.rd_wr_of_apart s _ (by simp [F.winCtrlState]) (.inl (by simp only [F.winCtrlState, R.winCtrl]; omega))
  · rw [if_neg h1, if_neg fun h => h1 h.2]

/-- Every Open module window is Closing. -/
theorem State.rd_closeMwins (n j : Nat) : ((List.range n).foldl (fun s w => s.closeMwin w) s).rd (F.winCtrlState j) =
    if j < n ∧ s.rd (F.winCtrlState j) = 1 then 2 else s.rd (F.winCtrlState j) := by
  induction n with
  | zero => rw [if_neg fun h => Nat.not_lt_zero _ h.1]; rfl
  | succ n ih =>
    rw [List.range_succ, List.foldl_append, List.foldl_cons, List.foldl_nil, State.rd_closeMwin]
    by_cases hj : j = n
    · subst hj
      rw [if_neg fun h => lt_irrefl j h.1] at ih
      rw [ih]
      by_cases h1 : s.rd (F.winCtrlState j) = 1
      · rw [if_pos ⟨rfl, h1⟩, if_pos ⟨Nat.lt_succ_self j, h1⟩]
      · rw [if_neg fun h => h1 h.2, if_neg fun h => h1 h.2]
    · rw [if_neg fun h => hj h.1, ih]
      by_cases hlt : j < n
      · simp [hlt, Nat.lt_succ_of_lt hlt]
      · rw [if_neg fun h => hlt h.1, if_neg fun h => by omega]

theorem linkActs_disableLinks : linkActs (fun _ => True) s ((List.range s.variant.links).foldl (fun s l => s.disableLink l) s) :=
  framed_foldl_mem _ s fun u l hl => linkActs.widen (linkActs_disableLink u (by
    have := links_le s.variant
    rw [List.mem_range] at hl
    omega)) fun _ _ => trivial

theorem framed.linkRest_retiring {q : Fld → Prop} {s w : State} (h : framed State.linkRest q s w) : w.host.retiring = s.host.retiring :=
  h.get fun u => u.host.retiring

/-- What a retirement leaves once it is done. -/
theorem State.retireNow_facts : s.retireNow.host.retiring = s.host.retiring ∧ s.retireNow.host.retired = true ∧
    (∀ w ∈ s.retireNow.host.waits, ∀ ws, w.why ≠ .retire ws) ∧ (∀ h, h < 32 → s.stackPopulated h = true → h ∈ s.retireNow.selfRef) ∧
    ∀ j, j < 1024 → s.retireNow.rd (F.winCtrlState j) = s.rd (F.winCtrlState j) := by
  have hlinks := linkActs_disableLinks s
  unfold State.retireNow
  extract_lets u v
  have hu : ∀ f : Fld, f.lo + f.w ≤ 64 → 0x10000 ≤ f.addr → f.addr < 0x20000 → u.rd f = s.rd f := fun f hf h1 h2 => hlinks.2 f hf fun g hg => .inl (by
    have := linkFld_range hg
    omega)
  have hdone := completed_finish v retireWaits sOK 0
  have hhost : (v.finish retireWaits sOK 0).host.retiring = v.host.retiring ∧ (v.finish retireWaits sOK 0).host.retired = v.host.retired ∧
      (v.finish retireWaits sOK 0).selfRef = v.selfRef := by
    rw [hdone.1]
    exact ⟨rfl, rfl, rfl⟩
  refine ⟨hhost.1.trans hlinks.linkRest_retiring, hhost.2.1, fun w hw ws hwhy => ?_, fun h hh hpop => ?_, fun j hj => ?_⟩
  · have hp := ((v.mem_waits_finish _ _ _ w).mp hw).2
    rw [hwhy] at hp
    cases hp
  · rw [hhost.2.2]
    refine List.mem_filter.mpr ⟨List.mem_range.mpr hh, ?_⟩
    rw [← hpop, State.stackPopulated, State.stackPopulated, State.on, State.on,
      hu _ (by simp [F.hbmcCfgPopulated]) (by simp only [F.hbmcCfgPopulated, R.hbmcCfg]; omega) (by simp only [F.hbmcCfgPopulated, R.hbmcCfg]; omega)]
  · rw [hdone.rd (by simp only [F.winCtrlState, R.winCtrl]; omega)]
    exact hu _ (by simp [F.winCtrlState]) (by simp only [F.winCtrlState, R.winCtrl]; omega) (by simp only [F.winCtrlState, R.winCtrl]; omega)

end

theorem mwinFld_apart {f g : Fld} (hf : f.addr < 0x10000 ∨ 0x14000 ≤ f.addr) (hg : mwinFld g) : g.apart f := by
  obtain ⟨k, hk, rfl⟩ := hg
  refine .inl ?_
  simp only [F.winCtrlState, R.winCtrl]
  omega

theorem framed.mwinRest_facts {q : Fld → Prop} {s w : State} (h : framed State.mwinRest q s w) : w.boot = s.boot ∧ w.host = s.host ∧ w.variant = s.variant ∧
    w.fab.bridges = s.fab.bridges ∧ w.selfRef = s.selfRef :=
  ⟨h.get State.boot, h.get State.host, h.get State.variant, h.get fun u => u.fab.bridges, h.get State.selfRef⟩

/-- A RETIRE that has begun: the command waits, windows close, and RETIRE has left on every link that is Up. -/
def State.retireBegun (u : State) (e : Entry) (ws : List Nat) : State :=
  ((List.range 1024).foldl (fun s w => s.closeMwin w) ((u.await e (.retire ws)).modHost fun h => { h with retiring := true, retired := false })).sendRetires

theorem State.retireBegun_facts (u : State) (e : Entry) (ws : List Nat) {z : State} (hz : z = u.retireBegun e ws) :
    (z.boot = u.boot ∧ z.selfRef = u.selfRef ∧ z.variant = u.variant ∧ ∀ l, z.linkExists l = u.linkExists l) ∧
    (z.host.retiring = true ∧ z.host.retired = false ∧ ⟨e, .retire ws⟩ ∈ z.host.waits) ∧ z.fab.retireWait = u.upLinks ∧
    (∀ f : Fld, f.lo + f.w ≤ 64 → f.addr < 0x10000 ∨ 0x14000 ≤ f.addr ∧ f.addr < 0x20000 ∨ 0x20000 ≤ f.addr ∧ f.lo + f.w ≤ 36 → z.rd f = u.rd f) ∧
    ∀ j, j < 1024 → z.rd (F.winCtrlState j) = if u.rd (F.winCtrlState j) = 1 then 2 else u.rd (F.winCtrlState j) := by
  let v := (u.await e (.retire ws)).modHost fun h => { h with retiring := true, retired := false }
  have hclose : framed State.mwinRest mwinFld v ((List.range 1024).foldl (fun s w => s.closeMwin w) v) :=
    framed_foldl_mem _ v fun x k hk => framed_closeMwin x (List.mem_range.mp hk)
  obtain ⟨hboot, hhost, hvariant, hbridges, hself⟩ := hclose.mwinRest_facts
  obtain ⟨hsend, hup⟩ := ((List.range 1024).foldl (fun s w => s.closeMwin w) v).sendRetires_facts
  obtain ⟨hboot', hwaits', hretiring', hretired', hvariant', hbridges', hself'⟩ := hsend.retireRest_facts
  have hrd : ∀ f : Fld, f.lo + f.w ≤ 64 → f.addr < 0x10000 ∨ 0x14000 ≤ f.addr ∧ f.addr < 0x20000 ∨ 0x20000 ≤ f.addr ∧ f.lo + f.w ≤ 36 →
      ((List.range 1024).foldl (fun s w => s.closeMwin w) v).rd f = u.rd f := fun f hf ha => hclose.2 f hf fun g => mwinFld_apart (by omega)
  have hz' : z = ((List.range 1024).foldl (fun s w => s.closeMwin w) v).sendRetires := hz
  rw [hz']
  refine ⟨⟨hboot'.trans hboot, hself'.trans hself, hvariant'.trans hvariant, fun l => ?_⟩, ⟨?_, ?_, ?_⟩, hup.trans ?_, fun f hf ha => ?_, fun j hj => ?_⟩
  · rw [State.linkExists, State.linkExists, hvariant', hbridges', hvariant, hbridges]
    exact (rfl : v.linkExists l = u.linkExists l)
  · rw [hretiring', hhost]
    exact (rfl : v.host.retiring = true)
  · rw [hretired', hhost]
    exact (rfl : v.host.retired = false)
  · rw [hwaits', hhost]
    exact u.mem_waits_await e _
  · rw [State.upLinks, State.upLinks, hvariant]
    refine List.filter_congr fun l _ => ?_
    rw [hrd _ (by simp [F.linkStatState]) (by simp only [F.linkStatState, R.linkStat]; omega)]
  · exact (hsend.2 f hf fun g => sendFld_apart (by omega)).trans (hrd f hf ha)
  · rw [hsend.2 _ (by simp [F.winCtrlState]) fun g => sendFld_apart (by simp only [F.winCtrlState, R.winCtrl]; omega), v.rd_closeMwins]
    have hj' : v.rd (F.winCtrlState j) = u.rd (F.winCtrlState j) := rfl
    rw [hj']
    simp only [hj, true_and]

/-- RETIRE (R484). -/
theorem retire_facts {s u : State} {e : Entry} (h : s.cmdTurn e .admin .plain [] = some u) :
    (u.job ≠ none ∨ u.boot.linkPhase ≠ 0 → leads (exec (.retire e) s) fun z => posted u z e sBUSY 0) ∧
    (u.job = none → u.boot.linkPhase = 0 → leads (exec (.retire e) s) fun z => z.host.retiring = true ∧
      (∀ w, w < 1024 → z.rd (F.winCtrlState w) = if u.rd (F.winCtrlState w) = 1 then 2 else u.rd (F.winCtrlState w)) ∧
      ((∃ l, l < u.variant.links ∧ u.linkExists l = true ∧ u.rd (F.linkStatState l) = lkUp) →
        ⟨e, .retire ((List.range 1024).filter fun w => decide (u.rd (F.winCtrlState w) = 1))⟩ ∈ z.host.waits ∧ z.host.retired = false ∧
        ∀ l, l ∈ z.fab.retireWait ↔ l < u.variant.links ∧ u.rd (F.linkStatState l) = lkUp) ∧
      ((∃ w, w < 1024 ∧ (u.rd (F.winCtrlState w) = 1 ∨ u.rd (F.winCtrlState w) = 2)) → z.host.retired = false ∧ z.selfRef = u.selfRef ∧
        ⟨e, .retire ((List.range 1024).filter fun w => decide (u.rd (F.winCtrlState w) = 1))⟩ ∈ z.host.waits) ∧
      ((∀ l, l < u.variant.links → u.rd (F.linkStatState l) ≠ lkUp) → (∀ w, w < 1024 → u.rd (F.winCtrlState w) ≠ 1 ∧ u.rd (F.winCtrlState w) ≠ 2) →
        z.host.retired = true ∧ (∀ w ∈ z.host.waits, ∀ ws, w.why ≠ .retire ws) ∧
        ∀ h, h < 32 → u.stackPopulated h = true → h ∈ z.selfRef)) := by
  refine ⟨fun hbusy => cmd_posts h ?_, fun hjob hphase => ?_⟩
  · dsimp only
    rw [if_pos (hbusy.imp_left Option.isSome_iff_ne_none.mpr)]
  · have hexec : exec (.retire e) s = .next (u.retireBegun e ((List.range 1024).filter fun w => decide (u.rd (F.winCtrlState w) = 1))).retireStep := by
      refine congrArg Host.Outcome.next ((State.cmd_of_cmdTurn h _).trans ?_)
      dsimp only
      rw [if_neg (by simp [hjob, hphase])]
      rfl
    obtain ⟨w, hw⟩ : ∃ w, w = u.retireBegun e ((List.range 1024).filter fun w => decide (u.rd (F.winCtrlState w) = 1)) := ⟨_, rfl⟩
    obtain ⟨⟨hboot, hself, -, hexists⟩, ⟨hretiring, hretired, hwait⟩, hup, hrd, hwin⟩ := u.retireBegun_facts e _ hw
    obtain ⟨hretiring', hretired', hwaits', hself', hwin'⟩ := w.retireNow_facts
    have hstate : ∀ l, w.rd (F.linkStatState l) = u.rd (F.linkStatState l) := fun l =>
      hrd _ (by simp [F.linkStatState]) (by simp only [F.linkStatState, R.linkStat]; omega)
    have hphase' : w.boot.linkPhase = 0 := by rw [hboot]; exact hphase
    have hstep := w.retireStep_of_phase hphase'
    have hclosing : w.anyClosing = true ↔ ∃ j, j < 1024 ∧ (u.rd (F.winCtrlState j) = 1 ∨ u.rd (F.winCtrlState j) = 2) := by
      simp only [State.anyClosing, List.any_eq_true, List.mem_range, decide_eq_true_eq]
      refine exists_congr fun j => and_congr_right fun hj => ?_
      rw [hwin j hj]
      split <;> simp [*]
    rw [hexec, ← hw]
    refine leads_next ⟨?_, fun j hj => ?_, fun ⟨l, hl, hex, hlup⟩ => ?_, fun hwins => ?_, fun hlinks hwins => ?_⟩
    · rw [hstep]
      split
      · exact hretiring'.trans hretiring
      · exact hretiring
    · rw [hstep]
      split
      · exact (hwin' j hj).trans (hwin j hj)
      · exact hwin j hj
    · rw [w.retireStep_waiting (l := l) (by rw [hup]; exact u.mem_upLinks.mpr ⟨hl, hlup⟩) ((hexists l).trans hex) ((hstate l).trans hlup) fun h1 => by
        rw [hphase'] at h1; cases h1]
      exact ⟨hwait, hretired, fun k => by rw [hup]; exact u.mem_upLinks⟩
    · rw [hstep, if_neg fun hc => by simp [hclosing.mpr hwins] at hc]
      exact ⟨hretired, hself, hwait⟩
    · have hnone : u.upLinks = [] := List.eq_nil_iff_forall_not_mem.mpr fun l hl => hlinks l (u.mem_upLinks.mp hl).1 (u.mem_upLinks.mp hl).2
      have hopen : w.anyClosing = false := by
        rw [Bool.eq_false_iff]
        intro hc
        obtain ⟨j, hj, h12⟩ := hclosing.mp hc
        exact h12.elim (hwins j hj).1 (hwins j hj).2
      rw [hstep, if_pos ⟨hretiring, by simp [hretired], by rw [State.retireLeft, hup, hnone]; rfl, by simp [hopen]⟩]
      refine ⟨hretired', hwaits', fun k hk hpop => hself' k hk ?_⟩
      rw [← hpop, State.stackPopulated, State.stackPopulated, State.on, State.on,
        hrd _ (by simp [F.hbmcCfgPopulated]) (by simp only [F.hbmcCfgPopulated, R.hbmcCfg]; omega)]

end Sys2Proof.Machine
end

section
/-! RETRAIN of a link or a channel (R337, R547). -/

namespace Sys2Proof.Machine

section
variable (s : State)

theorem State.links_notice (kind status result : Nat) : (s.notice kind status result).links = s.links := by
  have hposts : ∀ {w : State}, hostPosts s w → w.links = s.links := fun h => by rw [h]
  unfold State.notice
  split
  · rfl
  split
  · rfl
  split
  · exact hposts (hostPosts_postNow s _ _)
  · rfl

/-- A link that is Up retrains. -/
theorem State.startRetrain_facts {l : Nat} (hl : l < 64) (hup : s.rd (F.linkStatState l) = lkUp) (widen : Bool) {z : State} (hz : z = s.startRetrain l widen) :
    z.host.waits = s.host.waits ∧ (z.link l).widen = widen ∧ z.rd (F.linkStatState l) = lkRetrain := by
  let v := (s.wr (F.linkStatState l) lkRetrain).modLink l fun x => { x with widen := widen, since := s.now, naks := 0 }
  let w := (v.bump Ev.linkRetrain (.link l) 1).satAdd (F.linkErrcntRetrains l) 1
  have hnotice : z = w.notice 10 sOK (l + lkRetrain * 2 ^ 6) := by
    rw [hz, State.startRetrain, if_neg (by simp [hup])]
  have hlink : (w.link l).widen = widen := by
    show ((tget (fun _ => LinkSt.reset) (tset (fun _ => LinkSt.reset) _ l _) l) : LinkSt).widen = _
    rw [tget_tset_same]
  have hstate : w.rd (F.linkStatState l) = lkRetrain := by
    have hcount : w.rd (F.linkStatState l) = v.rd (F.linkStatState l) := State.rd_wr_of_apart (v.bump Ev.linkRetrain (.link l) 1) _
      (by simp [F.linkStatState]) (.inl (by simp only [F.linkErrcntRetrains, F.linkStatState, R.linkErrcnt, R.linkStat]; omega))
    rw [hcount]
    exact State.rd_wr_same s _ _ (by simp [F.linkStatState])
  have hpost := framed_notice w 10 sOK (l + lkRetrain * 2 ^ 6)
  rw [hnotice]
  refine ⟨?_, ?_, ?_⟩
  · exact (State.of_resetView hpost.resetView_post).2.1
  · rw [State.link, State.links_notice]
    exact hlink
  · refine (hpost.2 _ (by simp [F.linkStatState]) fun g hg => .inl ?_).trans hstate
    have := postFld_below hg
    simp only [F.linkStatState, R.linkStat]
    omega

/-- Channels start to retrain that are not retired. -/
theorem State.rd_startLanes (chs : List Nat) {n : Nat} (hn : s.chanRetired n = false) :
    (chs.foldl (fun s ch => if s.chanRetired ch then s else s.wr (F.hbmcChStatState (ch / 16) (ch % 16)) 2) s).rd (F.hbmcChStatState (n / 16) (n % 16)) =
      if n ∈ chs then 2 else s.rd (F.hbmcChStatState (n / 16) (n % 16)) := by
  induction chs generalizing s with
  | nil => rfl
  | cons ch chs ih =>
    rw [List.foldl_cons]
    by_cases hr : s.chanRetired ch = true
    · have hne : n ≠ ch := fun h => by rw [← h, hn] at hr; cases hr
      rw [if_pos hr, ih s hn]
      simp [hne]
    · rw [if_neg hr]
      have hrd : (s.wr (F.hbmcChStatState (ch / 16) (ch % 16)) 2).rd (F.hbmcChStatState (n / 16) (n % 16)) =
          if n = ch then 2 else s.rd (F.hbmcChStatState (n / 16) (n % 16)) := by
        by_cases hne : n = ch
        · rw [if_pos hne, hne]
          exact State.rd_wr_same s _ _ (by simp [F.hbmcChStatState])
        · rw [if_neg hne]
          exact State.rd_wr_of_apart s _ (by simp [F.hbmcChStatState]) (.inl (by simp only [F.hbmcChStatState, R.hbmcChStat]; omega))
      have hlive : (s.wr (F.hbmcChStatState (ch / 16) (ch % 16)) 2).chanRetired n = false := by
        rw [State.chanRetired, hrd]
        split
        · decide
        · exact hn
      rw [ih _ hlive, hrd]
      by_cases hne : n = ch <;> by_cases hmem : n ∈ chs <;> simp [hne, hmem]

end

/-- RETRAIN of a link. -/
theorem retrainLink_facts {s u : State} {e : Entry} (h : s.cmdTurn e .admin ⟨false, true, false, true⟩ [(1, [(0, 10)])] = some u)
    (hk : parm e 1 % 2 = 0) :
    let n := parm e 1 / 2 % 512
    (u.linkExists n = false → leads (exec (.retrainLink e) s) fun z => posted u z e sINVALID_FIELD 0) ∧
      (n < 64 → u.linkExists n = true →
        (u.rd F.bootPartLink = 2 → leads (exec (.retrainLink e) s) fun z => posted u z e sPARTITION_DOWN 0) ∧
        (u.rd F.bootPartLink ≠ 2 →
          (u.rd (F.linkStatState n) ≤ lkDown → leads (exec (.retrainLink e) s) fun z => posted u z e sOK 0) ∧
          (lkDown < u.rd (F.linkStatState n) → leads (exec (.retrainLink e) s) fun z => ⟨e, .retrainLink n⟩ ∈ z.host.waits ∧ (z.link n).widen = true ∧
            z.rd (F.linkStatState n) = if u.rd (F.linkStatState n) = lkUp then lkRetrain else u.rd (F.linkStatState n)))) := by
  intro n
  have hbf : bf (parm e 1) 0 1 = 0 := by rw [bf_zero]; exact hk
  have hn : bf (parm e 1) 1 9 = n := rfl
  have hexec : exec (.retrainLink e) s = .next (s.retrainCmd e) := congrArg Host.Outcome.next (if_pos hbf)
  rw [hexec]
  refine ⟨fun hex => cmd_posts h ?_, fun hlt hex => ⟨fun hpart => cmd_posts h ?_, fun hpart => ⟨fun hdown => cmd_posts h ?_, fun hstate => ?_⟩⟩⟩
  · dsimp only
    rw [if_pos hbf, hn, if_pos (.inr (by simp [hex]))]
  · dsimp only
    rw [if_pos hbf, hn, if_neg (by simp [hex, hlt]), if_pos hpart]
  · dsimp only
    rw [if_pos hbf, hn, if_neg (by simp [hex, hlt]), if_neg hpart, if_pos hdown]
  · have hcmd : s.retrainCmd e = if u.rd (F.linkStatState n) = lkUp then (u.await e (.retrainLink n)).startRetrain n true
        else (u.await e (.retrainLink n)).modLink n fun x => { x with widen := true } := by
      refine (State.cmd_of_cmdTurn h _).trans ?_
      dsimp only
      rw [if_pos hbf, hn, if_neg (by simp [hex, hlt]), if_neg hpart, if_neg (not_le.mpr hstate)]
    rw [hcmd]
    by_cases hup : u.rd (F.linkStatState n) = lkUp
    · rw [if_pos hup, if_pos hup]
      obtain ⟨hwaits, hwiden, hretrain⟩ := (u.await e (.retrainLink n)).startRetrain_facts hlt hup true rfl
      exact leads_next ⟨by rw [hwaits]; exact u.mem_waits_await e _, hwiden, hretrain⟩
    · rw [if_neg hup, if_neg hup]
      refine leads_next ⟨u.mem_waits_await e _, ?_, rfl⟩
      show ((tget (fun _ => LinkSt.reset) (tset (fun _ => LinkSt.reset) _ n _) n) : LinkSt).widen = _
      rw [tget_tset_same]

/-- RETRAIN of a channel. -/
theorem retrainChannel_facts {s u : State} {e : Entry} (h : s.cmdTurn e .admin ⟨false, true, false, true⟩ [(1, [(0, 10)])] = some u)
    (hk : parm e 1 % 2 = 1) :
    let n := parm e 1 / 2 % 512
    (u.slicePopulated n = false → leads (exec (.retrainChannel e) s) fun z => posted u z e sINVALID_FIELD 0) ∧
      (u.slicePopulated n = true →
        (u.boot.reset ≠ none → leads (exec (.retrainChannel e) s) fun z => posted u z e sPARTITION_DOWN 0) ∧
        (u.boot.reset = none →
          (u.chanRetired n = true → leads (exec (.retrainChannel e) s) fun z => posted u z e sCHANNEL_LOST 0) ∧
          (u.chanRetired n = false → leads (exec (.retrainChannel e) s) fun z => ⟨e, .retrainChan n⟩ ∈ z.host.waits ∧
            (u.pass = none → z.rd (F.hbmcChStatState (n / 16) (n % 16)) = 2 ∧ z.bound.lanes = []) ∧
            (u.pass ≠ none → n ∈ z.bound.lanes ∧ z.regs = u.regs)))) := by
  intro n
  have hbf : bf (parm e 1) 0 1 = 1 := by rw [bf_zero]; exact hk
  have hn : bf (parm e 1) 1 9 = n := rfl
  have hexec : exec (.retrainChannel e) s = .next (s.retrainCmd e) := congrArg Host.Outcome.next (if_pos hbf)
  rw [hexec]
  refine ⟨fun hpop => cmd_posts h ?_, fun hpop => ⟨fun hreset => cmd_posts h ?_, fun hreset => ⟨fun hlost => cmd_posts h ?_, fun hlive => ?_⟩⟩⟩
  · dsimp only
    rw [if_neg (by rw [hbf]; decide), hn, if_pos (by simp [hpop])]
  · dsimp only
    rw [if_neg (by rw [hbf]; decide), hn, if_neg (by simp [hpop]), if_pos (Option.isSome_iff_ne_none.mpr hreset)]
  · dsimp only
    rw [if_neg (by rw [hbf]; decide), hn, if_neg (by simp [hpop]), if_neg (by simp [hreset]), if_pos hlost]
  · let lanes := if u.bound.lanes.contains n then u.bound.lanes else u.bound.lanes ++ [n]
    let v : State := { u.await e (.retrainChan n) with bound := { u.bound with lanes := lanes } }
    have hcmd : s.retrainCmd e = if u.pass.isNone then v.startLanes else v := by
      refine (State.cmd_of_cmdTurn h _).trans ?_
      dsimp only
      rw [if_neg (by rw [hbf]; decide), hn, if_neg (by simp [hpop]), if_neg (by simp [hreset]), if_neg (by simp [hlive])]
      rfl
    have hmem : n ∈ lanes := by
      unfold lanes
      split
      · exact List.contains_iff_mem.mp ‹_›
      · simp
    rw [hcmd]
    by_cases hpass : u.pass = none
    · rw [if_pos (by simp [hpass])]
      refine leads_next ⟨?_, fun _ => ⟨?_, rfl⟩, fun hne => absurd hpass hne⟩
      · have hhost : v.startLanes.host = v.host := foldl_keep _ (fun x : State => x.host = v.host) _ v rfl fun x ch hx => by
          split
          · exact hx
          · exact hx
        rw [hhost]
        exact u.mem_waits_await e _
      · exact (v.rd_startLanes lanes hlive).trans (if_pos hmem)
    · rw [if_neg (by simpa using hpass)]
      exact leads_next ⟨u.mem_waits_await e _, fun hnone => absurd hnone hpass, fun _ => ⟨hmem, rfl⟩⟩

end Sys2Proof.Machine
end

section
open Sys2Proof Sys2Proof.Machine

/-- Settles O49: each command by its own lemma above. -/
theorem resetCommands : Obligations.ResetCommands := by
  unfold Obligations.ResetCommands
  refine ⟨fun s u e h => fabricReset_facts h, fun s u e h => ?_, fun s u e h => retire_facts h, fun s u e h => ⟨?_, ?_⟩⟩
  · refine ⟨fun hbusy => ⟨fun hk => (computeResetLocal_facts h hk).1 hbusy, fun hk => (linkReset_facts h hk).1 hbusy⟩, fun hreset hphase => ⟨?_, ?_, ?_⟩⟩
    · exact fun hk => (computeResetLocal_facts h hk).2 hreset hphase
    · exact fun hk => ((linkReset_facts h hk).2 hreset hphase).1
    · exact fun hk => ((linkReset_facts h hk).2 hreset hphase).2
  · exact fun hk => retrainLink_facts h hk
  · exact fun hk => retrainChannel_facts h hk

end

section
/-! CHANNEL_RETRAIN_DONE (R337, R338, R345). -/

namespace Sys2Proof.Machine

/-! ## Lanes of one pseudo-channel -/

theorem length_eraseDups_le (l : List Nat) : l.eraseDups.length ≤ l.length := by
  induction h : l.length using Nat.strong_induction_on generalizing l with
  | _ n ih =>
    cases l with
    | nil => simp
    | cons a l =>
      have hle := List.length_filter_le (fun b => !b == a) l
      rw [List.length_cons] at h
      rw [List.eraseDups_cons, List.length_cons]
      have := ih _ (by omega) (l.filter fun b => !b == a) rfl
      omega

theorem eraseDups_of_nodup {l : List Nat} (h : l.Nodup) : l.eraseDups = l := by
  induction l with
  | nil => rfl
  | cons a l ih =>
    obtain ⟨ha, hl⟩ := List.nodup_cons.mp h
    rw [List.eraseDups_cons, List.filter_eq_self.mpr fun b hb => by simpa using fun h : b = a => ha (h ▸ hb), ih hl]

theorem length_eraseDups_lt_iff {l : List Nat} : l.eraseDups.length < l.length ↔ ¬ l.Nodup := by
  refine ⟨fun h hn => by rw [eraseDups_of_nodup hn] at h; exact lt_irrefl _ h, fun h => ?_⟩
  induction l with
  | nil => exact absurd List.nodup_nil h
  | cons a l ih =>
    rw [List.eraseDups_cons, List.length_cons, List.length_cons]
    by_cases ha : a ∈ l
    · have hlt : (l.filter fun b => !b == a).length < l.length := List.length_filter_lt_length_iff_exists.mpr ⟨a, ha, by simp⟩
      have := length_eraseDups_le (l.filter fun b => !b == a)
      omega
    · rw [List.filter_eq_self.mpr fun b hb => by simpa using fun h : b = a => ha (h ▸ hb)]
      have := ih fun hl => h (List.nodup_cons.mpr ⟨ha, hl⟩)
      omega

/-- Two lanes left unrepaired are of one pseudo-channel exactly when the pseudo-channels of the lanes are not all different. -/
theorem twoLanes_iff (l : List Nat) : (l.map (· / 32)).eraseDups.length < (l.map (· / 32)).length ↔
    ∃ i j : Nat, i < j ∧ j < l.length ∧ l.getD i 0 / 32 = l.getD j 0 / 32 := by
  rw [length_eraseDups_lt_iff, List.nodup_iff_pairwise_ne, List.pairwise_iff_getElem]
  constructor
  · intro h
    push Not at h
    obtain ⟨i, j, hi, hj, hij, heq⟩ := h
    rw [List.length_map] at hi hj
    exact ⟨i, j, hij, hj, by simpa [hi, hj] using heq⟩
  · rintro ⟨i, j, hij, hj, heq⟩ h
    have hi := lt_trans hij hj
    exact h i j (by simpa using hi) (by simpa using hj) hij (by simpa [hi, hj] using heq)

/-! ## What is kept of a channel -/

/-- Lanes, commands that wait and the registers from 0x3000 on are as before. -/
def chanKept (s w : State) : Prop :=
  w.laneHits = s.laneHits ∧ w.host.waits = s.host.waits ∧ ∀ f : Fld, f.lo + f.w ≤ 64 → 0x3000 ≤ f.addr → w.rd f = s.rd f

theorem chanKept.trans {s v w : State} (h : chanKept s v) (h' : chanKept v w) : chanKept s w :=
  ⟨h'.1.trans h.1, h'.2.1.trans h.2.1, fun f hf ha => (h'.2.2 f hf ha).trans (h.2.2 f hf ha)⟩

/-- The state without what degraded capacities change too. -/
def State.capRest (s : State) : State := { s.rest with caps := [] }

/-- Fields that degraded capacities write. -/
def capFld (g : Fld) : Prop := postFld g ∨ g.addr = R.keepLeashShort ∨ ∃ k, k < 128 ∧ g = F.keepLeashScaled k

theorem capFld_below {g : Fld} (hg : capFld g) : g.addr < 0x3000 := by
  rcases hg with hg | hg | ⟨k, hk, rfl⟩
  · exact postFld_below hg
  · rw [hg]; decide
  · simp only [F.keepLeashScaled, R.keepLeash]; omega

theorem framed.chanKept {s w : State} (h : framed State.capRest capFld s w) : chanKept s w :=
  ⟨h.get State.laneHits, h.get fun u => u.host.waits, fun f hf ha => h.2 f hf fun g hg => .inl (by have := capFld_below hg; omega)⟩

theorem framed.capRest {s w : State} (h : framed State.rest postFld s w) : framed State.capRest capFld s w :=
  h.mono State.capRest (fun _ => rfl) fun _ => .inl

section
variable (s : State)

theorem framed_shortfall (cls dir inst count cap : Nat) : framed State.capRest capFld s (s.shortfall cls dir inst count cap) := by
  unfold State.shortfall
  extract_lets cuts mask noted
  have hnoted : framed State.capRest capFld s noted := .trans ((framed_bump s _ _ _).mono State.capRest (fun _ => rfl) fun _ => id)
    (framed_record _ (by intros; rfl) (.inr (.inl rfl)) (.inr (.inl rfl)) fun p hp => .inr (.inl (by
      simp only [List.mem_cons, List.not_mem_nil, or_false] at hp
      obtain rfl | rfl | rfl | rfl | rfl | rfl := hp <;> rfl)))
  exact framed_ite (.refl s) (hnoted.trans (framed_notice noted _ _ _).capRest)

theorem framed_setCaps {cls : Nat} (hcls : cls < 8) (insts : List (Nat × Nat)) (cap : Nat) : framed State.capRest capFld s (s.setCaps cls insts cap) := by
  unfold State.setCaps
  extract_lets v hit
  cases hit with
  | nil => exact .refl s
  | cons i is =>
    refine .trans (.trans ?_ (framed_foldl_mem _ _ fun u k hk => framed_wr u (by intros; rfl) _ _ (.inr (.inr ⟨8 * (k + 2) + cls, ?_, rfl⟩)))) (framed_shortfall _ _ _ _ _ _)
    · exact framed_of_regs rfl rfl rfl
    · rw [List.mem_range] at hk
      omega

theorem chanKept_setCaps (insts : List (Nat × Nat)) (cap : Nat) : chanKept s (s.setCaps lHBM insts cap) := (framed_setCaps s (by decide) insts cap).chanKept

theorem chanKept_faultLog (source cls unitKind unit action cause detail : Nat) :
    chanKept s (s.faultLog source cls unitKind unit action cause detail) := (framed_faultLog s _ _ _ _ _ _ _).capRest.chanKept

/-- Commands that waited for something end. -/
theorem State.finish_facts (p : Wait → Bool) (status result : Nat) : (s.finish p status result).laneHits = s.laneHits ∧
    (∀ w, w ∈ (s.finish p status result).host.waits ↔ w ∈ s.host.waits ∧ p w.why = false) ∧
    ∀ f : Fld, 0x2400 ≤ f.addr → (s.finish p status result).rd f = s.rd f := by
  have h := completed_finish s p status result
  refine ⟨?_, s.mem_waits_finish p status result, fun f hf => h.rd hf⟩
  rw [h.1]
  rfl

/-- A channel that goes out of service. -/
theorem State.chanOut_facts {ch cause : Nat} (hcause : cause < 8) :
    (s.chanOut ch cause).rd (F.hbmcChStatState (ch / 16) (ch % 16)) = 3 ∧ (s.chanOut ch cause).rd (F.hbmcChStatRetireCause (ch / 16) (ch % 16)) = cause ∧
    ∀ w ∈ (s.chanOut ch cause).host.waits, w ∈ s.host.waits ∧ w.why ≠ .retrainChan ch := by
  let ws := [(F.hbmcChStatState (ch / 16) (ch % 16), 3), (F.hbmcChStatRetireCause (ch / 16) (ch % 16), cause), (F.hbmcChStatLanePending (ch / 16) (ch % 16), 0)]
  obtain ⟨-, hwaits, hrd⟩ := ((s.wrs ws).bump Ev.channelRetire (.slice ch) 1).finish_facts (fun w => decide (w = .retrainChan ch)) sCHANNEL_LOST 0
  have hin := fun p => State.rd_wrs_of_mem ws s (by simp [ws, F.hbmcChStatState, F.hbmcChStatRetireCause, F.hbmcChStatLanePending])
    (by simp [ws, Fld.apart, F.hbmcChStatState, F.hbmcChStatRetireCause, F.hbmcChStatLanePending]) (p := p)
  have hpage : 0x2400 ≤ R.hbmcChStat (ch / 16) (ch % 16) := by simp only [R.hbmcChStat]; omega
  refine ⟨(hrd _ hpage).trans (hin (F.hbmcChStatState (ch / 16) (ch % 16), 3) (by simp [ws])),
    (hrd _ hpage).trans ((hin (F.hbmcChStatRetireCause (ch / 16) (ch % 16), cause) (by simp [ws])).trans (Nat.mod_eq_of_lt hcause)), fun w hw => ?_⟩
  obtain ⟨hmem, hwhy⟩ := (hwaits w).mp hw
  refine ⟨?_, of_decide_eq_false hwhy⟩
  have hhost : (s.wrs ws).host = s.host := (s.wrs_only ws).1 ▸ rfl
  rw [← hhost]
  exact hmem

/-- A channel that retires (R345). -/
theorem State.retireChan_facts {ch cause : Nat} (hlive : s.chanRetired ch = false) (hcause : cause < 8) :
    (s.retireChan ch cause).rd (F.hbmcChStatState (ch / 16) (ch % 16)) = 3 ∧ (s.retireChan ch cause).rd (F.hbmcChStatRetireCause (ch / 16) (ch % 16)) = cause ∧
    ∀ w ∈ (s.retireChan ch cause).host.waits, w ∈ s.host.waits ∧ w.why ≠ .retrainChan ch := by
  obtain ⟨hstate, hret, hwaits⟩ := s.chanOut_facts (ch := ch) hcause
  have hkept : chanKept (s.chanOut ch cause) (s.retireChan ch cause) := by
    unfold State.retireChan
    rw [if_neg (by simp [hlive])]
    split
    exact (chanKept_faultLog _ _ _ _ _ _ _ _).trans (chanKept_setCaps _ _ _)
  obtain ⟨-, hhost, hrd⟩ := hkept
  have hpage : 0x3000 ≤ R.hbmcChStat (ch / 16) (ch % 16) := by simp only [R.hbmcChStat]; omega
  refine ⟨(hrd _ (by simp [F.hbmcChStatState]) hpage).trans hstate, (hrd _ (by simp [F.hbmcChStatRetireCause]) hpage).trans hret, fun w hw => hwaits w ?_⟩
  rwa [hhost] at hw

/-! ## A channel that comes up -/

/-- What a channel shows once it is up. -/
theorem State.chanUp_facts (r : ChanTrain) :
    let h := r.chan / 16
    let c := r.chan % 16
    let z := s.chanUp r
    (z.laneHits = s.laneHits ∧ z.host = s.host) ∧ z.rd (F.hbmcChStatState h c) = 1 ∧
    z.rd (F.hbmcChStatLanesRepPc0 h c) = r.rep0 % 2 ^ (F.hbmcChStatLanesRepPc0 h c).w ∧
    z.rd (F.hbmcChStatLanesRepPc1 h c) = r.rep1 % 2 ^ (F.hbmcChStatLanesRepPc1 h c).w ∧
    z.on (F.hbmcChStatLaneUnrep h c) = decide (r.unrep ≠ []) ∧ z.rd (F.hbmcChStatLanePending h c) = 0 := by
  intro h c z
  let ws := [(F.hbmcChStatState h c, 1), (F.hbmcChStatLanesRepPc0 h c, r.rep0), (F.hbmcChStatLanesRepPc1 h c, r.rep1),
    (F.hbmcChStatLaneUnrep h c, b2n (decide (r.unrep ≠ []))), (F.hbmcChStatLanePending h c, 0)]
  have hz : (z.laneHits = (s.wrs ws).laneHits ∧ z.host = (s.wrs ws).host) ∧ ∀ f, z.rd f = (s.wrs ws).rd f := by
    have hbump : ∀ (p : Prop) [Decidable p] (u : State) (k : Nat),
        ((if p then u else u.bump Ev.laneRepair (.slice r.chan) k).laneHits = u.laneHits ∧ (if p then u else u.bump Ev.laneRepair (.slice r.chan) k).host = u.host) ∧
          ∀ f, (if p then u else u.bump Ev.laneRepair (.slice r.chan) k).rd f = u.rd f := fun p _ u k => by
      split
      · exact ⟨⟨rfl, rfl⟩, fun _ => rfl⟩
      · exact ⟨⟨rfl, rfl⟩, fun _ => rfl⟩
    exact hbump _ (s.wrs ws) _
  have hin := fun p => State.rd_wrs_of_mem ws s
    (by simp [ws, F.hbmcChStatState, F.hbmcChStatLanesRepPc0, F.hbmcChStatLanesRepPc1, F.hbmcChStatLaneUnrep, F.hbmcChStatLanePending])
    (by simp [ws, Fld.apart, F.hbmcChStatState, F.hbmcChStatLanesRepPc0, F.hbmcChStatLanesRepPc1, F.hbmcChStatLaneUnrep, F.hbmcChStatLanePending]) (p := p)
  obtain ⟨⟨hhits, hhost⟩, hrd⟩ := hz
  have honly : (s.wrs ws).laneHits = s.laneHits ∧ (s.wrs ws).host = s.host := by
    rw [(s.wrs_only ws).1]
    exact ⟨rfl, rfl⟩
  refine ⟨⟨hhits.trans honly.1, hhost.trans honly.2⟩, (hrd _).trans (hin (F.hbmcChStatState h c, 1) (by simp [ws])),
    (hrd _).trans (hin (F.hbmcChStatLanesRepPc0 h c, r.rep0) (by simp [ws])), (hrd _).trans (hin (F.hbmcChStatLanesRepPc1 h c, r.rep1) (by simp [ws])), ?_,
    (hrd _).trans (hin (F.hbmcChStatLanePending h c, 0) (by simp [ws]))⟩
  rw [State.on, hrd, hin (F.hbmcChStatLaneUnrep h c, b2n (decide (r.unrep ≠ []))) (by simp [ws])]
  by_cases hu : r.unrep = [] <;> simp [hu, b2n, F.hbmcChStatLaneUnrep]

end

/-! ## The end of the retraining -/

section
variable {s : State} {r : ChanTrain} (hpop : s.slicePopulated r.chan = true) (hwaits : ∀ w ∈ s.host.waits, ∀ n c b, w.why ≠ .launch n c b)
  (htrain : s.rd (F.hbmcChStatState (r.chan / 16) (r.chan % 16)) = 2)

/-- No launch is held, so that none starts. -/
theorem State.tryLaunch_of_noLaunch {z : State} (h : ∀ w ∈ z.host.waits, ∀ n c b, w.why ≠ .launch n c b) : z.tryLaunch = z := by
  have hnone : z.host.waits.find? (fun w => match w.why with | .launch _ _ _ => true | _ => false) = none := List.find?_eq_none.mpr fun w hw => by
    split
    · exact absurd ‹_› (h w hw _ _ _)
    · simp
  unfold State.tryLaunch
  split
  · rename_i w hw
    exact absurd (hw.symm.trans hnone) (by simp)
  · rfl

include hpop htrain in
theorem exec_channelRetrainDone {z : State} (hz : z = s.chanTrained r) (h : ∀ w ∈ z.host.waits, ∀ n c b, w.why ≠ .launch n c b) :
    exec (.channelRetrainDone r) s = .next z := by
  refine congrArg Host.Outcome.next ((if_pos ⟨hpop, htrain⟩).trans ?_)
  rw [← hz]
  exact State.tryLaunch_of_noLaunch h

/-- A channel that is up again, its capacity set, with its lanes not settled yet. -/
def State.chanBack (s : State) (r : ChanTrain) : State :=
  ((if s.newLanes r = 0 then s else s.bump Ev.laneSuspect (.slice r.chan) (s.newLanes r)).chanUp r).stackCap (r.chan / 16) [r.chan]

theorem State.chanTrained_up (h : r.rate ≠ none) :
    s.chanTrained r = ((s.chanBack r).settleLanes r.chan r.unrep).finish (fun w => decide (w = .retrainChan r.chan)) sOK 0 := by
  obtain ⟨k, hk⟩ := Option.ne_none_iff_exists'.mp h
  unfold State.chanTrained
  rw [hk]
  rfl

theorem State.chanBack_facts (s : State) (r : ChanTrain) :
    let h := r.chan / 16
    let c := r.chan % 16
    let z := s.chanBack r
    (z.laneHits = s.laneHits ∧ z.host.waits = s.host.waits) ∧ z.rd (F.hbmcChStatState h c) = 1 ∧
    z.rd (F.hbmcChStatLanesRepPc0 h c) = r.rep0 % 2 ^ (F.hbmcChStatLanesRepPc0 h c).w ∧
    z.rd (F.hbmcChStatLanesRepPc1 h c) = r.rep1 % 2 ^ (F.hbmcChStatLanesRepPc1 h c).w ∧
    z.on (F.hbmcChStatLaneUnrep h c) = decide (r.unrep ≠ []) ∧ z.rd (F.hbmcChStatLanePending h c) = 0 := by
  let u := if s.newLanes r = 0 then s else s.bump Ev.laneSuspect (.slice r.chan) (s.newLanes r)
  have hu : u.laneHits = s.laneHits ∧ u.host = s.host := by
    unfold u
    split
    · exact ⟨rfl, rfl⟩
    · exact ⟨rfl, rfl⟩
  obtain ⟨⟨hhits, hhost⟩, hstate, hrep0, hrep1, hunrep, hpending⟩ := u.chanUp_facts r
  obtain ⟨hhits', hwaits', hrd⟩ := chanKept_setCaps (u.chanUp r) ([r.chan].map fun c => (0, c))
    (if (u.chanUp r).on (F.hbmcCfgHalfRate (r.chan / 16)) then (u.chanUp r).nominal lHBM / 2 else (u.chanUp r).nominal lHBM)
  have hpage : 0x3000 ≤ R.hbmcChStat (r.chan / 16) (r.chan % 16) := by simp only [R.hbmcChStat]; omega
  intro h c z
  refine ⟨⟨hhits'.trans (hhits.trans hu.1), hwaits'.trans (by rw [hhost, hu.2])⟩, (hrd _ (by simp [F.hbmcChStatState]) hpage).trans hstate,
    (hrd _ (by simp [F.hbmcChStatLanesRepPc0]) hpage).trans hrep0, (hrd _ (by simp [F.hbmcChStatLanesRepPc1]) hpage).trans hrep1, ?_,
    (hrd _ (by simp [F.hbmcChStatLanePending]) hpage).trans hpending⟩
  rw [← hunrep, State.on, State.on]
  exact congrArg (fun v : Nat => decide (v = 1)) (hrd (F.hbmcChStatLaneUnrep (r.chan / 16) (r.chan % 16)) (by simp [F.hbmcChStatLaneUnrep]) hpage)

/-- The lanes that a channel is known to have left unrepaired. -/
def State.settled (s : State) (n : Nat) (unrep : List Nat) : State :=
  { s with laneHits := s.laneHits.filter (fun h : ChanHit => !(decide (h.chan = n) && decide (1024 ≤ h.what))) ++ unrep.map fun l => ChanHit.mk n (2048 + l) s.now }

theorem State.settleLanes_eq (s : State) (n : Nat) (unrep : List Nat) : s.settleLanes n unrep =
    if (unrep.map (· / 32)).eraseDups.length < (unrep.map (· / 32)).length then (s.settled n unrep).retireChan n 2 else s.settled n unrep := rfl

theorem State.mem_settled {n : Nat} {unrep : List Nat} {x : ChanHit} : x ∈ (s.settled n unrep).laneHits ↔
    (x ∈ s.laneHits ∧ (x.chan = n → x.what < 1024)) ∨ ∃ l ∈ unrep, ChanHit.mk n (2048 + l) s.now = x := by
  unfold State.settled
  rw [List.mem_append, List.mem_filter, List.mem_map]
  simp [imp_iff_not_or]

include hpop hwaits htrain

/-- CHANNEL_RETRAIN_DONE of a channel that comes up. -/
theorem channelUp_facts (hrate : r.rate ≠ none) (htwo : ¬ ∃ i j : Nat, i < j ∧ j < r.unrep.length ∧ r.unrep.getD i 0 / 32 = r.unrep.getD j 0 / 32) :
    leads (exec (.channelRetrainDone r) s) fun z =>
      let h := r.chan / 16
      let c := r.chan % 16
      z.rd (F.hbmcChStatState h c) = 1 ∧ z.rd (F.hbmcChStatLanesRepPc0 h c) = r.rep0 % 2 ^ (F.hbmcChStatLanesRepPc0 h c).w ∧
      z.rd (F.hbmcChStatLanesRepPc1 h c) = r.rep1 % 2 ^ (F.hbmcChStatLanesRepPc1 h c).w ∧
      z.on (F.hbmcChStatLaneUnrep h c) = decide (r.unrep ≠ []) ∧ z.rd (F.hbmcChStatLanePending h c) = 0 ∧
      (∀ x ∈ z.laneHits, x.chan = r.chan → x.what < 1024 ∨ ∃ i ∈ r.unrep, x.what = 2048 + i) ∧
      (∀ i ∈ r.unrep, ∃ x ∈ z.laneHits, x.chan = r.chan ∧ x.what = 2048 + i) ∧ ∀ w ∈ z.host.waits, w.why ≠ .retrainChan r.chan := by
  obtain ⟨⟨-, hheld⟩, hstate, hrep0, hrep1, hunrep, hpending⟩ := s.chanBack_facts r
  obtain ⟨hhits, hmem, hrd⟩ := ((s.chanBack r).settled r.chan r.unrep).finish_facts (fun w => decide (w = .retrainChan r.chan)) sOK 0
  have hz : s.chanTrained r = ((s.chanBack r).settled r.chan r.unrep).finish (fun w => decide (w = .retrainChan r.chan)) sOK 0 := by
    rw [State.chanTrained_up hrate, State.settleLanes_eq, if_neg fun h => htwo ((twoLanes_iff _).mp h)]
  have hpage : 0x2400 ≤ R.hbmcChStat (r.chan / 16) (r.chan % 16) := by simp only [R.hbmcChStat]; omega
  rw [exec_channelRetrainDone hpop htrain hz.symm fun w hw => hwaits w (hheld ▸ ((hmem w).mp hw).1)]
  refine leads_next ⟨(hrd _ hpage).trans hstate, (hrd _ hpage).trans hrep0, (hrd _ hpage).trans hrep1, ?_, (hrd _ hpage).trans hpending, fun x hx hchan => ?_,
    fun i hi => ?_, fun w hw => of_decide_eq_false ((hmem w).mp hw).2⟩
  · rw [← hunrep, State.on, State.on]
    exact congrArg (fun v : Nat => decide (v = 1)) (hrd (F.hbmcChStatLaneUnrep (r.chan / 16) (r.chan % 16)) hpage)
  · rw [hhits] at hx
    rcases State.mem_settled.mp hx with ⟨-, hlow⟩ | ⟨l, hl, rfl⟩
    · exact .inl (hlow hchan)
    · exact .inr ⟨l, hl, rfl⟩
  · rw [hhits]
    exact ⟨_, State.mem_settled.mpr (.inr ⟨i, hi, rfl⟩), rfl, rfl⟩

/-- CHANNEL_RETRAIN_DONE with two lanes of one pseudo-channel left unrepaired. -/
theorem channelTwoLanes_facts (hrate : r.rate ≠ none) (htwo : ∃ i j : Nat, i < j ∧ j < r.unrep.length ∧ r.unrep.getD i 0 / 32 = r.unrep.getD j 0 / 32) :
    leads (exec (.channelRetrainDone r) s) fun z => z.rd (F.hbmcChStatState (r.chan / 16) (r.chan % 16)) = 3 ∧
      z.rd (F.hbmcChStatRetireCause (r.chan / 16) (r.chan % 16)) = 2 ∧ ∀ w ∈ z.host.waits, w.why ≠ .retrainChan r.chan := by
  obtain ⟨⟨-, hheld⟩, hstate, -⟩ := s.chanBack_facts r
  have hlive : ((s.chanBack r).settled r.chan r.unrep).chanRetired r.chan = false := by
    rw [State.chanRetired, show ((s.chanBack r).settled r.chan r.unrep).rd _ = 1 from hstate]
    decide
  obtain ⟨hret, hcause, hleft⟩ := State.retireChan_facts _ hlive (show 2 < 8 by decide)
  obtain ⟨-, hmem, hrd⟩ := (((s.chanBack r).settled r.chan r.unrep).retireChan r.chan 2).finish_facts (fun w => decide (w = .retrainChan r.chan)) sOK 0
  have hz : s.chanTrained r = (((s.chanBack r).settled r.chan r.unrep).retireChan r.chan 2).finish (fun w => decide (w = .retrainChan r.chan)) sOK 0 := by
    rw [State.chanTrained_up hrate, State.settleLanes_eq, if_pos ((twoLanes_iff _).mpr htwo)]
  have hpage : 0x2400 ≤ R.hbmcChStat (r.chan / 16) (r.chan % 16) := by simp only [R.hbmcChStat]; omega
  rw [exec_channelRetrainDone hpop htrain hz.symm fun w hw => hwaits w (hheld ▸ (hleft w ((hmem w).mp hw).1).1)]
  exact leads_next ⟨(hrd _ hpage).trans hret, (hrd _ hpage).trans hcause, fun w hw => (hleft w ((hmem w).mp hw).1).2⟩

/-- CHANNEL_RETRAIN_DONE of a channel that fails at every rate. -/
theorem channelFailed_facts (hrate : r.rate = none) :
    leads (exec (.channelRetrainDone r) s) fun z => z.rd (F.hbmcChStatState (r.chan / 16) (r.chan % 16)) = 3 ∧
      z.rd (F.hbmcChStatRetireCause (r.chan / 16) (r.chan % 16)) = 1 ∧ ∀ w ∈ z.host.waits, w.why ≠ .retrainChan r.chan := by
  have hlive : s.chanRetired r.chan = false := by rw [State.chanRetired, htrain]; decide
  obtain ⟨hret, hcause, hleft⟩ := s.retireChan_facts hlive (show 1 < 8 by decide)
  have hz : s.chanTrained r = s.retireChan r.chan 1 := by unfold State.chanTrained; rw [hrate]
  rw [exec_channelRetrainDone hpop htrain hz.symm fun w hw => hwaits w (hleft w hw).1]
  exact leads_next ⟨hret, hcause, fun w hw => (hleft w hw).2⟩

end

end Sys2Proof.Machine
end

section
/-! What a compute reset keeps while it ends: each act of it leaves the module's fault state, and a state field of an epoch entry or of a tile
window either stays or becomes 0 (R541, R542). -/

namespace Sys2Proof.Machine

/-- The registers of epoch entries and of tile windows. -/
def zeroAddr (a : Nat) : Prop :=
  0x80000 ≤ a ∧ a < 0x100000 ∧ 0x108 ≤ a % 0x400 ∧ a % 0x400 < 0x180 ∨ 0xC00000 ≤ a ∧ 0x280 ≤ a % 0x800 ∧ a % 0x800 < 0x2A0

/-- Their state fields, of which 0 is Free or Closed. -/
def zeroFld (f : Fld) : Prop := f.lo = 0 ∧ f.w = 2 ∧ zeroAddr f.addr

theorem zeroFld_etState {n e : Nat} (hn : n < 512) (he : 1 ≤ e ∧ e ≤ 15) : zeroFld (etState n e) :=
  ⟨rfl, rfl, by simp only [zeroAddr, etState, F.sliceEtabState, R.sliceEtab]; omega⟩

theorem zeroFld_tileWin (t : Nat) {n : Nat} (hn : n < 4) : zeroFld (F.tileWinState t n) :=
  ⟨rfl, rfl, by simp only [zeroAddr, F.tileWinState, R.tileWin]; omega⟩

/-- An act that keeps the module halted or not, that leaves each state field or makes it 0, and that brings no request. -/
structure Settles (s w : State) : Prop where
  fault : w.rd F.keepFaultStatState = 2 ↔ s.rd F.keepFaultStatState = 2
  zero : ∀ f, zeroFld f → w.rd f = s.rd f ∨ w.rd f = 0
  reqs : s.reqs = [] → w.reqs = []

/-- And HBM keeps what it holds. -/
structure Calm (s w : State) : Prop extends Settles s w where
  gen : w.hbmGen = s.hbmGen

theorem Settles.trans {s v w : State} (h : Settles s v) (h' : Settles v w) : Settles s w where
  fault := h'.fault.trans h.fault
  zero f hf := by
    rcases h'.zero f hf with h0 | h0
    · rw [h0]; exact h.zero f hf
    · exact .inr h0
  reqs hr := h'.reqs (h.reqs hr)

/-- A state field that is 0 stays 0. -/
theorem Settles.stays {s w : State} (h : Settles s w) {f : Fld} (hf : zeroFld f) (h0 : s.rd f = 0) : w.rd f = 0 := (h.zero f hf).elim (·.trans h0) id

theorem Calm.refl (s : State) : Calm s s := ⟨⟨.rfl, fun _ _ => .inl rfl, id⟩, rfl⟩

theorem Calm.trans {s v w : State} (h : Calm s v) (h' : Calm v w) : Calm s w := ⟨h.toSettles.trans h'.toSettles, h'.gen.trans h.gen⟩

/-- A field that a quiet act may write. -/
def calmFld (g : Fld) : Prop := (g.addr ≠ R.keepFaultStat ∨ 2 ≤ g.lo) ∧ (¬ zeroAddr g.addr ∨ 2 ≤ g.lo)

theorem calmFld.apart {f g : Fld} (h : calmFld g) (hf : zeroFld f) : g.apart f := by
  obtain ⟨hlo, hw, ha⟩ := hf
  rcases h.2 with h | h
  · exact .inl fun heq => h (heq ▸ ha)
  · exact .inr (.inr (by omega))

section
variable {s w : State}

theorem calm_of_framed {α : Type} {π : State → α} {q : Fld → Prop} (h : framed π q s w) (hreqs : w.reqs = s.reqs) (hgen : w.hbmGen = s.hbmGen)
    (hq : ∀ g, q g → calmFld g) : Calm s w := by
  refine ⟨⟨?_, fun f hf => .inl (h.2 f ?_ fun g hg => (hq g hg).apart hf), fun hr => hreqs.trans hr⟩, hgen⟩
  · rw [h.2 F.keepFaultStatState (by decide) fun g hg => (hq g hg).1.imp id .inr]
  · obtain ⟨hlo, hw, -⟩ := hf
    omega

theorem calm_of_rest {q : Fld → Prop} (h : framed State.rest q s w) (hq : ∀ g, q g → calmFld g) : Calm s w :=
  calm_of_framed h (h.get State.reqs) (h.get State.hbmGen) hq

theorem calm_of_regs (hr : w.regs = s.regs) (hv : w.variant = s.variant) (hreqs : s.reqs = [] → w.reqs = []) (hgen : w.hbmGen = s.hbmGen) : Calm s w := by
  have hrd : ∀ f, w.rd f = s.rd f := fun f => by rw [State.rd, State.rd, State.reg, State.reg, hr, hv]
  exact ⟨⟨by rw [hrd], fun f _ => .inl (hrd f), hreqs⟩, hgen⟩

end

section
variable (s : State)

theorem calm_foldl_mem {β : Type} {f : State → β → State} (l : List β) (s : State) (h : ∀ u, ∀ x ∈ l, Calm u (f u x)) : Calm s (l.foldl f s) :=
  foldl_keep_mem (P := Calm s) (fun x hx u hu => hu.trans (h u x hx)) (.refl s)

theorem calm_foldl {β : Type} {f : State → β → State} (l : List β) (s : State) (h : ∀ u x, Calm u (f u x)) : Calm s (l.foldl f s) :=
  calm_foldl_mem l s fun u x _ => h u x

theorem calm_ite {c : Prop} [Decidable c] {a b : State} (ha : Calm s a) (hb : Calm s b) : Calm s (if c then a else b) := by split <;> assumption

theorem calm_wr {f : Fld} (v : Nat) (hf : calmFld f) : Calm s (s.wr f v) :=
  calm_of_framed (framed_wr s (π := State.hbmGen) (q := calmFld) (by intros; rfl) f v hf) rfl rfl fun _ => id

theorem calm_wrs (ws : List (Fld × Nat)) (hws : ∀ p ∈ ws, calmFld p.1) : Calm s (s.wrs ws) := calm_foldl_mem ws s fun u p hp => calm_wr u p.2 (hws p hp)

theorem calm_setReg {a : Nat} (v : W64) (ha : a ≠ R.keepFaultStat ∧ ¬ zeroAddr a) : Calm s (s.setReg a v) :=
  calm_of_framed (framed_setReg s (π := State.hbmGen) (q := calmFld) (by intros; rfl) v ⟨.inl ha.1, .inl ha.2⟩) rfl rfl fun _ => id

/-- A whole register whose two low bits become 0. -/
theorem calm_setReg_low {a : Nat} {v : W64} (ha : a ≠ R.keepFaultStat) (hv : v.toNat % 4 = 0) : Calm s (s.setReg a v) := by
  refine ⟨⟨?_, fun f hf => ?_, id⟩, rfl⟩
  · rw [State.rd, State.rd, State.reg_setReg_ne s v (b := F.keepFaultStatState.addr) ha.symm]
  · rw [State.rd, State.rd, State.reg_setReg]
    split
    · obtain ⟨hlo, hw, -⟩ := hf
      exact .inr (by rw [hlo, hw, bf_zero]; exact hv)
    · exact .inl rfl

theorem calm_postFld {g : Fld} (h : postFld g) : calmFld g := by
  rcases h with h | h | ⟨k, hk, rfl⟩
  · simp [calmFld, zeroAddr, h, R.keepLogStat, R.keepFaultStat]
  · simp [calmFld, zeroAddr, h, R.cmdqEvtLost, R.keepFaultStat]
  · simp [calmFld, F.cmdqQcfgBusy]

theorem calm_sendFld {g : Fld} (h : sendFld g) : calmFld g := by
  obtain ⟨l, -, rfl⟩ := h
  simp [calmFld, F.linkStatTxSeq]

theorem calm_memFld {g : Fld} (h : memFld g) : calmFld g := by
  rcases h with h | ⟨f, h | h | h⟩
  · exact calm_postFld h
  all_goals
    simp only [calmFld, zeroAddr, h, R.floorTwinLog, R.floorTwinEp, R.floorSplitStat, R.keepFaultStat]
    omega

theorem calm_mem {w : State} (h : framed State.rest memFld s w) : Calm s w := calm_of_rest h fun _ => calm_memFld

theorem calm_post {w : State} (h : framed State.rest postFld s w) : Calm s w := calm_of_rest h fun _ => calm_postFld

theorem calm_send {w : State} (h : framed State.rest sendFld s w) : Calm s w := calm_of_rest h fun _ => calm_sendFld

theorem calm_modSlice (n : Nat) (f : SliceSt → SliceSt) : Calm s (s.modSlice n f) := calm_of_regs rfl rfl id rfl

theorem calm_modFab (f : FabricSt → FabricSt) : Calm s (s.modFab f) := calm_of_regs rfl rfl id rfl

theorem calm_bump (ev : Nat) (u : EvUnit) (n : Nat) : Calm s (s.bump ev u n) := calm_of_regs rfl rfl id rfl

theorem calm_finish (p : Wait → Bool) (status result : Nat) : Calm s (s.finish p status result) := by
  unfold State.finish
  extract_lets ws u
  have hu : Calm s u := calm_of_regs rfl rfl id rfl
  exact hu.trans (calm_foldl ws u fun v w => calm_post v (framed_complete v w.e status result))

theorem calm_mergeAll (n : Nat) : Calm s (s.mergeAll n) := calm_mem s (framed_mergeAll s n)

/-! ## The slices come to rest -/

theorem calmFld_esc (key : Nat) : calmFld (escField key) := by
  have hn : key % 8192 / 16 < 512 := by omega
  generalize hi : key % 8192 / 16 = n at hn
  simp only [calmFld, zeroAddr, escField, hi, R.hbmcChEsc, R.sliceEsc, R.keepFaultStat]
  split <;> omega

theorem calm_latency (hbm : Bool) (inst collar x : Nat) : Calm s (s.latency hbm inst collar x) := by
  unfold State.latency
  extract_lets target key m f u
  split
  · exact .refl s
  · split
    rename_i c w heq
    have hfree : Calm s w := by
      split at heq
      · cases heq; exact .refl s
      · obtain ⟨-, rfl⟩ := Prod.mk.inj heq
        exact calm_of_regs rfl rfl id rfl
    extract_lets m' a b st
    have ha : Calm s a := hfree.trans (calm_of_regs rfl rfl id rfl)
    have hb : Calm s b := calm_ite s (ha.trans (calm_bump a _ _ _)) ha
    exact calm_ite s hb (hb.trans ((calm_wr b st (calmFld_esc key)).trans (calm_bump _ _ _ _)))

theorem calm_wbWrite (n : Nat) (w : TwinWb) (c : Nat × Nat) : Calm s (s.wbWrite n w c) := by
  unfold State.wbWrite
  extract_lets lv u v
  have hu : Calm s u := calm_ite s (.refl s) (calm_mem s (framed_crossRing s _ _ _ _ _))
  have hv : Calm s v := (hu.trans (calm_mem u (framed_grant u _ _ _ _ _))).trans (calm_latency _ _ _ _ _)
  exact calm_ite s hv ((hv.trans (calm_mem v (framed_hbmPut v _ _ _ _ _))).trans (calm_mem _ (framed_putEpoch _ _ _ _)))

theorem calm_wbAck (n i : Nat) (copyB : Bool) : Calm s (s.wbAck n i copyB) := by
  unfold State.wbAck
  split
  · exact .refl s
  rename_i w _
  extract_lets at_ u w' v p x
  refine calm_ite s (.refl s) ?_
  have hu : Calm s u := by
    unfold u
    generalize at_ = o
    cases o with
    | none => exact .refl s
    | some c => exact calm_wbWrite s n w c
  have hv : Calm s v := hu.trans (calm_modSlice u n _)
  have hx : Calm s x := by
    refine hv.trans ?_
    unfold x
    split
    · exact calm_ite v (calm_mem v (framed_setBase v _ _ _ _)) (.refl v)
    · exact .refl v
  exact calm_ite s (hu.trans (calm_modSlice u n _)) (calm_ite s (hx.trans (calm_mem x (framed_unsplit x _ _ _))) hx)

theorem calm_quietSlices : Calm s s.quietSlices :=
  calm_foldl _ s fun u n => ((calm_mergeAll u n).trans (calm_modSlice _ n _)).trans
    (calm_foldl _ _ fun v _ => (calm_wbAck v n 0 false).trans (calm_wbAck _ n 0 true))

/-! ## Epoch entries -/

theorem framed_countLines (n : Nat) : framed State.rest (fun g => ∃ i, g = F.sliceEtabLines n i) s (s.countLines n) :=
  framed_foldl _ s fun u _ => framed_ite (.refl u) (framed_wr u (by intros; rfl) _ _ ⟨_, rfl⟩)

theorem calm_countLines (n : Nat) : Calm s (s.countLines n) :=
  calm_of_rest (framed_countLines s n) fun g ⟨i, hg⟩ => by simp [hg, calmFld, F.sliceEtabLines]

/-- The end of an entry: its holds and its register go. -/
def State.entryGone (s : State) (n e : Nat) : State := ((s.dropHold n e).setReg (R.sliceEtab n (e - 1)) 0).countLines n

theorem calm_entryGone (n e : Nat) : Calm s (s.entryGone n e) :=
  ((calm_foldl _ s fun u _ => calm_ite u (calm_modSlice u n _) (.refl u)).trans
    (calm_setReg_low _ (by simp only [R.sliceEtab, R.keepFaultStat]; omega) rfl)).trans (calm_countLines _ n)

theorem State.rd_entryGone (n e : Nat) : (s.entryGone n e).rd (etState n e) = etFREE := by
  refine ((framed_countLines _ n).2 (etState n e) (by simp [etState, F.sliceEtabState]) ?_).trans ?_
  · rintro g ⟨i, rfl⟩
    exact .inr (.inr (by simp [etState, F.sliceEtabState, F.sliceEtabLines]))
  · simp [State.rd, etState, F.sliceEtabState, bf, etFREE]

theorem State.drainEntry_eq (n e : Nat) : s.drainEntry n e [] = State.entryGone
    (((s.entryPlaces n e).zip (List.range (s.entryPlaces n e).length)).foldl (fun s p => s.drainSec n p.1 e .quiet) s) n e := rfl

theorem calm_drainEntry (n e : Nat) : Calm s (s.drainEntry n e []) := by
  rw [s.drainEntry_eq]
  refine .trans ?_ (calm_entryGone _ n e)
  exact calm_foldl _ s fun u p => calm_mem u (framed_drainSec u n p.1 e)

theorem dropEntry_eq_entryGone (n e : Nat) : ∃ u, Calm s u ∧ s.dropEntry n e = u.entryGone n e := by
  refine ⟨_, ?_, rfl⟩
  refine (calm_mergeAll s n).trans (calm_foldl _ _ fun u p => ?_)
  extract_lets v w
  have hv : Calm u v := by
    unfold v
    split
    · refine calm_ite u (.refl u) (calm_ite u ?_ (calm_modSlice u n _))
      split
      · exact (calm_mem u (framed_setBase u _ _ _ _)).trans (calm_mem _ (framed_dropUndo _ _ _ _ _))
      · exact calm_mem u (framed_setBase u _ _ _ _)
    · exact .refl u
  have hw : Calm u w := by
    refine hv.trans ?_
    unfold w
    split
    · exact calm_mem v (framed_dropSide v _ _ _ _)
    · exact .refl v
  exact hw.trans (calm_mem w (framed_sideBit w _ _))

theorem calm_dropEntry (n e : Nat) : Calm s (s.dropEntry n e) := by
  obtain ⟨u, hu, h⟩ := dropEntry_eq_entryGone s n e
  rw [h]
  exact hu.trans (calm_entryGone u n e)

theorem State.rd_drainEntry (n e : Nat) : (s.drainEntry n e []).rd (etState n e) = etFREE := by
  rw [s.drainEntry_eq]
  exact State.rd_entryGone _ n e

theorem State.rd_dropEntry (n e : Nat) : (s.dropEntry n e).rd (etState n e) = etFREE := by
  obtain ⟨u, -, h⟩ := dropEntry_eq_entryGone s n e
  rw [h]
  exact State.rd_entryGone _ n e

end

end Sys2Proof.Machine
end

section
/-! A compute reset ends: no entry is left in the epoch tables, no request and no open tile window (R542). -/

namespace Sys2Proof.Machine

/-! ## Reset values -/

/-- Reset values with a low bit set belong to no slice's registers, and in a tile's page to none of its windows. -/
theorem zeroDefs_low : (regDefs.all fun d => decide (d.reset % 4 = 0) ||
    (decide (0x100000 ≤ d.base + d.off ∨ d.base + d.off + d.stride * (d.insts - 1) + d.step * (d.count - 1) < 0x80000) &&
     decide (d.base + d.off + d.stride * (d.insts - 1) + d.step * (d.count - 1) < 0xC00000 ∨
       d.stride = 0x800 ∧ 1 < d.insts ∧ d.count ≤ 1 ∧ ((d.base + d.off) % 0x800 < 0x280 ∨ 0x2A0 ≤ (d.base + d.off) % 0x800)))) = true := by decide +kernel

theorem buildBits_zeroAddr (v : Variant) {a : Nat} (ha : zeroAddr a) : buildBits v a = 0 := by
  unfold zeroAddr at ha
  have h1 : ¬(0x18000 ≤ a ∧ a < 0x20000 ∧ (a - 0x18000) % 0x400 = 0) := by omega
  have h2 : ¬(0x80000 ≤ a ∧ a < 0x100000 ∧ (a - 0x80000) % 0x400 = 0) := by omega
  have h3 : ¬(0x80000 ≤ a ∧ a < 0x100000 ∧ (a - 0x80000) % 0x400 = 8) := by omega
  have h4 : ¬(0x200000 ≤ a ∧ a < 0x300000 ∧ (a - 0x200000) % 0x20000 = 8) := by omega
  have h5 : ¬(0x8100 ≤ a ∧ a < 0x81C0) := by omega
  unfold buildBits
  rw [if_neg h1, if_neg h2, if_neg h3, if_neg h4, if_neg h5]

/-- Of a family that covers such a register the reset value has no low bit. -/
theorem RegDef.reset_low {d : RegDef} {a : Nat} (hd : d ∈ regDefs) (hcov : d.covers a = true) (ha : zeroAddr a) : d.reset % 4 = 0 := by
  have hlow := List.all_eq_true.mp zeroDefs_low d hd
  simp only [Bool.or_eq_true, Bool.and_eq_true, decide_eq_true_eq] at hlow
  simp only [RegDef.covers, Bool.and_eq_true, decide_eq_true_eq] at hcov
  obtain ⟨⟨hfirst, hlast⟩, hfam⟩ := hcov
  unfold zeroAddr at ha
  rcases hlow with h | ⟨hslice, htile | ⟨hstride, hinsts, hcount, hoff⟩⟩
  · exact h
  · omega
  · rw [if_pos hcount, if_neg (by omega), hstride] at hfam
    simp only [decide_eq_true_eq] at hfam
    omega

theorem regReset_zeroAddr (v : Variant) {a : Nat} (ha : zeroAddr a) : (regReset v a).toNat % 4 = 0 := by
  unfold regReset
  split
  · rename_i d hd
    have hcov := List.find?_some hd
    have hres := RegDef.reset_low (List.mem_of_find?_eq_some hd) hcov ha
    rw [buildBits_zeroAddr v ha, BitVec.toNat_ofNat]
    omega
  · rfl

theorem rd_of_reset {s : State} {f : Fld} {v : Variant} (hf : zeroFld f) (h : s.reg f.addr = regReset v f.addr) : s.rd f = 0 := by
  obtain ⟨hlo, hw, ha⟩ := hf
  rw [State.rd, h, hlo, hw, bf_zero]
  exact regReset_zeroAddr v ha

section
variable (s : State)

/-! ## The epoch tables -/

theorem State.rd_etState_of_not_mem {n e : Nat} (hn : n < 512) (he : 1 ≤ e ∧ e ≤ 15) (h : n ∉ s.etabIds) : s.rd (etState n e) = 0 := by
  refine rd_of_reset (v := s.variant) (zeroFld_etState hn he) (tget_of_not_mem _ _ _ fun hkey => h ?_)
  obtain ⟨p, hp, haddr⟩ := List.mem_map.mp hkey
  simp only [etState, F.sliceEtabState, R.sliceEtab] at haddr
  refine List.mem_eraseDups.mpr (List.mem_map.mpr ⟨p, List.mem_filter.mpr ⟨hp, ?_⟩, by omega⟩)
  simp only [Bool.and_eq_true, decide_eq_true_eq]
  omega

theorem calm_sendNotice (dst kind epoch : Nat) : Calm s (s.sendNotice dst kind epoch) := calm_send s (framed_launchPkt s _)

theorem calm_ackAborts : Calm s s.ackAborts :=
  calm_foldl _ s fun u _ => calm_ite u (.refl u) ((calm_modFab u _).trans (calm_sendNotice _ _ _ _))

/-- The entry's drain or drop, where its state asks for it. -/
def State.drainTurn (s : State) (q : Nat × Nat) : State := if s.rd (etState q.1 q.2) = etCOMMITTED then s.drainEntry q.1 q.2 [] else s

def State.dropTurn (s : State) (q : Nat × Nat) : State :=
  if s.rd (etState q.1 q.2) = etOPEN ∨ s.rd (etState q.1 q.2) = etDROPPING then s.dropEntry q.1 q.2 else s

theorem calm_drainTurn (q : Nat × Nat) : Calm s (s.drainTurn q) := calm_ite s (calm_drainEntry s _ _) (.refl s)

theorem calm_dropTurn (q : Nat × Nat) : Calm s (s.dropTurn q) := calm_ite s (calm_dropEntry s _ _) (.refl s)

theorem State.rd_drainTurn (q : Nat × Nat) : (s.drainTurn q).rd (etState q.1 q.2) ≠ etCOMMITTED := by
  unfold State.drainTurn
  split
  · rw [State.rd_drainEntry]; decide
  · assumption

theorem State.rd_dropTurn (q : Nat × Nat) : (s.dropTurn q).rd (etState q.1 q.2) = etFREE ∨ (s.dropTurn q).rd (etState q.1 q.2) = etCOMMITTED := by
  unfold State.dropTurn
  split
  · exact .inl (s.rd_dropEntry q.1 q.2)
  · rename_i h
    have hlt : s.rd (etState q.1 q.2) < 4 := bf_lt _ _ 2
    simp only [etOPEN, etDROPPING] at h
    simp only [etFREE, etCOMMITTED]
    omega

/-- The epoch tables' entries. -/
def State.allEntries (s : State) : List (Nat × Nat) := s.etabIds.flatMap fun n => entries.map fun e => (n, e)

theorem State.mem_allEntries {n e : Nat} (hn : n ∈ s.etabIds) (he : 1 ≤ e ∧ e ≤ 15) : (n, e) ∈ s.allEntries := by
  refine List.mem_flatMap.mpr ⟨n, hn, List.mem_map.mpr ⟨e, List.mem_map.mpr ⟨e - 1, by simp; omega, by omega⟩, rfl⟩⟩

theorem State.clearEpochs_eq (notify : Bool) : ∃ u, Calm s u ∧
    s.clearEpochs notify = (s.allEntries.foldl State.dropTurn (s.allEntries.foldl State.drainTurn u)).ackAborts := by
  refine ⟨_, ?_, rfl⟩
  exact calm_ite s (calm_foldl _ s fun u q => calm_sendNotice u _ _ _) (.refl s)

theorem State.clearEpochs_facts (notify : Bool) : Calm s (s.clearEpochs notify) ∧
    ∀ n e, n < 512 → 1 ≤ e → e ≤ 15 → (s.clearEpochs notify).rd (etState n e) = etFREE := by
  obtain ⟨u, hu, heq⟩ := s.clearEpochs_eq notify
  rw [heq]
  have hdrain : Calm u (s.allEntries.foldl State.drainTurn u) := calm_foldl _ u calm_drainTurn
  have hdrop : ∀ v, Calm v (s.allEntries.foldl State.dropTurn v) := fun v => calm_foldl _ v calm_dropTurn
  have hall := (hu.trans hdrain).trans ((hdrop _).trans (calm_ackAborts _))
  refine ⟨hall, fun n e hn h1 h15 => ?_⟩
  have hz : zeroFld (etState n e) := zeroFld_etState hn ⟨h1, h15⟩
  by_cases hmem : n ∈ s.etabIds
  · have hin := s.mem_allEntries hmem ⟨h1, h15⟩
    have hcom : (s.allEntries.foldl State.drainTurn u).rd (etState n e) ≠ etCOMMITTED :=
      foldl_brings (P := fun w : State => w.rd (etState n e) ≠ etCOMMITTED) hin (fun w => w.rd_drainTurn (n, e)) (fun q _ w hw => by
        rcases (calm_drainTurn w q).zero _ hz with h | h <;> rw [h]
        · exact hw
        · decide) u
    generalize s.allEntries.foldl State.drainTurn u = v at hcom ⊢
    have hend : (s.allEntries.foldl State.dropTurn v).rd (etState n e) = etFREE ∨ (s.allEntries.foldl State.dropTurn v).rd (etState n e) = etCOMMITTED :=
      foldl_brings (P := fun w : State => w.rd (etState n e) = etFREE ∨ w.rd (etState n e) = etCOMMITTED) hin (fun w => w.rd_dropTurn (n, e)) (fun q _ w hw => by
        rcases (calm_dropTurn w q).zero _ hz with h | h <;> rw [h]
        · exact hw
        · exact .inl rfl) v
    have hfree : (s.allEntries.foldl State.dropTurn v).rd (etState n e) = etFREE := by
      rcases (hdrop v).zero _ hz with h | h
      · exact hend.resolve_right fun h2 => hcom (h.symm.trans h2)
      · exact h
    exact (calm_ackAborts (s.allEntries.foldl State.dropTurn v)).stays hz hfree
  · exact hall.stays hz (s.rd_etState_of_not_mem hn ⟨h1, h15⟩ hmem)

/-! ## Requests and tile windows -/

theorem State.dropTraffic_facts : Calm s s.dropTraffic ∧ s.dropTraffic.reqs = [] := by
  have hsend : ∀ (ps : List (Nat × Packet)) (u : State), Calm u (ps.foldl (fun s p => s.refusePkt p.2 rWINDOW_CLOSED) u) := fun ps u =>
    calm_foldl _ u fun v p => calm_send v (framed_sendPkt v _)
  unfold State.dropTraffic
  extract_lets ps u
  have hu : Calm s u := calm_of_regs rfl rfl (fun _ => rfl) rfl
  exact ⟨hu.trans (hsend ps u), (hsend ps u).reqs rfl⟩

theorem calm_measureTables : Calm s s.measureTables := calm_of_regs rfl rfl id rfl

/-- A tile window that closes is Closed; whatever it was before, no other state field changes. -/
theorem calm_shutWin (t : Nat) {n : Nat} (hn : n < 4) : Calm s ((s.closeTileWin t n).shutTileWin t n) := by
  have hother : ∀ (u : State) (v : Nat) (f : Fld), zeroFld f → f.addr ≠ R.tileWin t n → (u.wr (F.tileWinState t n) v).rd f = u.rd f := fun u v f _ ha =>
    State.rd_wr_addr u (F.tileWinState t n) f v ha
  have hfault : ∀ (u : State) (v : Nat), (u.wr (F.tileWinState t n) v).rd F.keepFaultStatState = u.rd F.keepFaultStatState := fun u v =>
    State.rd_wr_addr u (F.tileWinState t n) _ v (by simp only [F.keepFaultStatState, F.tileWinState, R.keepFaultStat, R.tileWin]; omega)
  have hend : ∀ u : State, (u.rd F.keepFaultStatState = s.rd F.keepFaultStatState ∧ (∀ f, zeroFld f → f.addr ≠ R.tileWin t n → u.rd f = s.rd f) ∧
      u.reqs = s.reqs ∧ u.hbmGen = s.hbmGen) → Calm s (u.wr (F.tileWinState t n) 0) := fun u ⟨hf, hz, hr, hg⟩ => by
    refine ⟨⟨by rw [hfault, hf], fun f hzf => ?_, fun h => hr.trans h⟩, hg⟩
    by_cases ha : f.addr = R.tileWin t n
    · obtain ⟨hlo, hw, -⟩ := hzf
      obtain rfl : f = F.tileWinState t n := by cases f; simp_all [F.tileWinState]
      exact .inr (State.rd_wr_same u _ 0 (by simp [F.tileWinState]))
    · exact .inl ((hother u 0 f hzf ha).trans (hz f hzf ha))
  refine .trans ?_ ((calm_measureTables _).trans (calm_finish _ _ _ _))
  refine hend _ ?_
  unfold State.closeTileWin
  split
  · exact ⟨hfault s 2, fun f hz ha => hother s 2 f hz ha, rfl, rfl⟩
  · exact ⟨rfl, fun _ _ _ => rfl, rfl, rfl⟩

theorem State.mem_openTileWins {w : Nat × Nat} (hw : w ∈ s.openTileWins) : w.2 < 4 := by
  obtain ⟨p, -, hp⟩ := List.mem_filterMap.mp (List.mem_of_mem_filter hw)
  dsimp only at hp
  split at hp
  · cases hp; dsimp only; omega
  · cases hp

theorem calm_closeAllTileWins : Calm s s.closeAllTileWins := by
  unfold State.closeAllTileWins
  extract_lets u
  have hu : Calm s u := calm_foldl_mem s.openTileWins s fun v w hw => calm_shutWin v w.1 (s.mem_openTileWins hw)
  exact hu.trans (calm_modFab u _)

/-! ## Registers at reset -/

theorem State.resetRegs_facts (lo hi : Nat) (hlo : R.keepFaultStat < lo) : Calm s (s.resetRegs lo hi) ∧
    ∀ f, zeroFld f → lo ≤ f.addr → f.addr ≤ hi → (s.resetRegs lo hi).rd f = 0 := by
  have hreg : ∀ a, (s.resetRegs lo hi).reg a = if lo ≤ a ∧ a ≤ hi then regReset s.variant a else s.reg a := fun a => tget_tclear _ _ _ _ _
  have hzero : ∀ f, zeroFld f → lo ≤ f.addr → f.addr ≤ hi → (s.resetRegs lo hi).rd f = 0 := fun f hf h1 h2 =>
    rd_of_reset hf ((hreg f.addr).trans (if_pos ⟨h1, h2⟩))
  refine ⟨⟨⟨?_, fun f hf => ?_, id⟩, rfl⟩, hzero⟩
  · rw [State.rd, State.rd, hreg, if_neg (fun h => absurd h.1 (Nat.not_le.mpr hlo))]
  · by_cases h : lo ≤ f.addr ∧ f.addr ≤ hi
    · exact .inr (hzero f hf h.1 h.2)
    · exact .inl (by rw [State.rd, State.rd, hreg, if_neg h])

theorem State.resetTiles_facts : Calm s s.resetTiles ∧ ∀ t n, t < tileCount → n < 4 → s.resetTiles.rd (F.tileWinState t n) = 0 := by
  have hgens : ∀ u : State, Calm u (u.wrs s.winGens) := fun u => calm_wrs u _ fun p hp => by
    obtain ⟨t, n, -, rfl⟩ := s.mem_winGens hp
    exact ⟨.inr (by simp [F.tileWinGen]), .inr (by simp [F.tileWinGen])⟩
  obtain ⟨hcalm, hzero⟩ := ({ s with tiles := [] } : State).resetRegs_facts 0xC00000 0x3DFFFFF (by decide)
  have hfirst : Calm s (({ s with tiles := [] } : State).resetRegs 0xC00000 0x3DFFFFF) :=
    .trans (calm_of_regs (w := { s with tiles := [] }) rfl rfl id rfl) hcalm
  refine ⟨hfirst.trans (hgens _), fun t n ht hn => ?_⟩
  have hin : 0xC00000 ≤ (F.tileWinState t n).addr ∧ (F.tileWinState t n).addr ≤ 0x3DFFFFF := by
    simp only [F.tileWinState, R.tileWin, tileCount] at ht ⊢; omega
  exact (hgens _).stays (zeroFld_tileWin t hn) (hzero _ (zeroFld_tileWin t hn) hin.1 hin.2)

theorem calm_clearCounts (lo hi : Nat) : Calm s (s.clearCounts lo hi) := calm_of_regs rfl rfl id rfl

theorem calm_floorInit : Calm s s.floorInit := by
  have hetab : ∀ u : State, Calm u ((List.range 512).foldl (fun s n => s.resetRegs (R.sliceEtab n 0) (R.sliceEtab n 14)) u) := fun u =>
    calm_foldl _ u fun v n => (v.resetRegs_facts _ _ (by simp only [R.sliceEtab, R.keepFaultStat]; omega)).1
  have hsplit : ∀ u : State, Calm u ((List.range 8).foldl (fun s f => s.setReg (R.floorSplitStat f) (regReset s.variant (R.floorSplitStat f))) u) := fun u =>
    calm_foldl _ u fun v f => calm_setReg v _ (by simp only [R.floorSplitStat, R.keepFaultStat, zeroAddr]; omega)
  exact .trans (.trans (calm_of_regs (w := { s with slices := [], splits := [] }) rfl rfl id rfl) (hetab _)) (hsplit _)

end

end Sys2Proof.Machine
end

section
/-! COMPUTE_RESET_DONE: the job is aborted and the partition returns to service (R542, R546). -/

namespace Sys2Proof.Machine

section
variable (s : State)

/-! ## The open job -/

theorem calm_closeTileWins : Calm s s.closeTileWins :=
  calm_foldl _ s fun u t => calm_foldl_mem _ u fun v _ hn => calm_ite v (.refl v) (calm_shutWin v t (List.mem_range.mp hn))

theorem calm_drainAll (n : Nat) : Calm s (s.drainAll n) := calm_foldl _ s fun u e => calm_ite u (calm_drainEntry u n e) (.refl u)

theorem calm_loseState (n : Nat) (l : Line) : Calm s (s.loseState n l) :=
  calm_foldl _ s fun u e => calm_ite u (calm_wr u 1 ⟨.inr (by simp [etUnprot, F.sliceEtabUnprot]), .inr (by simp [etUnprot, F.sliceEtabUnprot])⟩) (.refl u)

theorem calm_clearWay (n way : Nat) (expl : Bool) : Calm s (s.clearWay n way expl) := by
  refine calm_foldl _ s fun u q => ?_
  extract_lets l above cleaned
  have hclean : Calm u cleaned := calm_ite u (calm_mem u (framed_cleanLine u _ _ _ Nat.two_pos)) (.refl u)
  exact calm_ite u (.refl u) ((hclean.trans (calm_loseState cleaned _ _)).trans (calm_modSlice _ _ _))

theorem calmFld_slice {g : Fld} {n : Nat} (h : g.addr = R.sliceCfg n ∨ g.addr = R.sliceStat n) : calmFld g := by
  simp only [R.sliceCfg, R.sliceStat] at h
  simp only [calmFld, zeroAddr, R.keepFaultStat]
  omega

theorem calm_setMode (n mode split : Nat) : Calm s (s.setMode n mode split) := by
  unfold State.setMode
  extract_lets e e' u
  have hu : Calm s u := by
    refine ((calm_mergeAll s n).trans (calm_drainAll _ n)).trans (calm_wrs _ _ ?_)
    simp only [List.mem_cons, List.not_mem_nil, or_false, forall_eq_or_imp, forall_eq]
    exact ⟨calmFld_slice (.inl rfl), calmFld_slice (.inl rfl), calmFld_slice (.inr rfl)⟩
  refine calm_ite s (.refl s) (hu.trans (.trans ?_ (calm_countLines _ n)))
  exact calm_foldl _ u fun x w => calm_ite x (calm_clearWay x _ _ _) (.refl x)

theorem calm_cacheModes : Calm s s.cacheModes :=
  calm_foldl _ s fun u n => calm_ite u (calm_ite u (.refl u) (calm_setMode u n 0 0)) (calm_modSlice u n _)

theorem calm_setRights (a n v : Nat) : Calm s (s.setRights a n v) := by
  refine calm_ite s (.refl s) (calm_foldl _ s fun u i => ?_)
  unfold State.setRight
  split
  · exact .refl u
  · rename_i hp
    refine calm_foldl_mem _ u fun w f hf => calm_setReg w _ ?_
    have hf8 := List.mem_range.mp hf
    simp only [pageCount] at hp
    simp only [R.floorPerm, R.keepFaultStat, zeroAddr]
    omega

theorem calm_setHash (g : Nat) : Calm s (s.setHash g 0) := by
  refine calm_foldl _ s fun u f => (calm_setReg_low u (a := R.floorHash f g) (v := BitVec.ofNat 64 0) (by simp only [R.floorHash, R.keepFaultStat]; omega) rfl).trans ?_
  refine .trans ?_ (calm_wr _ _ ?_)
  · exact calm_of_regs rfl rfl id rfl
  · simp only [calmFld, zeroAddr, mapStat, R.floorMapStat, R.keepFaultStat]
    omega

theorem calm_freeMemory (j : Job) : Calm s (s.freeMemory j) := by
  unfold State.freeMemory
  extract_lets runs u ps v w
  have hu : Calm s u := calm_foldl _ s fun x r => calm_setRights x _ _ _
  have hv : Calm u v := calm_of_regs rfl rfl id rfl
  have hw : Calm v w := calm_foldl _ v fun x g => (calm_setHash x g.seg).trans (calm_foldl _ _ fun y f =>
    calm_setReg_low y (by simp only [R.floorTwin, R.keepFaultStat]; omega) rfl)
  refine ((hu.trans hv).trans hw).trans (calm_foldl_mem _ w fun x k hk => calm_ite x (calm_wr x 0 ?_) (.refl x))
  have hk64 := List.mem_range.mp hk
  simp only [calmFld, zeroAddr, F.kenlCtrlEnable, R.kenlCtrl, R.keepFaultStat]
  omega

theorem calm_freeSession (k : Nat) : Calm s (s.freeSession k) := by
  refine .trans (calm_foldl_mem _ s fun u q hq => calm_wrs u _ ?_) (calm_of_regs rfl rfl id rfl)
  have hq16 : q < 16 := of_decide_eq_true (List.mem_filter.mp hq).2
  simp only [List.mem_cons, List.not_mem_nil, or_false, forall_eq_or_imp, forall_eq, calmFld, zeroAddr, F.cmdqQcfgOwned, F.cmdqQcfgSession, R.cmdqQcfg,
    R.keepFaultStat]
  omega

/-- Fields of the module's fault state but the state itself, and of the pass's. -/
theorem calmFld_status {g : Fld} (h : g = F.keepFaultStatJobFatal ∨ g = F.keepFaultStatFatalCause ∨ g = F.keepPassStatState) : calmFld g := by
  rcases h with rfl | rfl | rfl
  · simp [calmFld, F.keepFaultStatJobFatal]
  · simp [calmFld, F.keepFaultStatFatalCause]
  · simp [calmFld, zeroAddr, F.keepPassStatState, R.keepPassStat, R.keepFaultStat]

theorem calm_closeStep : Calm s s.closeStep := by
  unfold State.closeStep
  split
  · exact .refl s
  rename_i j _
  extract_lets shut cleared freed idle closed ks ended
  have hclear : Calm s cleared := (calm_closeTileWins s).trans (calm_foldl _ shut fun u t => calm_of_regs rfl rfl id rfl)
  have hfreed : Calm s freed := (hclear.trans (calm_cacheModes cleared)).trans (calm_freeMemory _ j)
  have hidle : Calm freed idle := calm_wrs freed _ fun p hp => calmFld_status (by
    simp only [List.mem_cons, List.not_mem_nil, or_false] at hp
    rcases hp with rfl | rfl | rfl <;> simp)
  have hclosed : Calm idle closed := .trans (v := ({ idle with job := none } : State).measure 6 [] []) (calm_of_regs rfl rfl id rfl) (calm_finish _ _ _ _)
  have hended : Calm closed ended := calm_foldl _ closed fun u k => calm_freeSession u k
  exact calm_ite s (.refl s) ((hfreed.trans (hidle.trans (hclosed.trans hended))).trans (calm_finish ended _ _ _))

theorem calm_abortJob : Calm s s.abortJob := by
  unfold State.abortJob
  split
  · exact .refl s
  extract_lets u
  have hu : Calm s u := calm_ite s (.refl s) (calm_wrs s _ fun p hp => calmFld_status (by
    simp only [List.mem_cons, List.not_mem_nil, or_false] at hp
    rcases hp with rfl | rfl <;> simp))
  exact calm_ite s (calm_closeStep s) ((hu.trans (calm_finish u _ _ _)).trans (calm_wr _ _ (calmFld_status (.inr (.inr rfl)))))

/-! ## Back in service -/

theorem calm_endHold : Calm s s.endHold := by
  unfold State.endHold
  extract_lets kept cleared u ps v
  have hcleared : Calm s cleared := calm_of_regs rfl rfl id rfl
  have hu : Calm cleared u := by
    unfold u
    split
    · rename_i h1
      have hrd : (cleared.wr F.keepFaultStatState 0).rd F.keepFaultStatState = 0 := State.rd_wr_same cleared _ 0 (by decide)
      refine ⟨⟨by rw [hrd, h1]; decide, fun f hf => .inl (State.rd_wr_addr cleared _ f 0 ?_), id⟩, rfl⟩
      obtain ⟨-, -, ha⟩ := hf
      simp only [zeroAddr] at ha
      simp only [F.keepFaultStatState, R.keepFaultStat]
      omega
    · exact .refl cleared
  have hv : Calm u v := calm_of_regs rfl rfl id rfl
  exact ((hcleared.trans hu).trans hv).trans ((calm_foldl _ v fun w p => calm_send w (framed_sendVia w _ _)).trans (calm_send _ (framed_resendPacks _)))

theorem calmFld_table {g : Fld} (h : (∃ i, g.addr = R.deckMapStat i) ∨ (∃ i, g.addr = R.floorMapStat i) ∨ ∃ i, g.addr = R.portMapStat i) : calmFld g := by
  simp only [calmFld, zeroAddr, R.keepFaultStat]
  rcases h with ⟨i, h⟩ | ⟨i, h⟩ | ⟨i, h⟩
  · simp only [R.deckMapStat] at h; omega
  · simp only [R.floorMapStat] at h; omega
  · simp only [R.portMapStat] at h; omega

theorem calm_tablesOk : Calm s s.tablesOk := by
  have hmaps : ∀ u : State, Calm u ((List.range 8).foldl (fun s i => s.wrs [(F.deckMapStatCrcOk i, 7), (F.floorMapStatCrcOk i, 7)]) u) := fun u =>
    calm_foldl _ u fun v i => calm_wrs v _ fun p hp => by
      simp only [List.mem_cons, List.not_mem_nil, or_false] at hp
      rcases hp with rfl | rfl
      · exact calmFld_table (.inl ⟨i, rfl⟩)
      · exact calmFld_table (.inr (.inl ⟨i, rfl⟩))
  unfold State.tablesOk
  extract_lets kept u v
  have hu : Calm s u := calm_of_regs rfl rfl id rfl
  exact (hu.trans (hmaps u)).trans (calm_foldl _ v fun w p => calm_wr w 7 (calmFld_table (.inr (.inr ⟨p, rfl⟩))))

theorem calm_barkPack (t : Nat) : Calm s (s.barkPack t) := by
  have hbark : ∀ (u : State) (p v : Nat), Calm u (u.wr (barkPackFld p) v) := fun u p v =>
    calm_wr u v (by simp [calmFld, zeroAddr, barkPackFld, R.keepBarkPack, R.keepFaultStat])
  unfold State.barkPack
  extract_lets p holds
  split
  rename_i v u heq
  have hu : Calm s u := by
    split at heq
    · cases heq; exact calm_of_regs rfl rfl id rfl
    · cases heq; exact .refl s
  exact hu.trans (hbark u p _)

theorem calm_resetTree {t : Nat} (ht : t < 16) : Calm s (s.resetTree t) := by
  unfold State.resetTree
  extract_lets os v u
  have hreg : Calm s v := calm_setReg s _ (by simp only [R.packTreeStat, R.keepFaultStat, zeroAddr]; omega)
  have hu : Calm v u := by
    refine .trans ?_ (calm_barkPack _ t)
    exact calm_of_regs rfl rfl id rfl
  refine (hreg.trans hu).trans (calm_foldl _ u fun w o => ?_)
  split
  · exact calm_post w (framed_complete w _ _ _)
  · exact .refl w

/-- The part of a return to service before the partition's state is set. -/
def State.restored (s : State) (r : ResetSt) : State :=
  let u := (if s.keep.hold.isSome then s.endHold else s).tablesOk
  if r.fabric then (List.range 16).foldl (fun s t => s.resetTree t) u else u

theorem calm_restored (r : ResetSt) : Calm s (s.restored r) := by
  have hu : Calm s (if s.keep.hold.isSome then s.endHold else s).tablesOk := (calm_ite s (calm_endHold s) (.refl s)).trans (calm_tablesOk _)
  exact calm_ite s (hu.trans (calm_foldl_mem _ _ fun v t ht => calm_resetTree v (List.mem_range.mp ht))) hu

/-- The reset is over, and HBM's contents are said to be kept or not. -/
def State.resetOver (s : State) (keep : Bool) : State := (s.modBoot fun b => { b with reset := none }).wr F.bootPartHbmKept (b2n keep)

/-- What the compute partition's state becomes, with the fault state where its cause is gone (R546). -/
def State.serviceWrites (s : State) (halt : Bool) : List (Fld × Nat) :=
  if s.rd F.keepFaultStatState ≠ 2 then [(F.bootPartCompute, 1)]
  else if halt ∨ s.causePersists then [(F.bootPartCompute, 3)]
  else [(F.keepFaultStatState, 0), (F.keepFaultStatMfatalCause, 0), (F.bootPartCompute, 1)]

theorem State.backInService_eq (r : ResetSt) : s.backInService r =
    State.finish (((s.restored r).resetOver r.keep).wrs (((s.restored r).resetOver r.keep).serviceWrites r.halt)) (fun w => decide (w = .computeReset)) sOK 0 := by
  have hwrs : ∀ u : State, (if u.rd F.keepFaultStatState ≠ 2 then u.wr F.bootPartCompute 1
      else if r.halt ∨ u.causePersists then u.wr F.bootPartCompute 3
      else u.wrs [(F.keepFaultStatState, 0), (F.keepFaultStatMfatalCause, 0), (F.bootPartCompute, 1)]) = u.wrs (u.serviceWrites r.halt) := fun u => by
    unfold State.serviceWrites
    split
    · rfl
    · split <;> rfl
  rw [← hwrs]
  rfl

theorem State.serviceWrites_addr {halt : Bool} {p : Fld × Nat} (hp : p ∈ s.serviceWrites halt) :
    p.1.addr = R.bootPart ∧ p.1.lo + p.1.w ≤ 2 ∨ p.1.addr = R.keepFaultStat := by
  unfold State.serviceWrites at hp
  split at hp
  · obtain rfl := List.mem_singleton.mp hp
    exact .inl (by decide)
  split at hp
  · obtain rfl := List.mem_singleton.mp hp
    exact .inl (by decide)
  · simp only [List.mem_cons, List.not_mem_nil, or_false] at hp
    rcases hp with rfl | rfl | rfl
    · exact .inr rfl
    · exact .inr rfl
    · exact .inl (by decide)

/-- What those writes leave, and the two states that the partition may take. -/
theorem State.serviceWrites_facts (halt : Bool) {d : State} (hd : d = s.wrs (s.serviceWrites halt)) :
    (d.boot = s.boot ∧ d.reqs = s.reqs ∧ d.hbmGen = s.hbmGen) ∧ (∀ f, zeroFld f → d.rd f = s.rd f) ∧
    d.on F.bootPartHbmKept = s.on F.bootPartHbmKept ∧ (s.rd F.keepFaultStatState ≠ 2 → d.rd F.bootPartCompute = 1) ∧
    (s.rd F.keepFaultStatState = 2 → halt = true → d.rd F.bootPartCompute = 3 ∧ d.rd F.keepFaultStatState = 2) := by
  subst hd
  have hone : ∀ v, v < 4 → (s.wrs [(F.bootPartCompute, v)]).rd F.bootPartCompute = v := fun v hv =>
    (State.rd_wr_same s _ v (by simp [F.bootPartCompute])).trans (Nat.mod_eq_of_lt hv)
  have hkept : ∀ f : Fld, f.lo + f.w ≤ 64 → f.addr ≠ R.keepFaultStat → f.addr ≠ R.bootPart ∨ 2 ≤ f.lo →
      (s.wrs (s.serviceWrites halt)).rd f = s.rd f := fun f hf hfault hpart => State.rd_wrs_of_apart hf _ s fun p hp => by
    have := s.serviceWrites_addr hp
    unfold Fld.apart
    omega
  refine ⟨⟨?_, ?_, ?_⟩, fun f hf => ?_, ?_, fun hfault => ?_, fun hfault hhalt => ?_⟩
  · rw [(s.wrs_only _).1]
  · rw [(s.wrs_only _).1]
  · rw [(s.wrs_only _).1]
  · obtain ⟨hlo, hw, ha⟩ := hf
    simp only [zeroAddr] at ha
    refine hkept f (by omega) ?_ (.inl ?_)
    · simp only [R.keepFaultStat]; omega
    · simp only [R.bootPart]; omega
  · rw [State.on, State.on, hkept _ (by decide) (by decide) (.inr (by decide))]
  · rw [State.serviceWrites, if_pos hfault]
    exact hone 1 (by decide)
  · rw [State.serviceWrites, if_neg (not_not_intro hfault), if_pos (.inl hhalt)]
    exact ⟨hone 3 (by decide), (State.rd_wr_addr s _ _ _ (by decide)).trans hfault⟩

theorem State.resetOver_facts (keep : Bool) : Settles s (s.resetOver keep) ∧ (s.resetOver keep).hbmGen = s.hbmGen ∧ (s.resetOver keep).boot.reset = none ∧
    (s.resetOver keep).on F.bootPartHbmKept = keep := by
  have hover : Calm s (s.resetOver keep) := .trans (v := s.modBoot fun b => { b with reset := none }) (calm_of_regs rfl rfl id rfl)
    (calm_wr _ _ (by simp [calmFld, zeroAddr, F.bootPartHbmKept, R.bootPart, R.keepFaultStat]))
  refine ⟨hover.toSettles, hover.gen, rfl, ?_⟩
  rw [State.on, State.resetOver, State.rd_wr_same _ _ _ (by decide)]
  cases keep <;> rfl

/-- The partition returns to service, or stays halted (R546). -/
theorem State.backInService_facts (r : ResetSt) {z : State} (hz : z = s.backInService r) :
    z.boot.reset = none ∧ (s.reqs = [] → z.reqs = []) ∧ z.hbmGen = s.hbmGen ∧ z.on F.bootPartHbmKept = r.keep ∧
    (∀ f, zeroFld f → s.rd f = 0 → z.rd f = 0) ∧ (s.rd F.keepFaultStatState ≠ 2 → z.rd F.bootPartCompute = 1) ∧
    (s.rd F.keepFaultStatState = 2 → r.halt = true → z.rd F.bootPartCompute = 3 ∧ z.rd F.keepFaultStatState = 2) ∧
    ∀ w ∈ z.host.waits, w.why ≠ .computeReset := by
  rw [s.backInService_eq] at hz
  obtain ⟨hsettles, hgen, hreset, hkept⟩ := (s.restored r).resetOver_facts r.keep
  have hrest := calm_restored s r
  generalize (s.restored r).resetOver r.keep = u at hz hsettles hgen hreset hkept
  have hback := hrest.toSettles.trans hsettles
  obtain ⟨d, hd⟩ : ∃ d, d = u.wrs (u.serviceWrites r.halt) := ⟨_, rfl⟩
  rw [← hd] at hz
  obtain ⟨⟨hdboot, hdreqs, hdgen⟩, hdzero, hdkept, hdone, hdhalt⟩ := u.serviceWrites_facts r.halt hd
  have hend := completed_finish d (fun w => decide (w = .computeReset)) sOK 0
  have hcalm := calm_finish d (fun w => decide (w = .computeReset)) sOK 0
  have hwaits := d.mem_waits_finish (fun w => decide (w = .computeReset)) sOK 0
  rw [← hz] at hend hcalm hwaits
  have hrd : ∀ f : Fld, 0x2400 ≤ f.addr → z.rd f = d.rd f := fun f hf => hend.rd hf
  refine ⟨?_, fun hr => hcalm.reqs (hdreqs.trans (hback.reqs hr)), (hcalm.gen.trans hdgen).trans (hgen.trans hrest.gen), ?_, fun f hf h0 => ?_, fun h => ?_, fun h hhalt => ?_,
    fun w hw => of_decide_eq_false ((hwaits w).mp hw).2⟩
  · rw [hend.1]
    exact (congrArg BootSt.reset hdboot).trans hreset
  · rw [State.on, hrd _ (by decide), ← State.on, hdkept, hkept]
  · exact hcalm.stays hf ((hdzero f hf).trans (hback.stays hf h0))
  · exact (hrd _ (by decide)).trans (hdone fun h2 => h (hback.fault.mp h2))
  · obtain ⟨hcompute, hstay⟩ := hdhalt (hback.fault.mpr h) hhalt
    exact ⟨(hrd _ (by decide)).trans hcompute, hcalm.fault.mpr hstay⟩

/-! ## The whole timeline -/

/-- The partition's traffic, entries, windows and tiles are gone (R542). -/
def State.swept (s : State) (r : ResetSt) : State :=
  (((s.quietSlices.clearEpochs (!r.fabric)).dropTraffic.closeAllTileWins).resetTiles).clearCounts (ctrTile 0 0) (ctrSlice 511 3)

theorem State.swept_facts (r : ResetSt) : Calm s (s.swept r) ∧ (s.swept r).reqs = [] ∧
    (∀ n e, n < 512 → 1 ≤ e → e ≤ 15 → (s.swept r).rd (etState n e) = 0) ∧ ∀ t n, t < tileCount → n < 4 → (s.swept r).rd (F.tileWinState t n) = 0 := by
  have hquiet := calm_quietSlices s
  obtain ⟨hclear, hfree⟩ := s.quietSlices.clearEpochs_facts (!r.fabric)
  obtain ⟨hdrop, hreqs⟩ := (s.quietSlices.clearEpochs (!r.fabric)).dropTraffic_facts
  have hwins := calm_closeAllTileWins (s.quietSlices.clearEpochs (!r.fabric)).dropTraffic
  obtain ⟨htiles, hclosed⟩ := (s.quietSlices.clearEpochs (!r.fabric)).dropTraffic.closeAllTileWins.resetTiles_facts
  have hcount := calm_clearCounts (s.quietSlices.clearEpochs (!r.fabric)).dropTraffic.closeAllTileWins.resetTiles (ctrTile 0 0) (ctrSlice 511 3)
  have hlater := (hwins.trans htiles).trans hcount
  exact ⟨((hquiet.trans hclear).trans hdrop).trans hlater, hlater.reqs hreqs,
    fun n e hn h1 h15 => (hdrop.trans hlater).stays (zeroFld_etState hn ⟨h1, h15⟩) (hfree n e hn h1 h15),
    fun t n ht hn => hcount.stays (zeroFld_tileWin t hn) (hclosed t n ht hn)⟩

/-- HBM's contents are lost unless they are to be kept (R541). -/
def State.contentsKept (s : State) (keep : Bool) : State := if keep then s else s.loseHbm.floorInit

theorem State.contentsKept_facts (keep : Bool) : Settles s (s.contentsKept keep) ∧ (s.contentsKept keep).hbmGen = s.hbmGen + (if keep then 0 else 1) := by
  cases keep with
  | true => exact ⟨(Calm.refl s).toSettles, rfl⟩
  | false =>
    have hlost : Settles s s.loseHbm := ⟨.rfl, fun _ _ => .inl rfl, id⟩
    have hinit := calm_floorInit s.loseHbm
    exact ⟨hlost.trans hinit.toSettles, hinit.gen⟩

/-- The arbiters start anew, no stack is in self-refresh, and the job is aborted. -/
def State.jobless (s : State) : State := ({ s.freshArbiters with selfRef := [] } : State).abortJob

theorem calm_jobless : Calm s s.jobless :=
  .trans (v := { s.freshArbiters with selfRef := [] }) (calm_of_regs rfl rfl id rfl) (calm_abortJob _)

theorem State.resetDone_eq (r : ResetSt) : s.resetDone r = ((s.swept r).contentsKept r.keep).jobless.backInService r := rfl

end

theorem computeResetDone_facts {s : State} {r : ResetSt} (hr : s.boot.reset = some r) (hpass : s.pass = none) (hkeeper : s.keep.restarting = false) :
    leads (exec .computeResetDone s) fun z => z.boot.reset = none ∧ z.reqs = [] ∧ z.hbmGen = s.hbmGen + (if r.keep then 0 else 1) ∧
      z.on F.bootPartHbmKept = r.keep ∧ (∀ n e, n < 512 → 1 ≤ e → e ≤ 15 → z.rd (etState n e) = etFREE) ∧
      (∀ t n, t < tileCount → n < 4 → z.rd (F.tileWinState t n) = 0) ∧
      (s.rd F.keepFaultStatState ≠ 2 → z.rd F.bootPartCompute = 1) ∧
      (s.rd F.keepFaultStatState = 2 → r.halt = true → z.rd F.bootPartCompute = 3 ∧ z.rd F.keepFaultStatState = 2) ∧
      ∀ w ∈ z.host.waits, w.why ≠ .computeReset := by
  have hexec : exec .computeResetDone s = .next (s.resetDone r) := by
    show execComputeResetDone s = _
    rw [execComputeResetDone, hr]
    dsimp only
    rw [if_neg (by simp [hpass, hkeeper])]
  rw [hexec, s.resetDone_eq]
  obtain ⟨hswept, hreqs, hfree, hclosed⟩ := s.swept_facts r
  obtain ⟨hkept, hgen⟩ := (s.swept r).contentsKept_facts r.keep
  have hjob := calm_jobless ((s.swept r).contentsKept r.keep)
  have hend := hkept.trans hjob.toSettles
  obtain ⟨hreset, hzreqs, hzgen, hzkept, hzzero, hup, hhalted, hwaits⟩ := ((s.swept r).contentsKept r.keep).jobless.backInService_facts r rfl
  have hzf : ∀ f, zeroFld f → (s.swept r).rd f = 0 → (((s.swept r).contentsKept r.keep).jobless.backInService r).rd f = 0 := fun f hf h0 =>
    hzzero f hf (hend.stays hf h0)
  have hstate := hend.fault.trans hswept.fault
  exact leads_next ⟨hreset, hzreqs (hend.reqs hreqs), by rw [hzgen, hjob.gen, hgen, hswept.gen], hzkept,
    fun n e hn h1 h15 => hzf _ (zeroFld_etState hn ⟨h1, h15⟩) (hfree n e hn h1 h15), fun t n ht hn => hzf _ (zeroFld_tileWin t hn) (hclosed t n ht hn),
    fun h => hup fun h2 => h (hstate.mp h2), fun h => hhalted (hstate.mpr h), hwaits⟩

end Sys2Proof.Machine
end

section
open Sys2Proof Sys2Proof.Machine

/-- Settles O35: CHANNEL_RETRAIN_DONE by its three outcomes, and COMPUTE_RESET_DONE by what each act of the timeline leaves alone. -/
theorem retrainAndReset : Obligations.RetrainAndReset := by
  unfold Obligations.RetrainAndReset
  intro s
  constructor
  · intro r _ hpop hwaits h c htrain two
    exact ⟨channelUp_facts hpop hwaits htrain, channelTwoLanes_facts hpop hwaits htrain, channelFailed_facts hpop hwaits htrain⟩
  · intro r hreset hpass hkeeper
    exact computeResetDone_facts hreset hpass hkeeper

end
